-- ==== Sys2Proof/Word.lean ====
section
/-! DEFINITION. The word types of the YT9620 model: the widths in which the manual counts bits. -/
namespace Sys2Proof

/-- A byte of a register page, a record or a buffer. -/
abbrev Byte := BitVec 8

/-- A 16-bit field. -/
abbrev Word16 := BitVec 16

/-- A 32-bit register or descriptor field. -/
abbrev Word32 := BitVec 32

/-- A 64-bit register, such as a Timebase value in the form T64 (R283). -/
abbrev Word64 := BitVec 64

/-- A 32-bit object identifier (R357): device index, kind, index. -/
abbrev Id := BitVec 32

/-- The bits of the 40-byte inline block of a descriptor (R346), byte 0 lowest (R3). -/
abbrev Inline := BitVec 320

end Sys2Proof
end

