-- ==== Sys2Proof/Types.lean ====
section
/-! DEFINITION. The plain data types that the commands (Sys2Proof/Syntax.lean) and the state share: object kinds, statuses, descriptors and the measured inputs that come from outside the block. -/
namespace Sys2Proof

/-- The object kinds of R14 and R357; `device` is kind 0x00. -/
inductive Kind where
  | device | pass | fmd | amd | ee | prog | port | fcar | dcar | cue | alo | conv | cap | group
  deriving DecidableEq, Repr

/-- An object of this device: kind and index (R357). -/
structure Ref where
  kind : Kind
  idx : Nat
  deriving DecidableEq, Repr

/-- The three states of an object (R358). -/
inductive ObjSt where
  | closed | held | run
  deriving DecidableEq, Repr

/-- The status codes of R375, in code order from 0x00. -/
inductive Status where
  | ok | badOpcode | badObject | badParam | editWhileRunning | resourcesExhausted | loNotReady
  | lengthExceeds | notPermitted | fenced | timeout | aborted
  deriving DecidableEq, Repr

/-- One row of a field table: place, width, reset value, whether it is RWL (R5), and, for an enumerated
field, how many codes from 0 on are assigned (0: not enumerated, no reserved code). -/
structure Field where
  lsb : Nat
  width : Nat
  reset : Nat := 0
  live : Bool := false
  codes : Nat := 0
  deriving DecidableEq, Repr

/-- A command descriptor as the device copies it (R346): its ring, its fields, and what host memory holds in its
parameter buffer at take-up. `readOk` is false when the read of the descriptor or the buffer fails (R345). -/
structure Desc where
  ring : Nat := 0
  opcode : Word16 := 0
  tag : Word16 := 0
  object : Id := 0
  flags : Word32 := 0
  plen : Word32 := 0
  bufAddr : Word64 := 0
  inl : Inline := 0
  buf : List Byte := []
  readOk : Bool := true
  deriving DecidableEq, Repr

/-- The strap pins of R448. -/
structure Straps where
  bootSrc : BitVec 2 := 0
  refSel : BitVec 2 := 0
  lkfUse : Bool := false
  madr : BitVec 3 := 0
  mstrPri : BitVec 3 := 0
  deriving DecidableEq, Repr

/-- What a release of a device reset meets outside the block: the straps, the temperature that the factory table is
read at, and the MRAM content that fails its check word at this load (R417, R418, R439). -/
structure ReleaseIn where
  straps : Straps := {}
  /-- Junction temperature in 1/16 °C. -/
  tj : Int := 0
  /-- MRAM copies that no longer pass: record ID, and true for copy A, false for copy B. -/
  damaged : List (Nat × Bool) := []
  /-- Sequence numbers of persisted Dailies entries whose check word fails (R439). -/
  badDailies : List Nat := []
  deriving DecidableEq, Repr

/-- What the two lock indications measure (R20, R22): V_LKF in 0.1 mV, the largest phase error of a run of reference
cycles in ps, the smallest of that run, and the number of cycles in the run. -/
structure LockMeas where
  lkf : Nat := 0
  maxErr : Nat := 0
  minErr : Nat := 0
  cycles : Nat := 0
  deriving DecidableEq, Repr

/-- The events that raise an asynchronous wake request (R33). -/
inductive WakeSource where
  | doorbell | pcieAccess | busStart | dataPlane | wakeTimer
  deriving DecidableEq, Repr

/-- A register space that the host writes without a row of its own (R338, R356). -/
inductive RegSpace where
  /-- BAR0, at a byte address. -/
  | bar0 (addr : Nat)
  /-- BAR2, at a byte address. -/
  | bar2 (addr : Nat)
  /-- MSI-X enable in the endpoint's capability. -/
  | msixEnable
  /-- Function Mask in the MSI-X capability. -/
  | msixFunctionMask
  /-- PTM enable in the PTM capability (R287). -/
  | ptmEnable
  deriving DecidableEq, Repr

/-- What removes a hold from MSI-X messages (R356). -/
inductive UnmaskEvent where
  | enable
  | clearFunctionMask
  | unmask (vector : Nat)
  deriving DecidableEq, Repr

/-- The memory regions of R432, in its row order. -/
inductive MemRegion where
  | plainPassDemod | engine | decoder | queues | management
  deriving DecidableEq, Repr

/-- An uncorrectable SRAM word (R432): region, owning object, word address. -/
structure BadWord where
  region : MemRegion
  owner : Id
  address : Word32
  deriving DecidableEq, Repr

/-- One entry of the BOOT ring (R355), with the data bytes that follow its header. -/
structure BootEntry where
  offset : Nat
  last : Bool
  data : List Byte
  deriving DecidableEq, Repr

/-- How a bus transfer ends (R390, R392). -/
inductive BusEnd where
  | stop | repeatedStart
  deriving DecidableEq, Repr

/-- What the boot flash gives of one copy (R451, R453): no answer, or the bytes read. -/
inductive FlashRead where
  | noAnswer
  | bytes (data : List Byte)
  deriving DecidableEq, Repr

/-- The causes of a converter failure, in the code order of R70 from 0x1; `match_` is 0x4 MATCH. -/
inductive FailCause where
  | stuck | clock | bias | match_
  deriving DecidableEq, Repr

/-- Converter words after the converter's own correction: those of ADC0 to ADC4 from a CK_RF count on, one a cycle, without the matching
pilot (R57, R59). -/
structure WordsIn where
  at_ : Nat := 0
  adc : List (List Int) := []
  deriving DecidableEq, Repr

/-- What a branch's input meets after the frame, within the reach of a filter: its gain state, and whether it is GAP, from a Plain sample
on. `key` is 0 to 3 for a local input and 8 + 4 × device + input for a remote one. -/
structure AheadIn where
  key : Nat
  sample : Nat
  lna : Nat := 0
  att : Nat := 0
  gap : Bool := false
  deriving DecidableEq, Repr

/-- A subband sample that a remote stream brings (R305): origin, input, subband, Plain sample index, and its value m × 2^E in units of
2^-8. -/
structure SubSample where
  device : Nat
  input : Nat
  subband : Nat
  sample : Nat
  val : Int × Int
  deriving DecidableEq, Repr

/-- What arrives for a Pass's block from outside: the converter words up to the end of the filters' reach, what the inputs meet there, the
remote streams' quality bytes (origin, sample, bytes) and samples, and streams that fail to arrive (R57, R95, R305). -/
structure PassIn where
  words : WordsIn := {}
  ahead : List AheadIn := []
  quality : List (Nat × Nat × List Byte) := []
  subs : List SubSample := []
  absent : List Nat := []
  deriving DecidableEq, Repr

/-- The figures of R133 that a demodulator measures over a tick, in the encodings given there. -/
structure Figures where
  level : Int := 0
  cnr : Int := 0
  multipath : Nat := 0
  pilotDev : Nat := 0
  devPeak : Nat := 0
  offset : Int := 0
  modPeak : Nat := 0
  /-- Branch weights, w_b × 255. -/
  weights : List Nat := []
  deriving DecidableEq, Repr

/-- A span of a SUM item as it arrives (R321): the receiving object, the contributor's member index and Plain frame, the period and the instant of
the first sample in CK_RF cycles of the contributor's time, the combined samples in units of 2^-16, and the frame's signal and noise
powers S and N, summed over its samples in units of 2^-16. -/
structure SumSpan where
  obj : Id
  device : Nat
  frame : Nat
  period : Nat
  first : Nat
  vals : List (Int × Int)
  s : Nat
  n : Nat
  deriving DecidableEq, Repr

/-- An OFDM symbol of a SUM item as it arrives (R321): the receiving engine and channel, the contributor's member index, the instant at which the symbol begins in
CK_RF cycles of the contributor's time, its number in the frame, the combined term and the CSI of each carrier, and whether the contributor's Pass has the
receiver's tune frequency and class. -/
structure SumSymbol where
  obj : Id
  chan : Nat
  device : Nat
  at_ : Nat
  sym : Nat
  z : List (Int × Int)
  csi : List Int
  same : Bool
  deriving DecidableEq, Repr

/-- What a demodulator's block meets besides its Pass. -/
structure DemodIn where
  /-- A SUM item's contributor does not run on a Pass of the same frequency and class (R321). -/
  sumBad : Bool := false
  deriving DecidableEq, Repr

/-- Which offset word a block carried (R125, R128). -/
inductive RdsOffset where
  | a | b | c | cPrime | d | e | none
  deriving DecidableEq, Repr

/-- The status of an RDS block, in the code order of R129. -/
inductive RdsStat where
  | ok | corrSmall | corrLarge | bad
  deriving DecidableEq, Repr

/-- One RDS block as decoded: word, offset recognised, status. -/
structure RdsBlk where
  word : Word16
  offset : RdsOffset
  stat : RdsStat
  deriving DecidableEq, Repr

/-- One RDS group as decoded: up to four blocks in their places, MER in 0.25 dB, bits corrected; block A starts that many CK_RF cycles before the
event (R129). -/
structure RdsGroup where
  blocks : List RdsBlk
  mer : Nat
  cbits : Nat
  sub : Nat
  deriving DecidableEq, Repr

/-- The 26-bit blocks of a group as they stand in the bit stream, information word first, its MER, and the start of block A before the event;
none: those that the FMD's own bit decoder holds (R124). -/
structure RdsGroupIn where
  raw : Option (List (BitVec 26) × Nat × Nat) := none
  deriving DecidableEq, Repr

/-- A calibration run's measured values (R408, R413). -/
structure CalMeas where
  /-- Converter: 16 taps of DELAY, GAIN, OFFSET and THR0 to THR12, 16 numbers a tap. TX: leakage I, leakage Q, gain, phase. -/
  vals : List Int := []
  /-- Converter: largest spur in 0.1 dBFS. TX: residual leakage in 0.1 dBc. -/
  spur : Int := 0
  /-- TX: residual image in 0.1 dBc. -/
  image : Int := 0
  deriving DecidableEq, Repr

/-- What MANAGEMENT_TICK meets: the measured temperatures (1/16 °C, six sensors) and supplies (mV, six), descriptors in the
rings whose opcode no row names, the carriers' measured levels in 1/16 dBm,
MER_TX in 0.25 dB and peak deviations in 100 Hz (FCAR0 to 23, then DCAR0 to 3), saturated DAC words since the last tick, the
largest converter peaks over the last tick in 1/16 dB (CONV0 to CONV4, R70), and the CTL_VAL that the root loop asks for (R19). -/
structure TickIn where
  temps : List Int := []
  volts : List Nat := []
  descs : List Desc := []
  levels : List Int := []
  mers : List Int := []
  peaks : List Int := []
  ctl : Option (BitVec 20) := none
  /-- The offsets δ of other members' Plain grids from this device's, in 1/64 CK_RF cycle, as far as they are measured (R316). -/
  deltas : List (Nat × Int) := []
  deriving DecidableEq, Repr

/-- One entry of an alternative-frequency or linkage list (R185). -/
structure AltE where
  std : Nat
  flags : Nat
  eid : Nat
  freq : Nat
  deriving DecidableEq, Repr

/-- A decoded alternative-frequency or linkage list (R185). -/
structure AltIn where
  keyKind : Nat
  key : Nat
  src : Nat
  flags : Nat
  lsn : Nat
  entries : List AltE
  deriving DecidableEq, Repr

/-- What one decoded entry of side data says (R177 to R180): the contents of FIGs, SDC and AMSS entities, as the broadcast
standards code them. -/
inductive Fact where
  /-- FIG 0/0: ensemble, CIF count, alarm flag, and the CIF count of an announced reconfiguration. -/
  | ensemble (eid cif : Nat) (al : Bool) (change : Option Nat)
  /-- A sub-channel's organisation; `next` for the next configuration. -/
  | subch (next : Bool) (id start size prot : Nat)
  /-- A component of a service: sub-channel or stream, TYPE of R183, primary, bit rate, conditional access. -/
  | comp (next : Bool) (keyKind key subch type : Nat) (primary : Bool) (bitrate : Nat) (ca : Bool)
  | lang (keyKind key lang : Nat)
  | pty (keyKind key pty : Nat)
  | ecc (keyKind key ecc : Nat)
  /-- A text: TYPE and CHARSET of R184. -/
  | label (keyKind key type charset : Nat) (text : List Byte)
  | alt (a : AltIn)
  /-- FIG 0/18 support and FIG 0/19 switching. -/
  | annSupport (key types : Nat) (clusters : List Nat)
  | annSwitch (cluster types subch : Nat)
  /-- A service with no other data yet: DRM service identifier, or AMSS identifier. -/
  | service (keyKind key : Nat)
  /-- Entry declared longer than the rest of its FIG (R178). -/
  | truncated
  deriving DecidableEq, Repr

/-- One AMSS block (R132); `sub` places its start before the event; `facts`: the data entities that end in it,
from the first block of their group on (R180). -/
structure AmssIn where
  block : Nat
  ok : Bool
  nbits : Nat
  bits : Word32
  sub : Nat
  facts : List Fact := []
  /-- The block is the one that the AMD's own phase demodulation holds in its last bits (R131). -/
  fromBits : Bool := false
  deriving DecidableEq, Repr

/-- What the standard reads in a FAC that passed its check (R154, R164): frame position, occupancy, hierarchical modulation, the code of its interleaving,
constellation and protection, whether its change takes effect at this frame, services. -/
structure FacIn where
  frame : Nat
  occ : Nat
  hier : Bool
  layout : Nat
  changes : Bool
  constellation : Nat
  short : Bool
  facts : List Fact
  deriving DecidableEq, Repr

/-- What the standard reads in an SDC block that passed its check (R150, R179): whether the AFS index shows it unchanged, the identity, and what the
entities say, each fact with its entity's number in the block. -/
structure SdcIn where
  unchanged : Bool
  identity : Nat
  entities : List (Nat × Fact)
  deriving DecidableEq, Repr

/-- The figures of R166 for one channel, in the encodings given there. -/
structure EeFigures where
  merA : Int := 0
  merSdc : Int := 0
  merMsc : Int := 0
  wmerMsc : Int := 0
  offset : Int := 0
  sro : Int := 0
  delaySpread : Nat := 0
  snr : List Nat := []
  deriving DecidableEq, Repr

/-- The audio that a programme's decoder gives for one delivered frame (R202, R205, R207): the programme, whether a check of the unit
failed, rate in S/s, channels as coded, bit rate, the samples. -/
structure ProgAudio where
  prog : Nat
  err : Bool := false
  rate : Nat := 48000
  channels : Nat := 2
  bitrate : Nat := 0
  samples : List (Int × Int) := []
  deriving DecidableEq, Repr

/-- What a TDM frame meets: the DI words that were sampled. -/
structure PortIn where
  di : List Int := []
  deriving DecidableEq, Repr

/-- A measured sweep point (R273, R275): power at RFIN_D in 1/16 dBm, phase, BLOCKED, CLIP, FLOOR. -/
structure SweepIn where
  power : Int
  phase : Int
  clip : Bool
  floor : Bool
  deriving DecidableEq, Repr

/-- The two ports of the Hihanan Link (R304). -/
inductive HhlPort where
  | up | dn
  deriving DecidableEq, Repr

/-- A Timebase change carried in TBCHG (R318). -/
inductive TbChange where
  | step (offset : Int)
  | slew (offset : Int) (rate : Nat)
  | freq (inc : Word64)
  | set (sec ns : Nat)
  deriving DecidableEq, Repr

/-- A Clapper symbol (R313). T_SEND is in 1/256 ns; `next` is pending epoch, digest and tick. -/
structure ClapperIn where
  master : Nat
  deputy : Nat
  serial : Word64
  epoch : Word32
  digest : Word64
  tickIdx : Nat
  tSend : Nat
  next : Nat × Nat × Nat
  tbchg : Option TbChange
  flags : Byte
  deriving DecidableEq, Repr

/-- An entry of the cascade table (R308, R323, R333): state FREE, MEMBER, FENCED or ABSENT in code order 0 to 3, cause, firmware
version, serial number, time error in 0.25 ns, delay in 0.1 ns. -/
structure CasEntry where
  st : Nat := 0
  cause : Nat := 0
  major : Nat := 0
  minor : Nat := 0
  serial : Nat := 0
  e : Int := 0
  d : Nat := 0
  deriving DecidableEq, Repr

/-- An entry of the item table (R320). -/
structure CasItem where
  isMirror : Bool
  from_ : Nat
  to_ : Nat
  chan : Nat
  fromObj : Id
  toObj : Id
  deriving DecidableEq, Repr

/-- The shared configuration (R323): the cascade table, the item table, the groups with members on several devices. -/
structure CasTables where
  members : List CasEntry
  items : List CasItem
  groups : List (Nat × List Id)
  deriving DecidableEq, Repr

/-- What the service channel of a word group brings (R305, R329). -/
inductive LinkItem where
  /-- A command that the master carries to this member. -/
  | command (d : Desc)
  /-- The result of a command that this master carried: tag, status, detail, bytes returned. -/
  | result (tag : Word16) (status : Status) (detail : Nat) (ret : List Byte)
  /-- A record of another member, for the host's rings of that kind. -/
  | record (kind : Nat) (bytes : List Byte)
  /-- A span of a mirrored programme: rate in S/s, and the CK_RF instant of its first sample on this device's count. -/
  | mirror (prog rate start : Nat) (samples : List (Int × Int)) (absent : Bool)
  /-- Capacity units of an engine of another member: engine, CIF count, FRAME_TIME in 1/256 ns, each sub-channel's start, size, protection, coding as DAB+ and
  bytes, and the FIBs that came with it: place, CRC result, data (R259, R319). -/
  | cu (engine : Id) (count time : Nat) (absent : Bool) (subs : List (Nat × (Nat × Nat × Nat × Bool) × List Byte)) (fibs : List (Nat × Bool × List Byte))
  /-- The master's tables. -/
  | tables (t : CasTables) (epoch : Nat)
  /-- A device that joins: serial number and firmware version (R308). -/
  | join (serial major minor : Nat)
  /-- The tag of a command that the master completes (R327). -/
  | tag (tag : Word16)
  /-- A span of a SUM item of an FMD or AMD (R321). -/
  | sum (x : SumSpan)
  | symbol (x : SumSymbol)
  deriving DecidableEq, Repr

/-- A word group (R305): index bits 15:0, sender, master, HB, FENCED, EPOCH[7:0], origins with their quality bytes, numbers of
the streams carried, the service channel. -/
structure WordGroupIn where
  index : Nat
  sender : Nat
  master : Nat
  hb : Bool
  fenced : Bool
  epoch : Nat
  quality : List (Nat × List Byte) := []
  streams : List Nat := []
  /-- The samples of the streams, with their places named by the master's numbering: origin, input, subband, mantissas, exponent. -/
  subs : List (Nat × Nat × Nat × (Int × Int) × Nat) := []
  items : List LinkItem := []
  deriving DecidableEq, Repr

/-- What JOIN_ALIGN meets (R315, R325): the Plain sample index that the boundary takes, the index the master assigns (none when
eight members are present), the master's tables, firmware version and Timebase at the boundary. -/
structure JoinIn where
  plain : Nat
  index : Option Nat
  tables : CasTables
  epoch : Nat
  major : Nat
  minor : Nat
  sec : Nat
  ns : Nat
  frac : Nat
  inc : Word64
  slew : Option (Int × Nat)
  unset : Bool
  deriving DecidableEq, Repr

end Sys2Proof
end

