-- ==== Sys2Proof/Syntax.lean ====
section
/-! DEFINITION. The commands of the block: one constructor per row of spec/opcode_table.json, with the row's operands. `t` is
the instant of an event in CK_RF cycles since Plain sample 0 (R7); an instant already passed means the present one. The
other operands are what comes from outside the block: pin levels, measured values, samples, descriptors. -/
namespace Sys2Proof

/-- The commands. -/
inductive Instr where
  -- reset and start-up (R435, R443 to R447)
  /-- A low level on PORST_N, of `ns` nanoseconds. -/
  | porstNAssert (ns : Nat)
  /-- A low level on WRST_N, of `ns` nanoseconds. -/
  | wrstNAssert (ns : Nat)
  | resetRelease (r : ReleaseIn)
  /-- Supply 0 to 5 reads `mv`. -/
  | brownOut (supply mv : Nat)
  /-- The six supplies in mV, how long every monitored one has stayed above its limit plus margin, whether PORST_N is still low. -/
  | brownOutEnd (volts : List Nat) (ns : Nat) (porstLow : Bool) (r : ReleaseIn)
  /-- A sensor 0 to 5 reads `reading` in 1/16 °C. -/
  | thermalTrip (sensor : Nat) (reading : Int)
  | thermalTripEnd (temps : List Int) (r : ReleaseIn)
  /-- The words whose second read-back failed in the wipe. -/
  | outputRelease (bad : List BadWord)
  -- reference and root loop (R20 to R28, R36)
  /-- `cycles` consecutive good reference cycles; the phase of the ring's edge against the reference edge, in ps. -/
  | refQualified (t cycles : Nat) (phase : Int)
  /-- Missing edges in a row, the shortest period in CK_RF cycles, CTL_VAL 16 reference periods before. -/
  | refLoss (t missing period : Nat) (ctlBefore : BitVec 20)
  /-- The window's average deviation in 0.01 ppm, and CTL_VAL 16 reference periods before. -/
  | refFreqWindowEnd (t : Nat) (avg : Int) (ctlBefore : BitVec 20)
  | rootLockDeclared (t : Nat) (m : LockMeas)
  | rootUnlock (t : Nat) (m : LockMeas) (ctlBefore : BitVec 20)
  /-- Nanoseconds since the release, and the present temperature in 1/16 °C. -/
  | refWaitExpiry (waited : Nat) (tj : Int)
  | lockDisagree (t : Nat) (lkf win : Bool)
  -- management tick, wake, doorbells (R10, R32, R33, R342)
  | managementTick (i : TickIn)
  | wakeRequest (t : Nat) (src : WakeSource)
  | wakeTimer
  /-- The value, and what host memory holds in the entries that it adds to a FEED ring. -/
  | doorbellWrite (t ring : Nat) (value : Word32) (entries : List (List Byte))
  -- Agile LOs (R40 to R44): `alo` 0 is ALO_RX, 1 is ALO_TX
  /-- Coarse band and fine value found, and what the digital window measures. -/
  | aloLock (t alo band fine : Nat) (m : LockMeas)
  | aloSearchFail (t alo : Nat)
  | aloUnlock (t alo : Nat) (m : LockMeas)
  | rampSegmentEnd (t : Nat)
  -- aerial inputs (R48 to R56): `x` is the input, 0 A to 3 D; peaks are the largest |x| of 12-bit converter words
  /-- At boundary `t`, the Plain sample that ends there had this peak; `clip`: a word stood at -2048 or +2047. -/
  | agcAttack (t x peak : Nat) (clip : Bool)
  /-- At boundary `t`, the largest peak over the span of AGC_HOLD that ends there. -/
  | agcRelease (t x peak : Nat)
  | gainStep (x : Nat)
  | pselBlankEnd (x : Nat)
  -- the Stand-in (R59 to R66)
  | matchWindowOpen
  /-- The corrections estimated: gain in 2^-16, delay in 0.01 ps, offset in 1/16 LSB. -/
  | matchWindowClose (gain delay offset : Int)
  /-- The residuals over the check frame, in the same units. -/
  | standinCheck (gain delay offset : Int)
  | standinVisit (t : Nat)
  /-- Converter 0 to 4 fails in the Plain sample `k`, declared at `t`. -/
  | convFail (t c k : Nat) (cause : FailCause)
  | crossbarMove
  | failoverSwitch
  /-- At boundary `t`, a Plain sample of the input had this peak. -/
  | agcLimitEpisodeEnd (t x peak : Nat)
  -- Passes and captures (R92 to R103)
  /-- Pass `p` delivers its block for Plain frame `f`. -/
  | passBlock (f p : Nat) (i : PassIn)
  | settleGateOpen (p : Nat)
  | capCountEnd (c : Nat)
  -- demodulators (R105 to R132)
  /-- Demodulator `d` (AMD when `am`) delivers its block for Plain frame `f`. -/
  | demodBlock (f : Nat) (am : Bool) (d : Nat) (i : DemodIn)
  | fmdGateOpen (d : Nat)
  | fmdConcealLimit (t d : Nat)
  | amdConcealLimit (t d : Nat)
  /-- The 128-frame window that ends at frame `f`: pilot deviation in 10 Hz, RMS phase error in 0.1°. -/
  | pilotWindowEnd (f d dev rms : Nat)
  /-- The offset of the second valid word. -/
  | rdsSync (t d : Nat) (words : Option (BitVec 26 × BitVec 26))
  /-- `loop`: the Costas loop lost lock; otherwise RDS_LOSS_N BAD blocks. -/
  | rdsLoss (t d : Nat) (loop : Bool)
  | rdsGroup (t d : Nat) (g : RdsGroupIn)
  /-- The 128-frame window that ends at frame `f`: RMS phase error in 0.1°, loop frequency in 0.1 Hz. -/
  | carrierWindowEnd (f d rms : Nat) (offset : Int)
  | amssBlock (t d : Nat) (b : AmssIn)
  -- ensemble engines (R143 to R164): `e` the engine, `c` its channel
  | nullCandidate (t e c : Nat)
  /-- The candidate of the main path, or of the second-look search when `second`. -/
  | prsTest (t e c : Nat) (second : Bool)
  /-- `facts`: what the standard reads in the FIB, by FIG. -/
  | fibRecord (t e : Nat) (facts : List (Nat × Fact))
  /-- `audio`: what the programmes' decoders make of the frame. -/
  | logicalFrame (t e c : Nat) (audio : List ProgAudio)
  | eeLoss (t e c : Nat)
  | tii (t e : Nat)
  | eeRelock (t e c : Nat)
  | drmModeDetect (t e c : Nat)
  | facRecord (t e c : Nat) (f : FacIn)
  | sdcRecord (t e c : Nat) (d : SdcIn)
  | reconfiguration (t e : Nat)
  | offsetRangeLoss (t e c : Nat)
  -- services and following (R175 to R195, R221): `p` the programme, `k` the candidate
  | sideDump (t ring : Nat) (source : Id)
  | entryStale (t : Nat) (origin : Id) (chan : Nat)
  | entryRemoved (t : Nat) (origin : Id) (chan : Nat)
  | announceTimeout (t : Nat) (origin : Id) (chan cluster : Nat)
  | followProbeStart (t p k : Nat)
  | probeEnd (t p k : Nat)
  | coarseMeasure (t p k : Nat)
  | alignTimeout (t p k : Nat)
  | poolFilled (t p : Nat)
  | crossfadeStart (p : Nat)
  | crossfadeEnd (p : Nat)
  | offsetRetentionEnd (p : Nat)
  -- inserts (R214 to R220): `i` is INS_ID
  | insertOn (i : Nat)
  | insertCrossfadeEnd (i : Nat)
  | insertOff (i : Nat)
  | insertUnderrun (t i : Nat)
  | insertLossTimeout (i : Nat)
  -- audio ports (R227 to R240): `p` the port
  /-- The frame whose instant is `t`. -/
  | portFrame (t p : Nat) (i : PortIn)
  /-- The second of two FS edges, `spacing` bit clocks and `back` CK_RF cycles after the first. -/
  | portSync (t p spacing back : Nat)
  /-- `bclk`: missing BCLK edges; otherwise missing FS edges. `periods` is how many nominal periods passed without one. -/
  | clockLost (t p : Nat) (bclk : Bool) (periods : Nat)
  | portClockReturn (t p : Nat)
  | portRateOk (t p : Nat)
  /-- An FS edge at `spacing` bit clocks after the previous one; 0 for a missing edge. -/
  | fsError (t p spacing : Nat)
  -- the composer (R249 to R273): `d` selects DCAR `c`, otherwise FCAR `c`
  | carrierStart (d : Bool) (c : Nat)
  | loWaitExpiry (d : Bool) (c : Nat)
  | carrierResume (d : Bool) (c : Nat)
  /-- The RDS grid slot that begins at `t`. -/
  | rdsSlot (t c : Nat)
  /-- The transmission frame that DCAR `c` radiates at `t`. -/
  | dcarFrame (t c : Nat)
  /-- The last 16 tick readings of the carrier, in 1/16 dBm. -/
  | levelOut (t : Nat) (d : Bool) (c : Nat)
  /-- `nulls` silent null symbols accumulated. -/
  | txcalInService (t nulls : Nat) (m : CalMeas)
  | txcalFullEnd (t : Nat) (m : CalMeas)
  | paEnRise
  | paEnFall
  /-- `up`: the ramp before a start; otherwise after the last fall. -/
  | yt7300Ramp (t : Nat) (up : Bool)
  | cxGrant (t : Nat)
  | cxWaitExpiry (t : Nat)
  | cxGntFall (t : Nat)
  | sweepPoint (t : Nat) (i : SweepIn)
  -- Timebase, pulses and Cues (R284 to R301)
  | tbSlewDone
  | ptmDialogStart (t : Nat)
  /-- PTM Master Time and propagation delay in ns, as the ResponseD carries them. -/
  | ptmResponse (t : Nat) (master : Word64) (prop : Word32)
  | ptmTimeout (t : Nat)
  /-- An edge on input 0 PPS_IN, 1 EVT_IN0, 2 EVT_IN1, at `sub`/64 CK_RF cycles after `t`. -/
  | pulseEdge (t sub input : Nat) (falling : Bool)
  | handshakeEnd (input : Nat)
  | ppsMissing (t : Nat)
  | cue (n : Nat)
  | cueWidthEnd (n : Nat)
  -- the cascade (R304 to R330)
  | hhlTrained (t : Nat) (p : HhlPort)
  | hhlDown (t : Nat) (p : HhlPort)
  | wordGroup (t : Nat) (p : HhlPort) (w : WordGroupIn)
  | electionStart (t : Nat)
  /-- A low phase of CLAP of `low` CK_RF cycles so far. -/
  | electionDetect (t low : Nat)
  /-- The other eligible devices on the wire: MSTR_PRI and serial number. When this device wins and forms a cascade: the members
found by index along HHL_DN, and its own place. -/
  | masterArbitrationEnd (t : Nat) (others : List (Nat × Nat)) (found : List CasEntry) (place : Nat)
  /-- The devices in the second arbitration: MSTR_PRI, serial number, member index. -/
  | deputyArbitrationEnd (t : Nat) (others : List (Nat × Nat × Nat))
  /-- A low phase of `low` CK_RF cycles; MSTR_PRI and serial number of the device that drove it. -/
  | tickMark (t low pri serial : Nat)
  /-- The symbol's start arrives `sub`/64 CK_RF cycles after `t`; MSTR_PRI of its master, one-way delay of the hop in 1/256 ns. -/
  | clapper (t sub : Nat) (p : HhlPort) (pri d : Nat) (c : ClapperIn)
  /-- The echo arrives; the neighbour's corrected t2 and t3 in 1/256 ns. -/
  | echo (t sub : Nat) (p : HhlPort) (t2 t3 : Nat)
  | tbchgApply (t : Nat)
  | joinAlign (t : Nat) (j : JoinIn)
  /-- Relative frequency in 0.0001 ppm. -/
  | refCompareEnd (t : Nat) (freq : Int)
  | joinTimeout (t : Nat)
  | casUnfence (t : Nat)

  | configMismatch (t : Nat)
  | epochApply (t : Nat)
  /-- Plain samples without HB on every path. -/
  | heartbeatLoss (t missed : Nat)
  | casMemberLost (t index : Nat)
  -- the PCIe side and the rings (R337 to R356)
  | perstN (t : Nat)
  | hotReset (t : Nat)
  | functionLevelReset (t : Nat)
  | endpointReady
  /-- A write of `bits` bits (8, 16, 32 or 64). -/
  | registerWrite (t : Nat) (space : RegSpace) (bits : Nat) (value : Word64)
  | cmdEn (t : Nat) (on : Bool)
  | shadowNow (t : Nat)
  /-- The RING_CTL value written, and bytes 16 to 63 of the shadow block as the host has written them. -/
  | ringEnable (t ring : Nat) (ctl : Word32) (ctx : List Byte)
  | ringDisable (t ring : Nat)
  | hostDmaFail (t ring : Nat)
  | irqModerationTimeout (t ring : Nat)
  | msixUnmask (t : Nat) (e : UnmaskEvent)
  | bootEntry (e : BootEntry)
  -- host commands (R359 to R385): the descriptor, whose OPCODE (and MODE, where the row names one) the row fixes
  | objOpen (d : Desc)
  | objHold (d : Desc)
  | objRun (d : Desc)
  | objClose (d : Desc)
  | objQuery (d : Desc)
  | groupDefine (d : Desc)
  | groupHold (d : Desc)
  | groupRun (d : Desc)
  /-- The pending AT_INDEX command of group `g` acts. -/
  | groupAtIndex (g : Nat)
  | passSet (d : Desc)
  | demodSet (d : Desc)
  | eeSet (d : Desc)
  | progSet (d : Desc)
  | portSet (d : Desc)
  | carrierSet (d : Desc)
  | liveSet (d : Desc)
  | afListSet (d : Desc)
  | afPolicySet (d : Desc)
  | tbSet (d : Desc)
  | tbAdjStep (d : Desc)
  | tbAdjSlew (d : Desc)
  | tbAdjFreq (d : Desc)
  | tbAdjStatus (d : Desc)
  | cueSet (d : Desc)
  | slateArm (d : Desc)
  | capStart (d : Desc)
  | capStop (d : Desc)
  | insertStart (d : Desc)
  | insertStop (d : Desc)
  | sweepStart (d : Desc)
  | casJoin (d : Desc)
  | casLeave (d : Desc)
  | casEpochStatus (d : Desc)
  | casEpochAdvance (d : Desc)
  | casEpochResync (d : Desc)
  | calRun (d : Desc)
  | calPolicy (d : Desc)
  | nvmCommit (d : Desc)
  /-- The write of record `id` ends its attempt (0x0007: the Dailies entry `seq`); `ok` is the read-back's comparison. -/
  | nvmWriteDone (t id seq : Nat) (ok : Bool)
  | storyboardWrite (d : Desc)
  | storyboardCheck (d : Desc)
  | storyboardClear (d : Desc)
  | storyboardStatus (d : Desc)
  | lcAdvance (d : Desc)
  /-- Which fuse pairs programmed on both sides: life-cycle pair, DBG_LOCK pair. -/
  | lcChange (lcBoth dbgBoth : Bool)
  | wipe (d : Desc)
  | wipeOverwriteEnd (t : Nat)
  -- calibration (R408 to R415)
  | calMeasureStart (t unit : Nat)
  | calMeasureEnd (t unit : Nat) (m : CalMeas)
  | storyboardReplayStart
  -- management bus (R389 to R406)
  | mbWrite (t : Nat) (bytes : List Byte) (fin : BusEnd)
  | mbRead (t n : Nat)
  /-- A misplaced START (or STOP) in a transfer that had brought `held` bytes. -/
  | busError (t : Nat) (start : Bool) (held : List Byte)
  | sdaLowTo (t : Nat)
  | sclLowTo (t : Nat)
  /-- A W1C write of `mask` to flag word `w`, with the flags of `meets` set on the same CK_CORE edge. -/
  | flagClear (t w : Nat) (mask : Word32) (meets : Word32)
  | attnPendClear (t : Nat) (mask : Byte)
  | healthClr (t : Nat)
  | resetReq (t : Nat) (value : Word16)
  | rcvLoad (t : Nat)
  | rcvFinish (t : Nat)
  | rcvAbort (t : Nat)
  /-- The idle check has passed; `collide`: MSCL fell during the pulse. -/
  | attention (t : Nat) (collide : Bool)
  | attnRepeat (t : Nat) (collide : Bool)
  -- memory errors and supplies (R431 to R435)
  | eccCorr (t : Nat)
  | eccUncorr (t : Nat) (w : BadWord)
  /-- Supply 0 to 5, with its four last tick readings in mV. -/
  | supplyWarn (t supply : Nat) (readings : List Nat)
  | supplyFault (t supply : Nat) (readings : List Nat)
  -- boot (R451 to R454)
  /-- What the flash copy in use gives, for the QSPI sources; ignored for the others, whose image is in the state. -/
  | bootAuth (t : Nat) (flash : FlashRead)
  | ready
  -- test access port (R443, R462 to R464)
  | testLogicReset
  | bypass
  /-- The pin values sampled; the values preloaded, when the instruction preloads. -/
  | samplePreload (pins : List Bool) (preload : Option (List Bool))
  | extest
  | idcode
  | clamp
  | highz
  | debug
  | testMode
  deriving DecidableEq, Repr

end Sys2Proof
end

