-- ==== Sys2Proof/Decode.lean ====
section
/-! DEFINITION. The command that a word of the opcode table spells. The table gives no row of this hardware any bits: its commands are pin events, measured events, register writes and host descriptors, not words. -/
namespace Sys2Proof

/-- The command that a word spells by the table's bits: none, because the table gives no bits. -/
def decodeTableWord (_nbits _w : Nat) : Option Instr := none

end Sys2Proof
end

