-- ==== Sys2Proof/Machine/Bytes.lean ====
section
/-! DEFINITION. Bytes, bit fields, signed numbers, rounding and the check word: the helpers that every layout of the manual uses. -/
namespace Sys2Proof.Machine

/-- The low `n` bytes of `v`, least significant first (R3). -/
def leBytes : Nat → Nat → List Byte
  | 0, _ => []
  | n + 1, v => BitVec.ofNat 8 v :: leBytes n (v / 256)

/-- The number that a little-endian byte list spells (R3). -/
def leNat : List Byte → Nat
  | [] => 0
  | b :: bs => b.toNat + 256 * leNat bs

/-- The little-endian number of `len` bytes at offset `off`; bytes beyond the list count as zero. -/
def leAt (bs : List Byte) (off len : Nat) : Nat := leNat ((bs.drop off).take len)

/-- The byte at offset `off`, zero beyond the list. -/
def byteAt (bs : List Byte) (off : Nat) : Byte := bs.getD off 0

/-- `n` zero bytes. -/
def zeros (n : Nat) : List Byte := List.replicate n 0

/-- The list cut or filled with zeros to `n` bytes. -/
def fitBytes (n : Nat) (bs : List Byte) : List Byte := bs.take n ++ zeros (n - bs.length)

/-- The list filled with zeros to a multiple of four bytes. -/
def pad4 (bs : List Byte) : List Byte := bs ++ zeros ((4 - bs.length % 4) % 4)

/-- `v[lsb + width - 1 : lsb]` of a natural number (R3). -/
def bitsAt (v lsb width : Nat) : Nat := (v >>> lsb) % 2 ^ width

/-- A two's-complement field of `w` bits as an integer. -/
def signedOf (w v : Nat) : Int := if 2 * (v % 2 ^ w) < 2 ^ w then (v % 2 ^ w : Nat) else (v % 2 ^ w : Nat) - (2 ^ w : Nat)

/-- An integer as a two's-complement field of `w` bits. -/
def unsignedOf (w : Nat) (i : Int) : Nat := (i % (2 ^ w : Nat)).toNat

/-- `i` held to the range of a signed field of `w` bits. -/
def satSigned (w : Nat) (i : Int) : Int := max (-(2 ^ (w - 1) : Nat)) (min i ((2 ^ (w - 1) : Nat) - 1))

/-- `n` held to the range of an unsigned field of `w` bits. -/
def satU (w n : Nat) : Nat := min n (2 ^ w - 1)

/-- `i / d` rounded to the nearest integer, halves to even. -/
def rheDiv (i : Int) (d : Nat) : Int :=
  let q := i / (d : Int)
  let r := i % (d : Int)
  if 2 * r < d then q else if (d : Int) < 2 * r then q + 1 else if q % 2 = 0 then q else q + 1

/-- `n / d` rounded up. -/
def ceilDiv (n d : Nat) : Nat := (n + d - 1) / d

/-- A Boolean as the bit 0 or 1. -/
def bit (b : Bool) : Nat := if b then 1 else 0

/-- The number whose bit `i` is the `i`-th Boolean. -/
def bitsOf : List Bool → Nat
  | [] => 0
  | b :: bs => bit b + 2 * bitsOf bs

/-- One bit of the reflected CRC-32C (R416). -/
def crcStep (c : BitVec 32) : BitVec 32 := if c.getLsbD 0 then (c >>> 1) ^^^ 0x82F63B78#32 else c >>> 1

/-- One byte of the reflected CRC-32C. -/
def crcByte (c : BitVec 32) (b : Byte) : BitVec 32 :=
  crcStep (crcStep (crcStep (crcStep (crcStep (crcStep (crcStep (crcStep (c ^^^ b.zeroExtend 32))))))))

/-- CRC-32C of a byte list: polynomial 0x1EDC_6F41 reflected, initial value and final XOR all ones (R416). -/
def crc32c (bs : List Byte) : BitVec 32 := bs.foldl crcByte 0xFFFFFFFF#32 ^^^ 0xFFFFFFFF#32

/-- The list with element `i` changed by `f`; unchanged when `i` lies outside it. -/
def modAt {α : Type} (i : Nat) (f : α → α) : List α → List α
  | [] => []
  | a :: as => match i with
    | 0 => f a :: as
    | j + 1 => a :: modAt j f as

/-- The list with element `i` replaced; unchanged when `i` lies outside it. -/
def putAt {α : Type} (i : Nat) (a : α) (l : List α) : List α := modAt i (fun _ => a) l

/-- The elements of a list with their positions, from `k` on. -/
def indexed {α : Type} (k : Nat) : List α → List (Nat × α)
  | [] => []
  | a :: as => (k, a) :: indexed (k + 1) as

/-- Insert into a list kept in rising order of `key`, behind equal keys. -/
def insertBy {α : Type} (key : α → Nat) (a : α) : List α → List α
  | [] => [a]
  | b :: bs => if key a < key b then a :: b :: bs else b :: insertBy key a bs

/-- A stable sort by a natural-number key. -/
def sortBy {α : Type} (key : α → Nat) (l : List α) : List α := l.foldl (fun acc a => insertBy key a acc) []

/-- The list without its later repeats. -/
def distinct {α : Type} [DecidableEq α] : List α → List α
  | [] => []
  | a :: as => a :: (distinct as).filter (fun b => decide (b ≠ a))

end Sys2Proof.Machine
end

