-- ==== Sys2Proof/Machine/Crypto.lean ====
section
/-! DEFINITION. SHA-256 and the verification of ECDSA P-256 signatures, which the boot image and the return token use (R452, R457, R459). -/
namespace Sys2Proof.Machine

/-! ## SHA-256 -/

/-- The `n` 32-bit words of a number, the most significant first. -/
def numWords (v : Nat) : Nat → List Word32
  | 0 => []
  | n + 1 => numWords (v >>> 32) n ++ [BitVec.ofNat 32 v]

/-- The constants of the 64 rounds, as one number. -/
def shaConst : Nat :=
  0x428a2f9871374491b5c0fbcfe9b5dba53956c25b59f111f1923f82a4ab1c5ed5d807aa9812835b01243185be550c7dc372be5d7480deb1fe9bdc06a7c19bf174e49b69c1efbe47860fc19dc6240ca1cc2de92c6f4a7484aa5cb0a9dc76f988da983e5152a831c66db00327c8bf597fc7c6e00bf3d5a7914706ca63511429296727b70a852e1b21384d2c6dfc53380d13650a7354766a0abb81c2c92e92722c85a2bfe8a1a81a664bc24b8b70c76c51a3d192e819d6990624f40e3585106aa07019a4c1161e376c082748774c34b0bcb5391c0cb34ed8aa4a5b9cca4f682e6ff3748f82ee78a5636f84c878148cc7020890befffaa4506cebbef9a3f7c67178f2

/-- The hash value before the first block, as one number. -/
def shaSeed : Nat := 0x6a09e667bb67ae853c6ef372a54ff53a510e527f9b05688c1f83d9ab5be0cd19

/-- The big-endian number of a byte list. -/
def beNat (bs : List Byte) : Nat := bs.foldl (fun a b => a * 256 + b.toNat) 0

/-- The `n` big-endian bytes of a number. -/
def beBytes (n v : Nat) : List Byte := (leBytes n v).reverse

/-- Element `i` of a list of words, zero beyond it. -/
def wordAt (l : List Word32) (i : Nat) : Word32 := l.getD i 0

/-- A word turned right by three distances, the results added without carry. -/
def turn3 (x : Word32) (i j k : Nat) : Word32 := x.rotateRight i ^^^ (x.rotateRight j ^^^ x.rotateRight k)

/-- A word turned right by two distances and shifted by a third, the results added without carry. -/
def turn2 (x : Word32) (i j k : Nat) : Word32 := x.rotateRight i ^^^ (x.rotateRight j ^^^ (x >>> k))

/-- The message schedule, newest word first: each step adds one word, made of those 2, 7, 15 and 16 places back. -/
def shaExtend : Nat → List Word32 → List Word32
  | 0, w => w
  | n + 1, w => shaExtend n ((turn2 (wordAt w 1) 17 19 10 + wordAt w 6 + turn2 (wordAt w 14) 7 18 3 + wordAt w 15) :: w)

/-- One round on the eight working words, of which the first and the fifth become new and the others move one place on. -/
def shaRound (v : List Word32) (kw : Word32 × Word32) : List Word32 :=
  let p := wordAt v 0
  let q := wordAt v 4
  let choice := wordAt v 6 ^^^ (q &&& (wordAt v 5 ^^^ wordAt v 6))
  let majority := (p &&& wordAt v 1) ||| (wordAt v 2 &&& (p ||| wordAt v 1))
  let mix := kw.1 + kw.2 + choice + turn3 q 6 11 25 + wordAt v 7
  (mix + majority + turn3 p 2 13 22) :: v.take 3 ++ (wordAt v 3 + mix) :: (v.drop 4).take 3

/-- The words of a 64-byte block, first word first. -/
def shaWords : Nat → List Byte → List Word32
  | 0, _ => []
  | n + 1, bs => BitVec.ofNat 32 (beNat (bs.take 4)) :: shaWords n (bs.drop 4)

/-- The compression of one block. -/
def shaBlock (st : List Word32) (block : List Byte) : List Word32 :=
  let w := (shaExtend 48 (shaWords 16 block).reverse).reverse
  List.zipWith (· + ·) st (((numWords shaConst 64).zip w).foldl shaRound st)

/-- The compression of `n` blocks. -/
def shaBlocks : Nat → List Word32 → List Byte → List Word32
  | 0, st, _ => st
  | n + 1, st, bs => shaBlocks n (shaBlock st (bs.take 64)) (bs.drop 64)

/-- SHA-256 as 32 bytes. -/
def sha256 (bs : List Byte) : List Byte :=
  let pad := (119 - bs.length % 64) % 64
  let m := bs ++ [(0x80 : Byte)] ++ zeros pad ++ beBytes 8 (8 * bs.length)
  (shaBlocks (m.length / 64) (numWords shaSeed 8) m).flatMap (fun w => beBytes 4 w.toNat)

/-! ## The curve P-256 -/

/-- The field prime, the order of the group, and the coefficients (a is -3). -/
def ecP : Nat := 0xffffffff00000001000000000000000000000000ffffffffffffffffffffffff
def ecN : Nat := 0xffffffff00000000ffffffffffffffffbce6faada7179e84f3b9cac2fc632551
def ecB : Nat := 0x5ac635d8aa3a93e7b3ebbd55769886bc651d06b0cc53b0f63bce3c3e27d2604b
def ecG : Nat × Nat :=
  (0x6b17d1f2e12c4247f8bce6e563a440f277037d812deb33a0f4a13945d898c296,
   0x4fe342e2fe1a7f9b8ee7eb4a7c0f9e162bce33576b315ececbb6406837bf51f5)

/-- `b ^ e mod m` by squaring, `fuel` bits of the exponent. -/
def powMod (m : Nat) : Nat → Nat → Nat → Nat
  | 0, _, _ => 1 % m
  | fuel + 1, b, e => let h := powMod m fuel (b * b % m) (e / 2); if e % 2 = 1 then b * h % m else h

/-- The inverse modulo a prime, by Fermat. -/
def invMod (m b : Nat) : Nat := powMod m 256 (b % m) (m - 2)

/-- A difference modulo the field prime. -/
def subP (a b : Nat) : Nat := (a + (ecP - b % ecP)) % ecP

/-- Twice a point. A point (x, y, z) stands for x / z^2 and y / z^3, the point at infinity for z = 0. -/
def ecDouble (p : Nat × Nat × Nat) : Nat × Nat × Nat :=
  match p with
  | (x, y, z) =>
    let d := z * z % ecP
    let g := y * y % ecP
    let b := x * g % ecP
    let a := 3 * subP x d * (x + d) % ecP
    let x3 := subP (a * a) (8 * b)
    (x3, subP (a * subP (4 * b) x3) (8 * g * g), 2 * y * z % ecP)

/-- The sum of two points. -/
def ecAdd (p q : Nat × Nat × Nat) : Nat × Nat × Nat :=
  match p, q with
  | (x1, y1, z1), (x2, y2, z2) =>
    if z1 = 0 then q
    else if z2 = 0 then p
    else
      let u1 := x1 * z2 % ecP * z2 % ecP
      let u2 := x2 * z1 % ecP * z1 % ecP
      let s1 := y1 * z2 % ecP * z2 % ecP * z2 % ecP
      let s2 := y2 * z1 % ecP * z1 % ecP * z1 % ecP
      if u1 = u2 then (if s1 = s2 then ecDouble p else (1, 1, 0))
      else
        let h := subP u2 u1
        let r := subP s2 s1
        let hh := h * h % ecP
        let v := u1 * hh % ecP
        let x3 := subP (r * r) (h * hh + 2 * v)
        (x3, subP (r * subP v x3) (s1 * hh % ecP * h), h * z1 % ecP * z2 % ecP)

/-- `k` times a point, `fuel` bits of `k`. -/
def ecMul : Nat → Nat → Nat × Nat × Nat → Nat × Nat × Nat
  | 0, _, _ => (1, 1, 0)
  | fuel + 1, k, p =>
    let h := ecMul fuel (k / 2) (ecDouble p)
    if k % 2 = 1 then ecAdd p h else h

/-- A point lies on the curve. -/
def ecOn (q : Nat × Nat) : Bool :=
  decide (q.1 < ecP) && decide (q.2 < ecP) && q.2 * q.2 % ecP == (q.1 * q.1 * q.1 + (ecP - 3) * q.1 + ecB) % ecP

/-- ECDSA P-256: key and signature as 64 bytes each, big-endian, over a 32-byte hash. -/
def ecdsaOk (key sig hash : List Byte) : Bool :=
  let q := (beNat (key.take 32), beNat ((key.drop 32).take 32))
  let r := beNat (sig.take 32)
  let v := beNat ((sig.drop 32).take 32)
  decide (0 < r ∧ r < ecN ∧ 0 < v ∧ v < ecN) && ecOn q &&
    (let w := invMod ecN v
     match ecAdd (ecMul 256 (beNat hash * w % ecN) (ecG.1, ecG.2, 1)) (ecMul 256 (r * w % ecN) (q.1, q.2, 1)) with
     | (_, _, 0) => false
     | (x, _, z) => x * invMod ecP (z * z) % ecP % ecN == r)

end Sys2Proof.Machine
end

