-- ==== Sys2Proof/Config.lean ====
section
/-! DEFINITION. What the manual leaves to an implementation or leaves open, as constants without a body: a free value is one that no proof can see. -/
namespace Sys2Proof.Config
open Sys2Proof

/-- Fresh bits for a value that the manual leaves undefined, by the count of earlier ones (log 3). -/
opaque freeBits : Nat → Nat
/-- The time in ns from FRAME_TIME to a first logical frame beyond the stated delays, by STD (R490, log 7). -/
opaque engineProcessing : Nat → Nat
/-- A decoder's delay in ns, by codec and output rate (R205, log 7). -/
opaque decoderDelay : Nat → Nat → Nat
/-- Factory delay F of a timestamp point in 1/256 ns at a temperature in 1/16 °C, for a gain state (R288, log 8). -/
opaque pointDelay : Nat → Int → Nat → Int
/-- The 64-bit digest of a shared configuration whose byte layout the manual does not give (R323, log 10). -/
opaque digest : CasTables → Word64
/-- Values of a factory table by unit and position, and at 8 + unit the built-in nominal ones (R418, log 12). Units 0 to 5 are those
of R407; unit 6 is the front-end K of R47, unit 7 the CTL_VAL table of R19 (log 9). -/
opaque factoryCal : Nat → Nat → Int
/-- One sample of a mono envelope at 1 kS/s, of the 48 sums L + R of its millisecond (R191, log 92). -/
opaque envelope : List Int → Int
/-- Sample frames of the window of the fine measurement, below 65536 (R191, log 92). -/
opaque fineWindow : Nat
/-- Bits 11:1 of IDCODE, the JEDEC identity of the maker, which the manual does not print (R462, log 13). -/
opaque jedec : Nat

/-- Tap of the Plain's prototype filter at a distance of up to 4096 CK_RF cycles from its centre (R72, R73, log 77). -/
opaque prototype : Nat → Int
/-- Coefficient in units of 2^-17 of a ROM response at a distance in CK_RF cycles from its centre, and the imaginary part that one
crossover edge gives to a subband's response (R87, log 77). -/
opaque rom : Nat → Nat → Int
opaque romSkew : Nat → Nat → Int
/-- Coefficient in units of 2^-17 of the fractional delay of a remote stream, at a distance in 1/64 CK_RF cycle (R316, log 77). -/
opaque fracDelay : Nat → Int
/-- The correction of an equaliser tap, in units of 2^-24, by the output and the tap's input in units of 2^-16 (R111, log 82). -/
opaque eqAdapt : Int × Int → Int × Int → Int × Int
/-- Corrections of phase and of frequency per sample, in 2^-32 turn, that a loop makes for a phase error: the pilot loop, the Costas loop from I and Q, the
AM carrier loop by LOOP_BW, the reference loop of AMSS; and that of the bit clock in 2^-32 bit by the matched sum (R112, R120, R124, R131, log 83). -/
opaque pilotLoop : Int → Int × Int
opaque rdsLoop : Int → Int → Int × Int
opaque carrierLoop : Nat → Int → Int × Int
opaque referenceLoop : Int → Int × Int
opaque bitClock : Int → Int
/-- The AMSS block that the last bits of an AMD spell: check word good, number, information bits and their count, by the standard that R131 names (log 85). -/
opaque amssBlock : List Bool → Bool × Nat × Nat × Nat
/-- Coefficients in units of 2^-17 at a distance in CK_RF cycles: the FM audio filter by Pass period, the AM audio filter by edge in Hz and Pass period, and
the Hilbert pair by sample (R114, R120, R121, log 77). -/
opaque audioFir : Nat → Nat → Int
opaque amFir : Nat → Nat → Nat → Int
opaque hilbert : Nat → Int
/-- What the mean of a symbol's decision variables becomes among the 6-bit LLRs, and the mean LLR among the 4-bit soft bits (R158, R159, log 88). -/
opaque llrLevel : Nat
opaque softLevel : Nat
/-- Tables of the standards that R142 names (log 87), DAB first. Phase in 2^-32 turn of each carrier of the PRS, or of the time reference, by mode code. -/
opaque reference : Nat → List (Int × Int)
/-- The carrier that carries QPSK symbol `n` (frequency interleaving); how many CIFs late bit `i` modulo 16 of a logical frame is sent. -/
opaque carrierOrder : Nat → Int
opaque timeDelay : Nat → Nat
/-- The positions of the mother code that are sent: of a FIC block; of a sub-channel by its protection and size; of a DRM block by kind, layout, level. -/
opaque ficMask : List Bool
opaque subchMask : Nat → Nat → List Bool
opaque drmMask : Nat → Nat → Nat → List Bool
/-- Bit `i` of the energy dispersal sequence, 0 for DRM and 1 for DAB. -/
opaque dispersal : Nat → Nat → Bool
/-- The carriers of a TII identifier: main, sub. -/
opaque tiiCarriers : Nat → Nat → List Int
/-- Membership of RS(120,110), and a nearest codeword. -/
opaque rsWord : List Byte → Bool
opaque rsNear : List Byte → List Byte
/-- Gain references of a DRM frame by mode and occupancy: symbol, carrier, value in units of 2^-16; the frequency pilots by mode. -/
opaque gainRefs : Nat → Nat → List (Nat × Int × Int × Int)
opaque freqPilots : Nat → List Int
/-- Cells by mode, occupancy and kind (0 FAC, 1 SDC, 2 MSC): symbol and carrier; what position of which earlier frame an MSC cell comes from, by mode and depth. -/
opaque cells : Nat → Nat → Nat → List (Nat × Int)
opaque cellOrder : Nat → Nat → Nat → Nat × Nat
/-- The decision of a level of multilevel coding for a component: constellation, level, the bits of the levels before, the component in 10 bits; and the order of the
bits within a level. -/
opaque demapLevel : Nat → Nat → List Bool → Int → Int
opaque bitOrder : Nat → Nat → Nat → Nat
/-- The constellation of the SDC, by layout: 0 4-QAM, 1 16-QAM. -/
opaque sdcConstellation : Nat → Nat
/-- The nearest ideal value of a component in 10 bits, by constellation. -/
opaque idealPoint : Nat → Int → Int
/-- The carriers that an occupancy reaches, in Hz about the frequency that the Pass is tuned to, by mode and occupancy. -/
opaque occupied : Nat → Nat → Int × Int
/-- The bytes of a stream in a DRM multiplex frame's bits, by layout and stream. -/
opaque streamBytes : Nat → Nat → List Bool → List Byte
/-- Coefficient in units of 2^-17 of the interpolator to the working rate, by standard and distance in 2^-16 CK_RF cycle (R140, log 77). -/
opaque workFir : Nat → Nat → Int
/-- Weight of a gain reference at a distance in symbols and in carriers in the interpolation of the channel (R156, log 89). -/
opaque chanWeight : Int → Int → Nat
/-- Corrections of a DRM channel's offset in 2^-32 turn by a phase step in 2^-20 turn, of the tracked rate in 0.01 ppm by a timing correction, and the place of a
peak within a working sample in sixteenths, by the powers about it (R153, R162, log 89). -/
opaque freqLoop : Nat → Int → Int
opaque rateLoop : Int → Int
opaque peakPlace : Nat → Nat → Nat → Nat
/-- Coefficient in units of 2^-17 of an audio rate converter, by source rate, output rate and distance in 1/16 CK_RF cycle (R192, R231, log 77). -/
opaque rateFir : Nat → Nat → Nat → Int
/-- Corrections of t_n and of the frame period, in 1/16 CK_RF cycle, that the loop of a slave port makes for a timing error (R228, log 83). -/
opaque portLoop : Int → Int × Int
/-- Phase of each of the four tones of the matching pilot at Plain sample 0, in 2^-32 turn (R59, log 78). -/
opaque pilotPhase : Nat → Int
/-- A figure in decibels of a power that is zero over a tick: its logarithm is not stated (R99, R133, log 79). -/
opaque zeroLevel : Int
/-- Coefficients of the FCAR modulator (R255, log 94): the 15 kHz low-pass in units of 2^-20 by distance in samples of 48 kHz; the first-order pre-emphasis in
2^-20 by PREEMPH and term; the gain of the limiter in 2^-24 by its limit and the magnitudes that it sees; the interpolator to 192 kHz in 2^-20 by distance in
its samples; the pulse of an RDS bit in 2^-16 by the time since its start in 2^-16 bit. -/
opaque fcarFir : Nat → Int
opaque emphasis : Nat → Nat → Int
opaque limiter : Nat → List Nat → Nat
opaque upFir : Nat → Int
opaque rdsPulse : Nat → Int
/-- What a DCAR sends in capacity units that no sub-channel has; the audio encoder, by what fixes the encoding, samples and dynamic label; the interpolator
from 2.048 MS/s in 2^-17 by distance in 2^-16 sample (R259, R262, R263, log 95). -/
opaque cuPad : Nat → Bool
opaque encodeAudio : List Nat → List (Int × Int) → List Byte → List Byte
opaque txFir : Nat → Int
/-- The cancellation pulse in 2^-17 by the carriers (frequency, half-width, power) and the distance in CK_RF cycles, and how far it reaches; the delay of the
DAC and its output stage in 1/64 cycle; the factory gain in 0.005 dB by frequency and temperature; the step of the level loop in 0.01 dB by the error in
1/16 dB; the transmit correction by its four values (R249, R251, R252, R269, log 94). -/
opaque cancelPulse : List (Int × Nat × Nat) → Nat → Int × Int
opaque cancelReach : Nat
opaque dacDelay : Nat
opaque txGain : Nat → Int → Int
opaque levelLoop : Int → Int
opaque txCorrect : List Int → Int × Int → Int × Int
/-- A Pass's reported LATENCY in ns before its bound is applied, by the fields that fix it (R489, log 7). -/
opaque passLatency : Nat → Nat

/-- The LATENCY in ns of an engine of another member as its DCAR learns it, and of a remote programme, by identifier (R260, R321, log 7). -/
opaque remoteLatency : Nat → Nat

end Sys2Proof.Config
end

