-- ==== Sys2Proof/Machine/Numeric.lean ====
section
/-! DEFINITION. Exact fixed-point forms of the functions that the manual names by a formula: powers of ten, decibels, the raised cosine, sine and cosine, square roots, arcs. -/
namespace Sys2Proof.Machine

/-! ## Search -/

/-- The largest `v` below `lo + 2^bits` for which a falling test holds; `lo` when it holds nowhere. -/
def bisect (p : Nat → Bool) (lo : Nat) : Nat → Nat
  | 0 => lo
  | b + 1 => if p (lo + 2 ^ b) then bisect p (lo + 2 ^ b) b else bisect p lo b

/-- The square root, rounded down. -/
def isqrt (n : Nat) : Nat := bisect (fun v => decide (v * v ≤ n)) 0 (Nat.log2 n / 2 + 1)

/-! ## Decibels -/

/-- `a ≤ x · 10^(n/per)` as whole powers. -/
def belowTen (per a x : Nat) (n : Int) : Bool :=
  if 0 ≤ n then decide (a ^ per ≤ x ^ per * 10 ^ n.toNat) else decide (a ^ per * 10 ^ (-n).toNat ≤ x ^ per)

/-- `x · 10^(n/per)` rounded down, held below 2^48. -/
def timesTen (per x : Nat) (n : Int) : Nat := bisect (fun a => belowTen per a x n) 0 48

/-- `x · 10^(n/per)` rounded to the nearest integer, halves to even. -/
def roundTen (per x : Nat) (n : Int) : Nat :=
  let h := timesTen per (2 * x) n
  let exact := if 0 ≤ n then decide (h ^ per = (2 * x) ^ per * 10 ^ n.toNat) else decide (h ^ per * 10 ^ (-n).toNat = (2 * x) ^ per)
  if h % 2 = 0 then h / 2 else if exact && h / 2 % 2 == 0 then h / 2 else h / 2 + 1

/-- The amplitude of a gain in steps of 1/16 dB, in units of 2^-24, rounded down (log 4). -/
def amplitude (g : Int) : Nat := if g = 0 then 2 ^ 24 else timesTen 320 (2 ^ 24) g

/-- `per · log10(num / den)` rounded down, for positive numbers, held to 16 bits (log 6). -/
def logSteps (per num den : Nat) : Int :=
  (bisect (fun v => belowTen per den num (32768 - (v : Int))) 0 16 : Int) - 32768

/-- Ten times the decimal logarithm of a ratio of powers, in 1/16 dB, and twenty times that of a ratio of gains in 0.01 dB. -/
def decibel (num den : Nat) : Int := logSteps 160 num den
def centibel (num den : Nat) : Int := logSteps 2000 num den

/-! ## Sine and cosine -/

/-- The sine of `x` in units of 2^-60 for an angle of at most a quarter turn, by its series. -/
def sinSeries (x : Int) : Int :=
  ((List.range 14).foldl (fun (s : Int × Int) i =>
    (s.1 + s.2, -(s.2 * x / 2 ^ 60 * x / 2 ^ 60) / ((2 * i + 2) * (2 * i + 3) : Nat))) (0, x)).1

/-- The sine of an angle in units of 2^-32 turn, in units of 2^-60. -/
def sin60 (a : Int) : Int :=
  let v := (a % 2 ^ 32).toNat
  let r := v % 2 ^ 31
  let q := if r ≤ 2 ^ 30 then r else 2 ^ 31 - r
  let y := sinSeries ((q * 7244019458077122842 : Nat) / 2 ^ 32)
  if v < 2 ^ 31 then y else -y

/-- Sine and cosine of an angle in units of 2^-32 turn, rounded to units of 2^-n. -/
def sinQ (n : Nat) (a : Int) : Int := rheDiv (sin60 a) (2 ^ (60 - n))
def cosQ (n : Nat) (a : Int) : Int := sinQ n (a + 2 ^ 30)

/-- A complex number times exp(j2π a), the angle in units of 2^-32 turn and the factor in units of 2^-n; the product is in 2^-n of the
unit. -/
def turn (n : Nat) (a : Int) (v : Int × Int) : Int × Int :=
  let c := cosQ n a
  let s := sinQ n a
  (v.1 * c - v.2 * s, v.1 * s + v.2 * c)

/-- The raised cosine of a crossfade, sample `i` of `n`, in units of 2^-24: (1 - cos(π i/n))/2 (log 5). -/
def raisedCos (i n : Nat) : Nat := (rheDiv (2 ^ 60 - sin60 ((2 ^ 31 * i / n : Nat) + 2 ^ 30 : Int)) (2 ^ 37)).toNat

/-- The angle of a complex number in units of 2^-n turn, 0 for zero: the largest angle whose direction it has reached, going up from
-1/2 turn. -/
def arcQ (n : Nat) (v : Int × Int) : Int :=
  if v.1 = 0 ∧ v.2 = 0 then 0
  else
    let half := 2 ^ 31
    -- the angle from the negative real axis, in [0, 1) turn
    let w : Int × Int := (-v.1, -v.2)
    let up := decide (0 ≤ w.2 ∧ (0 < w.2 ∨ 0 < w.1))
    let u : Int × Int := if up then w else (-w.1, -w.2)
    let a := bisect (fun k =>
      let t : Int := (k * 2 ^ (32 - n) : Nat)
      decide (t < half ∧ 0 ≤ u.2 * cosQ 30 t - u.1 * sinQ 30 t)) 0 (n - 1)
    (a : Int) + (if up then 0 else 2 ^ (n - 1)) - 2 ^ (n - 1)

/-! ## Complex arithmetic -/

def cadd (a b : Int × Int) : Int × Int := (a.1 + b.1, a.2 + b.2)
def csub (a b : Int × Int) : Int × Int := (a.1 - b.1, a.2 - b.2)
def cmul (a b : Int × Int) : Int × Int := (a.1 * b.1 - a.2 * b.2, a.1 * b.2 + a.2 * b.1)
def cconj (a : Int × Int) : Int × Int := (a.1, -a.2)
def cscale (k : Int) (a : Int × Int) : Int × Int := (k * a.1, k * a.2)
def cround (d : Nat) (a : Int × Int) : Int × Int := (rheDiv a.1 d, rheDiv a.2 d)
def cfloor (d : Nat) (a : Int × Int) : Int × Int := (a.1 / (d : Int), a.2 / (d : Int))
def cpow (a : Int × Int) : Nat := (a.1 * a.1 + a.2 * a.2).toNat
def csum (l : List (Int × Int)) : Int × Int := l.foldl cadd (0, 0)

end Sys2Proof.Machine
end

