-- ==== Sys2Proof/Machine/Fields.lean ====
section
/-! DEFINITION. The field tables of the manual: where each field stands in its block, its reset value, its assigned codes. -/
namespace Sys2Proof.Machine
open Sys2Proof

/-- The value of a field in a block. -/
def fget {n : Nat} (b : BitVec n) (f : Field) : Nat := (b.extractLsb' f.lsb f.width).toNat

/-- A field that is one bit, as a Boolean. -/
def fbit {n : Nat} (b : BitVec n) (f : Field) : Bool := b.getLsbD f.lsb

/-- The mask of a field in a block. -/
def fmaskOf (n : Nat) (f : Field) : BitVec n := BitVec.ofNat n ((2 ^ f.width - 1) <<< f.lsb)

/-- A block with a field replaced. -/
def fset {n : Nat} (b : BitVec n) (f : Field) (v : Nat) : BitVec n :=
  (b &&& ~~~ fmaskOf n f) ||| BitVec.ofNat n ((v % 2 ^ f.width) <<< f.lsb)

/-- The mask of all fields of a table; every other bit is reserved (R4). -/
def tableMask (n : Nat) (fs : List Field) : BitVec n := fs.foldl (fun m f => m ||| fmaskOf n f) 0

/-- The block with every field at its reset value (R6). -/
def tableReset (n : Nat) (fs : List Field) : BitVec n := fs.foldl (fun m f => fset m f f.reset) 0

/-- A field carries a reserved encoding (R4). -/
def badCode {n : Nat} (b : BitVec n) (f : Field) : Bool := f.codes != 0 && decide (f.codes ≤ fget b f)

/-- The first failing field of a list of checks, in the order of the block. -/
def firstFail (cs : List (Field × Bool)) : Option Field := (cs.find? (fun c => !c.2)).map Prod.fst

/-- The encoding checks of a table (R4), to which a kind adds its own. -/
def codeChecks {n : Nat} (b : BitVec n) (fs : List Field) : List (Field × Bool) := fs.map (fun f => (f, !badCode b f))

/-! ## CLK_PROFILE (R35) -/
def ckSsDepth : Field := ⟨0, 4, 0, false, 0⟩
def ckSsMode : Field := ⟨4, 1, 0, false, 0⟩
def ckCkoutEn : Field := ⟨5, 1, 1, false, 0⟩
def ckMgmtStopEn : Field := ⟨6, 1, 0, false, 0⟩
def ckRootW : Field := ⟨8, 6, 0x0F, false, 0⟩
def ckRootN : Field := ⟨14, 4, 6, false, 9⟩
def ckAloW : Field := ⟨18, 6, 7, false, 0⟩
def ckAloN : Field := ⟨24, 4, 4, false, 9⟩
def ckRelockSlew : Field := ⟨32, 8, 0x14, false, 0⟩
def ckRefWait : Field := ⟨40, 8, 0x0A, false, 0⟩
def ckAloTempLimit : Field := ⟨48, 5, 0x14, false, 0⟩
/-- The fields of CLK_PROFILE. -/
def clkFields : List Field :=
  [ckSsDepth, ckSsMode, ckCkoutEn, ckMgmtStopEn, ckRootW, ckRootN, ckAloW, ckAloN, ckRelockSlew, ckRefWait, ckAloTempLimit]
/-- The checks that NVM_COMMIT makes on a CLK_PROFILE (R35, R380). -/
def clkChecks (b : BitVec 128) : List (Field × Bool) :=
  [(ckSsDepth, decide (fget b ckSsDepth ≤ (if fbit b ckSsMode then 4 else 8)))] ++
  codeChecks b [ckRootN, ckAloN] ++
  [(ckRelockSlew, decide (1 ≤ fget b ckRelockSlew ∧ fget b ckRelockSlew ≤ 50)),
   (ckRefWait, decide (1 ≤ fget b ckRefWait)), (ckAloTempLimit, decide (1 ≤ fget b ckAloTempLimit))]

/-! ## CONV (R68) -/
def cvLna : Field := ⟨0, 2, 2, true, 3⟩
def cvAtt : Field := ⟨2, 5, 0, true, 31⟩
def cvAgcFreeze : Field := ⟨7, 1, 0, true, 0⟩
def cvAgcMode : Field := ⟨8, 2, 1, false, 2⟩
def cvPsel : Field := ⟨10, 3, 0, false, 0⟩
def cvLband : Field := ⟨13, 1, 0, false, 0⟩
def cvAgcHi : Field := ⟨32, 4, 2, false, 0⟩
def cvAgcLo : Field := ⟨36, 5, 8, false, 0⟩
def cvAttackStep : Field := ⟨41, 4, 6, false, 0⟩
def cvAgcHold : Field := ⟨45, 4, 6, false, 13⟩
def cvPselBlank : Field := ⟨49, 8, 0x20, false, 0⟩
/-- The fields of CONV0 to CONV3. -/
def convFields : List Field :=
  [cvLna, cvAtt, cvAgcFreeze, cvAgcMode, cvPsel, cvLband, cvAgcHi, cvAgcLo, cvAttackStep, cvAgcHold, cvPselBlank]

/-! ## PASS (R97) -/
def psTune : Field := ⟨0, 34, 0, false, 0⟩
def psClass : Field := ⟨34, 2, 0, false, 0⟩
def psTake : Field := ⟨36, 2, 1, false, 3⟩
def psRateK : Field := ⟨38, 3, 0, false, 0⟩
def psResp : Field := ⟨41, 5, 0x0B, false, 0⟩
def psCicLen : Field := ⟨46, 6, 0, false, 0⟩
def psNsb : Field := ⟨52, 2, 0, false, 0⟩
def psDcbK : Field := ⟨54, 4, 0, false, 13⟩
/-- Input selector of branch `n`: bit 7 USE, bit 6 REMOTE, bits 5:3 DEVICE, bits 1:0 INPUT. -/
def psIn (n : Nat) : Field := ⟨64 + 8 * n, 8, if n = 0 then 0x80 else 0, false, 0⟩
def psFine : Field := ⟨96, 24, 0, true, 0⟩
def psMute : Field := ⟨120, 1, 0, true, 0⟩
def psDcbFreeze : Field := ⟨121, 1, 0, true, 0⟩
def psGain : Field := ⟨128, 8, 0, true, 0⟩
/-- The fields of a Pass. -/
def passFields : List Field :=
  [psTune, psClass, psTake, psRateK, psResp, psCicLen, psNsb, psDcbK, psIn 0, psIn 1, psIn 2, psIn 3, psFine, psMute,
   psDcbFreeze, psGain]

/-! ## FMD and AMD (R134, R135): the first three fields are shared -/
def dmPass : Field := ⟨0, 8, 0xFF, false, 0⟩
def dmDivMode : Field := ⟨8, 2, 0, false, 3⟩
def dmDivDrop : Field := ⟨10, 4, 6, false, 0⟩
def fmMpEq : Field := ⟨14, 1, 0, false, 0⟩
def fmDeemph : Field := ⟨15, 2, 1, false, 3⟩
def fmForceMono : Field := ⟨17, 1, 0, false, 0⟩
def fmRdsMode : Field := ⟨18, 2, 1, false, 3⟩
def fmRdsCorr : Field := ⟨20, 2, 1, false, 3⟩
def fmBlendLo : Field := ⟨32, 6, 0x14, false, 0⟩
def fmBlendHi : Field := ⟨38, 6, 0x20, false, 0⟩
def fmBlendSlew : Field := ⟨44, 4, 0xC, false, 0⟩
def fmPilotMin : Field := ⟨48, 5, 6, false, 0⟩
def fmRdsLossN : Field := ⟨53, 4, 8, false, 0⟩
/-- The fields of an FMD. -/
def fmdFields : List Field :=
  [dmPass, dmDivMode, dmDivDrop, fmMpEq, fmDeemph, fmForceMono, fmRdsMode, fmRdsCorr, fmBlendLo, fmBlendHi, fmBlendSlew,
   fmPilotMin, fmRdsLossN]
def amDet : Field := ⟨14, 2, 2, false, 3⟩
def amSideband : Field := ⟨16, 2, 0, false, 3⟩
def amAudBw : Field := ⟨18, 2, 1, false, 0⟩
def amNbEn : Field := ⟨20, 1, 1, false, 0⟩
def amNbThr : Field := ⟨21, 4, 6, false, 0⟩
def amNbExt : Field := ⟨25, 2, 1, false, 0⟩
def amAmssEn : Field := ⟨27, 1, 0, false, 0⟩
def amLoopBw : Field := ⟨32, 2, 1, false, 3⟩
/-- The fields of an AMD. -/
def amdFields : List Field :=
  [dmPass, dmDivMode, dmDivDrop, amDet, amSideband, amAudBw, amNbEn, amNbThr, amNbExt, amAmssEn, amLoopBw]

/-! ## EE (R169) -/
def eeStd : Field := ⟨0, 2, 0, false, 3⟩
def eeDivMode : Field := ⟨2, 2, 0, false, 3⟩
def eeSlMargin : Field := ⟨4, 4, 6, false, 0⟩
def eeSlFrames : Field := ⟨8, 3, 2, false, 0⟩
def eeDrmMode : Field := ⟨11, 3, 0, false, 6⟩
def eeLossN : Field := ⟨14, 4, 4, false, 0⟩
def eeTiiEn : Field := ⟨18, 1, 0, false, 0⟩
def eePrsThr : Field := ⟨19, 4, 6, false, 0⟩
def eeNullAvg : Field := ⟨23, 3, 3, false, 7⟩
/-- PASSn of an engine. -/
def eePass (n : Nat) : Field := ⟨32 + 8 * n, 8, 0xFF, false, 0⟩
def eeCfoSearch : Field := ⟨64, 8, 0x14, false, 0⟩
/-- The fields of an engine. -/
def eeFields : List Field :=
  [eeStd, eeDivMode, eeSlMargin, eeSlFrames, eeDrmMode, eeLossN, eeTiiEn, eePrsThr, eeNullAvg, eePass 0, eePass 1, eePass 2,
   eePass 3, eeCfoSearch]

/-! ## TIME_PROFILE (R290) -/
def tpPtmPeriod : Field := ⟨0, 4, 0, false, 0⟩
/-- DELAY of timestamp point `p`. -/
def tpDelay (p : Nat) : Field := ⟨32 * (2 + 2 * p), 24, 0, false, 0⟩
/-- ASYM of timestamp point `p`. -/
def tpAsym (p : Nat) : Field := ⟨32 * (3 + 2 * p), 16, 0, false, 0⟩
/-- The fields of TIME_PROFILE. -/
def timeFields : List Field := tpPtmPeriod :: (List.range 19).flatMap (fun p => [tpDelay p, tpAsym p])

/-! ## CAL_POLICY (R422) -/
def cpDt : Field := ⟨0, 5, 4, false, 0⟩
def cpAutoEn : Field := ⟨5, 6, 0x3F, false, 0⟩
def cpDegStandin : Field := ⟨11, 1, 0, false, 0⟩
def cpMaxAge : Field := ⟨32, 16, 0, false, 0⟩
/-- The fields of CAL_POLICY. -/
def calFields : List Field := [cpDt, cpAutoEn, cpDegStandin, cpMaxAge]
/-- The check of CAL_POLICY: DT from 1 to 16 (R422). -/
def calChecks {n : Nat} (b : BitVec n) : List (Field × Bool) := [(cpDt, decide (1 ≤ fget b cpDt ∧ fget b cpDt ≤ 16))]

/-! ## PROG (R211) -/
def pgSource : Field := ⟨0, 32, 0, false, 0⟩
def pgSubch : Field := ⟨32, 6, 0, false, 0⟩
def pgCodec : Field := ⟨38, 3, 0, false, 6⟩
def pgChmode : Field := ⟨41, 2, 0, false, 0⟩
def pgVolume : Field := ⟨64, 8, 0, true, 0⟩
def pgMute : Field := ⟨72, 1, 0, true, 0⟩
/-- The fields of a programme. -/
def progFields : List Field := [pgSource, pgSubch, pgCodec, pgChmode, pgVolume, pgMute]

/-! ## AF policy (R197) -/
def afMode : Field := ⟨0, 2, 0, false, 3⟩
def afLearn : Field := ⟨2, 1, 1, true, 0⟩
def afCrossStd : Field := ⟨3, 1, 1, true, 0⟩
def afAllowUnaligned : Field := ⟨4, 1, 0, true, 0⟩
def afLevelMatch : Field := ⟨5, 1, 1, true, 0⟩
def afForce : Field := ⟨6, 4, 0, true, 12⟩
def afMaxBg : Field := ⟨10, 2, 2, true, 0⟩
def afAlignA : Field := ⟨32, 8, 0x50, false, 0x65⟩
def afXfade : Field := ⟨40, 6, 5, true, 26⟩
def afSwitchMargin : Field := ⟨46, 6, 6, true, 0⟩
def afSwitchHold : Field := ⟨52, 6, 0x0A, true, 0⟩
def afDwell : Field := ⟨58, 6, 0x0F, true, 0⟩
def afRefFm : Field := ⟨64, 6, 0x12, true, 0⟩
def afRefAm : Field := ⟨70, 6, 0x1A, true, 0⟩
def afRefDab : Field := ⟨76, 6, 8, true, 0⟩
def afRefDrm : Field := ⟨82, 6, 6, true, 0⟩
def afBias : Field := ⟨88, 8, 4, true, 0⟩
def afFailHold : Field := ⟨96, 8, 0x0A, true, 0⟩
def afCorrMin : Field := ⟨104, 8, 0x99, true, 0⟩
/-- The fields of the following policy. -/
def afFields : List Field :=
  [afMode, afLearn, afCrossStd, afAllowUnaligned, afLevelMatch, afForce, afMaxBg, afAlignA, afXfade, afSwitchMargin,
   afSwitchHold, afDwell, afRefFm, afRefAm, afRefDab, afRefDrm, afBias, afFailHold, afCorrMin]

/-! ## PORT (R243) -/
def ptFsRate : Field := ⟨0, 2, 2, false, 0⟩
def ptRole : Field := ⟨2, 1, 0, false, 0⟩
def ptSlots : Field := ⟨3, 5, 7, false, 0⟩
def ptSlotW : Field := ⟨8, 2, 2, false, 3⟩
def ptWord : Field := ⟨10, 2, 2, false, 3⟩
def ptOffset : Field := ⟨12, 5, 0, false, 0⟩
def ptFsForm : Field := ⟨17, 2, 0, false, 3⟩
def ptFsPol : Field := ⟨19, 1, 0, false, 0⟩
def ptBclkPol : Field := ⟨20, 1, 0, false, 0⟩
def ptDoIdle : Field := ⟨21, 1, 0, false, 0⟩
def ptDiEn : Field := ⟨32, 1, 0, false, 0⟩
def ptLoopInt : Field := ⟨33, 1, 0, false, 0⟩
/-- The fields of route `r`: SRC, DST, KIND, CH, POLICY, DELAY. -/
def rtSrc (r : Nat) : Field := ⟨64 + 32 * r, 8, 0, false, 0⟩
def rtDst (r : Nat) : Field := ⟨72 + 32 * r, 5, 0, false, 0⟩
def rtKind (r : Nat) : Field := ⟨80 + 32 * r, 2, 0, false, 3⟩
def rtCh (r : Nat) : Field := ⟨82 + 32 * r, 2, 0, false, 0⟩
def rtPolicy (r : Nat) : Field := ⟨84 + 32 * r, 1, 0, false, 0⟩
def rtDelay (r : Nat) : Field := ⟨88 + 32 * r, 8, 0, false, 0⟩
/-- The fields of a port. -/
def portFields : List Field :=
  [ptFsRate, ptRole, ptSlots, ptSlotW, ptWord, ptOffset, ptFsForm, ptFsPol, ptBclkPol, ptDoIdle, ptDiEn, ptLoopInt] ++
  (List.range 32).flatMap (fun r => [rtSrc r, rtDst r, rtKind r, rtCh r, rtPolicy r, rtDelay r])

/-! ## TX_PROFILE (R248) -/
def txOutMode : Field := ⟨0, 1, 0, false, 0⟩
def txPaMode : Field := ⟨1, 1, 0, false, 0⟩
def txPaLead : Field := ⟨2, 8, 0x32, false, 0⟩
def txRampT : Field := ⟨10, 6, 0x20, false, 0⟩
def txCxEn : Field := ⟨16, 1, 1, false, 0⟩
def txCxWait : Field := ⟨17, 8, 0x64, false, 0⟩
def txDriftOff : Field := ⟨25, 1, 0, false, 0⟩
def txOutDelay : Field := ⟨32, 24, 0, false, 0⟩
/-- The fields of TX_PROFILE. -/
def txFields : List Field :=
  [txOutMode, txPaMode, txPaLead, txRampT, txCxEn, txCxWait, txDriftOff, txOutDelay]
/-- The checks that NVM_COMMIT makes on a TX_PROFILE (R248, R380). -/
def txChecks {n : Nat} (b : BitVec n) : List (Field × Bool) :=
  [(txRampT, decide (1 ≤ fget b txRampT)), (txCxWait, decide (1 ≤ fget b txCxWait))]

/-! ## FCAR and DCAR (R276, R277) -/
def fcFreq : Field := ⟨0, 32, 0, false, 0⟩
def fcProg : Field := ⟨32, 7, 0x7F, false, 0⟩
def fcMono : Field := ⟨39, 1, 0, false, 0⟩
def fcRdsSrc : Field := ⟨40, 8, 0xFF, false, 0⟩
def fcPreemph : Field := ⟨48, 2, 1, false, 3⟩
def fcMask : Field := ⟨50, 1, 0, false, 0⟩
def fcTxPriority : Field := ⟨51, 1, 0, false, 0⟩
def fcLoWait : Field := ⟨52, 8, 0x0A, false, 0⟩
def fcLevel : Field := ⟨64, 9, 0xA0, true, 321⟩
def fcDev : Field := ⟨73, 7, 0x4B, false, 101⟩
def fcPilot : Field := ⟨80, 7, 0x1B, false, 41⟩
def fcRdsDev : Field := ⟨87, 7, 8, false, 41⟩
def fcDelay : Field := ⟨96, 8, 0, false, 0⟩
def fcLoKhz : Field := ⟨128, 32, 0, false, 0⟩
/-- The fields of an FCAR. -/
def fcarFields : List Field :=
  [fcFreq, fcProg, fcMono, fcRdsSrc, fcPreemph, fcMask, fcTxPriority, fcLoWait, fcLevel, fcDev, fcPilot, fcRdsDev, fcDelay,
   fcLoKhz]
def dcFreq : Field := ⟨0, 32, 0, false, 0⟩
def dcSource : Field := ⟨32, 32, 0, false, 0⟩
def dcLevel : Field := ⟨64, 9, 0xA0, true, 321⟩
def dcMask : Field := ⟨73, 1, 0, false, 0⟩
def dcAlign : Field := ⟨74, 1, 0, false, 0⟩
def dcAbsent : Field := ⟨75, 1, 0, false, 0⟩
def dcTxPriority : Field := ⟨76, 1, 0, false, 0⟩
def dcTiiEn : Field := ⟨77, 1, 0, false, 0⟩
def dcAnnEn : Field := ⟨78, 1, 0, false, 0⟩
def dcLoWait : Field := ⟨79, 8, 0x0A, false, 0⟩
def dcDelay : Field := ⟨96, 16, 0, false, 10001⟩
def dcTiiMain : Field := ⟨112, 7, 0, false, 70⟩
def dcTiiSub : Field := ⟨119, 5, 1, false, 24⟩
def dcTiiLevel : Field := ⟨124, 4, 4, false, 0⟩
def dcLoKhz : Field := ⟨128, 32, 0, false, 0⟩
/-- SUBSTn: USE, PG, SUBCH. -/
def dcSubUse (n : Nat) : Field := ⟨160 + 16 * n + 15, 1, 0, false, 0⟩
def dcSubPg (n : Nat) : Field := ⟨160 + 16 * n + 8, 6, 0, false, 0⟩
def dcSubCh (n : Nat) : Field := ⟨160 + 16 * n, 6, 0, false, 0⟩
def dcAnnSupport : Field := ⟨224, 16, 1, false, 0⟩
def dcCluster : Field := ⟨240, 8, 1, false, 0⟩
/-- The fields of a DCAR. -/
def dcarFields : List Field :=
  [dcFreq, dcSource, dcLevel, dcMask, dcAlign, dcAbsent, dcTxPriority, dcTiiEn, dcAnnEn, dcLoWait, dcDelay, dcTiiMain,
   dcTiiSub, dcTiiLevel, dcLoKhz] ++ (List.range 4).flatMap (fun n => [dcSubCh n, dcSubPg n, dcSubUse n]) ++
  [dcAnnSupport, dcCluster]

end Sys2Proof.Machine
end

