-- ==== Sys2Proof/Machine/Parts.lean ====
section
/-! DEFINITION. The parts of the YT9620's state as plain data: every register, ring, queue, counter, mode and pin that the manual gives the block, and each part's value after reset. -/
namespace Sys2Proof.Machine
open Sys2Proof

/-! ## Reset, fuses, boot and MRAM (R441 to R464, R416 to R418, R437 to R440) -/

/-- Where the device stands between a reset and service (R443 to R449): held in a power-on reset, held in a warm
reset, loading up to Plain sample 0, wiping (Plain samples 0 to 1023), outputs released. -/
inductive Phase where
  | porst | warm | loading | wiping | released
  deriving DecidableEq, Repr

/-- The causes of a device reset, in the code order of the RESET entry (R438); a life-cycle change is a warm reset
that the code list has no number for. -/
inductive ResetCause where
  | porst | wrst | resetReq | thermTrip | brownOut | lifeCycle
  deriving DecidableEq, Repr

/-- The OTP fuses (R1, R430, R453, R456). A life-cycle fuse is a redundant pair, true for blown. -/
structure Fuses where
  step : Byte
  serial : Word64
  lcP : Bool × Bool
  lcF : Bool × Bool
  lcR : Bool × Bool
  dbg : Bool × Bool
  /-- A pair of the other fuses disagrees. -/
  otherBad : Bool
  keyK : BitVec 256
  keyO : BitVec 256
  /-- Blown fuses of the 64-fuse thermometer MIN_SVN. -/
  minSvn : Nat
  deriving DecidableEq, Repr

/-- GLOBAL_STS.BOOT, in code order (R339). -/
inductive BootSt where
  | waitImage | loading | authFail | running | recovery
  deriving DecidableEq, Repr

/-- The boot engine (R405, R406, R451 to R454). -/
structure Boot where
  st : BootSt
  /-- Source in use, coded as BOOT_SRC. -/
  src : BitVec 2
  /-- Image bytes taken so far, in order. -/
  image : List Byte
  /-- False once data arrived out of order or with a gap (code LENGTH). -/
  inOrder : Bool
  /-- The last chunk or entry has arrived. -/
  complete : Bool
  /-- Copy B of the flash is being read. -/
  copyB : Bool
  cause : Byte
  fwMinor : Byte
  fwMajor : Byte
  svn : Nat
  commitSvn : Bool
  ready : Bool
  /-- OVR_EN, OVR_SRC and SKIP_STORYBOARD of the boot control page. -/
  ovrEn : Bool
  ovrSrc : BitVec 2
  skipStoryboard : Bool
  /-- SKIP_STORYBOARD as the present start took it. -/
  skipNow : Bool
  /-- Recovery window registers. -/
  rcvStatus : Byte
  rcvLen : Word16
  rcvOffset : Word32
  rcvData : List Byte
  /-- The flash copies are being read (R451). -/
  flash : Bool
  /-- Tick at which READY rose. -/
  readyTick : Nat
  deriving DecidableEq, Repr

/-- A pending life-cycle change (R460): target state and the KEYHASH_O it blows. -/
structure LcPending where
  target : Nat
  keyO : BitVec 256
  deriving DecidableEq, Repr

/-- A wipe of MRAM regions in progress (R461). -/
structure WipeRun where
  profile : Bool
  records : Bool
  reset : Bool
  deriving DecidableEq, Repr

/-- The two copies of an MRAM record, as the bytes of R416. -/
structure Copies where
  a : List Byte
  b : List Byte
  deriving DecidableEq, Repr

/-- An MRAM write in progress (R417): record ID, body, attempt 0 or 1, the copy being written (true for A). -/
structure NvmWrite where
  id : Nat
  body : List Byte
  gen : Nat
  toA : Bool
  attempt : Nat
  deriving DecidableEq, Repr

/-- A Dailies entry (R437). `tick` and `time` are those of the event. -/
structure Daily where
  seq : Nat
  code : Nat
  time : Word64
  tick : Word32
  object : Id
  sev : Nat
  eflags : Nat
  data : List Byte
  deriving DecidableEq, Repr

/-- The Dailies log (R404, R437 to R440). -/
structure Log where
  /-- The newest 1024 entries, oldest first. -/
  held : List Daily
  /-- Next entry sequence number. -/
  next : Nat
  /-- Entries whose persist write is not finished: sequence number and attempt. -/
  writing : List (Nat × Nat)
  sel : Word32
  autoSel : Bool
  deriving DecidableEq, Repr

/-- The MRAM: records by ID, the persisted Dailies ring (oldest first), and the over-temperature count (R433). -/
structure Mram where
  recs : List (Nat × Copies)
  dailies : List Daily
  overTicks : Nat
  /-- Copies of factory records that no longer pass: record ID, and true for copy A. -/
  factoryBad : List (Nat × Bool)
  writes : List NvmWrite
  /-- Persisted Dailies entries failed their check word at the last load (R439). -/
  dailyBad : Bool
  deriving DecidableEq, Repr

/-! ## Clocks (R17 to R44) -/

/-- The root clock, its monitor, holdover and the management clock. -/
structure Clk where
  ctlVal : BitVec 20
  /-- Factory CTL_VAL at 25 °C. -/
  ctlFactory : BitVec 20
  profile : BitVec 128
  refQual : Bool
  injecting : Bool
  lkfLock : Bool
  winLock : Bool
  locked : Bool
  /-- The integer dividers have been reset: Plain sample 0 has begun (R18). -/
  divReset : Bool
  holdover : Bool
  /-- D0 of R26 in 1/8 ppm, the error bound D in 1/8 ppm, Tj_entry in 1/16 °C. -/
  d0 : Nat
  d : Nat
  tjEntry : Int
  /-- Tick at which holdover was entered. -/
  holdTick : Nat
  relocking : Bool
  /-- CK_RF cycles by which the last join lengthened one CK_AUD low phase (R18). -/
  audRephase : Nat
  mgmtStopped : Bool
  wakeReq : Bool
  wakeTick : Nat
  stopTick : Nat
  /-- Flush counters of the crossings: ports 0 to 3, HHL_UP, HHL_DN, PCIe, management bus (R34). -/
  flushes : List Nat
  /-- CTL_VAL at the entry to holdover, from which the temperature corrections count (R25). -/
  ctlEntry : BitVec 20
  /-- The phase difference that the re-lock slew has still to remove, in 1/3072 ps, and the present offset in ppm (R27). -/
  slewLeft : Int
  slewPpm : Nat
  deriving DecidableEq, Repr

/-- The states of an Agile LO, in the code order of R379. -/
inductive AloSt where
  | idle | hopping | searching | locked | ramping
  deriving DecidableEq, Repr

/-- One hop-table entry (R38). -/
structure HopEntry where
  vcoKHz : Nat
  band : Nat
  valid : Bool
  fine : Nat
  tj : Int
  lastUse : Nat
  deriving DecidableEq, Repr

/-- One ramp segment (R43). -/
structure Segment where
  startHz : Nat
  slope : Int
  duration : Nat
  mark : Bool
  deriving DecidableEq, Repr

/-- An Agile LO (R37 to R44, R379). -/
structure Alo where
  st : AloSt
  lock : Bool
  /-- True once a first target has been set after reset. -/
  isSet : Bool
  freqHz : Nat
  k : Nat
  nInt : Nat
  nFrac : Nat
  band : Nat
  phaseRms : Nat
  hops : Nat
  searches : Nat
  user : Id
  table : List HopEntry
  /-- The ramp profile, the segment in progress, and the Timebase stamp of the last marked segment start. -/
  ramp : List Segment
  seg : Nat
  segStart : Nat
  markTime : Word64
  /-- The lock was lost in use and has not come back. -/
  lost : Bool
  /-- CK_RF count by which the hop in progress has locked, or the full search begins (R40, R42). -/
  hopEnd : Option Nat
  deriving DecidableEq, Repr

/-! ## Flags, health and the management bus (R386 to R406, R427 to R436) -/

/-- The flag register and its masks (R403, R427 to R430, R487). -/
structure Flags where
  bits : BitVec 256
  cond : BitVec 256
  attnMask : BitVec 256
  fmask : BitVec 256
  counts : List Word32
  /-- Flags without a lasting condition whose event came between reset and release (R427). -/
  early : BitVec 256
  cntSel : Byte
  attnEn : Bool
  attnRepeat : BitVec 2
  attnDailies : Bool
  pendFlag : Bool
  pendDailies : Bool
  /-- A pulse is due for a new cause; the last pulse met a collision (R399). -/
  pulseDue : Bool
  pulses : Nat
  /-- The management controller has halted (R432). -/
  halted : Bool
  /-- The flags set on one CK_CORE edge, with whether each set was a rising, and the flags cleared on one edge; an edge counts from 1 (R427). -/
  edgeSet : Nat × List (Nat × Bool)
  edgeClear : Nat × BitVec 256
  deriving DecidableEq, Repr

/-- The health page (R402) and what R435 counts. -/
structure Health where
  ts : List Int
  tjMax : Int
  tjPeak : Int
  volts : List Nat
  vmin : List Nat
  vmax : List Nat
  clearReq : Bool
  tick : Word32
  /-- Consecutive readings of each supply inside its two windows, and outside them; supplies whose condition holds. -/
  warnIn : List Nat
  faultIn : List Nat
  warnOut : List Nat
  faultOut : List Nat
  warn : List Bool
  fault : List Bool
  deriving DecidableEq, Repr

/-- The management-bus target (R386 to R398). -/
structure Bus where
  pointer : Word16
  /-- Mode in force at the next START: short pointers (R394). -/
  short : Bool
  /-- Bytes that the last read transfer returned. -/
  lastRead : List Byte
  deriving DecidableEq, Repr

/-! ## Timebase, slates, pulses and Cues (R281 to R303) -/

/-- A slew in progress (R284): OFFSET in 1/256 ns, RATE in 0.01 ppm, the first Plain sample it acts in. -/
structure Slew where
  offset : Int
  rate : Nat
  start : Nat
  deriving DecidableEq, Repr

/-- The Timebase counter (R281, R286), PTM and TIME_PROFILE. -/
structure Tb where
  sec : BitVec 48
  ns : BitVec 32
  frac : BitVec 32
  inc : Word64
  unset : Bool
  slew : Option Slew
  lastStep : Word64
  profile : BitVec 1280
  /-- A TIME_PROFILE that takes effect at the first Plain-frame boundary at or after this CK_RF count (R290). -/
  profileNext : Option (Nat × BitVec 1280)
  ptmEnabled : Bool
  ptmDialogs : Nat
  /-- T1 of the dialog in progress, in 2^-8 ns, and the CK_RF count at which it was sent. -/
  ptmT1 : Option (Nat × Nat)
  /-- The model's own: what the counter and its rate were before each of the last changes, so that an instant before one can
  still be read: CK_CORE edge of the change, value in 2^-32 ns, TB_INC, slew. -/
  past : List (Nat × Nat × Nat × Option Slew)
  deriving DecidableEq, Repr

/-- A slate queued for the EVT rings (R291). -/
structure Slate where
  object : Id
  code : Nat
  sec : Nat
  ns : Nat
  subns : Nat
  qual : Nat
  tick : Word32
  payload : List Byte
  deriving DecidableEq, Repr

/-- A burst on a pulse input (R295): its first edge's Timebase value in 2^-8 ns, the edge's direction, the total
counted, the edges of the present handshake, its end in CK_RF cycles, and whether any handshake overflowed. -/
structure Burst where
  time : Nat
  falling : Bool
  qual : Nat
  total : Nat
  now : Nat
  ends : Nat
  overflow : Bool
  deriving DecidableEq, Repr

/-- A pulse input: PPS_IN, EVT_IN0, EVT_IN1 (R295 to R298). -/
structure PulseIn where
  mode : BitVec 2
  edge : BitVec 2
  supervise : Bool
  burst : Option Burst
  /-- The pin is inside a burst that began before arming; it is ignored whole. -/
  ignoring : Option Nat
  /-- T64 of the last PPS slate since arming, 0 for none, and the CK_RF count of that slate or of the arming. -/
  lastPps : Word64
  lastAt : Nat
  gapRaised : Bool
  deriving DecidableEq, Repr

/-- The run state of a Cue (R299 to R301). -/
structure CueRun where
  /-- Number of the next pulse and its scheduled instant in 1/256 ns; none when no pulse is to come. -/
  k : Nat
  next : Option Nat
  emitted : Nat
  /-- CK_RF count at which the pulse in progress ends. -/
  pulseEnd : Option Nat
  lastDone : Bool
  deriving DecidableEq, Repr

/-! ## Objects, rings and commands (R335 to R385) -/

/-- The field block of an object, its word 0 in the low bits: the inline block of the kind's SET command, or for a port its
parameter buffer (R364). -/
abbrev Blk := BitVec 1280

/-- The life of an object (R358 to R365, R371): the state and block that commands have set, the state and block in
effect, and the boundaries (CK_RF counts) at which the first become the second. -/
structure Life where
  cmd : ObjSt
  eff : ObjSt
  blk : Blk
  cur : Blk
  holdAt : Option Nat
  dueAt : Option Nat
  liveAt : Option (Nat × Blk)
  /-- The pending run, and the pending hold, are those of a group command. -/
  viaGroup : Bool
  holdGroup : Bool
  /-- Plain sample index s0 that the last RUN counts from. -/
  s0 : Nat
  /-- The following controller opened the object as a background object (R188), or a MIRROR item did (R322). -/
  background : Bool
  mirror : Bool
  deriving DecidableEq, Repr

/-- An object: its life and its run state. -/
structure Obj (ρ : Type) where
  life : Life
  run : ρ
  deriving DecidableEq, Repr

/-- RING_CTL.STATE, in code order (R340). -/
inductive RingSt where
  | disabled | running | stopping | error
  deriving DecidableEq, Repr

/-- What a ring keeps for one source of records: next sequence number, DISCONT and DROPPED due (R349, R352). -/
structure Stream where
  key : Nat
  seq : Nat
  fresh : Bool
  dropped : Bool
  deriving DecidableEq, Repr

/-- An audio sample for a rate converter: its instant and its arrival in CK_RF cycles, 24-bit words, input-absent (R192, R231). -/
structure AudioSample where
  at_ : Nat
  arrived : Nat
  l : Int
  r : Int
  absent : Bool
  deriving DecidableEq, Repr

/-- An audio block: its Plain frame, the CK_RF instant of its first sample, its samples (L and R), which are input-absent, and its
marks. -/
structure AudioBlock where
  frame : Nat
  start_ : Nat
  samples : List (Int × Int)
  absent : List Bool
  concealed : Bool
  start : Bool
  insert : Bool
  clip : Bool
  /-- Index of the first sample since the RUN. -/
  first : Nat
  deriving DecidableEq, Repr

/-- A ring (R340 to R356): the setup that its last start took from its registers, its indices, its context, the records written to it,
and the registers themselves. -/
structure Ring where
  base : Word64
  kind : BitVec 4
  logSize : BitVec 4
  logBuf : BitVec 4
  vector : BitVec 6
  irqEn : Bool
  enable : Bool
  /-- ENABLE has been cleared since the last boundary (R344). -/
  cleared : Bool
  st : RingSt
  err : BitVec 4
  shadow : Word64
  /-- Bytes 16 to 63 of the shadow block, as read at enable. -/
  ctx : List Byte
  dProd : Word32
  dCons : Word32
  /-- The last doorbell value applied, and those written but not yet latched: CK_RF time, value and, for a FEED ring, the entries
  written with it. -/
  lastBell : Word32
  bells : List (Nat × Word32 × List (List Byte))
  drops : Word32
  /-- Bytes 0 to 11 of the shadow block as last written: D_PROD, D_CONS, DROPS. -/
  shadowW : Word32 × Word32 × Word32
  streams : List Stream
  /-- Records or releases since the last signal, and the Plain frame of the first of them. -/
  unsig : Nat
  firstUnsig : Nat
  /-- Completions owed to a CPL ring (R348). -/
  owed : Nat
  /-- A CMD ring whose CPL ring left RUNNING (R345). -/
  unpaired : Bool
  /-- Records written since the ring started, oldest first. -/
  out : List (List Byte)
  /-- Data entries that the device has taken in from a ring to the device and not released. -/
  inData : List (List Byte)
  /-- Bytes of the first such entry of a FEED ring that have been read (R354). -/
  inRead : Nat
  /-- The blocks of the record in the making of an AUDIO ring, by programme (R353). -/
  acc : List (Nat × List AudioBlock)
  /-- RING_BASE, bits 18:0 of RING_CTL, RING_SHADOW, and bytes 16 to 63 of the shadow block as the host has written them. -/
  regBase : Word64
  regCtl : Word32
  regShadow : Word64
  regCtx : List Byte
  deriving DecidableEq, Repr

/-- MSI-X (R338, R356): function enable and mask, vector masks, the pending bit array, the table's address and data
words, and the vectors of the messages sent, oldest first. -/
structure Msix where
  enable : Bool
  funcMask : Bool
  mask : BitVec 64
  pend : BitVec 64
  table : List (Word64 × Word32)
  sent : List Nat
  deriving DecidableEq, Repr

/-- Why a command that was taken up has not completed (R350). -/
inductive WaitFor where
  | carrier (kind : Kind) (idx : Nat)
  | sweep
  | cal (unit : Nat)
  | nvm (id : Nat)
  /-- The lock of ALO_RX (R55). -/
  | rxLo
  deriving DecidableEq, Repr

/-- A command that waits (R350): its descriptor, its CPL ring (64: a command that the cascade's master carried here), the number
and EFLAGS of a Storyboard entry, what it waits for, and whether its completion carries WAITED. -/
structure Waiting where
  desc : Desc
  cpl : Nat
  entry : Option (Nat × Nat)
  why : WaitFor
  marked : Bool
  deriving DecidableEq, Repr

/-- A pending AT_INDEX group command (R371). -/
structure GroupPend where
  isRun : Bool
  index : Nat
  /-- Members that the command still rules. -/
  members : List Id
  deriving DecidableEq, Repr

/-- A group (R366). -/
structure Group where
  defined : Bool
  members : List Id
  pend : List GroupPend
  deriving DecidableEq, Repr

/-- STATE of R385, in code order. -/
inductive SbSt where
  | none | replaying | done | stopped | bad
  deriving DecidableEq, Repr

/-- Storyboard staging and replay (R381 to R385). -/
structure Storyboard where
  staged : List Byte
  stagedTotal : Nat
  st : SbSt
  /-- Entries still to take up: entry number, EFLAGS, DELAY_TICKS, descriptor. -/
  todo : List (Nat × Nat × Nat × Desc)
  nent : Nat
  doneCnt : Nat
  failCnt : Nat
  firstFail : Nat
  firstStatus : Nat
  buildRun : Word32
  stopOnError : Bool
  endTime : Word64
  /-- Tick of the last take-up, whether replay waits for a join, and the tick its WAIT expires at. -/
  lastTick : Nat
  joinWait : Option Nat
  deriving DecidableEq, Repr

/-- The PCIe side and the command machinery (R335 to R356). -/
structure HostIf where
  epReady : Bool
  cmdEn : Bool
  /-- CMD_EN as the last management tick found it. -/
  cmdEnTick : Bool
  shadowNow : Bool
  rings : List Ring
  msix : Msix
  /-- Descriptors that the rings hold and the controller has not taken up, oldest first. -/
  waitq : List Desc
  waiting : List Waiting
  groups : List Group
  sb : Storyboard
  /-- Data written to host parameter buffers: address and bytes, oldest first. -/
  bufOut : List (Word64 × List Byte)
  /-- Host command take-up has been opened after replay (R455). -/
  open_ : Bool
  deriving DecidableEq, Repr

/-! ## Calibration (R407 to R423) -/

/-- TRIGGER of R421, in code order. -/
inductive CalTrigger where
  | command | temp | age | start
  deriving DecidableEq, Repr

/-- RESULT of R421, in code order. -/
inductive CalResult where
  | pass | limit | matchFail | convFail | aborted | preempted
  deriving DecidableEq, Repr

/-- How far a run has come: waiting, matching the Stand-in, settling on the generator, measuring (R411). -/
inductive CalStage where
  | pending | matching | settling | measuring
  deriving DecidableEq, Repr

/-- A run pending or in progress. -/
structure CalRun where
  trigger : CalTrigger
  stage : CalStage
  /-- True when the traffic moved to the Stand-in for this run. -/
  viaStandin : Bool
  /-- Sensor temperature at the run, in 1/16 °C, and the T64 and CK_RF count of its first boundary. -/
  temp : Int
  start : Word64
  /-- CK_RF count at which the settling or the measurement ends. -/
  ends : Nat
  band : Nat
  /-- Temperature excursion at the trigger, in 1/16 °C, and the order of a commanded run, from 1; 0 for a run that no command
  asked for. -/
  excursion : Nat
  order : Nat
  deriving DecidableEq, Repr

/-- A calibration unit (R407): CONV0 to CONV4 and TX. -/
structure CalUnit where
  run : Option CalRun
  fails : Nat
  degraded : Bool
  /-- Temperature of the last passing run, per band for TX; none when there is no valid result. -/
  temps : List (Option Int)
  /-- Tick from which the age of the last result counts. -/
  ages : List Nat
  /-- Values in force: 256 numbers for a converter, 4 a band for TX. -/
  vals : List Int
  /-- The result block of a passing run whose record is being written, with GEN still zero, and the CK_RF count of its end. -/
  report : Option (List Byte × Nat)
  /-- New values of the transmit path and the CK_RF count of the frame boundary from which they hold (R269). -/
  next : Option (Nat × List Int)
  deriving DecidableEq, Repr

/-- The calibration controller. -/
structure Cal where
  policy : BitVec 64
  units : List CalUnit
  /-- Factory values of each unit, or built-in nominal ones. -/
  factory : List (List Int)
  /-- Order of the next commanded run. -/
  orderNext : Nat
  /-- The start-up triggers are still to be tested (R455). -/
  startup : Bool
  deriving DecidableEq, Repr

/-! ## Test access (R462 to R464) -/

/-- The TAP instruction in force. -/
inductive TapInstr where
  | bypass | samplePreload | extest | idcode | clamp | highz | debug | testMode
  deriving DecidableEq, Repr

/-- The TAP controller: instruction, the boundary register, the selected data register's content (low bit shifted
first), the debug port. -/
structure Tap where
  ir : TapInstr
  boundary : List Bool
  dataReg : Word32
  debugOpen : Bool
  /-- TEST_MODE has been entered; only a power-on reset ends it (R464). -/
  testing : Bool
  deriving DecidableEq, Repr


/-! ## Aerial inputs and the Stand-in (R45 to R71) -/

/-- A mark of the quality byte (R58): the bits, from a Plain sample up to but not including another; no end while the
cause lasts. A mark without bits says that the input's Plain stands still (R69, R95). -/
structure Mark where
  start : Nat
  stop : Option Nat
  bits : Byte
  deriving DecidableEq, Repr

/-- The run state of a CONV object (R46 to R70). Instants are Plain sample indices. -/
structure ConvRun where
  lna : Nat
  att : Nat
  /-- A decided gain state and the boundary at which it takes effect (R48). -/
  nextGain : Option (Nat × Nat × Nat)
  /-- First sample of the present release span, and the first sample whose peak can attack again. -/
  holdFrom : Nat
  attackFrom : Nat
  limit : Bool
  psel : BitVec 3
  /-- First sample after the blanking interval, and whether one is in force. -/
  blankEnd : Nat
  blanking : Bool
  /-- L-band: the samples wait for the lock of ALO_RX. -/
  loWait : Bool
  /-- The quality marks of the input's Plain samples (R58). -/
  marks : List Mark
  clipCnt : Nat
  agcSteps : Nat
  peak : Int
  matchGain : Int
  matchDelay : Int
  /-- Matching corrections stored for the input, once it has been visited: gain in 2^-16, delay in 0.01 ps, offset in 1/16 LSB
  (R63). -/
  corr : Option (Int × Int × Int)
  failed : Option FailCause
  /-- The marks that an unlocked ALO_RX sets (R42, R55). -/
  loMarks : List Mark
  /-- The last run was in L-band mode (R55). -/
  wasLband : Bool
  /-- Gain states by the Plain sample from which each holds, the newest first: sample, LNA code, attenuation (R47, R48). -/
  gains : List (Nat × Nat × Nat)
  /-- The matching correction left on the input's own converter, in the units of `corr`, and the CK_RF count from which it goes to
  zero, once the traffic is back (R62). -/
  left : Int × Int × Int
  leftFrom : Option Nat
  /-- FAIL_CAUSE of R70: the cause of the last failure or failed match. -/
  cause : Option FailCause
  /-- Powered by OBJ_OPEN, not powered down by OBJ_CLOSE (R69). -/
  powered : Bool
  onStandin : Bool
  /-- The converter's words that are not zero, with their CK_RF counts, in order, and the count up to which words have been taken; the
  last 2048 stand in the check buffer (R57). -/
  words : List (Nat × Int)
  wordsTo : Nat
  /-- When the matching pilot is injected at the input's split point (R59, R60). -/
  pilots : List Mark
  deriving DecidableEq, Repr

/-- What the Stand-in is doing for an input (R59 to R66). -/
inductive StandinUse where
  | idle
  /-- A visit of the rota (R63). -/
  | visit (input : Nat)
  /-- Matching to take an input's traffic, for a calibration run or under DEG_STANDIN. -/
  | take (input : Nat) (forCal : Bool)
  /-- Carrying an input's traffic. -/
  | carry (input : Nat)
  /-- Matching ADCx to return an input's traffic (R62). -/
  | giveBack (input : Nat)
  /-- A failover to an input is under way (R65). -/
  | failover (input : Nat)
  deriving DecidableEq, Repr

/-- The stage of a match (R59, R60). -/
inductive MatchStage where
  | none | settling | window | check
  deriving DecidableEq, Repr

/-- A failover in progress (R65, R66). -/
structure FailMove where
  input : Nat
  k : Nat
  moveAt : Nat
  switchAt : Nat
  /-- The declaration's time in 2^-8 ns and its QUAL. -/
  time : Nat
  qual : Nat
  cause : FailCause
  /-- An input whose traffic goes back to its own converter at the same boundaries. -/
  other : Option Nat
  moved : Bool
  /-- The CONV_FAIL slate is due at the switch. -/
  slate : Bool
  /-- The calibration runs that end at the crossbar move (R66, R412). -/
  ends : List Nat
  deriving DecidableEq, Repr

/-- The Stand-in: crossbar, use, matching stage, rota (R59 to R66). -/
structure Standin where
  conn : Option Nat
  use : StandinUse
  stage : MatchStage
  /-- CK_RF count at which the stage ends. -/
  stageEnd : Nat
  fails : Nat
  rota : Nat
  /-- Corrections in force on ADC4 (R59, R65). -/
  corr : Int × Int × Int
  move : Option FailMove
  /-- Return windows pause until the next tick (R62). -/
  retry : Bool
  /-- The Plain-frame boundary at which a visit to an input just closed is abandoned (R63). -/
  abandonAt : Option Nat
  /-- The crossbar has connected ADC4 to an input during the present tick (R70). -/
  connTick : Bool
  deriving DecidableEq, Repr


/-! ## Passes and captures (R80 to R103) -/

/-- The quality word of R94 and, sample by sample, which are GAP, for one stream of a block (R95, R101). -/
structure StreamQual where
  qual : Nat
  gaps : List Bool
  deriving DecidableEq, Repr

/-- A delivered output sample of a Pass: its number, and of each branch the value in units of 2^-8 and whether it is GAP (R75, R95). -/
structure PassSample where
  m : Nat
  vals : List (Int × Int)
  gaps : List Bool
  deriving DecidableEq, Repr

/-- The run state of a Pass. -/
structure PassRun where
  /-- The settling gate is open (R93), and the first block has been delivered. -/
  gateOpen : Bool
  started : Bool
  /-- DC-blocker state d of each branch, I and Q, 32 bits in units of 2^-13 (R77, R89). -/
  dcb : List (Int × Int)
  /-- The Plain frame from which a live FINE applies (R94 RETUNE). -/
  retuneAt : Option Nat
  /-- OR of the quality words, largest exponent, LEVEL sums and sample counts: over the present tick and over the last. -/
  qualNow : Nat
  qualTick : Nat
  expNow : Nat
  expTick : Nat
  powNow : List (Nat × Nat)
  levelTick : List Int
  overCnt : Nat
  /-- The last block: its frame and the quality of each of its streams; none while the Pass delivers nothing. -/
  block : Option (Nat × List StreamQual)
  /-- Words of its buffers that could not be corrected: that many samples of the next block are GAP (R432). -/
  gapNext : Nat
  /-- FINE over the run, the newest first: the CK_RF count from which each value holds (R84). -/
  tunes : List (Nat × Int)
  /-- The samples delivered, in order: what its consumers read. -/
  out : List PassSample
  /-- The blocks delivered, the newest first: frame, fields in effect, quality (R92). -/
  past : List (Nat × Blk × List StreamQual)
  deriving DecidableEq, Repr

/-- The run state of a CAP object (R100 to R103). -/
structure CapRun where
  source : Id
  streams : Nat
  exp16 : Bool
  refExp : Nat
  ring : Nat
  /-- First Plain frame captured. -/
  first : Nat
  count : Nat
  done : Nat
  written : Nat
  dropped : Nat
  /-- CAP_STOP, OBJ_HOLD or a closed source: the block in progress is the last. -/
  stopping : Bool
  /-- The CK_RF count at which a group's hold stops it (R371). -/
  stopAt : Option Nat
  deriving DecidableEq, Repr


/-! ## Demodulators (R104 to R139) -/

/-- The pilot loop's states (R112). -/
inductive PilotSt where
  | absent | acquiring | locked
  deriving DecidableEq, Repr

/-- Sync states of the RDS and AMSS decoders, in code order (R137, R138). -/
inductive SyncSt where
  | off | search | sync
  deriving DecidableEq, Repr

/-- The weights in units of 2^-24 and the phases in 2^-32 turn of a demodulator's branches, at the start of the frame to be taken next and at its
end; none before the first frame (R107). -/
structure CombRun where
  from_ : List (Nat × Int)
  to_ : List (Nat × Int)
  deriving DecidableEq, Repr

/-- A combined sample: its instant in CK_RF cycles, its value in units of 2^-16, and whether every branch was GAP (R107, R108); in AM, whether it is
an impulse (R119). -/
structure CombSample where
  at_ : Nat
  val : Int × Int
  gap : Bool
  hit : Bool
  deriving DecidableEq, Repr

/-- The signal path of an FMD behind the combiner (R110 to R114, R124). -/
structure FmPath where
  /-- The equaliser's 16 taps in units of 2^-24 and its last 16 inputs, the newest first. -/
  taps : List (Int × Int)
  line : List ((Int × Int) × Bool)
  /-- The last sample and whether it was GAP, the last valid f in MPX steps, and the tracked mean in 2^-16 of a step. -/
  lastY : Int × Int
  lastGap : Bool
  lastF : Int
  mean : Int
  /-- MPX words that are not zero: instant, word after offset removal, phase of the pilot loop in 2^-32 turn. -/
  mpx : List (Nat × Int × Int)
  /-- Phases in 2^-32 turn and their corrections per sample, of the pilot loop and of the Costas loop. -/
  pilotPhase : Int
  pilotFreq : Int
  rdsPhase : Int
  rdsFreq : Int
  /-- The bit clock in 2^-32 bit, the matched sum, the last symbol, the bits decoded with their instants, the newest last, and the squared errors
  and powers of the symbols. -/
  bitPhase : Nat
  bitSum : Int
  lastSym : Bool
  bits : List (Nat × Bool)
  syms : List Int
  /-- De-emphasis states of L and R in 2^-16 of an audio step. -/
  deemph : Int × Int
  deriving DecidableEq, Repr

/-- A sample behind the AM carrier loop: instant, derotated value in units of 2^-16, weight of synchronous detection of 32, carrier
amplitude in units of 2^-16. -/
structure AmSample where
  at_ : Nat
  val : Int × Int
  w : Nat
  amp : Nat
  deriving DecidableEq, Repr

/-- The signal path of an AMD behind the combiner (R119 to R121, R131). -/
structure AmPath where
  phase : Int
  freq : Int
  /-- The carrier amplitude in units of 2^-32; none before the first sample. -/
  amp : Option Nat
  /-- Samples behind the loop, the newest last, and the instant up to which the blanker has released samples. -/
  ds : List AmSample
  doneTo : Nat
  /-- The reference loop of AMSS, its bit clock in 2^-32 bit, the sum of the phase difference, and the bits (R131). -/
  refPhase : Int
  refFreq : Int
  bitPhase : Nat
  bitSum : Int
  bits : List (Nat × Bool)
  deriving DecidableEq, Repr

/-- What FMD and AMD share (R105 to R108, R116, R117, R122). -/
structure DemodCore where
  /-- The Pass delivers nothing that the demodulator can use. -/
  absent : Bool
  badInput : Bool
  /-- CK_RF instant of the first Pass sample taken since the (re)start; none before it. -/
  began : Option Nat
  /-- Audio samples delivered since the (re)start. -/
  delivered : Nat
  /-- Input samples of the present all-GAP run. -/
  gapRun : Nat
  /-- Audio samples of the fade-in still to come, of 32. -/
  fade : Nat
  lastAudio : Int × Int
  concealedQ : Bool
  figures : Figures
  out : Option AudioBlock
  /-- Input samples lost to uncorrectable words (R432). -/
  gapNext : Nat
  /-- The combiner, the number of the next Pass sample to take, and the combined samples, the newest last. -/
  comb : CombRun
  next : Nat
  ys : List CombSample
  deriving DecidableEq, Repr

/-- The run state of an FMD. -/
structure FmdRun where
  core : DemodCore
  pilot : PilotSt
  goodWindows : Nat
  /-- The blend β in units of 2^-24, and the audio samples left of the fall to mono after a loss of lock (R113). -/
  beta : Nat
  betaFall : Nat
  rds : SyncSt
  /-- Of the last 32 blocks, which were BAD. -/
  last32 : List Bool
  piConf : Option Word16
  piCand : Option Word16
  /-- The PI of the last group that carried a valid one. -/
  piLast : Option Word16
  resync : Bool
  /-- The group's span includes concealed or ABSENT audio. -/
  groupConcealed : Bool
  /-- The MER of the last 8 groups. -/
  mers : List Nat
  eqFrozen : Bool
  /-- Consecutive BAD blocks (R125). -/
  badRun : Nat
  path : FmPath
  deriving DecidableEq, Repr

/-- The run state of an AMD. -/
structure AmdRun where
  core : DemodCore
  locked : Bool
  /-- Synchronous detection is active, and the crossfade samples left of a change (R120). -/
  sync : Bool
  cross : Nat
  amss : SyncSt
  amssGood : Nat
  amssBad : Nat
  last16 : List Bool
  resync : Bool
  nbCnt : Nat
  nbSkip : Nat
  /-- The span since the last AMSS block includes concealed or ABSENT audio (R132). -/
  blockConcealed : Bool
  path : AmPath
  deriving DecidableEq, Repr


/-! ## Ensemble engines (R140 to R172) -/

/-- The synchronisation states of R146, in the code order of R171. -/
inductive EeSync where
  | search | candidate | sync | fic | locked
  deriving DecidableEq, Repr

/-- A sample at an engine's working rate (R140, R158): a value for each branch in units of 2^-8, 18-bit words, and whether it is GAP. -/
structure WorkSample where
  vals : List (Int × Int)
  gaps : List Bool
  deriving DecidableEq, Repr

/-- The decision on a candidate (R144, R152): the correlation ratio in 0.1 dB, the frequency offset in 2^-32 turn per working sample, the number of the working sample that
begins its frame and the place of the strongest path within a sample in sixteenths, the delay of the earliest path within 20 dB
and the centroid of the impulse response in working samples, and the span that holds 90 % of its energy. -/
structure EeTest where
  ratio : Nat
  freq : Int
  first : Nat
  fine : Nat
  early : Int
  centroid : Int
  spread : Nat
  deriving DecidableEq, Repr

/-- A candidate of the search (R143, R152): the working sample at which its test symbol begins, none while the null lasts; the decision, once its symbol
has been received; what examines it: 0 not yet announced, 1 the main path, 2 the second-look search. -/
structure EeCand where
  start : Option Nat
  test : Option EeTest
  taken : Nat
  deriving DecidableEq, Repr

/-- Null detection (R143): the power of the 5104 samples before the onset; samples since then; the null has been confirmed. -/
structure NullRun where
  ref : Nat
  down : Nat
  confirmed : Bool
  deriving DecidableEq, Repr

/-- An arrival (R148): its delay relative to the main timing in working samples, and its power. -/
structure EeArrival where
  delay : Int
  power : Nat
  deriving DecidableEq, Repr

/-- Decoded FIC, FAC or SDC data that wait to be delivered (R163, R164): bytes, bits, place in the frame, check passed, soft bits erased, the instant at
which the transmission frame began in CK_RF cycles, and the number of the frame's first logical frame. -/
structure EeBlock where
  data : List Byte
  nbits : Nat
  no : Nat
  ok : Bool
  erased : Bool
  at_ : Nat
  frame : Nat
  deriving DecidableEq, Repr

/-- A CIF or a DRM frame in the deinterleaver (R150, R160): its number, the instant at which its transmission frame began, its soft bits (DAB, 4 bits) or its
cells with their CSI (DRM), and whether they are erased. -/
structure EeStore where
  no : Nat
  at_ : Nat
  soft : List Int
  cells : List (Int × Int × Nat)
  erased : Bool
  deriving DecidableEq, Repr

/-- The tracking of a channel from SYNC on: the working sample that begins the frame in progress and its instant in CK_RF cycles, the number of its first logical frame,
the next symbol (0 is the null of DAB), the offset removed and the one acquired, where the centroid of the response stays, the last symbol's spectra per
branch with the fraction of valid samples in 1/65536, the null powers of the last frames per branch and carrier (the newest first), and the soft bits
collected, with whether some were erased. -/
structure EeTrack where
  first : Nat
  at_ : Nat
  no : Nat
  sym : Nat
  freq : Int
  freq0 : Int
  centroid : Int
  ratio : Nat
  spread : Nat
  /-- Some sample of the frame was valid; FIBs or FACs of the frame that passed their check. -/
  valid : Bool
  passed : Nat
  prev : List (List (Int × Int))
  prevFrac : List Nat
  noise : List (List (List Nat))
  soft : List Int
  lost : Bool
  /-- Sums of |ideal|² and of the squared error over FIC or FAC, SDC and MSC, and CSI-weighted over MSC (R166). -/
  mer : List (Nat × Nat)
  /-- Accumulated TII powers per carrier and the frames in them (R147). -/
  tii : List Nat
  tiiFrames : Nat
  deriving DecidableEq, Repr

/-- The signal path of a channel of an engine. -/
structure EePath where
  /-- The next Pass sample to take, none before the Pass's first block; the last samples taken, the newest last. -/
  next : Option Nat
  ins : List (Nat × PassSample)
  /-- The instant of the next working sample in 2^-16 CK_RF cycle, its number, the tracked rate in 0.01 ppm; the samples before it, the newest first. -/
  at_ : Nat
  pos : Nat
  sro : Int
  buf : List WorkSample
  null : NullRun
  cands : List EeCand
  /-- Averaged guard correlation of modes A to D in thousandths, and where a guard interval of the mode begins (R152). -/
  peaks : List Nat
  guard : Option Nat
  track : Option EeTrack
  /-- Consecutive frames that fail both tests of R146, and how many of them were absent altogether. -/
  lossRun : Nat
  absentRun : Nat
  /-- The arrivals of the last frames, the newest first; those outside the guard counted since the last query. -/
  arrivals : List (List EeArrival)
  seen : Nat
  blocks : List EeBlock
  store : List EeStore
  /-- The number that the next CIF or frame stored has, and the next logical frame to deliver. -/
  stored : Nat
  deliver : Nat
  /-- The TII identifiers of the last average: main, sub, level in 0.5 dB (R147). -/
  tiiSet : List (Nat × Nat × Int)
  figures : EeFigures
  deriving DecidableEq, Repr

/-- One channel of an engine. -/
structure EeChan where
  sync : EeSync
  /-- Mode code of R171: 0 DAB mode I, 1 A to 5 E, 0xFF not detected. -/
  mode : Nat
  occ : Nat
  unsupported : Bool
  outOfPass : Bool
  interruptedQ : Bool
  holdDriftQ : Bool
  /-- The next FIB, FAC or SDC is the first after SYNC; the next SDC is. -/
  resync : Bool
  resyncSdc : Bool
  /-- The CIF count or frame position of the logical frame numbered 0, once a count has been read (R150, R162). -/
  base : Option Nat
  /-- Last count delivered, and the instant of the last logical frame delivered in CK_RF cycles. -/
  count : Nat
  lastAt : Option Nat
  eid : Option Nat
  /-- A re-lock waits for its first count (R150); the CK_RF count of the last re-lock. -/
  relocked : Bool
  relockAt : Option Nat
  /-- The layout code, constellation and interleaving of the last FAC applied; hierarchical modulation has been reported. -/
  layout : Option Nat
  constellation : Nat
  short : Bool
  hierSaid : Bool
  /-- The first logical frame that MSC decoding covers (R152). -/
  mscFrom : Option Nat
  /-- Words of its buffers that could not be corrected: that many stored logical frames are erased (R432). -/
  erased : Nat
  /-- Results of the last FIBs or FACs and SDC blocks, newest first, true for a CRC failure (R166). -/
  badHist : List Bool
  sdcHist : List Bool
  path : EePath
  deriving DecidableEq, Repr

/-- The organisation of a sub-channel as FIG 0/1 gives it (R160, R183). -/
structure SubOrg where
  start : Nat
  size : Nat
  prot : Nat
  dabPlus : Bool
  deriving DecidableEq, Repr

/-- A sub-channel, or a DRM stream (R160, R161, R171). -/
structure EeSub where
  org : Option SubOrg
  /-- The entry for the next configuration. -/
  next : Option SubOrg
  decoded : Bool
  sfSync : Bool
  sfFails : Nat
  /-- Its next output is the first. -/
  first : Bool
  discontQ : Bool
  uncorrQ : Bool
  /-- Wrong and compared bits of the last 40 logical frames, corrected bytes and uncorrectable codewords of the last 10 superframes (R166). -/
  bers : List (Nat × Nat)
  rs : List (Nat × Nat)
  /-- Decoded bytes of the logical frames of the superframe in progress, and the last superframe delivered with its uncorrectable codewords (R161). -/
  frames : List (List Byte)
  superframe : List Byte
  badWords : List Nat
  /-- Tick of the last RS_FAIL (R190). -/
  rsFailTick : Option Nat
  deriving DecidableEq, Repr

/-- A logical frame delivered (R162): channel, sub-channel or stream (64: the whole CIF), count, FRAME_TIME, flags in the
row order of R162. -/
structure LogicalOut where
  chan : Nat
  sub : Nat
  count : Nat
  time : Word64
  flags : Nat
  deriving DecidableEq, Repr

/-- The run state of an engine. -/
structure EeRun where
  chans : List EeChan
  subs : List EeSub
  arrivals : Nat
  relocks : Nat
  tii : List (Nat × Nat × Int)
  /-- CIF count at which FIG 0/0 announces the next configuration. -/
  reconfigAt : Option Nat
  /-- The last logical frame of each sub-channel or stream, and of the CIF. -/
  outs : List LogicalOut
  /-- The fields of the Pass of each channel at RUN, by which its LATENCY is fixed (R490). -/
  passBlks : List Blk
  deriving DecidableEq, Repr

/-! ## Service tables and following (R173 to R200) -/

/-- An origin of a service table (R176): object and channel. -/
structure Origin where
  object : Id
  chan : Nat
  deriving DecidableEq, Repr

/-- A service entry (R176, R182). -/
structure Service where
  origin : Origin
  keyKind : Nat
  key : Nat
  pty : Nat
  flags : Nat
  ecc : Nat
  lang : Nat
  eid : Nat
  label : List Byte
  stale : Bool
  deriving DecidableEq, Repr

/-- A component entry (R183). -/
structure Component where
  origin : Origin
  keyKind : Nat
  key : Nat
  subch : Nat
  type : Nat
  start : Nat
  size : Nat
  prot : Nat
  primary : Bool
  bitrate : Nat
  deriving DecidableEq, Repr

/-- A text that is current for a key (R184). -/
structure TextEntry where
  origin : Origin
  keyKind : Nat
  key : Nat
  type : Nat
  charset : Nat
  text : List Byte
  deriving DecidableEq, Repr

/-- The last list of one SRC for a key (R185). -/
structure AltEntry where
  origin : Origin
  alt : AltIn
  deriving DecidableEq, Repr

/-- The confirmation state of an FMD origin (R177). -/
structure RdsConfirm where
  /-- PTY and TP of the last group; TA and M/S of the last type 0 group. -/
  ptyTp : Option Nat
  taMs : Option Nat
  ps : List (Option Nat)
  psOk : List Bool
  rt : List (Option Nat)
  rtOk : List Bool
  rtAb : Option Bool
  ptyn : List (Option Nat)
  ptynOk : List Bool
  ecc : Option Nat
  /-- AF codes collected since a count code, the count first; and the same per other network (EON). -/
  af : List Nat
  eonAf : List (Nat × List Nat)
  deriving DecidableEq, Repr

/-- An announcement that is ON (R221): origin, key, cluster (0xFF: none), types, sub-channel, and the CK_RF count of the last
signalling. -/
structure Ann where
  origin : Origin
  key : Nat
  cluster : Nat
  types : Nat
  sub : Nat
  lastAt : Nat
  eon : Bool
  deriving DecidableEq, Repr

/-- The service decoder. -/
structure Services where
  svc : List Service
  comp : List Component
  text : List TextEntry
  alts : List AltEntry
  /-- When each origin last gave confirming data, as a CK_RF count. -/
  lastData : List (Origin × Nat)
  confirm : List RdsConfirm
  figOverrun : Nat
  sdcOverrun : Nat
  tableFull : Nat
  /-- AMSS entity bytes assembled so far, per AMD. -/
  amss : List (List Byte)
  /-- Components and services of the next DAB configuration, per origin (R178). -/
  nextComp : List Component
  /-- Announcements that are ON (R221). -/
  anns : List Ann
  /-- The alarm flag of FIG 0/0 of each origin. -/
  alarm : List (Origin × Bool)
  /-- Announcement support of FIG 0/18: origin, service key, types, clusters. -/
  support : List (Origin × Nat × Nat × List Nat)
  /-- Dumps due: ring, source, and the tick by which they are written (R175). -/
  dumps : List (Nat × Id × Nat)
  deriving DecidableEq, Repr

/-- STATE of the following block, in code order (R199). -/
inductive FollowSt where
  | off | waitId | following | suspended
  deriving DecidableEq, Repr

/-- Candidate states, in code order (R189, R199). -/
inductive CandSt where
  | idle | probe | aligning | ready | standby | active | ineligible | starved
  deriving DecidableEq, Repr

/-- A host list entry (R196). -/
structure HostCand where
  std : Nat
  flags : Nat
  inputs : Nat
  freqKHz : Nat
  key : Nat
  eid : Nat
  deriving DecidableEq, Repr

/-- A candidate of a followed service (R186, R189 to R192). -/
structure Cand where
  entry : HostCand
  /-- ORIGIN of R199: bit 7 LEARNED, bits 3:0 SRC. -/
  origin : Nat
  st : CandSt
  /-- CK_RF count at which the state was entered. -/
  since : Nat
  /-- Q in units of 2^-16 × 0.25 dB, once measured, and R in 0.25 dB. -/
  q : Option Int
  r : Int
  peak : Nat
  /-- Established offset Δ in 48 kHz sample frames, the run of counting measurements that agree, and how many in a row did not
  count or agree. -/
  delta : Option Int
  lags : List Int
  miss : Nat
  outOfRange : Bool
  background : List Id
  levelDiff : Int
  usable : Bool
  identity : Bool
  deriving DecidableEq, Repr

/-- A change of source (R194): candidate, boundary, end, unaligned, cause. -/
structure Change where
  target : Nat
  start : Nat
  stop : Nat
  unaligned : Bool
  absentCause : Bool
  started : Bool
  deriving DecidableEq, Repr

/-- The following state of a programme (R186 to R200). -/
structure Follow where
  policy : BitVec 128
  hostList : List HostCand
  st : FollowSt
  key : Nat
  keyKind : Nat
  active : Nat
  standby : Option Nat
  cands : List Cand
  bAct : Nat
  bSb : Int
  /-- The level scale in 2^-16 of 1/16 dB. -/
  scale : Int
  switches : Nat
  starved : Nat
  lastTime : Word64
  change : Option Change
  /-- Ticks for which: the active source's Q is below 0 dB, the standby is better by the margin, a READY candidate beats the
  standby by 1 dB; tick of the last change. -/
  failTicks : Nat
  betterTicks : Nat
  rivalTicks : Nat
  rival : Nat
  /-- Ticks for which the active source has delivered nothing. -/
  absentTicks : Nat
  /-- CK_RF count of the last change in this run; 0 for none. -/
  lastChange : Nat
  failRaised : Bool
  /-- CK_RF count until which the offsets of a suspended service are kept. -/
  keepUntil : Option Nat
  deriving DecidableEq, Repr


/-! ## Programmes and inserts (R201 to R222) -/

/-- A gain that moves linearly in amplitude (R210): from and to, in units of 2^-24, and the Plain frame the move starts at. -/
structure GainRamp where
  from_ : Nat
  to_ : Nat
  start : Nat
  deriving DecidableEq, Repr

/-- One source's area of an alignment pool (R192): candidate, its 48 kS/s history, newest first (none for input-absent), the index of the newest on the
48 kHz grid, and the correlation history (R191): the mono envelope at 1 kS/s, newest first, and the millisecond of the newest. -/
structure PoolArea where
  cand : Nat
  hist : List (Option (Int × Int))
  last : Nat
  env : List Int
  envLast : Nat
  deriving DecidableEq, Repr

/-- An interval in which an insert has a programme (R214, R258): the insert, what INSERT_START gave it, the CK_RF counts of its start
boundary and of the end of its stop crossfade. -/
structure AirIns where
  ins : Nat
  inl : Inline
  text : List Byte
  from_ : Nat
  to_ : Option Nat
  deriving DecidableEq, Repr

/-- The run state of a PROG. -/
structure ProgRun where
  /-- Decode units charged at RUN (R203). -/
  units : Nat
  codec : Nat
  mismatch : Bool
  /-- The programme delivers input-absent; its own source does. -/
  absent : Bool
  srcAbsent : Bool
  /-- CK_RF instant at which the fade-in in progress began; the next delivered sample begins one (R208, R209). -/
  fadeFrom : Option Nat
  restarting : Bool
  delivered : Nat
  gain : GainRamp
  /-- Consecutive frames in error, frames muted since, consecutive good frames after muting (R207). -/
  errRun : Nat
  goodRun : Nat
  lastUnit : List (Int × Int)
  conceal : Nat
  muted : Nat
  rate : Nat
  bitrate : Nat
  channels : Nat
  clipQ : Bool
  startTime : Word64
  /-- The insert that takes the programme, and the boundary (a CK_RF count) from which it does; none until its first
  delivered sample for a programme that was HELD (R214). -/
  insert : Option Nat
  insertFrom : Option Nat
  /-- Boundary at which an insert releases it, and the insert that it was moved away from (R215). -/
  insertTo : Option Nat
  insertOld : Option Nat
  /-- The last intervals in which inserts have had the programme, oldest first (R258). -/
  airIns : List AirIns
  pool : List PoolArea
  /-- The last block, and the block in the making of a decoded programme. -/
  out : Option AudioBlock
  part : Option AudioBlock
  /-- Next sample of the 48 kHz grid that a followed programme delivers. -/
  next48 : Nat
  follow : Follow
  /-- Its buffered samples were lost to an uncorrectable word: the next output block is input-absent (R432). -/
  absentNext : Bool
  /-- Delivered samples that the routes convert, the newest first (R231); the source's own samples with their rate and the next index of the 48 kHz grid, for
  the alignment pools (R192). -/
  hist : List AudioSample
  src : List AudioSample
  srcRate : Nat
  srcNext : Nat
  /-- Output rate of the first unit decoded in this run, which fixes the decoder's delay; 0 before it (R205). -/
  firstRate : Nat
  deriving DecidableEq, Repr

/-- Why an insert ends (R220). -/
inductive InsertCause where
  | stop | preempted | sourceLost
  deriving DecidableEq, Repr

/-- An insert (R213 to R220). -/
structure Insert where
  active : Bool
  inl : Inline
  text : List Byte
  /-- Programmes taken, and those that its pending start takes or its pending stop releases, with the boundary. -/
  members : List Nat
  startAt : Option Nat
  starting : List Nat
  stopAt : Option Nat
  stopping : List Nat
  cause : InsertCause
  /-- Boundary and direction of the crossfade in progress. -/
  fadeFrom : Option Nat
  fadeOut : Bool
  /-- Start and stop boundaries on air: T_on and T_off before the carrier delay (R258). -/
  onAt : Option Nat
  offAt : Option Nat
  underrun : Bool
  underAt : Nat
  /-- Source samples taken, and the CK_RF instant that the count stands at. -/
  taken : Nat
  takenAt : Nat
  /-- The samples read, on the 48 kHz grid, newest first (R213). -/
  hist : List AudioSample
  deriving DecidableEq, Repr


/-! ## Audio ports (R223 to R246) -/

/-- The states of a port in RUN (R227, R237, R239). -/
inductive PortSt where
  | idle | seek | sync | clockLost | rateJump
  deriving DecidableEq, Repr

/-- The run state of a route (R230 to R234). -/
structure RouteRun where
  /-- D in CK_RF cycles, once fixed. -/
  delay : Option Nat
  short : Bool
  under : Bool
  underQ : Bool
  clipQ : Bool
  cnt : Nat
  /-- The words presented in the last frame, and those of the last frame before the underrun. -/
  last : Int × Int
  kept : Int × Int
  /-- Frames of the 1 ms ramp still to come. -/
  ramp : Nat
  rampFrom : Int × Int
  deriving DecidableEq, Repr

/-- The run state of a PORT. -/
structure PortRun where
  st : PortSt
  bclkSeen : Bool
  fsErr : Nat
  losses : Nat
  jumps : Nat
  /-- ρ − 1 of the last tick in 0.01 ppm. -/
  ratio : Int
  steady : Nat
  lastFs : Word64
  /-- CK_RF count of the last frame's instant, and that of the loss of clock. -/
  lastAt : Nat
  lostAt : Nat
  /-- First instant a frame can carry data. -/
  dataFrom : Nat
  routes : List RouteRun
  /-- The DO words of the last frame, slot by slot, none where high impedance; the DI words. -/
  dout : List (Option Int)
  di : List (Option Int)
  frames : Nat
  /-- Rate-converter samples were lost to an uncorrectable word: the next frame reads its sources as absent (R432). -/
  absentNext : Bool
  /-- t_n of the last frame and the tracked frame period in 1/16 CK_RF cycle; the same t_n at the last tick, and the frames since (R228). -/
  tn : Nat
  period : Nat
  tickTn : Nat
  tickFrames : Nat
  /-- The DI words of the last frames with their instants and arrivals, the newest first (R241). -/
  diHist : List (Nat × Nat × List (Option Int))
  /-- DO at each bit clock of the last frame, none where high impedance (R224). -/
  line : List (Option Bool)
  deriving DecidableEq, Repr


/-! ## The composer (R247 to R280) -/

/-- Where a carrier in RUN stands (R265, R266, R279). -/
inductive AirSt where
  | idle | waitLo | starting | onAir | offAir
  deriving DecidableEq, Repr

/-- Why a carrier went off air (R280), in the row's order. -/
inductive OffCause where
  | hold | group | loLost | drift | absent
  deriving DecidableEq, Repr

/-- What both kinds of carrier keep. -/
structure AirRun where
  st : AirSt
  cause : OffCause
  /-- CK_RF count of the start (or return) boundary, of the end of LO_WAIT, and of the tick of the RUN. -/
  startAt : Option Nat
  waitEnd : Option Nat
  runAt : Nat
  /-- D in CK_RF cycles, once fixed. -/
  delay : Option Nat
  short : Bool
  levelMeas : Int
  merTx : Int
  levelTicks : Nat
  levelOut : Bool
  startTime : Word64
  /-- The inserts whose edits are on air. -/
  edits : List Nat
  /-- The block boundary at which DRIFT takes the carrier off air (R266). -/
  offAt : Option Nat
  /-- CK_RF counts at which the present rise and the last fall began (R265, R266). -/
  riseAt : Option Nat
  fallAt : Option Nat
  /-- The present rise has no ramp: the composite starts at full level (R271). -/
  full : Bool
  /-- The correction of the level loop in 0.01 dB, and the next one with its block boundary (R249). -/
  trim : Int
  trimNext : Option (Nat × Int)
  /-- A word of the carrier's queue was lost: its next sample or frame is input-absent (R432). -/
  lost : Bool
  deriving DecidableEq, Repr

/-- An FCAR's modulator (R252, R255, R257): the next and the first index of the 48 kHz grid that it radiates; audio L and R, pre-emphasised and limited L + R and
L - R, the newest first and 95, 64 and 16 indices ahead; what the pre-emphasis remembers of each; the phase integral in 2^-32 turn; the peak deviation of
the tick in 150 kHz / 2^24; the last MPX samples at 192 kS/s with the phase, the newest first; the RDS bits sent, differentially coded, the newest first, and the
number of the bit after them. -/
structure FmMod where
  next : Nat
  first : Nat
  raw : List (Int × Int)
  pre : List (Int × Int)
  lim : List (Int × Int)
  mem : (Int × Int) × (Int × Int)
  phase : Nat
  peak : Nat
  mpx : List (Int × Nat)
  bits : List Bool
  bitEnd : Nat
  deriving DecidableEq, Repr

/-- What a DAB engine gives the composer of one CIF (R259): its count, the FRAME_TIME of its transmission frame in 1/256 ns, the CK_RF counts at which it was
received and at which its data came, and each sub-channel's organisation and decoded bytes. -/
structure AirCif where
  count : Nat
  time : Nat
  at_ : Nat
  arrived : Nat
  subs : List (Nat × SubOrg × List Byte)
  deriving DecidableEq, Repr

/-- A FIB as the engine gives it: FRAME_TIME in 1/256 ns, its place 0 to 11, the CRC's result, its 30 data bytes, and its arrival. -/
structure AirFib where
  time : Nat
  no : Nat
  ok : Bool
  data : List Byte
  arrived : Nat
  deriving DecidableEq, Repr

/-- What the DCARs hold of one engine, the newest first. -/
structure AirSrc where
  src : Id
  cifs : List AirCif
  fibs : List AirFib
  /-- The last FIG 0/0 and the FIGs 0/1 and 0/2 of the present configuration (R261). -/
  figs : List (List Byte)
  deriving DecidableEq, Repr

/-- A transmission frame on air (R259, R264): the Timebase value at its beginning in 1/256 ns, the 9216 bits of its FIC symbols, the bits of its CIFs after
time interleaving, and whether its null symbol carries the TII pairs. -/
structure DcarAir where
  begins : Nat
  fic : List Bool
  msc : List (List Bool)
  tii : Bool
  deriving DecidableEq, Repr

/-- The run state of an FCAR. -/
structure FcarRun where
  air : AirRun
  /-- Groups waiting: the slot each maps to, and its four words with C′ marked. -/
  queue : List (Nat × List Word16 × Bool)
  fill : Nat
  drop : Nat
  seg : Nat
  rdsOn : Bool
  /-- Insert radiotext: the next segment, slots seen in the interval; the A/B flag last radiated by the source, the inversion
  after an insert until the source toggles. -/
  rtSeg : Nat
  slots : Nat
  srcAb : Bool
  invert : Option Bool
  /-- Words of the last group radiated, whether its third block is C′, and its slot. -/
  last : List Word16
  lastPrime : Bool
  lastSlot : Nat
  dev : Nat
  fm : FmMod
  deriving DecidableEq, Repr

/-- The run state of a DCAR. -/
structure DcarRun where
  air : AirRun
  c0 : Option Nat
  /-- T0 in 1/256 ns of the Timebase, and the CIF count on air. -/
  t0 : Nat
  count : Nat
  late : Nat
  /-- Least margin over the last tick and over the present one, in 0.1 µs. -/
  slack : Nat
  slackNow : Option Nat
  figDefer : Nat
  /-- FIGs to add that wait for room: 0x1800 + a service's number or 0x1900 + an insert's, with the frames each has waited. -/
  figs : List (Nat × Nat)
  substLimit : Bool
  /-- Sub-channels substituted in the frame on air, and programme. -/
  subst : List (Nat × Nat)
  absentSrc : Bool
  /-- The frame on air and the one before it; the bits of the last CIFs before time interleaving, by count, the newest first. -/
  frame : Option DcarAir
  was : Option DcarAir
  coded : List (Nat × List Bool)
  deriving DecidableEq, Repr

/-- Where a sweep stands (R272, R273). -/
inductive SweepSt where
  | none | waitGrant | waitLock | running
  deriving DecidableEq, Repr

/-- The feeder sweep (R272 to R275). -/
structure Sweep where
  st : SweepSt
  ring : Nat
  prio : Bool
  level : Nat
  avg : Nat
  coupling : Nat
  srcLoss : Nat
  waitEnd : Nat
  /-- Points measured, and the points of the record in the making with the index of its first. -/
  points : Nat
  part : List (List Byte)
  partFirst : Nat
  partTime : Word64
  /-- Points measured in the present segment. -/
  inSeg : Nat
  deriving DecidableEq, Repr

/-- What the composer keeps besides its carriers: TX_PROFILE, the LO claim, the pins, transmit calibration. -/
structure Tx where
  profile : BitVec 128
  /-- LO_KHZ of the present claim (R247). -/
  claim : Option Nat
  dacClip : Nat
  paEn : Bool
  paRamp : Bool
  /-- The CK_RF count at which the first carrier's rise ends and PA_RAMP goes high. -/
  paHighAt : Option Nat
  /-- PA_RAMP carries the pulse-density ramp of R271: end, and true when rising. -/
  paSlope : Option (Nat × Bool)
  paRiseAt : Option Nat
  paFallAt : Option Nat
  cxReq : Bool
  cxPrio : Bool
  cxGnt : Bool
  /-- Silent null symbols accumulated for the present correction (R269). -/
  nulls : Nat
  sweep : Sweep
  /-- The data of the engines that the DCARs name (R259). -/
  sources : List AirSrc
  deriving DecidableEq, Repr


/-! ## The cascade (R304 to R334) -/

/-- Where the device stands in a cascade. -/
inductive CasSt where
  | alone | joining | member
  deriving DecidableEq, Repr

/-- An HHL port (R304, R314): a join has asked for it, it is trained; one-way delay d and time error e in 1/256 ns; t1 of the
Clapper last sent, in 1/256 ns. -/
structure HhlSt where
  asked : Bool
  trained : Bool
  /-- It was trained and its lanes lost block lock. -/
  down : Bool
  d : Nat
  e : Int
  t1 : Option Nat
  /-- t2 of the Clapper that the next echo answers, in 1/256 ns (R313, R314). -/
  t2 : Option Int
  /-- Index of the last word group taken, and the streams it carried. -/
  lastIdx : Nat
  streams : List Nat
  /-- True when the last word group showed its origins FENCED. -/
  farFenced : Bool
  deriving DecidableEq, Repr

/-- A pending epoch (R324): epoch, tick it applies at, tables. -/
structure EpochNext where
  epoch : Nat
  tick : Nat
  tables : CasTables
  deriving DecidableEq, Repr

/-- An election in progress (R310, R311): the CK_RF count at which this device releases CLAP, whether the second arbitration
runs, whether it takes part. -/
structure Election where
  release : Nat
  second : Bool
  takesPart : Bool
  deriving DecidableEq, Repr

/-- A command that the master carries to other members (R329): how many results are still to come, and the first status other
than OK. -/
structure Carried where
  desc : Desc
  cpl : Nat
  entry : Option (Nat × Nat)
  time : Word64
  left : Nat
  status : Status
  detail : Nat
  ret : List Byte
  /-- The carriers of other members that it names. -/
  cars : List Id
  deriving DecidableEq, Repr

/-- The cascade side of the device. -/
structure Cas where
  st : CasSt
  up : HhlSt
  dn : HhlSt
  ring : Bool
  mute : Bool
  protect : Bool
  form : Bool
  /-- Tick at which WAIT expires. -/
  waitEnd : Nat
  /-- A joining device has taken the master's index: the member index assigned, the master's tables, its epoch (R315). -/
  aligned : Option (Nat × CasTables × Nat)
  self : Nat
  master : Nat
  deputy : Nat
  tables : CasTables
  epoch : Nat
  next : Option EpochNext
  /-- Table changes queued behind a pending epoch (R324). -/
  queued : List CasTables
  /-- Cause of a fence in the coding of R333, none when not fenced; the fence lasts until CAS_LEAVE and CAS_JOIN. -/
  fence : Option Nat
  fenceHard : Bool
  /-- Clapper ticks seen in a join; ticks without Clapper or tick mark; ticks above 50 ns; good and matching ticks; ticks of mismatch. -/
  clapTicks : Nat
  quiet : Nat
  over50 : Nat
  good : Nat
  matching : Nat
  mismatch : Nat
  lastClap : Option ClapperIn
  /-- A Clapper or tick mark came since the last tick boundary. -/
  heard : Bool
  election : Option Election
  /-- The device pulls CLAP low. -/
  clapLow : Bool
  lastTag : Word16
  /-- TBCHG waiting for the member's next Plain-sample boundary, and the tick boundary B it was taken up at. -/
  tbchg : Option (TbChange × Nat)
  /-- The change that the master announces in its next Clapper. -/
  announce : Option TbChange
  /-- Commands carried to other members, and those that take effect on this device at the next tick boundary. -/
  carried : List Carried
  nextTick : List Desc
  /-- What this device has put into the service channel, oldest first. -/
  sent : List LinkItem
  leaveAt : Option Nat
  /-- The deputy's descriptors and HB count: Plain samples without HB. -/
  hbMissed : Nat
  /-- Remote capacity units last received: engine, CIF count, absent. -/
  cu : List (Id × Nat × Bool)
  /-- Quality bytes received: origin index, Plain sample index, bytes of inputs A to D (R305). -/
  quality : List (Nat × Nat × List Byte)
  /-- Samples of the streams received, on their origins' own indices. -/
  subs : List SubSample
  /-- δ of each origin's Plain grid in 1/64 CK_RF cycle, the newest first: origin, the Plain sample from which it is applied, δ (R316). -/
  deltas : List (Nat × Nat × Int)
  /-- Spans of SUM items received (R321). -/
  sums : List SumSpan
  /-- OFDM symbols of SUM items (R321). -/
  symbols : List SumSymbol
  /-- Carriers of other members that the master's commands have put into RUN (R318). -/
  remoteAir : List Id
  /-- What the Clapper's phase adds to the aim of CTL_VAL in holdover (R317). -/
  steer : Int
  deriving DecidableEq, Repr


/-! ## Values after reset -/

/-- Reset values of SECDED-free fuses are DESIGN CHOICE: a part of stepping A1 in FACTORY state, no key, no serial number. -/
def Fuses.reset : Fuses :=
  ⟨0xA1, 0, (false, false), (false, false), (false, false), (false, false), false, 0, 0, 0⟩

def Boot.reset : Boot :=
  ⟨.waitImage, 0, [], true, false, false, 0, 0, 0, 0, false, false, false, 0, false, false, 0, 0, 0, zeros 128, false, 0⟩

def Log.reset : Log := ⟨[], 1, [], 0, false⟩
def Mram.reset : Mram := ⟨[], [], 0, [], [], false⟩

def Clk.reset : Clk :=
  ⟨0, 0, tableReset 128 clkFields, false, false, false, false, false, false, false, 0, 0, 0, 0, false, 0, false,
   false, 0, 0, List.replicate 8 0, 0, 0, 0⟩

def Alo.reset : Alo := ⟨.idle, false, false, 0, 0, 0, 0, 0, 0, 0, 0, 0, [], [], 0, 0, 0, false, none⟩

/-- Reset values of FMASK0 to FMASK7 (R429), word 0 in the low bits. -/
def fmaskReset : BitVec 256 :=
  BitVec.ofNat 256 (0x115 + 1 * 2 ^ 32 + 0x23 * 2 ^ 96 + 0x16 * 2 ^ 160 + 0x2A6 * 2 ^ 192)

def Flags.reset : Flags :=
  ⟨0, 0, 0, fmaskReset, List.replicate 256 0, 0, 0, false, 3, false, false, false, false, 0, false,
   (0, []), (0, 0)⟩

def Health.reset : Health :=
  ⟨List.replicate 6 0, 0, -32768, List.replicate 6 0, List.replicate 6 0xFFFF, List.replicate 6 0, false, 0,
   List.replicate 6 0, List.replicate 6 0, List.replicate 6 0, List.replicate 6 0, List.replicate 6 false, List.replicate 6 false⟩

def Bus.reset : Bus := ⟨0, true, []⟩

def Tb.reset : Tb := ⟨0, 0, 0, 0x0000000411AAAAAB, true, none, 0, tableReset 1280 timeFields, none, false, 0, none, []⟩

def PulseIn.reset : PulseIn := ⟨0, 0, false, none, none, 0, 0, false⟩

def CueRun.reset : CueRun := ⟨0, none, 0, none, false⟩

/-- A CLOSED object with the reset values of its kind's fields. -/
def Life.closed (blk : Blk) : Life := ⟨.closed, .closed, blk, blk, none, none, none, false, false, 0, false, false⟩

/-- An object whose commanded and effective state is `st`. -/
def Life.at (st : ObjSt) (blk : Blk) : Life := { Life.closed blk with cmd := st, eff := st }

def Ring.reset : Ring :=
  ⟨0, 0, 0, 0, 0, false, false, false, .disabled, 0, 0, [], 0, 0, 0, [], 0, (0, 0, 0), [], 0, 0, 0, false, [], [], 0, [], 0, 0, 0, []⟩

def Msix.reset : Msix := ⟨false, false, BitVec.allOnes 64, 0, List.replicate 64 (0, 0), []⟩

def Storyboard.reset : Storyboard := ⟨[], 0, .none, [], 0, 0, 0, 0xFFFF, 0, 0, false, 0, 0, none⟩

def HostIf.reset : HostIf :=
  ⟨false, true, true, false, List.replicate 64 Ring.reset, Msix.reset, [], [], List.replicate 256 ⟨false, [], []⟩, Storyboard.reset,
   [], false⟩

def CalUnit.reset (bands len : Nat) : CalUnit :=
  ⟨none, 0, false, List.replicate bands none, List.replicate bands 0, List.replicate len 0, none, none⟩

def Cal.reset : Cal :=
  ⟨tableReset 64 calFields, List.replicate 5 (CalUnit.reset 1 256) ++ [CalUnit.reset 28 112], [], 1, false⟩

def Tap.reset : Tap := ⟨.idcode, [], 0, false, false⟩

/-- The front-end as R68's reset values leave it: gain state LNA 2, ATT 0. -/
def ConvRun.reset : ConvRun :=
  ⟨2, 0, none, 0, 0, false, 0, 0, false, false, [⟨0, none, 0⟩], 0, 0, 0, 0, 0, none, none, [], false, [(0, 2, 0)],
   (0, 0, 0), none, none, true, false, [], 0, []⟩

def Standin.reset : Standin := ⟨none, .idle, .none, 0, 0, 0, (0, 0, 0), none, false, none, false⟩

def PassRun.reset : PassRun :=
  ⟨false, false, List.replicate 4 (0, 0), none, 0, 0, 0, 0, [], [], 0, none, 0, [], [], []⟩

def CapRun.reset : CapRun := ⟨0, 0, false, 0, 0, 0, 0, 0, 0, 0, false, none⟩

def FmPath.reset : FmPath :=
  ⟨(List.range 16).map (fun i => if i = 8 then (2 ^ 24, 0) else (0, 0)), [], (0, 0), true, 0, 0, [], 0, 0, 0, 0, 0, 0, false, [], [], (0, 0)⟩

def AmPath.reset : AmPath := ⟨0, 0, none, [], 0, 0, 0, 0, 0, []⟩

def DemodCore.reset : DemodCore := ⟨true, false, none, 0, 0, 0, (0, 0), false, {}, none, 0, ⟨[], []⟩, 0, []⟩

def FmdRun.reset : FmdRun :=
  ⟨DemodCore.reset, .absent, 0, 0, 0, .off, [], none, none, none, false, false, [], false, 0, FmPath.reset⟩

def AmdRun.reset : AmdRun := ⟨DemodCore.reset, false, false, 0, .off, 0, 0, [], false, 0, 0, false, AmPath.reset⟩

def EePath.reset : EePath :=
  ⟨none, [], 0, 0, 0, [], ⟨0, 0, false⟩, [], [0, 0, 0, 0], none, none, 0, 0, [], 0, [], [], 0, 0, [], {}⟩

/-- The figures of the last frame (R166). -/
def EeChan.figures (ch : EeChan) : EeFigures := ch.path.figures

def EeChan.reset : EeChan :=
  ⟨.search, 0xFF, 0xFF, false, false, false, false, true, true, none, 0, none, none, false, none, none, 0, false, false, none, 0, [], [], EePath.reset⟩

def EeSub.reset : EeSub := ⟨none, none, false, false, 0, true, false, false, [], [], [], [], [], none⟩

def EeRun.reset : EeRun :=
  ⟨List.replicate 4 EeChan.reset, List.replicate 64 EeSub.reset, 0, 0, [], none, [], []⟩

def RdsConfirm.reset : RdsConfirm :=
  ⟨none, none, List.replicate 4 none, List.replicate 4 false, List.replicate 16 none, List.replicate 16 false, none,
   List.replicate 2 none, List.replicate 2 false, none, [], []⟩

def Services.reset : Services :=
  ⟨[], [], [], [], [], List.replicate 32 RdsConfirm.reset, 0, 0, 0, List.replicate 48 [], [], [], [], [], []⟩

def Follow.reset : Follow :=
  ⟨tableReset 128 afFields, [], .off, 0, 0, 0, none, [], 0, 0, 0, 0, 0, 0, none, 0, 0, 0, 0, 0, 0, false, none⟩

def ProgRun.reset : ProgRun :=
  ⟨0, 7, false, true, true, none, true, 0, ⟨0, 0, 0⟩, 0, 0, [], 0, 0, 0, 0, 0, false, 0, none, none, none, none, [], [], none, none, 0,
   Follow.reset, false, [], [], 0, 0, 0⟩

def Insert.reset : Insert :=
  ⟨false, 0, [], [], none, [], none, [], .stop, none, false, none, none, false, 0, 0, 0, []⟩

def RouteRun.reset : RouteRun := ⟨none, false, false, false, false, 0, (0, 0), (0, 0), 0, (0, 0)⟩

def PortRun.reset : PortRun :=
  ⟨.idle, false, 0, 0, 0, 0, 0, 0, 0, 0, 0, List.replicate 32 RouteRun.reset, [], [], 0, false, 0, 0, 0, 0, [], []⟩

def AirRun.reset : AirRun := ⟨.idle, .hold, none, none, 0, none, false, 0, 0, 0, false, 0, [], none, none, none, false, 0, none, false⟩

def FmMod.reset : FmMod := ⟨0, 0, [], [], [], ((0, 0), (0, 0)), 0, 0, [], [], 0⟩

def FcarRun.reset : FcarRun := ⟨AirRun.reset, [], 0, 0, 0, false, 0, 0, false, none, [], false, 0, 0, FmMod.reset⟩

def DcarRun.reset : DcarRun := ⟨AirRun.reset, none, 0, 0, 0, 0, none, 0, [], false, [], false, none, none, []⟩

def Sweep.reset : Sweep := ⟨.none, 0, false, 0, 0, 0, 0, 0, 0, [], 0, 0, 0⟩

def Tx.reset : Tx :=
  ⟨tableReset 128 txFields, none, 0, false, false, none, none, none, none, false, false, false, 0, Sweep.reset, []⟩

def HhlSt.reset : HhlSt := ⟨false, false, false, 0, 0, none, none, 0, [], false⟩

/-- An empty shared configuration. -/
def CasTables.empty : CasTables := ⟨List.replicate 8 {}, [], []⟩

def Cas.reset : Cas :=
  ⟨.alone, HhlSt.reset, HhlSt.reset, false, false, false, false, 0, none, 0xFF, 0xFF, 0xFF, CasTables.empty, 0, none, [], none, false,
   0, 0, 0, 0, 0, 0, none, false, none, false, 0, none, none, [], [], [], none, 0, [], [], [], [], [], [], [], 0⟩

end Sys2Proof.Machine
end

