-- ==== Sys2Proof/Machine/State.lean ====
section
/-! DEFINITION. The state of the YT9620, the queue of waiting commands in it, the reasons a step can stop, and the state after reset. -/
namespace Sys2Proof.Machine
open Sys2Proof

/-- Faults. The manual gives every command of the table an effect, so no meaning raises one and the type has no case. -/
inductive Fault where
  deriving DecidableEq, Repr

/-- Refusals. -/
inductive Refusal where
  /-- Raised only by exec for a command that has no meaning yet; safe: nothing can be proved of its effect. -/
  | notModelled (mnemonic : String)
  deriving DecidableEq, Repr

/-- The state of one YT9620. -/
structure State where
  /-- CK_RF cycles since Plain sample 0, on the index's own numbering (R7): the Plain sample index is its quotient by 1024. -/
  now : Nat
  /-- The present instant is a management-tick boundary whose tick has been processed. -/
  atTick : Bool
  phase : Phase
  lastCause : ResetCause
  /-- A reset pin, or the hold of a warm reset without a pin, is in force (R443, R450). -/
  resetPin : Bool
  /-- A brown-out monitor, or a temperature comparator, holds the device in reset (R434, R435). -/
  heldBrown : Bool
  heldHot : Bool
  /-- The model's own: the next argument of the free values. -/
  freeCtr : Nat
  /-- The straps as latched at the last reset release (R448). -/
  straps : Straps
  fuses : Fuses
  boot : Boot
  lcPending : Option LcPending
  wipeRun : Option WipeRun
  mram : Mram
  log : Log
  clk : Clk
  aloRx : Alo
  aloTx : Alo
  flags : Flags
  health : Health
  bus : Bus
  tb : Tb
  /-- Slates raised and not yet written to the rings (R291). -/
  slates : List Slate
  /-- PPS_IN, EVT_IN0, EVT_IN1. -/
  pulses : List PulseIn
  conv : List (Obj ConvRun)
  /-- Marks of the quality byte that every input shares: HOLDOVER and DRIFT (R58). -/
  devMarks : List Mark
  standin : Standin
  pass : List (Obj PassRun)
  cap : List (Obj CapRun)
  fmd : List (Obj FmdRun)
  amd : List (Obj AmdRun)
  ee : List (Obj EeRun)
  svc : Services
  prog : List (Obj ProgRun)
  inserts : List Insert
  port : List (Obj PortRun)
  fcar : List (Obj FcarRun)
  dcar : List (Obj DcarRun)
  tx : Tx
  cue : List (Obj CueRun)
  cas : Cas
  host : HostIf
  cal : Cal
  tap : Tap
  /-- The commands that wait, first in, first out. -/
  pending : List Instr
  deriving DecidableEq, Repr

/-- The machine right after reset: a power-on reset asserted and held, every field at the value of the manual's Reset column,
or, where the manual gives none, at the value that the assumption log names. -/
def State.reset : State where
  now := 0
  atTick := false
  phase := .porst
  lastCause := .porst
  resetPin := true
  heldBrown := false
  heldHot := false
  freeCtr := 0
  straps := {}
  fuses := Fuses.reset
  boot := Boot.reset
  lcPending := none
  wipeRun := none
  mram := Mram.reset
  log := Log.reset
  clk := Clk.reset
  aloRx := Alo.reset
  aloTx := Alo.reset
  flags := Flags.reset
  health := Health.reset
  bus := Bus.reset
  tb := Tb.reset
  slates := []
  pulses := List.replicate 3 PulseIn.reset
  conv := List.replicate 4 ⟨Life.at .held (tableReset 1280 convFields), ConvRun.reset⟩ ++ [⟨Life.at .run 0, ConvRun.reset⟩]
  devMarks := []
  standin := Standin.reset
  pass := List.replicate 96 ⟨Life.closed (tableReset 1280 passFields), PassRun.reset⟩
  cap := List.replicate 16 ⟨Life.at .held 0, CapRun.reset⟩
  fmd := List.replicate 32 ⟨Life.closed (tableReset 1280 fmdFields), FmdRun.reset⟩
  amd := List.replicate 48 ⟨Life.closed (tableReset 1280 amdFields), AmdRun.reset⟩
  ee := List.replicate 12 ⟨Life.closed (tableReset 1280 eeFields), EeRun.reset⟩
  svc := Services.reset
  prog := List.replicate 64 ⟨Life.closed (tableReset 1280 progFields), ProgRun.reset⟩
  inserts := List.replicate 8 Insert.reset
  port := List.replicate 4 ⟨Life.closed (tableReset 1280 portFields), PortRun.reset⟩
  fcar := List.replicate 24 ⟨Life.closed (tableReset 1280 fcarFields), FcarRun.reset⟩
  dcar := List.replicate 4 ⟨Life.closed (tableReset 1280 dcarFields), DcarRun.reset⟩
  tx := Tx.reset
  cue := List.replicate 4 ⟨Life.closed 0, CueRun.reset⟩
  cas := Cas.reset
  host := HostIf.reset
  cal := Cal.reset
  tap := Tap.reset
  pending := []

end Sys2Proof.Machine
end

