-- ==== Sys2Proof/Machine/Ops.lean ====
section
/-! DEFINITION. The shared operations of the model: outcomes, the units of time, the Timebase, identifiers and the lists of objects. -/
namespace Sys2Proof

/-- The kind codes of R14. -/
def Kind.code : Kind → Nat
  | .device => 0 | .pass => 1 | .fmd => 2 | .amd => 3 | .ee => 4 | .prog => 5 | .port => 6 | .fcar => 7 | .dcar => 8
  | .cue => 9 | .alo => 10 | .conv => 11 | .cap => 12 | .group => 15

/-- How many indices a kind has (R14); DEVICE takes index 0 (R357). -/
def Kind.count : Kind → Nat
  | .device => 1 | .pass => 96 | .fmd => 32 | .amd => 48 | .ee => 12 | .prog => 64 | .port => 4 | .fcar => 24 | .dcar => 4
  | .cue => 4 | .alo => 2 | .conv => 5 | .cap => 16 | .group => 256

/-- All kinds. -/
def Kind.all : List Kind :=
  [.device, .pass, .fmd, .amd, .ee, .prog, .port, .fcar, .dcar, .cue, .alo, .conv, .cap, .group]

/-- The kind with a code. -/
def Kind.ofCode (c : Nat) : Option Kind := Kind.all.find? (fun k => k.code == c)

end Sys2Proof

namespace Sys2Proof.Machine
open Sys2Proof

/-- The answer of a meaning. -/
abbrev Out := Host.Outcome State Fault Refusal

/-- The state `t` that a command has made of `s`, with the queue of waiting commands, the fuses, the straps and the test access port of
`s`: no command of the data plane, of the firmware or of the management bus reaches them (R448, R453, R456, R462). -/
def State.framed (s t : State) : State := { t with pending := s.pending, fuses := s.fuses, straps := s.straps, tap := s.tap }

/-- The same for a command of the data plane or of the firmware: in a test mode they are stopped, and everything stays (R464). -/
def State.kept (s t : State) : State := if s.tap.testing then s else s.framed t

/-- The end of a command of the data plane or of the firmware. -/
def done (s t : State) : Out := .next (s.kept t)

/-- The end of READY or of LC_CHANGE, which blow fuses (R453, R460) and may close the debug port; without effect in a test mode. -/
def doneFw (s t : State) (fuses : Fuses) (tap : Tap) : Out :=
  .next (if s.tap.testing then s else { s.framed t with fuses := fuses, tap := tap })

/-- The end of a command of the management bus, which is there in a test mode too (R464). -/
def doneBus (s t : State) : Out := .next (s.framed t)

/-- The end of a command of a reset or of the test access port: the queue of waiting commands and the fuses stay. -/
def doneSys (s t : State) : Out := .next { t with pending := s.pending, fuses := s.fuses }

/-- A fresh free value. -/
def State.fresh (s : State) : Nat × State := (Config.freeBits s.freeCtr, { s with freeCtr := s.freeCtr + 1 })

/-! ## Units of time (R7, unit table) -/

/-- CK_RF cycles of a Plain sample, a Plain frame, a management tick and an alignment frame. -/
def perSample : Nat := 1024
def perFrame : Nat := 65536
def perTick : Nat := 1048576
def perAlign : Nat := 19660800

/-- CK_RF cycles in a second. -/
def rfHz : Nat := 983040000

/-- The first multiple of `step` at or after `t`. -/
def alignUp (step t : Nat) : Nat := (t + step - 1) / step * step

/-- The first multiple of `step` strictly after `t`. -/
def alignNext (step t : Nat) : Nat := (t / step + 1) * step

/-- CK_RF cycles of a span in ns, rounded up. -/
def cyclesOfNs (ns : Nat) : Nat := ceilDiv (ns * 98304) 100000

/-- A span of CK_RF cycles in ns, rounded down. -/
def nsOfCycles (c : Nat) : Nat := c * 100000 / 98304

/-- The Plain sample index (R7). -/
def State.index (s : State) : Nat := s.now / perSample

/-- The management-tick count: the index divided by 1024 (R401). -/
def State.tick (s : State) : Nat := s.now / perTick

/-- The low 32 bits of the tick count. -/
def State.tick32 (s : State) : Word32 := BitVec.ofNat 32 s.tick

/-! ## The Timebase (R281 to R284) -/

/-- A Timebase value in units of 2^-32 ns. -/
def Tb.total (t : Tb) : Nat := (t.sec.toNat * 10 ^ 9 + t.ns.toNat) * 2 ^ 32 + t.frac.toNat

/-- The counter set to a value in units of 2^-32 ns; SEC wraps at 48 bits. -/
def Tb.put (t : Tb) (v : Nat) : Tb :=
  { t with sec := BitVec.ofNat 48 (v / 2 ^ 32 / 10 ^ 9), ns := BitVec.ofNat 32 (v / 2 ^ 32 % 10 ^ 9), frac := BitVec.ofNat 32 v }

/-- What a slew adds in a Plain sample, in 2^-32 ns: RATE times the sample's exact duration, rounded down (R284). -/
def Slew.perSample (sl : Slew) : Nat := sl.rate * 3125 * 2 ^ 32 / (3 * 10 ^ 8)

/-- The whole amount of a slew in 2^-32 ns. -/
def Slew.size (sl : Slew) : Nat := sl.offset.natAbs * 2 ^ 24

/-- What a slew has added up to CK_CORE edge `e`: whole samples, then even shares with the rest on the last edge (R284). -/
def Slew.added (sl : Slew) (e : Nat) : Nat :=
  let k := e / 256 - sl.start
  let base := min sl.size (k * sl.perSample)
  let cur := min sl.size ((k + 1) * sl.perSample) - base
  if e / 256 < sl.start then 0 else base + cur / 256 * (e % 256)

/-- The same with its sign. -/
def Slew.addedSigned (sl : Slew) (e : Nat) : Int := if sl.offset < 0 then -(sl.added e : Int) else sl.added e

/-- The slew term of INC at edge `e`, in 2^-32 ns. -/
def Slew.term (sl : Slew) (e : Nat) : Int := sl.addedSigned (e + 1) - sl.addedSigned e

/-- The Plain sample at whose start a slew has added everything. -/
def Slew.ends (sl : Slew) : Nat := sl.start + (if sl.perSample = 0 then 0 else ceilDiv sl.size sl.perSample)

/-- What a slew has not added at sample `k`, in 1/256 ns, rounded toward zero, with its sign (R286). -/
def Slew.remain (sl : Slew) (k : Nat) : Int :=
  let r : Nat := (sl.size - sl.added (k * 256)) / 2 ^ 24
  if sl.offset < 0 then -(r : Int) else (r : Int)

/-- The value in 2^-32 ns at edge `e`, from the value `v` at edge `e0`. -/
def tbFrom (v e0 inc : Nat) (slew : Option Slew) (e : Nat) : Int :=
  let d : Int := match slew with
    | none => 0
    | some sl => sl.addedSigned e - sl.addedSigned e0
  (v : Int) + ((e : Int) - e0) * inc + d

/-- The counter carried forward from one CK_RF count to a later one. -/
def Tb.advance (t : Tb) (from_ to_ : Nat) : Tb :=
  t.put (tbFrom t.total (from_ / 4) t.inc.toNat t.slew (to_ / 4)).toNat

/-- The anchor for an instant before a change: value, edge, rate and slew. -/
def tbAnchor (e : Nat) (cur : Nat × Nat × Nat × Option Slew) : List (Nat × Nat × Nat × Option Slew) →
    Nat × Nat × Nat × Option Slew
  | [] => cur
  | p :: ps => if e < p.1 then tbAnchor e p ps else cur

/-- The Timebase value, in 2^-40 ns, at `sub`/64 CK_RF cycle after count `t` (R282). -/
def State.time40 (s : State) (t sub : Nat) : Nat :=
  let e := t / 4
  let a := tbAnchor e (s.now / 4, s.tb.total, s.tb.inc.toNat, s.tb.slew) s.tb.past
  let base := tbFrom a.2.1 a.1 a.2.2.1 a.2.2.2 e
  let inc : Int := (a.2.2.1 : Int) + (match a.2.2.2 with | none => 0 | some sl => sl.term e)
  (base * 256 + inc * ((t % 4) * 64 + sub : Nat)).toNat

/-- A value in 1/256 ns, rounded half to even (R291). -/
def ns256 (v40 : Nat) : Nat := (rheDiv v40 (2 ^ 32)).toNat

/-- The Timebase value at a CK_RF count in 1/256 ns. -/
def State.timeAt (s : State) (t : Nat) : Nat := ns256 (s.time40 t 0)

/-- The form T64 of a value in 2^-40 ns (R283). -/
def t64Of (v40 : Nat) : Word64 :=
  let n := (rheDiv v40 (2 ^ 40)).toNat
  BitVec.ofNat 64 (n / 10 ^ 9 % 2 ^ 32 * 2 ^ 32 + n % 10 ^ 9)

/-- The form T64 of a value in 1/256 ns. -/
def t64Of256 (v : Nat) : Word64 := t64Of (v * 2 ^ 32)

/-- T64 at a CK_RF count. -/
def State.t64At (s : State) (t : Nat) : Word64 := t64Of (s.time40 t 0)

/-- T64 now. -/
def State.t64 (s : State) : Word64 := s.t64At s.now

/-- A change of the Timebase at the present instant: the old course is kept for instants before it. -/
def State.tbChange (s : State) (f : Tb → Tb) : State :=
  { s with tb := { f s.tb with
      past := ((s.now / 4, s.tb.total, s.tb.inc.toNat, s.tb.slew) :: s.tb.past).take 8 } }

/-- The CK_RF count at which the Timebase reaches a value in 1/256 ns, on its present course; the present count when it has
passed. -/
def State.cycleOf (s : State) (v : Nat) : Nat :=
  let cur := s.time40 s.now 0
  let tgt := v * 2 ^ 32
  let inc : Int := (s.tb.inc.toNat : Int) + (match s.tb.slew with | none => 0 | some sl => sl.term (s.now / 4))
  if tgt ≤ cur ∨ inc ≤ 0 then s.now else s.now + ((tgt - cur) * 4) / (inc.toNat * 256)

/-! ## Identifiers (R14, R357) -/

/-- The device index, kind code and index of an identifier. -/
def idDev (i : Id) : Nat := i.toNat / 2 ^ 24
def idKind (i : Id) : Nat := i.toNat / 2 ^ 16 % 256
def idIdx (i : Id) : Nat := i.toNat % 2 ^ 16

/-- An identifier. -/
def mkId (dev : Nat) (r : Ref) : Id := BitVec.ofNat 32 (dev * 2 ^ 24 + r.kind.code * 2 ^ 16 + r.idx)

/-- This device's own index in identifiers that it writes: its member index in a cascade, 0xFF outside one (R15, R329). -/
def State.selfDev (s : State) : Nat := if s.cas.st = .member then s.cas.self else 0xFF

/-- The identifier of an object of this device. -/
def State.idOf (s : State) (k : Kind) (i : Nat) : Id := mkId s.selfDev ⟨k, i⟩

/-- The identifier of the device, 0xFF00_0000 outside a cascade. -/
def State.devId (s : State) : Id := BitVec.ofNat 32 (s.selfDev * 2 ^ 24)

/-- A member index that the cascade table holds as present (R15, R333). -/
def State.memberPresent (s : State) (d : Nat) : Bool :=
  decide (s.cas.st = .member) &&
    (match s.cas.tables.members[d]? with | none => false | some m => m.st == 1 || m.st == 2)

/-- The kind and index that an identifier names, when both are valid. -/
def idRef (i : Id) : Option Ref :=
  match Kind.ofCode (idKind i) with
  | none => none
  | some k => if idIdx i < k.count then some ⟨k, idIdx i⟩ else none

/-- The identifier is valid by R357. -/
def State.idValid (s : State) (i : Id) : Bool :=
  (idRef i).isSome && (idDev i == 0xFF || s.memberPresent (idDev i))

/-- The identifier names an object of this device. -/
def State.idLocal (s : State) (i : Id) : Bool := idDev i == 0xFF || (s.cas.st = .member && idDev i == s.cas.self)

/-- The object of this device that an identifier names. -/
def State.refOf (s : State) (i : Id) : Option Ref := if s.idLocal i then idRef i else none

/-! ## Objects -/

/-- The block that a query reports: the settings in effect while they are, else those that are set (R10, R360). -/
def Life.shown (l : Life) : Blk := if l.eff = .run then l.cur else l.blk

/-- The life of an object; DEVICE, ALO and GROUP objects have none. -/
def State.life? (s : State) (r : Ref) : Option Life :=
  match r.kind with
  | .pass => s.pass[r.idx]?.map Obj.life
  | .fmd => s.fmd[r.idx]?.map Obj.life
  | .amd => s.amd[r.idx]?.map Obj.life
  | .ee => s.ee[r.idx]?.map Obj.life
  | .prog => s.prog[r.idx]?.map Obj.life
  | .port => s.port[r.idx]?.map Obj.life
  | .fcar => s.fcar[r.idx]?.map Obj.life
  | .dcar => s.dcar[r.idx]?.map Obj.life
  | .cue => s.cue[r.idx]?.map Obj.life
  | .conv => s.conv[r.idx]?.map Obj.life
  | .cap => s.cap[r.idx]?.map Obj.life
  | .device | .alo | .group => none

/-- The life of an object of a kind that has one. -/
def State.life (s : State) (r : Ref) : Life := (s.life? r).getD (Life.closed 0)

/-- The life part of an object changed. -/
def Obj.withLife {ρ : Type} (f : Life → Life) (o : Obj ρ) : Obj ρ := { o with life := f o.life }

/-- The run part of an object changed. -/
def Obj.withRun {ρ : Type} (f : ρ → ρ) (o : Obj ρ) : Obj ρ := { o with run := f o.run }

/-- An object's life changed. -/
def State.modLife (s : State) (r : Ref) (f : Life → Life) : State :=
  match r.kind with
  | .pass => { s with pass := modAt r.idx (Obj.withLife f) s.pass }
  | .fmd => { s with fmd := modAt r.idx (Obj.withLife f) s.fmd }
  | .amd => { s with amd := modAt r.idx (Obj.withLife f) s.amd }
  | .ee => { s with ee := modAt r.idx (Obj.withLife f) s.ee }
  | .prog => { s with prog := modAt r.idx (Obj.withLife f) s.prog }
  | .port => { s with port := modAt r.idx (Obj.withLife f) s.port }
  | .fcar => { s with fcar := modAt r.idx (Obj.withLife f) s.fcar }
  | .dcar => { s with dcar := modAt r.idx (Obj.withLife f) s.dcar }
  | .cue => { s with cue := modAt r.idx (Obj.withLife f) s.cue }
  | .conv => { s with conv := modAt r.idx (Obj.withLife f) s.conv }
  | .cap => { s with cap := modAt r.idx (Obj.withLife f) s.cap }
  | .device | .alo | .group => s

/-- Every object of this device that has a life. -/
def allRefs : List Ref :=
  [Kind.conv, .pass, .fmd, .amd, .ee, .prog, .port, .fcar, .dcar, .cue, .cap].flatMap
    (fun k => (List.range k.count).map (fun i => ⟨k, i⟩))

/-- An object's state in effect is RUN. -/
def State.running (s : State) (k : Kind) (i : Nat) : Bool := (s.life ⟨k, i⟩).eff == .run

/-- An object's commanded state is RUN (R360). -/
def State.cmdRun (s : State) (k : Kind) (i : Nat) : Bool := (s.life ⟨k, i⟩).cmd == .run

/-- The reset block of a kind's fields. -/
def resetBlk : Kind → Blk
  | .pass => tableReset 1280 passFields
  | .fmd => tableReset 1280 fmdFields
  | .amd => tableReset 1280 amdFields
  | .ee => tableReset 1280 eeFields
  | .prog => tableReset 1280 progFields
  | .port => tableReset 1280 portFields
  | .fcar => tableReset 1280 fcarFields
  | .dcar => tableReset 1280 dcarFields
  | .conv => tableReset 1280 convFields
  | _ => 0

/-- The run parts, changed in place. -/
def State.modPass (s : State) (i : Nat) (f : PassRun → PassRun) : State := { s with pass := modAt i (Obj.withRun f) s.pass }
def State.modFmd (s : State) (i : Nat) (f : FmdRun → FmdRun) : State := { s with fmd := modAt i (Obj.withRun f) s.fmd }
def State.modAmd (s : State) (i : Nat) (f : AmdRun → AmdRun) : State := { s with amd := modAt i (Obj.withRun f) s.amd }
def State.modEe (s : State) (i : Nat) (f : EeRun → EeRun) : State := { s with ee := modAt i (Obj.withRun f) s.ee }
def State.modProg (s : State) (i : Nat) (f : ProgRun → ProgRun) : State := { s with prog := modAt i (Obj.withRun f) s.prog }
def State.modPort (s : State) (i : Nat) (f : PortRun → PortRun) : State := { s with port := modAt i (Obj.withRun f) s.port }
def State.modFcar (s : State) (i : Nat) (f : FcarRun → FcarRun) : State := { s with fcar := modAt i (Obj.withRun f) s.fcar }
def State.modDcar (s : State) (i : Nat) (f : DcarRun → DcarRun) : State := { s with dcar := modAt i (Obj.withRun f) s.dcar }
def State.modCue (s : State) (i : Nat) (f : CueRun → CueRun) : State := { s with cue := modAt i (Obj.withRun f) s.cue }
def State.modConv (s : State) (i : Nat) (f : ConvRun → ConvRun) : State := { s with conv := modAt i (Obj.withRun f) s.conv }
def State.modCap (s : State) (i : Nat) (f : CapRun → CapRun) : State := { s with cap := modAt i (Obj.withRun f) s.cap }
def State.modInsert (s : State) (i : Nat) (f : Insert → Insert) : State := { s with inserts := modAt i f s.inserts }
def State.modFollow (s : State) (p : Nat) (f : Follow → Follow) : State :=
  s.modProg p (fun r => { r with follow := f r.follow })
def State.modChan (s : State) (e c : Nat) (f : EeChan → EeChan) : State :=
  s.modEe e (fun r => { r with chans := modAt c f r.chans })

/-- The run parts, read; the value after reset where the index lies outside. -/
def State.passR (s : State) (i : Nat) : PassRun := ((s.pass[i]?).map Obj.run).getD PassRun.reset
def State.fmdR (s : State) (i : Nat) : FmdRun := ((s.fmd[i]?).map Obj.run).getD FmdRun.reset
def State.amdR (s : State) (i : Nat) : AmdRun := ((s.amd[i]?).map Obj.run).getD AmdRun.reset
def State.eeR (s : State) (i : Nat) : EeRun := ((s.ee[i]?).map Obj.run).getD EeRun.reset
def State.progR (s : State) (i : Nat) : ProgRun := ((s.prog[i]?).map Obj.run).getD ProgRun.reset
def State.portR (s : State) (i : Nat) : PortRun := ((s.port[i]?).map Obj.run).getD PortRun.reset
def State.fcarR (s : State) (i : Nat) : FcarRun := ((s.fcar[i]?).map Obj.run).getD FcarRun.reset
def State.dcarR (s : State) (i : Nat) : DcarRun := ((s.dcar[i]?).map Obj.run).getD DcarRun.reset
def State.cueR (s : State) (i : Nat) : CueRun := ((s.cue[i]?).map Obj.run).getD CueRun.reset
def State.convR (s : State) (i : Nat) : ConvRun := ((s.conv[i]?).map Obj.run).getD ConvRun.reset
def State.capR (s : State) (i : Nat) : CapRun := ((s.cap[i]?).map Obj.run).getD CapRun.reset
def State.insertR (s : State) (i : Nat) : Insert := (s.inserts[i]?).getD Insert.reset
def State.chan (s : State) (e c : Nat) : EeChan := ((s.eeR e).chans[c]?).getD EeChan.reset

/-! ## The layout of a port's frame (R223) -/

/-- FS_RATE in Hz (R223). -/
def portRate (b : Blk) : Nat := match fget b ptFsRate with | 0 => 32000 | 1 => 44100 | 2 => 48000 | _ => 96000

/-- Slots, bit clocks of a slot, bits of a word, bit clocks of a frame (R223). -/
def portSlots (b : Blk) : Nat := fget b ptSlots + 1
def slotBits (b : Blk) : Nat := 16 + 8 * fget b ptSlotW
def wordBits (b : Blk) : Nat := 16 + 4 * fget b ptWord
def frameBits (b : Blk) : Nat := portSlots b * slotBits b

end Sys2Proof.Machine
end

