-- ==== Sys2Proof/Machine/Rings.lean ====
section
/-! DEFINITION. Writing to the host: MSI-X, rings and their records, and the Dailies log (R338 to R356, R436 to R440). -/
namespace Sys2Proof.Machine
open Sys2Proof

/-! ## Interrupts (R356) -/

/-- A vector falls due: sent as a message, or held as its pending bit. -/
def State.signalVec (s : State) (v : Nat) : State :=
  let m := s.host.msix
  let m' := if m.enable && !m.funcMask && !m.mask.getLsbD v then { m with sent := m.sent ++ [v] }
    else { m with pend := m.pend ||| BitVec.ofNat 64 (2 ^ (v % 64)) }
  { s with host := { s.host with msix := m' } }

/-- Vectors held while they could not be sent are sent once they can be, one message each. -/
def State.flushVecs (s : State) : State :=
  let m := s.host.msix
  if m.enable && !m.funcMask then
    let due := (List.range 64).filter (fun v => m.pend.getLsbD v && !m.mask.getLsbD v)
    let m' := { m with sent := m.sent ++ due, pend := m.pend &&& m.mask }
    { s with host := { s.host with msix := m' } }
  else s

/-! ## Rings -/

/-- The ring kinds of R341. -/
def kCmd : Nat := 1
def kCpl : Nat := 2
def kEvt : Nat := 3
def kDailies : Nat := 4
def kIqcap : Nat := 5
def kSide : Nat := 6
def kAudio : Nat := 7
def kFeed : Nat := 8
def kBoot : Nat := 9

/-- A byte of the ring's shadow block, 16 to 63, as read at enable (R343). -/
def Ring.ctxAt (r : Ring) (byte : Nat) : Nat := (byteAt r.ctx (byte - 16)).toNat
def Ring.modCnt (r : Ring) : Nat := r.ctxAt 16
def Ring.modTime (r : Ring) : Nat := r.ctxAt 17
def Ring.pair (r : Ring) : Nat := r.ctxAt 18
def Ring.kmask (r : Ring) : Nat := leAt r.ctx 4 2
def Ring.nsrc (r : Ring) : Nat := r.ctxAt 22
def Ring.kflags (r : Ring) : Nat := r.ctxAt 23
def Ring.srcs (r : Ring) : List Id := (List.range r.nsrc).map (fun i => BitVec.ofNat 32 (leAt r.ctx (8 + 4 * i) 4))

/-- Entries and BUF_SIZE of a ring (R340). -/
def Ring.entries (r : Ring) : Nat := 2 ^ (r.logSize.toNat + 4)
def Ring.bufSize (r : Ring) : Nat := 32 * 2 ^ r.logBuf.toNat

/-- Filled entries of a ring (R342). -/
def Ring.filled (r : Ring) : Nat := (r.dProd - r.dCons).toNat

/-- The ring runs with a kind. -/
def Ring.isRunning (r : Ring) (k : Nat) : Bool := decide (r.st = .running) && r.kind.toNat == k

def State.ring (s : State) (i : Nat) : Ring := (s.host.rings[i]?).getD Ring.reset
def State.modRing (s : State) (i : Nat) (f : Ring → Ring) : State :=
  { s with host := { s.host with rings := modAt i f s.host.rings } }

/-- The device's words of the shadow block rewritten (R343, R351). -/
def Ring.writeShadow (r : Ring) : Ring :=
  { r with shadowW := if r.kind.toNat == kCmd || r.kind.toNat == kFeed || r.kind.toNat == kBoot then (0, r.dCons, r.drops)
                      else (r.dProd, 0, r.drops) }

/-- One more record or release counted toward the ring's vector; due when the count exceeds MOD_CNT (R356). -/
def State.ringCount (s : State) (i : Nat) : State :=
  let r := s.ring i
  if r.irqEn then
    if r.modCnt < r.unsig + 1 then (s.modRing i (fun r => { r with unsig := 0 })).signalVec r.vector.toNat
    else s.modRing i (fun r => { r with unsig := r.unsig + 1, firstUnsig := if r.unsig = 0 then s.now / perFrame else r.firstUnsig })
  else s

/-- A signal at once, which resets the count (R356). -/
def State.ringSignal (s : State) (i : Nat) : State :=
  let r := s.ring i
  if r.irqEn then (s.modRing i (fun r => { r with unsig := 0 })).signalVec r.vector.toNat else s

/-- What a ring keeps for a source; a source it has not met is new, with SEQ 0 (R349, R352). -/
def Ring.stream (r : Ring) (key : Nat) : Stream := (r.streams.find? (fun x => x.key == key)).getD ⟨key, 0, true, false⟩

/-- What a ring keeps for a source, replaced. -/
def Ring.setStream (r : Ring) (x : Stream) : Ring := { r with streams := x :: r.streams.filter (fun y => y.key != x.key) }

/-- The next record of a source carries DISCONT and restarts its sequence (R34, R173). -/
def State.restartStream (s : State) (key : Nat) : State :=
  { s with host := { s.host with rings := s.host.rings.map (fun r =>
      { r with streams := r.streams.map (fun x => if x.key == key then ⟨key, 0, true, x.dropped⟩ else x) }) } }

/-- A record for a ring to the host: written when the ring runs and has room, dropped whole when it is full (R352). `mk` builds
its bytes from SEQ, DISCONT and DROPPED. The management controller writes none while halted (R432). `ring i` is not counted
toward its vector here. -/
def State.writeRecord (s : State) (i key : Nat) (mk : Nat → Bool → Bool → List Byte) : State :=
  let r := s.ring i
  if s.flags.halted || decide (r.st ≠ .running) then s
  else
    let x := r.stream key
    if r.entries ≤ r.filled then
      s.modRing i (fun r => ({ (r.setStream { x with seq := (x.seq + 1) % 65536, dropped := true }) with
        drops := if r.drops = BitVec.allOnes 32 then r.drops else r.drops + 1 }))
    else
      s.modRing i (fun r => (({ (r.setStream ⟨key, (x.seq + 1) % 65536, false, false⟩) with
        out := r.out ++ [mk x.seq x.fresh x.dropped], dProd := r.dProd + 1 } : Ring)).writeShadow)

/-- The same, and a record that was written counts toward the ring's vector (R356). -/
def State.putRecord (s : State) (i key : Nat) (mk : Nat → Bool → Bool → List Byte) : State :=
  let s' := s.writeRecord i key mk
  if (s'.ring i).dProd = (s.ring i).dProd then s' else s'.ringCount i

/-- A record for every ring that runs with a kind and meets a test. -/
def State.putAll (s : State) (kind : Nat) (sel : Ring → Bool) (key : Nat) (mk : Nat → Bool → Bool → List Byte) : State :=
  (List.range 64).foldl (fun s i =>
    if (s.ring i).isRunning kind && sel (s.ring i) then s.putRecord i key mk else s) s

/-! ## The Dailies log (R437 to R440) -/

/-- Severities of R437. -/
def sevInfo : Nat := 0
def sevNotice : Nat := 1
def sevWarning : Nat := 2
def sevError : Nat := 3
def sevFatal : Nat := 4

/-- The bytes of an entry; `extra` is ORed into EFLAGS on a ring (R437). -/
def Daily.bytes (e : Daily) (extra : Nat) : List Byte :=
  let data := pad4 e.data
  leBytes 4 e.seq ++ leBytes 2 (28 + data.length) ++ leBytes 2 e.code ++ leBytes 8 e.time.toNat ++ leBytes 4 e.tick.toNat ++
  leBytes 4 e.object.toNat ++ leBytes 1 e.sev ++ leBytes 1 (e.eflags + extra) ++ zeros 2 ++ data

/-- Key of the Dailies entries, the slates and the flag records on a ring. -/
def keyDailies : Nat := 0x1000000000
def keySlate : Nat := 0x1000000001
def keyFlag : Nat := 0x1000000002
def keyCpl : Nat := 0x1000000003

/-- An entry written to one DAILIES ring: DROPPED is bit 3, DISCONT bit 4 of EFLAGS. -/
def State.putDaily (s : State) (ring : Nat) (e : Daily) : State :=
  s.putRecord ring keyDailies (fun _ fresh dropped => e.bytes (8 * bit dropped + 16 * bit fresh))

/-- An entry added to the log: the newest 1024 stay, the DAILIES rings receive it, ATTN_PEND.DAILIES is set when enabled, and
entries of ERROR and FATAL are persisted (R403, R439, R440). -/
def State.addDaily (s : State) (code sev : Nat) (object : Id) (data : List Byte) (t : Nat) : State :=
  if s.flags.halted then s
  else
    let e : Daily := ⟨s.log.next, code, s.t64At t, s.tick32, object, sev, bit s.tb.unset + 2 * bit s.clk.holdover, data⟩
    let held := s.log.held ++ [e]
    let log := { s.log with
      held := held.drop (held.length - 1024), next := if s.log.next = 0xFFFFFFFF then 1 else s.log.next + 1,
      writing := if sevError ≤ sev then s.log.writing ++ [(e.seq, 0)] else s.log.writing }
    let fl := if s.flags.attnDailies then
        { s.flags with pendDailies := true, pulseDue := s.flags.pulseDue || !s.flags.pendDailies } else s.flags
    (List.range 64).foldl (fun s i => if (s.ring i).isRunning kDailies then s.putDaily i e else s)
      { s with log := log, flags := fl }

end Sys2Proof.Machine
end

