-- ==== Sys2Proof/Machine/Flags.lean ====
section
/-! DEFINITION. The flag register and the slates: every flag computation of the manual (R291 to R293, R403, R427 to R430, R487). -/
namespace Sys2Proof.Machine
open Sys2Proof

/-! ## Flag numbers (R403, R423, R429) -/
def fRefLost : Nat := 0
def fRefSelBad : Nat := 1
def fRootUnlock : Nat := 2
def fHoldover : Nat := 3
def fDriftHigh : Nat := 4
def fLockDisagree : Nat := 5
def fCrossFlush : Nat := 6
def fAloUnlock : Nat := 7
def fAloSearchFail : Nat := 8
def fPpsLost : Nat := 9
def fConvFail : Nat := 32
def fStandinMatchFail : Nat := 33
def fConvMismatch : Nat := 34
def fAgcLimit : Nat := 35
def fTableFull : Nat := 36
def fCodecMismatch : Nat := 37
def fInsertUnderrun : Nat := 38
def fClockLost : Nat := 64
def fRateJump : Nat := 65
def fFsError : Nat := 66
def fRouteUnderrun : Nat := 67
def fLevelOut : Nat := 68
def fTxcalWait : Nat := 69
def fCasFenced : Nat := 96
def fMemberLost : Nat := 97
def fVersionMinor : Nat := 98
def fHhlDown : Nat := 99
def fRefMismatch : Nat := 100
def fStoryboardBad : Nat := 101
def fSdaLowTo : Nat := 128
def fSclLowTo : Nat := 129
def fBusError : Nat := 130
def fAttnCollide : Nat := 131
def fCalFail : Nat := 160
def fCalDegraded : Nat := 161
def fNvmFail : Nat := 162
def fProfileBad : Nat := 163
def fFactoryCalBad : Nat := 164
def fEccCorr : Nat := 192
def fEccUncorr : Nat := 193
def fMgmtFault : Nat := 194
def fThermLow : Nat := 195
def fThermWarn : Nat := 196
def fThermHigh : Nat := 197
def fSupplyWarn : Nat := 198
def fSupplyFault : Nat := 199
def fRingError : Nat := 200
def fFuseBad : Nat := 201
def fDailiesLoss : Nat := 202

/-- The flags with a lasting condition (R487). -/
def lastingFlags : List Nat :=
  [fRefLost, fRefSelBad, fRootUnlock, fHoldover, fDriftHigh, fLockDisagree, fAloUnlock, fPpsLost, fConvFail, fAgcLimit,
   fCodecMismatch, fClockLost, fRateJump, fLevelOut, fTxcalWait, fCasFenced, fHhlDown, fStoryboardBad, fCalDegraded,
   fProfileBad, fFactoryCalBad, fMgmtFault, fThermLow, fThermWarn, fThermHigh, fSupplyWarn, fSupplyFault]

/-- One bit of the 256. -/
def flagBit (n : Nat) : BitVec 256 := BitVec.ofNat 256 (2 ^ n)

/-- A flag reads 1; its condition holds. -/
def State.flag (s : State) (n : Nat) : Bool := s.flags.bits.getLsbD n
def State.cond (s : State) (n : Nat) : Bool := s.flags.cond.getLsbD n

/-- FAULT_N is asserted: in reset and until release, on a thermal trip (a warm reset), while MGMT_FAULT is 1, while a flag in
FMASK is 1 (R430). -/
def State.faultN (s : State) : Bool :=
  decide (s.phase ≠ .released) || s.flag fMgmtFault || decide (s.flags.bits &&& s.flags.fmask ≠ 0)

/-- The 16 first bytes of a flag record's content: FLAG, SEQ, COUNT, COND, MET_CLEAR, TIME (R436). -/
def flagRecord (n seq count : Nat) (cond met : Bool) (time : Word64) (flags : Nat) : List Byte :=
  leBytes 2 32 ++ leBytes 1 2 ++ leBytes 1 flags ++ leBytes 2 n ++ leBytes 2 seq ++ leBytes 4 count ++ leBytes 1 (bit cond) ++
  leBytes 1 (bit met) ++ zeros 2 ++ leBytes 8 time.toNat ++ zeros 8

/-- A rising of flag `n` (R428): attention, flag records, the Dailies entry FLAG_SET. -/
def State.flagRise (s : State) (n : Nat) (met : Bool) (t : Nat) : State :=
  let count := (s.flags.counts.getD n 0).toNat
  let att := s.flags.attnMask.getLsbD n
  let fl := if att then
      { s.flags with pendFlag := true, pulseDue := s.flags.pulseDue || !s.flags.pendFlag } else s.flags
  let s := { s with flags := fl }
  let time := s.t64At t
  let s := s.putAll kEvt (fun r => r.kflags % 2 == 1) keyFlag
    (fun seq fresh dropped => flagRecord n seq count (s.cond n) met time (bit fresh + 2 * bit dropped))
  s.addDaily 0x0002 (if fmaskReset.getLsbD n then sevError else sevNotice) s.devId
    ((flagRecord n 0 count (s.cond n) met time 0).take 16) t

/-- The number of a CK_CORE edge, from 1. -/
def edgeOf (t : Nat) : Nat := t / 4 + 1

/-- Flags with flag `n` set on edge `e`. -/
def Flags.noteSet (fl : Flags) (e n : Nat) (rise : Bool) : Flags :=
  { fl with edgeSet := (e, (n, rise) :: (if fl.edgeSet.1 = e then fl.edgeSet.2 else [])) }

/-- A clear of flag `n` fell on edge `e`. -/
def Flags.clearedAt (fl : Flags) (e n : Nat) : Bool := fl.edgeClear.1 == e && fl.edgeClear.2.getLsbD n

/-- A set of flag `n` at CK_RF count `t` (R427, R428): counted; a rising when the flag was 0 or the set meets a clear. `met`: a
clear falls on the same edge. A set wakes the management clock (R33). -/
def State.setFlagMet (s : State) (n : Nat) (met : Bool) (t : Nat) : State :=
  if s.phase ≠ .released then { s with flags := { s.flags with early := s.flags.early ||| flagBit n } }
  else
    let met := met || s.flags.clearedAt (edgeOf t) n
    let rise := met || !s.flag n
    let fl := { s.flags with bits := s.flags.bits ||| flagBit n, counts := modAt n (· + 1) s.flags.counts }
    let s := { s with flags := fl.noteSet (edgeOf t) n rise, clk := { s.clk with wakeReq := s.clk.wakeReq || s.clk.mgmtStopped } }
    if rise then s.flagRise n met t else s

/-- A set of a flag without a lasting condition, now. -/
def State.setFlag (s : State) (n : Nat) : State := s.setFlagMet n false s.now

/-- The last element of a list that passes a test, changed. -/
def modLast {α : Type} (p : α → Bool) (f : α → α) (l : List α) : List α :=
  match l.reverse.findIdx? p with
  | some i => (modAt i f l.reverse).reverse
  | none => l

/-- MET_CLEAR set in the newest records of flag `n`: on the EVT rings, in the log, on the DAILIES rings (R436, R438). -/
def State.markMet (s : State) (n : Nat) : State :=
  let evt (e : List Byte) : Bool := leAt e 2 1 == 2 && leAt e 4 2 == n
  let daily (e : List Byte) : Bool := leAt e 6 2 == 2 && leAt e 32 2 == n
  { s with
    host := { s.host with rings := s.host.rings.map (fun r =>
      if r.isRunning kEvt then { r with out := modLast evt (putAt 13 1) r.out }
      else if r.isRunning kDailies then { r with out := modLast daily (putAt 41 1) r.out } else r) },
    log := { s.log with held := modLast (fun d => d.code == 2 && leAt d.data 4 2 == n) (fun d => { d with data := putAt 13 1 d.data }) s.log.held } }

/-- A clear meets a set of flag `n` that came before it on the same edge: a set that was no rising becomes one, and one that was shows
MET_CLEAR in its records (R427, R428, R436). -/
def State.metClear (s : State) (n : Nat) (rise : Bool) : State := if rise then s.markMet n else s.flagRise n true s.now

/-- A W1C write clears flags; a set on the same CK_CORE edge wins (R403, R427). -/
def State.clearFlags (s : State) (mask : BitVec 256) : State :=
  let e := edgeOf s.now
  let met := if s.flags.edgeSet.1 = e then s.flags.edgeSet.2.filter (fun x => mask.getLsbD x.1) else []
  let keep := met.foldl (fun (m : BitVec 256) x => m ||| flagBit x.1) 0
  let before := if s.flags.edgeClear.1 = e then s.flags.edgeClear.2 else 0
  let s := { s with flags := { s.flags with
    bits := s.flags.bits &&& ~~~ (mask &&& ~~~ keep), edgeClear := (e, before ||| mask) } }
  met.foldl (fun s x => s.metClear x.1 x.2) s

/-- The lasting condition of flag `n` holds or not from now on; an onset is a set (R427, R487). Before release only the level is
kept. -/
def State.setCond (s : State) (n : Nat) (level : Bool) : State :=
  if level = s.cond n then s
  else
    let s' := { s with flags := { s.flags with
      cond := if level then s.flags.cond ||| flagBit n else s.flags.cond &&& ~~~ flagBit n } }
    if level && decide (s.phase = .released) then s'.setFlagMet n false s.now else s'

/-- The sets at release (R427): each lasting condition that holds, and each early event. -/
def State.releaseFlags (s : State) : State :=
  let due := (List.range 256).filter (fun n => s.flags.cond.getLsbD n || s.flags.early.getLsbD n)
  let s := { s with flags := { s.flags with bits := 0, early := 0 } }
  due.foldl (fun s n => s.setFlagMet n false s.now) s

/-! ## Slates (R291 to R293) -/

/-- DRIFT is set while D exceeds 50 ppm, which is 400 in 1/8 ppm (R26). -/
def State.drift (s : State) : Bool := s.clk.holdover && decide (400 < s.clk.d)

/-- A slew adds to the Timebase, or a Timebase change announced by the master has not been applied yet (R284, R318). -/
def State.slewing (s : State) : Bool :=
  s.cas.tbchg.isSome || (match s.tb.slew with | none => false | some sl => decide (s.index < sl.ends))

/-- A FENCED member whose FENCE_POLICY is MUTE: its routes see input-absent and its carriers an absent source (R326). -/
def State.fenceMuted (s : State) : Bool := s.cas.fence.isSome && s.cas.mute

/-- The bits of QUAL that the device's state gives (R291). -/
def State.qualNow (s : State) : Nat := bit s.clk.holdover + 2 * bit s.drift + 4 * bit s.tb.unset + 8 * bit s.slewing

/-- QUAL bit DETECTED. -/
def qDetected : Nat := 64

/-- A slate raised with its time in 1/256 ns, extra bits of QUAL and its payload; it wakes the management clock (R33). No slate is
written before the device runs, nor by a halted controller. -/
def State.slateAt (s : State) (code : Nat) (object : Id) (time qual : Nat) (payload : List Byte) : State :=
  if s.flags.halted || decide (s.phase ≠ .released) then s
  else { s with
    slates := s.slates ++ [⟨object, code, time / 256 / 10 ^ 9, time / 256 % 10 ^ 9, time % 256, s.qualNow ||| qual, s.tick32, payload⟩],
    clk := { s.clk with wakeReq := s.clk.wakeReq || s.clk.mgmtStopped } }

/-- A slate with the time of a CK_RF count. -/
def State.slateT (s : State) (code : Nat) (object : Id) (t : Nat) (payload : List Byte) : State :=
  s.slateAt code object (s.timeAt t) 0 payload

/-- A slate with the time of detection (R293). -/
def State.slateDet (s : State) (code : Nat) (object : Id) (payload : List Byte) : State :=
  s.slateAt code object (s.timeAt s.now) qDetected payload

/-- The slate record of R291. -/
def Slate.bytes (x : Slate) (seq : Nat) (fresh dropped : Bool) : List Byte :=
  leBytes 2 64 ++ leBytes 1 1 ++ leBytes 1 (bit fresh + 2 * bit dropped) ++ leBytes 4 x.object.toNat ++ leBytes 2 seq ++
  leBytes 2 x.code ++ leBytes 6 x.sec ++ leBytes 4 x.ns ++ leBytes 1 x.subns ++ leBytes 1 x.qual ++ leBytes 4 x.tick.toNat ++
  zeros 4 ++ fitBytes 32 x.payload

/-- The time of a slate, then its code, as one number: the order within a tick (R293). -/
def Slate.key (x : Slate) : Nat := ((x.sec * 10 ^ 9 + x.ns) * 256 + x.subns) * 65536 + x.code

/-- The slates raised since the last tick go to the EVT rings whose MASK selects CODE[15:8], ordered by time and then by CODE. -/
def State.flushSlates (s : State) : State :=
  (sortBy Slate.key s.slates).foldl (fun s x =>
    s.putAll kEvt (fun r => r.kmask.testBit (x.code / 256)) keySlate x.bytes) { s with slates := [] }

end Sys2Proof.Machine
end

