-- ==== Sys2Proof/Machine/SvcTables.lean ====
section
/-! DEFINITION. SIDE records and the service tables that they report (R173 to R176, R181 to R185). -/
namespace Sys2Proof.Machine
open Sys2Proof

/-- The objects that an identifier reaches, groups left out, each once, depth first in membership order (R368). `fuel` bounds the
nesting depth; no group contains itself at any depth (R366). -/
def State.flatten (s : State) : Nat → Id → List Id
  | 0, _ => []
  | fuel + 1, i =>
    if idKind i = Kind.group.code then
      match s.host.groups[idIdx i]? with
      | none => []
      | some g => if g.defined then distinct (g.members.flatMap (s.flatten fuel)) else []
    else [i]

/-- An identifier with this device's index written as 0xFF, for comparison. -/
def State.canon (s : State) (i : Id) : Id := if s.idLocal i then BitVec.ofNat 32 (0xFF000000 + i.toNat % 2 ^ 24) else i

/-- An identifier of this device's object with the device's own index, as records name it (R15, R329). -/
def State.ownId (s : State) (i : Id) : Id := if s.idLocal i then BitVec.ofNat 32 (s.selfDev * 2 ^ 24 + i.toNat % 2 ^ 24) else i

/-- A SIDE ring delivers a kind (its mask bit) of a source (R174, R175). -/
def State.sideSelects (s : State) (r : Ring) (bitNo : Nat) (src : Id) : Bool :=
  r.kmask.testBit bitNo && (r.srcs.flatMap (s.flatten 256)).any (fun x => s.canon x == s.canon src)

/-- A SIDE record: the header of R173 and the padded body. -/
def sideRecord (kind flags : Nat) (src : Id) (seq chan : Nat) (tick : Word32) (body : List Byte) : List Byte :=
  let b := pad4 body
  leBytes 2 (16 + b.length) ++ leBytes 1 kind ++ leBytes 1 flags ++ leBytes 4 src.toNat ++ leBytes 2 seq ++ leBytes 2 chan ++
  leBytes 4 tick.toNat ++ b

/-- A SIDE record for one ring. A record that carries DISCONT, other than a dump's own, makes a dump of its source due within 16
ticks (R175). -/
def State.putSideOn (s : State) (ring kind : Nat) (src : Id) (chan : Nat) (dump : Bool) (body : List Byte) : State :=
  let key := (s.canon src).toNat
  let due := !dump && (s.ring ring).isRunning kSide && ((s.ring ring).stream key).fresh
  let s := s.putRecord ring key (fun seq fresh dropped =>
    sideRecord kind (bit fresh + 2 * bit dropped + 4 * bit dump) src seq chan s.tick32 body)
  if due then { s with svc := { s.svc with dumps := s.svc.dumps ++ [(ring, s.canon src, s.tick + 16)] } } else s

/-- The tune frequency of a Pass in kHz, rounded half to even: TUNE × 15 / 65536 (R97). -/
def State.passKHz (s : State) (p : Nat) : Nat := (rheDiv (fget (s.life ⟨.pass, p⟩).cur psTune * 15 : Nat) 65536).toNat

/-- The frequency of an origin: its Pass's tune frequency in kHz (R182). -/
def State.originKHz (s : State) (o : Origin) : Nat :=
  match idRef o.object with
  | some ⟨.fmd, i⟩ => s.passKHz (fget (s.life ⟨.fmd, i⟩).cur dmPass)
  | some ⟨.amd, i⟩ => s.passKHz (fget (s.life ⟨.amd, i⟩).cur dmPass)
  | some ⟨.ee, i⟩ => s.passKHz (fget (s.life ⟨.ee, i⟩).cur (eePass o.chan))
  | _ => 0

/-- The EVENT codes of R182. -/
def evAdded : Nat := 0
def evChanged : Nat := 1
def evStale : Nat := 2
def evRemoved : Nat := 3
def evCurrent : Nat := 4

/-- The SVC record body of R182. -/
def State.svcBody (s : State) (v : Service) (event : Nat) (time : Word64) : List Byte :=
  let n := (s.svc.comp.filter (fun c => c.origin == v.origin && c.keyKind == v.keyKind && c.key == v.key)).length
  let label := v.label.take 16
  leBytes 4 v.key ++ leBytes 1 v.keyKind ++ leBytes 1 event ++ leBytes 1 v.pty ++ leBytes 1 v.flags ++ leBytes 1 v.ecc ++
  leBytes 1 v.lang ++ leBytes 2 v.eid ++ leBytes 1 (min n 12) ++ zeros 3 ++ label ++ List.replicate (16 - label.length) 0x20 ++
  leBytes 4 (s.originKHz v.origin) ++ zeros 4 ++ leBytes 8 time.toNat

/-- The COMP record body of R183. -/
def compBody (c : Component) (event : Nat) (time : Word64) : List Byte :=
  leBytes 4 c.key ++ leBytes 1 c.keyKind ++ leBytes 1 event ++ leBytes 1 c.subch ++ leBytes 1 c.type ++ leBytes 2 c.start ++
  leBytes 2 c.size ++ leBytes 1 c.prot ++ leBytes 1 (bit c.primary) ++ leBytes 2 c.bitrate ++ leBytes 8 time.toNat

/-- The TEXT record body of R184. -/
def textBody (x : TextEntry) (time : Word64) : List Byte :=
  leBytes 4 x.key ++ leBytes 1 x.keyKind ++ leBytes 1 x.type ++ leBytes 1 x.charset ++ leBytes 1 x.text.length ++
  leBytes 8 time.toNat ++ pad4 x.text

/-- The ALT record body of R185. -/
def altBody (a : AltIn) : List Byte :=
  let es := a.entries.take 32
  leBytes 4 a.key ++ leBytes 1 a.keyKind ++ leBytes 1 a.src ++ leBytes 1 a.flags ++ leBytes 1 es.length ++ leBytes 2 a.lsn ++
  zeros 6 ++ es.flatMap (fun e => leBytes 1 e.std ++ leBytes 1 e.flags ++ leBytes 2 e.eid ++ leBytes 4 e.freq)

/-- The current content of a source written to one ring with DUMP, for the kinds the ring selects (R175). -/
def State.dumpSource (s : State) (ring : Nat) (src : Id) : State :=
  let r := s.ring ring
  let mine (o : Origin) : Bool := s.canon o.object == s.canon src
  let s := if r.kmask.testBit 5 then
      (s.svc.svc.filter (fun v => mine v.origin)).foldl (fun s v =>
        s.putSideOn ring 0x10 v.origin.object v.origin.chan true (s.svcBody v evCurrent s.t64)) s else s
  let s := if r.kmask.testBit 6 then
      (s.svc.comp.filter (fun c => mine c.origin)).foldl (fun s c =>
        s.putSideOn ring 0x11 c.origin.object c.origin.chan true (compBody c evCurrent s.t64)) s else s
  let s := if r.kmask.testBit 7 then
      (s.svc.text.filter (fun x => mine x.origin)).foldl (fun s x =>
        s.putSideOn ring 0x12 x.origin.object x.origin.chan true (textBody x s.t64)) s else s
  let s := if r.kmask.testBit 8 then
      (s.svc.alts.filter (fun x => mine x.origin)).foldl (fun s x =>
        s.putSideOn ring 0x13 x.origin.object x.origin.chan true (altBody x.alt)) s else s
  { s with svc := { s.svc with dumps := s.svc.dumps.filter (fun d => !(d.1 == ring && d.2.1 == s.canon src)) } }

/-- A dump of a source is owed to a ring (R175). -/
def State.dumpOwed (s : State) (ring : Nat) (src : Id) : Bool := s.svc.dumps.any (fun d => d.1 == ring && d.2.1 == s.canon src)

/-- A SIDE record for every ring that selects it. A change record that falls due while a dump of its source is owed to the ring follows that dump,
which is then written at once (R175). -/
def State.putSide (s : State) (bitNo kind : Nat) (src : Id) (chan : Nat) (body : List Byte) : State :=
  (List.range 64).foldl (fun s i =>
    if (s.ring i).isRunning kSide && s.sideSelects (s.ring i) bitNo src then
      (if decide (0x10 ≤ kind ∧ kind ≤ 0x13) && s.dumpOwed i src then s.dumpSource i src else s).putSideOn i kind src chan false body
    else s) s

/-- The part of a management tick that writes the dumps whose 16 ticks are over (R175). -/
def State.tickDumps (s : State) : State :=
  (s.svc.dumps.filter (fun d => decide (d.2.2 ≤ s.tick))).foldl (fun s d =>
    if (s.ring d.1).isRunning kSide then s.dumpSource d.1 d.2.1
    else { s with svc := { s.svc with dumps := s.svc.dumps.filter (fun x => x != d) } }) s

def State.putSvc (s : State) (v : Service) (event : Nat) (time : Word64) : State :=
  s.putSide 5 0x10 v.origin.object v.origin.chan (s.svcBody v event time)

def State.putComp (s : State) (c : Component) (event : Nat) (time : Word64) : State :=
  s.putSide 6 0x11 c.origin.object c.origin.chan (compBody c event time)

/-- The refusal of a new entry by a full table (R176). -/
def State.tableFull (s : State) (o : Origin) (keyKind key : Nat) : State :=
  let s := { s with svc := { s.svc with tableFull := s.svc.tableFull + 1 } }
  (s.setFlag fTableFull).addDaily 0x0005 sevNotice s.devId
    (leBytes 4 o.object.toNat ++ leBytes 4 key ++ leBytes 1 keyKind ++ zeros 3) s.now

/-- Two service entries have one key. -/
def sameSvc (a b : Service) : Bool := a.origin == b.origin && a.keyKind == b.keyKind && a.key == b.key
def sameComp (a b : Component) : Bool :=
  a.origin == b.origin && a.keyKind == b.keyKind && a.key == b.key && a.subch == b.subch

/-- The service entry of a key, or a new one with nothing known. -/
def State.svcOf (s : State) (o : Origin) (keyKind key : Nat) : Service :=
  (s.svc.svc.find? (fun v => v.origin == o && v.keyKind == keyKind && v.key == key)).getD
    ⟨o, keyKind, key, 0xFF, 0, 0, 0xFF, 0, [], false⟩

/-- A service entry added or changed, with its record (R176, R181, R182). -/
def State.upsertSvc (s : State) (v : Service) (time : Word64) : State :=
  match s.svc.svc.find? (sameSvc v) with
  | some w =>
    if w = v then s
    else (({ s with svc := { s.svc with svc := s.svc.svc.map (fun x => if sameSvc x v then v else x) } } : State)).putSvc v evChanged time
  | none =>
    if 1024 ≤ s.svc.svc.length then s.tableFull v.origin v.keyKind v.key
    else (({ s with svc := { s.svc with svc := s.svc.svc ++ [v] } } : State)).putSvc v evAdded time

/-- A component entry added or changed, with its record (R176, R183). -/
def State.upsertComp (s : State) (c : Component) (time : Word64) : State :=
  match s.svc.comp.find? (sameComp c) with
  | some w =>
    if w = c then s
    else (({ s with svc := { s.svc with comp := s.svc.comp.map (fun x => if sameComp x c then c else x) } } : State)).putComp c evChanged time
  | none =>
    if 2048 ≤ s.svc.comp.length then s.tableFull c.origin c.keyKind c.key
    else (({ s with svc := { s.svc with comp := s.svc.comp ++ [c] } } : State)).putComp c evAdded time

/-- A complete text, delivered when it differs from the last of its type for the key (R184). -/
def State.putText (s : State) (x : TextEntry) (time : Word64) : State :=
  let same (y : TextEntry) : Bool := y.origin == x.origin && y.keyKind == x.keyKind && y.key == x.key && y.type == x.type
  if s.svc.text.any (fun y => y == x) then s
  else
    let s := { s with svc := { s.svc with text := s.svc.text.filter (fun y => !same y) ++ [x] } }
    s.putSide 7 0x12 x.origin.object x.origin.chan (textBody x time)

/-- An alternative-frequency or linkage list, delivered when it differs from the last of the same SRC for the same key (R185). -/
def State.putAlt (s : State) (o : Origin) (a : AltIn) : State :=
  let e : AltEntry := ⟨o, a⟩
  let same (y : AltEntry) : Bool :=
    y.origin == o && y.alt.keyKind == a.keyKind && y.alt.key == a.key && y.alt.src == a.src && y.alt.lsn == a.lsn
  if s.svc.alts.any (fun y => y == e) then s
  else
    let s := { s with svc := { s.svc with alts := s.svc.alts.filter (fun y => !same y) ++ [e] } }
    s.putSide 8 0x13 o.object o.chan (altBody a)

/-- An origin has given confirming data now (R181). -/
def State.confirmOrigin (s : State) (o : Origin) : State :=
  { s with svc := { s.svc with lastData := (o, s.now) :: s.svc.lastData.filter (fun x => x.1 != o) } }

/-- The entries of an origin that meet a test are marked STALE, each with its record (R181). -/
def State.staleOrigin (s : State) (sel : Origin → Bool) (keySel : Service → Bool) : State :=
  let hit := s.svc.svc.filter (fun v => sel v.origin && keySel v && !v.stale)
  let comps := s.svc.comp.filter (fun c => hit.any (fun v => v.origin == c.origin && v.keyKind == c.keyKind && v.key == c.key))
  let s1 := { s with svc := { s.svc with
    svc := s.svc.svc.map (fun v => if sel v.origin && keySel v then { v with stale := true } else v) } }
  let s2 := hit.foldl (fun s v => s.putSvc v evStale s.t64) s1
  comps.foldl (fun s c => s.putComp c evStale s.t64) s2

/-- The entries of the origins that meet a test are removed, each with its record (R181). -/
def State.removeOrigin (s : State) (sel : Origin → Bool) : State :=
  let svcs := s.svc.svc.filter (fun v => sel v.origin)
  let comps := s.svc.comp.filter (fun c => sel c.origin)
  let s := { s with svc := { s.svc with
    svc := s.svc.svc.filter (fun v => !sel v.origin), comp := s.svc.comp.filter (fun c => !sel c.origin),
    text := s.svc.text.filter (fun x => !sel x.origin), alts := s.svc.alts.filter (fun x => !sel x.origin),
    lastData := s.svc.lastData.filter (fun x => !sel x.1), nextComp := s.svc.nextComp.filter (fun c => !sel c.origin),
    anns := s.svc.anns.filter (fun a => !sel a.origin), alarm := s.svc.alarm.filter (fun a => !sel a.1),
    support := s.svc.support.filter (fun a => !sel a.1) } }
  let s := comps.foldl (fun s c => s.putComp c evRemoved s.t64) s
  svcs.foldl (fun s v => s.putSvc v evRemoved s.t64) s


end Sys2Proof.Machine
end

