-- ==== Sys2Proof/Machine/Alo.lean ====
section
/-! DEFINITION. The tuning of the Agile LOs (R37 to R44). -/
namespace Sys2Proof.Machine
open Sys2Proof

/-- The exponent of the smallest output divider that brings a frequency into the VCO range (R37); 0 when none does. -/
def aloDiv (hz : Nat) : Nat :=
  (([1, 2, 3, 4, 5, 6, 7] : List Nat).find? (fun k => decide (3000000000 ≤ hz * 2 ^ k ∧ hz * 2 ^ k ≤ 6400000000))).getD 0

/-- N_INT and N_FRAC as one 32.32 number, rounded to nearest (R37). -/
def aloN (hz k : Nat) : Nat := (hz * 2 ^ k * 2 ^ 32 * 2 + 245760000) / (2 * 245760000)

/-- The ALO: 0 ALO_RX, 1 ALO_TX. -/
def State.alo (s : State) (a : Nat) : Alo := if a = 0 then s.aloRx else s.aloTx
def State.modAlo (s : State) (a : Nat) (f : Alo → Alo) : State :=
  if a = 0 then { s with aloRx := f s.aloRx } else { s with aloTx := f s.aloTx }

/-- ALO_UNLOCK's condition: an ALO in use has lost lock (R487). -/
def State.aloCond (s : State) : State := s.setCond fAloUnlock (s.aloRx.lost || s.aloTx.lost)

/-- How far two numbers lie apart. -/
def dist (a b : Nat) : Nat := (a - b) + (b - a)

/-- A hop-table entry serves a VCO frequency at a temperature (R39). -/
def HopEntry.serves (h : HopEntry) (khz : Nat) (tj : Int) (limit : Nat) : Bool :=
  h.valid && decide (dist h.vcoKHz khz * 1000 ≤ 5 * khz) && decide ((h.tj - tj).natAbs ≤ limit * 16)

/-- The entry nearest in VCO frequency of those that serve, with its place. -/
def nearestHop (khz : Nat) (tj : Int) (limit : Nat) (table : List HopEntry) : Option (Nat × HopEntry) :=
  (indexed 0 table).foldl (fun best x =>
    if x.2.serves khz tj limit then
      match best with
      | none => some x
      | some b => if dist x.2.vcoKHz khz < dist b.2.vcoKHz khz then some x else best
    else best) none

/-- The time in CK_RF cycles by which a hop declares lock: 8 µs, and what ALO_N adds over 512 cycles of CK_CORE (R40). -/
def State.hopSpan (s : State) : Nat := cyclesOfNs 8000 + 4 * (16 * 2 ^ fget s.clk.profile ckAloN - 512)

/-- The full band search of an ALO (R39). -/
def Alo.search (x : Alo) : Alo := { x with st := .searching, lock := false, hopEnd := none, searches := satU 16 (x.searches + 1) }

/-- A hop that has not locked in its time gives way to a full search (R42). -/
def State.hopOver (s : State) (a : Nat) : State :=
  match (s.alo a).hopEnd with
  | some e => if e < s.now ∧ (s.alo a).st = .hopping then s.modAlo a Alo.search else s
  | none => s

/-- The ALO's window, W in ps and N in cycles (R22, R35); it declares lock, and loses it. -/
def State.aloLocks (s : State) (m : LockMeas) : Bool :=
  decide (m.maxErr ≤ (fget s.clk.profile ckAloW + 1) * 4 ∧ 16 * 2 ^ fget s.clk.profile ckAloN ≤ m.cycles)
def State.aloLoses (s : State) (m : LockMeas) : Bool := decide ((fget s.clk.profile ckAloW + 1) * 4 < m.minErr ∧ 8 ≤ m.cycles)

/-- A new target: a hop with the nearest entry that serves, else a full search; a hop or search in progress is abandoned (R39,
R41). -/
def State.aloTarget (s : State) (a hz : Nat) (user : Id) : State :=
  let k := aloDiv hz
  let n := aloN hz k
  let khz := hz * 2 ^ k / 1000
  let limit := fget s.clk.profile ckAloTempLimit
  let hop := nearestHop khz s.health.tjMax limit (s.alo a).table
  let s := s.modAlo a (fun x => match hop with
    | some (i, h) =>
      { x with st := .hopping, lock := false, isSet := true, freqHz := hz, k := k, nInt := n / 2 ^ 32, nFrac := n % 2 ^ 32,
               band := h.band, user := user, hops := satU 16 (x.hops + 1), hopEnd := some (s.now + s.hopSpan),
               table := modAt i (fun h => { h with lastUse := s.tick32.toNat }) x.table }
    | none =>
      ({ x with isSet := true, freqHz := hz, k := k, nInt := n / 2 ^ 32, nFrac := n % 2 ^ 32, user := user } : Alo).search)
  s.aloCond

/-- The place that a search result takes: a free one while the table has fewer than 256 entries, an invalid one, or the least
recently used (R39). -/
def storeHop (h : HopEntry) (table : List HopEntry) : List HopEntry :=
  if table.length < 256 then table ++ [h]
  else
    let pick := (indexed 0 table).foldl (fun best x =>
      match best with
      | none => some x
      | some b => if b.2.valid && (!x.2.valid || decide (x.2.lastUse < b.2.lastUse)) then some x else best) none
    match pick with
    | none => table
    | some (i, _) => putAt i h table

/-- The ALO's user has gone: the ALO is IDLE and keeps the values of its last target (R379); a lost lock ends (R487). -/
def State.aloRelease (s : State) (a : Nat) : State :=
  (s.modAlo a (fun x => { x with st := .idle, lock := false, user := 0, lost := false, ramp := [], seg := 0, hopEnd := none })).aloCond

/-- The segments of a ramp profile: 12 bytes each, ended by a DURATION of 0 or after the 64th (R43). -/
def rampOf : Nat → List Byte → List Segment
  | 0, _ => []
  | n + 1, bs =>
    let dur := leAt bs 8 3
    if bs.length < 12 ∨ dur = 0 then []
    else ⟨leAt bs 0 4, signedOf 32 (leAt bs 4 4), dur, (byteAt bs 11).getLsbD 0⟩ :: rampOf n (bs.drop 12)

/-- The output frequency in 1/256 Hz at Plain sample `k`: while ramping it moves once per Plain sample (R44). -/
def Alo.freqAt (x : Alo) (k : Nat) : Nat :=
  match x.st, x.ramp[x.seg]? with
  | .ramping, some g => ((g.startHz * 256 : Nat) + g.slope * (min (k - x.segStart / perSample) g.duration : Nat)).toNat
  | _, _ => x.freqHz * 256

/-- N_INT and N_FRAC as one 32.32 number for a frequency in 1/256 Hz (R37). -/
def aloN256 (f k : Nat) : Nat := (f * 2 ^ k * 2 ^ 32 * 2 + 245760000 * 256) / (2 * 245760000 * 256)

/-- The far end of a segment in 1/256 Hz. -/
def Segment.endHz (g : Segment) : Int := g.startHz * 256 + g.slope * g.duration

/-- A segment passes the checks of R44 within a range in Hz. -/
def Segment.passes (g : Segment) (lo hi : Nat) : Bool :=
  let e := g.endHz
  let a := min ((g.startHz : Int) * 256) e
  let b := max ((g.startHz : Int) * 256) e
  let k := aloDiv g.startHz
  decide ((g.slope * g.duration).natAbs * 20 ≤ g.startHz * 256) && decide ((lo : Int) * 256 ≤ a) && decide (b ≤ (hi : Int) * 256) &&
  decide (0 < k) && decide (3000000000 * 256 ≤ a * 2 ^ k) && decide (b * 2 ^ k ≤ 6400000000 * 256) &&
  (k == 1 || decide (b * 2 ^ (k - 1) < 3000000000 * 256))

end Sys2Proof.Machine
end

