-- ==== Sys2Proof/Machine/HostIf.lean ====
section
/-! DEFINITION. Statuses, completions, waiting commands, ring errors and doorbells (R342 to R350, R375). -/
namespace Sys2Proof

/-- The status codes of R375. -/
def Status.code : Status → Nat
  | .ok => 0 | .badOpcode => 1 | .badObject => 2 | .badParam => 3 | .editWhileRunning => 4 | .resourcesExhausted => 5
  | .loNotReady => 6 | .lengthExceeds => 7 | .notPermitted => 8 | .fenced => 9 | .timeout => 10 | .aborted => 11

/-- The inline block as bytes, and one of its bytes or fields. -/
def Desc.inlByte (d : Desc) (k : Nat) : Nat := (d.inl.extractLsb' (8 * k) 8).toNat
def Desc.inlAt (d : Desc) (k len : Nat) : Nat := (d.inl.extractLsb' (8 * k) (8 * len)).toNat

/-- The parameter buffer: PLEN bytes as host memory holds them, zero where the descriptor gives no byte. -/
def Desc.bytes (d : Desc) : List Byte := Machine.fitBytes d.plen.toNat d.buf

/-- Flags of a descriptor (R346). -/
def Desc.cplErrOnly (d : Desc) : Bool := d.flags.getLsbD 0
def Desc.irq (d : Desc) : Bool := d.flags.getLsbD 1
def Desc.waitPrev (d : Desc) : Bool := d.flags.getLsbD 2

end Sys2Proof

namespace Sys2Proof.Machine
open Sys2Proof

/-- What a command's checks and effect give: the state after it, its status and DETAIL, the bytes it returns, why it waits (and
whether its completion then carries WAITED), the CK_RF count of the boundary at which it takes effect when that is not the
take-up, the cascade members whose results it needs. -/
structure CmdResult where
  s : State
  status : Status
  detail : Nat := 0
  ret : List Byte := []
  wait : Option (WaitFor × Bool) := none
  time : Option Nat := none
  carry : List Nat := []

/-- A command that did what it says. -/
def State.okCmd (s : State) : CmdResult := ⟨s, .ok, 0, [], none, none, []⟩

/-- A command that takes effect at a later boundary (R362). -/
def State.okAt (s : State) (t : Nat) : CmdResult := { s.okCmd with time := some t }

/-- A command that returns data: no more than PLEN bytes of it (R347). -/
def State.okData (s : State) (d : Desc) (bytes : List Byte) : CmdResult := { s.okCmd with ret := bytes.take d.plen.toNat }

/-- A command that ends with a status other than OK and changes nothing (R375). -/
def State.fail (s : State) (st : Status) : CmdResult := ⟨s, st, 0, [], none, none, []⟩

/-- BAD_PARAM with DETAIL at a byte of the descriptor, or at 64 and above of the buffer (R349). -/
def State.bad (s : State) (off : Nat) : CmdResult := ⟨s, .badParam, off, [], none, none, []⟩

/-- BAD_PARAM that cannot be placed. -/
def State.badAny (s : State) : CmdResult := s.bad 0xFFFFFFFF

/-- The completion record of R349. -/
def completion (d : Desc) (st : Status) (detail retLen seq : Nat) (fresh waited remote : Bool) (time : Word64) : List Byte :=
  leBytes 2 d.tag.toNat ++ leBytes 1 st.code ++ leBytes 1 (bit fresh + 2 * bit waited + 4 * bit remote) ++
  leBytes 4 d.object.toNat ++ leBytes 8 time.toNat ++ leBytes 1 d.ring ++ zeros 1 ++ leBytes 2 seq ++ leBytes 4 retLen ++
  leBytes 4 detail ++ zeros 4

/-- A completion on a CPL ring, unless CPL_ERR_ONLY leaves it out; IRQ signals the ring's vector at once (R346, R356). -/
def State.completeOn (s : State) (cpl : Nat) (d : Desc) (st : Status) (detail retLen : Nat) (waited remote : Bool)
    (time : Word64) : State :=
  if d.cplErrOnly && st == .ok then s
  else
    let mk (seq : Nat) (fresh _dropped : Bool) : List Byte := completion d st detail retLen seq fresh waited remote time
    if d.irq then
      let s' := s.writeRecord cpl keyCpl mk
      if (s'.ring cpl).dProd = (s.ring cpl).dProd then s' else s'.ringSignal cpl
    else s.putRecord cpl keyCpl mk

/-! ## Storyboard entries (R384, R385) -/

/-- The state codes of R385. -/
def SbSt.code : SbSt → Nat
  | .none => 0 | .replaying => 1 | .done => 2 | .stopped => 3 | .bad => 4

def State.modSb (s : State) (f : Storyboard → Storyboard) : State := { s with host := { s.host with sb := f s.host.sb } }

/-- Replay ends (R385). -/
def State.sbEnd (s : State) (st : SbSt) : State :=
  let s := s.modSb (fun b => { b with st := st, todo := [], joinWait := none, endTime := s.t64 })
  let b := s.host.sb
  s.slateDet 0x0B00 s.devId (leBytes 1 st.code ++ leBytes 2 b.doneCnt ++ leBytes 2 b.failCnt ++ leBytes 2 b.firstFail ++
    leBytes 1 b.firstStatus ++ leBytes 4 b.buildRun.toNat)

/-- The end of a replayed entry (R384). -/
def State.sbReport (s : State) (n eflags : Nat) (d : Desc) (st : Status) : State :=
  if st = .ok then s
  else
    let s := s.modSb (fun b => { b with
      failCnt := b.failCnt + 1, firstFail := if b.firstFail = 0xFFFF then n else b.firstFail,
      firstStatus := if b.firstFail = 0xFFFF then st.code else b.firstStatus })
    let s := s.addDaily 0x0009 sevError s.devId
      (leBytes 2 n ++ leBytes 2 d.opcode.toNat ++ leBytes 2 d.tag.toNat ++ leBytes 1 st.code ++ zeros 1) s.now
    if s.host.sb.stopOnError && !eflags.testBit 1 && s.host.sb.st == .replaying then s.sbEnd .stopped else s

/-- The number that stands for the CPL ring of a command carried from the cascade's master; PAIR, a byte, names no such ring. -/
def cplLink : Nat := 256

/-- Data written to a command's parameter buffer before its completion (R347). -/
def State.putBuf (s : State) (d : Desc) (bytes : List Byte) : State :=
  if bytes.isEmpty then s else { s with host := { s.host with bufOut := s.host.bufOut ++ [(d.bufAddr, bytes)] } }

/-- The end of a command, wherever it came from: a completion record with up to PLEN bytes returned, a Storyboard entry, a result for
the master. -/
def State.report (s : State) (d : Desc) (cpl : Nat) (entry : Option (Nat × Nat)) (st : Status) (detail : Nat) (ret : List Byte)
    (waited remote : Bool) (time : Word64) : State :=
  let out := ret.take d.plen.toNat
  match entry with
  | some (n, fl) => s.sbReport n fl d st
  | none =>
    if cpl = cplLink then { s with cas := { s.cas with sent := s.cas.sent ++ [.result d.tag st detail out] } }
    else
      let s := (s.putBuf d out).completeOn cpl d st detail out.length waited remote time
      if s.cas.st = .member ∧ s.cas.self = s.cas.master then
        { s with cas := { s.cas with sent := s.cas.sent ++ [.tag d.tag] } }
      else s

/-! ## Waiting commands (R350, R362) -/

/-- One waiting command ends; its CPL ring owes one completion less. -/
def State.endOne (st : Status) (t : Nat) (ret : List Byte) (s : State) (w : Waiting) : State :=
  let s := { s with host := { s.host with waiting := s.host.waiting.erase w } }
  let s := s.modRing w.cpl (fun r => { r with owed := r.owed - 1 })
  s.report w.desc w.cpl w.entry st 0 ret w.marked false (s.t64At t)

/-- Every command that waits for something ends with a status at a CK_RF count, returning data. -/
def State.endWaitData (s : State) (why : WaitFor) (st : Status) (t : Nat) (ret : List Byte) : State :=
  (s.host.waiting.filter (fun w => w.why == why)).foldl (State.endOne st t ret) s

/-- The same without data. -/
def State.endWait (s : State) (why : WaitFor) (st : Status) (t : Nat) : State := s.endWaitData why st t []

/-- The oldest command that waits for something ends. -/
def State.endFirst (s : State) (why : WaitFor) (st : Status) (t : Nat) : State :=
  match s.host.waiting.find? (fun w => w.why == why) with
  | some w => State.endOne st t [] s w
  | none => s

/-- The command that a carrier's RUN is waiting for. -/
def waitCar (d : Bool) (c : Nat) : WaitFor := .carrier (if d then .dcar else .fcar) c

/-! ## Ring errors and stops (R344, R345) -/

/-- The CMD rings paired with a CPL ring that leaves RUNNING take no further command (R345). -/
def State.unpair (s : State) (cpl : Nat) : State :=
  { s with host := { s.host with rings := s.host.rings.map (fun r =>
      if r.isRunning kCmd && r.pair == cpl then { r with unpaired := true } else r) } }

/-- The descriptors of a ring that the controller has not taken up are abandoned. -/
def State.abandon (s : State) (i : Nat) : State :=
  { s with host := { s.host with waitq := s.host.waitq.filter (fun d => d.ring != i) } }

/-- A ring leaves RUNNING. -/
def State.ringLeaves (s : State) (i : Nat) : State :=
  let k := (s.ring i).kind.toNat
  if k = kCpl then s.unpair i else if k = kCmd then s.abandon i else s

/-- A failed check puts the ring into ERROR: RING_ERR, vector 0, the flag (R345, R429). -/
def State.ringFail (s : State) (i err : Nat) : State :=
  let s := if (s.ring i).st = .running then s.ringLeaves i else s
  ((s.modRing i (fun r => { r with st := .error, err := BitVec.ofNat 4 err })).signalVec 0).setFlag fRingError

/-- GLOBAL_STS.RING_ERR (R339). -/
def State.ringErr (s : State) : Bool := s.host.rings.any (fun r => r.st == .error)

/-- An entry of a ring to the device is finished with: D_CONS advances, the shadow block follows, the release counts (R351, R356). -/
def State.releaseEntry (s : State) (i : Nat) : State :=
  (s.modRing i (fun r => ({ r with dCons := r.dCons + 1 } : Ring).writeShadow)).ringCount i

/-- `n` entries, empty ones where none is given. -/
def fitEntries (n : Nat) (es : List (List Byte)) : List (List Byte) := es.take n ++ List.replicate (n - es.length) []

/-- A ring kind whose producer is the host. -/
def toDevice (kind : Nat) : Bool := kind == kCmd || kind == kFeed || kind == kBoot

/-- A latched doorbell value, with the entries it adds to a FEED ring, is applied, ignored, or puts the ring into ERROR (R342). -/
def State.applyBell (s : State) (i : Nat) (v : Word32) (entries : List (List Byte)) : State :=
  let r := s.ring i
  if r.st ≠ .running then
    s.addDaily 0x0006 sevInfo s.devId (leBytes 4 i ++ leBytes 4 v.toNat) s.now
  else if v = r.lastBell then s
  else if toDevice r.kind.toNat then
    if (v - r.dCons).toNat < (r.lastBell - r.dCons).toNat ∨ r.entries < (v - r.dCons).toNat then s.ringFail i 5
    else s.modRing i (fun r => { r with
      lastBell := v, dProd := v,
      inData := if r.kind.toNat = kFeed then r.inData ++ fitEntries (v - r.lastBell).toNat entries else r.inData })
  else
    if (r.dProd - r.lastBell).toNat < (v - r.lastBell).toNat then s.ringFail i 5
    else s.modRing i (fun r => { r with lastBell := v, dCons := v })

end Sys2Proof.Machine
end

