-- ==== Sys2Proof/Machine/Nvm.lean ====
section
/-! DEFINITION. The MRAM: copies of a record, the copy in use, writes and their read-back (R416 to R418, R439). -/
namespace Sys2Proof.Machine
open Sys2Proof

/-- Record IDs of R416. -/
def idClk : Nat := 1
def idTx : Nat := 2
def idTime : Nat := 3
def idHopRx : Nat := 4
def idHopTx : Nat := 5
def idStoryboard : Nat := 6
def idDailies : Nat := 7
/-- The result record of a calibration unit 0 to 5. -/
def idCal (unit : Nat) : Nat := 0x10 + unit

/-- A body length that a record may have (R416, R381). -/
def nvmLenOk (id len : Nat) : Bool :=
  if id = idClk ∨ id = idTx then len == 16
  else if id = idTime then len == 160
  else if id = idHopRx ∨ id = idHopTx then len == 4096
  else if id = idStoryboard then decide (32 ≤ len ∧ len ≤ 163840 ∧ len % 4 = 0)
  else if idCal 0 ≤ id ∧ id ≤ idCal 4 then len == 332
  else id == idCal 5 && len == 448

/-- One copy of a record in its MRAM layout (R416). -/
def nvmCopy (id gen : Nat) (body : List Byte) : List Byte :=
  let bs := leBytes 2 id ++ leBytes 2 1 ++ leBytes 4 body.length ++ leBytes 4 gen ++ zeros 4 ++ pad4 body
  bs ++ leBytes 4 (crc32c bs).toNat

/-- Generation and body of a copy that is valid for its slot (R416). -/
def nvmRead (id : Nat) (cp : List Byte) : Option (Nat × List Byte) :=
  let len := leAt cp 4 4
  let padded := (len + 3) / 4 * 4
  let head := cp.take (16 + padded)
  if decide (cp.length = 20 + padded) && leAt cp 0 2 == id && leAt cp 2 2 == 1 && nvmLenOk id len &&
      leAt cp (16 + padded) 4 == (crc32c head).toNat then
    some (leAt cp 8 4, (cp.drop 16).take len)
  else none

/-- Generation a is newer than b (R417). -/
def genNewer (a b : Nat) : Bool :=
  let d := (a + 2 ^ 32 - b % 2 ^ 32) % 2 ^ 32
  decide (1 ≤ d ∧ d ≤ 2 ^ 31 - 1)

/-- The generation after one: 0xFFFF_FFFF wraps to 1 (R416). -/
def genNext (g : Nat) : Nat := if g = 0xFFFFFFFF then 1 else g + 1

/-- The copies of a record. -/
def Mram.copies (m : Mram) (id : Nat) : Copies := ((m.recs.find? (fun r => r.1 == id)).map Prod.snd).getD ⟨[], []⟩

/-- The copy in use: generation, body, and true for copy A (R417). -/
def Mram.inUse (m : Mram) (id : Nat) : Option (Nat × List Byte × Bool) :=
  match nvmRead id (m.copies id).a, nvmRead id (m.copies id).b with
  | some (g, bs), none => some (g, bs, true)
  | none, some (g, bs) => some (g, bs, false)
  | none, none => none
  | some (ga, ba), some (gb, bb) => if genNewer gb ga then some (gb, bb, false) else some (ga, ba, true)

/-- The body in use. -/
def Mram.body (m : Mram) (id : Nat) : Option (List Byte) := (m.inUse id).map (fun x => x.2.1)

/-- The copies of a record replaced; a record of which nothing is left is not listed. -/
def Mram.setCopies (m : Mram) (id : Nat) (c : Copies) : Mram :=
  let rest := m.recs.filter (fun r => r.1 != id)
  { m with recs := if c = ⟨[], []⟩ then rest else sortBy Prod.fst ((id, c) :: rest) }

/-- One copy of a record replaced. -/
def Mram.setCopy (m : Mram) (id : Nat) (toA : Bool) (bs : List Byte) : Mram :=
  let c := m.copies id
  m.setCopies id (if toA then { c with a := bs } else { c with b := bs })

/-- A record's write begins: the other copy, with the next generation, or generation 1 in copy A when none is valid (R417). While it
is being written that copy is not valid. -/
def Mram.beginWrite (m : Mram) (id : Nat) (body : List Byte) : Mram :=
  let w : NvmWrite := match m.inUse id with
    | some (g, _, isA) => ⟨id, body, genNext g, !isA, 0⟩
    | none => ⟨id, body, 1, true, 0⟩
  { (m.setCopy id w.toA []) with writes := w :: m.writes }

/-- A record is to be written: at once, or after the earlier writes of the same record. -/
def State.nvmStart (s : State) (id : Nat) (body : List Byte) : State :=
  if s.mram.writes.any (fun w => w.id == id) then
    { s with mram := { s.mram with writes := s.mram.writes ++ [⟨id, body, 0, false, 0⟩] } }
  else { s with mram := s.mram.beginWrite id body }

/-- The write of a record is over; the next one of the same record begins. -/
def State.nvmNext (s : State) (w : NvmWrite) : State :=
  let rest := s.mram.writes.erase w
  let m := { s.mram with writes := rest }
  match rest.find? (fun x => x.id == w.id) with
  | some x => { s with mram := ({ m with writes := rest.erase x } : Mram).beginWrite x.id x.body }
  | none => { s with mram := m }

/-- A write that failed twice: NVM_FAIL and its slate (R417, R423). -/
def State.nvmFail (s : State) (id : Nat) : State :=
  (s.setFlag fNvmFail).slateDet 0x0C02 s.devId (leBytes 2 id)

/-- The write of a persisted Dailies entry ends an attempt (R439). -/
def State.dailyWritten (s : State) (seq : Nat) (ok : Bool) : State :=
  match s.log.writing.find? (fun w => w.1 == seq) with
  | none => s
  | some (_, attempt) =>
    let rest := s.log.writing.filter (fun w => w.1 != seq)
    if ok then
      let held := s.log.held.map (fun e => if e.seq = seq then { e with eflags := e.eflags ||| 4 } else e)
      let kept := s.mram.dailies ++ held.filter (fun e => e.seq == seq)
      { s with log := { s.log with held := held, writing := rest },
               mram := { s.mram with dailies := kept.drop (kept.length - 512) } }
    else if attempt = 0 then { s with log := { s.log with writing := (seq, 1) :: rest } }
    else (({ s with log := { s.log with writing := rest } } : State)).nvmFail idDailies

/-- The bytes of a list as a block, byte 0 lowest. -/
def blockOf (n : Nat) (bs : List Byte) : BitVec n := BitVec.ofNat n (leNat bs)

/-- The little-endian bytes of a block. -/
def blockBytes {n : Nat} (b : BitVec n) : List Byte := leBytes (n / 8) b.toNat

/-- A hop-table entry in its 16 bytes (R39). -/
def HopEntry.bytes (h : HopEntry) : List Byte :=
  leBytes 4 h.vcoKHz ++ leBytes 1 h.band ++ leBytes 1 (bit h.valid) ++ leBytes 2 h.fine ++ leBytes 2 (unsignedOf 16 h.tj) ++
  leBytes 4 h.lastUse ++ zeros 2

/-- The hop table as 256 entries, invalid ones beyond its length. -/
def hopBytes (table : List HopEntry) : List Byte := fitBytes 4096 (table.flatMap HopEntry.bytes)

/-- The hop table that 4096 bytes hold. -/
def hopOf (bs : List Byte) : List HopEntry :=
  ((List.range 256).map (fun i =>
    let o := 16 * i
    (⟨leAt bs o 4, leAt bs (o + 4) 1, leAt bs (o + 5) 1 == 1, leAt bs (o + 6) 2, signedOf 16 (leAt bs (o + 8) 2),
      leAt bs (o + 10) 4⟩ : HopEntry))).filter HopEntry.valid

/-- A profile from its record, or its reset value; true when a copy is valid (R418). -/
def Mram.profile (m : Mram) (id n : Nat) (fs : List Field) : BitVec n × Bool :=
  match m.body id with
  | some bs => (blockOf n bs &&& tableMask n fs, true)
  | none => (tableReset n fs, false)

end Sys2Proof.Machine
end

