-- ==== Sys2Proof/Machine/CalBase.lean ====
section
/-! DEFINITION. Marks of the quality byte, the Stand-in's traffic, and the end of a calibration run (R58, R60, R62, R412, R415, R421 to R423). -/
namespace Sys2Proof.Machine
open Sys2Proof

/-! ## Marks of the quality byte (R58) -/

/-- The bits of the quality byte. -/
def qHoldover : Byte := 0x01
def qDrift : Byte := 0x02
def qClip : Byte := 0x04
def qGainStep : Byte := 0x08
def qStandin : Byte := 0x10
def qSwitch : Byte := 0x20
def qInvalid : Byte := 0x40
def qSettle : Byte := 0x80

/-- A mark on an input's samples from `a` up to but not including `b`. -/
def State.markConv (s : State) (x : Nat) (bits : Byte) (a : Nat) (b : Option Nat) : State :=
  s.modConv x (fun r => { r with marks := r.marks ++ [⟨a, b, bits⟩] })

/-- The open marks of some bits end before sample `k`. -/
def endMarks (bits : Byte) (k : Nat) (ms : List Mark) : List Mark :=
  ms.map (fun m => if m.bits = bits ∧ m.stop = none then { m with stop := some k } else m)

/-- An input's open marks of some bits end before sample `k`. -/
def State.unmarkConv (s : State) (x : Nat) (bits : Byte) (k : Nat) : State :=
  s.modConv x (fun r => { r with marks := endMarks bits k r.marks })

/-- ALO_RX has no lock from sample `k` on, or has it again: INVALID on input D (R42, R55). -/
def State.loInvalid (s : State) (k : Nat) : State := s.modConv 3 (fun r => { r with loMarks := r.loMarks ++ [⟨k, none, qInvalid⟩] })
def State.loValid (s : State) (k : Nat) : State := s.modConv 3 (fun r => { r with loMarks := endMarks qInvalid k r.loMarks })

/-- A mark covers a sample. -/
def Mark.covers (m : Mark) (k : Nat) : Bool :=
  decide (m.start ≤ k) && (match m.stop with | none => true | some b => decide (k < b))

/-- The quality byte of an input at a sample (R58). -/
def State.qualityAt (s : State) (x k : Nat) : Byte :=
  ((s.convR x).marks ++ (s.convR x).loMarks ++ s.devMarks).foldl (fun q m => if m.covers k then q ||| m.bits else q) 0

/-- The input that the Stand-in's present match serves. -/
def Standin.matching (d : Standin) : Option Nat :=
  match d.use with
  | .visit x | .take x _ | .giveBack x => some x
  | _ => none

/-- The matching pilot is injected at an input's split point while its window or check frame lasts (R59, R60). -/
def Standin.pilotOn (d : Standin) (x : Nat) : Bool := d.matching == some x && (d.stage == .window || d.stage == .check)

/-- The pilot's spans follow the match. -/
def State.pilotSync (s : State) (x : Nat) : State :=
  let on := s.standin.pilotOn x
  let open_ := (s.convR x).pilots.any (fun m => m.stop.isNone)
  let k := s.index
  if on == open_ then s
  else s.modConv x (fun r => { r with
    pilots := if on then r.pilots ++ [⟨k, none, 0⟩] else r.pilots.map (fun m => if m.stop.isNone then { m with stop := some k } else m) })

/-! ## Conditions of converters and calibration units (R487) -/

def State.agcCond (s : State) : State := s.setCond fAgcLimit (s.conv.any (fun o => o.run.limit))
def State.convFailCond (s : State) : State := s.setCond fConvFail (s.conv.any (fun o => o.run.failed.isSome))
def State.degradedCond (s : State) : State := s.setCond fCalDegraded (s.cal.units.any CalUnit.degraded)

/-! ## The Stand-in's traffic -/

def State.modStandin (s : State) (f : Standin → Standin) : State := { s with standin := f s.standin }

/-- The converter is FAILED (R64). -/
def State.failedConv (s : State) (x : Nat) : Bool := (s.convR x).failed.isSome

/-- Input `x`'s traffic moves to ADC4 at sample `k` (R60, R65). -/
def State.trafficIn (s : State) (x k : Nat) : State :=
  let s := s.modConv x (fun r => { r with
    onStandin := true, marks := r.marks ++ [⟨k, some (k + 1), qSwitch⟩, ⟨k, none, qStandin⟩] })
  s.slateT 0x0201 (s.idOf .conv x) (k * perSample) []

/-- Input `x`'s traffic returns to its own converter at sample `k` (R62, R66, R412). -/
def State.trafficOut (s : State) (x k : Nat) : State :=
  let s := s.modConv x (fun r => { r with
    onStandin := false, marks := endMarks qStandin k r.marks ++ [⟨k, some (k + 1), qSwitch⟩] })
  s.slateT 0x0202 (s.idOf .conv x) (k * perSample) []

/-- The use of the Stand-in ends: the crossbar is disconnected and the rota goes on after the input served (R63). -/
def State.standinFree (s : State) (rota : Nat) : State :=
  s.modStandin (fun d => { d with conn := none, use := .idle, stage := .none, fails := 0, rota := rota % 4, retry := false })

/-- A correction after `n` Plain frames at `most` each toward zero. -/
def shrink (most n : Nat) (v : Int) : Int := if v < 0 then -((v.natAbs - n * most : Nat) : Int) else (v.natAbs - n * most : Nat)

/-- The matching correction left on an input's converter at CK_RF count `t`: moved to zero at 2^-11 of gain, 0.32 ps and 1 LSB per Plain
frame, the fastest that R62 permits (DESIGN CHOICE, log 96). -/
def ConvRun.leftAt (r : ConvRun) (t : Nat) : Int × Int × Int :=
  match r.leftFrom with
  | none => r.left
  | some a =>
    let n := (t - a) / perFrame
    (shrink 32 n r.left.1, shrink 32 n r.left.2.1, shrink 16 n r.left.2.2)

/-- The traffic of input `x` is to return by R62: matching ADCx to ADC4 starts at this Plain-frame boundary. -/
def State.giveBack (s : State) (x : Nat) : State :=
  s.modStandin (fun d => { d with
    use := .giveBack x, stage := .settling, stageEnd := alignNext perFrame s.now, fails := 0, retry := false })

/-! ## Calibration runs -/

def State.unit (s : State) (u : Nat) : CalUnit := (s.cal.units[u]?).getD (CalUnit.reset 1 0)
def State.modUnit (s : State) (u : Nat) (f : CalUnit → CalUnit) : State :=
  { s with cal := { s.cal with units := modAt u f s.cal.units } }

/-- The sensor of a unit (R407). -/
def unitSensor (u : Nat) : Nat := if u ≤ 1 then 0 else if u ≤ 4 then 1 else 2

/-- A unit's present temperature in 1/16 °C. -/
def State.unitTemp (s : State) (u : Nat) : Int := s.health.ts.getD (unitSensor u) 0

/-- The object that a unit's records name: its converter, or the device for TX. -/
def State.unitId (s : State) (u : Nat) : Id := if u = 5 then s.devId else s.idOf .conv u

def CalResult.code : CalResult → Nat
  | .pass => 0 | .limit => 1 | .matchFail => 2 | .convFail => 3 | .aborted => 4 | .preempted => 5
def CalTrigger.code : CalTrigger → Nat
  | .command => 0 | .temp => 1 | .age => 2 | .start => 3

/-- The result block of R421 with GEN zero. -/
def calBlock (u : Nat) (r : CalRun) (res : CalResult) (fails limit : Nat) (end_ : Word64) : List Byte :=
  leBytes 1 u ++ leBytes 1 res.code ++ leBytes 1 r.trigger.code ++ leBytes 1 (satU 8 fails) ++
  leBytes 2 (unsignedOf 16 r.temp) ++ leBytes 2 limit ++ zeros 4 ++ leBytes 4 (if u = 5 then r.band else 0xFFFFFFFF) ++
  leBytes 8 r.start.toNat ++ leBytes 8 end_.toNat

/-- The block with the generation written. -/
def calBlockGen (block : List Byte) (gen : Nat) : List Byte := block.take 8 ++ leBytes 4 gen ++ block.drop 12

/-- The report of a run that ended at CK_RF count `t`: slate, Dailies entry and the completions that wait for it (R420, R423). -/
def State.calReport (s : State) (u : Nat) (block : List Byte) (t : Nat) : State :=
  let res := (byteAt block 1).toNat
  let s := s.slateT 0x0C00 (s.unitId u) t (block.take 8)
  let s := s.addDaily 0x000A (if res = 1 then sevError else sevNotice) (s.unitId u) block t
  s.endWaitData (.cal u) (if 4 ≤ res then .aborted else .ok) t block

/-- A run ends without passing, at CK_RF count `t` (R412, R414, R415). -/
def State.calEnd (s : State) (u : Nat) (res : CalResult) (limit t : Nat) : State :=
  match (s.unit u).run with
  | none => s
  | some r =>
    let r := if r.stage = .pending then { r with start := s.t64At t, temp := s.unitTemp u } else r
    let fails := (s.unit u).fails + (if res = .limit then 1 else 0)
    let s := s.modUnit u (fun c => { c with run := none, fails := fails })
    let s := if res = .limit then s.setFlag fCalFail else s
    let s := if res = .limit ∧ 3 ≤ fails ∧ (s.unit u).degraded = false then
        ((s.modUnit u (fun c => { c with degraded := true })).degradedCond).slateDet 0x0C01 (s.unitId u) (leBytes 1 u) else s
    s.calReport u (calBlock u r res fails limit (s.t64At t)) t

/-- A run in progress or pending ends ABORTED. -/
def State.calAbort (s : State) (u t : Nat) : State := s.calEnd u .aborted 0xFFFF t

/-- Input `x` is held or closed at CK_RF count `t`: a run of its converter ends, and no return match is made (R412). Traffic that
the Stand-in carries for a FAILED or DEGRADED converter stays on it. -/
def State.convHeld (s : State) (x t : Nat) : State :=
  let k := t / perSample
  let running := match (s.unit x).run with | some r => r.stage != .pending | none => false
  let commanded := match (s.unit x).run with | some r => r.trigger == .command | none => false
  let leaves := !s.failedConv x &&
    (s.standin.use == .take x true || s.standin.use == .giveBack x || (s.standin.use == .carry x && running))
  let s := if running || commanded then s.calAbort x t else s
  if leaves then (if (s.convR x).onStandin then s.trafficOut x k else s).standinFree (x + 1) else s

end Sys2Proof.Machine
end

