-- ==== Sys2Proof/Machine/Air.lean ====
section
/-! DEFINITION. The composer's carriers between idle and on air: the LO, the start boundary, going off air, the pins, the sweep's end (R247, R265 to R275). -/
namespace Sys2Proof.Machine
open Sys2Proof

/-! ## Conditions that several objects share (R487) -/

def State.codecCond (s : State) : State :=
  s.setCond fCodecMismatch (s.prog.any (fun o => o.run.mismatch && o.life.eff == .run))
def State.portConds (s : State) : State :=
  (s.setCond fClockLost (s.port.any (fun o => o.run.st == .clockLost))).setCond fRateJump
    (s.port.any (fun o => o.run.st == .rateJump))
def State.levelCond (s : State) : State :=
  s.setCond fLevelOut (s.fcar.any (fun o => o.run.air.levelOut) || s.dcar.any (fun o => o.run.air.levelOut))

/-! ## The composer's pins and LO (R247, R270, R271) -/

/-- A carrier radiates. -/
def State.anyOnAir (s : State) : Bool := s.fcar.any (fun o => o.run.air.st == .onAir) || s.dcar.any (fun o => o.run.air.st == .onAir)

/-- A carrier's commanded state is RUN: it runs or waits for its LO (R247, R285). -/
def State.anyCarrier (s : State) : Bool := s.fcar.any (fun o => o.life.cmd == .run) || s.dcar.any (fun o => o.life.cmd == .run)

/-- Nothing of a carrier is left, not even one whose fall is still to come. -/
def State.anyCarrierEff (s : State) : Bool :=
  s.anyCarrier || s.fcar.any (fun o => o.life.eff == .run) || s.dcar.any (fun o => o.life.eff == .run)

/-- The composer works in LO mode (R247). -/
def State.loMode (s : State) : Bool := fbit s.tx.profile txOutMode

/-- PA_LEAD in CK_RF cycles, and RAMP_T (R248). -/
def State.paLead (s : State) : Nat := fget s.tx.profile txPaLead * 983040 / 1000
def State.rampT (s : State) : Nat := fget s.tx.profile txRampT * 98304
def State.yt7300 (s : State) : Bool := fbit s.tx.profile txPaMode

/-- The pins after a carrier's fall that ends at `stop`: PA_RAMP low once no carrier radiates, PA_EN due to fall
PA_LEAD after the end of the last fall, or 1 ms after the compatibility ramp (R270, R271). -/
def State.paAfterFall (s : State) (stop : Nat) : State :=
  if s.anyOnAir then s
  else
    let lag := if s.yt7300 then s.rampT + 983040 else s.paLead
    { s with tx := { s.tx with
        paRamp := s.yt7300 && s.tx.paRamp, paHighAt := none,
        paFallAt := if s.anyCarrierEff then none else some (stop + lag) } }

/-- The composer's part of a carrier's run. -/
def State.air (s : State) (d : Bool) (c : Nat) : AirRun := if d then (s.dcarR c).air else (s.fcarR c).air
def State.modAir (s : State) (d : Bool) (c : Nat) (f : AirRun → AirRun) : State :=
  if d then s.modDcar c (fun r => { r with air := f r.air }) else s.modFcar c (fun r => { r with air := f r.air })
/-- The reference of a carrier. -/
def carRef (d : Bool) (c : Nat) : Ref := ⟨if d then .dcar else .fcar, c⟩

/-- The code of a cause of CARRIER_OFF (R280, R292). -/
def offCode : OffCause → Nat
  | .hold => 0 | .group => 1 | .loLost => 2 | .drift => 3 | .absent => 4

/-- A carrier goes off air at `t`: at once when its LO is lost, else over one Plain frame (R266, R280). -/
def State.carrierOff (s : State) (d : Bool) (c : Nat) (cause : OffCause) (stays : Bool) (t : Nat) : State :=
  let was := (s.air d c).st
  let s := s.modAir d c (fun a => { a with
    fallAt := if a.st = .onAir then some t else a.fallAt,
    st := if stays then .offAir else .idle, cause := cause, startAt := none, waitEnd := none, offAt := none,
    levelOut := if stays then a.levelOut else false, levelTicks := 0 })
  let s := if was = .onAir then
      (s.slateT 0x0801 (mkId s.selfDev (carRef d c)) t (leBytes 1 (offCode cause))).paAfterFall (if cause = .loLost then t else t + perFrame)
    else s
  s.levelCond

/-! ## Start boundaries (R253, R260, R265 to R267) -/

/-- A DCAR transmission frame, 96 ms, in 1/256 ns. -/
def dcarStep : Nat := 24576000000

/-- The CK_RF count of DCAR `c`'s first scheduled frame at or after count `at_`, once it is scheduled (R260). -/
def State.dcarFrameAt (s : State) (c at_ : Nat) : Nat :=
  let t0 := (s.dcarR c).t0
  max at_ (s.cycleOf (t0 + ceilDiv (s.timeAt at_ - t0) dcarStep * dcarStep))

/-- A carrier's first output block boundary at or after a CK_RF count (R253); none for a DCAR that is not scheduled yet. -/
def State.carBoundary (s : State) (d : Bool) (c at_ : Nat) : Option Nat :=
  if d then (s.dcarR c).c0.map (fun _ => s.dcarFrameAt c at_) else some (alignUp perAlign at_)

/-- A carrier other than this one radiates or has its start boundary. -/
def State.otherAir (s : State) (d : Bool) (c : Nat) : Bool :=
  let busy (a : AirRun) : Bool := a.st == .onAir || (a.st == .starting && a.startAt.isSome)
  (indexed 0 s.fcar).any (fun x => !(!d && x.1 == c) && busy x.2.run.air) ||
  (indexed 0 s.dcar).any (fun x => !(d && x.1 == c) && busy x.2.run.air)

/-- A carrier may start at or after CK_RF count `t`, an FCAR exactly there when `exact` (R265, R267): its start boundary, and PA_EN
before that of the first carrier (R270, R271). -/
def State.setStart (s : State) (d : Bool) (c t : Nat) (exact : Bool) : State :=
  let idle := !s.otherAir d c
  let least := if s.yt7300 && idle then t + 983040 + s.rampT else t
  let b := if exact && !d then some least else s.carBoundary d c least
  let s := s.modAir d c (fun a => { a with st := if a.st = .offAir then .offAir else .starting, startAt := b })
  match b with
  | some b =>
    let lead := if s.yt7300 then 983040 + s.rampT else s.paLead
    { s with tx := { s.tx with
        paFallAt := none, paRiseAt := if s.tx.paEn then none else if idle then some (b - lead) else s.tx.paRiseAt } }
  | none => s

/-! ## The LO of the carriers (R247, R265, R266) -/

/-- A FULL transmit calibration is in progress (R269). -/
def State.fullCal (s : State) : Bool := match (s.unit 5).run with | some r => r.stage == .measuring | none => false

/-- A sweep waits or runs (R273). -/
def State.sweeping (s : State) : Bool := s.tx.sweep.st != .none

/-- The carriers of both kinds. -/
def allCars : List (Bool × Nat) := (List.range 24).map (fun c => (false, c)) ++ (List.range 4).map (fun c => (true, c))

/-- DRIFT takes carriers off air (R266). -/
def State.driftOff (s : State) : Bool := fbit s.tx.profile txDriftOff && s.drift

/-- ALO_TX is locked to the claimed frequency and nothing else uses it. -/
def State.loReady (s : State) : Bool :=
  match s.tx.claim with
  | some khz => s.aloTx.st == .locked && s.aloTx.freqHz == khz * 1000 && !s.sweeping && !s.fullCal
  | none => false

/-- An off-air carrier that lock or the end of DRIFT brings back (R266). -/
def AirRun.returns (a : AirRun) : Bool := a.st == .offAir && (a.cause == .loLost || a.cause == .drift) && a.startAt.isNone

/-- The LO serves the carriers: those that wait start, those that its loss took off air return (R265, R266). -/
def State.loServe (s : State) : State :=
  allCars.foldl (fun s x =>
    let a := s.air x.1 x.2
    if a.st = .waitLo ∨ a.returns = true ∧ s.driftOff = false then s.setStart x.1 x.2 s.now false else s) s

/-- ALO_TX is set to the claimed frequency when nothing else uses it. -/
def State.loTune (s : State) (user : Id) : State :=
  match s.tx.claim with
  | none => s
  | some khz =>
    if s.sweeping || s.fullCal then s
    else if s.loReady then s.loServe
    else if s.aloTx.freqHz = khz * 1000 ∧ (s.aloTx.st = .hopping ∨ s.aloTx.st = .searching) ∧ s.aloTx.ramp = [] then s
    else s.aloTarget 1 (khz * 1000) user

/-- ALO_TX goes to the carriers that claim it, or is released. -/
def State.loFree (s : State) : State :=
  match s.tx.claim with
  | none => s.aloRelease 1
  | some _ => s.loTune (match allCars.find? (fun x => (s.air x.1 x.2).st == .waitLo) with
    | some x => mkId s.selfDev (carRef x.1 x.2)
    | none => s.devId)

/-- The LO claim ends when no LO-mode carrier runs or waits (R247, R265). -/
def State.releaseLo (s : State) : State :=
  if s.tx.claim.isSome && !s.anyCarrierEff then
    let s := { s with tx := { s.tx with claim := none } }
    if s.sweeping || s.fullCal then s else s.aloRelease 1
  else s

/-! ## Transmit calibration (R269, R413) -/

/-- A FULL calibration lasts at most 8 ms. -/
def fullCalMost : Nat := 7864320

/-- TXCAL_WAIT: a FULL calibration is due while carriers run, and no DCAR supplies null symbols (R269). -/
def State.txcalCond (s : State) : State :=
  let due := match (s.unit 5).run with | some r => r.stage == .pending | none => false
  s.setCond fTxcalWait (due && s.anyCarrier && !s.dcar.any (fun o => o.life.cmd == .run))

/-- A run of TX that is due starts in its FULL form when no LO-mode carrier is in RUN and no sweep uses ALO_TX (R269, R413). -/
def State.txcalStart (s : State) : State :=
  let s := match (s.unit 5).run with
    | some r =>
      if r.stage = CalStage.pending ∧ s.loMode = true ∧ s.anyCarrierEff = false ∧ s.sweeping = false then
        let s := if s.aloTx.isSet then s.aloTarget 1 s.aloTx.freqHz s.devId else s
        s.modUnit 5 (fun c => { c with run := some { r with
          stage := .measuring, start := s.t64, temp := s.unitTemp 5, ends := s.now + fullCalMost } })
      else s
    | none => s
  s.txcalCond

/-! ## The end of a sweep (R272 to R275) -/

/-- What the IQCAP ring keeps a sweep's records under. -/
def sweepKey : Nat := 0x2000000100

/-- The points in hand are written as one record (R275). -/
def State.sweepFlush (s : State) (last aborted : Bool) : State :=
  let w := s.tx.sweep
  if w.part.isEmpty then s
  else
    let s := s.putRecord w.ring sweepKey (fun _ _ _ =>
      leBytes 2 (32 + 12 * w.part.length) ++ leBytes 1 2 ++ leBytes 1 (8 * bit last + 32 * bit aborted) ++ leBytes 4 0xFF0A0001 ++
      leBytes 8 w.partFirst ++ leBytes 8 w.partTime.toNat ++ leBytes 2 w.part.length ++ zeros 6 ++ w.part.flatten)
    { s with tx := { s.tx with sweep := { w with part := [] } } }

/-- A sweep ends (R272, R273): a command that still waits ends with `st`; the last record, the wires, the slate; ALO_TX goes to the
carriers or is released. -/
def State.sweepEnd (s : State) (aborted : Bool) (st : Status) : State :=
  let w := s.tx.sweep
  if w.st = .none then s
  else
    let s := s.sweepFlush true aborted
    let s := { s with tx := { s.tx with sweep := Sweep.reset, cxReq := false, cxPrio := false } }
    let s := (s.modAlo 1 (fun x => { x with ramp := [], seg := 0 })).endWait .sweep st s.now
    let s := if w.st = .running then
        s.slateDet 0x0808 (s.idOf .alo 1) (leBytes 4 w.points ++ leBytes 1 (bit aborted)) else s
    s.loFree.txcalStart

/-! ## A carrier's RUN (R247, R265) -/

/-- The fields that both kinds of carrier have. -/
def carFreq (b : Blk) : Nat := fget b fcFreq
def carLoKhz (b : Blk) : Nat := fget b fcLoKhz
def carPriority (d : Bool) (b : Blk) : Bool := if d then fbit b dcTxPriority else fbit b fcTxPriority
def carLoWait (d : Bool) (b : Blk) : Nat := (if d then fget b dcLoWait else fget b fcLoWait) * 49152

/-- A carrier's run begins at CK_RF count `t`, with a group's RUN when `exact` (R247, R265, R267): in DIRECT mode its start boundary
is set, in LO mode it claims the LO and waits for it. -/
def State.startAir (s : State) (d : Bool) (c t : Nat) (exact : Bool) : State :=
  let b := (s.life (carRef d c)).cur
  let s := if d then s.modDcar c (fun x => { DcarRun.reset with figDefer := x.figDefer, late := x.late })
    else s.modFcar c (fun x => { FcarRun.reset with fill := x.fill, drop := x.drop })
  let s := s.modAir d c (fun a => { a with runAt := t })
  if s.loMode then
    let s := { s with tx := { s.tx with claim := some (s.tx.claim.getD (carLoKhz b)), paFallAt := none } }
    let s := s.modAir d c (fun a => { a with st := .waitLo, waitEnd := some (t + carLoWait d b) })
    let s := if carPriority d b then
        let s := s.sweepEnd true .aborted
        if s.fullCal then (s.calEnd 5 .preempted 0xFFFF s.now).loFree else s
      else s
    (s.loTune (mkId s.selfDev (carRef d c))).txcalCond
  else s.setStart d c t exact

/-! ## DRIFT_OFF (R266) -/

/-- DRIFT sets: every carrier goes off air at its next block boundary, or TX_DRIFT is raised for each. -/
def State.driftBegins (s : State) : State :=
  allCars.foldl (fun s x =>
    if (s.air x.1 x.2).st = .onAir then
      if fbit s.tx.profile txDriftOff then
        s.modAir x.1 x.2 (fun a => { a with offAt := s.carBoundary x.1 x.2 s.now })
      else s.slateDet 0x0805 (mkId s.selfDev (carRef x.1 x.2)) []
    else s) s

/-- DRIFT clears: the carriers that it took off air return at their first boundary. -/
def State.driftEnds (s : State) : State :=
  allCars.foldl (fun s x =>
    let a := s.air x.1 x.2
    if a.returns = true ∧ (s.loMode = false ∨ s.loReady = true) then s.setStart x.1 x.2 s.now false
    else s.modAir x.1 x.2 (fun a => { a with offAt := none })) s

/-- The carriers whose boundary has come go off air, and PA_RAMP goes high at the end of the first rise. -/
def State.settleAir (s : State) : State :=
  let s := allCars.foldl (fun s x =>
    match (s.air x.1 x.2).offAt with
    | some b => if b ≤ s.now then s.carrierOff x.1 x.2 .drift true b else s
    | none => s) s
  match s.tx.paHighAt with
  | some t => if t ≤ s.now then { s with tx := { s.tx with paRamp := true, paHighAt := none } } else s
  | none => s

end Sys2Proof.Machine
end

