-- ==== Sys2Proof/Machine/Life.lean ====
section
/-! DEFINITION. The life of objects: what taking up a hold, a run or a close does at its boundary (R358 to R363), and the passing of time. -/
namespace Sys2Proof.Machine
open Sys2Proof

/-! ## Gain states (R48) -/

/-- A gain state in force from sample `k`, compensated; the sample carries GAIN_STEP when the state changes (R48). The LNA and ATT
fields read the current value (R5). -/
def State.gainNow (s : State) (x lna att k : Nat) : State :=
  let r := s.convR x
  if r.lna = lna ∧ r.att = att then s.modConv x (fun r => { r with nextGain := none })
  else
    let put (b : Blk) : Blk := fset (fset b cvLna lna) cvAtt att
    let s := s.modLife ⟨.conv, x⟩ (fun l => { l with cur := put l.cur, blk := if l.cmd = .run then put l.blk else l.blk })
    (s.modConv x (fun r => { r with
      lna := lna, att := att, nextGain := none, agcSteps := satU 16 (r.agcSteps + 1), holdFrom := k + 1,
      gains := ((k, lna, att) :: r.gains).take 64 })).markConv x qGainStep k (some (k + 1))

/-- A decided gain state whose boundary has been reached takes effect. -/
def State.settleGain (s : State) (x : Nat) : State :=
  match (s.convR x).nextGain with
  | some (lna, att, k) => if k * perSample ≤ s.now then s.gainNow x lna att k else s
  | none => s

/-! ## Captures (R101, R103) -/

/-- What a ring keeps a capture's records under. -/
def capKey (c : Nat) : Nat := 0x2000000000 + c

/-- The captures that run on a Pass of this device. -/
def State.capsOf (s : State) (p : Nat) : List Nat :=
  (List.range 16).filter (fun c => s.running .cap c && s.canon (s.capR c).source == mkId 0xFF ⟨.pass, p⟩)

/-- LAST set in the flags of a capture's last record on its ring, while the ring runs (R101, R103). -/
def markLast (src : Id) (mask : Nat) : List (List Byte) → List (List Byte)
  | [] => []
  | e :: es =>
    let rest := markLast src mask es
    if rest ≠ es then e :: rest
    else if leAt e 2 1 = 1 ∧ leAt e 4 4 = src.toNat ∧ leAt e 26 2 = mask then
      putAt 3 (byteAt e 3 ||| 8) e :: es
    else e :: es

/-- The life of a capture that has ended: HELD, or CLOSED when that is why it ended (R359). -/
def Life.capHeld (l : Life) : Life :=
  if l.cmd = .closed then { l with eff := .closed } else { l with cmd := .held, eff := .held }

/-- A capture whose source is closed goes to HELD; its last record carries LAST (R103). -/
def State.capClosed (mask : Nat) (s : State) (c : Nat) : State :=
  let r := s.capR c
  let m := if r.streams = 0 then mask else r.streams &&& mask
  let s := if 0 < r.written ∧ (s.ring r.ring).isRunning kIqcap = true then
      s.modRing r.ring (fun g => { g with out := markLast (s.ownId r.source) m g.out }) else s
  (s.modLife ⟨.cap, c⟩ Life.capHeld).modCap c (fun x => { x with stopping := false })

/-- How many streams a Pass delivers: its branches, or for RAW its subbands of each (R83). -/
def branchesOf (b : Blk) : Nat := (([0, 1, 2, 3] : List Nat).filter (fun n => (fget b (psIn n)).testBit 7)).length
def streamsOf (b : Blk) : Nat :=
  if fget b psClass = 3 then branchesOf b * (fget b psNsb + 1) else branchesOf b

/-- A capture in RUN stops: the block in progress is its last, or it is HELD at once when its Pass delivers nothing (R103). -/
def State.capStop (s : State) (c : Nat) : State :=
  let r := s.capR c
  let live := match s.refOf r.source with
    | some ⟨.pass, p⟩ => s.running .pass p && (s.passR p).gateOpen && decide (r.first * perFrame ≤ s.now)
    | _ => false
  if !s.cmdRun .cap c then s
  else if live && !(decide (r.count ≠ 0 ∧ r.count ≤ r.done)) then s.modCap c (fun r => { r with stopping := true })
  else s.modLife ⟨.cap, c⟩ Life.capHeld

/-- A stop that a group's hold has put at an index takes place there (R103, R371). -/
def State.settleCap (s : State) (c : Nat) : State :=
  match (s.capR c).stopAt with
  | some t => if t ≤ s.now then (s.modCap c (fun r => { r with stopAt := none })).capStop c else s
  | none => s

/-! ## Records of an AUDIO ring (R353) -/

/-- What a ring keeps a programme's audio under. -/
def audioKey (p : Nat) : Nat := 0x3000000000 + p

/-- The blocks of a record hold a marked one. -/
def anyBlock (f : AudioBlock → Bool) (bs : List AudioBlock) : Bool := bs.any f

/-- A 24-bit word as an AUDIO record carries it. -/
def audioWord (fmt24 : Bool) (v : Int) : List Byte :=
  if fmt24 then leBytes 4 (unsignedOf 32 v) else leBytes 2 (unsignedOf 16 (satSigned 16 (rheDiv v 256)))

/-- An AUDIO record. -/
def audioRecord (fmt24 : Bool) (src : Id) (rate : Nat) (bs : List AudioBlock) (time : Word64) (seq : Nat) (fresh dropped : Bool) :
    List Byte :=
  let samples := bs.flatMap AudioBlock.samples
  let data := pad4 (samples.flatMap (fun x => audioWord fmt24 x.1 ++ audioWord fmt24 x.2))
  let fl := bit fresh + 2 * bit dropped + 4 * bit (anyBlock (fun b => b.absent.any id) bs) + 8 * bit (anyBlock AudioBlock.concealed bs) +
    16 * bit (anyBlock AudioBlock.start bs) + 32 * bit (anyBlock AudioBlock.insert bs) + 64 * bit (anyBlock AudioBlock.clip bs)
  leBytes 2 (32 + data.length) ++ leBytes 1 3 ++ leBytes 1 fl ++ leBytes 4 src.toNat ++ leBytes 4 rate ++
  leBytes 2 samples.length ++ leBytes 2 seq ++ leBytes 8 ((bs.head?.map AudioBlock.first).getD 0) ++ leBytes 8 time.toNat ++ data

/-- The programme a ring's acc entry belongs to. -/
def Ring.blocksOf (r : Ring) (p : Nat) : List AudioBlock := ((r.acc.find? (fun a => a.1 == p)).map Prod.snd).getD []
def Ring.setBlocks (r : Ring) (p : Nat) (bs : List AudioBlock) : Ring :=
  { r with acc := (if bs.isEmpty then [] else [(p, bs)]) ++ r.acc.filter (fun a => a.1 != p) }

/-- The record in the making is written. -/
def State.flushAudio (s : State) (i p : Nat) : State :=
  let bs := (s.ring i).blocksOf p
  match bs with
  | [] => s
  | b :: _ =>
    (s.putRecord i (audioKey p) (audioRecord ((s.ring i).kflags.testBit 3) (s.idOf .prog p) (s.progR p).rate bs
      (s.t64At b.start_))).modRing i (fun r => r.setBlocks p [])

/-- The records in the making of a programme that stops are written as far as they have come. -/
def State.flushAudioAll (s : State) (p : Nat) : State :=
  (List.range 64).foldl (fun s i => if (s.ring i).isRunning kAudio then s.flushAudio i p else s) s

/-! ## Effects of a boundary -/

/-- A demodulator's core at a hold or a run: cleared, but for what counts since the last query (R105, R137, R138). -/
def DemodCore.quiet (c : DemodCore) : DemodCore := { DemodCore.reset with concealedQ := c.concealedQ }

/-- An engine at a hold or a run: cleared, but for what counts since the last query (R165, R171). -/
def EeRun.quiet (x : EeRun) : EeRun :=
  { EeRun.reset with
    arrivals := x.arrivals, relocks := x.relocks,
    chans := x.chans.map (fun c => { EeChan.reset with interruptedQ := c.interruptedQ, holdDriftQ := c.holdDriftQ }),
    subs := x.subs.map (fun u => { EeSub.reset with discontQ := u.discontQ, uncorrQ := u.uncorrQ }) }

/-- What a hold's boundary does to an object, following aside (R359 and the kinds' own rules). -/
def State.holdEffects0 (s : State) (r : Ref) (cause : OffCause) (t : Nat) : State :=
  let mine (o : Origin) : Bool := s.canon o.object == mkId 0xFF r
  match r.kind with
  | .pass =>
    let s := s.modPass r.idx (fun x => { x with gateOpen := false, started := false, block := none })
    (s.capsOf r.idx).foldl (fun s c =>
      if (s.capR c).stopping then s.capClosed (2 ^ streamsOf (s.life r).cur - 1) c else s.restartStream (capKey c)) s
  | .fmd => (s.modFmd r.idx (fun x => { FmdRun.reset with mers := x.mers, core := x.core.quiet })).removeOrigin mine
  | .amd => (s.modAmd r.idx (fun x => { AmdRun.reset with nbCnt := x.nbCnt, nbSkip := x.nbSkip, core := x.core.quiet })).removeOrigin mine
  | .ee => (s.modEe r.idx EeRun.quiet).removeOrigin mine
  | .prog => ((s.flushAudioAll r.idx).modProg r.idx (fun x => { x with out := none, part := none, absent := true, srcAbsent := true, mismatch := false, units := 0 })).codecCond
  | .port =>
    (s.modPort r.idx (fun x => { x with st := .idle, routes := List.replicate 32 RouteRun.reset, di := [], dout := [] })).portConds
  | .fcar => (s.carrierOff false r.idx cause false t).releaseLo
  | .dcar => (s.carrierOff true r.idx cause false t).releaseLo
  | .cue => s.modCue r.idx (fun x => { x with next := none })
  | .conv =>
    let s := s.modConv r.idx (fun x => { x with
      limit := false, nextGain := none, blanking := false, marks := x.marks ++ [⟨t / perSample, none, 0⟩] })
    (s.agcCond).convHeld r.idx t
  | .cap => s.modCap r.idx (fun x => { x with stopping := false, stopAt := none })
  | _ => s

/-- What a close adds to the hold: the fields are discarded, and a closed input's pins and powering follow R53 and R69. -/
def State.closeEffects0 (s : State) (r : Ref) : State :=
  let s := if r.kind = .pass then
      (s.capsOf r.idx).foldl (State.capClosed (2 ^ streamsOf (s.life r).cur - 1)) s else s
  let s := s.modLife r (fun l => { l with
    cmd := .closed, eff := .closed, blk := resetBlk r.kind, cur := resetBlk r.kind,
    holdAt := none, dueAt := none, liveAt := none, viaGroup := false, holdGroup := false, background := false, mirror := false })
  match r.kind with
  | .conv =>
    let s := s.modConv r.idx (fun x => { x with psel := 0, powered := false })
    let s := (s.convHeld r.idx s.now).modUnit r.idx (fun u => { u with run := none })
    let s := if s.standin.use = .visit r.idx then s.modStandin (fun d => { d with abandonAt := some (alignUp perFrame s.now) }) else s
    if r.idx = 3 ∧ s.aloRx.st ≠ .idle then s.aloRelease 0 else s
  | .port =>
    -- R34: a CLOSED port is reset, which flushes its crossing
    ({ s with clk := { s.clk with flushes := modAt r.idx (· + 1) s.clk.flushes } } : State).setFlag fCrossFlush
  | _ => s

/-- An object held and closed at once. -/
def State.closeNow0 (s : State) (r : Ref) (t : Nat) : State :=
  let s := if (s.life r).eff = .run then s.holdEffects0 r .hold t else s
  s.closeEffects0 r

/-- The background objects of a followed service are closed with their budgets released (R195). -/
def State.closeBackground (s : State) (p : Nat) : State :=
  let ids := distinct ((s.progR p).follow.cands.flatMap Cand.background)
  let s := ids.foldl (fun s i => match idRef i with | none => s | some r => s.closeNow0 r s.now) s
  s.modFollow p (fun f => { f with cands := f.cands.map (fun c => { c with background := [] }) })

/-- 60 s in CK_RF cycles. -/
def sixtySeconds : Nat := 60 * rfHz

/-- The offsets of the candidates counted from candidate `j` in place of the present active one (R194). -/
def Follow.rebase (f : Follow) (j : Nat) : List Cand :=
  let own (k : Nat) (c : Cand) : Option Int := if k = f.active then some 0 else c.delta
  let base := match f.cands[j]? with | some c => own j c | none => none
  (indexed 0 f.cands).map (fun x => { x.2 with
    delta := match own x.1 x.2, base with
      | some a, some b => if x.1 = j then none else some (a - b)
      | _, _ => none,
    lags := [] })

/-- Following is suspended at the hold of its output programme (R195). -/
def State.suspendFollow (s : State) (p : Nat) : State :=
  if (s.progR p).follow.st = .off then s
  else (s.closeBackground p).modFollow p (fun f =>
    { f with st := .suspended, change := none, standby := none, keepUntil := some (s.now + sixtySeconds), active := 0,
             cands := (f.rebase 0).map (fun c => { c with st := if c.delta.isSome then .ready else .idle, usable := false }) })

/-- What a hold's boundary does to an object. -/
def State.holdEffects (s : State) (r : Ref) (cause : OffCause) (t : Nat) : State :=
  if r.kind = .prog then (s.suspendFollow r.idx).holdEffects0 r cause t else s.holdEffects0 r cause t

/-- What a close does to an object besides the hold. -/
def State.closeEffects (s : State) (r : Ref) : State :=
  if r.kind = .prog then
    (s.closeEffects0 r).modProg r.idx (fun x => { ProgRun.reset with conceal := x.conceal, muted := x.muted, airIns := x.airIns })
  else s.closeEffects0 r

/-- Decode units by CODEC (R13, R203). -/
def codecUnits (codec : Nat) : Nat :=
  match codec with
  | 1 => 1 | 2 => 1 | 3 => 2 | _ => 3

/-- The amplitude of VOLUME and MUTE in units of 2^-24 (R210). -/
def progAmp (blk : Blk) : Nat :=
  let v := signedOf 8 (fget blk pgVolume)
  if fbit blk pgMute then 0 else if v = 0 then 2 ^ 24 else amplitude (4 * v)

/-! ## Cues (R299, R300) -/

/-- START of a Cue in 1/256 ns, its PERIOD and WIDTH in ns, COUNT, and its flags. -/
def cueStart (b : Blk) : Nat := (bitsAt b.toNat 0 48 * 10 ^ 9 + bitsAt b.toNat 48 32) * 256 + bitsAt b.toNat 80 8
def cueFlags (b : Blk) : Nat := bitsAt b.toNat 88 8
def cuePeriod (b : Blk) : Nat := bitsAt b.toNat 96 32
def cueWidth (b : Blk) : Nat := bitsAt b.toNat 128 32
def cueCount (b : Blk) : Nat := bitsAt b.toNat 160 32

/-- The first pulse START + k × PERIOD at or after a Timebase value in 1/256 ns; the only pulse of a ONCE cue. -/
def cueFirst (b : Blk) (least : Nat) : Nat × Nat :=
  let p := cuePeriod b * 256
  if p = 0 ∨ least ≤ cueStart b then (0, cueStart b)
  else let k := ceilDiv (least - cueStart b) p; (k, cueStart b + k * p)

/-- The Timebase value two Plain frames after a CK_RF count (R299). -/
def State.cueLeast (s : State) (t : Nat) : Nat := s.timeAt (t + 2 * perFrame)

/-- A 25 ms step of ALIGN_A in 48 kHz sample frames. -/
def alignStep : Nat := 1200

/-- The delays of routes that a source meets are fixed again after its RUN (R230): `kind` 1 a programme, 2 a port. -/
def State.dropRouteDelays (s : State) (kind src : Nat) : State :=
  { s with port := s.port.map (fun o => { o with run := { o.run with
      routes := (indexed 0 o.run.routes).map (fun x =>
        let v := fget o.life.cur (rtSrc x.1)
        if fget o.life.cur (rtKind x.1) = kind ∧ (if kind = 1 then v % 64 else v / 32 % 4) = src then { x.2 with delay := none } else x.2) } }) }

/-- The same for the FCARs that a programme feeds (R254). -/
def State.dropCarrierDelays (s : State) (p : Nat) : State :=
  { s with fcar := s.fcar.map (fun o =>
      if fget o.life.cur fcProg = p then { o with run := { o.run with air := { o.run.air with delay := none, short := false } } } else o) }

/-- What the start of a run does to an object at CK_RF count `t`, in a group's RUN when `group`. The SIDE records of a source that starts anew begin with DISCONT and
SEQ 0, so that a dump follows (R173, R175). -/
def State.runEffects (s : State) (r : Ref) (t : Nat) (group : Bool) : State :=
  let blk := (s.life r).cur
  let s := match r.kind with
    | .fmd | .amd | .ee | .prog => s.restartStream (mkId 0xFF r).toNat
    | _ => s
  match r.kind with
  | .pass => s.modPass r.idx (fun x => { PassRun.reset with
      qualTick := x.qualTick, expTick := x.expTick, levelTick := x.levelTick, overCnt := x.overCnt,
      tunes := [(t, signedOf 24 (fget blk psFine))] })
  | .fmd => s.modFmd r.idx (fun x => { FmdRun.reset with core := x.core.quiet, rds := if fget blk fmRdsMode = 0 then .off else .search })
  | .amd => s.modAmd r.idx (fun x => { AmdRun.reset with nbCnt := x.nbCnt, nbSkip := x.nbSkip, core := x.core.quiet, amss := if fbit blk amAmssEn then .search else .off })
  | .ee =>
    let mode := match fget blk eeStd with
      | 0 => 0
      | 2 => 5
      | _ => if fget blk eeDrmMode = 0 then 0xFF else fget blk eeDrmMode
    s.modEe r.idx (fun x => { x.quiet with
      chans := x.quiet.chans.map (fun c => { c with mode := mode }),
      passBlks := (List.range 4).map (fun c => (s.life ⟨.pass, fget blk (eePass c)⟩).shown) })
  | .prog =>
    ((s.dropRouteDelays 1 r.idx).dropCarrierDelays r.idx).modProg r.idx (fun x =>
      let a := progAmp blk
      let f := x.follow
      let mode := fget f.policy afMode
      let kept := match f.keepUntil with | none => false | some u => decide (t ≤ u)
      { ProgRun.reset with
        units := codecUnits (fget blk pgCodec), gain := ⟨a, a, t / perFrame⟩, conceal := x.conceal, muted := x.muted,
        insert := x.insert, insertFrom := none, insertTo := x.insertTo, airIns := x.airIns,
        follow := if mode = 0 then { f with st := .off, cands := [], standby := none, change := none, keepUntil := none }
          else { f with st := .waitId, active := 0, standby := none, change := none, bAct := fget f.policy afAlignA * alignStep,
                        scale := 0, key := 0, cands := if kept then f.cands else [], keepUntil := none, failRaised := false,
                        failTicks := 0, betterTicks := 0, rivalTicks := 0, absentTicks := 0, lastChange := 0 } })
  | .port =>
    (s.dropRouteDelays 2 r.idx).modPort r.idx (fun x => { PortRun.reset with
      st := if fbit blk ptRole then .seek else .sync, dout := List.replicate (portSlots blk) (some 0), di := List.replicate (portSlots blk) none, bclkSeen := x.bclkSeen, fsErr := x.fsErr, losses := x.losses,
      jumps := x.jumps, dataFrom := t })
  | .cue =>
    let f := cueFirst blk (s.cueLeast t)
    s.modCue r.idx (fun x => { CueRun.reset with k := f.1, next := some f.2, pulseEnd := x.pulseEnd })
  | .conv =>
    let k := t / perSample
    let x := r.idx
    if 4 ≤ x then s
    else
      let s := match (s.unit x).run with
        | some u => if u.stage != CalStage.pending && !u.viaStandin then s.calAbort x t else s
        | none => s
      let s := s.modConv x (fun c => { c with
        holdFrom := k, attackFrom := k, limit := false, marks := endMarks 0 k c.marks })
      let s := s.gainNow x (fget blk cvLna) (fget blk cvAtt) k
      let psel := BitVec.ofNat 3 (fget blk cvPsel)
      let lband := x = 3 ∧ fbit blk cvLband = true
      let wasL := (s.convR x).wasLband = true ∧ ¬ lband
      let settle := (s.convR x).psel ≠ psel ∨ wasL
      let s := s.modConv x (fun c => { c with psel := psel, wasLband := lband, loWait := lband })
      let s := if settle then
          let e := k + fget blk cvPselBlank
          (s.modConv x (fun c => { c with blankEnd := e, blanking := true })).markConv x qSettle k (some e)
        else s
      if lband then (s.aloTarget 0 1302000000 (s.idOf .conv 3)).loInvalid k
      else if x = 3 then (if s.aloRx.st ≠ .idle then s.aloRelease 0 else s).loValid k
      else s
  | .fcar => s.startAir false r.idx t group
  | .dcar => s.startAir true r.idx t group
  | _ => s

/-! ## Boundaries that have been reached -/

/-- One object's due boundaries, in order: hold, then run, then live fields (R9, R360). -/
def State.settleRef (s : State) (r : Ref) : State :=
  let l := s.life r
  let s := match l.holdAt with
    | some h =>
      if h ≤ s.now then
        let s := s.modLife r (fun l => { l with eff := .held, holdAt := none, holdGroup := false, liveAt := none })
        let s := s.holdEffects r (if l.holdGroup then .group else .hold) h
        if l.cmd = ObjSt.closed then s.closeEffects r else s
      else s
    | none => s
  let l := s.life r
  let s := match l.dueAt with
    | some d =>
      if d ≤ s.now ∧ l.cmd = ObjSt.run then
        (s.modLife r (fun l => { l with eff := .run, cur := l.blk, dueAt := none, viaGroup := false, s0 := d / perSample })).runEffects r d l.viaGroup
      else s
    | none => s
  match (s.life r).liveAt with
  | some (t, b) =>
    if t ≤ s.now then
      let s := s.modLife r (fun l => { l with cur := b, liveAt := none })
      match r.kind with
      | .prog => s.modProg r.idx (fun x =>
          let g := x.gain
          let done := min (t / perFrame - g.start) 15
          let at_ : Nat := if g.to_ < g.from_ then g.from_ - (g.from_ - g.to_) * done / 15 else g.from_ + (g.to_ - g.from_) * done / 15
          { x with gain := ⟨at_, progAmp b, t / perFrame⟩ })
      | .pass =>
        if fget b psFine = fget l.cur psFine then s else s.modPass r.idx (fun x => { x with
          retuneAt := some (t / perFrame), tunes := (t, signedOf 24 (fget b psFine)) :: x.tunes })
      | .conv => s.gainNow r.idx (fget b cvLna) (fget b cvAtt) (t / perSample)
      | _ => s
    else s
  | none => s

/-- Objects with a boundary to come. -/
def State.dueRefs (s : State) : List Ref :=
  allRefs.filter (fun r => let l := s.life r; l.holdAt.isSome || l.dueAt.isSome || l.liveAt.isSome)

/-- Matching of an input just closed is abandoned, and transmit corrections take force, at their boundaries (R63, R269). -/
def State.settleCal (s : State) : State :=
  let s := match s.standin.abandonAt with
    | some t =>
      if t ≤ s.now then
        let s := s.modStandin (fun d => { d with abandonAt := none })
        match s.standin.use with
        | .visit x => s.standinFree (x + 1)
        | _ => s
      else s
    | none => s
  match (s.unit 5).next with
  | some (t, vals) => if t ≤ s.now then s.modUnit 5 (fun c => { c with vals := vals, next := none }) else s
  | none => s

/-- Everything that is due at the present instant; a TIME_PROFILE that takes effect lets its NVM_COMMIT complete (R290). -/
def State.settle (s : State) : State :=
  let s := (((List.range 4).foldl State.settleGain s).settleCal.hopOver 0).hopOver 1
  let s := (List.range 4).foldl State.pilotSync s
  let s := s.dueRefs.foldl State.settleRef ((List.range 16).foldl State.settleCap s.settleAir)
  match s.tb.profileNext with
  | some (t, p) =>
    if t ≤ s.now then
      (({ s with tb := { s.tb with profile := p, profileNext := none } } : State)).endFirst (.nvm 3) .ok t
    else s
  | none => s

/-- Time passes up to CK_RF count `t`, after everything due at the present instant; an instant already passed means the present one,
and before Plain sample 0 no index runs (R7, R18). -/
def State.advance (s : State) (t : Nat) : State :=
  if !s.clk.divReset then s
  else
    let u := s.settle
    if t ≤ u.now then u
    else ({ u with tb := u.tb.advance u.now t, now := t, atTick := false } : State).settle

/-- Time passes up to CK_RF count `t` with nothing done yet of what is due exactly there: a switchover or a calibration correction at
that boundary comes before the changes that commands carry (R9). -/
def State.arrive (s : State) (t : Nat) : State :=
  if t ≤ s.now ∨ s.clk.divReset = false then s
  else
    let u := s.advance (t - 1)
    { u with tb := u.tb.advance u.now t, now := t, atTick := false }

/-- The same with the gain compensation of that boundary done (R9). -/
def State.arriveGain (s : State) (t : Nat) : State := (List.range 4).foldl State.settleGain (s.arrive t)

end Sys2Proof.Machine
end

