-- ==== Sys2Proof/Machine/Clocks.lean ====
section
/-! DEFINITION. The reference monitor, the root loop, holdover and the management clock (R18 to R36). -/
namespace Sys2Proof.Machine
open Sys2Proof

/-- The multiplication factor of REF_SEL (R19). -/
def refFactor (sel : BitVec 2) : Nat := if sel = 1 then 80 else if sel = 2 then 20 else 40

/-! ## CTL_VAL (R19, R25, R407) -/

/-- The CTL_VAL table of the factory region: CTL_VAL at 25 °C, its coefficient at -55 °C and every 5 °C on up to +150 °C in 1/256 step
per °C, and the steps that 0.05 ppm makes (R19, log 9). -/
def State.ctlTable (s : State) : List Int := s.cal.factory.getD 7 []

/-- What CTL_VAL differs by at a temperature in 1/16 °C from its value at 25 °C, the coefficient interpolated there (R407, log 9). -/
def ctlShift (table : List Int) (tj : Int) : Int :=
  let x := max 0 (min (tj + 880) 3280)
  let i := min (x / 80).toNat 40
  let f := x - 80 * i
  (tj - 400) * (table.getD (1 + i) 0 * (80 - f) + table.getD (2 + i) 0 * f) / (16 * 256 * 80)

/-- A control value held to 20 bits. -/
def ctlWord (v : Int) : BitVec 20 := BitVec.ofNat 20 (max 0 (min v 1048575)).toNat

/-- The factory CTL_VAL corrected to a temperature (R28). -/
def ctlAt (table : List Int) (tj : Int) : BitVec 20 := ctlWord (table.getD 0 0 + ctlShift table tj)

/-- A value moved toward another by at most `most`. -/
def toward (most : Nat) (v target : Int) : Int := max (v - most) (min (v + most) target)

/-- The steps of CTL_VAL that change the frequency by 0.05 ppm. -/
def ctlStep (table : List Int) : Nat := (table.getD 43 0).natAbs

/-- CTL_VAL of the locked loop over a management tick: at most 0.05 ppm per reference period (R19). -/
def State.tickLoop (s : State) (ctl : Option (BitVec 20)) : State :=
  match ctl with
  | some v =>
    if s.clk.locked && s.clk.injecting then
      let most := ctlStep s.ctlTable * (perTick / refFactor s.straps.refSel)
      { s with clk := { s.clk with ctlVal := ctlWord (toward most s.clk.ctlVal.toNat v.toNat) } }
    else s
  | none => s

/-! ## The re-lock slew (R27) -/

/-- A phase difference in ps as the shorter way round a reference period, in 1/3072 ps; a reference period is 3 125 000 such units for
each CK_RF cycle in it. -/
def slewOf (factor : Nat) (ps : Int) : Int :=
  let period : Int := factor * 3125000
  let r := ps * 3072 % period
  if 2 * r ≤ period then r else r - period

/-- What 1 ppm removes in a management tick, in 1/3072 ps. -/
def slewUnit : Nat := 3276800

/-- What an offset of `n` ppm removes while it falls back to zero by 1 ppm per tick. -/
def slewStop (n : Nat) : Nat := n * (n + 1) / 2 * slewUnit

/-- The offset of the next tick: 1 ppm more while the fall back still fits, up to the limit; else the same or 1 ppm less (log 43). -/
def slewNext (limit n left : Nat) : Nat :=
  if n + 1 ≤ limit ∧ slewStop (n + 1) ≤ left then n + 1
  else if n ≤ limit ∧ slewStop n ≤ left ∧ 0 < n then n
  else max 1 (n - 1)

/-- One management tick of the slew. -/
def State.tickSlew (s : State) : State :=
  let c := s.clk
  if c.relocking then
    let left := c.slewLeft.natAbs
    let n := if left = 0 then 0 else slewNext (fget c.profile ckRelockSlew) c.slewPpm left
    let rest : Nat := left - n * slewUnit
    { s with clk := { c with slewPpm := n, slewLeft := if c.slewLeft < 0 then -(rest : Int) else rest } }
  else s

/-- The Plain sample that begins at the next Plain-sample boundary after the present CK_CORE edge. -/
def State.nextSample (s : State) : Nat := s.now / perSample + 1

/-- The root window: W in ps and N in cycles (R22, R35). -/
def State.rootW (s : State) : Nat := (fget s.clk.profile ckRootW + 1) * 4
def State.rootN (s : State) : Nat := 16 * 2 ^ fget s.clk.profile ckRootN

/-- The digital window declares lock (R22). -/
def State.winLocks (s : State) (m : LockMeas) : Bool := decide (m.maxErr ≤ s.rootW ∧ s.rootN ≤ m.cycles)

/-- The digital window loses lock (R22). -/
def State.winLoses (s : State) (m : LockMeas) : Bool := decide (s.rootW < m.minErr ∧ 8 ≤ m.cycles)

/-- The slew has brought the difference within the lock threshold: the window, or for LKF a fortieth of a reference period (R20, R27). -/
def State.slewDone (s : State) : Bool :=
  decide (s.clk.slewLeft.natAbs ≤ (if s.straps.lkfUse then refFactor s.straps.refSel * 78125 else s.rootW * 3072))

/-- LKF declares lock below 45 mV and loses it above 90 mV (R20). -/
def lkfLocks (m : LockMeas) : Bool := decide (m.lkf < 450)
def lkfLoses (m : LockMeas) : Bool := decide (900 < m.lkf)

/-- The lock indications after a measurement; LOCK_DISAGREE ends when they agree (R23, R487). -/
def State.lockInd (s : State) (m : LockMeas) : State :=
  let c := s.clk
  let win := if s.winLocks m then true else if s.winLoses m then false else c.winLock
  let lkf := if lkfLocks m then true else if lkfLoses m then false else c.lkfLock
  let s := { s with clk := { c with winLock := win, lkfLock := lkf } }
  if win = lkf then s.setCond fLockDisagree false else s

/-- DRIFT_HIGH, its slate and the DRIFT mark follow D (R26). -/
def State.driftCond (s : State) : State :=
  if s.drift = s.cond fDriftHigh then s
  else if s.drift then
    let s := { s with devMarks := s.devMarks ++ [(⟨s.index, none, qDrift⟩ : Mark)] }
    ((s.setCond fDriftHigh true).slateDet 0x0103 s.devId []).driftBegins
  else (({ s with devMarks := endMarks qDrift s.index s.devMarks } : State).setCond fDriftHigh false).driftEnds

/-- Holdover is entered at the temperature `tj`: CTL_VAL frozen at `ctl`, injection stopped, D from `d0` in 1/8 ppm, HOLDOVER on the
samples from `k` on (R25, R26). -/
def State.enterHoldover (s : State) (ctl : BitVec 20) (tj : Int) (d0 k : Nat) : State :=
  let s := { s with
    clk := { s.clk with
      ctlVal := ctl, ctlEntry := ctl, injecting := false, locked := false, holdover := true, relocking := false, slewLeft := 0,
      slewPpm := 0, d0 := d0, d := d0, tjEntry := tj, holdTick := s.tick },
    devMarks := s.devMarks ++ [(⟨k, none, qHoldover⟩ : Mark)] }
  s.setCond fHoldover true

/-- Lock is declared after holdover: HOLDOVER and DRIFT end at the next Plain-sample boundary; REF_RETURN carries the duration in
ticks and the final D in 0.01 ppm (R27, R36, R488). -/
def State.leaveHoldover (s : State) : State :=
  let k := s.nextSample
  let dur := satU 32 (s.tick - s.clk.holdTick)
  let fin := satU 16 (rheDiv (s.clk.d * 25 : Nat) 2).toNat
  let s := { s with
    clk := { s.clk with holdover := false, relocking := false, slewLeft := 0, slewPpm := 0 },
    devMarks := endMarks qDrift k (endMarks qHoldover k s.devMarks) }
  (((s.setCond fHoldover false).setCond fDriftHigh false).slateDet 0x0101 s.devId (leBytes 4 dur ++ leBytes 2 fin)).driftEnds

/-- The dividers are reset together: Plain sample 0 begins, and the wipe with it; the Timebase reads zero (R7, R18, R281, R447). -/
def State.startPlain (s : State) : State :=
  { s with now := 0, atTick := false, phase := .wiping, clk := { s.clk with divReset := true },
           tb := { s.tb with sec := 0, ns := 0, frac := 0, past := [] } }

/-- The reference is declared lost (R24, R25, R27): REF_LOST and its slate; holdover is entered when outputs are released, or a
re-lock slew abandoned. DESIGN CHOICE (log 43): before outputs are released injection stops, and no holdover is entered then or at the
release. -/
def State.refLost (s : State) (ctl : BitVec 20) : State :=
  let s := { s with clk := { s.clk with refQual := false } }
  let s := (s.setCond fRefLost true).slateDet 0x0100 s.devId []
  if s.clk.holdover then { s with clk := { s.clk with relocking := false, slewLeft := 0, slewPpm := 0 } }
  else if s.phase = .released then s.enterHoldover ctl s.health.tjMax 16 s.nextSample
  else { s with clk := { s.clk with injecting := false } }

/-- REF_QUALIFIED (R24, R27): 65 536 good cycles; injection, or the re-lock slew after holdover, begins with the phase difference
`phase` in ps. -/
def execRefQualified (t cycles : Nat) (phase : Int) (s : State) : Out :=
  let u := s.advance t
  if 65536 ≤ cycles ∧ u.clk.refQual = false ∧ u.phase ≠ .porst ∧ u.phase ≠ .warm then
    let c := { u.clk with
      refQual := true, injecting := !u.clk.holdover, relocking := u.clk.holdover,
      slewLeft := if u.clk.holdover then slewOf (refFactor u.straps.refSel) phase else 0, slewPpm := 0 }
    done s (({ u with clk := c } : State).setCond fRefLost false)
  else done s u

/-- REF_LOSS (R24): four missing edges, or a period below 80 % of nominal. -/
def execRefLoss (t missing period : Nat) (ctlBefore : BitVec 20) (s : State) : Out :=
  let u := s.advance t
  let short := decide (0 < period ∧ period * 100 < refFactor u.straps.refSel * 80)
  if u.clk.refQual && (decide (4 ≤ missing) || short) then done s (u.refLost ctlBefore) else done s u

/-- REF_FREQ_WINDOW_END (R24): a window's average outside ±200 ppm. -/
def execRefFreqWindowEnd (t : Nat) (avg : Int) (ctlBefore : BitVec 20) (s : State) : Out :=
  let u := s.advance t
  if u.clk.refQual && decide (20000 < avg.natAbs) then done s (u.refLost ctlBefore) else done s u

/-- ROOT_LOCK_DECLARED (R18, R20, R22, R27): by LKF or by the digital window, in holdover once the slew has come within the lock
threshold; at the first lock Plain sample 0 begins. -/
def execRootLockDeclared (t : Nat) (m : LockMeas) (s : State) : Out :=
  let u := (s.advance t).lockInd m
  let hit := if u.straps.lkfUse then lkfLocks m else u.winLocks m
  if hit && u.clk.refQual && !u.clk.locked && (u.clk.injecting || (u.clk.relocking && u.slewDone)) then
    let u := { u with clk := { u.clk with locked := true, injecting := true } }
    let u := u.setCond fRootUnlock false
    let u := if u.clk.divReset then u else if u.phase = .loading then u.startPlain else u
    done s (if u.clk.holdover then u.leaveHoldover else u)
  else done s u

/-- ROOT_UNLOCK (R20, R22, R25, R36): root lock is lost. DESIGN CHOICE (log 43): while the reference stays qualified the re-lock slew
begins at once, with the phase error just measured. -/
def execRootUnlock (t : Nat) (m : LockMeas) (ctlBefore : BitVec 20) (s : State) : Out :=
  let u := (s.advance t).lockInd m
  let hit := if u.straps.lkfUse then lkfLoses m else u.winLoses m
  if hit && u.clk.locked then
    let q := u.clk.refQual
    let u := { u with clk := { u.clk with locked := false } }
    let u := if q then (u.setCond fRootUnlock true).slateDet 0x0102 u.devId [] else u
    let u := if u.phase = .released then u.enterHoldover ctlBefore u.health.tjMax 16 u.nextSample else u
    let again := q && u.clk.holdover
    done s { u with clk := { u.clk with
      relocking := again, slewLeft := if again then slewOf (refFactor u.straps.refSel) m.maxErr else 0 } }
  else done s u

/-- REF_WAIT_EXPIRY (R18, R26, R28): no qualified reference within REF_WAIT of the release, `waited` ns ago; `tj` is the present
temperature in 1/16 °C. -/
def execRefWaitExpiry (waited : Nat) (tj : Int) (s : State) : Out :=
  if s.phase = .loading ∧ s.clk.divReset = false ∧ s.clk.refQual = false ∧ fget s.clk.profile ckRefWait * 10000000 ≤ waited then
    done s (((s.setCond fRefLost true).startPlain).enterHoldover (ctlAt s.ctlTable tj) tj 320 0)
  else done s s

/-- LOCK_DISAGREE (R23): with LKF_USE high, the two indications have differed for longer than a tick. -/
def execLockDisagree (t : Nat) (lkf win : Bool) (s : State) : Out :=
  let u := s.advance t
  if u.straps.lkfUse then
    let u := { u with clk := { u.clk with lkfLock := lkf, winLock := win } }
    if lkf = win then done s (u.setCond fLockDisagree false)
    else if u.cond fLockDisagree then done s u
    else
      done s ((u.setCond fLockDisagree true).addDaily 0x0003 sevWarning u.devId
        (leBytes 1 (bit lkf) ++ leBytes 1 (bit win) ++ zeros 2) u.now)
  else done s u

/-- The part of a management tick in holdover: CTL_VAL goes toward its value at entry corrected to the present temperature and steered to the master's phase, by
at most 0.05 ppm in all (R25, R317); D follows the temperature; a re-lock slew goes on (R25 to R27). -/
def State.tickHoldover (s : State) : State :=
  if s.clk.holdover then
    let want := s.clk.ctlEntry.toNat + s.cas.steer + (ctlShift s.ctlTable s.health.tjMax - ctlShift s.ctlTable s.clk.tjEntry)
    let ctl := ctlWord (toward (ctlStep s.ctlTable) s.clk.ctlVal.toNat want)
    (({ s with clk := { s.clk with
      ctlVal := ctl, d := s.clk.d0 + (s.health.tjMax - s.clk.tjEntry).natAbs } } : State).tickSlew).driftCond
  else s

/-- CK_MGMT runs again from this tick; the log records how many ticks passed (R32, R438). -/
def State.tickResume (s : State) : State :=
  ({ s with clk := { s.clk with mgmtStopped := false, wakeReq := false } } : State).addDaily 0x0001 sevInfo s.devId
    (leBytes 4 (s.tick - s.clk.stopTick - 1)) s.now

/-- An asynchronous wake request (R33). -/
def State.wake (s : State) : State :=
  if s.clk.mgmtStopped then { s with clk := { s.clk with wakeReq := true } } else s

/-- WAKE_REQUEST (R33, R389). -/
def execWakeRequest (t : Nat) (_src : WakeSource) (s : State) : Out := done s (s.advance t).wake

/-- WAKE_TIMER (R32, R33): the tick that the wake timer was programmed for. -/
def execWakeTimer (s : State) : Out :=
  if s.clk.mgmtStopped then done s ((s.advance (s.clk.wakeTick * perTick)).wake) else done s s

end Sys2Proof.Machine
end

