-- ==== Sys2Proof/Machine/Calib.lean ====
section
/-! DEFINITION. Calibration of the converters: triggers, the order of runs, plausibility, results and the commands (R407 to R423). -/
namespace Sys2Proof.Machine
open Sys2Proof

/-! ## Plausibility (R414) -/

/-- The ratio of two positive numbers lies within `num`/`den` dB of 1: a^(20 den) and b^(20 den) differ by at most a factor 10^num. -/
def withinDb (a b num den : Nat) : Bool :=
  decide (a ^ (20 * den) ≤ b ^ (20 * den) * 10 ^ num) && decide (b ^ (20 * den) ≤ a ^ (20 * den) * 10 ^ num)

/-- A gain correction in units of 2^-16 as a whole gain. -/
def gainOf (v : Int) : Nat := (65536 + v).toNat

/-- The numbers of one quantity, positions `off` to `off + n - 1` of each group of `stride`, from two lists side by side. -/
def pairsOf (stride off n : Nat) (a b : List Int) : List (Int × Int) :=
  ((indexed 0 (a.zip b)).filter (fun x => decide (off ≤ x.1 % stride ∧ x.1 % stride < off + n))).map Prod.snd

/-- The LIMIT_ID of the first row of R414 that a converter's result breaks. `dT` is the temperature difference in 1/16 °C; `last` is
absent when no run has passed. -/
def convLimit (m : CalMeas) (factory : List Int) (last : Option (List Int)) (dT : Nat) : Option Nat :=
  let fac (off n : Nat) (ok : Int × Int → Bool) : Bool := (pairsOf 16 off n m.vals factory).all ok
  let old (off n : Nat) (ok : Int × Int → Bool) : Bool :=
    match last with | none => true | some l => (pairsOf 16 off n m.vals l).all ok
  let near (lim : Nat) (p : Int × Int) : Bool := decide ((p.1 - p.2).natAbs ≤ lim)
  if !(fac 0 1 (near 4000) && old 0 1 (fun p => decide (16 * (p.1 - p.2).natAbs ≤ 3200 + 50 * dT))) then some 0
  else if !(fac 1 1 (fun p => withinDb (gainOf p.1) (gainOf p.2) 1 2) &&
      old 1 1 (fun p => withinDb (gainOf p.1) (gainOf p.2) (32 + dT) 1600)) then some 1
  else if !(fac 2 1 (near 512) && old 2 1 (near 128)) then some 2
  else if !(fac 3 13 (near 64) && old 3 13 (near 16)) then some 3
  else if -850 < m.spur then some 4
  else none

/-! ## Result records (R418) -/

/-- The body of a converter's result record. -/
def convBody (temp : Int) (t : Word64) (vals : List Int) : List Byte :=
  let tap (i : Nat) : List Byte :=
    let v (j : Nat) : Int := vals.getD (16 * i + j) 0
    leBytes 2 (unsignedOf 16 (v 0)) ++ leBytes 2 (unsignedOf 16 (v 1)) ++ leBytes 2 (unsignedOf 16 (v 2)) ++
    (List.range 13).flatMap (fun j => leBytes 1 (unsignedOf 8 (v (3 + j)))) ++ zeros 1
  leBytes 2 (unsignedOf 16 temp) ++ zeros 2 ++ leBytes 8 t.toNat ++ (List.range 16).flatMap tap

/-- The values that a converter's record holds. -/
def convVals (bs : List Byte) : List Int :=
  (List.range 16).flatMap (fun i =>
    let o := 12 + 20 * i
    [signedOf 16 (leAt bs o 2), signedOf 16 (leAt bs (o + 2) 2), signedOf 16 (leAt bs (o + 4) 2)] ++
    (List.range 13).map (fun j => signedOf 8 (leAt bs (o + 6 + j) 1)))

/-- The body of the TX record: 28 bands of 16 bytes. -/
def txBody (temps : List (Option Int)) (vals : List Int) : List Byte :=
  (List.range 28).flatMap (fun b =>
    let v (j : Nat) : Int := vals.getD (4 * b + j) 0
    let t := temps.getD b none
    leBytes 2 (unsignedOf 16 (t.getD 0)) ++ leBytes 1 (bit t.isSome) ++ zeros 1 ++ leBytes 2 (unsignedOf 16 (v 0)) ++
    leBytes 2 (unsignedOf 16 (v 1)) ++ leBytes 2 (unsignedOf 16 (v 2)) ++ leBytes 2 (unsignedOf 16 (v 3)) ++ zeros 4)

/-- Temperatures and values that the TX record holds. -/
def txTemps (bs : List Byte) : List (Option Int) :=
  (List.range 28).map (fun b => if leAt bs (16 * b + 2) 1 = 1 then some (signedOf 16 (leAt bs (16 * b) 2)) else none)
def txVals (bs : List Byte) : List Int :=
  (List.range 28).flatMap (fun b => (List.range 4).map (fun j => signedOf 16 (leAt bs (16 * b + 4 + 2 * j) 2)))

/-! ## Triggers (R409) -/

/-- The LO band of a frequency in Hz (R413). -/
def txBandOf (hz : Nat) : Nat :=
  let k := aloDiv hz
  4 * (k - 1) + min 3 ((hz * 2 ^ k - 3000000000) / 850000000)

/-- The band that a TX run measures: that of the present or last LO (R413). -/
def State.txBand (s : State) : Nat := if s.aloTx.isSet then txBandOf s.aloTx.freqHz else 0

/-- A run of a unit falls due; a unit whose run is pending or running absorbs the trigger (R410). -/
def State.calDue (s : State) (u : Nat) (trigger : CalTrigger) (excursion : Nat) : State :=
  match (s.unit u).run with
  | some _ => s
  | none =>
    let order := if trigger = .command then s.cal.orderNext else 0
    let s := if trigger = .command then { s with cal := { s.cal with orderNext := order + 1 } } else s
    s.modUnit u (fun c => { c with
      run := some ⟨trigger, .pending, false, s.unitTemp u, 0, 0, if u = 5 then s.txBand else 0, excursion, order⟩ })

/-- The unit falls due without a command: its AUTO_EN bit, and for a converter that it is neither CLOSED nor FAILED; TX only in LO
mode (R409, R413). -/
def State.calAuto (s : State) (u : Nat) : Bool :=
  (fget s.cal.policy cpAutoEn).testBit u &&
  (if u = 5 then s.loMode else !s.failedConv u && decide ((s.life ⟨.conv, u⟩).cmd ≠ .closed))

/-- The last passing temperature of a unit, and the tick its age counts from. -/
def State.calLast (s : State) (u : Nat) : Option Int × Nat :=
  let b := if u = 5 then s.txBand else 0
  ((s.unit u).temps.getD b none, (s.unit u).ages.getD b 0)

/-- The tests of a unit at a management tick: at start-up the temperature test or no stored result, later the temperature and age
tests (R409). -/
def State.calTest (startup : Bool) (s : State) (u : Nat) : State :=
  if !s.calAuto u then s
  else
    let last := s.calLast u
    match last.1 with
    | none => if startup then s.calDue u .start 0 else s
    | some t =>
      let d := (s.unitTemp u - t).natAbs
      let age := fget s.cal.policy cpMaxAge
      if fget s.cal.policy cpDt * 16 < d then s.calDue u (if startup then .start else .temp) d
      else if !startup && decide (age ≠ 0) && decide (age * 56250 ≤ s.tick - last.2) then s.calDue u .age 0
      else s

/-! ## Starting runs (R410, R411, R412, R419) -/

/-- The order in which pending converter runs start: those that commands asked for in take-up order, then the largest excursion,
then the lowest code; CONV4 behind the others (R410, R419). -/
def calKey (u : Nat) (r : CalRun) : Nat :=
  (if u = 4 then 2 ^ 60 else 0) + (if r.order ≠ 0 then r.order else 2 ^ 50 + (2 ^ 20 - r.excursion) * 8 + u)

/-- ADCx is switched to the calibration generator, 8 Plain samples settle, and the measurement starts at the next Plain-frame
boundary (R411). -/
def State.calGenerator (s : State) (u : Nat) (via : Bool) (first : Bool) : State :=
  s.modUnit u (fun c => { c with run := c.run.map (fun r => { r with
    stage := .settling, viaStandin := via, ends := alignUp perFrame (s.now + 8 * perSample),
    start := if first then s.t64 else r.start, temp := if first then s.unitTemp u else r.temp }) })

/-- The crossbar connects ADC4 to input `x` at this Plain-frame boundary (R59). -/
def State.standinConnect (s : State) (x : Nat) (use : StandinUse) : State :=
  s.modStandin (fun d => { d with
    conn := some x, use := use, stage := .settling, stageEnd := alignNext perFrame s.now, fails := 0, corr := (0, 0, 0), retry := false,
    abandonAt := none, connTick := true })

/-- A run of CONV4 is in progress. -/
def State.cal4Active (s : State) : Bool := match (s.unit 4).run with | some r => r.stage != CalStage.pending | none => false

/-- A run of a unit was asked for by a command. -/
def State.commandedRun (s : State) (u : Nat) : Bool := match (s.unit u).run with | some r => r.order != 0 | none => false

/-- The Stand-in is taken for a run of input `x`. -/
def State.calTake (s : State) (x : Nat) : State :=
  (s.standinConnect x (.take x true)).modUnit x (fun c => { c with run := c.run.map (fun r => { r with
    stage := .matching, viaStandin := true, start := s.t64, temp := s.unitTemp x }) })

/-- A pending converter run starts at this tick boundary, or waits (R410, R412, R419). -/
def State.calStart (s : State) (u : Nat) : State :=
  match (s.unit u).run with
  | some r =>
    if r.stage ≠ CalStage.pending then s
    else if u = 4 then
      match s.standin.use with
      | .idle => (s.modStandin (fun d => { d with conn := none, stage := .none })).calGenerator 4 false true
      | .visit _ => (s.standinFree s.standin.rota).calGenerator 4 false true
      | _ => s
    else if !s.cmdRun .conv u || s.failedConv u then s.calGenerator u false true
    else if s.standin.use = .carry u then s.calGenerator u true true
    else if s.failedConv 4 then s
    else
      match s.standin.use with
      | .idle | .visit _ => (if s.cal4Active then s.calAbort 4 s.now else s).calTake u
      | .take y true =>
        if r.order ≠ 0 && !s.commandedRun y then (s.calAbort y s.now).calTake u else s
      | .carry y =>
        if r.order ≠ 0 && !s.failedConv y && (s.unit y).run.isSome && !s.commandedRun y then (s.calAbort y s.now).giveBack y else s
      | _ => s
  | none => s

/-- Every pending converter run, in order. -/
def State.calStartAll (s : State) : State :=
  let due := (List.range 5).filterMap (fun u => (s.unit u).run.map (fun r => (calKey u r, u)))
  ((sortBy Prod.fst due).map Prod.snd).foldl State.calStart s

/-- The part of a management tick that tests and starts calibration runs (R409, R410, R455). -/
def State.tickCal (s : State) : State :=
  if s.boot.ready && decide (s.boot.readyTick < s.tick) && !s.flags.halted then
    let s1 := (List.range 6).foldl (State.calTest s.cal.startup) s
    ({ s1 with cal := { s1.cal with startup := false } } : State).calStartAll
  else s

/-! ## Ends of runs (R408, R411, R415, R418) -/

/-- The next frame boundary of the transmit path: the next transmission frame of the lowest running DCAR, or an alignment-frame
boundary (R269). -/
def State.txBoundary (s : State) : Nat :=
  match (List.range 4).find? (fun c => (s.air true c).st == .onAir && (s.dcarR c).c0.isSome) with
  | some c => s.dcarFrameAt c (s.now + 1)
  | none => alignNext perAlign s.now

/-- The transmit values in force, or those that the next frame boundary puts in force. -/
def CalUnit.newest (c : CalUnit) : List Int := match c.next with | some (_, v) => v | none => c.vals

/-- A run passes at CK_RF count `t`: a converter's values are in force from this boundary, those of the transmit path from its next frame
boundary; the record is written, and the report follows with its generation. -/
def State.calPass (s : State) (u band limit t : Nat) (vals : List Int) : State :=
  match (s.unit u).run with
  | none => s
  | some r =>
    let s := s.modUnit u (fun c => { c with
      run := none, fails := 0, degraded := false, vals := if u = 5 then c.vals else vals,
      next := if u = 5 then some (s.txBoundary, vals) else none,
      temps := putAt (if u = 5 then band else 0) (some r.temp) c.temps, ages := putAt (if u = 5 then band else 0) s.tick c.ages,
      report := some (calBlock u r .pass 0 limit (s.t64At t), t) })
    let s := s.degradedCond
    s.nvmStart (idCal u) (if u = 5 then txBody (s.unit 5).temps vals else convBody r.temp (s.t64At t) vals)

/-- A FAILED converter returns to service at sample `k` (R66, R67). -/
def State.convBack (s : State) (x k : Nat) : State :=
  if s.failedConv x then
    ((s.modConv x (fun r => { r with failed := none, cause := none, marks := endMarks qInvalid k r.marks })).convFailCond)
  else s

/-- The Plain-frame boundary at which a stage that ends at CK_RF count `e` ends, for an event at `t` (R8). -/
def State.stageBoundary (s : State) (e t : Nat) : Nat := alignUp perFrame (max e (max t s.now))

/-- CAL_MEASURE_START (R411): after the settling, the measurement of 512 Plain frames starts at a Plain-frame boundary. -/
def execCalMeasureStart (t unit : Nat) (s : State) : Out :=
  match (s.unit unit).run with
  | some r =>
    let u := s.advance (s.stageBoundary r.ends t)
    if r.stage = .settling ∧ unit < 5 ∧ (u.unit unit).run = some r then
      done s (u.modUnit unit (fun c => { c with
        run := some { r with stage := .measuring, ends := u.now + 512 * perFrame } }))
    else done s u
  | none => done s (s.advance t)

/-- What follows the end of a converter's measurement: the Stand-in keeps or returns the traffic, or goes back to its rota (R411, R415,
R419). -/
def State.afterMeasure (s : State) (x : Nat) (passed : Bool) : State :=
  if s.standin.move.isSome then s
  else if x = 4 then s.standinFree (if passed then 0 else s.standin.rota)
  else if (s.convR x).onStandin && !s.failedConv x then
    if !passed && (s.unit x).degraded && fbit s.cal.policy cpDegStandin && s.cmdRun .conv x then
      s.modStandin (fun d => { d with use := .carry x, stage := .none })
    else s.giveBack x
  else s

/-- CAL_MEASURE_END (R8, R9, R408, R411, R414, R415): at the Plain-frame boundary that ends the measurement the results are checked and
applied, or discarded, after the gain compensation of that boundary and before what commands change there. -/
def execCalMeasureEnd (t unit : Nat) (m : CalMeas) (s : State) : Out :=
  match (s.unit unit).run with
  | some r =>
    let u := s.arriveGain (s.stageBoundary r.ends t)
    if r.stage = .measuring ∧ unit < 5 ∧ (u.unit unit).run = some r then
      let c := u.unit unit
      let lastT := c.temps.getD 0 none
      let lim := convLimit m (u.cal.factory.getD unit []) (lastT.map (fun _ => c.vals)) ((r.temp - lastT.getD r.temp).natAbs)
      match lim with
      | none => done s (((u.calPass unit 0 0xFFFF u.now m.vals).convBack unit u.index).afterMeasure unit true).settle
      | some k => done s ((u.calEnd unit .limit k u.now).afterMeasure unit false).settle
    else done s u.settle
  | none => done s (s.advance t)

/-! ## Commands (R420, R422) -/

/-- The Stand-in is FAILED, or busy with priority 1 or 2 of R419. -/
def State.standinBusy (s : State) : Bool :=
  s.failedConv 4 ||
  (match s.standin.use with
   | .failover _ => true
   | .carry x => s.failedConv x || (s.unit x).run.isNone
   | .giveBack x => s.failedConv x
   | .take _ forCal => !forCal
   | _ => false)

/-- ADC4 carries traffic. -/
def State.standinCarries (s : State) : Bool := s.conv.any (fun o => o.run.onStandin)

/-- CAL_RUN on a unit of this device (R420). -/
def cmdCalRun (d : Desc) (s : State) : CmdResult :=
  let isDev := idKind d.object == 0
  let u := if isDev then 5 else idIdx d.object
  if isDev && d.inlByte 0 != 0 then s.bad 24
  else if 1 ≤ d.plen.toNat ∧ d.plen.toNat ≤ 31 then s.bad 12
  else
    let refused :=
      if u = 5 then !s.loMode || (s.anyCarrier && !s.dcar.any (fun o => o.life.cmd == .run))
      else if u = 4 then s.standinCarries
      else s.cmdRun .conv u && !s.failedConv u && s.standinBusy
    if refused then s.fail .notPermitted
    else
      let s := match (s.unit u).run with
        | none => s.calDue u CalTrigger.command 0
        | some r =>
          if r.order = 0 then
            ({ s with cal := { s.cal with orderNext := s.cal.orderNext + 1 } } : State).modUnit u (fun c =>
              { c with run := some { r with order := s.cal.orderNext } })
          else s
      let r := (if u = 5 then s.txcalStart else s.calStartAll).okCmd
      { r with wait := some (.cal u, true) }

/-- CAL_POLICY (R422). -/
def cmdCalPolicy (d : Desc) (s : State) : CmdResult :=
  let b : BitVec 64 := d.inl.extractLsb' 0 64 &&& tableMask 64 calFields
  match firstFail (calChecks b) with
  | some f => s.bad (24 + f.lsb / 8)
  | none => ({ s with cal := { s.cal with policy := b } } : State).okCmd

/-- The report of a passing run follows the write of its record, with the generation written, or 0 when the write failed (R418,
R421). -/
def State.calWritten (s : State) (u gen : Nat) : State :=
  match (s.unit u).report with
  | none => s
  | some (block, t) => (s.modUnit u (fun c => { c with report := none })).calReport u (calBlockGen block gen) t

end Sys2Proof.Machine
end

