-- ==== Sys2Proof/Machine/Inputs.lean ====
section
/-! DEFINITION. The aerial inputs' AGC, the Stand-in's visits, matches and returns, and the failure of a converter (R48 to R66). -/
namespace Sys2Proof

/-- The cause codes of R70. -/
def FailCause.code : FailCause → Nat
  | .stuck => 1 | .clock => 2 | .bias => 3 | .match_ => 4

end Sys2Proof

namespace Sys2Proof.Machine
open Sys2Proof

/-! ## AGC (R49 to R52) -/

/-- A gain in dB from LNA code and attenuation (R46). -/
def gainDb (lna att : Nat) : Int := 10 * (lna : Int) - att

/-- The ladder state of a gain from -30 dB to +20 dB: LNA code and attenuation (R49). -/
def ladder (g : Int) : Nat × Nat :=
  if 11 ≤ g then (2, (20 - g).toNat) else if 1 ≤ g then (1, (10 - g).toNat) else (0, (-g).toNat)

/-- A peak of converter words reaches -h dBFS, exactly: (peak / 2048)^20 ≥ 10^-h. -/
def peakReaches (peak h : Nat) : Bool := decide (2048 ^ 20 ≤ peak ^ 20 * 10 ^ h)

/-- The fields in effect of an input. -/
def State.convBlk (s : State) (x : Nat) : Blk := (s.life ⟨.conv, x⟩).cur

/-- The AGC of an input decides on sample `k`: the input runs in PEAK mode, unfrozen, outside blanking (R49, R52, R53). -/
def State.agcActs (s : State) (x k : Nat) : Bool :=
  decide (x < 4) && s.running .conv x && fget (s.convBlk x) cvAgcMode == 1 && !fbit (s.convBlk x) cvAgcFreeze &&
  decide ((s.convR x).blankEnd ≤ k) && decide ((s.life ⟨.conv, x⟩).s0 ≤ k)

/-- AGC_ATTACK (R50): the peak of the Plain sample that ends at boundary `t`. -/
def execAgcAttack (t x peak : Nat) (clip : Bool) (s : State) : Out :=
  let u := s.advance t
  let k := u.index - 1
  let v := if clip && decide (x < 4) && u.running .conv x then
      (u.modConv x (fun r => { r with clipCnt := satU 16 (r.clipCnt + 1) })).markConv x qClip k (some (k + 1)) else u
  let r := v.convR x
  if v.agcActs x k && peakReaches peak (fget (v.convBlk x) cvAgcHi) && decide (r.attackFrom ≤ k) && r.nextGain.isNone then
    let g := gainDb r.lna r.att
    if g ≤ -30 then done s (v.modConv x (fun r => { r with limit := true })).agcCond
    else
      let n := ladder (max (g - fget (v.convBlk x) cvAttackStep) (-30))
      done s (v.modConv x (fun r => { r with nextGain := some (n.1, n.2, k + 2), attackFrom := k + 2 }))
  else done s v

/-- AGC_RELEASE (R51): the largest peak of the span of AGC_HOLD that ends at boundary `t`. -/
def execAgcRelease (t x peak : Nat) (s : State) : Out :=
  let u := s.advance t
  let e := u.index
  let span := 64 * 2 ^ fget (u.convBlk x) cvAgcHold
  let r := u.convR x
  let first := e - span
  let g := gainDb r.lna r.att
  if u.agcActs x first && decide (span ≤ e) && decide (r.holdFrom ≤ first) && r.nextGain.isNone && decide (g < 20) &&
      !peakReaches peak (6 + fget (u.convBlk x) cvAgcLo) then
    let n := ladder (g + 1)
    done s (u.modConv x (fun r => { r with nextGain := some (n.1, n.2, e + 1) }))
  else done s u

/-- GAIN_STEP (R48): the next change of the input's gain state takes effect at its boundary. -/
def execGainStep (x : Nat) (s : State) : Out :=
  match (s.convR x).nextGain, (s.life ⟨.conv, x⟩).liveAt with
  | some (_, _, k), none => done s (s.advance (k * perSample))
  | none, some (t, _) => done s (s.advance t)
  | some (_, _, k), some (t, _) => done s (s.advance (min (k * perSample) t))
  | none, none => done s s

/-- PSEL_BLANK_END (R53, R55): the blanking interval ends and the AGC may decide again. -/
def execPselBlankEnd (x : Nat) (s : State) : Out :=
  if (s.convR x).blanking then
    let u := s.advance ((s.convR x).blankEnd * perSample)
    done s (u.modConv x (fun r => { r with blanking := false, holdFrom := max r.holdFrom r.blankEnd }))
  else done s s

/-- AGC_LIMIT_EPISODE_END (R50): a Plain sample of the input with a peak below AGC_HI. -/
def execAgcLimitEpisodeEnd (t x peak : Nat) (s : State) : Out :=
  let u := s.advance t
  if (u.convR x).limit && !peakReaches peak (fget (u.convBlk x) cvAgcHi) then
    done s (u.modConv x (fun r => { r with limit := false })).agcCond
  else done s u

/-! ## Matching (R59 to R63) -/

/-- A matching window opens now (R59). -/
def State.openWindow (s : State) : State :=
  s.modStandin (fun d => { d with stage := .window, stageEnd := s.now + 64 * perFrame })

/-- MATCH_WINDOW_OPEN (R59): the window opens at the Plain-frame boundary after the settling. -/
def execMatchWindowOpen (s : State) : Out :=
  if s.standin.stage = .settling then done s (s.advance s.standin.stageEnd).openWindow else done s s

/-- MATCH_WINDOW_CLOSE (R59, R62): the window closes, the corrections found are applied, to ADCx before a return and else to ADC4, and the
check frame begins. -/
def execMatchWindowClose (gain delay offset : Int) (s : State) : Out :=
  match s.standin.stage, s.standin.matching with
  | .window, some x =>
    let u := s.advance s.standin.stageEnd
    let own := u.standin.use == .giveBack x
    let note (r : ConvRun) : ConvRun := { r with matchGain := gain, matchDelay := delay }
    let keep (r : ConvRun) : ConvRun := if own then { note r with left := (gain, delay, offset), leftFrom := none } else note r
    done s (((u.modStandin (fun d => { d with
      stage := .check, corr := if own then d.corr else (gain, delay, offset), stageEnd := u.now + perFrame })).modConv x keep).modConv 4 note)
  | _, _ => done s s

/-- The residuals of a check frame pass: at most 2^-11 of gain, 0.32 ps, 1 LSB (R60). -/
def matchPasses (gain delay offset : Int) : Bool :=
  decide (gain.natAbs ≤ 32) && decide (delay.natAbs ≤ 32) && decide (offset.natAbs ≤ 16)

/-- Corrections found at a visit differ from the stored ones by more than 0.1 dB in gain or 2 ps in delay (R63). -/
def corrDrifted (old new : Int × Int × Int) : Bool :=
  let a := gainOf old.1
  let b := gainOf new.1
  decide (a ^ 200 * 10 < b ^ 200) || decide (b ^ 200 * 10 < a ^ 200) || decide (200 < (new.2.1 - old.2.1).natAbs)

/-- A visit ends: the corrections are compared with those of the visit before, and stored (R63). -/
def State.visitEnd (s : State) (x : Nat) : State :=
  let c := s.standin.corr
  let s := match (s.convR x).corr with
    | none => s
    | some old =>
      if corrDrifted old c then
        (s.setFlag fConvMismatch).addDaily 0x0004 sevWarning (s.idOf .conv x)
          (leBytes 1 x ++ zeros 1 ++ leBytes 2 (unsignedOf 16 (centibel (gainOf c.1) (gainOf old.1))) ++
            leBytes 2 (unsignedOf 16 (c.2.1 - old.2.1)) ++ zeros 2) s.now
      else s
  s.modConv x (fun r => { r with corr := some c })

/-- STANDIN_MATCH_FAIL and the cause MATCH (R61, R62). DESIGN CHOICE (log 45): FAIL_CAUSE keeps MATCH until a failure of the converter
replaces it, a FAILED converter returns to service, or a reset. -/
def State.matchFail (s : State) (x : Nat) : State :=
  (s.modConv x (fun r => { r with cause := some .match_ })).setFlag fStandinMatchFail

/-- What the end of a check frame does, before the other changes of its boundary (R9, R60 to R63). -/
def State.checked (u : State) (gain delay offset : Int) : State :=
  let ok := matchPasses gain delay offset
  let n := u.standin.fails + 1
  match u.standin.use with
  | .visit x => (u.visitEnd x).modStandin (fun d => { d with use := .idle, stage := .none, rota := (x + 1) % 4, abandonAt := none })
  | .take x forCal =>
    if ok then
      let v := (u.trafficIn x u.index).modStandin (fun d => { d with use := .carry x, stage := .none, fails := 0 })
      if forCal then v.calGenerator x true false else v
    else if n < 4 then u.openWindow.modStandin (fun d => { d with fails := n })
    else
      let v := (u.matchFail x).standinFree (x + 1)
      if forCal then v.calEnd x .matchFail 0xFFFF v.now else v
  | .giveBack x =>
    if ok then ((u.trafficOut x u.index).standinFree (x + 1)).modConv x (fun r => { r with leftFrom := some u.now })
    else if n < 4 then u.openWindow.modStandin (fun d => { d with fails := n })
    else (u.matchFail x).modStandin (fun d => { d with stage := .none, fails := 0, retry := true })
  | _ => u

/-- STANDIN_CHECK (R9, R60 to R63): the check frame ends. -/
def execStandinCheck (gain delay offset : Int) (s : State) : Out :=
  if s.standin.stage = .check then
    let u := s.arrive s.standin.stageEnd
    done s (if u.standin.stage = .check ∧ s.standin.stageEnd ≤ u.now then u.checked gain delay offset else u).settle
  else done s s

/-- The part of a management tick that opens a new series of return windows (R62). -/
def State.tickReturn (s : State) : State :=
  if s.standin.retry then s.openWindow.modStandin (fun d => { d with retry := false }) else s

/-- The first input of the rota, from `i` on, that is not CLOSED (R63). -/
def State.rotaNext (s : State) (i : Nat) : Option Nat :=
  (([0, 1, 2, 3] : List Nat).map (fun j => (i + j) % 4)).find? (fun x => decide ((s.life ⟨.conv, x⟩).eff ≠ .closed))

/-- STANDIN_VISIT (R63): at a Plain-frame boundary, a Stand-in that nothing else uses visits the next input. -/
def execStandinVisit (t : Nat) (s : State) : Out :=
  let u := s.advance t
  if u.phase = .released ∧ u.now % perFrame = 0 ∧ u.standin.use = .idle ∧ u.failedConv 4 = false ∧ u.cal4Active = false ∧
      u.standin.move = none then
    match u.rotaNext u.standin.rota with
    | some x => done s ((u.standinConnect x (.visit x)).modStandin (fun d => { d with rota := x }))
    | none => done s (u.modStandin (fun d => { d with conn := none }))
  else done s u

/-! ## Converter failure (R64 to R67) -/

/-- The CONV_FAIL slate: the Timebase value of the declaration, with DETECTED (R65). -/
def State.convFailSlate (s : State) (c : Nat) (cause : FailCause) (time qual : Nat) : State :=
  s.slateAt 0x0200 (s.idOf .conv c) time (qual ||| qDetected) (leBytes 4 (s.idOf .conv c).toNat ++ leBytes 1 cause.code)

/-- A run of a unit that is measuring or being prepared ends (R412). -/
def State.endRun (s : State) (u : Nat) (res : CalResult) : State :=
  match (s.unit u).run with
  | some r => if r.stage = .pending then s else s.calEnd u res 0xFFFF s.now
  | none => s

/-- The runs that a failover ends: the one that uses the Stand-in, and one of CONV4 (R66, R412). -/
def State.standinRuns (s : State) : List Nat :=
  match s.standin.use with
  | .take z true | .carry z => [z, 4]
  | _ => [4]

/-- They end ABORTED. -/
def State.endRuns (s : State) (us : List Nat) : State := us.foldl (fun s u => s.endRun u .aborted) s

/-- ADCx, which carries its input's traffic or none, has failed in sample `k`: failover, or a second fault (R65, R66). -/
def State.failover (s : State) (x k : Nat) (cause : FailCause) (time qual : Nat) : State :=
  let s := s.endRun x .convFail
  let held := match s.standin.use with
    | .failover _ => true
    | .carry y | .giveBack y => s.failedConv y
    | _ => false
  if s.failedConv 4 || held || s.standin.move.isSome then
    (s.markConv x qInvalid k none).convFailSlate x cause time qual
  else
    let other := (List.range 4).find? (fun y => y != x && (s.convR y).onStandin)
    let near := s.standin.conn == some x
    let sw := if near then k + 2 else k + 10
    let ends := s.standinRuns
    let s := if near then s.endRuns ends else s
    let s := s.markConv x qInvalid k (some sw)
    let s := match other with | none => s | some y => s.markConv y qInvalid (k + 2) (some (k + 10))
    s.modStandin (fun d => { d with
      use := .failover x, stage := .none, fails := 0, retry := false, abandonAt := none,
      move := some ⟨x, k, (k + 2) * perSample, sw * perSample, time, qual, cause, other, near, true, ends⟩ })

/-- ADC4 has failed in sample `k`: its traffic returns, or its input stays INVALID (R66). A run of the input whose traffic returns ends at
boundary k+2. -/
def State.standinFails (s : State) (k : Nat) : State :=
  let s := s.endRun 4 .convFail
  let ends := s.standinRuns
  let carried := (List.range 4).find? (fun y => (s.convR y).onStandin)
  let s := match s.standin.move with
    | some m =>
      let s := s.markConv m.input qInvalid k none
      let s := s.convFailSlate m.input m.cause m.time m.qual
      s.modStandin (fun d => { d with move := if m.other.isSome then some { m with input := 4, slate := false } else none })
    | none =>
      match carried with
      | none => s.endRuns ends
      | some y =>
        if s.failedConv y then
          (s.endRuns ends).modConv y (fun r => { r with
            onStandin := false, marks := endMarks qStandin k r.marks ++ [(⟨k, none, qInvalid⟩ : Mark)] })
        else
          (s.markConv y qInvalid k (some (k + 10))).modStandin (fun d => { d with
            move := some ⟨4, k, (k + 2) * perSample, (k + 10) * perSample, 0, 0, .stuck, some y, false, false, ends⟩ })
  s.modStandin (fun d => { d with
    conn := none, use := .idle, stage := .none, fails := 0, retry := false, abandonAt := none,
    rota := match carried with | some y => (y + 1) % 4 | none => d.rota })

/-- A run that waits and that no command asked for is dropped when its converter fails (R67, R409). -/
def State.dropTriggered (s : State) (c : Nat) : State :=
  s.modUnit c (fun u => { u with run := u.run.filter (fun r => r.stage != .pending || r.order != 0) })

/-- CONV_FAIL (R64 to R66): a converter is declared failed for a condition that began in Plain sample `k`. -/
def execConvFail (t c k : Nat) (cause : FailCause) (s : State) : Out :=
  let u := s.advance t
  if u.clk.divReset && decide (c ≤ 4) && !u.failedConv c && decide (k ≤ u.index) && decide (cause ≠ .match_) &&
      decide ((u.life ⟨.conv, c⟩).eff ≠ .closed) then
    let time := u.timeAt u.now
    let v := ((u.modConv c (fun r => { r with failed := some cause, cause := some cause })).dropTriggered c).convFailCond
    if c = 4 then done s ((v.standinFails k).convFailSlate 4 cause time v.qualNow)
    else if (v.convR c).onStandin then
      let v := v.endRun c .convFail
      let v := if v.standin.use = .giveBack c then
          v.modStandin (fun d => { d with use := .carry c, stage := .none, fails := 0, retry := false }) else v
      done s (v.convFailSlate c cause time v.qualNow)
    else done s (v.failover c k cause time v.qualNow)
  else done s u

/-- The crossbar moves: the runs that used the Stand-in end, and ADC4 is connected to the failed converter's input (R65, R66). -/
def State.crossbarMoved (s : State) (m : FailMove) : State :=
  if m.moved then s
  else
    (s.endRuns m.ends).modStandin (fun d => { d with
      conn := if m.input = 4 then none else some m.input, connTick := d.connTick || m.input != 4, move := some { m with moved := true } })

/-- CROSSBAR_MOVE (R9, R65, R66): at boundary k+2. -/
def execCrossbarMove (s : State) : Out :=
  match s.standin.move with
  | some m => if m.moved then done s s else done s ((s.arrive m.moveAt).crossbarMoved m).settle
  | none => done s s

/-- The traffic moves to ADC4 with the corrections stored for its input, and another input's goes back to its own converter (R65,
R66). -/
def State.failedOver (s : State) (m : FailMove) : State :=
  let u := s.crossbarMoved m
  let k := u.index
  let u := match m.other with | none => u | some y => u.trafficOut y k
  let u := u.modStandin (fun d => { d with move := none })
  if m.input = 4 then u
  else
    let u := (u.trafficIn m.input k).modStandin (fun d => { d with
      conn := some m.input, use := .carry m.input, corr := ((u.convR m.input).corr).getD (0, 0, 0) })
    if m.slate then u.convFailSlate m.input m.cause m.time m.qual else u

/-- FAILOVER_SWITCH (R9, R65, R66). -/
def execFailoverSwitch (s : State) : Out :=
  match s.standin.move with
  | some m => done s ((s.arrive m.switchAt).failedOver m).settle
  | none => done s s

end Sys2Proof.Machine
end

