-- ==== Sys2Proof/Machine/Faults.lean ====
section
/-! DEFINITION. Memory errors, temperatures and supplies (R402, R431 to R435). -/
namespace Sys2Proof.Machine
open Sys2Proof

/-! ## Memory errors (R431, R432) -/

/-- The region codes of R432 and R438, in row order. -/
def regionCode : MemRegion → Nat
  | .plainPassDemod => 0 | .engine => 1 | .decoder => 2 | .queues => 3 | .management => 4

/-- The treatment of an uncorrectable word by its region (R432); other objects are not affected. -/
def State.eccTreat (s : State) (w : BadWord) : State :=
  match w.region, s.refOf w.owner with
  | .management, _ => { s with flags := { s.flags with halted := true } }
  | .plainPassDemod, some ⟨.pass, i⟩ => s.modPass i (fun r => { r with gapNext := r.gapNext + 1 })
  | .plainPassDemod, some ⟨.fmd, i⟩ => s.modFmd i (fun r => { r with core := { r.core with gapNext := r.core.gapNext + 1 } })
  | .plainPassDemod, some ⟨.amd, i⟩ => s.modAmd i (fun r => { r with core := { r.core with gapNext := r.core.gapNext + 1 } })
  | .plainPassDemod, some ⟨.conv, i⟩ => s.markConv i qInvalid s.index (some (s.index + 1))
  | .engine, some ⟨.ee, i⟩ =>
    s.modEe i (fun r => { r with chans := r.chans.map (fun c => { c with erased := c.erased + 1 }) })
  | .decoder, some ⟨.prog, i⟩ => s.modProg i (fun r => { r with restarting := true })
  | .queues, some ⟨.prog, i⟩ => s.modProg i (fun r => { r with absentNext := true })
  | .queues, some ⟨.port, i⟩ => s.modPort i (fun r => { r with absentNext := true })
  | .queues, some ⟨.fcar, i⟩ => s.modFcar i (fun r => { r with air := { r.air with lost := true } })
  | .queues, some ⟨.dcar, i⟩ => s.modDcar i (fun r => { r with air := { r.air with lost := true } })
  | _, _ => s

/-- ECC_CORR (R431): a single-bit error was corrected. -/
def execEccCorr (t : Nat) (s : State) : Out :=
  done s ((s.advance t).setFlag fEccCorr)

/-- ECC_UNCORR (R432): flag, slate and Dailies entry, except in the management controller's memory, where the controller halts. -/
def execEccUncorr (t : Nat) (w : BadWord) (s : State) : Out :=
  let u := s.advance t
  if w.region = .management then done s (((u.eccTreat w).setFlag fEccUncorr).setCond fMgmtFault true)
  else
    let item := leBytes 1 (regionCode w.region) ++ leBytes 4 w.owner.toNat ++ leBytes 4 w.address.toNat
    let u := ((u.setFlag fEccUncorr).slateDet 0x0D00 w.owner item).addDaily 0x000B sevError w.owner
      (leBytes 1 (regionCode w.region) ++ zeros 3 ++ leBytes 4 w.owner.toNat ++ leBytes 4 w.address.toNat) u.now
    done s (u.eccTreat w)

/-! ## Supplies (R435) -/

/-- The windows of SUPPLY_WARN and SUPPLY_FAULT in mV. -/
def supplyWindow (fault : Bool) (i : Nat) : Nat × Nat :=
  match fault, i with
  | false, 0 => (760, 840) | false, 1 => (855, 945) | false, 2 => (950, 1050)
  | false, 3 => (1710, 1890) | false, 4 => (1710, 1890) | false, _ => (3135, 3465)
  | true, 0 => (720, 880) | true, 1 => (810, 990) | true, 2 => (900, 1100)
  | true, 3 => (1620, 1980) | true, 4 => (1620, 1980) | true, _ => (2970, 3630)

/-- A reading lies inside its window. -/
def insideWindow (fault : Bool) (i mv : Nat) : Bool :=
  decide ((supplyWindow fault i).1 ≤ mv ∧ mv ≤ (supplyWindow fault i).2)

/-- The conditions of the supply flags (R487). -/
def State.supplyConds (s : State) : State :=
  (s.setCond fSupplyWarn (s.health.warn.any id)).setCond fSupplyFault (s.health.fault.any id)

/-- The condition of a supply begins with a reading, with its slate and Dailies entry. -/
def State.supplyBegin (s : State) (fault : Bool) (i mv : Nat) : State :=
  let known := if fault then s.health.fault.getD i false else s.health.warn.getD i false
  if decide (i < 6) && !known then
    let h := if fault then { s.health with fault := putAt i true s.health.fault, faultIn := putAt i 0 s.health.faultIn }
      else { s.health with warn := putAt i true s.health.warn, warnIn := putAt i 0 s.health.warnIn }
    let s := ({ s with health := h } : State).supplyConds
    (s.slateDet 0x0D02 s.devId (leBytes 1 i ++ leBytes 2 mv)).addDaily 0x000D (if fault then sevError else sevWarning) s.devId
      (leBytes 1 (bit fault) ++ leBytes 1 i ++ leBytes 2 mv) s.now
  else s

/-- Four consecutive readings outside a window. -/
def State.supplyOut (s : State) (fault : Bool) (i : Nat) (readings : List Nat) : State :=
  if decide (readings.length = 4) && readings.all (fun mv => !insideWindow fault i mv) then s.supplyBegin fault i (readings.getLast?.getD 0) else s

/-- SUPPLY_WARN (R435): the fourth consecutive reading outside the warning window. -/
def execSupplyWarn (t supply : Nat) (readings : List Nat) (s : State) : Out :=
  done s ((s.advance t).supplyOut false supply readings)

/-- SUPPLY_FAULT (R435): the fourth consecutive reading outside the fault window. -/
def execSupplyFault (t supply : Nat) (readings : List Nat) (s : State) : Out :=
  done s ((s.advance t).supplyOut true supply readings)

/-! ## The periodic tests of a management tick (R402, R433, R435) -/

/-- The supplies whose fourth consecutive reading outside a window this tick gave (R435). -/
def State.tickSupplies (s : State) (fault : Bool) : State :=
  (List.range 6).foldl (fun s i =>
    if (if fault then s.health.faultOut else s.health.warnOut).getD i 0 = 4 then s.supplyBegin fault i (s.health.volts.getD i 0) else s) s

/-- The health page refreshed with a tick's readings; a reading that is not given keeps its last value and is not compared. -/
def State.tickHealth (s : State) (i : TickIn) : State :=
  let h := s.health
  let ts := (List.range 6).map (fun j => i.temps.getD j (h.ts.getD j 0))
  let volts := (List.range 6).map (fun j => i.volts.getD j (h.volts.getD j 0))
  let tj := ts.foldl max (ts.getD 0 0)
  let count (fault in_ : Bool) (old : List Nat) : List Nat :=
    (List.range 6).map (fun j =>
      if i.volts.length ≤ j then old.getD j 0 else if insideWindow fault j (volts.getD j 0) = in_ then satU 8 (old.getD j 0 + 1) else 0)
  let warnIn := count false true h.warnIn
  let faultIn := count true true h.faultIn
  let left (on : List Bool) (n : List Nat) : List Bool :=
    (List.range 6).map (fun j => on.getD j false && decide (n.getD j 0 < 4))
  let s := { s with health := { h with
    ts := ts, volts := volts, tjMax := tj, tick := s.tick32, clearReq := false,
    tjPeak := if h.clearReq then tj else max h.tjPeak tj,
    vmin := (List.range 6).map (fun j => let v := volts.getD j 0; if h.clearReq then v else min (h.vmin.getD j 0xFFFF) v),
    vmax := (List.range 6).map (fun j => let v := volts.getD j 0; if h.clearReq then v else max (h.vmax.getD j 0) v),
    warnIn := warnIn, faultIn := faultIn, warnOut := count false false h.warnOut, faultOut := count true false h.faultOut, warn := left h.warn warnIn, fault := left h.fault faultIn } }
  (s.supplyConds.tickSupplies false).tickSupplies true

/-- The sensor that reads TJ_MAX. -/
def State.hotSensor (s : State) : Nat := (((indexed 0 s.health.ts).find? (fun x => x.2 == s.health.tjMax)).map Prod.fst).getD 0

/-- One thermal flag: its condition begins beyond `set` and ends beyond `clear` (R433). -/
def State.thermal (s : State) (n which : Nat) (begins ends : Bool) (sev : Nat) (slate : Bool) : State :=
  if s.cond n then (if ends then s.setCond n false else s)
  else if begins then
    let item := leBytes 1 s.hotSensor ++ leBytes 2 (unsignedOf 16 s.health.tjMax)
    let s := s.setCond n true
    let s := if slate then s.slateDet 0x0D01 s.devId item else s
    s.addDaily 0x000C sev s.devId (leBytes 1 which ++ item) s.now
  else s

/-- The thermal comparisons of a management tick, and the persisted count of ticks above 150 °C (R433). -/
def State.tickThermal (s : State) : State :=
  let tj := s.health.tjMax
  let s := s.thermal fThermLow 0 (decide (tj < -960)) (decide (-912 < tj)) sevWarning false
  let s := s.thermal fThermWarn 1 (decide (2240 < tj)) (decide (tj < 2160)) sevWarning false
  let s := s.thermal fThermHigh 2 (decide (2400 < tj)) (decide (tj < 2320)) sevError true
  if 2400 < tj then { s with mram := { s.mram with overTicks := s.mram.overTicks + 1 } } else s

end Sys2Proof.Machine
end

