-- ==== Sys2Proof/Machine/Reset.lean ====
section
/-! DEFINITION. Device resets: their assertion, their release, the wipe and the release of outputs (R430, R434, R435, R441 to R449). -/
namespace Sys2Proof.Machine
open Sys2Proof

/-! ## Fuses (R430, R456) -/

/-- A redundant pair reads as blown when either fuse is; it disagrees when only one is (R430). -/
def pairBlown (p : Bool × Bool) : Bool := p.1 || p.2
def pairBad (p : Bool × Bool) : Bool := p.1 != p.2

/-- LC_STATE: 0 FACTORY, 1 PROVISIONED, 2 FIELD, 3 RETURN, the highest that is blown (R456). -/
def Fuses.lcState (f : Fuses) : Nat :=
  if pairBlown f.lcR then 3 else if pairBlown f.lcF then 2 else if pairBlown f.lcP then 1 else 0

/-- DBG_LOCK. -/
def Fuses.dbgLock (f : Fuses) : Bool := pairBlown f.dbg

/-- Some pair disagrees: FUSE_BAD (R430). -/
def Fuses.bad (f : Fuses) : Bool := pairBad f.lcP || pairBad f.lcF || pairBad f.lcR || pairBad f.dbg || f.otherBad

/-! ## Assertion -/

/-- A device reset is asserted: everything but fuses, MRAM, straps as latched, the test port and the free values starts again; a
warm reset keeps OVR_EN, OVR_SRC and SKIP_STORYBOARD (R443, R444). A write to MRAM in progress is lost (R417). -/
def State.deviceReset (s : State) (warm : Bool) (cause : ResetCause) : State :=
  { State.reset with
    phase := if warm then .warm else .porst, lastCause := cause, resetPin := s.resetPin, heldBrown := s.heldBrown,
    heldHot := s.heldHot, freeCtr := s.freeCtr, straps := s.straps, fuses := s.fuses,
    boot := { Boot.reset with
      ovrEn := warm && s.boot.ovrEn, ovrSrc := if warm then s.boot.ovrSrc else 0,
      skipStoryboard := warm && s.boot.skipStoryboard },
    wipeRun := s.wipeRun, mram := { s.mram with writes := [] },
    tap := { s.tap with testing := s.tap.testing && warm }, pending := s.pending }

/-- A warm reset asked for by a command or a pin; another device reset in progress absorbs it (R445). -/
def State.warmReset (s : State) (cause : ResetCause) : State :=
  if s.phase = .released then { s.deviceReset true cause with resetPin := true } else s

/-! ## Release (R18, R418, R448, R449) -/

/-- One MRAM copy that no longer passes: its bytes are gone, or it is noted for a factory record. -/
def Mram.damage (m : Mram) (d : Nat × Bool) : Mram :=
  if 0x100 ≤ d.1 then { m with factoryBad := distinct (d :: m.factoryBad) } else m.setCopy d.1 d.2 []

/-- Both copies of a factory record fail. -/
def Mram.factoryLost (m : Mram) : Bool := m.factoryBad.any (fun d => m.factoryBad.contains (d.1, !d.2))

/-- The numbers in force of a unit, from the factory table or the built-in nominal ones (R418). -/
def factoryVals (lost : Bool) (unit : Nat) : List Int :=
  (List.range (([256, 256, 256, 256, 256, 112, 186, 44] : List Nat).getD unit 0)).map (Config.factoryCal (if lost then 8 + unit else unit))

/-- The wipe of MRAM that a reset interrupted is completed by the loader (R460, R461). -/
def State.finishWipe (s : State) : State :=
  match s.wipeRun with
  | none => s
  | some w => { s with wipeRun := none, mram := if w.records then { s.mram with dailies := [] } else s.mram }

/-- The MRAM as a load finds it: the copies and the persisted entries that fail their check word are gone (R418, R439). -/
def Mram.checked (m : Mram) (r : ReleaseIn) : Mram :=
  let m := r.damaged.foldl Mram.damage m
  { m with
    dailies := m.dailies.filter (fun e => !r.badDailies.contains e.seq),
    dailyBad := m.dailies.any (fun e => r.badDailies.contains e.seq) }

/-- SEQ of the next Dailies entry (R439). -/
def Mram.nextSeq (m : Mram) : Nat :=
  match m.dailies.getLast? with
  | none => 1
  | some e => if e.seq = 0xFFFFFFFF then 1 else e.seq + 1

/-- The factory tables of the units, of K and of CTL_VAL (R407). -/
def factoryTables (lost : Bool) : List (List Int) := (List.range 8).map (factoryVals lost)

/-- What the loader reads: the straps, the MRAM, the factory CTL_VAL and tables, CLK_PROFILE (R448, R449). -/
def State.loaded (s : State) (r : ReleaseIn) : State :=
  let m := s.mram.checked r
  { s with
    phase := .loading, straps := r.straps, mram := m, log := { s.log with next := m.nextSeq },
    clk := { s.clk with
      ctlFactory := ctlWord ((factoryVals m.factoryLost 7).getD 0 0), profile := (m.profile idClk 128 clkFields).1,
      ctlVal := ctlAt (factoryVals m.factoryLost 7) r.tj },
    cal := { s.cal with
      factory := factoryTables m.factoryLost,
      units := (s.cal.units.zip (factoryTables m.factoryLost)).map (fun (c : CalUnit × List Int) =>
        ({ c.1 with vals := c.2, degraded := m.factoryLost } : CalUnit)) } }

/-- The conditions and flags that the load finds (R19, R418, R430). -/
def State.loadFlags (s : State) : State :=
  let s := s.setCond fProfileBad (!(s.mram.profile idClk 128 clkFields).2)
  let s := (s.setCond fRefSelBad (s.straps.refSel == 3)).setCond fFactoryCalBad s.mram.factoryLost
  let s := s.degradedCond
  if s.fuses.bad then s.setFlag fFuseBad else s

/-- The hardware loader's work at the release of a device reset. -/
def State.loader (s : State) (r : ReleaseIn) : State := (s.finishWipe.loaded r).loadFlags

/-- The reset ends once neither a pin nor a monitor holds it. -/
def State.tryRelease (s : State) (r : ReleaseIn) : State :=
  if (s.phase = .porst ∨ s.phase = .warm) ∧ s.resetPin = false ∧ s.heldBrown = false ∧ s.heldHot = false then s.loader r else s

/-- PORST_N_ASSERT (R443 to R445): a low level shorter than 1 µs does nothing; a power-on reset governs over a warm one. -/
def execPorstNAssert (ns : Nat) (s : State) : Out :=
  if ns < 1000 then doneSys s s
  else if s.phase = .porst then doneSys s { s with resetPin := true }
  else doneSys s { s.deviceReset false .porst with resetPin := true }

/-- WRST_N_ASSERT (R443 to R445): absorbed into a device reset in progress. -/
def execWrstNAssert (ns : Nat) (s : State) : Out :=
  if ns < 1000 then doneSys s s else doneSys s (s.warmReset .wrst)

/-- RESET_RELEASE (R448 to R450): the pin is released, or the hold of RESET_REQ or of a life-cycle change ends. -/
def execResetRelease (r : ReleaseIn) (s : State) : Out :=
  doneSys s (({ s with resetPin := false } : State).tryRelease r)

/-- The brown-out limits in mV and their margins; only VDD_CORE and VDDIO_MGMT are monitored (R435). -/
def brownLimit (supply : Nat) : Option (Nat × Nat) :=
  if supply = 0 then some (680, 20) else if supply = 5 then some (2700, 80) else none

/-- BROWN_OUT (R435): a monitored supply falls below its limit and holds the device in reset as PORST_N would. -/
def execBrownOut (supply mv : Nat) (s : State) : Out :=
  match brownLimit supply with
  | some (limit, _) =>
    if mv < limit then
      if s.phase = .porst then doneSys s { s with heldBrown := true }
      else doneSys s { s.deviceReset false .brownOut with resetPin := false, heldBrown := true }
    else doneSys s s
  | none => doneSys s s

/-- BROWN_OUT_END (R435): every monitored supply has stayed at or above its limit plus margin for 1 ms. -/
def execBrownOutEnd (volts : List Nat) (ns : Nat) (porstLow : Bool) (r : ReleaseIn) (s : State) : Out :=
  if s.heldBrown && decide (1000000 ≤ ns) && decide (700 ≤ volts.getD 0 0) && decide (2780 ≤ volts.getD 5 0) then
    doneSys s (({ s with heldBrown := false, resetPin := porstLow } : State).tryRelease r)
  else doneSys s s

/-- THERMAL_TRIP (R434): a sensor reaches 165 °C; the device is held in warm reset. -/
def execThermalTrip (_sensor : Nat) (reading : Int) (s : State) : Out :=
  if reading < 2640 then doneSys s s
  else if s.phase = .porst ∨ s.phase = .warm then doneSys s { s with heldHot := true }
  else doneSys s { s.deviceReset true .thermTrip with resetPin := false, heldHot := true }

/-- THERMAL_TRIP_END (R434): every sensor reads below 140 °C. -/
def execThermalTripEnd (temps : List Int) (r : ReleaseIn) (s : State) : Out :=
  if s.heldHot && temps.all (fun t => decide (t < 2240)) then
    doneSys s (({ s with heldHot := false } : State).tryRelease r)
  else doneSys s s

/-! ## Release of outputs (R447, R451) -/

/-- Boot begins from its source; the overrides are used up (R405, R451). -/
def State.bootStart (s : State) : State :=
  let b := s.boot
  let src := if b.ovrEn then b.ovrSrc else s.straps.bootSrc
  let st : BootSt := if src = 0 then .waitImage else if src = 2 then .recovery else .loading
  { s with boot := { b with
    src := src, st := st, flash := src = 1 ∨ src = 3, copyB := false, ovrEn := false, skipNow := b.skipStoryboard,
    skipStoryboard := false } }

/-- OUTPUT_RELEASE (R427, R447, R449): at Plain sample 1024 outputs are released and flags begin; the words that failed twice are
treated by their region; boot begins. -/
def execOutputRelease (bad : List BadWord) (s : State) : Out :=
  if s.phase = .wiping then
    let u := s.advance perTick
    let u := if bad.isEmpty then u else u.setFlag fEccUncorr
    let u := bad.foldl State.eccTreat u
    let u := if u.flags.halted then u.setCond fMgmtFault true else u
    done s ({ u with phase := .released } : State).releaseFlags.bootStart
  else done s s

end Sys2Proof.Machine
end

