-- ==== Sys2Proof/Machine/Boot.lean ====
section
/-! DEFINITION. Boot: the image, its sources, its checks, and the start of the firmware (R355, R406, R451 to R455). -/
namespace Sys2Proof.Machine
open Sys2Proof

/-- The first check of R453 that an image fails; none when it passes. `inOrder`: the data arrived in order with no gap. -/
def imageFault (f : Fuses) (inOrder : Bool) (im : List Byte) : Option Nat :=
  let len := leAt im 8 4
  let svn := leAt im 16 4
  let body := (im.drop 192).take len
  if (im.take 4).map BitVec.toNat ≠ [0x59, 0x54, 0x39, 0x36] then some 1
  else if leAt im 4 2 ≠ 1 ∨ 2 ≤ leAt im 6 2 ∨ leAt im 20 44 ≠ 0 ∨ len % 16 ≠ 0 ∨ len < 16 ∨ 1048576 < len ∨
      leAt im 14 2 ≠ f.step.toNat ∨ 64 < svn then some 2
  else if leNat (sha256 ((im.drop 64).take 64)) ≠ f.keyK.toNat then some 3
  else if ecdsaOk ((im.drop 64).take 64) ((im.drop 128).take 64) (sha256 (im.take 128 ++ body)) = false then some 4
  else if svn < f.minSvn then some 5
  else if inOrder = false ∨ im.length ≠ 192 + len then some 6
  else none

/-- The image bytes of what a flash copy holds: the header and LEN bytes after it. -/
def flashImage (data : List Byte) : List Byte := data.take (192 + leAt data 8 4)

/-- The factory values or the last passing results of each unit; their age counts from reset release (R409, R418, R421). -/
def State.loadCal (s : State) : State :=
  (List.range 6).foldl (fun s u =>
    match s.mram.body (idCal u) with
    | none => s.modUnit u (fun c => { c with ages := c.ages.map (fun _ => 0) })
    | some bs =>
      s.modUnit u (fun c => { c with
        vals := if u = 5 then txVals bs else convVals bs,
        temps := if u = 5 then txTemps bs else [some (signedOf 16 (leAt bs 0 2))],
        ages := c.ages.map (fun _ => 0) })) s

/-- The codes and severities of the RESET entry (R438); a life-cycle change has no code of its own and reads WRST. -/
def resetCode : ResetCause → Nat
  | .porst => 0 | .wrst => 1 | .resetReq => 2 | .thermTrip => 3 | .brownOut => 4 | .lifeCycle => 1
def resetSev : ResetCause → Nat
  | .thermTrip => sevFatal | .brownOut => sevFatal | _ => sevNotice

/-- The firmware starts: profiles, hop tables, the persisted Dailies entries, calibration results, the entry RESET (R418, R439,
R454). -/
def State.startFirmware (s : State) : State :=
  let tx := s.mram.profile idTx 128 txFields
  let tp := s.mram.profile idTime 1280 timeFields
  let old := (s.mram.dailies.filter (fun e => !s.log.held.any (fun h => h.seq == e.seq))).map
    (fun e => { e with eflags := e.eflags ||| 4 })
  let held := old ++ s.log.held
  let s := { s with
    tx := { s.tx with profile := tx.1 }, tb := { s.tb with profile := tp.1 },
    aloRx := { s.aloRx with table := ((s.mram.body idHopRx).map hopOf).getD [] },
    aloTx := { s.aloTx with table := ((s.mram.body idHopTx).map hopOf).getD [] },
    log := { s.log with held := held.drop (held.length - 1024) } }
  let s := if tx.2 && tp.2 then s else s.setCond fProfileBad true
  let s := if s.mram.dailyBad then s.setFlag fDailiesLoss else s
  s.loadCal.addDaily 0x000E (resetSev s.lastCause) s.devId
    (leBytes 1 (resetCode s.lastCause) ++ zeros 3 ++ leBytes 4 (satU 32 s.mram.overTicks)) s.now

/-- An image has passed: BOOT reads RUNNING (R454). -/
def State.bootPass (s : State) (im : List Byte) : State :=
  let b := s.boot
  ({ s with boot := { b with
    st := .running, cause := 0, flash := false, complete := false, image := [],
    fwMinor := byteAt im 12, fwMajor := byteAt im 13, svn := leAt im 16 4, commitSvn := (byteAt im 6).getLsbD 0,
    rcvStatus := if b.rcvStatus = 1 then 2 else b.rcvStatus } } : State).startFirmware

/-- An image has failed with a code: a second flash copy is read, or BOOT reads AUTH_FAIL or WAIT_IMAGE (R451, R453). -/
def State.bootFail (s : State) (code : Nat) : State :=
  let b := { s.boot with cause := BitVec.ofNat 8 code, complete := false, image := [], inOrder := true }
  let b := if b.rcvStatus = 1 then { b with st := .authFail, rcvStatus := 5 }
    else if b.flash then
      (if b.copyB then { b with flash := false, st := if b.src = 3 then .waitImage else .authFail } else { b with copyB := true })
    else { b with st := .authFail }
  { s with boot := b }

/-- BOOT_AUTH (R453): the checks of the image at hand are decided. -/
def execBootAuth (t : Nat) (flash : FlashRead) (s : State) : Out :=
  let u := s.advance t
  let b := u.boot
  if u.phase ≠ .released then done s u
  else if b.rcvStatus = 1 ∧ b.complete = true then
    match imageFault u.fuses true b.image with
    | none => done s (u.bootPass b.image)
    | some c => done s (u.bootFail c)
  else if b.st = .loading ∧ b.flash = true then
    match flash with
    | .noAnswer => done s (u.bootFail 7)
    | .bytes data =>
      match imageFault u.fuses true (flashImage data) with
      | none => done s (u.bootPass (flashImage data))
      | some c => done s (u.bootFail c)
  else if b.st = .loading ∧ b.complete = true then
    match imageFault u.fuses b.inOrder b.image with
    | none => done s (u.bootPass b.image)
    | some c => done s (u.bootFail c)
  else done s u

/-- The boot ring takes a new image from the host (R355, R453). -/
def State.bootRingStart (s : State) : State :=
  { s with boot := { s.boot with image := [], inOrder := true, complete := false } }

/-- BOOT_ENTRY (R355, R451): the device takes the next entry of the BOOT ring. -/
def execBootEntry (e : BootEntry) (s : State) : Out :=
  let b := s.boot
  let r := s.ring 0
  let host := b.src = 0 ∨ (b.src = 3 ∧ b.flash = false)
  if r.isRunning kBoot && decide (0 < r.filled) && decide host && !b.complete && decide (b.rcvStatus ≠ 1) &&
      decide (b.st = .waitImage ∨ b.st = .loading ∨ b.st = .authFail) then
    let im := if b.st = BootSt.loading then b.image else []
    let n := e.data.length
    let sized := decide (n ≤ r.bufSize - 16) && (e.last || (decide (16 ≤ n) && n % 16 == 0))
    let u := { s with boot := { b with
      st := .loading, image := im ++ e.data, complete := e.last,
      inOrder := (if b.st = BootSt.loading then b.inOrder else true) && e.offset == im.length && sized } }
    done s (u.releaseEntry 0)
  else done s s

/-! ## The recovery window (R406) -/

/-- BOOT reads WAIT_IMAGE, AUTH_FAIL or RECOVERY, and the window is in short-pointer mode: its commands are permitted. -/
def State.rcvAllowed (s : State) : Bool :=
  s.bus.short && decide (s.boot.st = .waitImage ∨ s.boot.st = .authFail ∨ s.boot.st = .recovery)

/-- A recovery command ends; one that comes while another is being decided changes nothing. -/
def State.rcvEnd (s : State) (st : Byte) : State :=
  if s.boot.rcvStatus = 1 then s else { s with boot := { s.boot with rcvStatus := st } }

/-- A chunk ends the image: with it, the image is as long as its header says. -/
def lastChunk (im chunk : List Byte) : Bool :=
  decide (12 ≤ im.length + chunk.length) && im.length + chunk.length == 192 + leAt (im ++ chunk) 8 4

/-- LOAD: RCV_LEN bytes of RCV_DATA join the image at RCV_OFFSET; a length that is no multiple of 16 passes on the last chunk only. -/
def State.rcvLoad (s : State) : State :=
  let b := s.boot
  if !s.rcvAllowed || b.rcvStatus == 1 then s.rcvEnd 6
  else if b.rcvOffset.toNat % 16 ≠ 0 ∨ b.rcvOffset.toNat ≠ b.image.length then s.rcvEnd 3
  else
    let chunk := fitBytes b.rcvLen.toNat (b.rcvData.take b.rcvLen.toNat)
    if b.rcvLen = 0 ∨ 128 < b.rcvLen.toNat ∨ (b.rcvLen.toNat % 16 ≠ 0 ∧ lastChunk b.image chunk = false) then s.rcvEnd 4
    else ({ s with boot := { b with image := b.image ++ chunk } } : State).rcvEnd 2

/-- FINISH: the loaded image is authenticated; RCV_STATUS reads BUSY until that is decided. -/
def State.rcvFinish (s : State) : State :=
  if !s.rcvAllowed || s.boot.rcvStatus == 1 then s.rcvEnd 6
  else ({ s with boot := { s.boot with complete := true, inOrder := true } } : State).rcvEnd 1

/-- ABORT: the loaded image is discarded. -/
def State.rcvAbort (s : State) : State :=
  if !s.rcvAllowed || s.boot.rcvStatus == 1 then s.rcvEnd 6
  else ({ s with boot := { s.boot with image := [], complete := false } } : State).rcvEnd 0

/-- The instant of an event on the management bus; in a test mode the data plane stands still (R464). -/
def State.busAt (s : State) (t : Nat) : State := if s.tap.testing then s else s.advance t

/-- RCV_LOAD (R406). -/
def execRcvLoad (t : Nat) (s : State) : Out := doneBus s (s.busAt t).rcvLoad

/-- RCV_FINISH (R406). -/
def execRcvFinish (t : Nat) (s : State) : Out := doneBus s (s.busAt t).rcvFinish

/-- RCV_ABORT (R406). -/
def execRcvAbort (t : Nat) (s : State) : Out := doneBus s (s.busAt t).rcvAbort

/-! ## READY (R355, R356, R453, R454) -/

/-- No Storyboard is replayed in this start (R405, R455). -/
def State.replaySkipped (s : State) : Bool := s.boot.skipNow || s.fuses.lcState == 3

/-- Neither stored Storyboard passes, where one would be replayed: STATE reads BAD (R384, R385). -/
def State.sbJudge (s : State) : State :=
  if !s.replaySkipped && (s.mram.body idStoryboard).isNone then s.modSb (fun b => { b with st := .bad }) else s

/-- READY: at a tick boundary while the firmware runs, READY rises, vector 0 is signalled, the boot ring ends, MIN_SVN is raised when
the image asks for it. -/
def execReady (s : State) : Out :=
  if s.boot.st = .running ∧ s.boot.ready = false ∧ s.phase = .released ∧ s.flags.halted = false then
    let u := if s.atTick then s else s.advance (alignUp perTick s.now)
    let u := { u with
      boot := { u.boot with ready := true, readyTick := u.tick },
      cal := { u.cal with startup := true } }
    let fuses := { s.fuses with minSvn := if s.boot.commitSvn then max s.fuses.minSvn s.boot.svn else s.fuses.minSvn }
    let u := if (u.ring 0).kind.toNat = kBoot then u.modRing 0 (fun r => { r with st := .disabled, enable := false }) else u
    doneFw s (u.signalVec 0).sbJudge fuses s.tap
  else done s s

end Sys2Proof.Machine
end

