-- ==== Sys2Proof/Machine/Plain.lean ====
section
/-! DEFINITION. The Plain: the compensated words of an aerial input, the transform of every Plain sample, block exponents, and the subband streams of this device and of others (R47, R57, R72 to R76, R305, R316). -/
namespace Sys2Proof.Machine
open Sys2Proof

/-! ## Branch selectors (R80) -/

/-- A branch selector: USE, REMOTE, DEVICE, INPUT. -/
def inUse (v : Nat) : Bool := v.testBit 7
def inRemote (v : Nat) : Bool := v.testBit 6
def inDevice (v : Nat) : Nat := v / 8 % 8
def inInput (v : Nat) : Nat := v % 4

/-- The number under which AheadIn names a branch's input. -/
def inKey (v : Nat) : Nat := if inRemote v then 8 + 4 * inDevice v + inInput v else inInput v

/-- The latest entry for an input at Plain sample `k`. -/
def aheadAt (ahead : List AheadIn) (key k : Nat) : Option AheadIn :=
  (ahead.filter (fun a => a.key == key && decide (a.sample ≤ k))).foldl (fun o a =>
    match o with
    | some b => if b.sample ≤ a.sample then some a else some b
    | none => some a) none

/-! ## Converter words (R57) -/

/-- How far back words are held: 2^25 CK_RF cycles, more than the longest filter reaches. -/
def wordSpan : Nat := 2 ^ 25

/-- Words of converter `c` that begin at CK_RF count `t` are taken; those already taken stay. -/
def State.takeAdc (s : State) (t c : Nat) (ws : List Int) : State :=
  if ws.isEmpty then s
  else s.modConv c (fun r =>
    let fresh := ((indexed t ws).map (fun e => (e.1, satSigned 12 e.2))).filter (fun e => decide (r.wordsTo ≤ e.1) && e.2 != 0)
    { r with words := (r.words ++ fresh).filter (fun e => decide (t < e.1 + wordSpan)), wordsTo := max r.wordsTo (t + ws.length) })

/-- The samples and quality bytes of remote streams are held for 2^15 Plain samples. -/
def heldUpTo (newest k : Nat) : Bool := decide (newest < k + 2 ^ 15)

/-- What remote streams bring is taken (R305). -/
def State.takeRemote (s : State) (quality : List (Nat × Nat × List Byte)) (subs : List SubSample) : State :=
  if quality.isEmpty && subs.isEmpty then s
  else
    let newest := max ((quality.map (fun q => q.2.1)).foldl max 0) ((subs.map SubSample.sample).foldl max 0)
    { s with cas := { s.cas with
      quality := (quality ++ s.cas.quality.filter (fun q => !quality.any (fun x => x.1 == q.1 && x.2.1 == q.2.1))).filter (fun q => heldUpTo newest q.2.1),
      subs := (subs ++ s.cas.subs).filter (fun x => heldUpTo newest x.sample) } }

/-- What arrives for a Pass's block is taken. -/
def State.takeIn (s : State) (i : PassIn) : State :=
  let s := (indexed 0 (i.words.adc.take 5)).foldl (fun s e => s.takeAdc i.words.at_ e.1 e.2) s
  s.takeRemote i.quality i.subs

/-! ## Compensation (R47, R48) -/

/-- The gain state of an input in Plain sample `k`: as it was, as it is decided, or as it comes. -/
def State.gainAt (s : State) (ahead : List AheadIn) (x k : Nat) : Nat × Nat :=
  let r := s.convR x
  match aheadAt ahead x k with
  | some a => (a.lna, a.att)
  | none =>
    match r.nextGain with
    | some (l, a, g) => if g ≤ k then (l, a) else (r.lna, r.att)
    | none => ((r.gains.find? (fun g => decide (g.1 ≤ k))).map Prod.snd).getD (r.lna, r.att)

/-- C in dB: 20 − G. -/
def compDb (lna att : Nat) : Int := 20 - (10 * (lna : Int) - att)

/-- K of a gain state: gain in 0.01 dB and phase in 0.05°, from the factory table. -/
def State.kOf (s : State) (lna att : Nat) : Int × Int :=
  let t := s.cal.factory.getD 6 []
  (t.getD (2 * (31 * lna + att)) 0, t.getD (2 * (31 * lna + att) + 1) 0)

/-- CW: round_half_even(x × 10^(C/20) × K), 21 bits; the phase of K turns the word's contribution to a subband (log 77). -/
def State.compensate (s : State) (lna att : Nat) (x : Int) : Int :=
  let m : Int := roundTen 2000 x.natAbs (100 * compDb lna att + (s.kOf lna att).1)
  satSigned 21 (if x < 0 then -m else m)

/-- The phase of K in 2^-32 turn. -/
def State.kTurn (s : State) (lna att : Nat) : Int := rheDiv ((s.kOf lna att).2 * 2 ^ 32) 7200

/-- The subbands at whose centres the matching pilot's tones lie (R59). -/
def pilotSubbands : List Nat := [625, 730, 833, 938]

/-- The matching pilot at CK_RF count `t` in 2^-20 of a converter step: four tones at -30 dBFS. -/
def pilotAt (t : Nat) : Int :=
  let amp := timesTen 20 (2 ^ 31) (-30)
  rheDiv (((indexed 0 pilotSubbands).map (fun e => (amp : Int) * sinQ 30 ((e.2 * t * 2 ^ 21 : Nat) + Config.pilotPhase e.1))).sum) (2 ^ 30)

/-- The instants in a span at which an input's pilot is on. -/
def State.pilotTimes (s : State) (x a b : Nat) : List Nat :=
  (s.convR x).pilots.flatMap (fun m =>
    let lo := max a (m.start * perSample)
    let hi := match m.stop with | none => b | some e => min b (e * perSample)
    (List.range (hi - lo)).map (fun i => lo + i))

/-- An input of this device is absent at a Plain sample: its Plain stands still (R95). -/
def State.inputAbsent (s : State) (x k : Nat) : Bool := (s.convR x).marks.any (fun m => m.bits == 0 && m.covers k)

/-- The quality byte of a remote origin's input at Plain sample `k`; none where nothing arrived. -/
def State.remoteQuality (s : State) (v k : Nat) : Option Byte :=
  (s.cas.quality.find? (fun q => q.1 == inDevice v && q.2.1 == k)).map (fun q => byteAt q.2.2 (inInput v))

/-- A branch's samples are GAP at Plain sample `k` (R95): INVALID, or the input absent. A remote branch is GAP when its data did
not arrive, or its origin shows INVALID (R319). -/
def State.gapAt (s : State) (ahead : List AheadIn) (v : Nat) (absent : Bool) (k : Nat) : Bool :=
  absent ||
  match aheadAt ahead (inKey v) k with
  | some a => a.gap
  | none =>
    if inRemote v then ((s.remoteQuality v k).map (fun q => q.getLsbD 6)).getD true
    else s.inputAbsent (inInput v) k || (s.qualityAt (inInput v) k).getLsbD 6

/-- The compensated words of an input in [a, b): CK_RF count, CW, and the phase of K. The samples of an absent or INVALID input are zero; the
words come from the converter that carries the input (R58, R72). -/
def State.cwList (s : State) (ahead : List AheadIn) (x a b : Nat) : List (Nat × Int × Int) :=
  let within (c : Nat) := (s.convR c).words.filter (fun e => decide (a ≤ e.1 ∧ e.1 < b))
  let own := within x
  let spare := within 4
  let pil := s.pilotTimes x a b
  let times := distinct (own.map Prod.fst ++ spare.map Prod.fst ++ pil)
  (times.map (fun t =>
    let k := t / perSample
    let from_ := if ((s.qualityAt x k).getLsbD 4) then spare else own
    let w := ((from_.find? (fun e => e.1 == t)).map Prod.snd).getD 0
    let w := if pil.contains t then satSigned 12 (rheDiv (w * 2 ^ 20 + pilotAt t) (2 ^ 20)) else w
    let g := s.gainAt ahead x k
    if s.gapAt ahead x false k then (t, 0, 0) else (t, s.compensate g.1 g.2 w, s.kTurn g.1 g.2))).filter (fun e => e.2.1 != 0)

/-! ## The transform (R72 to R74) -/

/-- The sum of the prototype's 8192 taps, at least 1. -/
def tapSum : Nat := (max 1 (((List.range 8192).map (fun j => Config.prototype ((j : Int) - 4096).natAbs)).sum)).toNat

/-- The denominator of a subband value: its scale gives a sine of amplitude A the magnitude A/4 (R74). -/
def subDen : Nat := 2 * tapSum * 2 ^ 30

/-- Subband `k` at Plain sample `n`, over `subDen`: the words within 4096 cycles, weighted by the prototype and turned by exp(-j2π f_k t). -/
def subSum (cw : List (Nat × Int × Int)) (k n : Nat) : Int × Int :=
  let c := n * perSample
  csum ((cw.filter (fun e => decide (c ≤ e.1 + 4096 ∧ e.1 < c + 4096))).map (fun e =>
    cscale (e.2.1 * Config.prototype ((e.1 : Int) - c).natAbs) (turn 30 (e.2.2 - (k * e.1 * 2 ^ 21 : Nat)) (1, 0))))

/-! ## Block exponents (R75, R78) -/

/-- The exponent of a group of complex values given over a denominator, and true when 15 is not enough. -/
def blockExp (den : Nat) (vs : List (Int × Int)) : Nat × Bool :=
  let fits (e : Nat) : Bool := vs.all (fun v =>
    let a := rheDiv (v.1 * 256) (den * 2 ^ e)
    let b := rheDiv (v.2 * 256) (den * 2 ^ e)
    decide (-2048 ≤ a ∧ a ≤ 2047 ∧ -2048 ≤ b ∧ b ≤ 2047))
  match (List.range 16).find? fits with
  | some e => (e, false)
  | none => (15, true)

/-- A mantissa: rounded half to even, saturated. -/
def mantissa (den e : Nat) (v : Int) : Int := satSigned 12 (rheDiv (v * 256) (den * 2 ^ e))

/-- A group of values with one exponent: the exponent, the mantissas, and true for OVER. -/
def floatBlock (den : Nat) (vs : List (Int × Int)) : Nat × List (Int × Int) × Bool :=
  let e := blockExp den vs
  (e.1, vs.map (fun v => (mantissa den e.1 v.1, mantissa den e.1 v.2)), e.2)

/-- Values at CK_RF counts, in units of 2^-8; a count that is not listed has the value zero. -/
abbrev Sig := List (Nat × Int × Int)

/-- The samples of a signal that are not zero. -/
def sigOf (ts : List Nat) (e : Nat) (ms : List (Int × Int)) : Sig :=
  ((ts.zip ms).map (fun x => (x.1, cscale (2 ^ e) x.2))).filter (fun x => x.2 != (0, 0))

/-- A stage boundary: the values of one Plain frame rounded to 12-bit mantissas under one exponent (R78). -/
def boundary (den : Nat) (ts : List Nat) (val : Nat → Int × Int) : Sig :=
  let b := floatBlock den (ts.map val)
  sigOf ts b.1 b.2.1

/-! ## Subband streams -/

/-- The Plain samples of a frame. -/
def frameSamples (f : Nat) : List Nat := (List.range 64).map (fun i => f * 64 + i)

/-- A subband of an input of this device over Plain frame `f`: exponent and 64 mantissas (R75). -/
def State.plainFrame (s : State) (ahead : List AheadIn) (x k f : Nat) : Nat × List (Int × Int) :=
  let cw := s.cwList ahead x (f * perFrame - 4096) ((f + 1) * perFrame + 4096)
  if cw.isEmpty then (0, List.replicate 64 (0, 0))
  else let b := floatBlock subDen ((frameSamples f).map (subSum cw k)); (b.1, b.2.1)

/-- δ of an origin at Plain sample `n` (R316). -/
def State.deltaAt (s : State) (device n : Nat) : Int :=
  ((s.cas.deltas.find? (fun d => d.1 == device && decide (d.2.1 ≤ n))).map (fun d => d.2.2)).getD 0

/-- How far the fractional delay reaches: 8 Plain samples, in 1/64 CK_RF cycle. -/
def fracReach : Nat := 8 * 65536

/-- A remote subband at this device's Plain sample `n`, re-timed by δ with the phase term of its centre frequency (R316), rounded to the scale of
the selection (R77). -/
def State.retimed (s : State) (v k : Nat) (xs : List SubSample) (n : Nat) : Int × Int :=
  let d := s.deltaAt (inDevice v) n
  let near := xs.map (fun x => (((n : Int) - x.sample) * 65536 - d, x.val))
  let y := csum ((near.filter (fun e => decide (e.1.natAbs ≤ fracReach))).map (fun e => cscale (Config.fracDelay e.1.natAbs) e.2))
  cround (2 ^ 47) (turn 30 (-((k : Int) * d * 2 ^ 15)) y)

/-- A remote subband over Plain frame `f`: exponent and 64 mantissas. -/
def State.remoteFrame (s : State) (v k f : Nat) : Nat × List (Int × Int) :=
  let mine := s.cas.subs.filter (fun x => x.device == inDevice v && x.input == inInput v && x.subband == k)
  if mine.isEmpty then (0, List.replicate 64 (0, 0))
  else let b := floatBlock 256 ((frameSamples f).map (s.retimed v k mine)); (b.1, b.2.1)

/-- A subband stream of a branch over Plain frame `f` (R72, R80). -/
def State.subFrame (s : State) (ahead : List AheadIn) (v k f : Nat) : Nat × List (Int × Int) :=
  if inRemote v then s.remoteFrame v k f else s.plainFrame ahead (inInput v) k f

/-- A subband stream of a branch over Plain frames `a` to `b`, nothing before Plain sample `s0` (R93). -/
def State.subSig (s : State) (ahead : List AheadIn) (v k s0 a b : Nat) : Sig :=
  (List.range (b + 1 - a)).flatMap (fun j =>
    let o := s.subFrame ahead v k (a + j)
    (sigOf ((frameSamples (a + j)).map (· * perSample)) o.1 o.2).filter (fun e => decide (s0 * perSample ≤ e.1)))

end Sys2Proof.Machine
end

