-- ==== Sys2Proof/Machine/Chain.lean ====
section
/-! DEFINITION. The Passes: their derived quantities and checks, and the chain of a branch from the subbands to the channel filter (R77 to R90). -/
namespace Sys2Proof.Machine
open Sys2Proof

/-! ## Derived quantities (R81 to R88) -/

/-- The fields in effect of a Pass. -/
def State.passBlk (s : State) (p : Nat) : Blk := (s.life ⟨.pass, p⟩).cur

/-- The class of a Pass: 0 DATA, 1 AUDIO_FM, 2 AUDIO_AM, 3 RAW. -/
def passClass (b : Blk) : Nat := fget b psClass

/-- NSB of R80: the subbands of each branch. -/
def passNsb (b : Blk) : Nat := fget b psNsb + 1

/-- A row of the ROM table (R87): D_f, the one-sided pass-band and stop-band edges in 1e-4 of the output rate, attenuation in dB, ripple in
0.001 dB, and the group delay in output samples. -/
structure RomRow where
  df : Nat
  fp : Nat
  fs : Nat
  atten : Nat
  ripple : Nat
  delay : Nat
  deriving DecidableEq, Repr

/-- The responses 0x05 to 0x1F, and before them SB_SINGLE, SB_LOW, SB_INNER, SB_HIGH and RESAMP, which interpolate by 4 and by 8 ÷ 15: their edges
are those of `subbandEdges` and `resampEdges`, in Hz (R87). -/
def romTable : List RomRow :=
  [⟨4, 0, 0, 90, 10, 24⟩, ⟨4, 0, 0, 90, 10, 24⟩, ⟨4, 0, 0, 90, 10, 24⟩, ⟨4, 0, 0, 90, 10, 24⟩, ⟨15, 0, 0, 90, 10, 32⟩] ++
  [⟨4, 4170, 5830, 100, 5, 48⟩, ⟨3, 4300, 5700, 90, 10, 40⟩, ⟨2, 3650, 6350, 70, 50, 24⟩, ⟨12, 2810, 3750, 100, 5, 24⟩, ⟨8, 2500, 3750, 90, 10, 18⟩, ⟨6, 2500, 4060, 70, 50, 8⟩] ++
  [⟨1, 3760, 4610, 70, 10, 64⟩, ⟨1, 3760, 5000, 50, 50, 24⟩, ⟨2, 3910, 6090, 85, 10, 32⟩, ⟨2, 1590, 2500, 90, 10, 40⟩, ⟨2, 1625, 2500, 90, 10, 32⟩, ⟨1, 4200, 4800, 60, 10, 48⟩, ⟨1, 3000, 4000, 80, 10, 32⟩] ++
  [⟨1, 5000, 0, 0, 0, 0⟩, ⟨2, 4000, 6000, 90, 10, 40⟩, ⟨2, 3000, 5000, 90, 10, 32⟩, ⟨2, 2000, 3500, 90, 10, 32⟩, ⟨2, 1000, 2000, 90, 10, 48⟩, ⟨2, 500, 1000, 90, 10, 64⟩, ⟨4, 4000, 6000, 90, 10, 40⟩] ++
  [⟨4, 2500, 4000, 90, 10, 32⟩, ⟨4, 1000, 2000, 90, 10, 40⟩, ⟨4, 500, 1000, 90, 10, 64⟩, ⟨8, 4000, 6000, 90, 10, 40⟩, ⟨8, 1000, 2000, 90, 10, 48⟩, ⟨2, 4000, 6000, 60, 50, 12⟩, ⟨4, 4000, 6000, 60, 50, 12⟩]

/-- Pass-band edge, stop-band edge and the crossover's transition about the subband centre, in Hz (R87). -/
def subbandEdges : Nat × Nat × Nat × Nat := (300000, 660000, 180000, 300000)
/-- Pass-band and stop-band edge of RESAMP, in Hz. -/
def resampEdges : Nat × Nat := (1000000, 1048000)

/-- The response that stitching gives to subband `j` of a set of `n` (R87). -/
def stitchCode (n j : Nat) : Nat := if n = 1 then 0 else if j = 0 then 1 else if j + 1 = n then 3 else 2

/-- D_f, the pass-band edge and the delay of a response that a channel filter can take. -/
def romResp (code : Nat) : Nat × Nat × Nat :=
  match romTable[code]? with
  | some r => if code < 5 then (1, 0, 0) else (r.df, r.fp, r.delay)
  | none => (1, 0, 0)

/-- The response code in use (R85, R86). -/
def passResp (b : Blk) : Nat :=
  match passClass b with
  | 0 => fget b psResp
  | 1 => 5 + fget b psTake
  | _ => 8 + fget b psTake

/-- The output period P in CK_RF cycles (R85, R86, R91). -/
def passP (b : Blk) : Nat :=
  match passClass b with
  | 0 => 480 * 2 ^ fget b psRateK
  | 1 => match fget b psTake with | 0 => 5120 | 1 => 3840 | _ => 2560
  | 2 => match fget b psTake with | 0 => 61440 | 1 => 40960 | _ => 30720
  | _ => 1024

/-- The CIC decimation M (R85, R86). -/
def passM (b : Blk) : Nat :=
  match passClass b with
  | 0 => fget b psCicLen + 1 | 1 => 5 | 2 => 20 | _ => 1

/-- The total delay D of R88 as D × P in CK_RF cycles; 0 for RAW. -/
def passDP (b : Blk) : Nat :=
  match passClass b with
  | 3 => 0
  | 0 => 6144 + 15360 + 3 * (passM b - 1) * 240 + (romResp (passResp b)).2.2 * passP b
  | _ => 6144 + 3 * (passM b - 1) * 128 + (romResp (passResp b)).2.2 * passP b

/-- SETTLE_N (R93); for RAW it is 0 (R83). -/
def passSettle (b : Blk) : Nat :=
  if passClass b = 3 then 0
  else ceilDiv (2 * passDP b) (passP b) + (if fget b psDcbK = 0 then 0 else 4 * 2 ^ fget b psDcbK)

/-- The rota skew of Pass `p` in CK_RF cycles; RAW samples have none (R91). -/
def passSkew (p : Nat) (b : Blk) : Nat := if passClass b = 3 then 0 else 8 * p

/-- The first output sample whose instant lies at or after a CK_RF count. -/
def passFirst (p : Nat) (b : Blk) (t : Nat) : Nat := ceilDiv (t - passSkew p b) (passP b)

/-- The instant c(m) (R91). -/
def passInstant (p : Nat) (b : Blk) (m : Nat) : Nat := m * passP b + passSkew p b

/-- The selectors of the present branches, in order. -/
def passIns (b : Blk) : List Nat := ((List.range 4).map (fun n => fget b (psIn n))).filter inUse

/-- Input D works in L-band mode (R54). -/
def State.lband (s : State) : Bool := fbit (s.life ⟨.conv, 3⟩).blk cvLband

/-- A branch takes input D of this device while it is in L-band mode. -/
def State.onLband (s : State) (b : Blk) : Bool := s.lband && (passIns b).any (fun v => !inRemote v && inInput v == 3)

/-- f_IF in units of TUNE, in which 480 kHz is 2^21 and 1302 MHz is 5425 × 2^20 (R81). -/
def passIf (lband : Bool) (b : Blk) : Int := (fget b psTune : Int) - (if lband then 5425 * 2 ^ 20 else 0)

/-- k0 (R81). -/
def passK0 (lband : Bool) (b : Blk) : Nat :=
  (max 0 (rheDiv (2 * passIf lband b - (fget b psNsb : Int) * 2 ^ 21) (2 ^ 22))).toNat

/-- The protected band lies within the span and within 0.1 MHz to 245 MHz (R82); in units of Hz × 2^32 × 10^4. -/
def passBandOk (lband : Bool) (b : Blk) : Bool :=
  let hz (x : Int) : Int := x * 2 ^ 32 * 10000
  let rate : Nat := 983040000 / passP b
  let reach : Int := ((romResp (passResp b)).2.1 * rate + 10000 * 10000 : Nat) * 2 ^ 32
  let f : Int := passIf lband b * 983040000 * 10000
  let k0 : Int := passK0 lband b
  let lo : Int := hz (k0 * 480000 - 300000)
  let hi : Int := hz ((k0 + fget b psNsb) * 480000 + 300000)
  decide (lo ≤ f - reach ∧ f + reach ≤ hi ∧ hz 100000 ≤ f - reach ∧ f + reach ≤ hz 245000000)

/-- A power of two from 1 to 64. -/
def pow2To64 (m : Nat) : Bool := [1, 2, 4, 8, 16, 32, 64].contains m

/-- The branch rules of R80 and R56. -/
def State.passInsOk (s : State) (b : Blk) : Bool :=
  let n := (passIns b).length
  let used := (List.range 4).map (fun i => inUse (fget b (psIn i)))
  let names := (passIns b).map (fun v => (if inRemote v then inDevice v else if s.cas.st = .member then s.cas.self else 8, inInput v))
  decide (1 ≤ n) && used == (List.replicate n true ++ List.replicate (4 - n) false) && decide (distinct names = names) &&
  !(s.onLband b && decide (1 < n))

/-- FINE is in range (R97). -/
def fineOk (b : Blk) : Bool := decide ((signedOf 24 (fget b psFine)).natAbs ≤ 43690)

/-- Every check of PASS_SET on a Pass block, in the order of the block (R80 to R83, R86, R97, R98). -/
def State.passChecks (s : State) (b : Blk) : List (Field × Bool) :=
  let data := passClass b == 0
  let l := s.onLband b
  let d := (romResp (fget b psResp)).1
  let respOk := !data || decide (0x0B ≤ fget b psResp)
  let cicOk := !data || pow2To64 (passM b)
  [(psTune, decide (passK0 l b + fget b psNsb ≤ 1023) &&
      (passClass b == 3 || badCode b psTake || !respOk || passBandOk l b)),
   (psTake, !badCode b psTake),
   (psRateK, !data || !respOk || !cicOk || passM b * d == 2 ^ fget b psRateK),
   (psResp, respOk), (psCicLen, cicOk), (psDcbK, !badCode b psDcbK), (psIn 0, s.passInsOk b), (psFine, fineOk b)]

/-- The bits of a Pass block that are not reserved: those of the table but bit 2 of each selector. -/
def passMask : Blk := tableMask 1280 passFields &&& ~~~ BitVec.ofNat 1280 (2 ^ 66 + 2 ^ 74 + 2 ^ 82 + 2 ^ 90)

/-- Streams charged to the budget of R12. -/
def passStreams (b : Blk) : Nat := passNsb b * (passIns b).length

/-- A branch is remote. -/
def passRemote (b : Blk) : Bool := (passIns b).any inRemote

/-- REMOTE_DELAY: two Plain frames (R307). -/
def remoteDelay : Nat := 2 * perFrame

/-- What fixes a Pass's LATENCY: class, Take or RATE_K, RESP and CIC_LEN, remote branches (R489). -/
def latencyKey (b : Blk) : Nat :=
  let c := passClass b
  let own := match c with
    | 0 => (fget b psRateK * 32 + fget b psResp) * 64 + fget b psCicLen
    | 3 => 0
    | _ => fget b psTake
  (own * 4 + c) * 2 + bit (passRemote b)

/-- LATENCY in ns: what the device reports, never more than the sum of R489. -/
def passLatencyNs (b : Blk) : Nat :=
  let most := 2048 + 4096 + 5 * perFrame + passDP b + (if passRemote b then remoteDelay else 0) + 2048
  min (nsOfCycles most) (Config.passLatency (latencyKey b))

/-! ## The chain of a branch (R77, R84, R87, R88, R93) -/

/-- The coefficient of a response at a distance in CK_RF cycles from its centre, 18 bits in units of 2^-17. SB_LOW and SB_HIGH, whose two edges
differ, mirror each other about the subband centre; GEN1_THRU is the unit impulse. -/
def romCoef (code : Nat) (d : Int) : Int × Int :=
  let c (k : Nat) : Int := satSigned 18 (Config.rom k d.natAbs)
  let skew : Int := satSigned 18 (Config.romSkew 1 d.natAbs) * d.sign
  match code with
  | 0x12 => if d = 0 then (2 ^ 17, 0) else (0, 0)
  | 1 => (c 1, skew)
  | 3 => (c 1, -skew)
  | k => (c k, 0)

/-- A filter's value at an instant: the sum over the samples within its reach. -/
def firAt (h : Int → Int × Int) (reach : Nat) (x : Sig) (t : Nat) : Int × Int :=
  csum ((x.filter (fun e => decide (e.1 ≤ t + reach ∧ t ≤ e.1 + reach))).map (fun e => cmul (h ((t : Int) - e.1)) e.2))

/-- The instants of Plain frame `f` on a grid. -/
def gridIn (step off f : Nat) : List Nat :=
  let o := off % step
  let a := f * perFrame
  let first := alignUp step (a + step - o) + o - step
  (List.range (perFrame / step + 1)).map (fun i => first + step * i) |>.filter (fun t => decide (t < a + perFrame))

/-- The phase of the NCO at a CK_RF count in 2^-32 turn: `base` and FINE, continuous over the changes of FINE, exact from the origin for the first
value of the run (R84). -/
def ncoPhase (base : Int) : List (Nat × Int) → Nat → Int
  | [], t => base * t
  | [(_, f)], t => (base + f) * t
  | (b, f) :: older, t => if t < b then ncoPhase base older t else ncoPhase base older b + (base + f) * (t - b : Nat)

/-- A value times exp(-j2π phase), with the 20-bit table address and the 18-bit sine and cosine of R77; the product is in 2^-17 of the unit. -/
def ncoTurn (phase : Int) (v : Int × Int) : Int × Int :=
  let a := phase % 2 ^ 32 / 2 ^ 12 * 2 ^ 12
  let c := satSigned 18 (cosQ 17 a)
  let n := satSigned 18 (sinQ 17 a)
  cmul (c, -n) v

/-- The frequency of a branch's downconversion less that of the set's centre, without FINE, in units of TUNE (R81, R84). -/
def mixBase (lband : Bool) (b : Blk) : Int := passIf lband b - (2 * (passK0 lband b : Int) + fget b psNsb) * 2 ^ 20

/-- Half a step when the CIC takes an even number of samples: its output then lies between two of its inputs (R88). -/
def cicHalf (b : Blk) (step : Nat) : Nat := if passM b % 2 = 0 then step / 2 else 0

/-- The period at the CIC's input in CK_RF cycles (R85, R86). -/
def cicStep (b : Blk) : Nat := if passClass b = 0 then 480 else 256

/-- The stitched and mixed samples of a branch in Plain frame `f`, after the first boundary. -/
def State.asmFrame (s : State) (ahead : List AheadIn) (p v f : Nat) : Sig :=
  let b := s.passBlk p
  let l := s.onLband b
  let n := passNsb b
  let subs := (List.range n).map (fun j => (j, s.subSig ahead v (passK0 l b + j) (s.life ⟨.pass, p⟩).s0 (f - 1) (f + 1)))
  if subs.all (fun x => x.2.isEmpty) then []
  else
    let off := 8 * p + (if passClass b = 0 then 0 else cicHalf b 256)
    boundary (2 ^ 72) (gridIn 256 off f) (fun t =>
      let parts := subs.map (fun x =>
        let y := firAt (romCoef (stitchCode n x.1)) 6144 x.2 t
        let k2 : Int := 2 * (x.1 : Int) - (fget b psNsb : Nat)
        turn 30 (k2 * t * 2 ^ 20) y)
      ncoTurn (ncoPhase (mixBase l b) (s.passR p).tunes t) (csum parts))

/-- Polynomial product, the coefficients lowest first. -/
def polyMul (a b : List Nat) : List Nat :=
  (List.range (a.length + b.length - 1)).map (fun n => ((List.range (n + 1)).map (fun i => a.getD i 0 * b.getD (n - i) 0)).sum)

/-- The impulse response of three integrator and comb sections of decimation `m`: its sum is m^3 (R77). -/
def cicWeights (m : Nat) : List Nat :=
  let one := List.replicate m 1
  polyMul one (polyMul one one)

/-- The samples of a branch after resampler and CIC in Plain frame `f`, after the second boundary. -/
def State.decFrame (s : State) (ahead : List AheadIn) (p v f : Nat) : Sig :=
  let b := s.passBlk p
  let x := (List.range (if f = 0 then 2 else 3)).flatMap (fun j => s.asmFrame ahead p v (f - 1 + j))
  if x.isEmpty then []
  else
    let m := passM b
    let step := cicStep b
    let w := indexed 0 (cicWeights m)
    let at_ (t : Int) : Int × Int :=
      if t < 0 then (0, 0)
      else if passClass b = 0 then firAt (romCoef 4) 15360 x t.toNat
      else match x.find? (fun e => (e.1 : Int) == t) with
        | some e => cscale (2 ^ 17) e.2
        | none => (0, 0)
    boundary (2 ^ 25 * m ^ 3) (gridIn (m * step) (8 * p) f) (fun t =>
      csum (w.map (fun c => cscale c.2 (at_ ((t : Int) + (c.1 * step : Nat) - 3 * (m - 1 : Nat) * (step / 2 : Nat))))))

/-- How far the channel filter reaches in CK_RF cycles. -/
def chanReach (b : Blk) : Nat := (romResp (passResp b)).2.2 * passP b

/-- A branch's samples after the channel filter, in units of 2^-25, for the output samples `ms` of Plain frame `f`. -/
def State.chanOut (s : State) (ahead : List AheadIn) (p v f : Nat) (ms : List Nat) : List (Int × Int) :=
  let b := s.passBlk p
  let r := chanReach b / perFrame + 1
  let x := (List.range (f + r + 1 - (f - r))).flatMap (fun j => s.decFrame ahead p v (f - r + j))
  if x.isEmpty then ms.map (fun _ => (0, 0))
  else ms.map (fun m => firAt (romCoef (passResp b)) (chanReach b) x (passInstant p b m))

/-! ## DC blocker and gain (R89, R90) -/

/-- The DC blocker over a branch's samples in units of 2^-25: its outputs, and its state d of 32 bits in units of 2^-13 (R77). -/
def dcBlock (k : Nat) (freeze : Bool) : Int → List Int → List Int × Int
  | d, [] => ([], d)
  | d, x :: xs =>
    let e := x - d * 2 ^ 12
    let d' := if freeze then d else satSigned 32 (d + e / 2 ^ (12 + k))
    let r := dcBlock k freeze d' xs
    (e :: r.1, r.2)

/-- The multiplier of GAIN in units of 2^-24, held to 18 significant bits (R77, R90). -/
def gainMul (g : Int) : Nat :=
  let a := amplitude (4 * g)
  let low := 2 ^ (Nat.log2 a + 1 - 18)
  a / low * low

end Sys2Proof.Machine
end

