-- ==== Sys2Proof/Machine/Timebase.lean ====
section
/-! DEFINITION. The Timebase commands, PTM, the pulse inputs and the Cues (R284 to R303). -/
namespace Sys2Proof.Machine
open Sys2Proof

/-! ## Changes of the Timebase (R284, R285, R318) -/

/-- A Timebase change is announced in the next Clapper by a cascade's master (R318). -/
def State.announce (s : State) (c : TbChange) : State :=
  if s.cas.st = .member ∧ s.cas.self = s.cas.master then { s with cas := { s.cas with announce := some c } } else s

/-- A Cue whose only pulse a step has passed: CUE_MISSED, and the Cue is held (R301). -/
def State.cueMissed (s : State) (n : Nat) (b : Blk) : State :=
  let s := s.slateDet 0x0005 (s.idOf .cue n) (leBytes 6 (bitsAt b.toNat 0 48) ++ leBytes 4 (bitsAt b.toNat 48 32) ++
    leBytes 1 (bitsAt b.toNat 80 8))
  (s.modLife ⟨.cue, n⟩ (fun l => { l with cmd := .held, eff := .held })).modCue n (fun r => { r with next := none })

/-- A running Cue after a step: its next pulse is taken anew from the present instant (R301). -/
def State.cueStepped (s : State) (n : Nat) : State :=
  let b := (s.life ⟨.cue, n⟩).cur
  if s.running .cue n && (s.cueR n).next.isSome then
    if cuePeriod b = 0 then (if cueStart b < s.timeAt s.now then s.cueMissed n b else s)
    else
      let f := cueFirst b (s.cueLeast s.now)
      s.modCue n (fun r => { r with k := f.1, next := some f.2 })
  else s

/-- The counter jumps to a value in 2^-32 ns at the present instant: TB_STEP, LAST_STEP, the Cues (R284, R294, R301). -/
def State.tbJump (s : State) (v kind : Nat) : State :=
  let before := s.t64
  let s := s.tbChange (fun t => t.put v)
  let after := s.t64
  let s := { s with tb := { s.tb with lastStep := after } }
  let s := s.slateAt 0x0006 s.devId (s.timeAt s.now) 0 (leBytes 8 before.toNat ++ leBytes 8 after.toNat ++ leBytes 1 kind)
  (List.range 4).foldl State.cueStepped s

/-- A slew ends at the present Plain-sample boundary: 0 COMPLETE, 1 REPLACED (R285, R294). -/
def State.slewEnds (s : State) (sl : Slew) (cause : Nat) : State :=
  s.slateT 0x0007 s.devId s.now (leBytes 1 cause ++ zeros 7 ++ leBytes 8 (unsignedOf 64 sl.offset) ++
    leBytes 8 (unsignedOf 64 (if cause = 0 then 0 else sl.remain s.index)))

/-- A slew begins with the present Plain sample, and replaces what is left of an earlier one. -/
def State.slewStart (s : State) (offset : Int) (rate : Nat) : State :=
  let s := match s.tb.slew with
    | some sl => s.slewEnds sl (if s.index < sl.ends then 1 else 0)
    | none => s
  s.tbChange (fun t => { t with slew := some ⟨offset, rate, s.index⟩ })

/-- A change of the Timebase at the present instant. -/
def State.tbApply (s : State) (c : TbChange) : State :=
  match c with
  | .set sec ns => ({ s with tb := { s.tb with unset := false } } : State).tbJump ((sec * 10 ^ 9 + ns) * 2 ^ 32) 0
  | .step offset => s.tbJump ((s.tb.total : Int) + offset * 2 ^ 24).toNat 1
  | .slew offset rate => s.slewStart offset rate
  | .freq inc => s.tbChange (fun t => { t with inc := inc })

/-- TB_SLEW_DONE (R284): the Plain-sample boundary at which a slew has added everything. -/
def execTbSlewDone (s : State) : Out :=
  match s.tb.slew with
  | none => done s s
  | some sl =>
    let u := s.advance (sl.ends * perSample)
    done s ((u.slewEnds sl 0).tbChange (fun t => { t with slew := none }))

/-! ## Commands (R302, R303) -/

/-- The device is a cascade member that is not master (R285). -/
def State.subordinate (s : State) : Bool := decide (s.cas.st = .member ∧ s.cas.self ≠ s.cas.master)

/-- A carrier of the device, or of any member of its cascade, is in RUN or WAIT_LO (R285, R318). -/
def State.carriersRun (s : State) : Bool := s.anyCarrier || !s.cas.remoteAir.isEmpty

/-- TB_SET (R284, R302). -/
def cmdTbSet (d : Desc) (s : State) : CmdResult :=
  let sec := d.inlAt 0 6
  let ns := d.inlAt 6 4
  if s.subordinate then s.fail .notPermitted
  else if 999999999 < ns then s.bad 30
  else if s.carriersRun then s.fail .notPermitted
  else ((s.tbApply (.set sec ns)).announce (.set sec ns)).okCmd

/-- The STATUS block of R286 at the present boundary. -/
def State.tbStatus (s : State) : List Byte :=
  let run := match s.tb.slew with | none => false | some sl => decide (s.index < sl.ends)
  let rem := match s.tb.slew with | none => 0 | some sl => sl.remain s.index
  let rate := match s.tb.slew with | none => 0 | some sl => if run then sl.rate else 0
  leBytes 6 s.tb.sec.toNat ++ leBytes 4 s.tb.ns.toNat ++ leBytes 4 s.tb.frac.toNat ++ zeros 2 ++ leBytes 8 s.tb.inc.toNat ++
  leBytes 8 (unsignedOf 64 rem) ++ leBytes 4 rate ++
  leBytes 1 (bit s.tb.unset + 2 * bit run + 4 * bit s.clk.holdover + 8 * bit s.drift) ++ zeros 3 ++ leBytes 8 s.tb.lastStep.toNat

/-- TB_INC at reset, and an INC within ±1000 ppm of it (R303). -/
def incReset : Nat := 0x0000000411AAAAAB
def incOk (inc : Nat) : Bool := decide ((inc - incReset + (incReset - inc)) * 1000 ≤ incReset)

/-- TB_ADJ (R284 to R286, R302, R303). -/
def cmdTbAdj (d : Desc) (s : State) : CmdResult :=
  let mode := d.inlByte 0
  let offset := signedOf 64 (d.inlAt 4 8)
  let rate := d.inlAt 12 4
  let inc := d.inlAt 16 8
  if mode ≠ 3 ∧ s.subordinate = true then s.fail .notPermitted
  else if 3 < mode then s.bad 24
  else if mode = 0 then
    if s.carriersRun then s.fail .notPermitted
    else ((s.tbApply (.step offset)).announce (.step offset)).okCmd
  else if mode = 1 then
    if 256000000000 < offset.natAbs then s.bad 28
    else if rate < 1 ∨ 10000 < rate then s.bad 36
    else ((s.tbApply (.slew offset rate)).announce (.slew offset rate)).okCmd
  else if mode = 2 then
    if !incOk inc then s.bad 40
    else ((s.tbApply (.freq (BitVec.ofNat 64 inc))).announce (.freq (BitVec.ofNat 64 inc))).okCmd
  else if d.plen.toNat < 48 then s.bad 12
  else s.okData d s.tbStatus

/-! ## Timestamp points (R288 to R290) -/

/-- F + DELAY of a point, and the part of ASYM for a falling edge, in 1/256 ns (R289). -/
def State.pointF (s : State) (p : Nat) : Int := Config.pointDelay p s.health.tjMax 0
def State.pointDelay (s : State) (p : Nat) : Int := signedOf 24 (fget s.tb.profile (tpDelay p))
def State.pointAsym (s : State) (p : Nat) : Int := signedOf 16 (fget s.tb.profile (tpAsym p))

/-- The Timebase value in 1/256 ns of a pin input's edge captured at `sub`/64 CK_RF cycle after `t`. -/
def State.pinTime (s : State) (p t sub : Nat) (falling : Bool) : Nat :=
  let c : Int := s.pointF p + s.pointDelay p + (if falling then s.pointAsym p else 0)
  (rheDiv ((s.time40 t sub : Int) - c * 2 ^ 32) (2 ^ 32)).toNat

/-- The identifier of a timestamp point without an object (R291). -/
def pointId (p : Nat) : Id := BitVec.ofNat 32 (0xFF000000 + p)

/-! ## PTM (R287) -/

/-- PTM_DIALOG_START, in every tick whose number 2^PTM_PERIOD divides: t1 is taken, referred to the balls. -/
def execPtmDialogStart (t : Nat) (s : State) : Out :=
  let u := s.advance t
  if fget u.tb.profile tpPtmPeriod ≠ 0 ∧ u.tb.ptmEnabled = true ∧ u.boot.ready = true ∧ u.tb.ptmT1 = none ∧
      u.tick % 2 ^ fget u.tb.profile tpPtmPeriod = 0 then
    let t1 := ((u.timeAt u.now : Int) + u.pointF 18).toNat
    done s { u with tb := { u.tb with ptmT1 := some (t1, u.now), ptmDialogs := (u.tb.ptmDialogs + 1) % 2 ^ 32 } }
  else done s u

/-- PTM_RESPONSE: the pair is delivered as the slate PTM with the time t1 (R287, R294). -/
def execPtmResponse (t : Nat) (master : Word64) (prop : Word32) (s : State) : Out :=
  let u := s.advance t
  match u.tb.ptmT1 with
  | none => done s u
  | some (t1, _) =>
    let t4 := ((u.timeAt u.now : Int) - u.pointF 18).toNat
    let u := { u with tb := { u.tb with ptmT1 := none } }
    done s (u.slateAt 0x0008 (pointId 18) t1 0 (leBytes 8 master.toNat ++ leBytes 4 prop.toNat ++ zeros 4 ++
      leBytes 8 (t4 - t1) ++ leBytes 4 u.tb.ptmDialogs))

/-- PTM_TIMEOUT: no response within 1 ms. -/
def execPtmTimeout (t : Nat) (s : State) : Out :=
  let u := s.advance t
  match u.tb.ptmT1 with
  | none => done s u
  | some (_, at_) =>
    if at_ + 983040 ≤ u.now then
      done s (({ u with tb := { u.tb with ptmT1 := none } } : State).addDaily 0x0008 sevInfo u.devId
        (leBytes 4 u.tb.ptmDialogs) u.now)
    else done s u

/-! ## Pulse inputs (R295 to R298) -/

def State.pulse (s : State) (i : Nat) : PulseIn := (s.pulses[i]?).getD PulseIn.reset
def State.modPulse (s : State) (i : Nat) (f : PulseIn → PulseIn) : State := { s with pulses := modAt i f s.pulses }

/-- A handshake: 8 CK_CORE cycles. -/
def handshake : Nat := 32

/-- The end of a burst: its slate; a ONCE input is disarmed; a PPS slate ends a gap (R295 to R298). -/
def State.burstEnd (s : State) (i : Nat) (b : Burst) : State :=
  let rem := b.time % 256000000000
  let dist : Int := if 2 * rem ≤ 256000000000 then (rem : Int) else (rem : Int) - 256000000000
  let off := if i = 0 then unsignedOf 32 (satSigned 32 dist) else 0
  let s := s.slateAt (i + 1) (pointId (5 + i)) b.time (b.qual + 16 * bit (decide (1 < b.total)) + 32 * bit b.overflow)
    (leBytes 2 (satU 16 b.total) ++ leBytes 1 (bit b.falling) ++ zeros 1 ++ leBytes 4 off)
  let s := s.modPulse i (fun p => { p with
    burst := none, mode := if p.mode = 1 then 0 else p.mode, lastPps := t64Of256 b.time, lastAt := s.now, gapRaised := false })
  if i = 0 then s.setCond fPpsLost false else s

/-- A handshake of the present burst ends; the next one starts when edges were counted, else the burst ends. -/
def State.handshakeStep (s : State) (i : Nat) : State :=
  match (s.pulse i).burst with
  | none => s
  | some b =>
    if b.now = 0 then s.burstEnd i b
    else s.modPulse i (fun p => { p with burst := some { b with now := 0, ends := b.ends + handshake } })

/-- The handshakes that end up to the present instant. -/
def State.pulseSettle (s : State) (i : Nat) : State :=
  let past (s : State) : Bool := match (s.pulse i).burst with | none => false | some b => decide (b.ends ≤ s.now)
  let s := if past s then s.handshakeStep i else s
  if past s then s.handshakeStep i else s

/-- The edge selected by EDGE: 0 RISING, 1 FALLING, 2 BOTH (R297). -/
def edgeActive (edge : BitVec 2) (falling : Bool) : Bool := edge == 2 || (edge == 1 && falling) || (edge == 0 && !falling)

/-- An edge that no slate will describe extends the burst that is ignored. -/
def ignoreNext (old : Option Nat) (t : Nat) : Nat :=
  match old with
  | none => t + handshake
  | some e => if e ≤ t then t + handshake else if e - t ≤ handshake then e + handshake else e

/-- PULSE_EDGE (R295, R297). -/
def execPulseEdge (t sub input : Nat) (falling : Bool) (s : State) : Out :=
  if 3 ≤ input then done s s
  else
    let u := (s.advance t).pulseSettle input
    let p := u.pulse input
    let inside := match p.ignoring with | none => false | some e => decide (u.now < e)
    match p.burst with
    | some b =>
      if p.mode ≠ 0 ∧ edgeActive p.edge falling = true then
        let b' : Burst := if b.now < 15 then { b with now := b.now + 1, total := satU 16 (b.total + 1) }
          else { b with overflow := true }
        done s (u.modPulse input (fun p => { p with burst := some b' }))
      else done s u
    | none =>
      if p.mode = 0 ∨ (inside = true ∧ edgeActive p.edge falling = true) then
        done s (u.modPulse input (fun p => { p with ignoring := some (ignoreNext p.ignoring u.now) }))
      else if edgeActive p.edge falling then
        done s (u.modPulse input (fun p => { p with
          ignoring := none,
          burst := some ⟨u.pinTime (5 + input) u.now sub falling, falling, u.qualNow, 1, 0, u.now + handshake, false⟩ }))
      else done s u

/-- HANDSHAKE_END (R295, R296). -/
def execHandshakeEnd (input : Nat) (s : State) : Out :=
  match (s.pulse input).burst with
  | none => done s s
  | some b => done s ((s.advance b.ends).handshakeStep input)

/-- 1.1 s in CK_RF cycles (R298). -/
def ppsGap : Nat := 1081344000

/-- PPS_MISSING (R298): a gap of 1.1 s with no burst while PPS_IN is armed EVERY with SUPERVISE. -/
def execPpsMissing (t : Nat) (s : State) : Out :=
  let u := s.advance t
  let p := u.pulse 0
  if p.mode = 2 ∧ p.supervise = true ∧ p.gapRaised = false ∧ p.burst = none ∧ p.lastAt + ppsGap ≤ u.now then
    let u := u.modPulse 0 (fun p => { p with gapRaised := true })
    done s ((u.setCond fPpsLost true).slateDet 0x0009 (pointId 5)
      (leBytes 8 p.lastPps.toNat ++ leBytes 4 (satU 32 ((u.now - p.lastAt) / 983040))))
  else done s u

/-- SLATE_ARM (R297): the arming takes effect at the tick boundary of the take-up. -/
def cmdSlateArm (d : Desc) (s : State) : CmdResult :=
  let i := d.inlByte 0
  let mode := d.inlByte 1
  let edge := d.inlByte 2
  let sup := (d.inlByte 3).testBit 0
  if 3 ≤ i then s.bad 24
  else if 3 ≤ mode then s.bad 25
  else if 3 ≤ edge then s.bad 26
  else if sup && i != 0 then s.bad 27
  else
    let s := s.modPulse i (fun p => { p with
      mode := BitVec.ofNat 2 mode, edge := BitVec.ofNat 2 edge, supervise := sup, lastPps := 0, lastAt := s.now,
      gapRaised := false })
    (if i = 0 ∧ (mode = 0 ∨ sup = false) then s.setCond fPpsLost false else s).okCmd

/-! ## Cues (R299 to R301) -/

/-- The checks of CUE_SET's fields (R300, R302): the byte of the first that fails. -/
def cueBad (b : Blk) : Option Nat :=
  if 999999999 < bitsAt b.toNat 48 32 then some 6
  else if cuePeriod b ≠ 0 ∧ cuePeriod b < 200 then some 12
  else if cueWidth b < 10 ∨ (cuePeriod b ≠ 0 ∧ cuePeriod b - 100 < cueWidth b) then some 16
  else none

/-- The fields of CUE_SET's block that are not reserved. -/
def cueMask : BitVec 224 := BitVec.ofNat 224 (2 ^ 90 - 1 + (2 ^ 192 - 2 ^ 96))

/-- CUE (R301): the next pulse of a running Cue reaches its scheduled instant. -/
def execCue (n : Nat) (s : State) : Out :=
  match (s.cueR n).next with
  | none => done s s
  | some v =>
    let u := s.advance (s.cycleOf v)
    let b := (u.life ⟨.cue, n⟩).cur
    let r := u.cueR n
    if u.running .cue n && r.next == some v then
      let last := cuePeriod b = 0 ∨ (cueCount b ≠ 0 ∧ cueCount b ≤ r.emitted + 1)
      let u := if (cueFlags b).testBit 1 then
          u.slateAt 0x0004 (u.idOf .cue n) v (128 * bit (decide last)) (leBytes 8 r.k) else u
      done s (u.modCue n (fun r => { r with
        k := r.k + 1, emitted := r.emitted + 1, next := if last then none else some (v + cuePeriod b * 256),
        pulseEnd := some (u.now + cyclesOfNs (cueWidth b)), lastDone := decide last }))
    else done s u

/-- CUE_WIDTH_END (R299): the inactive edge; after the last pulse the Cue is HELD at the next Plain-frame boundary. -/
def execCueWidthEnd (n : Nat) (s : State) : Out :=
  match (s.cueR n).pulseEnd with
  | none => done s s
  | some e =>
    let u := s.advance e
    let was := (u.cueR n).lastDone
    let u := u.modCue n (fun r => { r with pulseEnd := none, lastDone := false })
    if was && u.running .cue n && (u.life ⟨.cue, n⟩).cmd == .run then
      done s (u.modLife ⟨.cue, n⟩ (fun l => { l with cmd := .held, holdAt := some (alignUp perFrame u.now) })).settle
    else done s u

end Sys2Proof.Machine
end

