-- ==== Sys2Proof/Machine/Passes.lean ====
section
/-! DEFINITION. The output blocks of the Passes with exponents and quality, the settling gate, and captures (R78, R89 to R103). -/
namespace Sys2Proof.Machine
open Sys2Proof

/-! ## Timestamps of RF samples (R289) -/

/-- The rate added per CK_CORE edge at a CK_RF count, in 2^-32 ns. -/
def State.incAt (s : State) (t : Nat) : Int :=
  let e := t / 4
  let a := tbAnchor e (s.now / 4, s.tb.total, s.tb.inc.toNat, s.tb.slew) s.tb.past
  (a.2.2.1 : Int) + (match a.2.2.2 with | none => 0 | some sl => sl.term e)

/-- The Timebase value in 1/256 ns of an RF input's signal at CK_RF count `c` of the Plain's time. -/
def State.rfTime (s : State) (x c : Nat) : Nat :=
  let p := if x = 3 ∧ s.lband = true then 4 else x
  let f := Config.pointDelay p s.health.tjMax ((s.convR x).lna * 32 + (s.convR x).att) + s.pointDelay p
  (rheDiv ((s.time40 c 0 : Int) - 512 * s.incAt c * 256 - f * 2 ^ 32) (2 ^ 32)).toNat

/-- The input that a Pass's timestamps refer to: that of its first branch. -/
def State.passInput (s : State) (p : Nat) : Nat := inInput (fget (s.passBlk p) (psIn 0))

/-- The Timebase value of a Pass's signal at CK_RF count `c`, skew corrected (R91, R293). -/
def State.passTime (s : State) (p c : Nat) : Nat := s.rfTime (s.passInput p) c

/-! ## Blocks (R78, R89 to R95) -/

/-- The last CK_RF cycle of Plain frame `f`: the instant at which what frame `f` holds is complete. -/
def frameEnd (f : Nat) : Nat := (f + 1) * perFrame - 1

/-- The quality byte of a branch at Plain sample `k`. -/
def State.branchQuality (s : State) (v k : Nat) : Byte :=
  if inRemote v then (s.remoteQuality v k).getD 0 else s.qualityAt (inInput v) k

/-- A branch has GAP input somewhere between two CK_RF counts; of a remote branch, what has not arrived after Plain frame `f` counts as
data to come (R95). -/
def State.gapBetween (s : State) (ahead : List AheadIn) (v : Nat) (absent : Bool) (f a b : Nat) : Bool :=
  (List.range (b / perSample - a / perSample + 1)).any (fun i =>
    let k := a / perSample + i
    if inRemote v && decide ((f + 1) * 64 ≤ k) && (s.remoteQuality v k).isNone then (aheadAt ahead (inKey v) k).any AheadIn.gap
    else s.gapAt ahead v absent k)

/-- What a block gives for one stream: exponent, quality word, GAP samples, mantissas. -/
structure StreamOut where
  exp : Nat
  qual : Nat
  gaps : List Bool
  mant : List (Int × Int)
  deriving DecidableEq, Repr

/-- One stream of a block of Plain frame `f`: `v` its branch selector, `ms` the delivered samples' numbers, `e` the exponent and `ovr` of the
frame's group, `mant` the mantissas delivered (R94, R95). -/
def State.streamOut (s : State) (ahead : List AheadIn) (f p v : Nat) (absent : Bool) (subband : Nat) (extra : List Nat) (ms : List Nat)
    (e : Nat) (ovr : Bool) (mant : List (Int × Int)) : StreamOut :=
  let b := s.passBlk p
  let r := s.passR p
  let raw := passClass b == 3
  let ks := ms.map (fun m => passInstant p b m / perSample)
  let gaps := (indexed 0 ks).map (fun x => s.gapAt ahead v absent x.2 || extra.contains x.1)
  let w := passDP b + 4096
  let impaired := ((ms.zip gaps).any (fun x => !x.2 &&
    s.gapBetween ahead v absent f (passInstant p b x.1 - w) (passInstant p b x.1 + w)))
  let byte := (distinct ks).foldl (fun (q : Byte) k => q ||| s.branchQuality v k) 0
  let q := byte.toNat % 64 + (byte.toNat / 128) * 128 + 64 * bit (gaps.any id) + 256 * bit ovr + 512 * bit (!r.started) +
    1024 * bit (r.retuneAt == some ((ms.head?.map (passInstant p b)).getD 0 / perFrame)) + 2048 * bit (fbit b psMute) +
    4096 * bit (!raw && fbit b psDcbFreeze) + 8192 * bit (raw && decide (511 ≤ subband)) + 16384 * bit impaired
  ⟨e, q, gaps, mant⟩

/-- The streams of a RAW Pass for the samples `ms` of Plain frame `f`: the Plain's own exponents and mantissas, zeros while MUTE is 1 (R83,
R90). -/
def State.rawStreams (s : State) (ahead : List AheadIn) (p f : Nat) (ms : List Nat) : List (Nat × List (Int × Int) × Bool) :=
  let b := s.passBlk p
  let k0 := passK0 (s.onLband b) b
  (passIns b).flatMap (fun v => (List.range (passNsb b)).map (fun j =>
    if fbit b psMute then (0, ms.map (fun _ => (0, 0)), false)
    else
      let o := s.subFrame ahead v (k0 + j) f
      (o.1, ms.map (fun m => o.2.getD (m - 64 * f) (0, 0)), false)))

/-- The branches of a Pass of another class for the samples `ms` of Plain frame `f`: chain, DC blocker, gain and mute, third boundary; with them the new
states d (R77, R78, R89, R90). -/
def State.chainStreams (s : State) (ahead : List AheadIn) (p f : Nat) (ms : List Nat) :
    List (Nat × List (Int × Int) × Bool) × List (Int × Int) :=
  let b := s.passBlk p
  let k := fget b psDcbK
  let freeze := fbit b psDcbFreeze
  let g := gainMul (signedOf 8 (fget b psGain))
  let outs := (indexed 0 (passIns b)).map (fun e =>
    let xs := s.chanOut ahead p e.2 f ms
    let d := (s.passR p).dcb.getD e.1 (0, 0)
    let run : List (Int × Int) × (Int × Int) :=
      if k = 0 then (xs, (0, 0))
      else
        let i := dcBlock k freeze d.1 (xs.map Prod.fst)
        let q := dcBlock k freeze d.2 (xs.map Prod.snd)
        (i.1.zip q.1, (i.2, q.2))
    (floatBlock (2 ^ 49) (run.1.map (fun y => if fbit b psMute then (0, 0) else cscale g y)), run.2))
  (outs.map Prod.fst, (List.range 4).map (fun j => (outs.map Prod.snd).getD j (0, 0)))

/-- The bytes of one stream's samples in a capture, and whether a value saturated (R102). -/
def capSamples (exp16 : Bool) (refExp : Nat) (o : StreamOut) : List Byte × Bool :=
  if exp16 then
    let conv (m : Int) : Int := if o.exp ≤ refExp then rheDiv m (2 ^ (refExp - o.exp)) else m * 2 ^ (o.exp - refExp)
    let vs := o.mant.map (fun x => (conv x.1, conv x.2))
    (vs.flatMap (fun x => leBytes 2 (unsignedOf 16 (satSigned 16 x.1)) ++ leBytes 2 (unsignedOf 16 (satSigned 16 x.2))),
      vs.any (fun x => x.1 != satSigned 16 x.1 || x.2 != satSigned 16 x.2))
  else (pad4 (o.mant.flatMap (fun x => leBytes 3 (unsignedOf 12 x.1 + 4096 * unsignedOf 12 x.2))), false)

/-- GAP_FIRST and GAP_LEN (R101). -/
def gapSpan (gaps : List Bool) : Nat × Nat :=
  let at_ := ((indexed 0 gaps).filter Prod.snd).map Prod.fst
  match at_.head?, at_.getLast? with
  | some a, some b => (a, b - a + 1)
  | _, _ => (0xFFFF, 0)

/-- The record of a captured block (R101, R102). -/
def capRecord (c : CapRun) (first : Nat) (time : Word64) (outs : List (Nat × StreamOut)) (last : Bool) (seq : Nat)
    (fresh dropped : Bool) : List Byte :=
  let body := outs.map (fun o => capSamples c.exp16 c.refExp o.2)
  let heads := outs.flatMap (fun o =>
    let g := gapSpan o.2.gaps
    leBytes 1 o.2.exp ++ zeros 1 ++ leBytes 2 o.2.qual ++ leBytes 2 g.1 ++ leBytes 2 g.2)
  let data := heads ++ (body.map Prod.fst).flatten
  let fl := bit c.exp16 + 2 * bit fresh + 4 * bit dropped + 8 * bit last + 16 * bit (body.any Prod.snd)
  let n := match outs.head? with | none => 0 | some o => o.2.mant.length
  leBytes 2 (32 + data.length) ++ leBytes 1 1 ++ leBytes 1 fl ++ leBytes 4 c.source.toNat ++ leBytes 8 first ++
  leBytes 8 time.toNat ++ leBytes 2 n ++ leBytes 2 ((outs.map (fun o => 2 ^ o.1)).sum) ++ leBytes 2 seq ++
  leBytes 1 (if c.exp16 then c.refExp else 0) ++ zeros 1 ++ data

/-- A block of Pass `p` copied by one capture (R100 to R103). -/
def State.capture (s : State) (f first : Nat) (time : Word64) (outs : List (Nat × StreamOut)) (i : Nat) : State :=
  let c := s.capR i
  if f < c.first ∨ (c.count ≠ 0 ∧ c.count ≤ c.done) then s
  else
    let last := c.stopping || decide (c.count ≠ 0 ∧ c.count ≤ c.done + 1)
    let mine := outs.filter (fun o => c.streams = 0 ∨ c.streams.testBit o.1)
    let s' := s.putRecord c.ring (capKey i) (capRecord { c with source := s.ownId c.source } first time mine last)
    let wrote := (s'.ring c.ring).dProd != (s.ring c.ring).dProd
    let s' := s'.modCap i (fun c => { c with
      done := c.done + 1, written := if wrote then c.written + 1 else c.written,
      dropped := if wrote then c.dropped else c.dropped + 1, stopping := false })
    if c.stopping then s'.modLife ⟨.cap, i⟩ Life.capHeld else s'

/-- Positions among `n` taken from free values: where an uncorrectable word stood is not stated (R432). -/
def State.freeSlots (s : State) (n : Nat) : Nat → List Nat × State
  | 0 => ([], s)
  | k + 1 =>
    let r := s.fresh
    let rest := r.2.freeSlots n k
    ((if n = 0 then 0 else r.1 % n) :: rest.1, rest.2)

/-- How long a Pass's delivered samples are held for its consumers: 2^30 CK_RF cycles. -/
def outSpan : Nat := 2 ^ 30

/-- The delivered samples added to those that consumers read. -/
def PassRun.deliver (r : PassRun) (b : Blk) (ms : List Nat) (outs : List StreamOut) : List PassSample :=
  if passClass b = 3 then r.out
  else
    let now := (indexed 0 ms).map (fun x => ⟨x.2, outs.map (fun o => cscale (2 ^ o.exp) (o.mant.getD x.1 (0, 0))), outs.map (fun o => o.gaps.getD x.1 true)⟩)
    (r.out.filter (fun x => decide ((ms.head?.getD 0) * passP b < x.m * passP b + outSpan))) ++ now

/-- PASS_BLOCK (R77, R78, R89 to R95, R101): Pass `p` delivers its block for Plain frame `f`. -/
def execPassBlock (f p : Nat) (i : PassIn) (s : State) : Out :=
  let u := (s.advance (frameEnd f)).takeIn i
  let b := u.passBlk p
  let l := u.life ⟨.pass, p⟩
  let start := l.s0 * perSample
  if u.running .pass p && decide (start ≤ frameEnd f) then
    let m0 := passFirst p b (max start (f * perFrame))
    let m1 := passFirst p b ((f + 1) * perFrame)
    let n := m1 - m0
    let gate := passFirst p b start + passSettle b
    let skip := min n (gate - m0)
    let raw := passClass b == 3
    let r := u.passR p
    let all := (List.range n).map (fun j => m0 + j)
    let streams := if raw then (u.rawStreams i.ahead p f all, r.dcb) else u.chainStreams i.ahead p f all
    let u := u.modPass p (fun r => { r with dcb := streams.2, gateOpen := r.gateOpen || decide (gate < m1) })
    if n ≤ skip then done s (u.modPass p (fun r => { r with block := none }))
    else
      let ms := all.drop skip
      let free := u.freeSlots ms.length r.gapNext
      let u := free.2
      let per := if raw then passNsb b else 1
      let outs := (indexed 0 ((List.range (streamsOf b)).map (fun j => streams.1.getD j (0, [], false)))).map (fun x =>
        let v := (passIns b).getD (x.1 / per) 0
        (x.1, u.streamOut i.ahead f p v (i.absent.contains x.1) (passK0 (u.onLband b) b + x.1 % per) free.1 ms x.2.1 x.2.2.2 (x.2.2.1.drop skip)))
      let first := m0 + skip
      let time := t64Of256 (u.passTime p (passInstant p b first))
      let u := (u.capsOf p).foldl (fun s c => s.capture f first time outs c) u
      let qual := outs.foldl (fun q o => q ||| o.2.qual) 0
      let pow (o : StreamOut) : Nat := (o.mant.map (fun m => (m.1 * m.1 + m.2 * m.2).toNat * 2 ^ (2 * o.exp))).sum
      let pows := (List.range 4).map (fun j =>
        let mine := outs.filter (fun o => o.1 / per == j)
        let old := r.powNow.getD j (0, 0)
        (old.1 + (mine.map (fun o => pow o.2)).sum, old.2 + (mine.map (fun o => o.2.mant.length)).sum))
      done s (u.modPass p (fun r => { r with
        started := true, gateOpen := true, block := some (f, outs.map (fun o => ⟨o.2.qual, o.2.gaps⟩)),
        retuneAt := if (match r.retuneAt with | some g => decide (g ≤ f) | none => false) then none else r.retuneAt,
        qualNow := r.qualNow ||| qual, expNow := max r.expNow ((outs.map (fun o => o.2.exp)).foldl max 0), powNow := pows,
        overCnt := if qual.testBit 8 then satU 16 (r.overCnt + 1) else r.overCnt, gapNext := 0,
        out := r.deliver b ms (outs.map Prod.snd),
        past := ((f, b, outs.map (fun o => (⟨o.2.qual, o.2.gaps⟩ : StreamQual))) :: r.past).take 4096 }))
  else done s (u.modPass p (fun r => { r with block := none }))

/-- SETTLE_GATE_OPEN (R93): the instant of the first delivered sample. -/
def execSettleGateOpen (p : Nat) (s : State) : Out :=
  let b := s.passBlk p
  let gate := passFirst p b ((s.life ⟨.pass, p⟩).s0 * perSample) + passSettle b
  if s.running .pass p && !(s.passR p).gateOpen then
    let u := s.advance (passInstant p b gate)
    if u.running .pass p then done s (u.modPass p (fun r => { r with gateOpen := true })) else done s u
  else done s s

/-- CAP_COUNT_END (R101, R103): COUNT blocks have been captured, and the capture goes to HELD. -/
def execCapCountEnd (c : Nat) (s : State) : Out :=
  let r := s.capR c
  if s.running .cap c && decide (r.count ≠ 0 ∧ r.count ≤ r.done) then
    done s (s.modLife ⟨.cap, c⟩ Life.capHeld)
  else done s s

/-- The part of a management tick that closes a Pass's figures over the last tick (R99). -/
def State.tickPasses (s : State) : State :=
  { s with pass := s.pass.map (Obj.withRun (fun r => { r with
      qualTick := r.qualNow, qualNow := 0, expTick := r.expNow, expNow := 0, powNow := [],
      levelTick := (List.range 4).map (fun j =>
        let x := r.powNow.getD j (0, 0)
        if x.2 = 0 then -32768 else if x.1 = 0 then Config.zeroLevel else decibel x.1 (x.2 * 262144 * 65536)) })) }

/-! ## Capture commands (R100, R103) -/

/-- The largest record that a capture of a Pass can produce: 32 bytes, and per stream 8 and its samples padded (R100, R101). -/
def capMost (b : Blk) (streams : Nat) (exp16 : Bool) : Nat :=
  let n := if passClass b = 3 then 64 else ceilDiv perFrame (passP b)
  32 + streams * (8 + (if exp16 then 4 * n else (3 * n + 3) / 4 * 4))

/-- CAP_START (R100). -/
def cmdCapStart (d : Desc) (s : State) : CmdResult :=
  let c := idIdx d.object
  let src : Id := BitVec.ofNat 32 (d.inlAt 0 4)
  let streams := d.inlAt 4 2
  let ring := d.inlByte 8
  let mode := d.inlByte 9
  let idx := d.inlAt 16 8
  let exp16 := (d.inlByte 6).testBit 0
  let inWindow := decide (s.index ≤ idx ∧ idx ≤ s.index + 2 ^ 26)
  match s.refOf src with
  | some ⟨.pass, p⟩ =>
    let b := (s.life ⟨.pass, p⟩).blk
    let avail := 2 ^ streamsOf b - 1
    let n := ((List.range 16).filter (fun j => (if streams = 0 then avail else streams &&& avail).testBit j)).length
    if (s.life ⟨.pass, p⟩).cmd = .closed then s.bad 24
    else if 15 < d.inlByte 7 ∧ exp16 = true then s.bad 31
    else if 63 < ring ∨ (s.ring ring).kind.toNat ≠ kIqcap then s.bad 32
    else if 1 < mode then s.bad 33
    else if mode = 1 ∧ inWindow = false then s.bad 40
    else if (s.life ⟨.cap, c⟩).cmd = .run then s.fail .editWhileRunning
    else if (s.ring ring).bufSize < capMost b n exp16 then s.fail .lengthExceeds
    else
      let first := if mode = 1 then ceilDiv (idx * perSample) perFrame else ceilDiv s.now perFrame
      let s := s.modLife ⟨.cap, c⟩ (fun l => { l with cmd := .run, eff := .run })
      ((s.modCap c (fun _ => ⟨src, streams, exp16, d.inlByte 7, ring, first, d.inlAt 12 4, 0, 0, 0, false, none⟩)).restartStream (capKey c)).okCmd
  | _ => s.fail .badObject

/-- CAP_STOP (R103). -/
def cmdCapStop (d : Desc) (s : State) : CmdResult := (s.capStop (idIdx d.object)).okCmd

end Sys2Proof.Machine
end

