-- ==== Sys2Proof/Machine/Combine.lean ====
section
/-! DEFINITION. The signal paths of the demodulators: branch combining, the FM path to M and S, the AM path to audio, and the bits of RDS and AMSS (R107 to R124, R131, R133). -/
namespace Sys2Proof.Machine
open Sys2Proof

/-! ## Branch estimates (R107, R133) -/

/-- S and N of the moment method over samples in any unit, each times the number of samples: S = sqrt(max(0, 2 M2² − M4)), N = M2 − S. -/
def moments (xs : List (Int × Int)) : Nat × Nat :=
  let p := xs.map cpow
  let s2 := p.sum
  let s4 := (p.map (fun v => v * v)).sum
  let root := isqrt (2 * s2 * s2 - xs.length * s4)
  (root, s2 - root)

/-- The samples of one branch over a frame: none where it is GAP; its S and N. -/
structure BranchFrame where
  vals : List (Option (Int × Int))
  s : Nat
  n : Nat
  deriving DecidableEq, Repr

/-- Branch `b` of the Pass samples of a frame, in units of 2^-8. -/
def branchFrame (xs : List PassSample) (b : Nat) : BranchFrame :=
  let vals := xs.map (fun x => if x.gaps.getD b true then none else some (x.vals.getD b (0, 0)))
  let m := moments (vals.filterMap id)
  ⟨vals, m.1, m.2⟩

/-- a_b / N_b, up to a factor common to the branches; a branch without noise counts as one unit of it (log 80). -/
def BranchFrame.ratio (f : BranchFrame) : Nat := isqrt (f.s * 2 ^ 96) / max 1 f.n

/-- a_b²/N_b of the first lies more than `db` below that of the second (R107). -/
def BranchFrame.below (f best : BranchFrame) (db : Nat) : Bool :=
  !belowTen 10 (best.s * max 1 f.n) (f.s * max 1 best.n) db

/-- The branch with the highest a_b²/N_b, the first of equal ones. -/
def bestBranch (fs : List BranchFrame) : Nat :=
  ((indexed 0 fs).foldl (fun (a : Nat × Option BranchFrame) x =>
    match a.2 with
    | none => (x.1, some x.2)
    | some m => if m.s * max 1 x.2.n < x.2.s * max 1 m.n then (x.1, some x.2) else a) (0, none)).1

/-- The weights that a frame's estimates give: COPHASE with its drop threshold in 2 dB, SELECT, FIRST (R107, R108). -/
def branchWeights (mode drop : Nat) (fs : List BranchFrame) : List Nat :=
  let best := bestBranch fs
  let top := (fs.map BranchFrame.ratio).foldl max 0
  (indexed 0 fs).map (fun x =>
    match mode with
    | 0 =>
      if drop ≠ 0 ∧ (x.2.below (fs.getD best x.2) (2 * drop)) = true then 0
      else if top = 0 then 2 ^ 24 else x.2.ratio * 2 ^ 24 / top
    | 1 => if x.1 = best then 2 ^ 24 else 0
    | _ => if x.1 = 0 then 2 ^ 24 else 0)

/-- The weights before the first estimate: COPHASE takes every branch alike, SELECT and FIRST branch 0 (log 80). -/
def firstWeights (mode n : Nat) : List (Nat × Int) :=
  (List.range n).map (fun b => (if mode = 0 ∨ b = 0 then 2 ^ 24 else 0, 0))

/-- A phase brought to half a turn about zero. -/
def wrapTurn (a : Int) : Int := (a + 2 ^ 31) % 2 ^ 32 - 2 ^ 31

/-- Weight and phase at sample `i` of `n`, on the line from the frame's start to its end (R107). -/
def lerpBranch (a b : Nat × Int) (i n : Nat) : Nat × Int :=
  let k : Int := i + 1
  (((a.1 : Int) + ((b.1 : Int) - a.1) * k / n).toNat, a.2 + wrapTurn (b.2 - a.2) * k / n)

/-- A frame combined: y in units of 2^-16 of each sample, none where every branch is GAP, and the combiner for the next frame. A branch that
has been GAP stays out up to the next frame boundary and comes back from weight 0; the weights of the others are rescaled (R107, R108). -/
def CombRun.frame (c : CombRun) (mode drop : Nat) (fs : List BranchFrame) : List (Option (Int × Int)) × CombRun :=
  let n := match fs.head? with | some f => f.vals.length | none => 0
  let init := firstWeights mode fs.length
  let from_ := if c.from_.length = fs.length then c.from_ else init
  let to_ := if c.to_.length = fs.length then c.to_ else init
  let out (b i : Nat) : Bool := ((fs.getD b ⟨[], 0, 0⟩).vals.take (i + 1)).any (fun v => v.isNone)
  let ys := (List.range n).map (fun i =>
    let ws := (List.range fs.length).map (fun b => lerpBranch (from_.getD b (0, 0)) (to_.getD b (0, 0)) i n)
    let live := (List.range fs.length).filter (fun b => !out b i)
    let valid := (List.range fs.length).filter (fun b => ((fs.getD b ⟨[], 0, 0⟩).vals.getD i none).isSome)
    let use := if mode = 2 then valid.filter (fun b => b == 0) else if live.isEmpty then valid else live
    if use.isEmpty then none
    else
      let all := (ws.map Prod.fst).sum
      let got := (use.map (fun b => (ws.getD b (0, 0)).1)).sum
      let scale (w : Nat) : Nat := if got = 0 then 2 ^ 24 / use.length else w * all / got
      some (cround (2 ^ 46) (csum (use.map (fun b =>
        let w := ws.getD b (0, 0)
        let x := ((fs.getD b ⟨[], 0, 0⟩).vals.getD i none).getD (0, 0)
        turn 30 (-w.2) (cscale (scale w.1) x))))))
  let weights := branchWeights mode drop fs
  let phase (b : Nat) : Int :=
    if mode = 2 then 0
    else arcQ 32 (csum (((fs.getD b ⟨[], 0, 0⟩).vals.zip ys).map (fun p =>
      match p.1, p.2 with
      | some x, some y => cmul x (cconj y)
      | _, _ => (0, 0))))
  let gone (b : Nat) : Bool := (fs.getD b ⟨[], 0, 0⟩).vals.any (fun v => v.isNone)
  (ys, ⟨(indexed 0 to_).map (fun x => if gone x.1 then (0, x.2.2) else x.2), (indexed 0 weights).map (fun x => (x.2, phase x.1))⟩)

/-! ## SUM items (R316, R321) -/

/-- A SUM item brings another member's combined signal to an object of this device (R321): its contributor is a member that is not
fenced. -/
def State.sumLive (s : State) (id : Id) : Bool :=
  s.cas.tables.items.any (fun i => !i.isMirror && s.canon i.toObj == s.canon id &&
    (match s.cas.tables.members[i.from_]? with | some m => m.st == 1 | none => false))

/-- The contributors of an object's live SUM items, at most three. -/
def State.sumDevices (s : State) (id : Id) : List Nat :=
  ((s.cas.tables.items.filter (fun i => !i.isMirror && s.canon i.toObj == s.canon id &&
    (match s.cas.tables.members[i.from_]? with | some m => m.st == 1 | none => false))).map CasItem.from_).take 3

/-- A contributor's signal as one branch more, re-timed by δ to the instants of a Pass's samples of frame `f`, with the phase term of the tune
frequency, in units of 2^-8; its own S and N (R107, R316, R321). Where no span covers an instant, the branch is GAP. -/
def State.sumBranch (s : State) (id : Id) (p f dev : Nat) (xs : List PassSample) : BranchFrame :=
  let b := s.passBlk p
  let mine := s.cas.sums.filter (fun x => s.canon x.obj == s.canon id && x.device == dev)
  let d := s.deltaAt dev (f * 64)
  let pts := mine.flatMap (fun x => (indexed 0 x.vals).map (fun v => ((x.first + v.1 * x.period : Nat) * 64 + d, x.period, v.2)))
  let tune : Int := fget b psTune
  let at_ (t : Nat) : Option (Int × Int) :=
    let near := pts.filter (fun e => decide (((t : Int) * 64 - e.1).natAbs * 1024 ≤ fracReach * e.2.1))
    if near.any (fun e => decide (((t : Int) * 64 - e.1).natAbs ≤ 64 * e.2.1)) then
      some (cround (2 ^ 55) (turn 30 (-(tune * d / 64)) (csum (near.map (fun e =>
        cscale (Config.fracDelay (((t : Int) * 64 - e.1).natAbs * 1024 / e.2.1)) e.2.2)))))
    else none
  let fig := ((mine.find? (fun x => x.frame == f)).map (fun x => (x.s, x.n))).getD (0, 0)
  ⟨xs.map (fun x => at_ (passInstant p b x.m)), fig.1, fig.2⟩

/-! ## Taking the Pass's samples -/

/-- The Pass samples of number `next` and after, up to `most` Plain frames, by frame. -/
def State.framesFrom (s : State) (p next : Nat) : List (Nat × List PassSample) :=
  let b := s.passBlk p
  let xs := (s.passR p).out.filter (fun x => decide (next ≤ x.m))
  let fr (x : PassSample) : Nat := passInstant p b x.m / perFrame
  (distinct (xs.map fr)).map (fun f => (f, xs.filter (fun x => fr x == f)))

/-- How long combined samples are held: 2^25 CK_RF cycles. -/
def combSpan : Nat := 2 ^ 25

/-- The change of FINE at the start of a frame, in units of TUNE; 0 where none is made (R84, R94). -/
def PassRun.retuned (r : PassRun) (f : Nat) : Int :=
  match r.tunes.zip (r.tunes.drop 1) |>.find? (fun x => x.1.1 == f * perFrame) with
  | some x => x.1.2 - x.2.2
  | none => 0

/-- One frame through the combiner: the samples with their instants. -/
def State.combine (s : State) (id : Id) (p mode drop : Nat) (c : DemodCore) (f : Nat) (xs : List PassSample) :
    List CombSample × DemodCore :=
  let b := s.passBlk p
  let fs := (List.range (passIns b).length).map (branchFrame xs) ++ (s.sumDevices id).map (fun d => s.sumBranch id p f d xs)
  let r := c.comb.frame mode drop fs
  let out := (xs.zip r.1).map (fun x => (⟨passInstant p b x.1.m, x.2.getD (0, 0), x.2.isNone, false⟩ : CombSample))
  (out, { c with comb := r.2, next := (xs.getLast?.map (fun x => x.m + 1)).getD c.next,
                 ys := (c.ys.filter (fun y => decide (f * perFrame < y.at_ + combSpan))) ++ out })

/-! ## The FM path (R110 to R114, R124) -/

/-- The equaliser at one input: its output, whether it is GAP, and its new taps and line; with MP_EQ off nothing changes (R111). -/
def FmPath.equalise (q : FmPath) (frozen : Bool) (y : Int × Int) (gap : Bool) : (Int × Int) × Bool × FmPath :=
  let line := ((y, gap) :: q.line).take 16
  let z := cround (2 ^ 24) (csum ((q.taps.zip line).map (fun x => cmul x.1 x.2.1)))
  let g := ((line.drop 8).head?.map Prod.snd).getD true
  let taps := if frozen || g then q.taps else (q.taps.zip line).map (fun x => cadd x.1 (Config.eqAdapt z x.2.1))
  (z, g, { q with line := line, taps := taps })

/-- MPX steps of a 20-bit angle per sample at a sample rate: 150 kHz is 2^17 steps (R110). -/
def mpxOf (rate : Nat) (a : Int) : Int := satSigned 18 (rheDiv (a * rate) 1200000)

/-- The gain of a first-order loop of 2 Hz in 2^-32: 4π over the rate (R110). -/
def offsetGain (rate : Nat) : Int := 53972150818 / rate

/-- Half a bit of RDS: the first half of a biphase symbol counts positive, the second negative (R124). -/
def biphase (phase : Nat) (v : Int) : Int := if phase < 2 ^ 31 then v else -v

/-- The RDS bit decoder at one MPX word (R124): the Costas loop, the matched sum, the bit clock, differential decoding. -/
def FmPath.rdsStep (q : FmPath) (rate t : Nat) (seed : Bool) (v : Int) : FmPath :=
  let th := if seed then 3 * q.pilotPhase else q.rdsPhase
  let i := v * sinQ 17 th
  let k := v * cosQ 17 th
  let fix := if v = 0 then (0, 0) else Config.rdsLoop i k
  let q := { q with rdsPhase := (th + 57000 * 2 ^ 32 / rate + q.rdsFreq + fix.1) % 2 ^ 32, rdsFreq := q.rdsFreq + fix.2 }
  let sum := q.bitSum + biphase q.bitPhase i
  let ph := q.bitPhase + 2375 * 2 ^ 31 / rate
  if ph < 2 ^ 32 then { q with bitPhase := ph, bitSum := sum }
  else
    let one := decide (0 ≤ sum)
    let fix := if sum = 0 then 0 else Config.bitClock sum
    { q with
      bitPhase := ((ph - 2 ^ 32 : Nat) + fix).toNat % 2 ^ 32, bitSum := 0, lastSym := one,
      bits := (q.bits ++ [(t, one != q.lastSym)]).drop (q.bits.length - 2047), syms := (q.syms ++ [sum]).drop (q.syms.length - 103) }

/-- One combined sample through the FM path (R110 to R113, R124). `eq`: MP_EQ with its freeze; `p` the Pass period; `locked` the pilot
loop's lock; `rds`: decoding on, and in search. -/
def FmPath.step (eq : Option Bool) (p : Nat) (locked : Bool) (rds search : Bool) (q : FmPath) (y : CombSample) : FmPath :=
  let rate := rfHz / p
  let e : (Int × Int) × Bool × FmPath := match eq with
    | some frozen => q.equalise frozen y.val y.gap
    | none => (y.val, y.gap, q)
  let t := if eq.isSome then y.at_ - 8 * p else y.at_
  let z := e.1
  let gap := e.2.1
  let q := e.2.2
  let f := if gap || q.lastGap then q.lastF else mpxOf rate (arcQ 20 (cmul z (cconj q.lastY)))
  let v := satSigned 18 (f - rheDiv q.mean 65536)
  let mean := q.mean + (f * 65536 - q.mean) * offsetGain rate / 2 ^ 32
  let err := v * cosQ 17 q.pilotPhase
  let fix := if v = 0 then (0, 0) else Config.pilotLoop err
  let r := { q with
    lastY := z, lastGap := gap, lastF := f, mean := mean,
    mpx := if v = 0 then q.mpx else q.mpx.filter (fun x => decide (t < x.1 + combSpan)) ++ [(t, v, q.pilotPhase)],
    pilotPhase := (q.pilotPhase + 19000 * 2 ^ 32 / rate + q.pilotFreq + fix.1) % 2 ^ 32, pilotFreq := q.pilotFreq + fix.2 }
  if rds then { (r.rdsStep rate t (search && locked) v) with pilotPhase := r.pilotPhase } else r

/-- The tracked mean steps by a change of FINE in the same sample (R110). -/
def FmPath.retune (q : FmPath) (fine : Int) : FmPath := if fine = 0 then q else { q with mean := q.mean - rheDiv (fine * 131072) 10 }

/-- Reach of the audio filters: 40 audio samples in FM (R115). -/
def fmReach : Nat := 40 * 30720

/-- M and S at an audio instant, 24-bit words: full scale is 150 kHz; S is demodulated at twice the pilot phase (R113, R114). -/
def FmPath.ms (q : FmPath) (p t : Nat) : Int × Int :=
  let near := q.mpx.filter (fun x => decide (t ≤ x.1 + fmReach ∧ x.1 ≤ t + fmReach))
  let w (x : Nat × Int × Int) : Int := satSigned 18 (Config.audioFir p ((t : Int) - x.1).natAbs) * x.2.1
  let m := (near.map w).sum
  let s := (near.map (fun x => w x * 2 * sinQ 17 (2 * x.2.2))).sum
  (satSigned 24 (rheDiv (m * 64) (2 ^ 17)), satSigned 24 (rheDiv (s * 64) (2 ^ 34)))

/-- 1 − exp(−T/τ) in units of 2^-24 for 50 µs and 75 µs at 32 kS/s (R114, log 81). -/
def deemphGain (code : Nat) : Int := if code = 1 then 7797019 else 5716994

/-- De-emphasis of an audio word: the word and the new state in 2^-16 of a step. -/
def deemph (code : Nat) (d x : Int) : Int × Int :=
  if code = 0 then (x, d)
  else
    let d := d + (x * 65536 - d) * deemphGain code / 2 ^ 24
    (satSigned 24 (rheDiv d 65536), d)

/-! ## The AM path (R119 to R121, R131) -/

/-- A combined sample judged by the blanker: an impulse lies above NB_THR times the mean of |y| over the last 256 samples that are not blanked
(R119). -/
def nbHit (thr ext : Nat) (ys : List CombSample) (y : CombSample) : Bool :=
  let old := ys.reverse
  let blanked (i : Nat) : Bool := (old.drop (i - ext)).take (2 * ext + 1) |>.any CombSample.hit
  let mags := ((indexed 0 old).filter (fun x => !blanked x.1 && !x.2.gap)).take 256 |>.map (fun x => isqrt (cpow x.2.val))
  !y.gap && decide (0 < mags.length ∧ thr * mags.sum < isqrt (cpow y.val) * mags.length)

/-- Which of a run of samples are blanked: the impulses and NB_EXT samples on each side. -/
def nbMask (ext : Nat) (ys : List CombSample) : List Bool :=
  (List.range ys.length).map (fun i => ((ys.drop (i - ext)).take (i + ext + 1 - (i - ext))).any CombSample.hit)

/-- The length of the run of blanked samples that ends before position `i`, and of the one from `i` on. -/
def nbRun (mask : List Bool) (i : Nat) : Nat × Nat :=
  (((mask.take i).reverse.takeWhile id).length, ((mask.drop i).takeWhile id).length)

/-- A sample behind the blanker: in a blanked span of at most 8 samples, the line between the values that bound it (R119). -/
def nbValue (ys : List CombSample) (mask : List Bool) (i : Nat) : Int × Int :=
  let y (k : Nat) : Int × Int := (ys[k]?.map CombSample.val).getD (0, 0)
  let r := nbRun mask i
  let n := r.1 + r.2
  if mask.getD i false ∧ n ≤ 8 ∧ r.1 + 1 ≤ i ∧ i + r.2 < ys.length then
    let a := y (i - r.1 - 1)
    let b := y (i + r.2)
    cadd a (cround (n + 1) (cscale (r.1 + 1 : Nat) (csub b a)))
  else y i

/-- The impulses blanked and the spans not blanked that begin at the positions from `a` up to `b` (R119). -/
def nbCounts (ys : List CombSample) (mask : List Bool) (a b : Nat) : Nat × Nat :=
  let starts := (List.range (b - a)).map (· + a) |>.filter (fun i => mask.getD i false && (i == 0 || !mask.getD (i - 1) false))
  let short (i : Nat) : Bool := decide ((nbRun mask i).2 ≤ 8)
  let hits (i : Nat) : Nat := ((ys.drop i).take (nbRun mask i).2).countP CombSample.hit
  (((starts.filter short).map hits).sum, (starts.filter (fun i => !short i)).length)

/-- The carrier loop at one sample: derotation, the active detector's weight, the carrier amplitude with its time constant of 0.5 s; over a GAP the loop
coasts (R120 to R122). -/
def AmPath.step (bw p : Nat) (locked : Bool) (w : Nat) (q : AmPath) (t : Nat) (y : Int × Int) (gap : Bool) : AmPath :=
  let rate := rfHz / p
  if gap then { q with phase := (q.phase + q.freq) % 2 ^ 32, refPhase := (q.refPhase + q.refFreq) % 2 ^ 32, doneTo := t + 1 }
  else
    let d := cround (2 ^ 30) (turn 30 (-q.phase) y)
    let err := arcQ 20 d
    let fix := if y = (0, 0) then (0, 0) else Config.carrierLoop bw err
    let level : Nat := if w = 0 then isqrt (cpow y) else ((w : Int) * d.1 + (32 - w : Nat) * isqrt (cpow y)).toNat / 32
    let amp := match q.amp with
      | none => level * 65536
      | some a => (a + ((level : Int) * 65536 - a) * 2 / rate).toNat
    let slip := arcQ 20 (turn 30 (-q.refPhase) y)
    let ref := if y = (0, 0) then (0, 0) else Config.referenceLoop slip
    let diff := wrapTurn (q.phase - q.refPhase)
    let sum := if locked then q.bitSum + biphase q.bitPhase diff else q.bitSum
    let ph := q.bitPhase + 375 * 2 ^ 32 / (8 * rate)
    let q := { q with
      phase := (q.phase + q.freq + fix.1) % 2 ^ 32, freq := q.freq + fix.2, amp := some amp, doneTo := t + 1,
      ds := q.ds.filter (fun (x : AmSample) => decide (t < x.at_ + combSpan)) ++ [(⟨t, d, w, amp / 65536⟩ : AmSample)],
      refPhase := (q.refPhase + q.refFreq + ref.1) % 2 ^ 32, refFreq := q.refFreq + ref.2 }
    if ph < 2 ^ 32 then { q with bitPhase := ph, bitSum := sum }
    else { q with bitPhase := ph - 2 ^ 32, bitSum := 0, bits := (q.bits ++ [(t, decide (0 ≤ sum))]).drop (q.bits.length - 511) }

/-- The detected signal at a sample behind the loop, in units of 2^-16: |y|, or I of the derotated carrier, without the opposite sideband where
SIDEBAND asks for one (R120). -/
def AmPath.detect (q : AmPath) (side p : Nat) (x : AmSample) : Int :=
  let env : Int := isqrt (cpow x.val)
  if x.w = 0 then env
  else
    let hilbert : Int := if side = 0 then 0
      else rheDiv (((List.range 31).map (fun j =>
        let k : Int := (j : Int) - 15
        match q.ds.find? (fun z => (z.at_ : Int) == x.at_ - k * p) with
        | some z => Config.hilbert k.natAbs * k.sign * z.val.2
        | none => 0)).sum) (2 ^ 17)
    let sync := if side = 1 then x.val.1 - hilbert else x.val.1 + hilbert
    ((x.w : Int) * sync + (32 - x.w : Nat) * env) / 32

/-- The normalised signal in 24-bit words: the detected signal over the carrier amplitude, less the carrier; full scale is 200 % (R121). -/
def AmPath.normal (q : AmPath) (side p : Nat) (x : AmSample) : Int :=
  if x.amp = 0 then 0 else satSigned 24 (rheDiv ((q.detect side p x - x.amp) * 2 ^ 22) x.amp)

/-- The edge of the AM audio filter in Hz: the smaller of AUD_BW and the Take's pass-band edge (R121). -/
def amEdge (audBw take : Nat) : Nat := min ([2500, 4500, 6000, 8000].getD audBw 8000) ([4500, 6000, 8000].getD take 8000)

/-- The audio at an instant, 24 bits: the normalised signal through the low-pass filter, which reaches 24 samples on each side (R118, R121). -/
def AmPath.audio (q : AmPath) (side edge p t : Nat) : Int :=
  let near := q.ds.filter (fun x => decide (t ≤ x.at_ + 24 * p ∧ x.at_ ≤ t + 24 * p))
  satSigned 24 (rheDiv ((near.map (fun x => satSigned 18 (Config.amFir edge p ((t : Int) - x.at_).natAbs) * q.normal side p x)).sum) (2 ^ 17))

/-! ## Quality figures over a tick (R133) -/

/-- `per · log10` of a ratio of powers as an encoded figure; where the ratio has no logarithm, the code given. -/
def figureDb (per num den : Nat) (none_ : Int) : Int := if num = 0 ∨ den = 0 then none_ else satSigned 16 (logSteps per num den)

/-- LEVEL of samples in units of 2^-16 in 1/16 dB. -/
def sampleLevel (ys : List (Int × Int)) : Int := figureDb 160 ((ys.map cpow).sum) (ys.length * 262144 * 2 ^ 32) Config.zeroLevel

/-- The weights as the query shows them (R133). -/
def weightBytes256 (c : CombRun) : List Nat := c.to_.map (fun w => (w.1 * 255 + 2 ^ 23) / 2 ^ 24)

/-- The figures of an FMD over the samples of a tick. -/
def fmFigures (core : DemodCore) (q : FmPath) (a b : Nat) : Figures :=
  let ys := (core.ys.filter (fun y => decide (a ≤ y.at_ ∧ y.at_ < b ∧ y.gap = false))).map CombSample.val
  let mpx := q.mpx.filter (fun x => decide (a ≤ x.1 ∧ x.1 < b))
  let n := ys.length
  let m := moments ys
  let mags := ys.map (fun y => isqrt (cpow y))
  let mean := mags.sum
  let var := n * (mags.map (fun v => v * v)).sum - mean * mean
  let tone (g : Int → Int) : Int := (mpx.map (fun x => x.2.1 * g x.2.2)).sum
  let amp := isqrt (cpow (tone (sinQ 17), tone (cosQ 17)))
  { level := sampleLevel ys,
    cnr := if m.2 = 0 then 0x7FFF else figureDb 40 m.1 m.2 Config.zeroLevel,
    multipath := if mean = 0 then 0 else min 1000 (1000 * isqrt var / mean),
    pilotDev := if n = 0 then 0 else satU 16 (2 * amp * 15000 / (n * 2 ^ 34)),
    devPeak := satU 16 ((mpx.map (fun x => x.2.1.natAbs)).foldl max 0 * 1500 / 2 ^ 17),
    offset := satSigned 16 (rheDiv (q.mean * 150000) (2 ^ 33)),
    weights := weightBytes256 core.comb }

/-- The figures of an AMD over the samples of a tick. -/
def amFigures (core : DemodCore) (q : AmPath) (locked : Bool) (p a b : Nat) : Figures :=
  let ys := (core.ys.filter (fun y => decide (a ≤ y.at_ ∧ y.at_ < b ∧ y.gap = false))).map CombSample.val
  let ds : List ((Int × Int) × Nat) := (q.ds.filter (fun x => decide (a ≤ x.at_ ∧ x.at_ < b))).map (fun x => (x.val, x.amp))
  let n := ds.length
  let si := ((ds.map (fun (d : (Int × Int) × Nat) => d.1.1)).sum).natAbs
  let sq := (ds.map (fun (d : (Int × Int) × Nat) => d.1.2)).sum
  let varQ := n * ((ds.map (fun (d : (Int × Int) × Nat) => d.1.2 * d.1.2)).sum).toNat - (sq * sq).toNat
  { level := sampleLevel ys,
    cnr := if !locked then -0x8000 else figureDb 40 (si * si) (2 * varQ) Config.zeroLevel,
    modPeak := satU 16 ((ds.map (fun (d : (Int × Int) × Nat) => if d.2 = 0 then 0 else ((isqrt (cpow d.1) : Int) - d.2).natAbs * 1000 / d.2)).foldl max 0),
    offset := satSigned 16 (rheDiv (q.freq * 10 * (rfHz / p)) (2 ^ 32)),
    weights := weightBytes256 core.comb }

end Sys2Proof.Machine
end

