-- ==== Sys2Proof/Machine/Checks.lean ====
section
/-! DEFINITION. The checks and budgets of Passes, demodulators, engines and programmes: what their SET commands and their RUN test (R12, R13, R96, R98, R104, R106, R136, R140, R141, R167 to R170, R201, R203, R205, R212, R306, R490). -/
namespace Sys2Proof.Machine
open Sys2Proof

/-! ## Passes (R12, R98, R306) -/

/-- Streams that Passes in RUN take, another one than `p` (R12). -/
def State.streamsUsed (s : State) (p : Nat) : Nat :=
  ((indexed 0 s.pass).map (fun x => if x.1 ≠ p ∧ x.2.life.cmd = .run then passStreams x.2.life.blk else 0)).sum

/-- The members present on the cascade. -/
def State.members (s : State) : Nat := (s.cas.tables.members.filter (fun m => m.st == 1 || m.st == 2)).length

/-- The place of a member along HHL_DN: members present stand in the order of their indices (R308, log 55). -/
def State.placeOf (s : State) (m : Nat) : Nat := (((indexed 0 s.cas.tables.members).filter (fun x => decide (x.1 < m) && (x.2.st == 1 || x.2.st == 2)))).length

/-- An item from member `a` to member `b` crosses this device's port HHL_DN (`dn`) or HHL_UP, outwards or inwards: along the chain, on the shorter arc of a
ring, and with RING_PROTECT on both (R306, R308, R328). -/
def State.crosses (s : State) (dn out : Bool) (a b : Nat) : Bool :=
  let n := if s.cas.ring then max s.members 1 else 8
  let steps (x y : Nat) : Nat := (s.placeOf y + n - s.placeOf x % n) % n
  let lenDn := steps a b
  let lenUp := steps b a
  let useDn := if s.cas.ring then s.cas.protect || decide (lenDn ≤ lenUp) else decide (a < b)
  let useUp := if s.cas.ring then s.cas.protect || decide (lenUp < lenDn) else decide (b < a)
  let p := steps a s.cas.self
  let q := steps s.cas.self a
  if dn == out then useDn && (if out then decide (p < lenDn) else decide (0 < p ∧ p ≤ lenDn))
  else useUp && (if out then decide (q < lenUp) else decide (0 < q ∧ q ≤ lenUp))

/-- Stream units that the streams of a Pass's remote branches use inwards on one port (R306, R319). -/
def State.branchUnits (s : State) (dn : Bool) (b : Blk) : Nat :=
  ((passIns b).map (fun v => if inRemote v ∧ s.crosses dn false (inDevice v) s.cas.self = true then passNsb b else 0)).sum

/-- What a SUM item is charged: 3 units for a DAB engine, 1 otherwise; a MIRROR item is charged none (R306). -/
def State.itemUnits (s : State) (i : CasItem) : Nat :=
  if i.isMirror then 0
  else if idKind i.fromObj = Kind.ee.code ∧ fget (s.life ⟨.ee, idIdx i.fromObj⟩).blk eeStd = 0 then 3 else 1

/-- Stream units in use on one port in one direction. -/
def State.portUnits (s : State) (dn out : Bool) (p : Nat) : Nat :=
  (if out then 0 else ((indexed 0 s.pass).map (fun x => if x.1 ≠ p ∧ x.2.life.cmd = .run then s.branchUnits dn x.2.life.blk else 0)).sum) +
  ((s.cas.tables.items.filter (fun i => s.crosses dn out i.from_ i.to_)).map s.itemUnits).sum

/-- The cascade carries every remote branch of a Pass (R98, R306, R307). The longest path of eight members within the limits of
R307 always fits REMOTE_DELAY, so only the ports' capacity can fail. -/
def State.remoteOk (s : State) (p : Nat) (b : Blk) : Bool :=
  !passRemote b ||
  (decide (s.cas.st = .member) && (passIns b).all (fun v => !inRemote v || s.memberPresent (inDevice v)) &&
   ([false, true] : List Bool).all (fun dn => decide (s.portUnits dn false p + s.branchUnits dn b ≤ 1536)))

/-- What OBJ_RUN of a Pass tests (R98). -/
def State.passRunCheck (s : State) (p : Nat) : Status :=
  let b := (s.life ⟨.pass, p⟩).blk
  if (firstFail (s.passChecks b)).isSome then .badParam
  else if (passIns b).any (fun v => !inRemote v && (s.life ⟨.conv, inInput v⟩).cmd == .closed) then .badParam
  else if s.remoteOk p b = false then .resourcesExhausted
  else if 1536 < s.streamsUsed p + passStreams b then .resourcesExhausted
  else .ok

/-! ## Demodulators (R104, R106, R134 to R136) -/

/-- A PASS field names a Pass or none. -/
def passField (v : Nat) : Bool := decide (v < 96 ∨ v = 0xFF)

/-- Another demodulator than `r` names a Pass (R104). -/
def State.demodNames (s : State) (r : Ref) (pass : Nat) : Bool :=
  pass != 0xFF &&
  ((indexed 0 s.fmd).any (fun x => decide ((⟨.fmd, x.1⟩ : Ref) ≠ r) && decide (x.2.life.cmd ≠ .closed) && fget x.2.life.blk dmPass == pass) ||
   (indexed 0 s.amd).any (fun x => decide ((⟨.amd, x.1⟩ : Ref) ≠ r) && decide (x.2.life.cmd ≠ .closed) && fget x.2.life.blk dmPass == pass))

/-- Every check of DEMOD_SET, in the order of the block (R134 to R136). -/
def State.demodChecks (s : State) (r : Ref) (b : Blk) : List (Field × Bool) :=
  let pass := (dmPass, passField (fget b dmPass) && !s.demodNames r (fget b dmPass))
  if r.kind = .fmd then
    [pass, (dmDivMode, !badCode b dmDivMode), (fmDeemph, !badCode b fmDeemph), (fmRdsMode, !badCode b fmRdsMode),
     (fmRdsCorr, !badCode b fmRdsCorr), (fmBlendHi, decide (fget b fmBlendLo + 3 ≤ fget b fmBlendHi)),
     (fmBlendSlew, decide (8 ≤ fget b fmBlendSlew)), (fmPilotMin, decide (1 ≤ fget b fmPilotMin ∧ fget b fmPilotMin ≤ 0x14)),
     (fmRdsLossN, decide (2 ≤ fget b fmRdsLossN))]
  else
    [pass, (dmDivMode, !badCode b dmDivMode), (amDet, !badCode b amDet), (amSideband, !badCode b amSideband),
     (amNbThr, decide (2 ≤ fget b amNbThr)), (amLoopBw, !badCode b amLoopBw)]

/-- What OBJ_RUN of a demodulator tests (R106, R136). -/
def State.demodRunCheck (s : State) (r : Ref) : Status :=
  let p := fget (s.life r).blk dmPass
  let l := s.life ⟨.pass, p⟩
  if 96 ≤ p ∨ l.cmd = .closed ∨ passClass l.blk ≠ (if r.kind = .fmd then 1 else 2) ∨ fget l.blk psDcbK ≠ 0 then .badParam else .ok

/-! ## Engines (R140, R141, R168 to R170) -/

/-- Channels that a standard allows (R140). -/
def eeMaxChans (std : Nat) : Nat := match std with | 0 => 1 | 1 => 4 | _ => 2

/-- The Passes bound, in channel order. -/
def eePasses (b : Blk) : List Nat := ((List.range 4).map (fun n => fget b (eePass n))).filter (fun p => p != 0xFF)

/-- Another engine than `e` binds a Pass (R141). -/
def State.engineBinds (s : State) (e pass : Nat) : Bool :=
  (indexed 0 s.ee).any (fun x => x.1 != e && decide (x.2.life.cmd ≠ .closed) && (eePasses x.2.life.blk).contains pass)

/-- One PASSn field of an engine. -/
def State.eePassOk (s : State) (e n : Nat) (b : Blk) : Bool :=
  let p := fget b (eePass n)
  p == 0xFF ||
  (decide (p < 96) && decide (n < eeMaxChans (fget b eeStd)) &&
   (List.range n).all (fun m => fget b (eePass m) != 0xFF && fget b (eePass m) != p) && !s.engineBinds e p)

/-- Every check of EE_SET, in the order of the block (R141, R169, R170). -/
def State.eeChecks (s : State) (e : Nat) (b : Blk) : List (Field × Bool) :=
  let m := fget b eeDrmMode
  let modeOk := match fget b eeStd with
    | 1 => decide (m ≤ 4)
    | 2 => decide (m = 0 ∨ m = 5)
    | _ => true
  [(eeStd, !badCode b eeStd), (eeDivMode, !badCode b eeDivMode), (eeSlFrames, decide (1 ≤ fget b eeSlFrames)),
   (eeDrmMode, !badCode b eeDrmMode && modeOk), (eeLossN, decide (2 ≤ fget b eeLossN)), (eeNullAvg, !badCode b eeNullAvg)] ++
  (List.range 4).map (fun n => (eePass n, s.eePassOk e n b)) ++ [(eeCfoSearch, decide (fget b eeCfoSearch ≤ 0xC8))]

/-- A Pass that an engine's standard takes (R140). -/
def eeTakes (std : Nat) (b : Blk) : Bool :=
  passClass b == 0 &&
  (match std with
   | 0 => fget b psRateK == 0
   | 1 => fget b psRateK == 5 || fget b psRateK == 6
   | _ => fget b psRateK == 4)

/-- What OBJ_RUN of an engine tests (R170). -/
def State.eeRunCheck (s : State) (e : Nat) : Status :=
  let b := (s.life ⟨.ee, e⟩).blk
  let ps := eePasses b
  if ps.isEmpty || ps.any (fun p =>
      let l := s.life ⟨.pass, p⟩
      decide (l.cmd = .closed) || !eeTakes (fget b eeStd) l.blk) then .badParam else .ok

/-- The SRAM charge of an engine (R168). -/
def eeSram (b : Blk) : Nat :=
  match fget b eeStd with
  | 0 => 513792
  | 1 => 130552 * (eePasses b).length
  | _ => 195424 * (eePasses b).length

/-! ## Programmes (R13, R201, R203, R212) -/

/-- SUBCH as it counts: for a DRM engine bits 5:4 are reserved (R211). -/
def State.progSub (s : State) (b : Blk) : Nat :=
  match s.refOf (BitVec.ofNat 32 (fget b pgSource)) with
  | some ⟨.ee, e⟩ => if fget (s.life ⟨.ee, e⟩).blk eeStd = 0 then fget b pgSubch else fget b pgSubch % 16
  | _ => 0

/-- A CODEC that R201 permits for a source. -/
def State.codecOk (s : State) (src : Id) (codec : Nat) : Bool :=
  if src = 0 then true
  else
    match idRef src with
    | some ⟨.fmd, _⟩ => codec == 0 || codec == 1
    | some ⟨.amd, _⟩ => codec == 0 || codec == 1
    | some ⟨.ee, e⟩ =>
      if fget (s.life ⟨.ee, e⟩).blk eeStd = 0 then codec == 0 || codec == 2 || codec == 3 else codec == 0 || codec == 4 || codec == 5
    | _ => false

/-- The source field names an FMD, an AMD or an engine, or none (R211). -/
def sourceKindOk (src : Id) : Bool :=
  src == 0 || (match idRef src with | some ⟨.fmd, _⟩ => true | some ⟨.amd, _⟩ => true | some ⟨.ee, _⟩ => true | _ => false)

/-- Every check of PROG_SET, in the order of the block (R211, R212). -/
def State.progChecks (s : State) (b : Blk) : List (Field × Bool) :=
  let src : Id := BitVec.ofNat 32 (fget b pgSource)
  [(pgSource, src == 0 || (s.idValid src && sourceKindOk src)), (pgCodec, !badCode b pgCodec && s.codecOk src (fget b pgCodec))]

/-- What a programme takes its audio from: the object of this device, and the sub-channel of an engine. -/
def State.progSource (s : State) (b : Blk) : Option (Ref × Nat) := (s.refOf (BitVec.ofNat 32 (fget b pgSource))).map (fun r => (r, s.progSub b))

/-- Decode units of the programmes in RUN, another one than `p`; a mirror is charged one (R13, R322). -/
def State.unitsUsed (s : State) (p : Nat) : Nat :=
  ((indexed 0 s.prog).map (fun x =>
    if x.1 ≠ p ∧ x.2.life.cmd = .run then (if x.2.life.mirror then 1 else codecUnits (fget x.2.life.blk pgCodec)) else 0)).sum

/-- Another programme in RUN has the same source. -/
def State.sourceTaken (s : State) (p : Nat) (src : Ref × Nat) : Bool :=
  (indexed 0 s.prog).any (fun x => x.1 != p && decide (x.2.life.cmd = .run) && s.progSource x.2.life.blk == some src)

/-- What OBJ_RUN of a programme tests (R212). -/
def State.progRunCheck (s : State) (p : Nat) : Status :=
  let b := (s.life ⟨.prog, p⟩).blk
  match (if fget b pgSource = 0 then none else s.progSource b) with
  | none => .badParam
  | some src =>
    if (s.life src.1).cmd = .closed ∨ s.sourceTaken p src = true then .badParam
    else if 128 < s.unitsUsed p + codecUnits (fget b pgCodec) then .resourcesExhausted
    else .ok

/-- STD in effect of an engine: 0 DAB, 1 DRM30, 2 DRMPLUS. -/
def State.eeBlk (s : State) (e : Nat) : Blk := (s.life ⟨.ee, e⟩).cur
def State.eeStdOf (s : State) (e : Nat) : Nat := fget (s.eeBlk e) eeStd

/-- The Pass that a demodulator names, when it is one of this device. -/
def demodPass (b : Blk) : Nat := fget b dmPass

/-! ## Latencies (R137, R138, R205, R490) -/

/-- LATENCY of an engine channel in ns; from RUN on by what its Pass was at RUN (R490). -/
def State.eeLatencyNs (s : State) (e c : Nat) : Nat :=
  let std := s.eeStdOf e
  let span := match std with | 0 => 384000000 | 1 => 2000000000 | _ => 600000000
  let most := match std with | 0 => 1246094 | 1 => 26666667 | _ => 2500000
  let pass := match (s.eeR e).passBlks[c]? with | some b => b | none => s.passBlk (fget (s.eeBlk e) (eePass c))
  passLatencyNs pass + span + min most (Config.engineProcessing std)

/-- A decoder's delay in ns, within its bound. -/
def decDelayNs (codec rate : Nat) : Nat :=
  let most := match codec with | 2 => if rate ≤ 24000 then 48000000 else 24000000 | 3 => 60000000 | _ => 120000000
  min most (Config.decoderDelay codec rate)

/-- LATENCY of a demodulator in ns: its Pass's, and its fixed stages (R111, R115, R118 to R120, R137). -/
def State.demodLatencyNs (s : State) (r : Ref) : Nat :=
  let b := (s.life r).shown
  let pb := (s.life ⟨.pass, demodPass b⟩).shown
  let samples := if r.kind = .fmd then 8 * bit (fbit b fmMpEq)
    else 24 + (if fbit b amNbEn then fget b amNbExt + 1 else 0) +
      (if fget b amDet ≠ 0 ∧ fget b amSideband ≠ 0 then 15 else 0)
  passLatencyNs pb + (if r.kind = .fmd then 1250000 else 0) + nsOfCycles (samples * passP pb)

/-- LATENCY of a programme in ns (R205); AUTO takes the longest delay that its source permits. -/
def State.progLatencyNs (s : State) (p : Nat) : Nat :=
  let b := (s.life ⟨.prog, p⟩).cur
  let rate := if (s.progR p).firstRate = 0 then 48000 else (s.progR p).firstRate
  match s.progSource b with
  | some (⟨.ee, e⟩, sub) =>
    let dab := s.eeStdOf e = 0
    let codec := fget b pgCodec
    let dec := if codec ≠ 0 then decDelayNs codec rate
      else if dab then max (decDelayNs 2 rate) (decDelayNs 3 rate) else max (decDelayNs 4 rate) (decDelayNs 5 rate)
    s.eeLatencyNs e (if dab then 0 else sub / 4) + dec
  | some (r, _) => s.demodLatencyNs r
  | none => 0

end Sys2Proof.Machine
end

