-- ==== Sys2Proof/Machine/Programme.lean ====
section
/-! DEFINITION. Programmes and inserts: the audio path from a source to routes, carriers and AUDIO rings, the alignment pools, FEED rings (R192 to R194, R204 to R222, R353, R354). -/
namespace Sys2Proof.Machine
open Sys2Proof

/-! ## AUDIO rings (R353) -/

/-- A block of a programme reaches one AUDIO ring: records cover 2^BLOCKS frames from an aligned one on. -/
def State.audioTo (p : Nat) (b : AudioBlock) (s : State) (i : Nat) : State :=
  let r := s.ring i
  if r.isRunning kAudio && r.srcs.any (fun x => s.canon x == mkId 0xFF ⟨.prog, p⟩) then
    let k := 2 ^ (r.kflags % 8)
    let held := r.blocksOf p
    let s := match held with
      | h :: _ => if h.frame / k = b.frame / k then s else s.flushAudio i p
      | [] => s
    let held := (s.ring i).blocksOf p
    let s := if held.isEmpty ∧ b.frame % k ≠ 0 then s else s.modRing i (fun r => r.setBlocks p (held ++ [b]))
    if b.frame % k = k - 1 then s.flushAudio i p else s
  else s

/-- The least delay of an FCAR fed by a programme in CK_RF cycles, rounded up: LATENCY, half the converter filter, 2 ms (R254). -/
def State.fcarLeast (s : State) (p : Nat) : Nat :=
  let rate := max 1 (s.progR p).rate
  ceilDiv (s.progLatencyNs p * 98304 * rate + 32 * rfHz * 100000 + rfHz / 500 * 100000 * rate) (100000 * rate)

/-- The FCARs in RUN that a programme's first block reaches fix D (R254). -/
def State.fixCarrierDelays (s : State) (p : Nat) : State :=
  { s with fcar := s.fcar.map (fun o =>
      if o.life.eff = .run ∧ fget o.life.cur fcProg = p ∧ o.run.air.delay = none then
        let least := s.fcarLeast p
        let want := fget o.life.cur fcDelay * perAlign
        { o with run := { o.run with air := { o.run.air with
            delay := some (max least want), short := decide (want ≠ 0 ∧ want < least) } } }
      else o) }

/-- How long delivered samples are held for the routes: the longest D and half a converter's span (R230, R231). -/
def histSpan : Nat := 12 * rfHz

/-- The samples of a block for rate converters, the newest first. -/
def AudioBlock.forConverters (b : AudioBlock) (rate now : Nat) : List AudioSample :=
  ((indexed 0 (b.samples.zip b.absent)).map (fun x => (⟨b.start_ + x.1 * rfHz / max 1 rate, now, x.2.1.1, x.2.1.2, x.2.2⟩ : AudioSample))).reverse

/-- A complete block of a programme. A block marked START clears the history of the converters that take it (R231). -/
def State.deliverBlock (s : State) (p : Nat) (b : AudioBlock) : State :=
  (List.range 64).foldl (State.audioTo p b) ((s.modProg p (fun r => { r with
    out := some b,
    hist := b.forConverters r.rate s.now ++ (if b.start then [] else r.hist.filter (fun x => decide (b.start_ < x.at_ + histSpan))) })).fixCarrierDelays p)

/-- A rate converter's output at an instant in 1/16 CK_RF cycle: the samples within 32 source periods, absent ones taken as zero, 24-bit words; none where the nearest
sample is absent or there is none (R231, R233). -/
def convertAt (rs rd : Nat) (xs : List AudioSample) (t : Int) : Option (Int × Int) :=
  let d (x : AudioSample) : Nat := ((16 * x.at_ : Nat) - t).natAbs
  let near := xs.filter (fun x => decide (d x * rs ≤ 512 * rfHz))
  let nearest := near.foldl (fun (m : Option AudioSample) x => match m with | some v => if d x < d v then some x else m | none => some x) none
  match nearest with
  | some n =>
    if n.absent ∨ 16 * rfHz + 32 * rs < d n * 2 * rs then none
    else
      let sum (f : AudioSample → Int) : Int :=
        satSigned 24 (rheDiv ((near.map (fun x => if x.absent then 0 else satSigned 18 (Config.rateFir rs rd (d x)) * f x)).sum) (2 ^ 17))
      some (sum AudioSample.l, sum AudioSample.r)
  | none => none

/-! ## The output stages (R204, R208 to R210, R213) -/

/-- Byte `k` of an insert's inline block (R216). -/
def Insert.byte (n : Insert) (k : Nat) : Nat := (n.inl.extractLsb' (8 * k) 8).toNat
/-- XFADE of an insert in CK_RF cycles. -/
def Insert.span (n : Insert) : Nat := n.byte 6 * perAlign
/-- LEVEL of an insert as an amplitude in units of 2^-24. -/
def Insert.level (n : Insert) : Nat :=
  let v := signedOf 8 (n.byte 7)
  if v = 0 then 2 ^ 24 else amplitude (4 * v)

/-- The raised cosine `c - b` cycles into a span, in units of 2^-24; 2^24 from its end on. -/
def gainIn (b span c : Nat) : Nat := if b + span ≤ c then 2 ^ 24 else raisedCos (c - b) span

/-- The gain of a ramp at a CK_RF instant, in units of 2^-24: linear over 15 Plain frames (R210). -/
def GainRamp.at (g : GainRamp) (c : Nat) : Nat :=
  let n := 15 * perFrame
  let k := min (c - g.start * perFrame) n
  if g.to_ < g.from_ then g.from_ - (g.from_ - g.to_) * k / n else g.from_ + (g.to_ - g.from_) * k / n

/-- The channel modes (R211). -/
def chanMode (m : Nat) (x : Int × Int) : Int × Int :=
  match m with
  | 1 => let v := rheDiv (x.1 + x.2) 2; (v, v)
  | 2 => (x.1, x.1)
  | 3 => (x.2, x.2)
  | _ => x

/-- What a fold over output samples carries: whether the next delivered sample begins a fade-in, where one began, and the samples
made, newest first: instant, words, absent, saturated, begins, carried by an insert. -/
structure MixAcc where
  restart : Bool
  fadeFrom : Option Nat
  out : List (Nat × (Int × Int) × Bool × Bool × Bool × Bool)
  deriving DecidableEq, Repr

/-- The alert sample of an insert at an instant: the sample read then, or what a fixed-ratio converter from 48 kS/s gives (R213). -/
def Insert.alertAt (n : Insert) (rate c : Nat) : Int × Int :=
  if rate = 48000 ∧ c % 20480 = 0 then
    match n.hist.find? (fun x => x.at_ == c) with | some x => (x.l, x.r) | none => (0, 0)
  else (convertAt 48000 (max 1 rate) n.hist (16 * c : Nat)).getD (0, 0)

/-- What the stages of a programme need: its output rate, its fields, its gain, the insert with its boundaries, and the insert it was moved from. -/
structure MixCtx where
  rate : Nat
  blk : Blk
  gain : GainRamp
  insert : Option (Insert × Nat × Option Nat)
  old : Option Insert

/-- One output sample: fade-in, channel mode, volume and mute, insert (R204). -/
def mixOne (x : MixCtx) (a : MixAcc) (c : Nat) (v : Option (Int × Int)) : MixAcc :=
  let fadeFrom := match v with
    | none => a.fadeFrom
    | some _ => if a.restart then some c else a.fadeFrom
  let fade (w : Int) : Int := match fadeFrom with
    | some f => if c < f + 15 * perFrame then rheDiv (w * ((c - f : Nat) : Int)) (15 * perFrame) else w
    | none => w
  let src := v.getD (0, 0)
  let y := chanMode (fget x.blk pgChmode) (fade src.1, fade src.2)
  let g := x.gain.at c
  let vol (w : Int) : Int := if g = 2 ^ 24 then w else rheDiv (w * g) (2 ^ 24)
  let z := (vol y.1, vol y.2)
  let zs := (satSigned 24 z.1, satSigned 24 z.2)
  let begins := v.isSome && a.restart
  match x.insert with
  | some (n, from_, to_) =>
    let gi := if c < from_ then 0 else gainIn from_ n.span c
    let gi := match to_ with
      | some e => if e ≤ c then 2 ^ 24 - gainIn e n.span c else gi
      | none => gi
    let taken := decide (from_ ≤ c) && (match to_ with | some e => decide (c < e + n.span) | none => true)
    let alertNow := n.alertAt x.rate c
    let alertOld := match x.old with | some m => m.alertAt x.rate c | none => (0, 0)
    let under (w o : Int) : Int := match x.old with
      | some m => o * m.level
      | none => w * 2 ^ 24
    let blend (w al o : Int) : Int := rheDiv ((2 ^ 24 - gi : Nat) * under w o + gi * (n.level * al)) (2 ^ 48)
    let m := if taken then (blend zs.1 alertNow.1 alertOld.1, blend zs.2 alertNow.2 alertOld.2) else zs
    let ms := (satSigned 24 m.1, satSigned 24 m.2)
    ⟨a.restart && v.isNone, fadeFrom, (c, ms, v.isNone && !taken, decide (ms ≠ m) || decide (zs ≠ z), begins, taken) :: a.out⟩
  | none =>
    let a' := if v.isNone then (0, 0) else zs
    ⟨a.restart && v.isNone, fadeFrom, (c, a', v.isNone, decide (zs ≠ z), begins, false) :: a.out⟩

/-- The samples of a span, in order; an absent sample makes the next delivered one begin a fade-in (R208). -/
def mixAll (x : MixCtx) (start : Nat) : Nat → MixAcc → List (Option (Int × Int)) → MixAcc
  | _, a, [] => a
  | j, a, v :: vs =>
    let a' := mixOne x { a with restart := a.restart || v.isNone } (start + j * rfHz / x.rate) v
    mixAll x start (j + 1) { a' with restart := a'.restart || v.isNone } vs

/-- Samples gathered by Plain frame: what a programme has of the frame in the making joins them. -/
def joinBlocks (concealed : Bool) : List AudioBlock → Nat → List (Nat × (Int × Int) × Bool × Bool × Bool × Bool) → List AudioBlock
  | acc, _, [] => acc
  | acc, first, (c, v, ab, clip, begins, ins) :: rest =>
    let f := c / perFrame
    let new : AudioBlock := ⟨f, c, [v], [ab], concealed, begins, ins, clip, first⟩
    let acc' := match acc with
      | b :: bs =>
        if b.frame = f then
          { b with samples := b.samples ++ [v], absent := b.absent ++ [ab], concealed := b.concealed || concealed,
                   start := b.start || begins, insert := b.insert || ins, clip := b.clip || clip } :: bs
        else new :: b :: bs
      | [] => [new]
    joinBlocks concealed acc' (first + 1) rest

/-- The first delivered sample of a programme that an insert has taken while it was HELD makes it start under the insert at the next
alignment-frame boundary (R214). -/
def State.insertLate (s : State) (p c : Nat) : State :=
  let r := s.progR p
  match r.insert, r.insertFrom with
  | some i, none =>
    let n := s.insertR i
    if n.starting.contains p then s
    else s.modInsert i (fun n => { n with startAt := some (alignNext perAlign c), starting := n.starting ++ [p] })
  | _, _ => s

/-- Output samples of a programme from an instant on; `complete` when its last block ends with them (R204 to R210, R213). -/
def State.progOut (s : State) (p : Nat) (complete : Bool) (rate start : Nat) (xs : List (Option (Int × Int))) (concealed : Bool) :
    State :=
  let r := s.progR p
  if rate = 0 ∨ xs.isEmpty then s
  else
    let ctx : MixCtx := ⟨rate, (s.life ⟨.prog, p⟩).cur, r.gain,
      match r.insert, r.insertFrom with | some i, some b => some (s.insertR i, b, r.insertTo) | _, _ => none,
      r.insertOld.map s.insertR⟩
    let a := mixAll ctx start 0 ⟨r.restarting, r.fadeFrom, []⟩ xs
    let made := a.out.reverse
    let lost := if r.absentNext then made.map (fun x => (x.1, ((0, 0) : Int × Int), true, x.2.2.2)) else made
    let blocks := (joinBlocks concealed r.part.toList r.delivered lost).reverse
    let firstSome := (made.find? (fun x => x.2.2.2.2.1)).map Prod.fst
    let s := if r.delivered = 0 then s.restartStream (audioKey p) else s
    let began := match r.fadeFrom, firstSome with | none, some c => some c | _, _ => none
    let s := s.modProg p (fun r => { r with
      restarting := a.restart, fadeFrom := a.fadeFrom, delivered := r.delivered + xs.length, rate := rate,
      absent := (a.out.head?.map (fun x => x.2.2.1)).getD r.absent, clipQ := r.clipQ || made.any (fun x => x.2.2.2.1),
      startTime := match began with | some c => s.t64At c | none => r.startTime,
      part := if complete then none else blocks.getLast?, absentNext := false })
    let ready := if complete then blocks else blocks.dropLast
    let s := ready.foldl (fun s b => s.deliverBlock p b) s
    match began with
    | some c => s.insertLate p c
    | none => s

/-! ## FEED rings (R354) -/

/-- CK_RF cycles of a sample at 48 kS/s. -/
def per48 : Nat := 20480

/-- First index of the 48 kHz grid at or after an instant. -/
def idx48 (t : Nat) : Nat := ceilDiv t per48

/-- An insert reads its source: it is active and its first boundary has come. -/
def Insert.reads (n : Insert) : Bool := n.active && n.onAt.isSome

/-- The first entry of a FEED ring is finished with. -/
def State.feedRelease (s : State) (ring : Nat) : State :=
  (s.modRing ring (fun r => { r with inData := r.inData.drop 1, inRead := 0 })).releaseEntry ring

/-- FEED_PARTIAL (R354, R438). -/
def State.feedPartial (s : State) (ring bytes : Nat) : State :=
  s.addDaily 0x0007 sevInfo s.devId (leBytes 4 ring ++ leBytes 4 bytes) s.now

/-- A sample frame of a FEED entry as 24-bit words, L and R; a mono one on both (R216, R354). -/
def feedFrame (wide stereo : Bool) (e : List Byte) (off : Nat) : Int × Int :=
  let word (o : Nat) : Int := if wide then satSigned 24 (signedOf 32 (leAt e o 4)) else 256 * signedOf 16 (leAt e o 2)
  let l := word off
  (l, if stereo then word (off + if wide then 4 else 2) else l)

/-- `n` sample frames of a ring's format are read from a FEED ring, those there are. `fuel` bounds the entries looked at. -/
def State.feedTake (ring : Nat) (wide stereo : Bool) : Nat → Nat → State → List (Int × Int) × State
  | 0, _, s => ([], s)
  | fuel + 1, n, s =>
    let r := s.ring ring
    let fb := (if wide then 4 else 2) * (if stereo then 2 else 1)
    match r.inData with
    | [] => ([], s)
    | e :: _ =>
      let nb := leAt e 0 2
      if nb = 0 then State.feedTake ring wide stereo fuel n (s.feedRelease ring)
      else if r.bufSize < nb + 16 then State.feedTake ring wide stereo fuel n ((s.feedPartial ring nb).feedRelease ring)
      else
        let whole := nb / fb * fb
        let have_ := (whole - r.inRead) / fb
        let frames := (List.range (min n have_)).map (fun k => feedFrame wide stereo e (16 + r.inRead + k * fb))
        if n = 0 then ([], s)
        else if n < have_ then (frames, s.modRing ring (fun r => { r with inRead := r.inRead + n * fb }))
        else
          let s := if nb = whole then s else s.feedPartial ring (nb - whole)
          let x := State.feedTake ring wide stereo fuel (n - have_) (s.feedRelease ring)
          (frames ++ x.1, x.2)

/-- The source of an insert cannot supply a sample (R217). -/
def State.insertFails (s : State) (n : Insert) : Bool :=
  if n.byte 1 = 0 then
    let r := s.portR (n.byte 2)
    !s.running .port (n.byte 2) || r.st == .clockLost
  else
    let r := s.ring (n.byte 2)
    !r.isRunning kFeed || r.inData.isEmpty

/-- The DI samples that an insert hears at `due` indices of the 48 kHz grid from `m` on: its slots, converted to 48 kS/s behind half a span of the
converter (R213, log 93). -/
def State.diSamples (s : State) (n : Insert) (m due : Nat) : List (Int × Int) :=
  let rate := portRate (s.life ⟨.port, n.byte 2⟩).cur
  let k := n.byte 3
  let xs := ((s.portR (n.byte 2)).diHist).map (fun e =>
    let l := e.2.2.getD k none
    let r := if (n.byte 4).testBit 0 then e.2.2.getD (k + 1) none else l
    (⟨e.1, e.2.1, l.getD 0, r.getD 0, l.isNone || r.isNone⟩ : AudioSample))
  (List.range due).map (fun j => (convertAt rate 48000 xs (16 * ((m + j) * per48 : Nat) - (34 * 16 * rfHz / rate : Nat) : Int)).getD (0, 0))

/-- What an insert's source supplies for `due` indices from `m` on, and the state after: the lowest insert of a ring reads it, the others hear the same
samples (R354). A source that fails supplies nothing. -/
def State.insertReads (s : State) (i m due : Nat) : List (Int × Int) × State :=
  let n := s.insertR i
  if n.byte 1 = 0 then (if s.insertFails n then [] else s.diSamples n m due, s)
  else
    match (List.range i).find? (fun j => let o := s.insertR j; o.reads && o.byte 1 == 1 && o.byte 2 == n.byte 2) with
    | some j =>
      let old := (s.insertR j).hist.filter (fun x => decide (m * per48 ≤ x.at_))
      (((old.filter (fun x => !x.absent)).map (fun x => (x.l, x.r))).reverse, s)
    | none =>
      if (s.ring (n.byte 2)).isRunning kFeed then
        State.feedTake (n.byte 2) ((n.byte 4).testBit 1) ((n.byte 4).testBit 0) ((s.ring (n.byte 2)).inData.length + 1) due s
      else ([], s)

/-- The sources of the inserts up to now: each ring is read once for all inserts that name it, a failing source stands still and zeros fill its
place, and a source that supplies again ends the episode (R217, R354). -/
def State.feedStep (s : State) : State :=
  (List.range 8).foldl (fun s i =>
    let n := s.insertR i
    if n.reads then
      let m := idx48 n.takenAt
      let due := idx48 s.now - m
      let x := s.insertReads i m due
      let new : List AudioSample := (List.range due).map (fun j =>
        let v := x.1.getD j (0, 0)
        ⟨(m + j) * per48, s.now, v.1, v.2, decide (x.1.length ≤ j)⟩)
      x.2.modInsert i (fun n => { n with
        taken := n.taken + x.1.length, takenAt := s.now, underrun := n.underrun && x.2.insertFails n,
        hist := new.reverse ++ n.hist.filter (fun y => decide (s.now < y.at_ + histSpan)) })
    else s) s

/-! ## Alignment pools and the selection of the active source (R192, R194) -/

/-- What an area holds at an index. -/
def PoolArea.at (a : PoolArea) (m : Int) : Option (Int × Int) :=
  if m < 0 ∨ (a.last : Int) < m then none else (a.hist[a.last - m.toNat]?).join

/-- The mono sum at an index of an area, 0 where it is input-absent (R191). -/
def PoolArea.mono (a : PoolArea) (m : Int) : Int := match a.at m with | some x => x.1 + x.2 | none => 0

/-- The envelope of the milliseconds that are complete joins the correlation history, which covers every lag of a window of 4 s (R191). -/
def PoolArea.envelop (a : PoolArea) : PoolArea :=
  let n1 := (a.last + 1) / 48
  let n0 := if a.env.isEmpty then ceilDiv (a.last + 1 - a.hist.length) 48 else a.envLast + 1
  let new := (List.range (n1 - n0)).map (fun j => Config.envelope ((List.range 48).map (fun i => a.mono (48 * (n0 + j) + i : Nat))))
  if new.isEmpty then a else { a with env := (new.reverse ++ a.env).take 9000, envLast := n1 - 1 }

/-- Samples from index `i` on enter an area; a hole is input-absent; 2.5 s stay. -/
def PoolArea.put (a : PoolArea) (i : Nat) (xs : List (Option (Int × Int))) : PoolArea :=
  if xs.isEmpty then a
  else if a.hist.isEmpty ∨ a.last + 120000 < i then (⟨a.cand, xs.reverse.take 120000, i + xs.length - 1, [], 0⟩ : PoolArea).envelop
  else
    let hole := i - (a.last + 1)
    let xs := xs.drop (a.last + 1 - i)
    if xs.isEmpty then a
    else ({ a with hist := ((List.replicate hole none ++ xs).reverse ++ a.hist).take 120000, last := a.last + hole + xs.length } : PoolArea).envelop

/-- A candidate's area of a pool. -/
def ProgRun.area (r : ProgRun) (k : Nat) : PoolArea := (r.pool.find? (fun a => a.cand == k)).getD ⟨k, [], 0, [], 0⟩
def ProgRun.putArea (r : ProgRun) (a : PoolArea) : ProgRun := { r with pool := a :: r.pool.filter (fun b => b.cand != a.cand) }

/-- An output programme is followed: in RUN with MODE not OFF. -/
def State.followed (s : State) (p : Nat) : Bool :=
  s.running .prog p && ((s.progR p).follow.st == .waitId || (s.progR p).follow.st == .following)

/-- What a candidate's component is: its origin, and the sub-channel of an engine (R187). -/
def State.candOrigins (s : State) (c : Cand) : List Origin :=
  let khz := c.entry.freqKHz
  match c.entry.std with
  | 0 => ((List.range 32).filter (fun i => s.running .fmd i && s.passKHz (fget (s.life ⟨.fmd, i⟩).cur dmPass) == khz)).map
      (fun i => ⟨s.idOf .fmd i, 0⟩)
  | 1 => ((List.range 48).filter (fun i => s.running .amd i && s.passKHz (fget (s.life ⟨.amd, i⟩).cur dmPass) == khz)).map
      (fun i => ⟨s.idOf .amd i, 0⟩)
  | std =>
    (List.range 12).flatMap (fun e =>
      let b := (s.life ⟨.ee, e⟩).cur
      if s.running .ee e && ((std == 2) == (fget b eeStd == 0)) then
        ((List.range 4).filter (fun n => fget b (eePass n) != 0xFF && s.passKHz (fget b (eePass n)) == khz)).map
          (fun n => ⟨s.idOf .ee e, n⟩)
      else [])

/-- The home source of a programme as an origin. -/
def State.homeOrigin (s : State) (p : Nat) : Option Origin :=
  let b := (s.life ⟨.prog, p⟩).cur
  match s.progSource b with
  | some (⟨.ee, e⟩, sub) => some ⟨s.idOf .ee e, if fget (s.life ⟨.ee, e⟩).cur eeStd = 0 then 0 else sub / 4⟩
  | some (⟨k, i⟩, _) => some ⟨s.idOf k i, 0⟩
  | none => none

/-- The origin of candidate `k` of programme `p`: the home source's, or the first in RUN that receives its frequency. -/
def State.candOrigin (s : State) (p k : Nat) : Option Origin :=
  if k = 0 then s.homeOrigin p
  else match (s.progR p).follow.cands[k]? with
    | some c => (s.candOrigins c).head?
    | none => none

/-- The key that a candidate must carry: its own, or the service's (R196). -/
def candKey (f : Follow) (c : Cand) : Nat := if c.entry.key = 0 then f.key else c.entry.key

/-- The primary component of a key on an origin of an engine. -/
def State.primaryOf (s : State) (o : Origin) (key : Nat) : Option Component :=
  s.svc.comp.find? (fun c => c.origin == o && c.key == key && c.primary)

/-- What a source programme of candidate `k` decodes: object and sub-channel. -/
def State.candSource (s : State) (p k : Nat) : Option (Ref × Nat) :=
  match s.candOrigin p k, (s.progR p).follow.cands[k]? with
  | some o, some c =>
    match idRef o.object with
    | some ⟨.ee, e⟩ =>
      (s.primaryOf o (candKey (s.progR p).follow c)).map (fun x =>
        ((⟨.ee, e⟩ : Ref), if fget (s.life ⟨.ee, e⟩).cur eeStd = 0 then x.subch else o.chan * 4 + x.subch))
    | some r => some (r, 0)
    | none => none
  | _, _ => none

/-- The programme that decodes candidate `k` of `p`: `p` itself for the home source, else one in RUN (R188). -/
def State.candProg (s : State) (p k : Nat) : Option Nat :=
  if k = 0 then some p
  else match s.candSource p k with
    | some src => (List.range 64).find? (fun q => q != p && s.running .prog q && s.progSource (s.life ⟨.prog, q⟩).cur == some src)
    | none => none

/-- A level scale as an amplitude in units of 2^-24. -/
def scaleAmp (scale : Int) : Nat := if scale = 0 then 2 ^ 24 else amplitude (rheDiv scale 65536)

/-- A sample scaled. -/
def scaled (amp : Nat) (x : Int × Int) : Int × Int :=
  if amp = 2 ^ 24 then x else (satSigned 24 (rheDiv (x.1 * amp) (2 ^ 24)), satSigned 24 (rheDiv (x.2 * amp) (2 ^ 24)))

/-- What a candidate's level difference gives as a scale: with LEVEL_MATCH at 1, clamped to ±12 dB (R194). -/
def levelScale (f : Follow) (k : Nat) : Int :=
  if fbit f.policy afLevelMatch then
    match f.cands[k]? with | some c => max (-192) (min 192 c.levelDiff) * 65536 | none => 0
  else 0

/-- The selected sample at an index of the 48 kHz grid (R192, R194). -/
def selectAt (r : ProgRun) (m : Nat) : Option (Int × Int) :=
  let f := r.follow
  let old := (r.area f.active).at (m - f.bAct)
  let old := old.map (scaled (scaleAmp f.scale))
  match f.change with
  | some ch =>
    if ch.started = false ∨ m * per48 < ch.start then old
    else
      let new := ((r.area ch.target).at (m - f.bSb)).map (scaled (scaleAmp (levelScale f ch.target)))
      let g := gainIn ch.start (ch.stop - ch.start) (m * per48)
      match old, new with
      | none, none => none
      | a, b =>
        let x := a.getD (0, 0)
        let y := b.getD (0, 0)
        let mix (u v : Int) : Int := rheDiv ((2 ^ 24 - g : Nat) * u + g * v) (2 ^ 24)
        some (mix x.1 y.1, mix x.2 y.2)
  | none => old

/-- A span from a source programme `q` at 48 kS/s enters every pool that has it as a candidate, and the programmes whose active
source it is deliver what they select. -/
def State.feedPools (s : State) (q i0 : Nat) (xs : List (Option (Int × Int))) (complete concealed : Bool) : State :=
  (List.range 64).foldl (fun s p =>
    if s.followed p then
      let ks := (List.range (max 1 (s.progR p).follow.cands.length)).filter (fun k => s.candProg p k == some q)
      let s := ks.foldl (fun s k => s.modProg p (fun r => r.putArea ((r.area k).put i0 xs))) s
      if ks.contains (s.progR p).follow.active then
        let r := s.progR p
        let m0 := if r.next48 = 0 then i0 else r.next48
        let ys := (List.range (i0 + xs.length - m0)).map (fun j => selectAt r (m0 + j))
        (s.progOut p complete 48000 (m0 * per48) ys concealed).modProg p (fun r => { r with next48 := i0 + xs.length })
      else s
    else s) s

/-- A span of a source joins what its converter to 48 kS/s holds; the index of the grid from which it gives samples now, and those samples: it lags by half its
span (R192). -/
def ProgRun.convert (r : ProgRun) (now rate start : Nat) (xs : List (Option (Int × Int))) : ProgRun × Nat × List (Option (Int × Int)) :=
  let new : List AudioSample := ((indexed 0 xs).map (fun x =>
    let v := x.2.getD (0, 0)
    (⟨start + x.1 * rfHz / max 1 rate, now, v.1, v.2, x.2.isNone⟩ : AudioSample))).reverse
  let old := if r.srcRate = rate then r.src else []
  let all := new ++ old
  let last := (all.head?.map AudioSample.at_).getD start
  let reach := 32 * rfHz / max 1 rate
  let m0 := max r.srcNext (idx48 ((all.getLast?.map AudioSample.at_).getD start))
  let m1 := if last < reach then m0 else max m0 ((last - reach) / per48 + 1)
  ({ r with src := all.filter (fun x => decide (m1 * per48 ≤ x.at_ + 2 * reach)), srcRate := rate, srcNext := m1 },
    m0, (List.range (m1 - m0)).map (fun j => convertAt (max 1 rate) 48000 all (16 * ((m0 + j) * per48) : Nat)))

/-- A span from the source of programme `q`: its own rate and instants, and the same on the 48 kHz grid for the pools. -/
def State.progSpan (s : State) (q : Nat) (complete : Bool) (rate start : Nat) (xs : List (Option (Int × Int))) (concealed : Bool) : State :=
  let s := s.feedStep
  let c := (s.progR q).convert s.now rate start xs
  let s := s.modProg q (fun r => { c.1 with srcAbsent := match xs.getLast? with | some v => v.isNone | none => r.srcAbsent })
  let s := s.feedPools q c.2.1 c.2.2 complete concealed
  if s.followed q then s
  else s.progOut q complete rate start xs concealed

/-- The programme in RUN that a demodulator feeds (R104). -/
def State.demodProg (s : State) (r : Ref) : Option Nat :=
  (List.range 64).find? (fun q => s.running .prog q && s.progSource (s.life ⟨.prog, q⟩).cur == some (r, 0))

/-- The programme's source delivers blocks or frames: a demodulator in RUN, or an engine in RUN whose channel is LOCKED. -/
def State.sourceAlive (s : State) (q : Nat) : Bool :=
  match s.progSource (s.life ⟨.prog, q⟩).cur with
  | some (⟨.ee, e⟩, sub) =>
    let c := if fget (s.life ⟨.ee, e⟩).cur eeStd = 0 then 0 else sub / 4
    s.running .ee e && (s.chan e c).sync == .locked
  | some (⟨k, i⟩, _) => s.running k i
  | none => false

/-- The part of a management tick for programmes whose source delivers nothing: ABSENT samples up to now, at the rate last
delivered (R208). -/
def State.tickProgs (s : State) : State :=
  (List.range 64).foldl (fun s q =>
    let r := s.progR q
    let b := match r.part with | some b => some b | none => r.out
    match b with
    | some b =>
      if s.running .prog q && !s.sourceAlive q && decide (0 < r.rate) then
        let rate := if s.followed q then 48000 else r.rate
        let start := b.start_ + b.samples.length * rfHz / rate
        let n := if s.now ≤ start then 0 else ceilDiv ((s.now - start) * rate) rfHz
        s.progSpan q true rate start (List.replicate n none) false
      else s
    | none => s) s

/-! ## Inserts (R213 to R220) -/

/-- The programmes that an insert has now. -/
def State.insMembers (s : State) (i : Nat) : List Nat := (s.insertR i).members.filter (fun p => (s.progR p).insert == some i)

/-- The mask of the slates of R220. -/
def progMask (ps : List Nat) : Nat := (ps.map (fun p => 2 ^ p)).foldl (fun a b => a ||| b) 0

/-- The items that INSERT_ON and INSERT_OFF carry (R220). -/
def insItems (i : Nat) (n : Insert) (ps : List Nat) : List Byte :=
  leBytes 1 i ++ leBytes 1 (n.byte 5) ++ leBytes 1 (n.byte 1) ++ leBytes 1 (n.byte 2) ++ leBytes 8 (progMask ps)

def InsertCause.code : InsertCause → Nat
  | .stop => 0 | .preempted => 1 | .sourceLost => 2

/-- An insert ends: the rest of the FEED entry being read is discarded with the last insert on its ring (R354). -/
def State.insertEnd (s : State) (i : Nat) : State :=
  let n := s.insertR i
  let s := s.modInsert i (fun _ => Insert.reset)
  let others := (List.range 8).any (fun j => let m := s.insertR j; m.active && m.byte 1 == 1 && m.byte 2 == n.byte 2)
  if n.byte 1 = 1 ∧ others = false ∧ 0 < (s.ring (n.byte 2)).inRead then s.feedRelease (n.byte 2) else s

/-- The intervals of a programme once insert `i` ends at `t`. -/
def ProgRun.airOff (r : ProgRun) (i t : Nat) : List AirIns :=
  r.airIns.map (fun a => if a.ins = i ∧ a.to_ = none then { a with to_ := some t } else a)

/-- The intervals of a programme once an insert has taken it: one that it is moved away from ends there. -/
def ProgRun.airOn (r : ProgRun) (a : AirIns) : List AirIns :=
  if r.airIns.any (fun x => x.ins == a.ins && x.to_.isNone) then r.airIns
  else
    let l := r.airIns.map (fun x => if x.to_ = none then { x with to_ := some a.from_ } else x) ++ [a]
    l.drop (l.length - 8)

/-- INSERT_ON (R214, R215, R220): at the alignment-frame boundary the insert takes its programmes, some of them from other inserts. -/
def execInsertOn (i : Nat) (s : State) : Out :=
  match (s.insertR i).startAt with
  | none => done s s
  | some b =>
    let u := (s.advance b).feedStep
    let n := u.insertR i
    let ps := n.starting.filter (fun p => (u.life ⟨.prog, p⟩).cmd ≠ .closed && !(u.cas.st == .member && u.cas.fence.isSome))
    let live := ps.filter (fun p => u.running .prog p)
    -- programmes that leave other inserts
    let moved (j : Nat) : List Nat := if j = i then [] else ps.filter (fun p => (u.progR p).insert == some j)
    let v := (List.range 8).foldl (fun (v : State) j =>
      let out := moved j
      if out.isEmpty then v
      else
        let v := v.slateT 0x0603 v.devId b (insItems j (v.insertR j) (out.filter (fun p => u.running .prog p)) ++
          leBytes 1 InsertCause.preempted.code)
        v.modInsert j (fun m => { m with members := m.members.filter (fun p => !out.contains p) })) u
    let v := ps.foldl (fun (v : State) p => v.modProg p (fun r => { r with
      insertOld := if r.insert = some i ∨ v.running .prog p = false ∨ r.insertFrom = none then none else r.insert,
      insert := some i, insertFrom := if v.running .prog p then some b else none, insertTo := none,
      airIns := if v.running .prog p then r.airOn ⟨i, n.inl, n.text, b, none⟩ else r.airIns })) v
    let v := v.modInsert i (fun n => { n with
      startAt := none, starting := [], members := distinct (n.members ++ ps), onAt := some (n.onAt.getD b),
      fadeFrom := some b, fadeOut := false, takenAt := if n.onAt.isSome then n.takenAt else b })
    let v := v.slateT 0x0602 v.devId b (insItems i n live)
    let v := (List.range 8).foldl (fun (v : State) j =>
      if (moved j).isEmpty || !(v.insMembers j).isEmpty || !(v.insertR j).starting.isEmpty then v else v.insertEnd j) v
    done s (if (v.insMembers i).isEmpty then v.insertEnd i else v)

/-- A programme that an insert releases at once. -/
def ProgRun.released (r : ProgRun) : ProgRun := { r with insert := none, insertFrom := none, insertTo := none, insertOld := none }

/-- INSERT_OFF (R214, R218, R220): at the boundary the programmes released begin their crossfade out. -/
def execInsertOff (i : Nat) (s : State) : Out :=
  match (s.insertR i).stopAt with
  | none => done s s
  | some b =>
    let u := (s.advance b).feedStep
    let n := u.insertR i
    let ps := n.stopping.filter (fun p => (u.progR p).insert == some i)
    let live := ps.filter (fun p => u.running .prog p && (u.progR p).insertFrom.isSome)
    let v := u.slateT 0x0603 u.devId b (insItems i n live ++ leBytes 1 n.cause.code)
    let v := ps.foldl (fun (v : State) p => v.modProg p (fun r =>
      if live.contains p then { r with insertTo := some b, airIns := r.airOff i (b + n.span) }
      else { r.released with airIns := r.airOff i b })) v
    let v := v.modInsert i (fun n => { n with
      stopAt := none, stopping := [], fadeFrom := some b, fadeOut := true,
      starting := n.starting.filter (fun p => !ps.contains p),
      offAt := if (v.insMembers i).all (fun p => live.contains p) then some b else n.offAt })
    done s (if (v.insMembers i).isEmpty && (v.insertR i).starting.isEmpty then v.insertEnd i else v)

/-- INSERT_CROSSFADE_END (R213, R214): the crossfade that began last has ended; programmes that it released are free. -/
def execInsertCrossfadeEnd (i : Nat) (s : State) : Out :=
  match (s.insertR i).fadeFrom with
  | none => done s s
  | some b =>
    let u := (s.advance (b + (s.insertR i).span)).feedStep
    let ps := u.insMembers i
    let past (p : Nat) : Bool := match (u.progR p).insertTo with | some e => decide (e + (u.insertR i).span ≤ u.now) | none => false
    let v := ps.foldl (fun (v : State) p => v.modProg p (fun r =>
      if past p then r.released else { r with insertOld := none })) u
    let v := v.modInsert i (fun n => { n with fadeFrom := none, fadeOut := false, members := n.members.filter (fun p => !past p) })
    done s (if (v.insMembers i).isEmpty && (v.insertR i).starting.isEmpty then v.insertEnd i else v)

/-- INSERT_UNDERRUN (R217): the source of an active insert fails to supply a sample; one slate and one set an episode. -/
def execInsertUnderrun (t i : Nat) (s : State) : Out :=
  let u := (s.advance t).feedStep
  let n := u.insertR i
  done s (if n.reads && u.insertFails n && !n.underrun then
    ((u.modInsert i (fun n => { n with underrun := true, underAt := u.now })).setFlag fInsertUnderrun).slateDet 0x0601 u.devId []
  else u)

/-- The CK_RF count at which LOSS_TIME of a failing insert has passed. -/
def Insert.lossAt (n : Insert) : Nat := n.underAt + (n.inl.extractLsb' 96 16).toNat * (rfHz / 10)

/-- Under REVERT a failing insert ends at the next alignment frame. -/
def State.insertLost (u : State) (i : Nat) : State :=
  let n := u.insertR i
  if n.underrun && n.byte 11 == 1 && n.stopAt.isNone then
    u.modInsert i (fun m => { m with
      stopAt := some (alignNext perAlign u.now), stopping := u.insMembers i ++ m.starting, cause := .sourceLost })
  else u

/-- INSERT_LOSS_TIMEOUT (R217): the failure has lasted LOSS_TIME; under REVERT the insert ends at the next boundary. -/
def execInsertLossTimeout (i : Nat) (s : State) : Out :=
  let n := s.insertR i
  done s (if n.reads && n.underrun then (s.advance n.lossAt).feedStep.insertLost i else s)

/-- The programmes of this device that a PROG or GROUP target names. -/
def State.targetProgs (s : State) (i : Id) : List Nat :=
  ((s.flatten 256 i).filter (fun x => idKind x == Kind.prog.code && s.idLocal x)).map idIdx

/-- Every PROG that a target names, on any device. -/
def State.targetAny (s : State) (i : Id) : List Id := (s.flatten 256 i).filter (fun x => idKind x == Kind.prog.code)

/-- The insert that holds a programme or is about to take it. -/
def State.holder (s : State) (p : Nat) : Option Nat :=
  match (List.range 8).find? (fun j => let n := s.insertR j; n.active && n.starting.contains p) with
  | some j => some j
  | none => (s.progR p).insert

/-- The first byte of an INSERT_START block that R216 or R219 refuses. -/
def State.insertBad (s : State) (d : Desc) : Option Nat :=
  let b (k : Nat) : Nat := d.inlByte k
  let stereo := (b 4).testBit 0
  let slots := fget (s.life ⟨.port, b 2⟩).blk ptSlots
  let clash := b 1 == 1 && s.inserts.any (fun n =>
    n.active && n.byte 1 == 1 && n.byte 2 == b 2 && n.byte 4 % 4 != b 4 % 4)
  let loss := d.inlAt 12 2
  (([(0, decide (b 0 ≤ 7)), (1, decide (b 1 ≤ 1)),
     (2, if b 1 = 0 then decide (b 2 ≤ 3) else decide (b 2 ≤ 63) && (s.ring (b 2)).isRunning kFeed),
     (3, b 1 != 0 || decide (b 3 + bit stereo ≤ slots)), (4, !clash), (5, decide (b 5 ≤ 7)),
     (6, decide (1 ≤ b 6 ∧ b 6 ≤ 25)), (8, !((b 8).testBit 2 && d.plen == 0)), (9, !(b 8).testBit 1 || decide (b 9 ≤ 31)),
     (10, !(b 8).testBit 3 || decide (b 10 ≤ 15)),
     (11, decide (b 11 ≤ 1)), (12, decide (1 ≤ loss ∧ loss ≤ 600))] : List (Nat × Bool)).find? (fun c => !c.2)).map Prod.fst

/-- Member indices whose devices hold some of the named objects, other than this one. -/
def State.otherMembers (s : State) (ids : List Id) : List Nat :=
  distinct ((ids.filter (fun x => !s.idLocal x)).map idDev)

/-- INSERT_START (R214 to R216, R219). -/
def cmdInsertStart (d : Desc) (s : State) : CmdResult :=
  let all := s.targetAny d.object
  let mine := s.targetProgs d.object
  let others := s.otherMembers all
  let i := d.inlByte 0
  if (idKind d.object ≠ Kind.prog.code ∧ idKind d.object ≠ Kind.group.code) ∨ all.isEmpty = true then s.fail .badObject
  else match s.insertBad d with
  | some k => s.bad (24 + k)
  | none =>
    if 64 < d.plen.toNat then s.fail .lengthExceeds
    else
      let prio (j : Nat) : Nat := (s.insertR j).byte 5
      let free (p : Nat) : Bool := match s.holder p with | some j => decide (prio j ≤ d.inlByte 5) | none => true
      let open_ := mine.filter (fun p => decide ((s.life ⟨.prog, p⟩).cmd ≠ .closed))
      if (s.insertR i).active || (idKind d.object == Kind.prog.code && mine.any (fun p => (s.life ⟨.prog, p⟩).background)) ||
          (others.isEmpty && !open_.isEmpty && !open_.any free) then s.fail .notPermitted
      else
        let ps := open_.filter (fun p => free p && !(s.life ⟨.prog, p⟩).background)
        let b := alignNext perAlign s.now
        let s := (List.range 8).foldl (fun s j => s.modInsert j (fun n => { n with starting := n.starting.filter (fun p => !ps.contains p) })) s
        let s := s.modInsert i (fun _ => { Insert.reset with
          active := true, inl := d.inl, text := d.bytes, startAt := some b, starting := ps })
        { s.okAt b with carry := others }

/-- INSERT_STOP (R218, R219). -/
def cmdInsertStop (d : Desc) (s : State) : CmdResult :=
  let all := s.targetAny d.object
  let others := s.otherMembers all
  let i := d.inlByte 0
  let n := s.insertR i
  if (idKind d.object ≠ Kind.prog.code ∧ idKind d.object ≠ Kind.group.code) ∨ all.isEmpty = true then s.fail .badObject
  else if 7 < i then s.bad 24
  else if n.active = false then s.fail .notPermitted
  else
    let b := alignNext perAlign s.now
    let ps := (s.targetProgs d.object).filter (fun p => s.holder p == some i || (s.progR p).insert == some i)
    let s := if ps.isEmpty then s else
      s.modInsert i (fun n => { n with stopAt := some b, stopping := distinct (n.stopping ++ ps), cause := .stop })
    { s.okAt b with carry := others }

end Sys2Proof.Machine
end

