-- ==== Sys2Proof/Machine/Services.lean ====
section
/-! DEFINITION. The service decoder: what RDS groups, FIGs, SDC and AMSS entities say, announcements, ageing and dumps (R175 to R185, R221). -/
namespace Sys2Proof.Machine
open Sys2Proof

def State.modSvc (s : State) (f : Services → Services) : State := { s with svc := f s.svc }

/-! ## Announcements (R221) -/

/-- The slate ANNOUNCE: origin, key, ON or OFF, types, cluster, sub-channel. -/
def State.annSlate (s : State) (a : Ann) (on : Bool) : State :=
  s.slateDet 0x0604 a.origin.object (leBytes 4 a.origin.object.toNat ++ leBytes 4 a.key ++ leBytes 1 (bit (!on)) ++
    leBytes 2 a.types ++ leBytes 1 a.cluster ++ leBytes 1 a.sub)

/-- Two entries report one announcement. -/
def sameAnn (a b : Ann) : Bool :=
  a.origin == b.origin && a.cluster == b.cluster && a.eon == b.eon &&
  (a.cluster != 0xFF || (a.key == b.key && a.types == b.types))

/-- An announcement is signalled ON now: the slate for one that was not. -/
def State.annOn (s : State) (a : Ann) : State :=
  if s.svc.anns.any (sameAnn a) then
    s.modSvc (fun v => { v with anns := v.anns.map (fun b => if sameAnn a b then { b with lastAt := s.now, types := a.types } else b) })
  else (s.modSvc (fun v => { v with anns := v.anns ++ [a] })).annSlate a true

/-- The announcements that meet a test are OFF. -/
def State.annOff (s : State) (sel : Ann → Bool) : State :=
  let gone := s.svc.anns.filter sel
  gone.foldl (fun s a => s.annSlate a false) (s.modSvc (fun v => { v with anns := v.anns.filter (fun a => !sel a) }))

/-- An announcement of an FMD origin is confirmed ON or OFF. -/
def State.annFm (s : State) (o : Origin) (key types : Nat) (on eon : Bool) : State :=
  let a : Ann := ⟨o, key, 0xFF, types, 0xFF, s.now, eon⟩
  if on then s.annOn a else s.annOff (sameAnn a)

/-! ## Texts (R184) -/

/-- A text cut to 128 bytes at the last whole UTF-8 character that fits. -/
def cutText (bs : List Byte) : List Byte :=
  if bs.length ≤ 128 then bs
  else
    let cont (b : Byte) : Bool := b.toNat / 64 == 2
    let n := ([128, 127, 126, 125] : List Nat).find? (fun n => !cont (byteAt bs n))
    bs.take (n.getD 128)

/-- The two or four characters of a segment, first one highest. -/
def segChars (n v : Nat) : List Byte := (leBytes n v).reverse

/-! ## RDS groups (R177, R185) -/

/-- What the service decoder keeps for FMD `d`. -/
def State.rdsC (s : State) (d : Nat) : RdsConfirm := (s.svc.confirm[d]?).getD RdsConfirm.reset
def State.modRdsC (s : State) (d : Nat) (f : RdsConfirm → RdsConfirm) : State :=
  s.modSvc (fun v => { v with confirm := modAt d f v.confirm })

/-- A segment received: the list with the value kept, and whether it is confirmed. -/
def segPut (i v : Nat) (segs : List (Option Nat)) (oks : List Bool) : List (Option Nat) × List Bool :=
  (putAt i (some v) segs, putAt i (decide ((segs.getD i none) = some v)) oks)

/-- A block that the service decoder may use. -/
def rdsUsable (b : RdsBlk) : Bool := b.stat == .ok || b.stat == .corrSmall

/-- Block `i` of a group, when it may be used. -/
def grpUse (g : RdsGroup) (i : Nat) : Option Nat :=
  match g.blocks[i]? with
  | some b => if rdsUsable b then some b.word.toNat else none
  | none => none

/-- An AF code as an entry (R185): 1 to 204 in the FM band, and after code 250 an LF or MF channel (PRESUMED, log 20). -/
def afEntry (lf : Bool) (code flags : Nat) : Option AltE :=
  if lf then
    if 1 ≤ code ∧ code ≤ 15 then some ⟨1, flags, 0xFFFF, 144 + 9 * code⟩
    else if 16 ≤ code ∧ code ≤ 135 then some ⟨1, flags, 0xFFFF, 387 + 9 * code⟩ else none
  else if 1 ≤ code ∧ code ≤ 204 then some ⟨0, flags, 0xFFFF, 87500 + 100 * code⟩ else none

/-- The entries of a list of codes, method A. -/
def afList : List Nat → List AltE
  | [] => []
  | [c] => (afEntry false c 0).toList
  | c :: d :: cs => if c = 250 then (afEntry true d 0).toList ++ afList cs else (afEntry false c 0).toList ++ afList (d :: cs)

/-- The pairs of a method B list: the other frequency of each, REGIONAL when the pair descends. -/
def afPairs (tuned : Nat) : List Nat → List AltE
  | a :: b :: cs => (afEntry false (if a = tuned then b else a) (if b < a then 2 else 0)).toList ++ afPairs tuned cs
  | _ => []

/-- Every pair names the tuned frequency. -/
def allPairs (tuned : Nat) : List Nat → Bool
  | [] => true
  | a :: b :: cs => (a == tuned || b == tuned) && allPairs tuned cs
  | _ => false

/-- Two codes taken into a collection that begins with its count; a list that is complete comes out with its SRC (R185). -/
def afTake (held : List Nat) (c1 c2 : Nat) : List Nat × Option (Nat × List AltE) :=
  let held := if 224 ≤ c1 ∧ c1 ≤ 249 then [c1 - 224, c2] else if held.isEmpty then [] else held ++ [c1, c2]
  match held with
  | [] => ([], none)
  | n :: raw =>
    let cs := raw.filter (fun c => c != 205)
    if n = 0 then ([], some (0, []))
    else if (cs.filter (fun c => c != 250)).length < n then (held, none)
    else
      match cs with
      | tuned :: rest =>
        if 3 ≤ n ∧ n % 2 = 1 ∧ allPairs tuned rest = true then ([], some (1, afPairs tuned rest)) else ([], some (0, afList cs))
      | [] => ([], none)

/-- Radiotext (R177): segments in, and the text once it is complete. -/
def State.rdsRt (s : State) (d : Nat) (o : Origin) (key ab addr width v : Nat) (time : Word64) : State :=
  let c := s.rdsC d
  let c := if c.rtAb = some (decide (ab = 1)) then c
    else { c with rt := List.replicate 16 none, rtOk := List.replicate 16 false, rtAb := some (decide (ab = 1)) }
  let p := segPut addr v c.rt c.rtOk
  let s := s.modRdsC d (fun _ => { c with rt := p.1, rtOk := p.2 })
  let seen := (indexed 0 p.1).filter (fun x => x.2.isSome)
  let ended (x : Nat × Option Nat) : Bool :=
    p.2.getD x.1 false && (segChars width (x.2.getD 0)).contains 0x0D
  let last : Option Nat := match seen.find? ended with
    | some x => some x.1
    | none => (seen.getLast?).map Prod.fst
  match last with
  | none => s
  | some m =>
    if (p.2.take (m + 1)).all id then
      let text := ((p.1.take (m + 1)).flatMap (fun (x : Option Nat) => segChars width (x.getD 0))).takeWhile (fun b => b != 0x0D)
      s.putText ⟨o, 0, key, 1, 0, text⟩ time
    else s

/-- Block B and what it announces of the group, for the confirmed PI `key` of FMD `d` (R177; field places PRESUMED, log 20). -/
def State.rdsTables (s : State) (d key : Nat) (g : RdsGroup) (time : Word64) : State :=
  let o : Origin := ⟨s.idOf .fmd d, 0⟩
  let s := s.confirmOrigin o
  let s := s.upsertSvc { s.svcOf o 0 key with stale := false } time
  match grpUse g 1 with
  | none => s.modRdsC d (fun c => { c with ptyTp := none })
  | some b =>
    let c := s.rdsC d
    let v := bitsAt b 5 6
    let tp := b.testBit 10
    let s := s.modRdsC d (fun c => { c with ptyTp := some v })
    let s := if c.ptyTp = some v then
        let e := s.svcOf o 0 key
        let s := s.upsertSvc { e with pty := bitsAt b 5 5, flags := e.flags / 2 * 2 + bit tp } time
        let s := s.annFm o key 1 (bitsAt b 5 5 == 31) false
        if tp then s else s.annFm o key 2 false false
      else s
    let type := bitsAt b 12 4
    let verB := b.testBit 11
    if type = 0 then
      let v := bitsAt b 3 2
      let c := s.rdsC d
      let s := s.modRdsC d (fun c => { c with taMs := some v })
      let s := if c.taMs = some v then
          let e := s.svcOf o 0 key
          let s := s.upsertSvc { e with flags := e.flags % 2 + 2 * bit (b.testBit 4) + 4 * bit (b.testBit 3) + e.flags / 8 * 8 } time
          s.annFm o key 2 (b.testBit 4 && e.flags.testBit 0) false
        else s
      let s := match grpUse g 3 with
        | none => s
        | some w =>
          let c := s.rdsC d
          let p := segPut (b % 4) w c.ps c.psOk
          let s := s.modRdsC d (fun c => { c with ps := p.1, psOk := p.2 })
          if p.2.all id then
            let text := p.1.flatMap (fun (x : Option Nat) => segChars 2 (x.getD 0))
            (s.upsertSvc { s.svcOf o 0 key with label := text } time).putText ⟨o, 0, key, 0, 0, text⟩ time
          else s
      match grpUse g 2 with
      | some w =>
        if verB then s
        else
          let r := afTake (s.rdsC d).af (w / 256) (w % 256)
          let s := s.modRdsC d (fun c => { c with af := r.1 })
          match r.2 with
          | some (src, es) => s.putAlt o ⟨0, key, src, 0, 0xFFFF, es⟩
          | none => s
      | none => s
    else if type = 1 then
      match grpUse g 2 with
      | some w =>
        if verB || bitsAt w 12 3 != 0 then s
        else
          let c := s.rdsC d
          let s := s.modRdsC d (fun c => { c with ecc := some (w % 256) })
          if c.ecc = some (w % 256) then s.upsertSvc { s.svcOf o 0 key with ecc := w % 256 } time else s
      | none => s
    else if type = 2 then
      match grpUse g 2, grpUse g 3 with
      | c?, some w =>
        if verB then s.rdsRt d o key (bitsAt b 4 1) (b % 16) 2 w time
        else match c? with
          | some u => s.rdsRt d o key (bitsAt b 4 1) (b % 16) 4 (u * 65536 + w) time
          | none => s
      | _, none => s
    else if type = 10 then
      match grpUse g 2, grpUse g 3 with
      | some u, some w =>
        if verB then s
        else
          let c := s.rdsC d
          let p := segPut (b % 2) (u * 65536 + w) c.ptyn c.ptynOk
          let s := s.modRdsC d (fun c => { c with ptyn := p.1, ptynOk := p.2 })
          if p.2.all id then s.putText ⟨o, 0, key, 2, 0, p.1.flatMap (fun (x : Option Nat) => segChars 4 (x.getD 0))⟩ time else s
      | _, _ => s
    else if type = 14 then
      match grpUse g 3 with
      | none => s
      | some pi =>
        if verB then s.annFm o pi 2 (b.testBit 3) true
        else match grpUse g 2 with
          | none => s
          | some w =>
            let variant := b % 16
            if variant = 4 then
              let held := (((s.rdsC d).eonAf.find? (fun (x : Nat × List Nat) => x.1 == pi)).map Prod.snd).getD []
              let r := afTake held (w / 256) (w % 256)
              let s := s.modRdsC d (fun c => { c with eonAf := (pi, r.1) :: c.eonAf.filter (fun (x : Nat × List Nat) => x.1 != pi) })
              match r.2 with
              | some (_, es) => s.putAlt o ⟨0, pi, 2, 0, 0xFFFF, es⟩
              | none => s
            else if 5 ≤ variant ∧ variant ≤ 9 then
              match afEntry (variant == 9) (w % 256) 0 with
              | none => s
              | some e =>
                let old := ((s.svc.alts.find? (fun (a : AltEntry) => a.origin == o && a.alt.keyKind == 0 && a.alt.key == pi && a.alt.src == 2)).map
                  (fun a => a.alt.entries)).getD []
                if old.contains e then s else s.putAlt o ⟨0, pi, 2, 0, 0xFFFF, (old ++ [e]).take 32⟩
            else s
    else s

/-- A new PI is confirmed: what was collected for the old one is forgotten (R177). -/
def State.rdsForget (s : State) (d : Nat) : State := s.modRdsC d (fun _ => RdsConfirm.reset)

/-! ## FIGs, SDC and AMSS entities (R178 to R180) -/

/-- The engine and channel of an origin. -/
def Origin.ee (o : Origin) : Nat := idIdx o.object

/-- A sub-channel's place among the 64 of its engine: DRM streams stand at channel × 4 + stream (R171). -/
def State.subNo (s : State) (o : Origin) (sub : Nat) : Nat :=
  if fget (s.life ⟨.ee, o.ee⟩).cur eeStd = 0 then sub else o.chan * 4 + sub

def State.modSub (s : State) (e i : Nat) (f : EeSub → EeSub) : State := s.modEe e (fun r => { r with subs := modAt i f r.subs })
def State.sub (s : State) (e i : Nat) : EeSub := ((s.eeR e).subs[i]?).getD EeSub.reset

/-- A component of a service as facts give it. -/
def State.compOf (s : State) (o : Origin) (keyKind key sub type : Nat) (primary : Bool) (bitrate : Nat) (org : Option SubOrg) : Component :=
  let g := org.getD ⟨0, 0, 0, false⟩
  ⟨o, keyKind, key, sub, type, if fget (s.life ⟨.ee, o.ee⟩).cur eeStd = 0 then g.start else 0, g.size, g.prot, primary, bitrate⟩

/-- The service entry of a key with the ensemble's identifier, no longer STALE. -/
def State.svcLive (s : State) (o : Origin) (keyKind key : Nat) : Service :=
  let eid := if keyKind = 1 ∨ keyKind = 2 then ((s.chan o.ee o.chan).eid).getD 0 else 0
  { s.svcOf o keyKind key with stale := false, eid := eid }

/-- One fact about an origin (R178 to R180, R221). -/
def State.applyFact (o : Origin) (time : Word64) (s : State) (f : Fact) : State :=
  match f with
  | .ensemble eid _ al change =>
    let s := (s.modChan o.ee o.chan (fun c => { c with eid := some eid })).modEe o.ee (fun r => { r with reconfigAt := change })
    let s := s.modSvc (fun v => { v with alarm := (o, al) :: v.alarm.filter (fun a => a.1 != o) })
    if al then s else
      let s := s.annOff (fun a => a.origin == o && a.cluster != 0xFF && a.types == 1)
      s.modSvc (fun v => { v with anns := v.anns.map (fun a =>
        if a.origin = o ∧ a.cluster ≠ 0xFF then { a with types := a.types / 2 * 2 } else a) })
  | .subch next id start size prot =>
    let i := s.subNo o id
    let org : SubOrg := ⟨start, size, prot, (s.sub o.ee i).org.map SubOrg.dabPlus == some true⟩
    if next then s.modSub o.ee i (fun u => { u with next := some org })
    else
      let s := s.modSub o.ee i (fun u => { u with org := some org })
      (s.svc.comp.filter (fun c => c.origin == o && c.subch == id)).foldl (fun s c =>
        s.upsertComp (s.compOf o c.keyKind c.key id c.type c.primary c.bitrate (some org)) time) s
  | .comp next keyKind key sub type primary bitrate ca =>
    let i := s.subNo o sub
    if next then
      let org := match (s.sub o.ee i).next with | some g => some g | none => (s.sub o.ee i).org
      let c := s.compOf o keyKind key sub type primary bitrate org
      s.modSvc (fun v => { v with nextComp := v.nextComp.filter (fun x => !sameComp x c) ++ [c] })
    else
      let s := s.modSub o.ee i (fun u => { u with org := u.org.map (fun g => { g with dabPlus := type == 1 }) })
      let e := s.svcLive o keyKind key
      let data := keyKind == 2 || (primary && (type == 2 || type == 5))
      let flags := e.flags % 8 + 8 * bit (data || (!primary && e.flags.testBit 3)) + 16 * bit (ca || e.flags.testBit 4)
      (s.upsertSvc { e with flags := flags } time).upsertComp
        (s.compOf o keyKind key sub type primary bitrate (s.sub o.ee i).org) time
  | .lang keyKind key lang => s.upsertSvc { s.svcLive o keyKind key with lang := lang } time
  | .pty keyKind key pty => s.upsertSvc { s.svcLive o keyKind key with pty := pty } time
  | .ecc keyKind key ecc => s.upsertSvc { s.svcLive o keyKind key with ecc := ecc } time
  | .label keyKind key type charset text =>
    let text := cutText text
    let s := if type = 3 then s.upsertSvc { s.svcLive o keyKind key with label := text.take 16 } time else s
    s.putText ⟨o, keyKind, key, type, charset, text⟩ time
  | .alt a => s.putAlt o a
  | .annSupport key types clusters =>
    s.modSvc (fun v => { v with
      support := v.support.filter (fun x => !(x.1 == o && x.2.1 == key)) ++ [(o, key, types, clusters)] })
  | .annSwitch cluster types sub =>
    let al := ((s.svc.alarm.find? (fun a => a.1 == o)).map Prod.snd).getD false
    let types := if al then types else types / 2 * 2
    let key := ((s.svc.support.find? (fun x => x.1 == o && x.2.2.2.contains cluster)).map (fun x => x.2.1)).getD 0
    let a : Ann := ⟨o, key, cluster, types, sub, s.now, false⟩
    if types = 0 then s.annOff (sameAnn a) else s.annOn a
  | .service keyKind key => s.upsertSvc (s.svcLive o keyKind key) time
  | .truncated => s

/-- The facts before an entry that its own fields declare too long (R178, R180). -/
def beforeTruncated (fs : List Fact) : List Fact := fs.takeWhile (fun f => f != .truncated)

/-- The facts of an origin, in order. -/
def State.applyFacts (s : State) (o : Origin) (time : Word64) (fs : List Fact) : State :=
  (beforeTruncated fs).foldl (State.applyFact o time) s

/-- The FIGs of a data field that stand, and whether one ran past its end (R178). `n` bounds the number of headers. -/
def figs : Nat → List Byte → List (List Byte) × Bool
  | 0, _ => ([], false)
  | _, [] => ([], false)
  | n + 1, h :: bs =>
    let len := h.toNat % 32
    if h = 0xFF then ([], false)
    else if bs.length < len then ([], true)
    else
      let r := figs n (bs.drop len)
      ((h :: bs.take len) :: r.1, r.2)

/-- A FIG of those the device takes can say a fact: by its type, and by its extension in the low bits of its first data byte (R178; places PRESUMED,
log 21). -/
def figSays (g : List Byte) (f : Fact) : Bool :=
  match g with
  | h :: b :: _ =>
    let type := h.toNat / 32
    let ext := b.toNat % 32
    match f with
    | .truncated => true
    | .label .. => (type == 1 || type == 2) && [0, 1, 5].contains (b.toNat % 8)
    | .ensemble .. => type == 0 && ext == 0
    | .subch .. => type == 0 && ext == 1
    | .comp .. => type == 0 && [2, 3, 8].contains ext
    | .service .. => type == 0 && ext == 2
    | .lang .. => type == 0 && ext == 5
    | .pty .. => type == 0 && ext == 17
    | .ecc .. => type == 0 && ext == 9
    | .alt .. => type == 0 && [6, 21, 24].contains ext
    | .annSupport .. => type == 0 && ext == 18
    | .annSwitch .. => type == 0 && ext == 19
  | _ => false

/-- What the standing FIGs of a data field say, of the facts that are read from it: each with its FIG's number (R178). -/
def figFacts (gs : List (List Byte)) (facts : List (Nat × Fact)) : List (Nat × Fact) :=
  facts.filter (fun f => match gs[f.1]? with | some g => figSays g f.2 | none => false)

/-- The FIGs of a FIB that passed its CRC (R178). -/
def State.parseFib (s : State) (o : Origin) (time : Word64) (data : List Byte) (facts : List (Nat × Fact)) : State :=
  let r := figs 30 (data.take 30)
  let s := if r.2 then s.modSvc (fun v => { v with figOverrun := v.figOverrun + 1 }) else s
  let fs := figFacts r.1 facts
  (List.range r.1.length).foldl (fun s n => s.applyFacts o time ((fs.filter (fun f => f.1 == n)).map Prod.snd)) (s.confirmOrigin o)

/-- The bytes of an SDC data field: what stands between the AFS index and the CRC (R164, R179; the index of four bits PRESUMED, log 21). -/
def sdcField (nbits : Nat) (data : List Byte) : List Nat :=
  let nib (k : Nat) : Nat := if k % 2 = 0 then (byteAt data (k / 2)).toNat / 16 else (byteAt data (k / 2)).toNat % 16
  (List.range ((nbits - 20) / 8)).map (fun i => 16 * nib (2 * i + 1) + nib (2 * i + 2))

/-- The types of the entities of an SDC data field, in order; none when a body would run past its end (R179). A header is two bytes: seven bits of
length, one bit, four bits of type, four bits (log 21). `n` bounds the number of headers. -/
def sdcTypes : Nat → List Nat → Option (List Nat)
  | 0, _ => some []
  | n + 1, bs =>
    if bs.all (· == 0) then some []
    else match bs with
      | a :: b :: rest => if rest.length < a / 2 then none else (sdcTypes n (rest.drop (a / 2))).map (fun l => b / 16 :: l)
      | _ => some []

/-- The entities of an SDC block that passed its CRC (R179). -/
def State.parseSdc (s : State) (o : Origin) (time : Word64) (nbits : Nat) (data : List Byte) (d : SdcIn) : State :=
  let s := s.confirmOrigin o
  if d.unchanged then s
  else match sdcTypes (nbits / 16 + 1) (sdcField nbits data) with
    | none => s.modSvc (fun v => { v with sdcOverrun := v.sdcOverrun + 1 })
    | some types =>
      ((indexed 0 types).filter (fun e => [0, 1, 3, 5, 9, 11].contains e.2)).foldl
        (fun s e => s.applyFacts o time ((d.entities.filter (fun f => f.1 == e.1)).map Prod.snd)) s

/-- An AMSS block reaches the service decoder (R180): the bits of consecutive OK blocks are kept, a BAD one discards them. -/
def State.takeAmss (s : State) (d : Nat) (b : AmssIn) (time : Word64) : State :=
  if b.ok then
    let o : Origin := ⟨s.idOf .amd d, 0⟩
    let s := s.modSvc (fun v => { v with amss := modAt d (fun l =>
      (if b.block = 1 then [] else l) ++ (leBytes 4 b.bits.toNat).reverse) v.amss })
    (s.confirmOrigin o).applyFacts o time b.facts
  else s.modSvc (fun v => { v with amss := putAt d [] v.amss })

/-- The next DAB configuration of an origin applies (R178, R181): components and services missing from it are removed. -/
def State.applyReconfig (s : State) (o : Origin) (time : Word64) : State :=
  let next := s.svc.nextComp.filter (fun c => c.origin == o)
  let s := s.modSvc (fun v => { v with nextComp := v.nextComp.filter (fun c => c.origin != o) })
  if next.isEmpty then s
  else
    let lost := s.svc.comp.filter (fun c => c.origin == o && !next.any (sameComp c))
    let s := s.modSvc (fun v => { v with comp := v.comp.filter (fun c => !lost.contains c) })
    let s := lost.foldl (fun s c => s.putComp c evRemoved time) s
    let gone := s.svc.svc.filter (fun v => v.origin == o && !next.any (fun c => c.keyKind == v.keyKind && c.key == v.key))
    let s := s.modSvc (fun v => { v with svc := v.svc.filter (fun x => !gone.contains x) })
    let s := gone.foldl (fun s v => s.putSvc v evRemoved time) s
    next.foldl (fun s c =>
      let org := (s.sub o.ee (s.subNo o c.subch)).org
      (s.upsertSvc (s.svcLive o c.keyKind c.key) time).upsertComp
        (s.compOf o c.keyKind c.key c.subch c.type c.primary c.bitrate org) time) s

/-! ## Ageing and dumps (R175, R181, R221) -/

/-- An origin delivers side data: it has sync, or lock, and is not ABSENT. -/
def State.originAlive (s : State) (o : Origin) : Bool :=
  match s.refOf o.object with
  | some ⟨.fmd, i⟩ => (s.fmdR i).rds == .sync && !(s.fmdR i).core.absent
  | some ⟨.amd, i⟩ => (s.amdR i).amss == .sync && !(s.amdR i).core.absent
  | some ⟨.ee, i⟩ => let c := (s.chan i o.chan).sync; c == .fic || c == .locked || c == .sync
  | _ => false

/-- An origin has given no confirming data for `secs` seconds. -/
def State.silentFor (s : State) (o : Origin) (secs : Nat) : Bool :=
  match s.svc.lastData.find? (fun x => x.1 == o) with
  | some x => decide (x.2 + secs * rfHz ≤ s.now)
  | none => true

/-- ENTRY_STALE (R181). -/
def execEntryStale (t : Nat) (origin : Id) (chan : Nat) (s : State) : Out :=
  let u := s.advance t
  let hit (o : Origin) : Bool := u.canon o.object == u.canon origin && o.chan == chan && !u.originAlive o && u.silentFor o 10
  done s (u.staleOrigin hit (fun _ => true))

/-- ENTRY_REMOVED (R181). -/
def execEntryRemoved (t : Nat) (origin : Id) (chan : Nat) (s : State) : Out :=
  let u := s.advance t
  let hit (o : Origin) : Bool := u.canon o.object == u.canon origin && o.chan == chan && !u.originAlive o && u.silentFor o 60
  done s (u.removeOrigin hit)

/-- ANNOUNCE_TIMEOUT (R221): 2 s without the cluster's FIG 0/19, or without 14B for an EON announcement. -/
def execAnnounceTimeout (t : Nat) (origin : Id) (chan cluster : Nat) (s : State) : Out :=
  let u := s.advance t
  done s (u.annOff (fun a => u.canon a.origin.object == u.canon origin && a.origin.chan == chan && a.cluster == cluster &&
    (a.eon || a.cluster != 0xFF) && decide (a.lastAt + 2 * rfHz ≤ u.now)))

/-- SIDE_DUMP (R175): the dump of a source that is due on a ring is written. -/
def execSideDump (t ring : Nat) (source : Id) (s : State) : Out :=
  let u := s.advance t
  if (u.ring ring).isRunning kSide && u.svc.dumps.any (fun d => d.1 == ring && d.2.1 == u.canon source) then
    done s (u.dumpSource ring (u.canon source))
  else done s u

end Sys2Proof.Machine
end

