-- ==== Sys2Proof/Machine/Follow.lean ====
section
/-! DEFINITION. Frequency following: candidates, probes, offsets, the standby, changes of source, and the commands and query block (R186 to R200). -/
namespace Sys2Proof.Machine
open Sys2Proof

def State.follow (s : State) (p : Nat) : Follow := (s.progR p).follow
def State.modCand (s : State) (p k : Nat) (g : Cand → Cand) : State := s.modFollow p (fun f => { f with cands := modAt k g f.cands })
def Follow.cand (f : Follow) (k : Nat) : Option Cand := f.cands[k]?

/-- STATE codes of R199. -/
def FollowSt.code : FollowSt → Nat
  | .off => 0 | .waitId => 1 | .following => 2 | .suspended => 3
def CandSt.code : CandSt → Nat
  | .idle => 0 | .probe => 1 | .aligning => 2 | .ready => 3 | .standby => 4 | .active => 5 | .ineligible => 6 | .starved => 7

/-! ## The service key and the candidate list (R186) -/

/-- STD of a programme's home source. -/
def State.homeStd (s : State) (p : Nat) : Nat :=
  match s.progSource (s.life ⟨.prog, p⟩).cur with
  | some (⟨.amd, _⟩, _) => 1
  | some (⟨.ee, e⟩, _) => if fget (s.life ⟨.ee, e⟩).cur eeStd = 0 then 2 else 3
  | _ => 0

/-- KEY_KIND and key of a programme's home source, once known. -/
def State.homeKey (s : State) (p : Nat) : Option (Nat × Nat) :=
  match s.progSource (s.life ⟨.prog, p⟩).cur, s.homeOrigin p with
  | some (⟨.fmd, i⟩, _), _ => (s.fmdR i).piConf.map (fun k => (0, k.toNat))
  | some (⟨.amd, i⟩, _), some o =>
    if fbit (s.life ⟨.amd, i⟩).cur amAmssEn then
      (s.svc.svc.find? (fun v => v.origin == o && v.keyKind == 4)).map (fun v => (4, v.key))
    else if (s.follow p).hostList.any (fun c => c.flags.testBit 0) then some (4, 0) else none
  | some (⟨.ee, e⟩, sub), some o =>
    let sub := if fget (s.life ⟨.ee, e⟩).cur eeStd = 0 then sub else sub % 4
    (s.svc.comp.find? (fun c => c.origin == o && c.subch == sub)).map (fun c => (c.keyKind, c.key))
  | _, _ => none

/-- A candidate nobody has looked at. -/
def newCand (e : HostCand) (origin : Nat) (st : CandSt) : Cand :=
  ⟨e, origin, st, 0, none, 0, 0, none, [], 0, false, [], 0, false, false⟩

/-- Two keys name one service: a PI and an SId of 16 bits share their numbers (R187). -/
def sameKey (kindA a kindB b : Nat) : Bool := a == b && (kindA == kindB || (kindA ≤ 1 && kindB ≤ 1))

/-- The learned entries: those of the ALT records of the service's key that give a frequency (R186). -/
def State.learned (s : State) (f : Follow) : List Cand :=
  if fbit f.policy afLearn then
    (s.svc.alts.filter (fun a => sameKey a.alt.keyKind a.alt.key f.keyKind f.key)).flatMap (fun a =>
      (a.alt.entries.filter (fun e => !e.flags.testBit 0)).map (fun e =>
        newCand ⟨e.std, a.alt.flags % 2, 0, e.freq, 0, e.eid⟩ (0x80 + a.alt.src) .idle))
  else []

/-- Without entries that repeat a standard and a frequency. -/
def dropRepeats (seen : List (Nat × Nat)) : List Cand → List Cand
  | [] => []
  | c :: cs =>
    let k := (c.entry.std, c.entry.freqKHz)
    if seen.contains k then dropRepeats seen cs else c :: dropRepeats (k :: seen) cs

/-- The list of R186 as it should stand now: home, host entries, learned entries. -/
def State.wanted (s : State) (p : Nat) : List Cand :=
  let f := s.follow p
  let home := newCand ⟨s.homeStd p, 0, 0, match s.homeOrigin p with | some o => s.originKHz o | none => 0, 0, 0xFFFF⟩ 0xF .idle
  let host := f.hostList.map (fun e => newCand e 0xF .idle)
  let extra := dropRepeats (host.map (fun c => (c.entry.std, c.entry.freqKHz))) (s.learned f)
  home :: (host ++ extra).take 11

/-- The place of a candidate in a list: the home source stays at 0. -/
def findCand (c : Cand) (k : Nat) (l : List Cand) : Option Nat :=
  if k = 0 then some 0
  else ((indexed 0 l).find? (fun x => x.1 != 0 && x.2.entry == c.entry && x.2.origin == c.origin)).map Prod.fst

/-- The list brought up to date: what is known of an entry that stays is kept; an active entry that leaves stays to the next change,
and the background objects of one that leaves otherwise are closed (R186, R196). -/
def State.relist (s : State) (p : Nat) : State :=
  let f := s.follow p
  let new := s.wanted p
  let old := indexed 0 f.cands
  let kept := (indexed 0 new).map (fun x =>
    match old.find? (fun y => findCand y.2 y.1 new == some x.1) with
    | some y => { y.2 with entry := x.2.entry }
    | none => x.2)
  let place (k : Nat) : Option Nat := match f.cands[k]? with | some c => findCand c k new | none => none
  let act := f.cands[f.active]?
  let cands := match place f.active, act with
    | none, some c => kept.take 11 ++ [c]
    | _, _ => kept
  let active := (place f.active).getD (if act.isSome then cands.length - 1 else 0)
  let gone := (old.filter (fun y => y.1 != f.active && (findCand y.2 y.1 new).isNone)).flatMap (fun y => y.2.background)
  let s := gone.foldl (fun s i => match idRef i with | none => s | some r => s.closeNow0 r s.now) s
  (s.modProg p (fun r => { r with pool := r.pool.filterMap (fun a =>
    if a.cand = f.active then some { a with cand := active } else (place a.cand).map (fun k => { a with cand := k })) })).modFollow p (fun f => { f with
    cands := cands, active := active, standby := f.standby.bind place,
    change := f.change.bind (fun ch => (place ch.target).map (fun k => { ch with target := k })),
    rival := (place f.rival).getD 0, rivalTicks := if (place f.rival).isSome then f.rivalTicks else 0 })

/-! ## Records and slates (R200) -/

/-- A FOLLOW record. -/
def State.followRec (s : State) (p event old new flags : Nat) (delta : Int) (bNew : Int) (time : Word64) : State :=
  let f := s.follow p
  let rOf (k : Nat) : Int := match f.cand k with | some c => c.r | none => 0
  s.putSide 9 0x20 (s.idOf .prog p) 0 (leBytes 1 event ++ leBytes 1 old ++ leBytes 1 new ++ leBytes 1 flags ++
    leBytes 4 (unsignedOf 32 delta) ++ leBytes 2 (unsignedOf 16 (rOf old)) ++ leBytes 2 (unsignedOf 16 (rOf new)) ++
    leBytes 4 (unsignedOf 32 bNew) ++ leBytes 8 time.toNat ++ zeros 8)

/-- A candidate is STARVED for this probe cycle (R188). -/
def State.starve (s : State) (p k : Nat) : State :=
  let s := s.modCand p k (fun c => { c with st := .starved, since := s.now })
  let s := s.modFollow p (fun f => { f with starved := satU 16 (f.starved + 1) })
  s.followRec p 3 0xFF k 0 0 0 s.t64

/-- The background objects of a candidate are closed. -/
def State.releaseCand (s : State) (p k : Nat) : State :=
  match (s.follow p).cand k with
  | some c =>
    let s := c.background.foldl (fun s i => match idRef i with | none => s | some r => s.closeNow0 r s.now) s
    s.modCand p k (fun c => { c with background := [] })
  | none => s

/-- A candidate fails a test of R187: it is INELIGIBLE and its background objects are released. The target of a change keeps them until the
change is complete (R195). -/
def State.dropCand (s : State) (p k : Nat) : State :=
  let held := match (s.follow p).change with | some ch => ch.target == k | none => false
  (if held then s else s.releaseCand p k).modCand p k (fun c => { c with st := .ineligible, since := s.now, delta := none, lags := [], miss := 0 })

/-! ## Background objects (R188) -/

/-- The highest-indexed CLOSED object of a kind that belongs to no group. -/
def State.spare (s : State) (k : Kind) : Option Nat :=
  let member (i : Nat) : Bool := s.host.groups.any (fun g => g.defined && g.members.any (fun x => s.canon x == mkId 0xFF ⟨k, i⟩))
  ((List.range k.count).reverse).find? (fun i => decide ((s.life ⟨k, i⟩).cmd = .closed ∧ (s.life ⟨k, i⟩).eff = .closed) && !member i)

/-- An object opened as a background object with a block, and run at the next Plain-frame boundary. -/
def State.runBackground (s : State) (r : Ref) (blk : Blk) : State :=
  let t := alignUp perFrame s.now
  (s.modLife r (fun _ => { Life.at .held blk with cmd := .run, dueAt := some t, background := true })).settleRef r

/-- The selectors of a set of inputs of this device. -/
def selectors (mask : Nat) : List Nat := (([0, 1, 2, 3] : List Nat).filter mask.testBit).map (fun i => 0x80 + i)

/-- The Pass block of a candidate: its frequency, class, usual settings, inputs, and the smallest NSB that R82 allows. -/
def State.backPass (s : State) (p : Nat) (c : Cand) : Blk :=
  let home := match s.progSource (s.life ⟨.prog, p⟩).cur with
    | some (⟨.fmd, i⟩, _) => fget (s.life ⟨.fmd, i⟩).cur dmPass
    | some (⟨.amd, i⟩, _) => fget (s.life ⟨.amd, i⟩).cur dmPass
    | some (⟨.ee, e⟩, sub) =>
      fget (s.life ⟨.ee, e⟩).cur (eePass (if fget (s.life ⟨.ee, e⟩).cur eeStd = 0 then 0 else sub / 4))
    | _ => 0
  let ins := if c.entry.inputs % 16 = 0 then (List.range 4).map (fun n => fget (s.life ⟨.pass, home⟩).cur (psIn n))
    else selectors c.entry.inputs
  let tune := (rheDiv (c.entry.freqKHz * 65536 : Nat) 15).toNat
  let b := fset (resetBlk .pass) psTune tune
  let b := (List.range 4).foldl (fun b n => fset b (psIn n) (ins.getD n 0)) b
  let b := match c.entry.std with
    | 0 => fset (fset b psClass 1) psTake 1
    | 1 => fset (fset b psClass 2) psTake 1
    | 2 => fset (fset (fset b psRateK 0) psResp 0x0B) psCicLen 0
    | _ =>
      if c.entry.freqKHz < 30000 then fset (fset (fset b psRateK 5) psResp 0x0E) psCicLen 15
      else fset (fset (fset b psRateK 4) psResp 0x0D) psCicLen 7
  let l := s.onLband b
  let nsb := ((List.range 4).find? (fun n => passBandOk l (fset b psNsb n))).getD 3
  fset b psNsb nsb

/-- Background objects for a candidate without an origin in RUN: a Pass with a demodulator or an engine. None when an object or a
budget is wanting. -/
def State.openBackground (s : State) (p k : Nat) : Option State :=
  match (s.follow p).cand k with
  | none => none
  | some c =>
    let kind := match c.entry.std with | 0 => Kind.fmd | 1 => Kind.amd | _ => Kind.ee
    let inUse := ((s.follow p).cands.filter (fun x => x.background.any (fun i => idKind i == Kind.pass.code))).length
    match s.spare .pass, s.spare kind with
    | some a, some b =>
      let blk := s.backPass p c
      let probe := s.modLife ⟨.pass, a⟩ (fun _ => Life.at .held blk)
      if fget (s.follow p).policy afMaxBg ≤ inUse ∨ probe.passRunCheck a ≠ .ok then none
      else
        let s := s.runBackground ⟨.pass, a⟩ blk
        let dblk := match c.entry.std with
          | 0 => fset (resetBlk .fmd) dmPass a
          | 1 => fset (fset (resetBlk .amd) dmPass a) amAmssEn 1
          | 2 => fset (resetBlk .ee) (eePass 0) a
          | _ => fset (fset (resetBlk .ee) (eePass 0) a) eeStd (if c.entry.freqKHz < 30000 then 1 else 2)
        let s := s.runBackground ⟨kind, b⟩ dblk
        some (s.modCand p k (fun c => { c with background := c.background ++ [mkId 0xFF ⟨.pass, a⟩, mkId 0xFF ⟨kind, b⟩] }))
    | _, _ => none

/-- The background programme of a candidate that enters ALIGNING, unless a programme in RUN decodes its component. -/
def State.openSourceProg (s : State) (p k : Nat) : Option State :=
  if (s.candProg p k).isSome then some s
  else match s.candSource p k, s.spare .prog with
    | some src, some q =>
      let blk := fset (fset (resetBlk .prog) pgSource (mkId 0xFF src.1).toNat) pgSubch src.2
      let codec := match src.1.kind with
        | .ee =>
          let type := ((s.svc.comp.find? (fun c => s.canon c.origin.object == mkId 0xFF src.1 && c.primary &&
            s.subNo c.origin c.subch == src.2)).map Component.type).getD 0xFF
          (match type with | 0 => 2 | 1 => 3 | 3 => 4 | 4 => 5 | _ => 0)
        | _ => 1
      let blk := fset blk pgCodec codec
      let probe := s.modLife ⟨.prog, q⟩ (fun _ => Life.at .held blk)
      if probe.progRunCheck q ≠ .ok then none
      else some ((s.runBackground ⟨.prog, q⟩ blk).modCand p k (fun c => { c with background := c.background ++ [mkId 0xFF ⟨.prog, q⟩] }))
    | _, _ => none

/-! ## Q and R (R190) -/

/-- Ticks of a span in 0.1 s. -/
def ticksOf (tenths : Nat) : Nat := ceilDiv (tenths * (rfHz / 10)) perTick

/-- Q of an origin now, in 0.25 dB. -/
def State.instQ (s : State) (p k : Nat) (c : Cand) (o : Origin) : Int :=
  let pol := (s.follow p).policy
  match c.entry.std, idRef o.object with
  | 0, some ⟨_, i⟩ =>
    let g := (s.fmdR i).core.figures
    g.cnr - 4 * (fget pol afRefFm : Int) - rheDiv (g.multipath * 4 : Nat) 25
  | 1, some ⟨_, i⟩ => (s.amdR i).core.figures.cnr - 4 * (fget pol afRefAm : Int)
  | std, some ⟨_, e⟩ =>
    let ch := s.chan e o.chan
    if std = 2 then
      match s.candSource p k with
      | some (_, i) =>
        let u := s.sub e i
        let uncorr := (s.eeR e).outs.any (fun x => x.chan == o.chan && x.sub == i && x.flags.testBit 3)
        let failed := match u.rsFailTick with | some t => decide (s.tick < t + ticksOf 20) | none => false
        if uncorr || failed || !u.decoded then -80 else ch.figures.merMsc - 4 * (fget pol afRefDab : Int)
      | none => -80
    else ch.figures.wmerMsc - 4 * ((fget pol afRefDrm : Int) + (match ch.constellation with | 1 => 6 | 2 => 12 | _ => 0))
  | _, none => -80

/-- One tick of the average with a time constant of 1 s; a tick is 2/1875 s. -/
def emaStep (q : Option Int) (v : Int) : Int :=
  let x := v * 65536
  match q with
  | none => x
  | some q => q + rheDiv ((x - q) * 2) 1875

/-- Q in 0.25 dB. -/
def Cand.q4 (c : Cand) : Int := match c.q with | some q => rheDiv q 65536 | none => -32768

/-- R of a candidate (R190). -/
def rankOf (f : Follow) (c : Cand) : Int :=
  satSigned 16 (c.q4 + (if 2 ≤ c.entry.std then 2 * signedOf 8 (fget f.policy afBias) else 0) + (if c.entry.flags.testBit 2 then 12 else 0))

/-- Q and R of every source that has an origin. -/
def State.tickQ (s : State) (p : Nat) : State :=
  (List.range (s.follow p).cands.length).foldl (fun s k =>
    match (s.follow p).cand k, s.candOrigin p k with
    | some c, some o =>
      if c.st = .idle ∨ c.st = .ineligible ∨ c.st = .starved then s
      else
        let q := emaStep c.q (s.instQ p k c o)
        s.modCand p k (fun c => let c := { c with q := some q }; { c with r := rankOf (s.follow p) c })
    | _, _ => s) s

/-! ## Eligibility (R187) -/

/-- An origin gives a signal. -/
def State.hasSignal (s : State) (o : Origin) : Bool :=
  match idRef o.object with
  | some ⟨.fmd, i⟩ => !(s.fmdR i).core.absent
  | some ⟨.amd, i⟩ => !(s.amdR i).core.absent
  | some ⟨.ee, e⟩ => (s.chan e o.chan).sync == .locked
  | _ => false

/-- The identity of candidate `k` matches on its origin. -/
def State.identity (s : State) (p k : Nat) : Bool :=
  match (s.follow p).cand k, s.candOrigin p k with
  | some c, some o =>
    let key := candKey (s.follow p) c
    if c.entry.flags.testBit 0 ∧ c.entry.key = 0 then s.hasSignal o
    else match c.entry.std, idRef o.object with
      | 0, some ⟨_, i⟩ => (s.fmdR i).piConf.map BitVec.toNat == some key
      | 1, _ => s.svc.svc.any (fun v => v.origin == o && v.keyKind == 4 && v.key == key && !v.stale)
      | _, some ⟨_, e⟩ =>
        (c.entry.eid == 0xFFFF || (s.chan e o.chan).eid == some c.entry.eid || c.entry.std == 3) &&
        s.svc.svc.any (fun v => v.origin == o && v.key == key && !v.stale) &&
        (match s.candSource p k with | some (_, i) => (s.sub e i).decoded | none => false)
      | _, none => false
  | _, _ => false

/-- The tests of R187 but for the offset. -/
def State.eligible (s : State) (p k : Nat) : Bool :=
  let f := s.follow p
  match f.cand k, f.cand f.active with
  | some c, some a =>
    !c.entry.flags.testBit 1 && (c.entry.std == a.entry.std || fbit f.policy afCrossStd) && s.identity p k
  | _, _ => false

/-! ## The standby (R192) -/

/-- The read delay of a candidate; 0 for one without an established offset. -/
def readDelay (f : Follow) (c : Cand) : Int := match c.delta with | some d => (f.bAct : Int) - d | none => 0

/-- The pool limit of R192. -/
def poolFits (f : Follow) (c : Cand) : Bool := decide (0 ≤ readDelay f c ∧ (f.bAct : Int) + readDelay f c ≤ 120000)

/-- A candidate that may be standby: READY or STANDBY, with an offset or ALLOW_UNALIGNED, within the pool. -/
def mayStand (f : Follow) (k : Nat) (c : Cand) : Bool :=
  k != f.active && (c.st == .ready || c.st == .standby) && (c.delta.isSome || fbit f.policy afAllowUnaligned) && poolFits f c

/-- A new standby, or none (R192, R200). -/
def State.setStandby (s : State) (p : Nat) (k : Option Nat) : State :=
  let f := s.follow p
  if f.standby = k then s
  else
    let s := match f.standby with
      | some j => s.modCand p j (fun c => { c with st := if c.st = CandSt.standby then .ready else c.st, usable := false })
      | none => s
    let s := s.modFollow p (fun f => { f with standby := k, betterTicks := 0, rivalTicks := 0 })
    match k with
    | none => s
    | some k =>
      match f.cand k with
      | none => s
      | some c =>
        let b := readDelay f c
        let s := (s.modCand p k (fun c => { c with st := .standby, usable := false })).modFollow p (fun f => { f with bSb := b })
        s.followRec p 1 f.active k (if c.delta.isSome then 0 else 1) (c.delta.getD 0) b s.t64

/-- The choice of a standby in a state of a service (R192). -/
def State.chooseStandby (s : State) (p : Nat) : State :=
  let s := s.modFollow p (fun f => { f with cands := (indexed 0 f.cands).map (fun x =>
    { x.2 with outOfRange := x.1 != f.active && x.2.st == .ready && x.2.delta.isSome && !poolFits f x.2 }) })
  let f := s.follow p
  if f.change.isSome then s
  else if fget f.policy afMode = 2 then
    let k := fget f.policy afForce
    match f.cand k with
    | some c => s.setStandby p (if mayStand f k c then some k else none)
    | none => s.setStandby p none
  else
    let best := ((indexed 0 f.cands).filter (fun x => mayStand f x.1 x.2)).foldl (fun (b : Option (Nat × Cand)) x =>
      match b with | none => some x | some y => if y.2.r < x.2.r then some x else some y) none
    match f.standby.bind (fun j => (f.cand j).map (fun c => (j, c))), best with
    | none, b => s.setStandby p (b.map Prod.fst)
    | some (j, c), some (k, d) =>
      if mayStand f j c = false then s.setStandby p (some k)
      else if k ≠ j ∧ c.r + 4 < d.r then
        let n := if f.rival = k then f.rivalTicks + 1 else 1
        if ticksOf 50 ≤ n then s.setStandby p (some k)
        else s.modFollow p (fun f => { f with rival := k, rivalTicks := n })
      else s.modFollow p (fun f => { f with rivalTicks := 0 })
    | some (j, c), none => if mayStand f j c then s else s.setStandby p none

/-! ## The management tick (R190 to R193) -/

/-- A change to the standby is decided: it begins at the next alignment-frame boundary (R193, R194). -/
def State.decide_ (s : State) (p k frames : Nat) (absentCause : Bool) : State :=
  let start := alignNext perAlign s.now
  s.modFollow p (fun f => { f with
    change := some ⟨k, start, start + frames * perAlign, ((f.cand k).map (fun c => c.delta.isNone)).getD true, absentCause, false⟩ })

/-- The decision of R193. -/
def State.decideChange (s : State) (p : Nat) : State :=
  let f := s.follow p
  let absent := match s.candProg p f.active with | some q => (s.progR q).srcAbsent | none => true
  let act := f.cand f.active
  let sb := f.standby.bind f.cand
  let qAct := (act.map Cand.q4).getD (-32768)
  let rAct := (act.map Cand.r).getD (-32768)
  let better := match sb with
    | some c => decide (rAct + 2 * (fget f.policy afSwitchMargin : Int) ≤ c.r)
    | none => false
  let s := s.modFollow p (fun f => { f with
    failTicks := if qAct < 0 then f.failTicks + 1 else 0, betterTicks := if better then f.betterTicks + 1 else 0,
    absentTicks := if absent then f.absentTicks + 1 else 0, failRaised := f.failRaised && absent })
  let f := s.follow p
  let xf := fget f.policy afXfade
  if f.change.isSome then s
  else match f.standby, sb with
    | some k, some c =>
      if c.usable = false then s
      else if fget f.policy afMode = 2 then (if k = fget f.policy afForce then s.decide_ p k xf false else s)
      else if ceilDiv perAlign perTick ≤ f.absentTicks then s.decide_ p k 1 true
      else if ticksOf (fget f.policy afFailHold) ≤ f.failTicks ∧ 0 < f.failTicks ∧ 0 ≤ c.q4 then s.decide_ p k xf false
      else if ticksOf (5 * fget f.policy afSwitchHold) ≤ f.betterTicks ∧
          (f.lastChange = 0 ∨ f.lastChange + fget f.policy afDwell * 2 * rfHz ≤ s.now) then s.decide_ p k xf false
      else s
    | _, _ =>
      if absent ∧ f.failRaised = false ∧ 0 < (s.progR p).delivered then
        let s := s.modFollow p (fun f => { f with failRaised := true })
        let s := s.followRec p 2 f.active 0xFF 2 0 0 s.t64
        s.slateDet 0x0501 (s.idOf .prog p) (leBytes 4 (s.idOf .prog p).toNat ++ leBytes 1 f.active ++ leBytes 1 0xFF)
      else s

/-- The level scale moves toward 0 dB at 0.5 dB a second: 8 steps of 1/16 dB, 2/1875 s a tick (R194). -/
def decayScale (x : Int) : Int :=
  let step : Int := 8 * 65536 * 2 / 1875
  if x < 0 then min 0 (x + step) else max 0 (x - step)

/-- The sums of a correlation over two windows of equal length, the means removed: n times the covariance and the variances (R191, log 92). -/
structure Corr where
  cross : Int
  own : Nat
  other : Nat
  deriving DecidableEq, Repr

/-- The correlation of two windows. -/
def corrOf (xs ys : List Int) : Corr :=
  let n : Int := xs.length
  let x := xs.sum
  let y := ys.sum
  ⟨n * ((xs.zip ys).map (fun v => v.1 * v.2)).sum - x * y, (n * (xs.map (fun v => v * v)).sum - x * x).toNat, (n * (ys.map (fun v => v * v)).sum - y * y).toNat⟩

/-- The normalised peak × 1000, rounded down; nothing correlates negatively. -/
def Corr.mille (c : Corr) : Nat := if c.cross ≤ 0 ∨ c.own * c.other = 0 then 0 else isqrt (c.cross.toNat ^ 2 * 1000000 / (c.own * c.other))

/-- The normalised value is at least `m` / 255. -/
def Corr.atLeast (c : Corr) (m : Nat) : Bool := decide (0 < c.cross ∧ m ^ 2 * (c.own * c.other) ≤ (255 * c.cross.toNat) ^ 2)

/-- One correlation is larger than another, both normalised. -/
def Corr.over (a b : Corr) : Bool :=
  decide (0 < a.cross) && (decide (b.cross ≤ 0) || decide (b.cross.toNat ^ 2 * (a.own * a.other) < a.cross.toNat ^ 2 * (b.own * b.other)))

/-- The largest of the correlations at the lags from `lo` on. -/
def bestLag (lo : Int) (cs : List Corr) : Int × Corr :=
  (indexed 0 cs).foldl (fun (m : Int × Corr) x => if x.2.over m.2 then (lo + x.1, x.2) else m) (0, ⟨0, 0, 0⟩)

/-- The coarse measurement (R191): the envelope of the candidate over 4 s against that of the active source at lags of -2.5 s to +2.5 s, in ms; the latest
window for which every lag can be read. None while the histories do not reach so far. -/
def coarse (act cand : PoolArea) : Option (Int × Corr) :=
  let n := min act.envLast cand.envLast
  if cand.env.length < cand.envLast - n + 6500 ∨ act.env.length < act.envLast - n + 9000 then none
  else
    let ys := (cand.env.drop (cand.envLast - n + 2500)).take 4000
    some (bestLag (-2500) ((List.range 5001).map (fun k => corrOf ((act.env.drop (act.envLast - n + k)).take 4000) ys)))

/-- The fine measurement (R191): the offset in sample frames within ±2 ms of `d`, and how far the active source's level lies above the candidate's
over the same window, in 1/16 dB. -/
def fineMeasure (act cand : PoolArea) (d : Int) : Option (Int × Int) :=
  let w := Config.fineWindow % 65536 + 1
  let m := min (cand.last : Int) ((act.last : Int) + d - 96)
  let sums (a : PoolArea) (newest : Int) : List Int := ((a.hist.drop ((a.last : Int) - newest).toNat).take w).map (fun x => match x with | some v => v.1 + v.2 | none => 0)
  let ys := sums cand m
  let at_ (k : Nat) : List Int := sums act (m - (d - 96 + k))
  if m < 0 ∨ ys.length < w ∨ (at_ 192).length < w then none
  else
    let best := bestLag (d - 96) ((List.range 193).map (fun k => corrOf (at_ k) ys))
    let energy (l : List Int) : Nat := (l.map (fun v => (v * v).toNat)).sum
    let a := energy (sums act (m - best.1))
    let b := energy ys
    if best.2.cross ≤ 0 ∨ a = 0 ∨ b = 0 then none else some (best.1, logSteps 160 a b)

/-- The fine measurement of the standby (R191). -/
def State.tickFine (s : State) (p : Nat) : State :=
  let f := s.follow p
  let area (k : Nat) : PoolArea := (s.progR p).area k
  match f.standby.bind (fun k => (f.cand k).bind (fun c => c.delta.bind (fun d => (fineMeasure (area f.active) (area k) d).map (fun x => (k, x))))) with
  | some (k, lag, level) =>
    let s := s.modCand p k (fun c => { c with delta := if c.delta.isSome then some lag else c.delta, levelDiff := level })
    if (s.follow p).change.isSome then s
    else s.modFollow p (fun f => { f with bSb := match f.cand k with | some c => readDelay f c | none => f.bSb })
  | none => s

/-- The candidates that no longer pass the tests of R187 but for the offset become INELIGIBLE. -/
def State.tickEligible (s : State) (p : Nat) : State :=
  (List.range (s.follow p).cands.length).foldl (fun s k =>
    match (s.follow p).cand k with
    | some c =>
      if k ≠ (s.follow p).active ∧ (c.st = .aligning ∨ c.st = .ready ∨ c.st = .standby) ∧ s.eligible p k = false then s.dropCand p k else s
    | none => s) s

/-- The home source becomes known: the candidates are listed, and those that a RUN within 60 s finds READY get their objects again
(R186, R195). -/
def State.followStart (s : State) (p kind key : Nat) : State :=
  let s := (s.modFollow p (fun f => { f with st := .following, keyKind := kind, key := key })).relist p
  let s := s.modCand p 0 (fun c => { c with st := .active, delta := none })
  (List.range (s.follow p).cands.length).foldl (fun s k =>
    match (s.follow p).cand k with
    | some c =>
      if k ≠ 0 ∧ c.st = .ready then
        let t := if (s.candOrigin p k).isSome then some s else s.openBackground p k
        match t.bind (fun t => t.openSourceProg p k) with
        | some t => t
        | none => (s.releaseCand p k).starve p k
      else s
    | none => s) s

/-- The part of a management tick for one followed service. -/
def State.tickFollow1 (s : State) (p : Nat) : State :=
  if !s.followed p then s
  else
    let s := match (s.follow p).st, s.homeKey p with
      | .waitId, some (kind, key) => s.followStart p kind key
      | .following, some (kind, key) =>
        (s.modFollow p (fun f => { f with keyKind := kind, key := key })).relist p
      | _, _ => s
    if (s.follow p).st = .following then
      let home := match s.progSource (s.life ⟨.prog, p⟩).cur with
        | some (r, _) => decide ((s.life r).cmd ≠ .closed)
        | none => false
      let s := if (s.follow p).active ≠ 0 ∧ home = false then s.modCand p 0 (fun c => { c with st := .ineligible }) else s
      let s := ((s.tickEligible p).tickQ p).tickFine p
      let s := s.modFollow p (fun f => { f with scale := decayScale f.scale })
      (s.chooseStandby p).decideChange p
    else s

/-- The part of a management tick for all followed services. -/
def State.tickFollow (s : State) : State := (List.range 64).foldl State.tickFollow1 s

/-! ## Events -/

/-- A service is being followed and `k` is one of its candidates other than the active one. -/
def State.candLive (s : State) (p k : Nat) : Bool :=
  s.running .prog p && (s.follow p).st == .following && k != (s.follow p).active && decide (k < (s.follow p).cands.length)

/-- FOLLOW_PROBE_START (R188, R189). -/
def execFollowProbeStart (t p k : Nat) (s : State) : Out :=
  let u := s.advance t
  match (u.follow p).cand k with
  | some c =>
    if u.candLive p k && (c.st == .idle || c.st == .ineligible || c.st == .starved) then
      let v := u.releaseCand p k
      let w := if (v.candOrigin p k).isSome then some v else v.openBackground p k
      match w with
      | some w => done s (w.modCand p k (fun c => { c with st := .probe, since := w.now, q := none }))
      | none => done s (v.starve p k)
    else done s u
  | none => done s u

/-- How long a probe measures, in CK_RF cycles (R189). -/
def probeSpan (std : Nat) : Nat := (match std with | 0 => 1 | 3 => 5 | _ => 2) * rfHz

/-- PROBE_END (R187 to R189). -/
def execProbeEnd (t p k : Nat) (s : State) : Out :=
  let u := s.advance t
  match (u.follow p).cand k with
  | some c =>
    if u.candLive p k && c.st == .probe && decide (c.since + probeSpan c.entry.std ≤ u.now) then
      let ok := u.eligible p k
      let q := match u.candOrigin p k, c.q with
        | some o, none => u.instQ p k c o
        | _, _ => c.q4
      let measured := ((u.follow p).cands.filter (fun x => x.st == .aligning || x.st == .ready || x.st == .standby)).length
      if ok && decide (-24 ≤ q) then
        if 4 ≤ measured then done s ((u.releaseCand p k).modCand p k (fun c => { c with st := .idle, since := u.now, identity := ok }))
        else match u.openSourceProg p k with
          | some v => done s (v.modCand p k (fun c => { c with st := .aligning, since := v.now, identity := ok, lags := [], miss := 0 }))
          | none => done s ((u.releaseCand p k).starve p k)
      else done s ((u.dropCand p k).modCand p k (fun c => { c with identity := ok }))
    else done s u
  | none => done s u

/-- Two lags agree within 2 ms, 96 sample frames (R191). -/
def agree (a b : Int) : Bool := decide ((a - b).natAbs ≤ 96)

/-- A coarse measurement of a candidate in ALIGNING, READY or STANDBY: the lag in ms and the correlation there. Three in a row that count and agree establish
the offset, three in a row that do not lose it (R191). -/
def State.takeCoarse (u : State) (p k : Nat) (c : Cand) (m : Int × Corr) : State :=
  let lag := 48 * m.1
  let counts := m.2.atLeast (fget (u.follow p).policy afCorrMin)
  let fits := match c.delta with | some d => agree d lag | none => c.lags.all (agree lag)
  let good := counts && fits
  let lags := if good then (lag :: c.lags).take 3 else if counts then [lag] else []
  let miss := if good then 0 else c.miss + 1
  let v := u.modCand p k (fun c => { c with peak := m.2.mille, lags := lags, miss := miss })
  match c.delta with
  | none =>
    if 3 ≤ lags.length then
      (v.modCand p k (fun c => { c with
        delta := some lag, st := if c.st = .aligning then .ready else c.st, since := if c.st = .aligning then v.now else c.since })).chooseStandby p
    else v
  | some _ =>
    if 3 ≤ miss then
      (if fbit (u.follow p).policy afAllowUnaligned then v.modCand p k (fun c => { c with delta := none, lags := [], miss := 0 })
       else v.dropCand p k).chooseStandby p
    else if good ∧ c.st ≠ .standby then v.modCand p k (fun c => { c with delta := some lag })
    else v

/-- COARSE_MEASURE (R191). -/
def execCoarseMeasure (t p k : Nat) (s : State) : Out :=
  let u := s.advance t
  match (u.follow p).cand k, coarse ((u.progR p).area (u.follow p).active) ((u.progR p).area k) with
  | some c, some m =>
    done s (if u.candLive p k && (c.st == .aligning || c.st == .ready || c.st == .standby) then u.takeCoarse p k c m else u)
  | _, _ => done s u

/-- ALIGN_TIMEOUT (R189): 30 s in ALIGNING without an offset; under ALLOW_UNALIGNED the candidate stays eligible. -/
def execAlignTimeout (t p k : Nat) (s : State) : Out :=
  let u := s.advance t
  match (u.follow p).cand k with
  | some c =>
    if u.candLive p k && c.st == .aligning && decide (c.since + 30 * rfHz ≤ u.now) then
      if fbit (u.follow p).policy afAllowUnaligned then
        done s ((u.modCand p k (fun c => { c with st := .ready, since := u.now })).chooseStandby p)
      else done s (u.dropCand p k)
    else done s u
  | none => done s u

/-- POOL_FILLED (R192): the standby's pool area holds b_sb of history. -/
def execPoolFilled (t p : Nat) (s : State) : Out :=
  let u := s.advance t
  match (u.follow p).standby with
  | some k =>
    if (u.follow p).bSb ≤ ((u.progR p).area k).hist.length then done s (u.modCand p k (fun c => { c with usable := true })) else done s u
  | none => done s u

/-- CROSSFADE_START (R194, R195, R200): a hold at the same boundary applies and the change is not made. -/
def execCrossfadeStart (p : Nat) (s : State) : Out :=
  match (s.follow p).change with
  | some ch =>
    if ch.started then done s s
    else
      let u := s.advance ch.start
      if u.followed p then
        let f := u.follow p
        let time := u.t64At ch.start
        let v := u.modFollow p (fun f => { f with
          change := some { ch with started := true }, switches := satU 16 (f.switches + 1), lastTime := time, lastChange := ch.start })
        let v := v.slateT 0x0500 (v.idOf .prog p) ch.start
          (leBytes 4 (v.idOf .prog p).toNat ++ leBytes 1 f.active ++ leBytes 1 ch.target)
        done s (v.followRec p 0 f.active ch.target (bit ch.unaligned + 2 * bit ch.absentCause)
          (((f.cand ch.target).bind Cand.delta).getD 0) f.bSb time)
      else done s u
  | none => done s s

/-- CROSSFADE_END (R194): the roles change. -/
def execCrossfadeEnd (p : Nat) (s : State) : Out :=
  match (s.follow p).change with
  | some ch =>
    if ch.started then
      let u := s.advance ch.stop
      if u.followed p then
        let v := u.modFollow p (fun f =>
          let cands := (indexed 0 (f.rebase ch.target)).map (fun x =>
            if x.1 = ch.target then { x.2 with st := .active, usable := false }
            else if x.1 = f.active then { x.2 with st := .ready, since := u.now } else x.2)
          { f with
            cands := cands, active := ch.target, standby := none, bAct := f.bSb.toNat, scale := levelScale f ch.target, change := none,
            failTicks := 0, betterTicks := 0, absentTicks := 0 })
        done s ((v.relist p).chooseStandby p)
      else done s u
    else done s s
  | none => done s s

/-- OFFSET_RETENTION_END (R195): 60 s after the hold the offsets are forgotten. -/
def execOffsetRetentionEnd (p : Nat) (s : State) : Out :=
  match (s.follow p).keepUntil with
  | some t =>
    let u := s.advance t
    if (u.follow p).st = .suspended then done s (u.modFollow p (fun f => { f with cands := [], keepUntil := none })) else done s u
  | none => done s s

/-! ## Commands and query (R196 to R199) -/

/-- An entry of a host list. -/
def hostCand (bs : List Byte) : HostCand :=
  ⟨leAt bs 0 1, leAt bs 1 1 % 8, leAt bs 2 1 % 16, leAt bs 4 4, leAt bs 8 4, leAt bs 12 2⟩

/-- A frequency in kHz within the aerial band or the L-band (R82, R54). -/
def bandOk (khz : Nat) : Bool := decide ((100 ≤ khz ∧ khz ≤ 245000) ∨ (1452000 ≤ khz ∧ khz ≤ 1492000))

/-- The entries of a host list buffer. -/
def hostList (bs : List Byte) : List HostCand := (List.range (bs.length / 16)).map (fun i => hostCand (bs.drop (16 * i)))

/-- The first byte of a host list that R198 refuses. -/
def hostBad (l : List HostCand) : Option Nat :=
  ((indexed 0 l).flatMap (fun x => (if 3 < x.2.std then [16 * x.1] else []) ++ (if bandOk x.2.freqKHz then [] else [16 * x.1 + 4]))).head?

/-- AF_LIST_SET (R196, R198). -/
def cmdAfListSet (d : Desc) (s : State) : CmdResult :=
  match s.refOf d.object with
  | some ⟨.prog, p⟩ =>
    let l := hostList d.bytes
    if d.plen.toNat % 16 ≠ 0 ∨ 176 < d.plen.toNat then s.badAny
    else match hostBad l with
    | some k => s.bad (64 + k)
    | none =>
      if (s.life ⟨.prog, p⟩).background then s.fail .notPermitted
      else
        let s := s.modFollow p (fun f => { f with hostList := l })
        (if (s.follow p).st = .following then s.relist p else s).okCmd
  | _ => s.fail .badObject

/-- The checks of AF_POLICY_SET, in the order of the block (R197). -/
def policyChecks (b : BitVec 128) : List (Field × Bool) :=
  [(afMode, !badCode b afMode), (afForce, !badCode b afForce), (afAlignA, !badCode b afAlignA),
   (afXfade, decide (1 ≤ fget b afXfade ∧ fget b afXfade ≤ 25)), (afSwitchHold, decide (1 ≤ fget b afSwitchHold))]

/-- Programmes other than `p` whose MODE is not OFF. -/
def State.followedCount (s : State) (p : Nat) : Nat :=
  ((indexed 0 s.prog).filter (fun x => x.1 != p && fget x.2.run.follow.policy afMode != 0)).length

/-- AF_POLICY_SET (R197, R198). -/
def cmdAfPolicySet (d : Desc) (s : State) : CmdResult :=
  match s.refOf d.object with
  | some ⟨.prog, p⟩ =>
    let b : BitVec 128 := d.inl.extractLsb' 0 128 &&& tableMask 128 afFields
    let old := (s.follow p).policy
    let l := s.life ⟨.prog, p⟩
    let src := match s.progSource l.blk with
      | some (⟨.fmd, _⟩, _) => true
      | some (⟨.amd, _⟩, _) => true
      | some (⟨.ee, _⟩, _) => true
      | _ => false
    match firstFail (policyChecks b) with
    | some f => s.bad (24 + f.lsb / 8)
    | none =>
      if l.cmd = .run ∧ (fget b afMode ≠ fget old afMode ∨ fget b afAlignA ≠ fget old afAlignA) then s.fail .editWhileRunning
      else if l.background ∨ src = false ∨ l.mirror = true then s.fail .notPermitted
      else if fget b afMode ≠ 0 ∧ 8 ≤ s.followedCount p then s.fail .resourcesExhausted
      else
        let s := s.modFollow p (fun f => { f with policy := b })
        (if (s.follow p).st = .following then (s.relist p).chooseStandby p else s).okCmd
  | _ => s.fail .badObject

/-- The following block of a programme's query (R199). -/
def State.followBlock (s : State) (p : Nat) : List Byte :=
  let f := s.follow p
  let entry (c : Cand) : List Byte :=
    leBytes 1 c.st.code ++ leBytes 1 c.entry.std ++ leBytes 1 c.origin ++
    leBytes 1 (bit (c.entry.flags.testBit 0) + 2 * bit c.outOfRange + 4 * bit (!c.background.isEmpty)) ++ leBytes 4 c.entry.freqKHz ++
    leBytes 2 (unsignedOf 16 c.r) ++ leBytes 2 c.peak ++
    leBytes 4 (match c.delta with | some d => unsignedOf 32 d | none => 0x80000000)
  let cands := if f.cands.isEmpty then s.wanted p else f.cands
  leBytes 1 f.st.code ++ leBytes 1 f.active ++ leBytes 1 (f.standby.getD 0xFF) ++ leBytes 1 cands.length ++ leBytes 4 f.key ++
  leBytes 1 f.keyKind ++ zeros 1 ++ leBytes 2 (unsignedOf 16 (rheDiv f.scale 65536)) ++ leBytes 4 f.bAct ++
  leBytes 4 (if f.standby.isSome then unsignedOf 32 f.bSb else 0xFFFFFFFF) ++ leBytes 2 (satU 16 f.switches) ++ leBytes 2 (satU 16 f.starved) ++
  leBytes 8 f.lastTime.toNat ++ fitBytes 192 (cands.flatMap entry)

end Sys2Proof.Machine
end

