-- ==== Sys2Proof/Machine/Demod.lean ====
section
/-! DEFINITION. The demodulators: blocks, gates, concealment, pilot and carrier loops, RDS and AMSS records (R104 to R139). -/
namespace Sys2Proof.Machine
open Sys2Proof

/-! ## What a demodulator takes (R104 to R106, R108, R117, R122) -/

/-- The block that a Pass delivered for Plain frame `f`: the fields then in effect and the quality of its streams. -/
def State.passPast (s : State) (p f : Nat) : Option (Blk × List StreamQual) :=
  ((s.passR p).past.find? (fun x => x.1 == f)).map Prod.snd

/-- The demodulator can take what its Pass delivers: same class, no DC blocker, not muted (R104 to R106). -/
def State.passUsable (s : State) (cls p f : Nat) : Bool :=
  match s.passPast p f with
  | some (b, qs) => passClass b == cls && fget b psDcbK == 0 && qs.all (fun q => !q.qual.testBit 11)
  | none => false

/-- The Pass runs with a DC blocker that its demodulator cannot work with (R106). -/
def State.passBad (s : State) (p : Nat) : Bool := s.running .pass p && fget (s.passBlk p) psDcbK != 0

/-- How many samples a Pass's block holds. -/
def State.blockSize (s : State) (p f : Nat) : Nat :=
  match s.passPast p f with
  | some (_, q :: _) => q.gaps.length
  | _ => 0

/-- The place of each sample in a run of concealed samples, 0 for a valid one, and the length of the run that is still going on. In
FM the first valid sample after a run is concealed too (R117). -/
def concealRuns (fm : Bool) : Nat → List Bool → List Nat × Nat
  | run, [] => ([], run)
  | run, true :: gs =>
    let r := concealRuns fm (run + 1) gs
    ((run + 1) :: r.1, r.2)
  | run, false :: gs =>
    let r := concealRuns fm 0 gs
    ((if fm && run != 0 then run + 1 else 0) :: r.1, r.2)

/-- Concealed samples that are bridged: 16 in FM, 4 in AM; the next ones are ABSENT (R117, R122). -/
def bridge (fm : Bool) : Nat := if fm then 16 else 4

/-! ## The stereo blend (R113) -/

/-- `num / den` held to 0 to 1, in units of 2^-24. -/
def clampUnit (num den : Int) : Nat := if num ≤ 0 ∨ den ≤ 0 then 0 else min (2 ^ 24) ((num * 2 ^ 24 / den).toNat)

/-- The target β_t in units of 2^-24, quotients rounded down (DESIGN CHOICE, log 84). -/
def blendTarget (b : Blk) (locked : Bool) (g : Figures) : Nat :=
  if !locked || fbit b fmForceMono then 0
  else
    let lo : Int := 4 * fget b fmBlendLo
    let hi : Int := 4 * fget b fmBlendHi
    min (clampUnit (g.cnr - lo) (hi - lo)) (clampUnit (250 - g.multipath) 200)

/-- One audio sample's move of β toward its target, or of its fall to mono: the blend and the samples left of the fall. -/
def blendStep (b : Blk) (target : Nat) (x : Nat × Nat) : Nat × Nat :=
  if 0 < x.2 then (x.1 - x.1 / x.2, x.2 - 1)
  else
    let step := 2 ^ (24 - fget b fmBlendSlew)
    (if x.1 ≤ target then min target (x.1 + step) else max target (x.1 - step), 0)

/-- L and R from M and S; the product is rounded half to even (DESIGN CHOICE, log 84). -/
def matrix (beta : Nat) (v : Int × Int) : Int × Int :=
  let d := rheDiv (v.2 * beta) (2 ^ 24)
  (satSigned 24 (v.1 + d), satSigned 24 (v.1 - d))

/-! ## A demodulator's block (R105, R115 to R117, R122) -/

/-- What the fold over a block's audio samples carries: the demodulator's own block and what its programme receives (none where
input-absent), newest first. -/
structure DemodAcc where
  core : DemodCore
  beta : Nat × Nat
  own : List ((Int × Int) × Bool)
  toProg : List (Option (Int × Int))
  concealed : Bool
  dm : Int × Int
  deriving DecidableEq, Repr

/-- Samples of the fade-in after a start and after an ABSENT run (R116, R117, R122). -/
def fadeSamples : Nat := 32

/-- One audio sample: its instant, its place in a concealed run, its value (M and S in FM). `gate` is the instant of the first sample that is not
suppressed. The weight of sample k of a fade-in is k/32, the product rounded down (DESIGN CHOICE, log 84). -/
def demodSample (fm : Bool) (b : Blk) (target began gate : Nat) (a : DemodAcc) (x : Nat × Nat × (Int × Int)) : DemodAcc :=
  let beta := if fm then blendStep b target a.beta else a.beta
  let lr := matrix beta.1 x.2.2
  let l := deemph (fget b fmDeemph) a.dm.1 lr.1
  let r := deemph (fget b fmDeemph) a.dm.2 lr.2
  let a := if fm then { a with beta := beta, dm := (l.2, r.2) } else a
  if x.1 < began then { a with own := ((0, 0), true) :: a.own, toProg := none :: a.toProg }
  else if x.1 < gate then { a with toProg := none :: a.toProg }
  else if bridge fm < x.2.1 then
    { a with
      core := { a.core with fade := fadeSamples, delivered := a.core.delivered + 1 },
      own := ((0, 0), true) :: a.own, toProg := none :: a.toProg, concealed := true }
  else
    let v := if fm then (l.1, r.1) else if x.2.1 = 0 then x.2.2 else a.core.lastAudio
    let k := a.core.fade
    let w := if k = 0 then v else (v.1 * ((fadeSamples - k : Nat) : Int) / 32, v.2 * ((fadeSamples - k : Nat) : Int) / 32)
    { a with
      core := { a.core with
        fade := k - 1, delivered := a.core.delivered + 1,
        lastAudio := if x.2.1 = 0 then v else a.core.lastAudio },
      own := (w, false) :: a.own, toProg := some w :: a.toProg, concealed := a.concealed || x.2.1 != 0 }

/-- The span of a demodulator's block that its programme takes. -/
def State.demodSpan (s : State) (r : Ref) (rate start : Nat) (xs : List (Option (Int × Int))) (concealed : Bool) :
    State :=
  match s.demodProg r with
  | some q => s.progSpan q true rate start xs concealed
  | none => s

/-- Period and skew of the audio grid of a demodulator on Pass `p` in CK_RF cycles (R115, R118). -/
def audioGrid (fm : Bool) (p : Nat) (pb : Blk) : Nat × Nat := (if fm then 30720 else passP pb, 8 * p)

/-- The run of both kinds: the core with what the block does to it, the blend, the span delivered. `core` comes with `began` set
when this block is the first one taken; `audio` gives the value at an instant. -/
def State.demodRun (s : State) (fm : Bool) (b : Blk) (core : DemodCore) (beta : Nat × Nat) (dm : Int × Int) (locked : Bool) (f p : Nat)
    (began : Nat) (audio : Nat → Int × Int) : DemodAcc × State × Nat × Nat :=
  let pb := s.passBlk p
  let g := audioGrid fm p pb
  let a0 := ceilDiv (f * perFrame - g.2) g.1
  let a1 := ceilDiv ((f + 1) * perFrame - g.2) g.1
  let m1 := passFirst p pb ((f + 1) * perFrame)
  let n := s.blockSize p f
  let free := s.freeSlots n core.gapNext
  let mine := core.ys.filter (fun y => decide (f * perFrame ≤ y.at_ ∧ y.at_ < (f + 1) * perFrame))
  let runs := concealRuns fm core.gapRun ((indexed 0 mine).map (fun y => y.2.gap || free.1.contains y.1))
  let gate := if fm then (ceilDiv (began - g.2) g.1 + 80) * g.1 + g.2 else began
  let place (t : Nat) : Nat :=
    let m := (t - passSkew p pb) / passP pb
    if m + n < m1 then 0 else runs.1.getD (m + n - m1) 0
  let target := blendTarget b locked core.figures
  let first := core.delivered
  let xs := (List.range (a1 - a0)).map (fun j => let t := (a0 + j) * g.1 + g.2; (t, place t, audio t))
  let acc := xs.foldl (demodSample fm b target began gate)
    (⟨{ core with gapRun := runs.2, gapNext := 0 }, beta, [], [], runs.1.any (fun k => k != 0), dm⟩ : DemodAcc)
  let own := acc.own.reverse
  let out : AudioBlock := ⟨f, a0 * g.1 + g.2, own.map Prod.fst, own.map Prod.snd, acc.concealed,
    decide (first = 0 ∧ 0 < acc.core.delivered), false, false, first⟩
  ({ acc with core := { acc.core with out := some out, concealedQ := acc.core.concealedQ || acc.concealed } }, free.2, a0 * g.1 + g.2,
    rfHz / g.1)

/-- The block of a demodulator that has nothing to take: zero samples, all ABSENT, in exact number (R105). -/
def State.demodAbsent (s : State) (fm : Bool) (f p : Nat) : List (Option (Int × Int)) × AudioBlock × Nat :=
  let g := audioGrid fm p (s.passBlk p)
  let a0 := ceilDiv (f * perFrame - g.2) g.1
  let n := ceilDiv ((f + 1) * perFrame - g.2) g.1 - a0
  (List.replicate n none, ⟨f, a0 * g.1 + g.2, List.replicate n (0, 0), List.replicate n true, false, false, false, false, 0⟩, rfHz / g.1)

/-- The core of a demodulator whose input is absent. -/
def DemodCore.lose (c : DemodCore) (bad : Bool) (out : AudioBlock) : DemodCore :=
  { DemodCore.reset with badInput := bad, out := some out, concealedQ := c.concealedQ }

/-- The number and the instant of the first sample of the block that Pass `p` delivered for frame `f`. -/
def State.blockFirst (s : State) (p f : Nat) : Nat := passFirst p (s.passBlk p) ((f + 1) * perFrame) - s.blockSize p f
def State.blockStart (s : State) (p f : Nat) : Nat := passInstant p (s.passBlk p) (s.blockFirst p f)

/-- What the Pass has delivered goes through the combiner and the FM path (R107 to R113, R124). -/
def State.fmTake (s : State) (d p : Nat) (r : FmdRun) : FmdRun :=
  let b := (s.life ⟨.fmd, d⟩).cur
  let eq := if fbit b fmMpEq then some (decide (r.core.figures.cnr < 40) || r.pilot == .acquiring) else none
  (s.framesFrom p r.core.next).foldl (fun r x =>
    let y := s.combine (s.idOf .fmd d) p (fget b dmDivMode) (fget b dmDivDrop) r.core x.1 x.2
    let q := r.path.retune ((s.passR p).retuned x.1)
    { r with
      core := y.2,
      path := y.1.foldl (FmPath.step eq (passP (s.passBlk p)) (r.pilot == .locked) (r.rds != .off) (r.rds == .search)) q }) r

/-- An FMD's block (R105 to R117). -/
def State.fmdBlock (s : State) (f d : Nat) (i : DemodIn) : State :=
  let b := (s.life ⟨.fmd, d⟩).cur
  let p := demodPass b
  let r := s.fmdR d
  let bad := s.passBad p || i.sumBad
  if s.passUsable 1 p f then
    let r := match r.core.began with
      | some _ => r
      | none => { FmdRun.reset with
          rds := if fget b fmRdsMode = 0 then .off else .search,
          core := { DemodCore.reset with
            concealedQ := r.core.concealedQ, fade := fadeSamples, began := some (s.blockStart p f), next := s.blockFirst p f } }
    let began := r.core.began.getD 0
    let r := s.fmTake d p r
    let x := s.demodRun true b { r.core with absent := false, badInput := bad } (r.beta, r.betaFall) r.path.deemph
      (r.pilot == .locked) f p began (r.path.ms (passP (s.passBlk p)))
    let acc := x.1
    let s := x.2.1.modFmd d (fun _ => { r with
      core := acc.core, beta := acc.beta.1, betaFall := acc.beta.2, path := { r.path with deemph := acc.dm },
      groupConcealed := r.groupConcealed || acc.concealed,
      eqFrozen := fbit b fmMpEq && (decide (r.core.figures.cnr < 40) || r.pilot == .acquiring) })
    s.demodSpan ⟨.fmd, d⟩ x.2.2.2 x.2.2.1 acc.toProg.reverse acc.concealed
  else
    let x := s.demodAbsent true f p
    let s := s.modFmd d (fun _ => { r with core := r.core.lose bad x.2.1, groupConcealed := true })
    s.demodSpan ⟨.fmd, d⟩ x.2.2 x.2.1.start_ x.1 false

/-- Synchronous detection is what DET asks for (R120). -/
def amSync (b : Blk) (locked : Bool) : Bool := fget b amDet != 0 && locked

/-- The weight of synchronous detection of 32 while `left` samples of a crossfade are to come (R120). -/
def crossWeight (sync : Bool) (left : Nat) : Nat := if sync then fadeSamples - left else left

/-- What the Pass has delivered goes through the combiner and the blanker's judgement (R107, R108, R119). -/
def State.amCombine (s : State) (d p : Nat) (r : AmdRun) : AmdRun :=
  let b := (s.life ⟨.amd, d⟩).cur
  (s.framesFrom p r.core.next).foldl (fun r x =>
    let y := s.combine (s.idOf .amd d) p (fget b dmDivMode) (fget b dmDivDrop) r.core x.1 x.2
    let old := r.core.ys
    let ys := if fbit b amNbEn then
        y.1.foldl (fun (ys : List CombSample) z => ys ++ [{ z with hit := nbHit (fget b amNbThr) (fget b amNbExt) ys z }]) old
      else old ++ y.1
    { r with core := { y.2 with ys := ys.filter (fun z => decide (x.1 * perFrame < z.at_ + combSpan)) } }) r

/-- The combined samples that the blanker has released, up to the end of frame `f` or as far as 9 samples follow, go through the carrier loop; with
them the impulses and spans that it counts (R119, R120). -/
def State.amTake (s : State) (d p f : Nat) (r : AmdRun) : AmdRun :=
  let b := (s.life ⟨.amd, d⟩).cur
  let r := s.amCombine d p r
  let ys := r.core.ys
  let mask := if fbit b amNbEn then nbMask (fget b amNbExt) ys else []
  let a := ys.countP (fun y => decide (y.at_ < r.path.doneTo))
  let e := max (ys.countP (fun y => decide (y.at_ < (f + 1) * perFrame))) (ys.length - 9)
  let n := nbCounts ys mask a e
  let go (x : AmPath × Nat) (i : Nat) : AmPath × Nat :=
    match ys[i]? with
    | some y =>
      (x.1.step (fget b amLoopBw) (passP (s.passBlk p)) r.locked (crossWeight r.sync x.2) y.at_ (nbValue ys mask i) y.gap, x.2 - 1)
    | none => x
  let q := ((List.range (e - a)).map (· + a)).foldl go (r.path, r.cross)
  { r with
    path := q.1, cross := q.2, nbCnt := satU 16 (r.nbCnt + n.1), nbSkip := satU 16 (r.nbSkip + n.2) }

/-- An AMD's block (R105 to R108, R118 to R122). Under DET AUTO a change of the detector is a crossfade of 32 samples that begins at
this block. -/
def State.amdBlock (s : State) (f d : Nat) (i : DemodIn) : State :=
  let b := (s.life ⟨.amd, d⟩).cur
  let p := demodPass b
  let r := s.amdR d
  let bad := s.passBad p || i.sumBad
  if s.passUsable 2 p f then
    let r := match r.core.began with
      | some _ => r
      | none => { AmdRun.reset with
          amss := if fbit b amAmssEn then .search else .off,
          core := { DemodCore.reset with
            concealedQ := r.core.concealedQ, began := some (s.blockStart p f), next := s.blockFirst p f },
          nbCnt := r.nbCnt, nbSkip := r.nbSkip }
    let began := r.core.began.getD 0
    let sync := amSync b r.locked
    let r := { r with sync := sync, cross := if sync = r.sync then r.cross else if fget b amDet = 2 then fadeSamples else 0 }
    let r := s.amTake d p f r
    let pp := passP (s.passBlk p)
    let side := if fget b amDet = 0 then 0 else fget b amSideband
    let edge := amEdge (fget b amAudBw) (fget (s.passBlk p) psTake)
    let x := s.demodRun false b { r.core with absent := false, badInput := bad } (0, 0) (0, 0) r.locked f p began
      (fun t => let v := r.path.audio side edge pp t; (v, v))
    let acc := x.1
    let s := x.2.1.modAmd d (fun _ => { r with core := acc.core, blockConcealed := r.blockConcealed || acc.concealed })
    s.demodSpan ⟨.amd, d⟩ x.2.2.2 x.2.2.1 acc.toProg.reverse acc.concealed
  else
    let x := s.demodAbsent false f p
    let s := s.modAmd d (fun _ => { r with core := r.core.lose bad x.2.1, blockConcealed := true })
    s.demodSpan ⟨.amd, d⟩ x.2.2 x.2.1.start_ x.1 false

/-- The part of a management tick that latches the demodulators' figures over its 16 Plain frames (R133). -/
def State.tickDemods (s : State) : State :=
  let a := s.now - perTick
  { s with
    fmd := s.fmd.map (Obj.withRun (fun r =>
      if r.core.began.isSome then { r with core := { r.core with figures := fmFigures r.core r.path a s.now } } else r)),
    amd := s.amd.map (fun o =>
      if o.run.core.began.isSome then
        { o with run := { o.run with core := { o.run.core with
            figures := amFigures o.run.core o.run.path o.run.locked (passP (s.passBlk (demodPass o.life.cur))) a s.now } } }
      else o) }

/-- DEMOD_BLOCK (R105): demodulator `d` delivers its block for Plain frame `f`. -/
def execDemodBlock (f : Nat) (am : Bool) (d : Nat) (i : DemodIn) (s : State) : Out :=
  let u := s.advance (frameEnd f)
  if u.running (if am then .amd else .fmd) d then
    done s (if am then u.amdBlock f d i else u.fmdBlock f d i)
  else done s u

/-- FMD_GATE_OPEN (R116): the instant of the 81st audio sample. -/
def execFmdGateOpen (d : Nat) (s : State) : Out :=
  let p := demodPass (s.life ⟨.fmd, d⟩).cur
  match (s.fmdR d).core.began with
  | some b => if s.running .fmd d then done s (s.advance ((ceilDiv (b - 8 * p) 30720 + 80) * 30720 + 8 * p)) else done s s
  | none => done s s

/-- FMD_CONCEAL_LIMIT (R117): the 17th concealed input sample in a row. -/
def execFmdConcealLimit (t d : Nat) (s : State) : Out :=
  let u := s.advance t
  if u.running .fmd d && (u.fmdR d).core.began.isSome then
    done s (u.modFmd d (fun r => { r with core := { r.core with fade := fadeSamples } }))
  else done s u

/-- AMD_CONCEAL_LIMIT (R122): the 5th concealed sample in a row. -/
def execAmdConcealLimit (t d : Nat) (s : State) : Out :=
  let u := s.advance t
  if u.running .amd d && (u.amdR d).core.began.isSome then
    done s (u.modAmd d (fun r => { r with core := { r.core with fade := fadeSamples } }))
  else done s u

/-! ## Loops (R112, R120) -/

/-- PILOT_WINDOW_END (R112, R113): the window that ends with frame `f`. -/
def execPilotWindowEnd (f d dev rms : Nat) (s : State) : Out :=
  let u := s.advance (frameEnd f)
  let r := u.fmdR d
  match r.core.began with
  | some began =>
    if u.running .fmd d && (f + 1) % 128 == 0 then
      let b := (u.life ⟨.fmd, d⟩).cur
      let p := demodPass b
      let min_ := 50 * fget b fmPilotMin
      let gate := (ceilDiv (began - 8 * p) 30720 + 80) * 30720 + 8 * p
      let time := u.passTime p ((f + 1) * perFrame)
      let slate (s : State) (code : Nat) : State := s.slateAt code (s.idOf .fmd d) time 0 (leBytes 2 dev)
      if r.pilot = .locked then
        if dev + 50 < min_ ∨ 200 < rms then
          done s (slate (u.modFmd d (fun r => { r with
            pilot := if dev < 50 then .absent else .acquiring, goodWindows := 0, betaFall := 16 })) 0x0304)
        else done s u
      else
        let good := decide (min_ ≤ dev ∧ rms ≤ 100 ∧ gate ≤ (f + 1 - 128) * perFrame)
        let n := if good then r.goodWindows + 1 else 0
        if 2 ≤ n then done s (slate (u.modFmd d (fun r => { r with pilot := .locked, goodWindows := n })) 0x0303)
        else done s (u.modFmd d (fun r => { r with
          goodWindows := n, pilot := if min_ ≤ dev then .acquiring else r.pilot }))
    else done s u
  | none => done s u

/-- CARRIER_WINDOW_END (R120): the window that ends with frame `f`. -/
def execCarrierWindowEnd (f d rms : Nat) (offset : Int) (s : State) : Out :=
  let u := s.advance (frameEnd f)
  let r := u.amdR d
  if u.running .amd d && (f + 1) % 128 == 0 && r.core.began.isSome then
    let p := demodPass (u.life ⟨.amd, d⟩).cur
    if r.locked then
      if 250 < rms then
        done s ((u.modAmd d (fun r => { r with locked := false })).slateAt 0x0305 (u.idOf .amd d) (u.passTime p ((f + 1) * perFrame)) 0
          (leBytes 2 (unsignedOf 16 offset)))
      else done s u
    else done s (u.modAmd d (fun r => { r with locked := decide (rms ≤ 100) }))
  else done s u

/-! ## RDS and RBDS (R124 to R129) -/

/-- The code of an offset in a slate. -/
def rdsOffsetCode : RdsOffset → Nat
  | .a => 0 | .b => 1 | .c => 2 | .cPrime => 3 | .d => 4 | .e => 5 | .none => 6

/-- The code of a block's status (R129). -/
def rdsStatCode : RdsStat → Nat
  | .ok => 0 | .corrSmall => 1 | .corrLarge => 2 | .bad => 3

/-- The offset words (R125; PRESUMED, the standard's: log 85). -/
def offsetWord : RdsOffset → BitVec 10
  | .a => 0x0FC | .b => 0x198 | .c => 0x168 | .cPrime => 0x350 | .d => 0x1B4 | .e => 0 | .none => 0

/-- The remainder of the 26 bits of a block by the generator x^10 + x^8 + x^7 + x^5 + x^4 + x^3 + 1 (log 85). -/
def rdsSyndrome (w : BitVec 26) : BitVec 10 :=
  BitVec.ofNat 10 ((List.range 26).foldl (fun (r : Nat) i =>
    let r := 2 * r + bit (w.getLsbD (25 - i))
    if r.testBit 10 then r ^^^ 0x5B9 else r) 0)

/-- The offset that a block carries without correction. -/
def rdsOffsetOf (rbds : Bool) (w : BitVec 26) : RdsOffset :=
  ((([.a, .b, .c, .cPrime, .d] : List RdsOffset) ++ (if rbds then [RdsOffset.e] else [])).find? (fun o => offsetWord o == rdsSyndrome w)).getD .none

/-- The offset that may follow another: A, B, C or C′, D, A; E follows E (R125). -/
def rdsFollows : RdsOffset → RdsOffset → Bool
  | .a, .b | .b, .c | .b, .cPrime | .c, .d | .cPrime, .d | .d, .a | .e, .e => true
  | _, _ => false

/-- The error bursts of a length in bits within a block. -/
def bursts (n : Nat) : List (BitVec 26) :=
  let pats := if n = 1 then [1] else (List.range (2 ^ (n - 2))).map (fun k => 1 + 2 * k + 2 ^ (n - 1))
  pats.flatMap (fun p => (List.range (27 - n)).map (fun i => BitVec.ofNat 26 (p * 2 ^ i)))

/-- The longest burst that RDS_CORR corrects (R126). -/
def burstMost (corr : Nat) : Nat := match corr with | 0 => 0 | 1 => 2 | _ => 5

/-- A block in sync at position `i` of its group: word, offset, status, and the bits corrected (R126, R128). -/
def rdsBlock (corr : Nat) (rbds : Bool) (i : Nat) (w : BitVec 26) : RdsBlk × Nat :=
  let at_ : List RdsOffset := match i with | 0 => [.a] | 1 => [.b] | 2 => [.c, .cPrime] | _ => [.d]
  let want := at_ ++ (if rbds then [.e] else [])
  let word (v : BitVec 26) : Word16 := BitVec.ofNat 16 (v.toNat / 1024)
  match want.find? (fun o => offsetWord o == rdsSyndrome w) with
  | some o => (⟨word w, o, .ok⟩, 0)
  | none =>
    let tries := ((List.range (burstMost corr)).map (· + 1)).flatMap (fun n => (bursts n).flatMap (fun e => at_.map (fun o => (n, e, o))))
    match tries.find? (fun x => offsetWord x.2.2 == rdsSyndrome (w ^^^ x.2.1)) with
    | some x => (⟨word (w ^^^ x.2.1), x.2.2, if x.1 ≤ 2 then .corrSmall else .corrLarge⟩,
        ((List.range 26).filter (fun k => x.2.1.getLsbD k)).length)
    | none => (⟨word w, .none, .bad⟩, 0)

/-- A number from bits, the first the most significant. -/
def bitsToNat (bs : List Bool) : Nat := bs.foldl (fun n b => 2 * n + bit b) 0

/-- The last `n` bits decoded up to an instant, with the instant of the first. -/
def FmPath.lastBits (q : FmPath) (t n : Nat) : List (Nat × Bool) :=
  let xs := q.bits.filter (fun x => decide (x.1 ≤ t))
  xs.drop (xs.length - n)

/-- MER of the symbols in 0.25 dB: mean power over the mean squared error from the ideal points, ± the mean magnitude (R133). -/
def symMer (xs : List Int) : Nat :=
  let n := xs.length
  let p := (xs.map (fun x => x.natAbs * x.natAbs)).sum
  let m := (xs.map Int.natAbs).sum
  (max 0 (min 255 (figureDb 40 (p * n) (p * n - m * m) 255))).toNat

/-- The group that an event brings, decoded: from its blocks, or from the bits that the FMD holds (R124 to R126). -/
def rdsDecode (g : RdsGroupIn) (corr : Nat) (rbds : Bool) (q : FmPath) (t : Nat) : RdsGroup :=
  let src : List (BitVec 26) × Nat × Nat := match g.raw with
    | some x => x
    | none =>
      let bs := q.lastBits t 104
      ((List.range (bs.length / 26)).map (fun i => BitVec.ofNat 26 (bitsToNat (((bs.drop (26 * i)).take 26).map Prod.snd))), symMer q.syms,
        t - ((bs.head?.map Prod.fst).getD t - rfHz * 2 / 2375))
  let xs := (indexed 0 (src.1.take 4)).map (fun x => rdsBlock corr rbds x.1 x.2)
  ⟨xs.map Prod.fst, src.2.1, min 20 (xs.map Prod.snd).sum, src.2.2⟩

/-- RDS_SYNC (R125): a second valid offset word, of the offset that must follow the first, ends 26 bits after the first. -/
def execRdsSync (t d : Nat) (words : Option (BitVec 26 × BitVec 26)) (s : State) : Out :=
  let u := s.advance t
  let rbds := fget (u.life ⟨.fmd, d⟩).cur fmRdsMode == 2
  let w := match words with
    | some x => x
    | none =>
      let bs := ((u.fmdR d).path.lastBits u.now 52).map Prod.snd
      (BitVec.ofNat 26 (bitsToNat (bs.take 26)), BitVec.ofNat 26 (bitsToNat (bs.drop 26)))
  let second := rdsOffsetOf rbds w.2
  if u.running .fmd d && (u.fmdR d).rds == .search && rdsFollows (rdsOffsetOf rbds w.1) second then
    let p := demodPass (u.life ⟨.fmd, d⟩).cur
    done s ((u.modFmd d (fun r => { r with rds := .sync, resync := true, groupConcealed := false, badRun := 0 })).slateAt 0x0301 (u.idOf .fmd d)
      (u.passTime p u.now) 0 (leBytes 1 (rdsOffsetCode second)))
  else done s u

/-- RDS_LOSS (R125): the Costas loop loses lock, or RDS_LOSS_N blocks in a row were BAD. -/
def execRdsLoss (t d : Nat) (loop : Bool) (s : State) : Out :=
  let u := s.advance t
  let n := fget (u.life ⟨.fmd, d⟩).cur fmRdsLossN
  if u.running .fmd d && (u.fmdR d).rds == .sync && (loop || decide (n ≤ (u.fmdR d).badRun)) then
    let p := demodPass (u.life ⟨.fmd, d⟩).cur
    done s ((u.modFmd d (fun r => { r with rds := .search })).slateAt 0x0302 (u.idOf .fmd d) (u.passTime p u.now) 0
      (leBytes 1 (bit loop)))
  else done s u

/-- The BAD blocks in a row after some more. -/
def badRunAfter (n : Nat) (bad : List Bool) : Nat := bad.foldl (fun n b => if b then n + 1 else 0) n

/-- The instant of the Pass sample nearest a CK_RF count (R129, R132). -/
def State.nearestSample (s : State) (p t : Nat) : Nat :=
  let b := s.passBlk p
  passInstant p b ((2 * (t - passSkew p b) + passP b) / (2 * passP b))

/-- What PI tracking keeps over the blocks of a group: the run, slates due (old and new PI, true for C′), whether block A carries a
new PI, whether the group ends at C′. -/
structure PiAcc where
  conf : Option Word16
  cand : Option Word16
  slates : List (Word16 × Bool)
  atA : Bool
  ended : Bool
  fresh : Bool
  deriving DecidableEq, Repr

/-- One valid PI-bearing block (R127). `before`: the PI of the group before; `a`: the valid PI of block A. -/
def piStep (before a : Option Word16) (x : PiAcc) (v : Word16) (prime : Bool) : PiAcc :=
  let x := if prime ∧ (match a with | some w => decide (w ≠ v) | none => false) = true then { x with ended := true } else x
  if x.conf = some v then { x with cand := none }
  else if x.cand = some v then
    if before = some v then { x with conf := some v, cand := none, fresh := true } else x
  else { x with cand := some v, slates := x.slates ++ [(v, prime)], atA := x.atA || !prime, ended := x.ended || prime }

/-- The valid PI of block A or C′ of a group (R127). -/
def piOf (g : RdsGroup) (i : Nat) (want : RdsOffset) : Option Word16 :=
  match g.blocks[i]? with
  | some b => if rdsUsable b && b.offset == want then some b.word else none
  | none => none

/-- Slots of the RDS grid (R257): the first that begins at or after a Timebase value in 1/256 ns. -/
def slotAfter (v : Nat) : Nat := ceilDiv (v * 2375) (208 * 256 * 10 ^ 9)

/-- A span of CK_RF cycles in 1/256 ns. -/
def ns256OfCycles (c : Nat) : Nat := c * 25600000 / 98304

/-- At most 4 groups wait behind slot `k`; a fifth drops the oldest (R257). -/
def FcarRun.trim (r : FcarRun) (k : Nat) : FcarRun :=
  if 4 < (r.queue.filter (fun g => decide (g.1 ≤ k))).length then { r with queue := r.queue.drop 1, drop := satU 16 (r.drop + 1) } else r

/-- A source group goes to the FCARs that regenerate RDS from FMD `d` (R257): VALID, not 4A, not RBDS E. -/
def State.rdsQueue (s : State) (d time : Nat) (words : List Word16) (prime : Bool) : State :=
  (List.range 24).foldl (fun s c =>
    let l := s.life ⟨.fcar, c⟩
    match (s.fcarR c).air.delay with
    | some delay =>
      if l.eff == .run && fget l.cur fcRdsSrc == d then
        s.modFcar c (fun r =>
          let r := { r with queue := r.queue ++ [(slotAfter (time + ns256OfCycles delay), words, prime)] }
          if r.lastSlot = 0 then r else r.trim r.lastSlot)
      else s
    | none => s) s

/-- The 24-byte body of an RDS record (R129). -/
def rdsBody (words : List Word16) (bstat flags mer cbits conf : Nat) (time : Word64) : List Byte :=
  (List.range 4).flatMap (fun i => leBytes 2 (words.getD i 0).toNat) ++ leBytes 1 bstat ++ leBytes 1 flags ++ leBytes 1 mer ++
  leBytes 1 cbits ++ leBytes 2 conf ++ zeros 2 ++ leBytes 8 time.toNat

/-- A group of an FMD (R127, R128): PI, records, tables and the queue of the composer. -/
def State.takeRdsGroup (u : State) (d : Nat) (g : RdsGroup) : State :=
  let r := u.fmdR d
  let b := (u.life ⟨.fmd, d⟩).cur
  let p := demodPass b
  let rbds := fget b fmRdsMode == 2
  let blocks := g.blocks.take 4
  let isE := rbds && decide (blocks.length = 4) && blocks.all (fun x => x.offset == .e)
  let a := if isE then none else piOf g 0 .a
  let c := if isE then none else piOf g 2 .cPrime
  let x : PiAcc := ⟨r.piConf, r.piCand, [], false, false, false⟩
  let x := match a with | some v => piStep r.piLast a x v false | none => x
  let x := match c with | some v => piStep r.piLast a x v true | none => x
  let blocks := if x.ended then blocks.take 3 else blocks
  let g : RdsGroup := { g with blocks := blocks }
  let whole := decide (blocks.length = 4)
  let valid := whole && blocks.all (fun y => y.stat != .bad)
  let prime := !isE && (match blocks[2]? with | some y => y.offset == .cPrime | none => false)
  let time := u.passTime p (u.nearestSample p (u.now - g.sub))
  -- a new PI is detected where its block ends: A after 26 bits, C′ after 78
  let seen (prime : Bool) : Nat := u.passTime p (u.now - g.sub + rfHz * (if prime then 156 else 52) / 2375)
  let stat (k : Nat) : Nat := match blocks[k]? with | some y => rdsStatCode y.stat | none => 3
  let flags := bit valid + 2 * bit (!whole && !x.ended) + 4 * bit (x.atA || x.ended) + 8 * bit prime + 16 * bit isE + 32 * bit r.resync +
    64 * bit r.groupConcealed
  let words := blocks.map RdsBlk.word
  let body := rdsBody words (stat 0 + 4 * stat 1 + 16 * stat 2 + 64 * stat 3) flags g.mer g.cbits (x.conf.getD 0).toNat (t64Of256 time)
  let o : Origin := ⟨u.idOf .fmd d, 0⟩
  let old := r.piConf
  let u := u.modFmd d (fun r => { r with
    piConf := x.conf, piCand := x.cand, piLast := (match c with | some v => some v | none => a), badRun := badRunAfter r.badRun (blocks.map (fun y => y.stat == .bad)),
    resync := false, groupConcealed := false, mers := (r.mers ++ [g.mer]).drop (r.mers.length - 7),
    last32 := (r.last32 ++ blocks.map (fun y => y.stat == .bad)).drop (r.last32.length + blocks.length - 32) })
  let u := x.slates.foldl (fun s y =>
    let s := s.slateAt 0x0300 o.object (seen y.2) 0 (leBytes 2 (old.getD 0).toNat ++ leBytes 2 y.1.toNat ++ leBytes 1 (bit y.2))
    match old with
    | some v => s.staleOrigin (fun z => z == o) (fun e => e.key == v.toNat)
    | none => s) u
  let u := if x.fresh then u.rdsForget d else u
  let u := u.putSide 0 1 o.object 0 body
  let mine := match c with | some v => x.conf == some v | none => (match a with | some v => x.conf == some v | none => x.cand.isNone)
  let u := match x.conf with
    | some pi => if mine && !isE && !x.ended then u.rdsTables d pi.toNat g (t64Of256 time) else u.modRdsC d (fun c => { c with ptyTp := none })
    | none => u
  let fourA := match words[1]? with | some w => w.toNat / 2048 == 8 | none => false
  if valid && !isE && !fourA then u.rdsQueue d time words prime else u

/-- RDS_GROUP (R126 to R129, R177, R257): a complete, incomplete or ended group. -/
def execRdsGroup (t d : Nat) (g : RdsGroupIn) (s : State) : Out :=
  let u := s.advance t
  let r := u.fmdR d
  let b := (u.life ⟨.fmd, d⟩).cur
  let x := rdsDecode g (fget b fmRdsCorr) (fget b fmRdsMode == 2) r.path u.now
  done s (if u.running .fmd d && r.rds != .off && (r.rds == .sync || decide (x.blocks.length < 4)) then u.takeRdsGroup d x else u)

/-! ## AMSS (R131, R132) -/

/-- The 16-byte body of an AMSS record (R132). -/
def amssBody (b : AmssIn) (ok : Bool) (flags : Nat) (time : Word64) : List Byte :=
  leBytes 1 b.block ++ leBytes 1 (bit (!ok)) ++ leBytes 1 flags ++ leBytes 1 b.nbits ++ leBytes 4 (b.bits.toNat / 2 ^ (32 - b.nbits) * 2 ^ (32 - b.nbits)) ++ leBytes 8 time.toNat

/-- AMSS_BLOCK (R131, R132): blocks are BAD while the carrier loop is unlocked; sync comes with two good blocks and goes with four
failing ones. -/
def execAmssBlock (t d : Nat) (b : AmssIn) (s : State) : Out :=
  let u := s.advance t
  let r := u.amdR d
  if u.running .amd d && r.amss != .off && r.core.began.isSome then
    let p := demodPass (u.life ⟨.amd, d⟩).cur
    let b := if b.fromBits then
        let x := Config.amssBlock (r.path.bits.map Prod.snd)
        { b with ok := x.1, block := x.2.1, bits := BitVec.ofNat 32 x.2.2.1, nbits := min 32 x.2.2.2 }
      else b
    let ok := b.ok && r.locked
    let good := if ok then r.amssGood + 1 else 0
    let bad := if ok then 0 else r.amssBad + 1
    let now := if r.amss = .sync then (if 4 ≤ bad then SyncSt.search else .sync) else if 2 ≤ good then .sync else .search
    let u := u.modAmd d (fun r => { r with
      amss := now, amssGood := good, amssBad := bad, last16 := (r.last16 ++ [!ok]).drop (r.last16.length - 15) })
    let id := u.idOf .amd d
    let u := if now ≠ r.amss then
        (u.slateAt 0x0306 id (u.passTime p u.now) 0 (leBytes 1 (if now = .sync then 2 else 1))).modAmd d (fun r => { r with resync := decide (now = .sync) })
      else u
    if r.amss = .sync ∨ now = .sync then
      let time := t64Of256 (u.passTime p (u.nearestSample p (u.now - b.sub)))
      let conc := r.blockConcealed
      let body := amssBody b ok (bit (u.amdR d).resync + 2 * bit conc) time
      let u := (u.modAmd d (fun r => { r with resync := false, blockConcealed := false })).putSide 1 2 id 0 body
      done s (u.takeAmss d { b with ok := ok } time)
    else done s (u.modAmd d (fun r => { r with blockConcealed := false }))
  else done s u

end Sys2Proof.Machine
end

