-- ==== Sys2Proof/Machine/Trellis.lean ====
section
/-! DEFINITION. The decoding of a block of soft bits: quantisation, depuncturing, the trellis decoder, check words, audio superframes (R158 to R161, R166). -/
namespace Sys2Proof.Machine
open Sys2Proof

/-! ## Soft values (R158, R159) -/

/-- Values limited to ± `top`, with a scale set by their mean magnitude: `level` is what the mean becomes (log 88). -/
def quantise (top level : Nat) (xs : List Int) : List Int :=
  let mean := (xs.map Int.natAbs).sum
  if mean = 0 then xs.map (fun _ => 0)
  else xs.map (fun x => max (-(top : Int)) (min top (rheDiv (x * level * xs.length) mean)))

/-- LLRs of 6 bits from decision variables, and the 4 bits that the deinterleaver and the decoder take: symmetrical about zero. -/
def llrs (xs : List Int) : List Int := quantise 31 (1 + Config.llrLevel % 31) xs
def softBits (xs : List Int) : List Int := quantise 7 (1 + Config.softLevel % 7) xs

/-- Erasures stand at punctured positions (R158). -/
def depuncture : List Bool → List Int → List Int
  | [], _ => []
  | true :: m, x :: xs => x :: depuncture m xs
  | true :: m, [] => 0 :: depuncture m []
  | false :: m, xs => 0 :: depuncture m xs

/-! ## The trellis (R159) -/

/-- Generators of the mother codes of constraint length 7: rate 1/4 for DAB, 1/6 for DRM (log 86). -/
def motherCode (dab : Bool) : List Nat := if dab then [0o133, 0o171, 0o145, 0o133] else [0o133, 0o171, 0o145, 0o133, 0o171, 0o145]

/-- The parity of the bits of a 7-bit register that a generator takes. -/
def parity7 (g r : Nat) : Bool := ((List.range 7).filter (fun i => g.testBit i && r.testBit i)).length % 2 == 1

/-- The output bits for a register, whose newest bit is the highest. -/
def codeBits (gens : List Nat) (r : Nat) : List Bool := gens.map (fun g => parity7 g r)

/-- A positive soft value is a 0 bit. -/
def agreement (out : List Bool) (soft : List Int) : Int := ((out.zip soft).map (fun x => if x.1 then -x.2 else x.2)).sum

/-- Path metrics are 12 bits wide and compared modulo their range. -/
def metricAhead (a b : Nat) : Bool := decide ((a + 4096 - b) % 4096 < 2048)

/-- One step of the decoder: the metric of each of the 64 states, and which of its two predecessors it came from. -/
def viterbiStep (gens : List Nat) (metrics : List Nat) (soft : List Int) : List (Nat × Bool) :=
  (List.range 64).map (fun n =>
    let into (x : Nat) : Nat :=
      (((metrics.getD ((2 * n + x) % 64) 0 : Nat) + agreement (codeBits gens (2 * n + x)) soft) % 4096).toNat
    let a := into 0
    let b := into 1
    if metricAhead a b then (a, false) else (b, true))

/-- The bits that lead to a state, the newest first, by the decisions of the steps, the newest first. -/
def traceback (state : Nat) : List (List Bool) → List Bool
  | [] => []
  | d :: ds => state.testBit 5 :: traceback ((2 * state + bit (d.getD state false)) % 64) ds

/-- The state with the best metric, the lowest of equal ones. -/
def bestState (metrics : List Nat) : Nat :=
  ((indexed 0 metrics).foldl (fun (a : Nat × Nat) x => if metricAhead a.2 x.2 then a else x) ((metrics.head?.map (fun m => (0, m))).getD (0, 0))).1

/-- The decoder at work: metrics, the decisions of the last 128 steps, the newest first, and the bits decided, the newest first. -/
structure Viterbi where
  metrics : List Nat
  ds : List (List Bool)
  out : List Bool
  deriving DecidableEq, Repr

/-- The start of a block, in state 0. -/
def Viterbi.start : Viterbi := ⟨0 :: List.replicate 63 3072, [], []⟩

/-- A step: with 128 decisions behind it, the oldest bit is decided from the best state. -/
def Viterbi.step (gens : List Nat) (v : Viterbi) (soft : List Int) : Viterbi :=
  let r := viterbiStep gens v.metrics soft
  let ds := r.map Prod.snd :: v.ds
  let m := r.map Prod.fst
  if ds.length < 128 then ⟨m, ds, v.out⟩
  else ⟨m, ds.take 127, ((traceback (bestState m) ds).getLast?.getD false) :: v.out⟩

/-- Groups of `n`. -/
def chunksOf {α : Type} (n : Nat) (xs : List α) : List (List α) := (List.range (xs.length / n)).map (fun i => (xs.drop (n * i)).take n)

/-- A block decoded as terminated by its six tail bits. -/
def viterbi (gens : List Nat) (soft : List Int) : List Bool :=
  let groups := chunksOf gens.length soft
  let v := groups.foldl (Viterbi.step gens) Viterbi.start
  let bits := (traceback 0 v.ds ++ v.out).reverse
  bits.take (groups.length - 6)

/-- The mother code of a block with its tail bits. -/
def encodeBits (gens : List Nat) (bits : List Bool) : List Bool :=
  ((bits ++ List.replicate 6 false).foldl (fun (x : Nat × List Bool) b =>
    let r := 64 * bit b + x.1
    (r / 2, x.2 ++ codeBits gens r)) (0, [])).2

/-- A block with energy dispersal and its tail, without the punctured bits: what `decodeBlock` undoes (R259). -/
def encodeBlock (mask : List Bool) (bits : List Bool) : List Bool :=
  let sent := encodeBits (motherCode true) ((indexed 0 bits).map (fun b => b.2 != Config.dispersal 1 b.1))
  ((mask.zip sent).filter Prod.fst).map Prod.snd

/-- Bits of bytes, the highest first. -/
def bytesToBits (bs : List Byte) : List Bool := bs.flatMap (fun b => (List.range 8).map (fun j => b.getLsbD (7 - j)))

/-- Hard decisions of the inputs that differ from the re-encoded output, and the inputs compared (R166 CBER). -/
def wrongBits (gens : List Nat) (soft : List Int) (bits : List Bool) : Nat × Nat :=
  let ps := (soft.zip (encodeBits gens bits)).filter (fun x => decide (x.1 ≠ 0))
  ((ps.filter (fun x => decide (x.1 < 0) != x.2)).length, ps.length)

/-- A depunctured block through the decoder and energy dispersal: its bits, and what CBER counts. -/
def decodeBlock (dab : Bool) (mask : List Bool) (soft : List Int) : List Bool × Nat × Nat :=
  let gens := motherCode dab
  let xs := depuncture mask soft
  let bits := viterbi gens xs
  ((indexed 0 bits).map (fun b => b.2 != Config.dispersal (bit dab) b.1), wrongBits gens xs bits)

/-! ## Check words (R158) -/

/-- Bytes from bits, the first bit the highest. -/
def bitsToBytes (bs : List Bool) : List Byte :=
  (List.range ((bs.length + 7) / 8)).map (fun i =>
    BitVec.ofNat 8 (((List.range 8).map (fun j => bit (bs.getD (8 * i + j) false) * 2 ^ (7 - j))).sum))

/-- The remainder register of a check of `w` bits after some bits. -/
def crcRun (w poly : Nat) (reg : Nat) (bs : List Bool) : Nat :=
  bs.foldl (fun r b => if r.testBit (w - 1) != b then ((2 * r) % 2 ^ w) ^^^ poly else (2 * r) % 2 ^ w) reg

/-- A word whose last `w` bits are its check word, the register preset to ones and the check word inverted (log 86). -/
def crcGood (w poly : Nat) (bs : List Bool) : Bool :=
  let n := bs.length - w
  let want := (bs.drop n).foldl (fun v b => 2 * v + bit b) 0
  decide (w ≤ bs.length ∧ crcRun w poly (2 ^ w - 1) (bs.take n) ^^^ (2 ^ w - 1) = want)

/-- CRC-16 of FIB and SDC, CRC-8 of the FAC. -/
def crc16Good (bs : List Bool) : Bool := crcGood 16 0x1021 bs
def crc8Good (bs : List Bool) : Bool := crcGood 8 0x1D bs

/-- The fire code over the first eleven bytes of a superframe: bytes 0 and 1 check bytes 2 to 10 (R161, log 86). -/
def fireGood (bs : List Byte) : Bool :=
  decide (11 ≤ bs.length) && crcRun 16 0x782F 0 (bytesToBits ((bs.drop 2).take 9)) == 256 * (byteAt bs 0).toNat + (byteAt bs 1).toNat

/-! ## Superframes of DAB+ (R161) -/

/-- A codeword of RS(120,110): as received and wrong, or corrected in up to 5 bytes; the number corrected, none when it cannot be. -/
def rsFix (w : List Byte) : List Byte × Option Nat :=
  if Config.rsWord w then (w, some 0)
  else
    let c := Config.rsNear w
    let n := ((c.zip w).filter (fun x => x.1 != x.2)).length
    if Config.rsWord c && decide (c.length = w.length ∧ n ≤ 5) then (c, some n) else (w, none)

/-- A superframe with its codewords corrected: fresh parity where a codeword was corrected, the received bytes where it cannot be (R259). -/
def superframeFixed (bs : List Byte) : List Byte :=
  let s := bs.length / 120
  let words := (List.range s).map (fun j => (rsFix ((List.range 120).map (fun i => byteAt bs (i * s + j)))).1)
  (List.range (120 * s)).map (fun k => byteAt (words.getD (k % s) []) (k / s))

/-- A superframe without its virtual interleaving and parity: the data, the codewords that cannot be corrected, and the bytes corrected. -/
def superframeOf (bs : List Byte) : List Byte × List Nat × Nat :=
  let s := bs.length / 120
  let words := (List.range s).map (fun j => rsFix ((List.range 120).map (fun i => byteAt bs (i * s + j))))
  let data := (List.range (110 * s)).map (fun k => byteAt ((words.getD (k % s) ([], none)).1) (k / s))
  (data, ((indexed 0 words).filter (fun x => x.2.2.isNone)).map Prod.fst, (words.map (fun x => x.2.getD 0)).sum)

end Sys2Proof.Machine
end

