-- ==== Sys2Proof/Machine/Ofdm.lean ====
section
/-! DEFINITION. The signal path of an ensemble engine: the working rate, null detection, candidates, the second-look correlator, spectra, combining per subcarrier, soft bits, decoded blocks and quality figures (R140, R143 to R149, R152 to R160, R166). -/
namespace Sys2Proof.Machine
open Sys2Proof

/-! ## Geometry (R140, R143, R152) -/

/-- CK_RF cycles of a working sample, by STD. -/
def workPeriod (std : Nat) : Nat := match std with | 0 => 48 | 1 => 2048 | _ => 512

/-- The useful part Tu and the guard interval Tg in working samples, by mode code. -/
def usefulOf (mode : Nat) : Nat :=
  match mode with
  | 0 => 2048 | 1 => 1152 | 2 => 1024 | 3 => 704 | 4 => 448 | _ => 432
def guardOf (mode : Nat) : Nat :=
  match mode with
  | 0 => 504 | 1 => 128 | 2 => 256 | 3 => 256 | 4 => 352 | _ => 48

/-- Symbols of a frame, the null aside; the null symbol; a symbol; a frame, in working samples. -/
def symbolsOf (mode : Nat) : Nat := match mode with | 0 => 76 | 1 => 15 | 2 => 15 | 3 => 20 | 4 => 24 | _ => 40
def nullOf (mode : Nat) : Nat := if mode = 0 then 2656 else 0
def symbolOf (mode : Nat) : Nat := usefulOf mode + guardOf mode
def frameLen (mode : Nat) : Nat := nullOf mode + symbolsOf mode * symbolOf mode

/-- The frame positions in a DRM superframe. -/
def superLen (mode : Nat) : Nat := if mode = 5 then 4 else 3

/-- The logical frames over which one is deinterleaved (R152, R160). -/
def depthOf (mode : Nat) (short : Bool) : Nat := if mode = 0 then 16 else if short then 1 else if mode = 5 then 6 else 5

/-- What the signal path of a channel works by: standard, mode, DIV_MODE, NULL_AVG, the threshold in 0.1 dB, CFO_SEARCH, TII_EN, what the FAC gave, and the
symbols of SUM items re-timed to this device: instant, number, terms (R169, R321). -/
structure EeSet where
  std : Nat
  mode : Nat
  div : Nat
  nullAvg : Nat
  thr : Nat
  cfo : Nat
  tiiEn : Bool
  occ : Nat
  layout : Nat
  constellation : Nat
  base : Option Nat
  sums : List (Int × Nat × List (Int × Int) × List Int)
  deriving DecidableEq, Repr

/-! ## Words (R158) -/

/-- Values rounded to words of `bits` bits under the smallest common exponent. -/
def blockWords (bits : Nat) (vs : List (List (Int × Int))) : List (List (Int × Int)) :=
  let top : Nat := (vs.flatMap (fun l => l.map (fun v => max v.1.natAbs v.2.natAbs))).foldl max 0
  let tooBig (e : Nat) : Bool := decide ((2 ^ (bits - 1) : Int) ≤ rheDiv top (2 ^ e))
  let e0 := Nat.log2 top + 1 - (bits - 1)
  let e := if tooBig e0 then e0 + 1 else e0
  vs.map (fun l => l.map (fun v => cscale (2 ^ e) (cround (2 ^ e) v)))

/-- One value as a word. -/
def word1 (bits : Nat) (v : Int × Int) : Int × Int := ((blockWords bits [[v]]).flatten.head?).getD (0, 0)

/-! ## The buffer -/

/-- `n` working samples from number `a`, in order; those that the buffer no longer holds or does not hold yet are missing. -/
def EePath.slice (q : EePath) (a n : Nat) : List WorkSample := ((q.buf.drop (q.pos - (a + n))).take n).reverse

/-- A branch of some samples: GAP is zero (R157). -/
def branchVals (xs : List WorkSample) (b : Nat) : List (Int × Int) :=
  xs.map (fun x => if x.gaps.getD b true then (0, 0) else x.vals.getD b (0, 0))

/-- The fraction of valid samples of a branch, and of those with some valid branch, in 1/65536. -/
def validFrac (xs : List WorkSample) (b : Nat) : Nat := 65536 * xs.countP (fun x => !x.gaps.getD b true) / max 1 xs.length
def anyFrac (xs : List WorkSample) : Nat := 65536 * xs.countP (fun x => x.gaps.any (fun g => !g)) / max 1 xs.length

/-- The power of the combined input: that of all branches (log 89). -/
def WorkSample.power (x : WorkSample) : Nat := ((x.vals.zip x.gaps).map (fun y => if y.2 then 0 else cpow y.1)).sum

/-- The branches that the samples carry. -/
def lanesOf (xs : List WorkSample) : Nat := ((xs.head?.map (fun x => x.vals.length)).getD 0)

/-- The instant of working sample `n` in CK_RF cycles. -/
def EePath.instantOf (q : EePath) (std n : Nat) : Nat := q.at_ / 2 ^ 16 - (q.pos - n) * workPeriod std

/-! ## Null detection (R143) -/

/-- The null search at a new sample, the newest of the buffer. -/
def EePath.nullStep (q : EePath) : EePath :=
  let w := ((q.buf.take 128).map WorkSample.power).sum
  if q.null.down = 0 then
    let ref := (((q.buf.drop 128).take 5104).map WorkSample.power).sum
    if 5232 ≤ q.buf.length ∧ 0 < ref ∧ w * 51040 ≤ ref * 128 then { q with null := ⟨ref, 1, false⟩ } else q
  else if q.null.confirmed then
    if belowTen 10 (w * 5104) (q.null.ref * 128) (-3) then q
    else { q with null := ⟨0, 0, false⟩, cands := q.cands.map (fun c => if c.start.isNone then { c with start := some q.pos } else c) }
  else if w * 51040 ≤ q.null.ref * 128 then
    if 2000 ≤ q.null.down + 1 then { q with null := { q.null with down := q.null.down + 1, confirmed := true }, cands := q.cands ++ [⟨none, none, 0⟩] }
    else { q with null := { q.null with down := q.null.down + 1 } }
  else { q with null := ⟨0, 0, false⟩ }

/-! ## Correlations (R144, R148, R152) -/

/-- The correlation of a guard interval with the end of its symbol, over all branches. -/
def guardCorr (tu : Nat) (xs : List WorkSample) : Int × Int :=
  csum ((List.range (lanesOf xs)).map (fun b =>
    let v := branchVals xs b
    csum (((v.drop tu).zip v).map (fun p => cmul p.1 (cconj p.2)))))

/-- Carrier `k` of a transform over `n` samples, the offset removed by a 32-bit phase; `a` numbers the first sample. -/
def carrierAt (n : Nat) (freq : Int) (a : Nat) (xs : List (Int × Int)) (k : Int) : Int × Int :=
  cround (2 ^ 30) (csum ((indexed 0 xs).map (fun x => turn 30 (-(k * x.1 * 2 ^ 32 / n) - freq * (a + x.1 : Nat)) x.2)))

/-- The impulse response of a channel from its known carriers: its power at each delay, over all branches. -/
def response (tu : Nat) (cells : List (List ((Int × Int) × Int))) : List Nat :=
  (List.range tu).map (fun n => (cells.map (fun br =>
    cpow (cround (2 ^ 30) (csum (br.map (fun c => turn 30 (c.2 * n * 2 ^ 32 / tu) c.1)))))).sum)

/-- A delay modulo the useful part as a signed one. -/
def signedDelay (tu n : Nat) : Int := if n ≤ tu / 2 then n else (n : Int) - tu

/-- The known carriers of a symbol times the conjugate of the reference, at a shift of whole carriers. -/
def refCells (mode : Nat) (freq : Int) (a : Nat) (xs : List WorkSample) (shift : Int) : List (List ((Int × Int) × Int)) :=
  (List.range (lanesOf xs)).map (fun b =>
    let v := branchVals xs b
    (Config.reference mode).map (fun r => (cround (2 ^ 30) (turn 30 (-r.2) (carrierAt (usefulOf mode) freq a v (r.1 + shift))), r.1)))

/-- The shortest span of a response that holds 90 % of its energy, in samples (R166). -/
def spreadOf (ps : List Nat) : Nat :=
  let total := ps.sum
  let n := ps.length
  let most (w : Nat) : Nat := ((List.range n).map (fun i => (((ps ++ ps).drop i).take w).sum)).foldl max 0
  if total = 0 then 0 else bisect (fun w => decide (10 * most (w - 1) < 9 * total)) 0 (Nat.log2 n + 1)

/-- The test of a candidate whose symbol begins at sample `a`; with the offset known, no search for it is made (R144, R152). -/
def EePath.test (q : EePath) (x : EeSet) (a : Nat) (known : Option Int) : EeTest :=
  let tu := usefulOf x.mode
  let tg := guardOf x.mode
  let xs := q.slice a (tg + tu)
  let frac := match known with | some f => f | none => arcQ 32 (guardCorr tu xs) / (tu : Int)
  let most : Nat := if known.isSome then 0 else x.cfo * 100 * workPeriod x.std * tu / rfHz
  let shifts : List Int := (List.range (2 * most + 1)).map (fun i => (i : Int) - most)
  let resp (s : Int) : List Nat := response tu (refCells x.mode frac (a + tg) (xs.drop tg) s)
  let peak (ps : List Nat) : Nat := ps.foldl max 0
  let best := shifts.foldl (fun (m : Int × List Nat) s => let ps := resp s; if peak m.2 < peak ps then (s, ps) else m) (0, resp 0)
  let ps := best.2
  let top := peak ps
  let delays := (indexed 0 ps).map (fun p => (signedDelay tu p.1, p.2))
  let early := if top = 0 then 0 else ((delays.filter (fun p => decide (top ≤ 100 * p.2))).map Prod.fst).foldl min ((tu : Int) / 2)
  let at_ := ((delays.filter (fun p => p.2 == top)).map Prod.fst).headD 0
  let p (d : Int) : Nat := ps.getD ((d % tu).toNat) 0
  { ratio := if top = 0 then 0 else (logSteps 100 (top * tu) ps.sum).toNat,
    freq := frac + best.1 * 2 ^ 32 / tu,
    first := ((a : Int) + early - nullOf x.mode).toNat,
    fine := Config.peakPlace (p (at_ - 1)) (p at_) (p (at_ + 1)) % 16,
    early := early,
    centroid := if ps.sum = 0 then 0 else (delays.map (fun d => d.1 * (d.2 : Int))).sum / (ps.sum : Int),
    spread := spreadOf ps }

/-- Candidates whose symbol has been received are decided (R145, R152). -/
def EePath.decide_ (q : EePath) (x : EeSet) : EePath :=
  { q with cands := q.cands.map (fun c =>
      match c.start, c.test with
      | some a, none => if a + symbolOf x.mode ≤ q.pos then { c with test := some (q.test x a none) } else c
      | _, _ => c) }

/-- The normalised guard correlation of a mode in thousandths, averaged over its last 16 symbols, the best over where a guard interval begins; that
place modulo the symbol (R152). -/
def EePath.guardPeak (q : EePath) (mode : Nat) : Nat × Nat :=
  let tu := usefulOf mode
  let ts := symbolOf mode
  let a := q.pos - 17 * ts
  let one (o j : Nat) : Nat :=
    let xs := q.slice (a + o + j * ts) ts
    let c := guardCorr tu xs
    let e := ((xs.take (ts - tu)).map WorkSample.power).sum + ((xs.drop tu).map WorkSample.power).sum
    if e = 0 then 0 else 2000 * isqrt (cpow c) / e
  ((List.range ts).map (fun o => (((List.range 16).map (one o)).sum / 16, (a + o) % ts))).foldl (fun m v => if m.1 < v.1 then v else m) (0, 0)

/-- DRM acquisition at a new sample: the modes' correlations every 16 symbols, and, with the mode known, the frame start (R152). -/
def EePath.drmSearch (q : EePath) (x : EeSet) : EePath :=
  let q := if x.std ≠ 1 ∨ x.mode ≠ 0xFF then q else
    { q with peaks := (indexed 1 q.peaks).map (fun p => if q.pos % (16 * symbolOf p.1) = 0 then (q.guardPeak p.1).1 else p.2) }
  if x.mode = 0xFF then q
  else
    let ts := symbolOf x.mode
    let q := if q.pos % (16 * ts) = 0 then { q with guard := some (q.guardPeak x.mode).2 } else q
    match q.guard with
    | some g =>
      if ts ≤ q.pos ∧ q.pos % ts = g % ts then
        let t := q.test x (q.pos - ts) none
        if x.thr ≤ t.ratio then { q with cands := q.cands ++ [⟨some (q.pos - ts), some t, 0⟩] } else q
      else q
    | none => q

/-- The matched correlator over the frame in progress: the peaks at every delay, relative to the main timing (R148). A peak stands out of the mean by the threshold
of the test (log 89). -/
def EePath.matched (q : EePath) (x : EeSet) (k : EeTrack) : List EeArrival :=
  let tu := usefulOf x.mode
  let len := frameLen x.mode
  let home := nullOf x.mode + guardOf x.mode
  let power (p : Nat) : Nat :=
    let cells := refCells x.mode k.freq (k.first + p) (q.slice (k.first + p) tu) 0
    (cells.map (fun br => cpow (csum (br.map Prod.fst)))).sum
  let ps := (List.range (len + 1 - tu)).map power
  let mean := ps.sum / max 1 ps.length
  let v (i : Nat) : Nat := ps.getD i 0
  let peaks := (List.range ps.length).filter (fun i => decide (0 < v i ∧ v (i - 1) ≤ v i ∧ v (i + 1) ≤ v i ∧ x.thr ≤ (logSteps 100 (v i) (max 1 mean)).toNat))
  peaks.map (fun (i : Nat) =>
    let d : Int := (i : Int) - home
    (⟨if d ≤ len / 2 then d else d - len, v i⟩ : EeArrival))

/-! ## Spectra (R155, R158) -/

/-- The carriers of DAB in order. -/
def dabCarriers : List Int := (List.range 768).map (fun i => (i : Int) - 768) ++ (List.range 768).map (fun i => (i : Int) + 1)

/-- The place of a carrier in that order. -/
def carrierNo (k : Int) : Nat := if k < 0 then (k + 768).toNat else (k + 767).toNat

/-- The spectra of a symbol on each branch, 16-bit words with one exponent. -/
def spectra (n : Nat) (freq : Int) (a : Nat) (xs : List WorkSample) (ks : List Int) : List (List (Int × Int)) :=
  blockWords 16 ((List.range (lanesOf xs)).map (fun b => let v := branchVals xs b; ks.map (carrierAt n freq a v)))

/-- N_b[k]: the mean power over the nulls held and over 9 adjacent carriers, at least 1 (R155, log 80). -/
def noiseAt (noise : List (List (List Nat))) (b i : Nat) : Nat :=
  let near := noise.flatMap (fun f => (((f.getD b []).drop (i - 4)).take (i + 5 - (i - 4))))
  max 1 (near.sum / max 1 near.length)

/-- The combined differential product and the CSI of a carrier, in units of 2^-16 (R155, R157). -/
def dabCell (div : Nat) (noise : List (List (List Nat))) (prev ys : List (List (Int × Int))) (fp fr : List Nat) (i : Nat) : (Int × Int) × Int :=
  let y (b : Nat) : Int × Int := (ys.getD b []).getD i (0, 0)
  let p (b : Nat) : Int × Int := (prev.getD b []).getD i (0, 0)
  let all := List.range ys.length
  let ratio (b : Nat) : Nat := cpow (y b) * 2 ^ 32 / noiseAt noise b i
  let best := all.foldl (fun m b => if ratio m < ratio b then b else m) 0
  let use := match div with | 0 => all | 1 => [best] | _ => [0]
  let term (b : Nat) : Int × Int :=
    cround (noiseAt noise b i * 2 ^ 16) (cscale (fr.getD b 0 * fp.getD b 0 : Nat) (cmul (y b) (cconj (p b))))
  let csi (b : Nat) : Int := ((cpow (y b) * fr.getD b 0 + cpow (p b) * fp.getD b 0) / (2 * noiseAt noise b i) : Nat)
  (csum (use.map term), (use.map csi).sum)

/-- Terms of SUM items that name the same symbol within ±Tg/8 are added (R321). -/
def addSums (x : EeSet) (at_ : Int) (sym : Nat) (own : List ((Int × Int) × Int)) : List ((Int × Int) × Int) :=
  let reach := guardOf x.mode * workPeriod x.std
  let mine := x.sums.filter (fun e => e.2.1 == sym && decide ((e.1 - at_).natAbs * 8 ≤ reach))
  (indexed 0 own).map (fun o => mine.foldl (fun (v : (Int × Int) × Int) e =>
    (cadd v.1 (e.2.2.1.getD o.1 (0, 0)), v.2 + e.2.2.2.getD o.1 0)) o.2)

/-- |ideal|² and the squared error of QPSK decision variables, their mean magnitude taken as that of the ideal point (R166). -/
def qpskMer (zs : List (Int × Int)) : Nat × Nat :=
  let mean := (zs.map (fun z => isqrt (cpow z))).sum
  let n := zs.length
  let ideal (v : Int) : Int := if v < 0 then -46341 else 46341
  if mean = 0 then (0, 0)
  else (n * 2 ^ 32, (zs.map (fun z =>
    let x : Int × Int := (rheDiv (z.1 * 65536 * n) mean, rheDiv (z.2 * 65536 * n) mean)
    cpow (csub x (ideal x.1, ideal x.2)))).sum)

/-- Figures added to those of the frame. -/
def addMer (l : List (Nat × Nat)) (i : Nat) (v : Nat × Nat) : List (Nat × Nat) := modAt i (fun m => (m.1 + v.1, m.2 + v.2)) l

/-! ## The deinterleaver (R150, R160) -/

/-- A CIF or frame enters the deinterleaver under its number: one already received is discarded, skipped ones are erased. -/
def EePath.push (q : EePath) (v : EeStore) : EePath :=
  if v.no < q.stored then q
  else
    let missing := (List.range (v.no - q.stored)).map (fun i => (⟨q.stored + i, v.at_, [], [], true⟩ : EeStore))
    { q with store := ((v :: missing.reverse) ++ q.store).take 64, stored := v.no + 1 }

/-- The stored entry of a number. -/
def EePath.stored_ (q : EePath) (n : Nat) : Option EeStore := q.store.find? (fun v => v.no == n)

/-! ## A DAB symbol (R147, R155, R157 to R160) -/

/-- The bits of a FIC block as three FIBs. -/
def ficBlock (at_ frame i : Nat) (erased : Bool) (soft : List Int) : List EeBlock :=
  let bits := (decodeBlock true Config.ficMask soft).1
  (indexed 0 (chunksOf 256 bits)).map (fun f => ⟨bitsToBytes f.2, 256, 3 * i + f.1, crc16Good f.2, erased, at_, frame⟩)

/-- An identifier with its level relative to the strongest in 0.5 dB. -/
def tiiLevel (top : Nat) (a : Nat × Nat × Nat) : Nat × Nat × Int := (a.1, a.2.1, logSteps 20 a.2.2 top)

/-- The power of every identifier: main, sub, the sum over its carriers. -/
def tiiPowers (powers : List Nat) : List (Nat × Nat × Nat) :=
  (List.range 70).flatMap (fun m => (List.range 24).map (fun s => (m, s, ((Config.tiiCarriers m s).map (fun k => powers.getD (carrierNo k) 0)).sum)))

/-- The strongest four of the identifiers within 20 dB of the strongest, with levels in 0.5 dB (R147). -/
def tiiFound (all : List (Nat × Nat × Nat)) : List (Nat × Nat × Int) :=
  let top := (all.map (fun a => a.2.2)).foldl max 0
  let near := (all.filter (fun a => decide (0 < a.2.2 ∧ top ≤ 100 * a.2.2))).mergeSort (fun a b => decide (b.2.2 ≤ a.2.2))
  (near.take 4).map (tiiLevel top)

/-- The null symbol: its powers enter N_b[k] and the TII average (R147, R155). -/
def EePath.dabNull (q : EePath) (x : EeSet) (k : EeTrack) : EePath :=
  let a := k.first + 304
  let ys := spectra 2048 k.freq a (q.slice a 2048) dabCarriers
  let ps := ys.map (fun l => l.map cpow)
  let sum := (List.range 1536).map (fun i => k.tii.getD i 0 + (ps.map (fun l => l.getD i 0)).sum)
  let full := decide (8 ≤ k.tiiFrames + 1)
  { q with
    tiiSet := if x.tiiEn && full then tiiFound (tiiPowers sum) else q.tiiSet,
    track := some { k with
      sym := 1, noise := (ps :: k.noise).take (2 ^ x.nullAvg), valid := (q.slice k.first 2656).any (fun w => w.gaps.any (fun g => !g)),
      passed := 0, mer := [(0, 0), (0, 0), (0, 0), (0, 0)],
      tii := if full then [] else sum, tiiFrames := if full then 0 else k.tiiFrames + 1 } }

/-- The PRS: ratio, timing and the rate that its trend drives; its spectra start the differential products (R144, R146, R153). -/
def EePath.dabPrs (q : EePath) (x : EeSet) (k : EeTrack) : EePath :=
  let t := q.test x (k.first + 2656) (some k.freq)
  let found := decide (x.thr ≤ t.ratio)
  let first := if found then t.first else k.first
  let a := first + 2656 + 504 - 16
  let xs := q.slice a 2048
  let ys := spectra 2048 k.freq a xs dabCarriers
  let n (b : Nat) : Nat := ((List.range 1536).map (noiseAt k.noise b)).sum
  let snr (b : Nat) : Nat :=
    let p := ((ys.getD b []).map cpow).sum
    (max 0 (min 255 (figureDb 20 (p - n b) (n b) Config.zeroLevel))).toNat
  { q with
    sro := if found then max (-20000) (min 20000 (q.sro + Config.rateLoop t.early)) else q.sro,
    figures := { q.figures with snr := (List.range ys.length).map snr },
    track := some { k with
      sym := 2, first := first,
      at_ := q.instantOf x.std first + (if found then t.fine * workPeriod x.std / 16 else 0), ratio := t.ratio, spread := t.spread,
      valid := k.valid || xs.any (fun w => w.gaps.any (fun g => !g)),
      prev := ys, prevFrac := (List.range ys.length).map (validFrac xs), soft := [], lost := false } }

/-- A FIC or MSC symbol, `l` from 1 to 75 (R155, R157, R158). -/
def EePath.dabData (q : EePath) (x : EeSet) (k : EeTrack) (l : Nat) : EePath :=
  let begin := k.first + 2656 + l * 2552
  let a := begin + 504 - 16
  let xs := q.slice a 2048
  let ys := spectra 2048 k.freq a xs dabCarriers
  let fr := (List.range ys.length).map (validFrac xs)
  let own := (List.range 1536).map (dabCell x.div k.noise k.prev ys k.prevFrac fr)
  let zs := addSums x (k.at_ + (begin - k.first) * workPeriod x.std) l ((blockWords 24 [own.map Prod.fst]).flatten.zip (own.map Prod.snd))
  let any_ := anyFrac xs
  let at_ (i : Nat) : (Int × Int) × Int := zs.getD i ((0, 0), 0)
  let order := (List.range 1536).map (fun n => carrierNo (Config.carrierOrder n))
  let val (v : Int) (c : Int) : Int := v * c * any_ / 65536
  let bits := order.map (fun i => val (at_ i).1.1 (at_ i).2) ++ order.map (fun i => val (at_ i).1.2 (at_ i).2)
  let soft := k.soft ++ softBits (llrs bits)
  let lost := k.lost || any_ == 0
  let k := { k with
    sym := l + 2, prev := ys, prevFrac := fr, soft := soft, lost := lost, valid := k.valid || any_ != 0,
    mer := addMer k.mer (if l ≤ 3 then 0 else 2) (qpskMer (zs.map Prod.fst)) }
  if l = 3 then
    let fibs := (indexed 0 (chunksOf 2304 soft)).flatMap (fun b => ficBlock k.at_ k.no b.1 lost b.2)
    { q with blocks := (q.blocks ++ fibs).drop (q.blocks.length + fibs.length - 48),
             track := some { k with soft := [], lost := false, passed := fibs.countP EeBlock.ok } }
  else if 3 < l ∧ (l - 3) % 18 = 0 then
    { q.push ⟨k.no + (l - 3) / 18 - 1, k.at_, soft, [], lost⟩ with track := some { k with soft := [], lost := false } }
  else { q with track := some k }

/-- The figures of a channel over a frame (R166). -/
def EePath.frameFigures (q : EePath) (x : EeSet) (k : EeTrack) : EeFigures :=
  let db (i : Nat) : Int := let m := k.mer.getD i (0, 0); figureDb 40 m.1 m.2 Config.zeroLevel
  { q.figures with
    merA := db 0, merSdc := if x.std = 0 then -32768 else if (k.mer.getD 1 (0, 0)).1 = 0 then q.figures.merSdc else db 1, merMsc := db 2,
    wmerMsc := if x.std = 0 then -32768 else db 3, offset := satSigned 16 (rheDiv (k.freq * rfHz) (workPeriod x.std * 2 ^ 32)), sro := q.sro,
    delaySpread := satU 16 (k.spread * workPeriod x.std * 10000000 / rfHz) }

/-- The end of a frame: the run of failing frames (R146), the arrivals (R148), the figures (R166), and the next frame with `step` logical frames
after the last. -/
def EePath.frameEnd (q : EePath) (x : EeSet) (k : EeTrack) (step : Nat) : EePath :=
  let bad := decide (k.ratio < x.thr) && k.passed == 0
  let found := q.matched x k
  { q with
    lossRun := if bad then q.lossRun + 1 else 0, absentRun := if bad && !k.valid then q.absentRun + 1 else 0,
    arrivals := (found :: q.arrivals).take 8,
    seen := q.seen + found.countP (fun a => decide ((guardOf x.mode : Int) < a.delay.natAbs)),
    figures := q.frameFigures x k,
    track := some { k with first := k.first + frameLen x.mode, at_ := k.at_ + frameLen x.mode * workPeriod x.std, no := k.no + step, sym := 0 } }

/-- The next symbol of DAB, once it has been received. -/
def EePath.dabTrack (q : EePath) (x : EeSet) (k : EeTrack) : EePath :=
  if k.sym = 0 then (if k.first + 2656 ≤ q.pos then q.dabNull x k else q)
  else if k.sym = 77 then q.frameEnd x k 4
  else if k.first + 2656 + k.sym * 2552 ≤ q.pos then (if k.sym = 1 then q.dabPrs x k else q.dabData x k (k.sym - 1))
  else q

/-! ## A DRM frame (R152, R153, R156 to R159) -/

/-- A cell of a frame: symbol, carrier, the combined value over its CSI in 10-bit words of which 256 is 1, and the CSI. -/
structure DrmCell where
  sym : Nat
  car : Int
  val : Int × Int
  csi : Nat
  deriving DecidableEq, Repr

/-- The spectra of a frame, symbol by symbol: branch and carrier to value; the fraction of valid samples; what the timing moved by. -/
structure DrmFrame where
  ks : List Int
  specs : List (List (List (Int × Int)))
  fracs : List (List Nat × Nat)
  moved : Int
  deriving DecidableEq, Repr

def DrmFrame.at_ (f : DrmFrame) (b l : Nat) (k : Int) : Int × Int :=
  ((f.specs.getD l []).getD b []).getD (((indexed 0 f.ks).find? (fun c => c.2 == k)).elim f.ks.length Prod.fst) (0, 0)

/-- The centroid of a symbol's response from its gain references (R153). -/
def centroidOf (tu : Nat) (cells : List (List ((Int × Int) × Int))) : Int :=
  let ps := response tu cells
  if ps.sum = 0 then 0 else (((indexed 0 ps).map (fun p => signedDelay tu p.1 * p.2)).sum) / (ps.sum : Int)

/-- All symbols of a frame: the FFT window follows the centroid by at most one sample per symbol (R153). -/
def EePath.drmFrame (q : EePath) (x : EeSet) (k : EeTrack) : DrmFrame :=
  let tu := usefulOf x.mode
  let ts := symbolOf x.mode
  let refs := Config.gainRefs x.mode x.occ
  let ks := distinct (refs.map (fun r => r.2.1) ++ Config.freqPilots x.mode ++
    ([0, 1, 2] : List Nat).flatMap (fun d => (Config.cells x.mode x.occ d).map Prod.snd))
  (List.range (symbolsOf x.mode)).foldl (fun (f : DrmFrame) l =>
    let a := ((k.first + l * ts + guardOf x.mode - 16 : Nat) + f.moved).toNat
    let xs := q.slice a tu
    let ys := spectra tu k.freq a xs ks
    let f := { f with specs := f.specs ++ [ys], fracs := f.fracs ++ [((List.range ys.length).map (validFrac xs), anyFrac xs)] }
    let here := refs.filter (fun r => r.1 == l)
    let c := centroidOf tu ((List.range ys.length).map (fun b => here.map (fun r => (cmul (f.at_ b l r.2.1) (cconj (r.2.2.1, r.2.2.2)), r.2.1))))
    let want := k.centroid + 16
    { f with moved := f.moved + (if here.isEmpty then 0 else (c - want).sign) }) ⟨ks, [], [], 0⟩

/-- H_b at a cell: the gain references interpolated in time and frequency (R156). -/
def DrmFrame.gain (f : DrmFrame) (refs : List (Nat × Int × Int × Int)) (b l : Nat) (k : Int) : Int × Int :=
  let ws := refs.map (fun r => (Config.chanWeight ((l : Int) - r.1) (k - r.2.1), r))
  let total := (ws.map Prod.fst).sum
  cround (max 1 total) (csum (ws.map (fun w =>
    let v : Int × Int := (w.2.2.2.1, w.2.2.2.2)
    cscale w.1 (cround (max 1 (cpow v)) (cscale 65536 (cmul (f.at_ b w.2.1 w.2.2.1) (cconj v)))))))

/-- N_b at a carrier from the residuals of the gain references over the frame, at least 1 (R156). -/
def DrmFrame.noise (f : DrmFrame) (refs : List (Nat × Int × Int × Int)) (b : Nat) (k : Int) : Nat :=
  let ws := refs.map (fun r =>
    let h := f.gain refs b r.1 r.2.1
    (Config.chanWeight 0 (k - r.2.1), cpow (csub (f.at_ b r.1 r.2.1) (cround 65536 (cmul h (r.2.2.1, r.2.2.2))))))
  max 1 ((ws.map (fun w => w.1 * w.2)).sum / max 1 (ws.map Prod.fst).sum)

/-- A combined cell: Σ conj(H_b) Y_b / N_b over its CSI, which weights it (R156, R157, R321). -/
def DrmFrame.cell (f : DrmFrame) (x : EeSet) (begin : Nat) (l : Nat) (k : Int) : DrmCell :=
  let refs := Config.gainRefs x.mode x.occ
  let fr := f.fracs.getD l ([], 0)
  let all := List.range (f.specs.getD l []).length
  let ratio (b : Nat) : Nat := cpow (f.at_ b l k) * 2 ^ 32 / f.noise refs b k
  let best := all.foldl (fun m b => if ratio m < ratio b then b else m) 0
  let use := match x.div with | 0 => all | 1 => [best] | _ => [0]
  let term (b : Nat) : (Int × Int) × Int :=
    let h := f.gain refs b l k
    let n := f.noise refs b k
    (cround n (cscale (fr.1.getD b 0) (cmul (cconj h) (f.at_ b l k))), (cpow h * fr.1.getD b 0 / n : Nat))
  let own := (csum (use.map (fun b => (term b).1)), (use.map (fun b => (term b).2)).sum)
  let i := ((indexed 0 f.ks).find? (fun c => c.2 == k)).elim 0 Prod.fst
  let v := ((addSums x (begin + l * symbolOf x.mode * workPeriod x.std) l (f.ks.map (fun _ => own))).getD i own)
  let csi : Nat := v.2.toNat * fr.2 / 65536
  ⟨l, k, if v.2 ≤ 0 then (0, 0) else (satSigned 10 (rheDiv (v.1.1 * 256) v.2.toNat), satSigned 10 (rheDiv (v.1.2 * 256) v.2.toNat)), csi⟩

/-- CSI in 6 bits, by the mean of a symbol's cells (log 88). -/
def csiWords (cs : List DrmCell) : List (Int × Int × Nat) :=
  let q := quantise 63 (1 + Config.llrLevel % 31) (cs.map (fun c => (c.csi : Int)))
  (cs.zip q).map (fun x => (x.1.val.1, x.1.val.2, x.2.toNat))

/-- Multilevel decoding in one pass: each level is decoded in turn, and its decisions feed the demapping of the next (R158). -/
def decodeLevels (kind layout con : Nat) (cells : List (Int × Int × Nat)) : List Bool × Nat × Nat :=
  let comps := cells.flatMap (fun c => [(c.1, c.2.2), (c.2.1, c.2.2)])
  let gens := motherCode false
  let r := (List.range (con + 1)).foldl (fun (a : List Bool × (Nat × Nat) × List (List Bool)) level =>
    let soft := (indexed 0 comps).map (fun c => Config.demapLevel con level (a.2.2.map (fun d => d.getD c.1 false)) c.2.1 * c.2.2)
    let order := (List.range comps.length).map (Config.bitOrder kind level)
    let xs := softBits (llrs (order.map (fun i => soft.getD i 0)))
    let mask := Config.drmMask kind layout level
    let full := depuncture mask xs
    let bits := viterbi gens full
    let wrong := wrongBits gens full bits
    let sent := ((mask.zip (encodeBits gens bits)).filter Prod.fst).map Prod.snd
    let back := (List.range comps.length).map (fun i => ((indexed 0 order).find? (fun o => o.2 == i)).elim false (fun o => sent.getD o.1 false))
    (a.1 ++ bits, (a.2.1.1 + wrong.1, a.2.1.2 + wrong.2), a.2.2 ++ [back])) ([], (0, 0), [])
  ((indexed 0 r.1).map (fun b => b.2 != Config.dispersal 0 b.1), r.2.1)

/-- |ideal|² and the squared error of cells, each term times its weight. -/
def cellMer (con : Nat) (weighted : Bool) (cs : List DrmCell) : Nat × Nat :=
  cs.foldl (fun m c =>
    let i : Int × Int := (Config.idealPoint con c.val.1, Config.idealPoint con c.val.2)
    let w := if weighted then c.csi else 1
    (m.1 + w * cpow i, m.2 + w * cpow (csub c.val i))) (0, 0)

/-- A DRM frame, once it has been received (R152 to R158). -/
def EePath.drmTrack (q : EePath) (x : EeSet) (k : EeTrack) : EePath :=
  let len := frameLen x.mode
  if q.pos < k.first + len + guardOf x.mode then q
  else
    let t := q.test x k.first (some k.freq)
    let at_ := q.instantOf x.std k.first + t.fine * workPeriod x.std / 16
    let f := q.drmFrame x k
    let cs (d : Nat) : List DrmCell := (Config.cells x.mode x.occ d).map (fun c => f.cell x at_ c.1 c.2)
    let lost := f.fracs.any (fun v => v.2 == 0)
    let fac := (decodeLevels 0 x.layout 0 (csiWords (cs 0))).1
    let facOk := crc8Good fac
    let facBlock : EeBlock := ⟨bitsToBytes fac, fac.length, 0, facOk, lost, at_, k.no⟩
    let sdcHere := match x.base with | some b => (b + k.no) % superLen x.mode == 0 | none => false
    let sdcCon := Config.sdcConstellation x.layout
    let sdc := if sdcHere then (decodeLevels 1 x.layout sdcCon (csiWords (cs 1))).1 else []
    let sdcBlock : List EeBlock := if sdcHere then [⟨bitsToBytes sdc, sdc.length, 1, crc16Good sdc, lost, at_, k.no⟩] else []
    let refs := Config.gainRefs x.mode x.occ
    let snr (b : Nat) : Nat :=
      let p := (refs.map (fun r => cpow (f.gain refs b r.1 r.2.1))).sum
      let n := (refs.map (fun r => f.noise refs b r.2.1)).sum
      (max 0 (min 255 (figureDb 20 p n Config.zeroLevel))).toNat
    let pilots := Config.freqPilots x.mode
    let steps := (List.range (symbolsOf x.mode - 1)).map (fun l =>
      arcQ 20 (csum ((List.range (f.specs.getD 0 []).length).flatMap (fun b => pilots.map (fun p => cmul (f.at_ b (l + 1) p) (cconj (f.at_ b l p)))))))
    let freq := steps.foldl (fun v e => v + Config.freqLoop x.mode e) k.freq
    let k := { k with
      at_ := at_, ratio := t.ratio, spread := t.spread, freq := freq, passed := bit facOk, valid := f.fracs.any (fun v => v.2 != 0),
      mer := [cellMer 0 false (cs 0), if sdcHere then cellMer sdcCon false (cs 1) else (0, 0), cellMer x.constellation false (cs 2), cellMer x.constellation true (cs 2)] }
    let new := facBlock :: sdcBlock
    let q := { q.push ⟨k.no, at_, [], csiWords (cs 2), lost⟩ with
      blocks := (q.blocks ++ new).drop (q.blocks.length + new.length - 48),
      sro := max (-20000) (min 20000 (q.sro + Config.rateLoop f.moved)),
      figures := { q.figures with snr := (List.range (f.specs.getD 0 []).length).map snr } }
    let q := q.frameEnd x k 1
    { q with track := q.track.map (fun k => { k with first := ((k.first : Int) + f.moved).toNat }) }

/-! ## Samples in (R140, R157, R165) -/

/-- How many working samples are held: two frames and some. -/
def EePath.keep (x : EeSet) : Nat := 2 * frameLen (if x.std = 0 then 0 else 1) + 8192

/-- One working sample through the searches and the tracking. -/
def EePath.sample (x : EeSet) (q : EePath) (v : WorkSample) : EePath :=
  let q := { q with
    buf := (v :: q.buf).take (EePath.keep x), pos := q.pos + 1,
    at_ := (q.at_ + workPeriod x.std * 2 ^ 16 + (workPeriod x.std * 2 ^ 16 : Int) * q.sro / 10 ^ 8).toNat }
  let q := if x.std = 0 then q.nullStep else q.drmSearch x
  let q := if x.mode = 0xFF then q else q.decide_ x
  let q := { q with cands := q.cands.drop (q.cands.length - 4) }
  match q.track with
  | some k => if x.std = 0 then q.dabTrack x k else q.drmTrack x k
  | none => q

/-- The interpolator's reach, in 2^-16 CK_RF cycle: 8 Pass samples. -/
def workReach (p : Nat) : Nat := 8 * p * 2 ^ 16

/-- The working sample at an instant: each branch interpolated, 18-bit words; GAP where the nearest Pass sample is (R140, R158). -/
def workAt (std p : Nat) (ins : List (Nat × PassSample)) (t : Nat) : WorkSample :=
  let d (e : Nat × PassSample) : Nat := ((e.1 * 2 ^ 16 : Nat) - (t : Int)).natAbs
  let near := ins.filter (fun e => decide (d e ≤ workReach p))
  let n := ((near.head?.map (fun e => e.2.vals.length)).getD 0)
  let nearest := near.foldl (fun (m : Option (Nat × PassSample)) e => match m with | some v => if d e < d v then some e else m | none => some e) none
  ⟨(List.range n).map (fun b => word1 18 (cround (2 ^ 17) (csum (near.map (fun e =>
      if e.2.gaps.getD b true then (0, 0) else cscale (Config.workFir std (d e)) (e.2.vals.getD b (0, 0))))))),
    (List.range n).map (fun b => nearest.elim true (fun e => e.2.gaps.getD b true))⟩

/-- The working samples that the Pass samples held allow, at most `fuel`. -/
def EePath.work (x : EeSet) (p : Nat) (q : EePath) : Nat → EePath
  | 0 => q
  | n + 1 =>
    match q.ins.getLast? with
    | some e => if q.at_ + workReach p ≤ e.1 * 2 ^ 16 then EePath.work x p (q.sample x (workAt x.std p q.ins q.at_)) n else q
    | none => q

/-- A Pass sample with its instant. -/
def EePath.take (x : EeSet) (p : Nat) (q : EePath) (t : Nat) (v : PassSample) : EePath :=
  let q := if q.next.isNone then { q with at_ := t * 2 ^ 16 } else q
  EePath.work x p { q with next := some (v.m + 1), ins := (q.ins ++ [(t, v)]).drop (q.ins.length - 23) } 8

end Sys2Proof.Machine
end

