-- ==== Sys2Proof/Machine/Ensemble.lean ====
section
/-! DEFINITION. The ensemble engines: their input, synchronisation, second look, re-locks, FIB, FAC and SDC records, logical frames and the programmes that decode them (R140 to R172, R203, R205, R207, R321, R490). -/
namespace Sys2Proof.Machine
open Sys2Proof

/-! ## Channels (R140, R162) -/

/-- The channel is in use: the engine runs and its Pass is bound. -/
def State.chanOn (s : State) (e c : Nat) : Bool := s.running .ee e && decide (c < 4) && fget (s.eeBlk e) (eePass c) != 0xFF

/-- CK_RF cycles of a transmission frame by mode code (R143, R152). -/
def frameCycles (mode : Nat) : Nat := if mode = 0 then rfHz * 96 / 1000 else if mode = 5 then rfHz / 10 else rfHz * 4 / 10

/-- CK_RF cycles of a logical frame: a CIF for DAB, a transmission frame for DRM (R162); the same in 1/256 ns. -/
def logicalCycles (mode : Nat) : Nat := if mode = 0 then rfHz * 24 / 1000 else frameCycles mode
def logicalNs256 (mode : Nat) : Nat := 256 * 10 ^ 6 * (if mode = 0 then 24 else if mode = 5 then 100 else 400)

/-- Logical frames in a transmission frame, and the numbers that counts run over. -/
def logicalStep (mode : Nat) : Nat := if mode = 0 then 4 else 1
def countModulus (mode : Nat) : Nat := if mode = 0 then 5000 else superLen mode

/-- PRS_THR as a ratio in 0.1 dB. -/
def prsThr (b : Blk) : Nat := (6 + fget b eePrsThr) * 10

/-- A slate of an engine: the channel stands before the items (R488). -/
def State.eeSlate (s : State) (code e c t : Nat) (items : List Byte) : State :=
  s.slateAt code (s.idOf .ee e) (s.passTime (fget (s.eeBlk e) (eePass c)) t) 0 (leBytes 1 c ++ items)

/-- The origin of a channel's side data (R176). -/
def State.eeOrigin (s : State) (e c : Nat) : Origin := ⟨s.idOf .ee e, c⟩

/-- FRAME_TIME of a frame that began on air at a CK_RF count (R162). -/
def State.frameTime (s : State) (e c at_ : Nat) : Nat := s.passTime (fget (s.eeBlk e) (eePass c)) at_

/-- The frame that began at `at_` was ended by the last re-lock (R149). -/
def EeChan.cut (ch : EeChan) (at_ : Nat) : Bool :=
  match ch.relockAt with
  | some r => decide (at_ < r ∧ r < at_ + frameCycles ch.mode)
  | none => false

/-- An offset in 2^-32 turn per working sample, in Hz (R166). -/
def offsetHz (std : Nat) (freq : Int) : Int := satSigned 16 (rheDiv (freq * rfHz) (workPeriod std * 2 ^ 32))

/-- The places among the 64 entries that belong to a channel (R171). -/
def State.subsOf (s : State) (e c : Nat) : List Nat :=
  if s.eeStdOf e = 0 then List.range 64 else (List.range 4).map (fun j => c * 4 + j)

/-- A cleared deinterleaver: the next output of every sub-channel is a first one (R150, R154, R165). -/
def State.clearDeint (s : State) (e c : Nat) : State :=
  let s := s.modChan e c (fun ch => { ch with path := { ch.path with store := [], deliver := ch.path.stored } })
  (s.subsOf e c).foldl (fun s i => s.modSub e i (fun u => { u with first := true, sfSync := false, sfFails := 0, frames := [] })) s

/-! ## The input of a channel (R140, R157, R165, R321) -/

/-- What the signal path of a channel works by. The symbols of SUM items count while their contributor is a member that is not fenced (R321). -/
def State.eeSet (s : State) (e c : Nat) : EeSet :=
  let b := s.eeBlk e
  let ch := s.chan e c
  let id := s.idOf .ee e
  let from_ := s.sumDevices id
  { std := fget b eeStd, mode := ch.mode, div := fget b eeDivMode, nullAvg := fget b eeNullAvg, thr := prsThr b, cfo := fget b eeCfoSearch,
    tiiEn := fbit b eeTiiEn, occ := ch.occ, layout := ch.layout.getD 0, constellation := ch.constellation, base := ch.base,
    sums := (s.cas.symbols.filter (fun x => s.canon x.obj == s.canon id && x.chan == c && x.same && from_.contains x.device)).map
      (fun x => ((x.at_ : Int) + s.deltaAt x.device (x.at_ / perSample) / 64, x.sym, x.z, x.csi)) }

/-- Pass samples of which nothing came: input absent (R157, R165). -/
def absentSamples (n a b : Nat) : List PassSample :=
  (List.range (b - a)).map (fun i => ⟨a + i, List.replicate n (0, 0), List.replicate n true⟩)

/-- The Pass samples that a channel has not taken, those missing between them absent, in order. -/
def fillSamples (n : Nat) : Nat → List PassSample → List PassSample
  | _, [] => []
  | next, x :: xs => absentSamples n next x.m ++ x :: fillSamples n (x.m + 1) xs

/-- A channel takes what its Pass has delivered since the engine's start; with `fill`, the instants whose samples would have come by now and have not are
absent (R165). -/
def State.eeFeed (s : State) (fill : Bool) (e c : Nat) : State :=
  if s.chanOn e c then
    let p := fget (s.eeBlk e) (eePass c)
    let b := s.passBlk p
    let q := (s.chan e c).path
    let from_ := q.next.getD (passFirst p b ((s.life ⟨.ee, e⟩).s0 * perSample))
    let got := (s.passR p).out.filter (fun x => decide (from_ ≤ x.m))
    let n := (passIns b).length
    let xs := if q.next.isNone then fillSamples n (got.head?.elim from_ PassSample.m) got else fillSamples n from_ got
    let to_ := (xs.getLast?.map (fun x => x.m + 1)).getD from_
    let late := if fill ∧ q.next.isSome = true then absentSamples n to_ (passFirst p b (s.now - cyclesOfNs (passLatencyNs b))) else []
    if xs.isEmpty && late.isEmpty then s
    else
      let set := s.eeSet e c
      let q := (xs ++ late).foldl (fun q x => q.take set (passP b) (passInstant p b x.m) x) q
      (s.modChan e c (fun ch => { ch with path := { q with seen := 0 } })).modEe e (fun r => { r with arrivals := satU 16 (r.arrivals + q.seen) })
  else s

/-- The part of a management tick that feeds the engines (R157, R165). -/
def State.tickEes (s : State) : State :=
  (List.range 12).foldl (fun s e => if s.running .ee e then (List.range 4).foldl (fun s c => s.eeFeed true e c) s else s) s

/-! ## Synchronisation (R143 to R146, R151, R152) -/

/-- SYNC entered (R146): the slate EE_SYNC carries the mode and OFFSET. -/
def State.enterSync (s : State) (e c : Nat) (freq : Int) : State :=
  let hz := offsetHz (s.eeStdOf e) freq
  let s := s.modChan e c (fun ch => { ch with
    sync := .sync, resync := true, resyncSdc := true, base := none, badHist := [], sdcHist := [], mscFrom := none,
    path := { ch.path with figures := { ch.path.figures with offset := hz } } })
  s.eeSlate 0x0400 e c s.now (leBytes 1 (s.chan e c).mode ++ leBytes 2 (unsignedOf 16 hz))

/-- The candidates that something examines. -/
def EePath.cand (q : EePath) (taken : Nat) : Option EeCand := q.cands.find? (fun x => x.taken == taken)

/-- The first candidate that nothing examines yet goes to the main path (1) or to the second-look search (2), in place of what it had. -/
def EePath.takeCand (q : EePath) (taken : Nat) : EePath :=
  let rest := q.cands.filter (fun x => x.taken != taken)
  match rest.find? (fun x => x.taken == 0) with
  | some x => { q with cands := { x with taken := taken } :: rest.erase x }
  | none => q

/-- Candidates given up. -/
def EePath.dropCand (q : EePath) (taken : Nat) : EePath := { q with cands := q.cands.filter (fun x => x.taken != taken) }

/-- NULL_CANDIDATE (R143, R148, R151, R152): the search has confirmed a null symbol, or a DRM frame start once the mode is known. The main path takes it
in SEARCH, the second-look search in every other state. -/
def execNullCandidate (t e c : Nat) (s : State) : Out :=
  let u := (s.advance t).eeFeed false e c
  let ch := u.chan e c
  if u.chanOn e c && decide (ch.mode ≠ 0xFF) && (ch.path.cand 0).isSome then
    if ch.sync = .search then done s (u.modChan e c (fun ch => { ch with sync := .candidate, path := ch.path.takeCand 1 }))
    else done s (u.modChan e c (fun ch => { ch with path := ch.path.takeCand 2 }))
  else done s u

/-- The tracking that a passed candidate starts: its frame is the one whose symbols come next. -/
def EePath.start (q : EePath) (std : Nat) (v : EeTest) : EePath :=
  { q with
    cands := q.cands.filter (fun x => x.taken == 0), lossRun := 0, absentRun := 0, arrivals := [], blocks := [], store := [], deliver := q.stored,
    track := some ⟨v.first, q.instantOf std v.first + v.fine * workPeriod std / 16, q.stored, 0, v.freq, v.freq, v.centroid, v.ratio, v.spread,
      true, 0, [], [], [], [], false, [(0, 0), (0, 0), (0, 0), (0, 0)], [], 0⟩ }

/-- A candidate passes its test: DAB enters SYNC; a DRM channel waits for its first FAC (R152). -/
def State.candPasses (s : State) (e c : Nat) (v : EeTest) : State :=
  let s := s.modChan e c (fun ch => { ch with path := ch.path.start (s.eeStdOf e) v })
  if s.eeStdOf e = 0 then s.enterSync e c v.freq else s

/-- The decision on a candidate, once it has been made: the test, and whether it passes. -/
def State.decided (s : State) (e : Nat) (x : Option EeCand) : Option (EeTest × Bool) :=
  (x.bind EeCand.test).map (fun v => (v, decide (prsThr (s.eeBlk e) ≤ v.ratio)))

/-- PRS_TEST (R144, R145, R151, R152): a candidate is decided. Where both pass, the higher ratio wins; where the main one fails, the second-look's is
taken at its present stage. -/
def execPrsTest (t e c : Nat) (second : Bool) (s : State) : Out :=
  let u := (s.advance t).eeFeed false e c
  let ch := u.chan e c
  let two := u.decided e (ch.path.cand 2)
  if u.chanOn e c then
    if second then
      match two with
      | some (_, false) => done s (u.modChan e c (fun ch => { ch with path := ch.path.dropCand 2 }))
      | _ => done s u
    else if ch.sync == .candidate then
      match u.decided e (ch.path.cand 1), two with
      | some (v, true), some (w, true) => done s (u.candPasses e c (if v.ratio < w.ratio then w else v))
      | some (v, true), _ => done s (u.candPasses e c v)
      | some (_, false), some (w, true) => done s (u.candPasses e c w)
      | some (_, false), some (_, false) => done s (u.modChan e c (fun ch => { ch with sync := .search, path := (ch.path.dropCand 1).dropCand 2 }))
      | some (_, false), none =>
        if (ch.path.cand 2).isSome then
          done s (u.modChan e c (fun ch => { ch with path :=
            { ch.path with cands := (ch.path.dropCand 1).cands.map (fun x => if x.taken = 2 then { x with taken := 1 } else x) } }))
        else done s (u.modChan e c (fun ch => { ch with sync := .search, path := ch.path.dropCand 1 }))
      | none, _ => done s u
    else done s u
  else done s u

/-- DRM_MODE_DETECT (R152): at least 0.5, and at least 1.5 times that of every other mode. -/
def execDrmModeDetect (t e c : Nat) (s : State) : Out :=
  let u := (s.advance t).eeFeed false e c
  let ch := u.chan e c
  let ps := indexed 0 (ch.path.peaks.take 4)
  let hit := ps.find? (fun p => decide (500 ≤ p.2) && ps.all (fun q => q.1 == p.1 || decide (3 * q.2 ≤ 2 * p.2)))
  if u.chanOn e c && u.eeStdOf e == 1 && fget (u.eeBlk e) eeDrmMode == 0 && ch.sync == .search && ch.mode == 0xFF then
    match hit with
    | some p => done s (u.modChan e c (fun ch => { ch with mode := p.1 + 1 }))
    | none => done s u
  else done s u

/-- A channel in which loss is possible. -/
def EeSync.up (x : EeSync) : Bool := x == .sync || x == .fic || x == .locked

/-- An engine whose hold has been taken up stops at the end of the logical frame in progress; at once when no channel delivers any
(R165). -/
def State.eeStop (s : State) (e : Nat) (frameEnded : Bool) : State :=
  let l := s.life ⟨.ee, e⟩
  if l.cmd ≠ .run ∧ l.eff = .run ∧ l.holdAt = none ∧ (frameEnded = true ∨ !(s.eeR e).chans.any (fun ch => ch.sync == .locked)) then
    (s.modLife ⟨.ee, e⟩ (fun l => { l with holdAt := some s.now })).settleRef ⟨.ee, e⟩
  else s

/-- A path after a loss: timing, offset and deinterleaver are cleared; the input and the second-look search go on (R146, R148). -/
def EePath.lose (q : EePath) : EePath :=
  { EePath.reset with
    next := q.next, ins := q.ins, at_ := q.at_, pos := q.pos, buf := q.buf, null := q.null, cands := q.cands.filter (fun x => x.taken == 0), peaks := q.peaks,
    tiiSet := q.tiiSet }

/-- A loss (R146): timing, offset and deinterleaver are cleared, the outputs are ABSENT, the channel searches. The causes are coded
0 correlation, 1 FIB or FAC, 2 absent input (log 49). -/
def State.eeLose (s : State) (e c cause : Nat) : State :=
  let mode := if s.eeStdOf e = 1 ∧ fget (s.eeBlk e) eeDrmMode = 0 then 0xFF else (s.chan e c).mode
  let s := s.eeSlate 0x0402 e c s.now (leBytes 1 cause)
  let s := s.modChan e c (fun ch => { EeChan.reset with
    mode := mode, interruptedQ := ch.interruptedQ, holdDriftQ := ch.holdDriftQ, count := ch.count, lastAt := ch.lastAt, path := ch.path.lose })
  let s := (s.subsOf e c).foldl (fun s i => s.modSub e i (fun u => { EeSub.reset with
    org := u.org, discontQ := u.discontQ, uncorrQ := u.uncorrQ, rsFailTick := u.rsFailTick })) s
  let s := s.modEe e (fun r => { r with
    reconfigAt := none, outs := r.outs.map (fun o => if o.chan = c then { o with flags := o.flags ||| 64 } else o) })
  s.eeStop e false

/-- EE_LOSS (R146, R157): LOSS_N consecutive frames with the ratio below PRS_THR and every FIB or FAC failing. A DRM candidate whose frames fail so before its
first FAC is discarded (R145). -/
def execEeLoss (t e c : Nat) (s : State) : Out :=
  let u := (s.advance t).eeFeed false e c
  let ch := u.chan e c
  if u.chanOn e c && decide (fget (u.eeBlk e) eeLossN ≤ ch.path.lossRun) then
    if ch.sync.up then done s (u.eeLose e c (if ch.path.lossRun ≤ ch.path.absentRun then 2 else 0))
    else if ch.path.track.isSome then done s (u.modChan e c (fun ch => { ch with sync := .search, path := ch.path.lose }))
    else done s u
  else done s u

/-- OFFSET_RANGE_LOSS (R153): a DRM offset outside ±half a carrier spacing is a loss. Its cause is coded as correlation and its slate, like the engine's other slates,
carries the Pass time without DETECTED (log 49). -/
def execOffsetRangeLoss (t e c : Nat) (s : State) : Out :=
  let u := (s.advance t).eeFeed false e c
  let ch := u.chan e c
  let out := match ch.path.track with
    | some k => decide (2 ^ 32 < (k.freq - k.freq0).natAbs * (2 * usefulOf ch.mode))
    | none => false
  if u.chanOn e c && u.eeStdOf e != 0 && ch.sync.up && out then done s (u.eeLose e c 0) else done s u

/-- TII (R147): the set of the last average is reported; a slate when the identifiers change. -/
def execTii (t e : Nat) (s : State) : Out :=
  let u := (s.advance t).eeFeed false e 0
  if u.chanOn e 0 && u.eeStdOf e == 0 && fbit (u.eeBlk e) eeTiiEn then
    let set := (u.chan e 0).path.tiiSet
    let ids (l : List (Nat × Nat × Int)) : List (Nat × Nat) := l.map (fun x => (x.1, x.2.1))
    let same := (ids set).all (ids (u.eeR e).tii).contains && (ids (u.eeR e).tii).all (ids set).contains
    let body := (List.range 4).flatMap (fun i => match set[i]? with
      | some x => leBytes 1 x.1 ++ leBytes 1 x.2.1 ++ leBytes 1 (unsignedOf 8 x.2.2) ++ zeros 1
      | none => leBytes 1 0xFF ++ zeros 3)
    let v := u.modEe e (fun r => { r with tii := set })
    done s (if same then v else v.eeSlate 0x0407 e 0 v.now body)
  else done s u

/-! ## Re-locks (R148 to R150) -/

/-- The arrival that the main path is locked to: the strongest inside the guard interval. -/
def mainArrival (guard : Nat) (f : List EeArrival) : EeArrival :=
  (f.filter (fun a => decide (a.delay.natAbs ≤ guard))).foldl (fun m a => if m.power < a.power then a else m) ⟨0, 0⟩

/-- The evidence for an arrival: in each frame, the newest first, SL_MARGIN above the main one, and its delay within ±Tg/8 of that in the frame before. -/
def relockOk (margin guard : Nat) : List (List EeArrival) → EeArrival → Bool
  | [], _ => true
  | f :: fs, a =>
    belowTen 10 (mainArrival guard f).power a.power (-(margin : Int)) &&
    (match fs with
     | [] => true
     | g :: _ => g.any (fun b => decide ((a.delay - b.delay).natAbs * 8 ≤ guard) && relockOk margin guard fs b))

/-- The arrival that an engine re-locks to: the strongest of those outside the guard interval with evidence in SL_FRAMES frames (R149). -/
def relockTo (margin frames guard : Nat) (fs : List (List EeArrival)) : Option EeArrival :=
  if fs.length < frames then none
  else
    (((fs.headD []).filter (fun a => decide (guard < a.delay.natAbs) && relockOk margin guard (fs.take frames) a)).foldl
      (fun (m : Option EeArrival) a => match m with | some v => if v.power < a.power then some a else m | none => some a) none)

/-- The tracking after a re-lock: the next frame of the new arrival; what the old timing's frame has not completed is erased (R149). -/
def EePath.relock (q : EePath) (mode : Nat) (delay : Int) : EePath :=
  match q.track with
  | none => q
  | some k =>
    let d := (k.first : Int) + delay
    let first := (if (q.pos : Int) ≤ d + symbolOf mode then d else d + frameLen mode).toNat
    let q := (List.range (logicalStep mode)).foldl (fun q i =>
      if q.stored ≤ k.no + i then q.push ⟨k.no + i, k.at_, [], [], true⟩ else q) q
    { q with
      arrivals := [], lossRun := 0, absentRun := 0,
      track := some { k with first := first, no := k.no + logicalStep mode, sym := 0, soft := [], lost := false } }

/-- EE_RELOCK (R149): the new arrival's frame begins. Above one frame of evidence, the slate's margin is that of the last (log 90). -/
def execEeRelock (t e c : Nat) (s : State) : Out :=
  let u := (s.advance t).eeFeed false e c
  let b := u.eeBlk e
  let ch := u.chan e c
  let guard := guardOf ch.mode
  match relockTo (fget b eeSlMargin) (fget b eeSlFrames) guard ch.path.arrivals with
  | some a =>
    if u.chanOn e c && ch.sync.up && fget b eeSlMargin != 0 then
      let old := mainArrival guard (ch.path.arrivals.headD [])
      let margin := (max 0 (min 255 (figureDb 20 a.power old.power 255))).toNat
      let v := u.modChan e c (fun ch => { ch with
        relocked := ch.base.isSome, relockAt := some u.now, interruptedQ := true, path := ch.path.relock ch.mode a.delay })
      let v := v.modEe e (fun x => { x with relocks := satU 16 (x.relocks + 1) })
      done s (v.eeSlate 0x0403 e c v.now (leBytes 4 (unsignedOf 32 old.delay) ++ leBytes 4 (unsignedOf 32 a.delay) ++ leBytes 1 margin))
    else done s u
  | none => done s u

/-- The numbers of the logical frames from `from_` on move by `d`: those that are already stored are then discarded, and those skipped are erased. -/
def EePath.renumber (q : EePath) (from_ : Nat) (d : Int) : EePath :=
  let move (n : Nat) : Nat := if from_ ≤ n then ((n : Int) + d).toNat else n
  { q with blocks := q.blocks.map (fun b => { b with frame := move b.frame }), track := q.track.map (fun k => { k with no := move k.no }) }

/-- What the first count after a re-lock does (R150): the frame numbered `no` was expected to have another count by `d` modulo `m`. A DRM position ahead is also behind:
it counts as ahead (log 91). `other`: a different ensemble. -/
def State.relockCount (s : State) (e c no pred count m new : Nat) (other : Bool) : State :=
  let d := (count + m - pred % m) % m
  let old := ((s.chan e c).eid).getD 0
  let s := s.modChan e c (fun ch => { ch with relocked := false })
  if !other && d == 0 then s
  else if !other && decide (d ≤ 4) then s.modChan e c (fun ch => { ch with path := ch.path.renumber no d })
  else if !other && decide (m - d ≤ 4) then s.modChan e c (fun ch => { ch with path := ch.path.renumber no (-((m - d : Nat) : Int)) })
  else ((s.clearDeint e c).modChan e c (fun ch => { ch with base := some ((count + m - no % m) % m) })).eeSlate 0x0404 e c s.now (leBytes 2 old ++ leBytes 2 new)

/-! ## What the composer takes of an engine (R259, R261) -/

/-- Some DCAR names an engine. -/
def State.airWanted (s : State) (src : Id) : Bool :=
  (List.range 4).any (fun c =>
    let l := s.life ⟨.dcar, c⟩
    decide (l.cmd ≠ .closed) && s.canon (BitVec.ofNat 32 (fget l.blk dcSource)) == s.canon src)

/-- What is held of an engine. -/
def State.airSrc (s : State) (src : Id) : AirSrc := (s.tx.sources.find? (fun x => x.src == s.canon src)).getD ⟨s.canon src, [], [], []⟩

/-- Data of an engine are held while a DCAR names it. -/
def State.modSrc (s : State) (src : Id) (f : AirSrc → AirSrc) : State :=
  let rest := s.tx.sources.filter (fun x => x.src != s.canon src)
  { s with tx := { s.tx with sources := if s.airWanted src then f (s.airSrc src) :: rest else rest } }

/-- A CIF; those that came longer ago than the longest D are dropped. -/
def AirSrc.addCif (a : AirSrc) (c : AirCif) : AirSrc := { a with cifs := c :: a.cifs.filter (fun x => decide (c.arrived < x.arrived + histSpan)) }

/-- A FIG of the kinds that a FILL frame carries: 0/0, or 0/1 or 0/2 of the present configuration (R261; bit places PRESUMED, log 95). -/
def AirSrc.addFig (a : AirSrc) (g : List Byte) : AirSrc :=
  match g with
  | h :: b :: _ =>
    if h.toNat / 32 ≠ 0 ∨ 2 < b.toNat % 32 ∨ b.toNat.testBit 7 then a
    else if b.toNat % 32 = 0 then { a with figs := g :: a.figs.filter (fun x => (byteAt x 1).toNat % 32 != 0) }
    else if a.figs.contains g then a else { a with figs := (a.figs ++ [g]).take 64 }
  | _ => a

/-- A FIB, and what its FIGs say of the configuration. -/
def AirSrc.addFib (a : AirSrc) (f : AirFib) : AirSrc :=
  let a := { a with fibs := f :: a.fibs.filter (fun x => decide (f.arrived < x.arrived + histSpan)) }
  if f.ok then (Sys2Proof.Machine.figs 30 f.data).1.foldl AirSrc.addFig a else a

/-- The five CIFs of a superframe take its corrected codewords (R259). -/
def AirSrc.fixSuper (a : AirSrc) (sub : Nat) (bs : List Byte) : AirSrc :=
  let n := bs.length / 5
  { a with cifs := (indexed 0 a.cifs).map (fun x =>
      if 5 ≤ x.1 then x.2
      else { x.2 with subs := x.2.subs.map (fun y => if y.1 = sub then (y.1, y.2.1, (bs.drop ((4 - x.1) * n)).take n) else y) }) }

/-- A reconfiguration ends what the FIGs said of the old configuration. -/
def AirSrc.renew (a : AirSrc) : AirSrc := { a with figs := a.figs.filter (fun x => (byteAt x 1).toNat % 32 == 0) }

/-! ## FIB, FAC and SDC records (R150, R152, R154, R163, R164) -/

/-- STATUS of a FIB, FAC or SDC record (R163). -/
def recStatus (crcOk cut resync erased : Bool) : Nat := bit crcOk + 2 * bit cut + 4 * bit resync + 8 * bit erased

/-- The first block that waits, of a kind: any FIB, the FACs (0), the SDC blocks (1). -/
def EePath.block (q : EePath) (kind : Option Nat) : Option EeBlock :=
  q.blocks.find? (fun b => match kind with | some k => b.no == k | none => true)

/-- The block is delivered. -/
def EePath.unblock (q : EePath) (b : EeBlock) : EePath := { q with blocks := q.blocks.erase b }

/-- FIB_RECORD (R146, R150, R163, R178): the first FIB decoded and not delivered; FIG 0/0 gives the CIF count of its frame's CIF 0. `facts` is what the standard
reads in its FIGs (log 20). -/
def execFibRecord (t e : Nat) (facts : List (Nat × Fact)) (s : State) : Out :=
  let u := (s.advance t).eeFeed false e 0
  let ch := u.chan e 0
  match ch.path.block none with
  | some f =>
    if u.chanOn e 0 && u.eeStdOf e == 0 && ch.sync.up then
      let fig00 := if f.ok then (figFacts (figs 30 (f.data.take 30)).1 facts).findSome? (fun x => match x.2 with
        | .ensemble eid cif _ _ => some (eid, cif % 5000)
        | _ => none) else none
      let u := u.modChan e 0 (fun ch => { ch with path := ch.path.unblock f })
      let u := match fig00, ch.base with
        | some x, some b =>
          if ch.relocked then u.relockCount e 0 f.frame (b + f.frame) x.2 5000 x.1 (match ch.eid with | some o => o != x.1 | none => false) else u
        | _, _ => u
      let base := match fig00, ch.base with
        | some x, none => some ((x.2 + 5000 - f.frame % 5000) % 5000)
        | some x, some b => if ch.relocked then (u.chan e 0).base else if (b + f.frame) % 5000 = x.2 then some b else some ((x.2 + 5000 - f.frame % 5000) % 5000)
        | none, b => b
      let cif := match fig00 with | some x => some x.2 | none => base.map (fun b => (b + f.frame) % 5000)
      let u := u.modChan e 0 (fun ch => { ch with
        base := base, resync := false, badHist := ((!f.ok) :: ch.badHist).take 120,
        sync := if ch.sync = .sync ∧ fig00.isSome = true then .fic else ch.sync })
      let time := t64Of256 (u.frameTime e 0 f.at_)
      let body := fitBytes 32 f.data ++ leBytes 1 f.no ++ leBytes 1 (recStatus f.ok (ch.cut f.at_) ch.resync f.erased) ++
        leBytes 2 (match cif with | some n => (n + f.no / 3) % 5000 | none => 0xFFFF) ++ zeros 4 ++ leBytes 8 time.toNat
      let u := u.putSide 2 3 (u.idOf .ee e) 0 body
      let u := u.modSrc (u.idOf .ee e) (fun a => a.addFib ⟨u.frameTime e 0 f.at_, f.no, f.ok, f.data.take 30, u.now⟩)
      done s (if f.ok then u.parseFib (u.eeOrigin e 0) time f.data facts else u)
    else done s u
  | none => done s u

/-- The occupied carriers of a mode and occupancy reach beyond ±fp of the Pass that a channel is bound to (R154). -/
def State.bandOut (s : State) (e c mode occ : Nat) : Bool :=
  let b := s.passBlk (fget (s.eeBlk e) (eePass c))
  let fp : Int := (romResp (passResp b)).2.1 * (rfHz / passP b) / 10000
  let edges := Config.occupied mode occ
  decide (edges.1 < -fp ∨ fp < edges.2)

/-- The changes that a FAC makes (R154). The slate DRM_MODE shows the occupancy as R164 codes it. -/
def State.facApply (s : State) (e c : Nat) (f : FacIn) : State :=
  let ch := s.chan e c
  let first := ch.layout.isNone
  let changed := match ch.layout with | some l => f.changes && (l != f.layout || ch.occ != f.occ) | none => false
  let take := first || changed
  let occ := if ch.mode = 5 then 0xFF else f.occ
  let s := s.modChan e c (fun ch => { ch with
    occ := if take then f.occ else ch.occ, outOfPass := s.bandOut e c ch.mode (if take then f.occ else ch.occ), unsupported := f.hier, hierSaid := ch.hierSaid || f.hier,
    layout := if take then some f.layout else ch.layout, constellation := if take then f.constellation else ch.constellation,
    short := if take then f.short else ch.short })
  let s := if f.hier && !ch.hierSaid then s.eeSlate 0x0406 e c s.now [] else s
  if changed then (s.clearDeint e c).eeSlate 0x0405 e c s.now (leBytes 1 ch.mode ++ leBytes 1 occ) else s

/-- FAC_RECORD (R152, R154, R164): the first FAC decoded and not delivered. The first that passes its CRC after a passed frame-start test gives SYNC. -/
def execFacRecord (t e c : Nat) (f : FacIn) (s : State) : Out :=
  let u := (s.advance t).eeFeed false e c
  let ch := u.chan e c
  match ch.path.block (some 0), ch.path.track with
  | some k, some track =>
    let enters := ch.sync == .candidate && k.ok
    if u.chanOn e c && u.eeStdOf e != 0 && (ch.sync.up || ch.sync == .candidate) then
      let u := u.modChan e c (fun ch => { ch with path := ch.path.unblock k })
      if ch.sync == .candidate && !k.ok then done s u
      else
        let u := if enters then u.enterSync e c track.freq else u
        let ch := u.chan e c
        let m := superLen ch.mode
        let u := match ch.base with
          | some b => if ch.relocked && k.ok then u.relockCount e c k.frame (b + k.frame) f.frame m 0 false else u
          | none => u
        let fresh := some ((f.frame + m - k.frame % m) % m)
        let u := u.modChan e c (fun x => { x with
          base := if k.ok then (match x.base with | some b => if ch.relocked || decide ((b + k.frame) % m = f.frame % m) then some b else fresh | none => fresh) else x.base,
          resync := false, badHist := ((!k.ok) :: x.badHist).take 32 })
        let pos := if k.ok then f.frame else (match (u.chan e c).base with | some b => (b + k.frame) % m | none => 0)
        let u := if k.ok then u.facApply e c f else u
        let time := t64Of256 (u.frameTime e c k.at_)
        let body := fitBytes 16 k.data ++ leBytes 1 c ++ leBytes 1 (recStatus k.ok (ch.cut k.at_) ch.resync k.erased) ++ leBytes 1 pos ++
          leBytes 1 (if ch.mode = 5 then 116 else 72) ++ leBytes 1 ch.mode ++ leBytes 1 (if ch.mode = 5 then 0xFF else (u.chan e c).occ) ++ zeros 2 ++
          leBytes 8 time.toNat
        let u := u.putSide 3 4 (u.idOf .ee e) c body
        done s (if k.ok then (u.confirmOrigin (u.eeOrigin e c)).applyFacts (u.eeOrigin e c) time f.facts else u)
    else done s u
  | _, _ => done s u

/-- SDC_RECORD (R150, R152, R164, R179): the first SDC block decoded and not delivered. The first that passes its CRC starts MSC decoding. -/
def execSdcRecord (t e c : Nat) (d : SdcIn) (s : State) : Out :=
  let u := (s.advance t).eeFeed false e c
  let ch := u.chan e c
  match ch.path.block (some 1) with
  | some k =>
    if u.chanOn e c && u.eeStdOf e != 0 && ch.sync.up then
      let other := match ch.eid, ch.relockAt with
        | some o, some r => k.ok && decide (r ≤ k.at_) && o != d.identity
        | _, _ => false
      let u := u.modChan e c (fun ch => { ch with path := ch.path.unblock k })
      let m := superLen ch.mode
      let u := if other then u.relockCount e c k.frame 0 ((ch.base.getD 0 + k.frame) % m) m d.identity true else u
      let u := u.modChan e c (fun x => { x with
        sdcHist := ((!k.ok) :: x.sdcHist).take 8, eid := if k.ok then some d.identity else x.eid, resyncSdc := false,
        mscFrom := if k.ok && x.mscFrom.isNone then some k.frame else x.mscFrom,
        path := if k.ok && x.mscFrom.isNone then { x.path with deliver := k.frame } else x.path,
        relockAt := if other then none else x.relockAt })
      let time := t64Of256 (u.frameTime e c k.at_)
      let body := leBytes 1 c ++ leBytes 1 (recStatus k.ok (ch.cut k.at_) ch.resyncSdc k.erased) ++ leBytes 2 k.nbits ++ zeros 4 ++
        leBytes 8 time.toNat ++ k.data
      let u := u.putSide 4 5 (u.idOf .ee e) c body
      done s (if k.ok then u.parseSdc (u.eeOrigin e c) time k.nbits k.data d else u)
    else done s u
  | none => done s u

/-- RECONFIGURATION (R160, R178): the next configuration applies once the logical frame before the announced count has been delivered. A
sub-channel whose place, size and protection stay the same goes on. -/
def execReconfiguration (t e : Nat) (s : State) : Out :=
  let u := (s.advance t).eeFeed false e 0
  let r := u.eeR e
  let ch := u.chan e 0
  let due := match r.reconfigAt with | some n => ch.sync != .locked || decide ((ch.count + 5000 - n % 5000 + 1) % 5000 < 2500) | none => false
  if u.chanOn e 0 && u.eeStdOf e == 0 && due then
    let o := u.eeOrigin e 0
    let next := u.svc.nextComp.filter (fun c => c.origin == o)
    let any := r.subs.any (fun x => x.next.isSome)
    let step (x : Nat × EeSub) : EeSub :=
      match x.2.next with
      | some g =>
        let plus := match next.find? (fun c => c.subch == x.1) with
          | some c => c.type == 1
          | none => (x.2.org.map SubOrg.dabPlus).getD false
        let g := { g with dabPlus := plus }
        if x.2.org = some g then { x.2 with next := none }
        else { EeSub.reset with org := some g, discontQ := x.2.discontQ, uncorrQ := x.2.uncorrQ }
      | none => if any then { EeSub.reset with discontQ := x.2.discontQ, uncorrQ := x.2.uncorrQ } else x.2
    let v := (u.modEe e (fun r => { r with subs := (indexed 0 r.subs).map step, reconfigAt := none })).modSrc (u.idOf .ee e) AirSrc.renew
    done s (v.applyReconfig o (v.t64At v.now))
  else done s u

/-! ## Decoded audio (R203, R207, R208) -/

/-- Consecutive units in error after which a codec mutes, and good ones after which it fades in (R207). -/
def muteAfter (codec : Nat) : Nat := if codec = 2 then 2 else 5
def goodNeeded (codec : Nat) : Nat := if codec = 2 then 2 else 1

/-- A unit faded linearly over its length, in or out. -/
def fadeUnit (fadeIn : Bool) (xs : List (Int × Int)) : List (Int × Int) :=
  let n : Int := xs.length
  (indexed 0 xs).map (fun x =>
    let k : Int := if fadeIn then x.1 else n - x.1
    (rheDiv (x.2.1 * k) xs.length, rheDiv (x.2.2 * k) xs.length))

/-- How a unit is treated (R207). -/
inductive UnitUse where
  | plain | concealed | muted | fadeIn
  deriving DecidableEq, Repr

/-- The treatment of the next unit of a programme. -/
def unitUse (codec : Nat) (r : ProgRun) (err : Bool) : UnitUse :=
  if err then (if r.errRun < muteAfter codec then .concealed else .muted)
  else if muteAfter codec < r.errRun then (if goodNeeded codec ≤ r.goodRun then .fadeIn else .muted)
  else .plain

/-- The samples of a unit after its treatment. The repetition of HE-AAC, AAC and xHE-AAC is the decoder's own (R207), so its
samples are those that the decoder gives. -/
def unitSamples (codec : Nat) (last xs : List (Int × Int)) : UnitUse → List (Int × Int)
  | .plain => xs
  | .concealed => if codec = 2 then fadeUnit false last else xs
  | .muted => xs.map (fun _ => (0, 0))
  | .fadeIn => fadeUnit true xs

/-- The codec that a programme's source signals, coded as CODEC: by the component type of FIG 0/2 or of SDC entity type 9 (R203); none while it is
not known. -/
def State.signalled (s : State) (q : Nat) : Option Nat :=
  match s.progSource (s.life ⟨.prog, q⟩).cur with
  | some (⟨.ee, e⟩, sub) =>
    let dab := decide (s.eeStdOf e = 0)
    match s.svc.comp.find? (fun c => idRef c.origin.object == some ⟨.ee, e⟩ && (if dab then c.subch else c.origin.chan * 4 + c.subch) == sub) with
    | some c => (match c.type with | 0 => some 2 | 1 => some 3 | 3 => some 4 | 4 => some 5 | _ => some 7)
    | none => none
  | _ => none

/-- One unit of a programme, its first sample at a CK_RF count: the state after it and the count after its last sample. -/
def State.takeUnit (erased uncorr : Bool) (x : State × Nat) (a : ProgAudio) : State × Nat :=
  let s := x.1
  let q := a.prog
  let r := s.progR q
  let declared := fget (s.life ⟨.prog, q⟩).cur pgCodec
  let stop := x.2 + a.samples.length * rfHz / max a.rate 1
  let codec := (s.signalled q).getD (if declared = 0 then 7 else declared)
  let wrong := r.mismatch || (declared != 0 && codec != declared) || (codec == 5 && decide (2 < a.channels))
  if codec = 7 ∧ wrong = false then
    (s.progSpan q false a.rate x.2 (List.replicate a.samples.length none) false, stop)
  else if wrong then
    let s := if r.mismatch then s else
      ((s.modProg q (fun r => { r with mismatch := true })).codecCond).slateDet 0x0600 (s.idOf .prog q) []
    (s.progSpan q false a.rate x.2 (List.replicate a.samples.length none) false, stop)
  else
    let err := a.err || (erased && codec != 3) || (uncorr && codec == 3)
    let use_ := unitUse codec r err
    let ys := unitSamples codec r.lastUnit a.samples use_
    let s := s.modProg q (fun r => { r with
      codec := codec, channels := min 2 a.channels, bitrate := a.bitrate, lastUnit := ys,
      errRun := if err then r.errRun + 1 else if use_ = .muted then r.errRun else 0,
      goodRun := if err then 0 else if use_ = .muted then r.goodRun + 1 else 0,
      conceal := if use_ = .concealed then satU 16 (r.conceal + 1) else r.conceal,
      muted := if use_ = .muted then satU 16 (r.muted + 1) else r.muted })
    (s.progSpan q false a.rate x.2 (ys.map some) (use_ == .concealed || use_ == .muted), stop)

/-- The audio of a logical frame reaches a programme: ABSENT for the frame's span when it carries nothing decoded (R205, R208). -/
def State.frameAudio (s : State) (q at_ span : Nat) (absent discont erased uncorr : Bool) (audio : List ProgAudio) : State :=
  let s := match (if absent then none else audio.find? (fun a => a.prog == q)) with
    | some a => s.modProg q (fun r => { r with firstRate := if r.firstRate = 0 then a.rate else r.firstRate })
    | none => s
  let start := at_ + cyclesOfNs (s.progLatencyNs q)
  if absent then
    let rate := if (s.progR q).rate = 0 then 48000 else (s.progR q).rate
    s.progSpan q false rate start (List.replicate (span * rate / rfHz) none) false
  else
    let s := if discont then s.modProg q (fun r => { r with restarting := true, errRun := 0, goodRun := 0, lastUnit := [] }) else s
    ((audio.filter (fun a => a.prog == q)).foldl (State.takeUnit erased uncorr) (s, start)).1

/-! ## Logical frames (R150, R160 to R162, R165) -/

/-- Some block that the Pass of a channel delivered between two instants carried a quality bit (R162). -/
def State.passCarried (s : State) (e c bit_ a b : Nat) : Bool :=
  (s.passR (fget (s.eeBlk e) (eePass c))).past.any (fun x => decide (a / perFrame ≤ x.1 ∧ x.1 ≤ b / perFrame) && x.2.2.any (fun q => q.qual &&& bit_ != 0))

/-- A DAB+ sub-channel's superframe test at a CIF count that 5 divides (R161). -/
def EeSub.superframeTest (u : EeSub) (count : Nat) (fire : Bool) : EeSub :=
  if (u.org.map SubOrg.dabPlus).getD false && count % 5 == 0 then
    if fire then { u with sfSync := true, sfFails := 0 }
    else if 3 ≤ u.sfFails + 1 then { u with sfSync := false, sfFails := 0 } else { u with sfFails := u.sfFails + 1 }
  else u

/-- The flags of a logical frame, in the row order of R162. -/
def frameFlags (discont cut erased uncorr holdover drift absent last : Bool) : Nat :=
  bit discont + 2 * bit cut + 4 * bit erased + 8 * bit uncorr + 16 * bit holdover + 32 * bit drift + 64 * bit absent + 128 * bit last

/-- A new output in place of the last one of the same channel and sub-channel. -/
def putOut (o : LogicalOut) (l : List LogicalOut) : List LogicalOut := o :: l.filter (fun x => !(x.chan == o.chan && x.sub == o.sub))

/-- The decoded content of a sub-channel or stream in a logical frame: its bytes, and the wrong and compared bits of CBER. -/
structure SubOut where
  id : Nat
  bytes : List Byte
  wrong : Nat
  compared : Nat
  deriving DecidableEq, Repr

/-- A sub-channel of DAB in the logical frame numbered `n`: time deinterleaving over 16 CIFs, depuncturing, trellis, dispersal (R158, R160). -/
def EePath.subchannel (q : EePath) (n id : Nat) (g : SubOrg) : SubOut :=
  let cifs := (List.range 16).map (fun j => ((q.stored_ (n + j)).map (fun v => (v.soft.drop (64 * g.start)).take (64 * g.size))).getD [])
  let soft := (List.range (64 * g.size)).map (fun i => (cifs.getD (Config.timeDelay (i % 16) % 16) []).getD i 0)
  let r := decodeBlock true (Config.subchMask g.prot g.size) soft
  ⟨id, bitsToBytes r.1, r.2.1, r.2.2⟩

/-- The streams of a DRM multiplex frame: cell deinterleaving over the depth, multilevel decoding, division into streams (R158). -/
def EePath.streams (q : EePath) (n mode depth layout con : Nat) : List SubOut :=
  let cells := (List.range depth).map (fun j => ((q.stored_ (n + j)).map EeStore.cells).getD [])
  let count := (cells.map List.length).foldl max 0
  let xs := (List.range count).map (fun i =>
    let o := Config.cellOrder mode depth i
    (cells.getD (o.1 % max 1 depth) []).getD o.2 (0, 0, 0))
  let r := decodeLevels 2 layout con xs
  (List.range 4).filterMap (fun j =>
    let bs := Config.streamBytes layout j r.1
    if bs.isEmpty then none else some ⟨j, bs, r.2.1, r.2.2⟩)

/-- What one logical frame does to one sub-channel or stream and to the programme that takes it (R160 to R162, R166). -/
def State.frameSub (e c count at_ span : Nat) (time : Word64) (noMsc cut erased holdover drift ends : Bool) (audio : List ProgAudio)
    (s : State) (x : SubOut) : State :=
  let i := if s.eeStdOf e = 0 then x.id else c * 4 + x.id
  let u0 := s.sub e i
  let plus := (u0.org.map SubOrg.dabPlus).getD false
  let u := u0.superframeTest count (fireGood x.bytes)
  let absent := noMsc || (plus && !u.sfSync)
  let discont := u.first
  let frames := if !plus || !u.sfSync then [] else if count % 5 = 0 then [x.bytes] else if u.frames.isEmpty then [] else u.frames ++ [x.bytes]
  let whole := decide (5 ≤ frames.length)
  let sf := if whole then superframeOf frames.flatten else ([], [], 0)
  let uncorr := !sf.2.1.isEmpty
  let last := ends && u.next.isNone
  let u := { u with
    decoded := !absent, first := false, discontQ := u.discontQ || discont, uncorrQ := u.uncorrQ || uncorr,
    bers := ((x.wrong, x.compared) :: u.bers).take 40, rs := if whole then ((sf.2.2, sf.2.1.length) :: u.rs).take 10 else u.rs,
    frames := if whole then [] else frames, superframe := if whole then sf.1 else u.superframe, badWords := if whole then sf.2.1 else u.badWords,
    rsFailTick := if uncorr then some s.tick else u.rsFailTick }
  let s := s.modSub e i (fun _ => u)
  let s := if whole then s.modSrc (s.idOf .ee e) (fun a => a.fixSuper i (superframeFixed frames.flatten)) else s
  let s := s.modEe e (fun r => { r with
    outs := putOut ⟨c, i, count, time, frameFlags discont cut erased uncorr holdover drift absent last⟩ r.outs })
  match (List.range 64).find? (fun q => s.running .prog q && s.progSource (s.life ⟨.prog, q⟩).cur == some (⟨.ee, e⟩, i)) with
  | some q => s.frameAudio q at_ span absent discont erased uncorr audio
  | none => s

/-! ## The schedule of the DCARs (R260, R261) -/

/-- 120 s in 1/256 ns. -/
def gridCycle : Nat := 120 * 10 ^ 9 * 256

/-- The encoder delay of a sub-channel's codec in ns (R260). -/
def State.encDelayNs (s : State) (e sub : Nat) : Nat :=
  if (((s.sub e sub).org).map SubOrg.dabPlus).getD false then 120000000 else 24000000

/-- The sub-channels and programmes that a DCAR's fields substitute (R263). -/
def substStatic (b : Blk) : List (Nat × Nat) :=
  (([0, 1, 2, 3] : List Nat).filter (fun n => fbit b (dcSubUse n))).map (fun n => (fget b (dcSubCh n), fget b (dcSubPg n)))

/-- The programmes of this device whose source is a sub-channel of an engine, with the sub-channel. -/
def State.progsOf (s : State) (src : Id) : List (Nat × Nat) :=
  (List.range 64).filterMap (fun p =>
    let b := (s.life ⟨.prog, p⟩).cur
    if s.running .prog p && s.canon (BitVec.ofNat 32 (fget b pgSource)) == s.canon src then some (s.progSub b, p) else none)

/-- DELAY_MIN of a DCAR in ns (R260). -/
def State.dcarLeastNs (s : State) (src : Id) (b : Blk) : Nat :=
  let e := idIdx src
  let subs := substStatic b ++ (s.progsOf src).filter (fun x => (s.progR x.2).insert.isSome)
  let eng := if s.idLocal src then s.eeLatencyNs e 0 else Config.remoteLatency src.toNat
  subs.foldl (fun a x => max a (s.progLatencyNs x.2 + s.encDelayNs e x.1)) eng + 456000000

/-- D of a DCAR in ns, and whether DELAY was raised (R260). -/
def State.dcarDelayNs (s : State) (src : Id) (b : Blk) : Nat × Bool :=
  let least := s.dcarLeastNs src b
  let want := fget b dcDelay * 1000000
  if want = 0 then (ceilDiv least 1000000 * 1000000, false) else (max want least, decide (want < least))

/-- The radiation instant of the frame with CIF 0 count `count` and FRAME_TIME `f`, both in 1/256 ns (R260). -/
def dcarFirst (grid : Bool) (f d count : Nat) : Nat :=
  if grid then
    let off := count / 4 * dcarStep
    off + ceilDiv (f + d - off) gridCycle * gridCycle
  else f + d

/-- A DCAR is scheduled by a source frame: c0, T0 and the effective delay (R260). -/
def State.dcarSchedule (s : State) (c count f : Nat) (src : Id) : State :=
  let b := (s.life ⟨.dcar, c⟩).cur
  let d := s.dcarDelayNs src b
  let t0 := dcarFirst (fbit b dcAlign) f (d.1 * 256) count
  s.modDcar c (fun r => { r with
    c0 := some count, t0 := t0,
    air := { r.air with delay := some (cyclesOfNs ((t0 - f) / 256)), short := d.2 } })

/-- The CIF count that a DCAR has at an instant of its schedule, in 1/256 ns. -/
def DcarRun.countAt (r : DcarRun) (v : Nat) : Nat := ((r.c0.getD 0) + (v + dcarStep / 2 - r.t0) / dcarStep * 4) % 5000

/-- A source frame of engine `src` reaches the DCARs that name it (R260, R261): the first schedules the carrier; after an absence one
whose count differs from the carrier's own schedules it anew. -/
def State.dcarSource (s : State) (src : Id) (count f : Nat) : State :=
  (List.range 4).foldl (fun s c =>
    let b := (s.life ⟨.dcar, c⟩).cur
    let r := s.dcarR c
    if s.running .dcar c && s.canon (BitVec.ofNat 32 (fget b dcSource)) == s.canon src && decide (count % 4 = 0) then
      if r.c0 = none then
        let s := s.dcarSchedule c count f src
        if r.air.st = .starting ∧ r.air.startAt = none then s.setStart true c s.now false else s
      else if r.absentSrc then
        let own := r.countAt (f + (s.dcarDelayNs src b).1 * 256)
        let s := if own = count then s else
          (s.dcarSchedule c count f src).slateDet 0x0803 (s.idOf .dcar c) (leBytes 2 own ++ leBytes 2 count)
        let s := s.modDcar c (fun r => { r with absentSrc := false })
        if r.air.st = .offAir ∧ r.air.cause = .absent ∧ s.driftOff = false ∧ (s.loMode = false ∨ s.loReady = true) then
          s.setStart true c s.now false
        else s
      else s
    else s) s

/-- The logical frame that a channel would deliver next, and whether it can: DAB once its 15 successors are stored and a count is known, DRM once its depth is stored
after MSC decoding started (R152, R160). -/
def EeChan.due (ch : EeChan) : Bool :=
  match ch.base, (if ch.mode = 0 then (if ch.sync = .fic ∨ ch.sync = .locked then some 0 else none) else if ch.sync = .sync ∨ ch.sync = .locked then ch.mscFrom else none) with
  | some _, some _ => decide (ch.path.deliver + depthOf ch.mode ch.short ≤ ch.path.stored)
  | _, _ => false

/-- The oldest logical frame still stored, when the one due next is not. -/
def EePath.oldest (q : EePath) : Nat := max q.deliver (q.stored - q.store.length)

/-- A logical frame of a channel that cannot deliver: every output it had goes on as ABSENT, with exact timing (R146, R162). -/
def State.absentFrame (s : State) (e c : Nat) : State :=
  let ch := s.chan e c
  let mode := if s.eeStdOf e = 0 then 0 else if s.eeStdOf e = 2 then 5 else 1
  match ch.lastAt with
  | none => s
  | some at0 =>
    let at_ := at0 + logicalCycles mode
    let count := (ch.count + 1) % countModulus mode
    let time := t64Of256 (s.frameTime e c at_)
    let ho := s.passCarried e c qHoldover.toNat at_ s.now
    let dr := s.passCarried e c qDrift.toNat at_ s.now
    let s := s.modChan e c (fun ch => { ch with count := count, lastAt := some at_, holdDriftQ := ch.holdDriftQ || ho || dr })
    let mine := ((s.eeR e).outs.filter (fun o => o.chan == c)).map LogicalOut.sub
    let s := s.modEe e (fun r => { r with outs := r.outs.map (fun o =>
      if o.chan = c then { o with count := count, time := time, flags := frameFlags false false false false ho dr true false } else o) })
    (List.range 64).foldl (fun s q =>
      match s.progSource (s.life ⟨.prog, q⟩).cur with
      | some (r, i) => if s.running .prog q && r == ⟨.ee, e⟩ && mine.contains i then s.frameAudio q at_ (logicalCycles mode) true false false false [] else s
      | none => s) s

/-- A logical frame is delivered (R150, R160 to R162). -/
def State.logicalFrame (s : State) (e c : Nat) (audio : List ProgAudio) : State :=
  let ch := s.chan e c
  let q := ch.path
  let dab := s.eeStdOf e = 0
  let n := q.oldest
  let m := countModulus ch.mode
  let depth := depthOf ch.mode ch.short
  let count := (ch.base.getD 0 + n) % m
  let entries := (List.range depth).map (fun j => q.stored_ (n + j))
  let frameAt := ((entries.headD none).map EeStore.at_).getD s.now
  let at_ := frameAt + (if dab then count % 4 * logicalCycles 0 else 0)
  let time := t64Of256 (s.frameTime e c frameAt)
  let ho := s.passCarried e c qHoldover.toNat frameAt s.now
  let dr := s.passCarried e c qDrift.toNat frameAt s.now
  let cut := ch.cut frameAt
  let er := entries.any (fun v => v.elim true EeStore.erased) || decide (0 < ch.erased)
  let noMsc := !dab && (ch.outOfPass || ch.unsupported)
  let ends := match (s.eeR e).reconfigAt with
    | some k => dab && (count + 1) % 5000 == k % 5000 && (s.eeR e).subs.any (fun x => x.next.isSome)
    | none => false
  let subs := if dab then (List.range 64).filterMap (fun i => (s.sub e i).org.map (q.subchannel n i))
    else q.streams n ch.mode depth (ch.layout.getD 0) ch.constellation
  let locks := ch.sync != .locked && (!dab || !subs.isEmpty)
  let s := s.modChan e c (fun ch => { ch with
    sync := if locks then .locked else ch.sync, count := count, lastAt := some at_, erased := ch.erased - 1,
    interruptedQ := ch.interruptedQ || cut, holdDriftQ := ch.holdDriftQ || ho || dr, path := { ch.path with deliver := n + 1 } })
  let s := s.modEe e (fun r => { r with outs := putOut ⟨c, 64, count, time, frameFlags false cut er false ho dr noMsc false⟩ r.outs })
  let s := if locks then s.eeSlate 0x0401 e c s.now (leBytes 2 count) else s
  let carried := subs.filterMap (fun x => (s.sub e x.id).org.map (fun g => (x.id, g, x.bytes)))
  let s := if dab then (s.modSrc (s.idOf .ee e) (fun a => a.addCif ⟨count, s.frameTime e c frameAt, at_, s.now, carried⟩)).dcarSource
      (s.idOf .ee e) count (s.frameTime e c frameAt) else s
  subs.foldl (State.frameSub e c count at_ (logicalCycles ch.mode) time noMsc cut er ho dr ends audio) s

/-- LOGICAL_FRAME (R146, R150, R152, R160 to R162, R165). `audio` is what the programmes' decoders make of the frame (log 35). -/
def execLogicalFrame (t e c : Nat) (audio : List ProgAudio) (s : State) : Out :=
  let u := (s.advance t).eeFeed false e c
  if u.chanOn e c then
    if (u.chan e c).due then done s ((u.logicalFrame e c audio).eeStop e true) else done s (u.absentFrame e c)
  else done s u

end Sys2Proof.Machine
end

