-- ==== Sys2Proof/Machine/Ports.lean ====
section
/-! DEFINITION. The TDM audio ports: frames, routes, underruns, external clock faults, DI words and the port's checks (R223 to R246). -/
namespace Sys2Proof.Machine
open Sys2Proof

/-! ## Settings (R223, R224, R243, R244) -/

/-- FS is active at bit clock `k` of a frame (R224), and the level that FS_POL gives it. -/
def fsActive (b : Blk) (k : Nat) : Bool :=
  match fget b ptFsForm with
  | 0 => k == 0
  | 1 => decide (k < frameBits b / 2)
  | _ => decide (k < slotBits b)
def fsLevel (b : Blk) (k : Nat) : Bool := fsActive b k != fbit b ptFsPol

/-- Bit clock `k` of a master's frame of `n` CK_RF cycles begins so many cycles after the frame (R226). -/
def bitStart (b : Blk) (n k : Nat) : Int := rheDiv (k * n : Nat) (frameBits b)

/-- DO at each bit clock of a frame (R224): the slots from OFFSET on, those that reach past the frame before standing at its start; words MSB first, then zeros. -/
def frameLine (b : Blk) (prev cur : List (Option Int)) : List (Option Bool) :=
  let n := frameBits b
  let o := fget b ptOffset % n
  (List.range n).map (fun j =>
    let q := (j + n - o) % n
    let w := ((if j < o then prev else cur).getD (q / slotBits b) none)
    let k := q % slotBits b
    w.map (fun v => decide (k < wordBits b) && (unsignedOf 24 v).testBit (23 - k)))

/-- The DO slots that route `r` writes; none for a route that is OFF. -/
def routeSlots (b : Blk) (r : Nat) : List Nat :=
  if fget b (rtKind r) = 0 then [] else if fget b (rtCh r) = 0 then [fget b (rtDst r), fget b (rtDst r) + 1] else [fget b (rtDst r)]

/-- Every check of PORT_SET, in the order of the block (R223, R243, R244). -/
def portChecks (b : Blk) : List (Field × Bool) :=
  [(ptSlots, decide (portRate b * frameBits b ≤ 49152000) || badCode b ptSlotW), (ptSlotW, !badCode b ptSlotW),
   (ptWord, !badCode b ptWord && decide (wordBits b ≤ slotBits b)), (ptFsForm, !badCode b ptFsForm)] ++
  (List.range 32).flatMap (fun r =>
    let mine := routeSlots b r
    [(rtSrc r, !(fget b (rtKind r) == 2 && fget b (rtCh r) == 0) || decide (fget b (rtSrc r) % 32 ≤ 30)),
     (rtDst r, mine.all (fun s => decide (s < portSlots b)) &&
        (List.range r).all (fun q => (routeSlots b q).all (fun s => !mine.contains s))),
     (rtKind r, !badCode b (rtKind r))])

/-- The reserved bits of the settings: what is left of a block when it is stored. SRC keeps the bits that its KIND uses. -/
def portMask : Blk := tableMask 1280 portFields

/-- What OBJ_RUN of a port tests (R244). -/
def State.portRunCheck (s : State) (p : Nat) : Status :=
  let b := (s.life ⟨.port, p⟩).blk
  if fbit b ptDiEn && fbit b ptLoopInt && fbit b ptRole && !(s.portR p).bclkSeen then .badParam else .ok

/-! ## Timing (R226 to R228, R289) -/

/-- The fields in effect of a port, and whether it is a slave. -/
def State.portBlk (s : State) (p : Nat) : Blk := (s.life ⟨.port, p⟩).cur
def State.slave (s : State) (p : Nat) : Bool := fbit (s.portBlk p) ptRole

/-- A CK_RF count at which the grid of a master port has a frame start (R226). -/
def onGrid (rate t : Nat) : Bool :=
  if rate = 44100 then
    let off := t % perAlign
    let j := (off * 882 + perAlign / 2) / perAlign
    rheDiv (j * perAlign : Nat) 882 == (off : Int)
  else t % (rfHz / rate) == 0

/-- t_n of the frame at a CK_RF count in 1/256 ns (R228, R289). -/
def State.portTime (s : State) (p t : Nat) : Nat :=
  let pt := 10 + p
  if s.slave p then s.pinTime pt t 0 (fbit (s.portBlk p) ptFsPol)
  else (rheDiv ((s.time40 t 0 : Int) + (s.pointF pt + s.pointDelay pt) * 2 ^ 32) (2 ^ 32)).toNat

/-- A slate of a port. -/
def State.portSlate (s : State) (code p t : Nat) (items : List Byte) : State :=
  s.slateAt code (s.idOf .port p) (s.portTime p t) 0 items

/-! ## Routes (R229 to R234) -/

/-- The rate and the LATENCY of a route's source, as CK_RF cycles times 100000: a programme, or a DI slot's port. -/
def State.routeSource (s : State) (b : Blk) (r : Nat) : Nat × Nat :=
  let v := fget b (rtSrc r)
  if fget b (rtKind r) = 1 then (max 1 (s.progR (v % 64)).rate, s.progLatencyNs (v % 64) * 98304)
  else
    let rate := portRate (s.portBlk (v / 32 % 4))
    (rate, ceilDiv (rfHz * 100000) rate)

/-- D_min in CK_RF cycles, rounded up (R230). -/
def State.routeLeast (s : State) (b : Blk) (r : Nat) : Nat :=
  let x := s.routeSource b r
  let fs := portRate b
  ceilDiv (x.2 * x.1 * fs + (32 * rfHz * fs + 2 * rfHz * x.1) * 100000) (100000 * x.1 * fs)

/-- The source has delivered a block since its RUN (R230). -/
def State.routeFed (s : State) (b : Blk) (r : Nat) : Bool :=
  let v := fget b (rtSrc r)
  if fget b (rtKind r) = 1 then s.running .prog (v % 64) && (s.progR (v % 64)).out.isSome
  else s.running .port (v / 32 % 4) && !(s.portR (v / 32 % 4)).di.isEmpty

/-- D fixed at the source's first block (R230). -/
def State.fixRoute (s : State) (b : Blk) (r : Nat) (x : RouteRun) : RouteRun :=
  if x.delay.isNone && s.routeFed b r then
    let least := s.routeLeast b r
    let want := fget b (rtDelay r) * perAlign
    { x with delay := some (max least want), short := decide (want ≠ 0 ∧ want < least) }
  else x

/-- A 24-bit word rounded half to even to WORD bits and left-aligned again, and true when it saturated (R232). -/
def roundWord (bits : Nat) (v : Int) : Int × Bool :=
  let w := rheDiv v (2 ^ (24 - bits))
  let q := satSigned bits w
  (q * 2 ^ (24 - bits), decide (q ≠ w))

/-- The channel of a route: the word pair it writes, both alike for one slot. -/
def routeChan (ch : Nat) (l r : Int) : Int × Int :=
  match ch with
  | 0 => (l, r) | 1 => (l, l) | 2 => (r, r) | _ => let m := rheDiv (l + r) 2; (m, m)

/-- An underrun begins (R234): the episode is counted; the words of the last frame are kept. -/
def RouteRun.begin (x : RouteRun) : RouteRun :=
  { x with under := true, underQ := true, cnt := satU 16 (x.cnt + 1), kept := x.last }

/-- The flag and the slate of an episode. -/
def State.routeUnderrun (p t : Nat) (s : State) (r : Nat) : State :=
  (s.setFlag fRouteUnderrun).portSlate 0x0700 p t (leBytes 1 p ++ leBytes 1 r ++ leBytes 8 (t64Of256 (s.portTime p t)).toNat)

/-- Frames of the 1 ms ramp (R234). -/
def rampFrames (b : Blk) : Nat := ceilDiv (portRate b) 1000

/-- The samples of a route's source: those of a programme, or the DI slots it names, absent when either is (R229, R233). -/
def State.routeSamples (s : State) (b : Blk) (r : Nat) : List AudioSample :=
  let v := fget b (rtSrc r)
  if fget b (rtKind r) = 1 then (s.progR (v % 64)).hist
  else
    let k := v % 32
    let pair := decide (fget b (rtCh r) = 0)
    ((s.portR (v / 32 % 4)).diHist).map (fun e =>
      let x := e.2.2.getD k none
      let y := if pair then e.2.2.getD (k + 1) none else x
      ⟨e.1, e.2.1, x.getD 0, y.getD 0, x.isNone || y.isNone⟩)

/-- What a route's converter gives in the frame with instant `tn` in 1/16 CK_RF cycle: its source at t_n − D; none where it underruns: the nearest sample is
absent, or a sample of the span has not come two frames before (R230, R231, R233). -/
def State.routeWord (s : State) (b : Blk) (r tn : Nat) (x : RouteRun) : Option (Int × Int) :=
  let rate := (s.routeSource b r).1
  let fs := portRate b
  let xs := s.routeSamples b r
  let t : Int := (tn : Int) - 16 * x.delay.getD 0
  let inTime := xs.filter (fun e => decide ((e.arrived + 2 * rfHz / fs) * 16 ≤ tn + 16))
  let whole := match inTime.head? with
    | some e => decide ((t + 512 * rfHz / rate : Int) ≤ 16 * e.at_ + 16 * rfHz / rate)
    | none => false
  if whole then convertAt rate fs inTime t else none

/-- One route in one frame: what it keeps, and true when an episode begins. -/
def stepRoute (b : Blk) (r : Nat) (x : RouteRun) (i : Option (Int × Int)) (lost : Bool) : RouteRun × Bool :=
  let live := match i with | some v => routeChan (fget b (rtCh r)) v.1 v.2 | none => (0, 0)
  let gone := lost || x.delay.isNone || i.isNone
  if gone then
    let starts := !x.under
    let y := if starts then x.begin else x
    ({ y with last := if fget b (rtPolicy r) = 1 then (0, 0) else y.kept, ramp := 0 }, starts)
  else
    let n := rampFrames b
    let y := if x.under then { x with under := false, ramp := n, rampFrom := x.last } else x
    let k : Int := ((n - y.ramp : Nat) : Int)
    let mix (a v : Int) : Int := if y.ramp = 0 then v else a + rheDiv ((v - a) * k) n
    let l := roundWord (wordBits b) (mix y.rampFrom.1 live.1)
    let q := roundWord (wordBits b) (mix y.rampFrom.2 live.2)
    ({ y with last := (l.1, q.1), ramp := y.ramp - 1, clipQ := y.clipQ || l.2 || q.2 }, false)

/-- Routes that are not OFF. -/
def activeRoutes (b : Blk) : List Nat := (List.range 32).filter (fun r => fget b (rtKind r) != 0)

/-- The DO words of a frame from the routes' words: unrouted slots are 0, or high impedance. -/
def doWords (b : Blk) (zero : Bool) (rs : List RouteRun) : List (Option Int) :=
  let idle : Option Int := if fbit b ptDoIdle then none else some 0
  (activeRoutes b).foldl (fun l r =>
    let x := (rs[r]?).getD RouteRun.reset
    let w := if zero then (0, 0) else x.last
    match routeSlots b r with
    | [a] => putAt a (some w.1) l
    | [a, c] => putAt c (some w.2) (putAt a (some w.1) l)
    | _ => l) (List.replicate (portSlots b) idle)

/-- The routes of a port that leaves SYNC begin to underrun: their frames are dropped or carry zeros (R237 to R240). -/
def State.routesGap (s : State) (p t : Nat) : State :=
  let b := s.portBlk p
  let due := (activeRoutes b).filter (fun r => !((((s.portR p).routes)[r]?).getD RouteRun.reset).under)
  let s := s.modPort p (fun x => { x with
    routes := (indexed 0 x.routes).map (fun y => if due.contains y.1 then { y.2.begin with last := (0, 0), ramp := 0 } else { y.2 with last := (0, 0), ramp := 0 }),
    di := List.replicate (portSlots b) none, dout := List.replicate (portSlots b) (some 0), line := List.replicate (frameBits b) (some false) })
  due.foldl (State.routeUnderrun p t) s

/-- t_n of a frame (R228): the instant itself in master mode and after the edges that declared SYNC; else the output of the tracking loop. Without a clock the grid
goes on at the last tracked period (R237). -/
def PortRun.track (x : PortRun) (slave : Bool) (now : Nat) : PortRun :=
  if x.st = .seek ∨ x.st = .idle then x
  else if !slave || x.period == 0 then { x with tn := 16 * now, tickFrames := x.tickFrames + 1 }
  else if x.st = .clockLost then { x with tn := x.tn + x.period, tickFrames := x.tickFrames + 1 }
  else
    let want := x.tn + x.period
    let err := (16 * now : Nat) - (want : Int)
    let fix := if err = 0 then (0, 0) else Config.portLoop err
    { x with tn := (want + fix.1).toNat, period := (x.period + fix.2).toNat, tickFrames := x.tickFrames + 1 }

/-- The DI words of a frame join those that routes from this port convert; absent ones where nothing is read (R231, R241). -/
def PortRun.hear (x : PortRun) (now : Nat) (di : List (Option Int)) : List (Nat × Nat × List (Option Int)) :=
  (x.tn / 16, now, di) :: x.diHist.filter (fun e => decide (now < e.1 + histSpan))

/-- PORT_FRAME (R224, R226, R229 to R235, R241): the frame whose instant is `t` is formed and shifted. -/
def execPortFrame (t p : Nat) (i : PortIn) (s : State) : Out :=
  let u := s.advance t
  let b := u.portBlk p
  if u.running .port p && decide ((u.portR p).dataFrom ≤ u.now) && (u.slave p || onGrid (portRate b) u.now) then
    let u := u.modPort p (fun x => x.track (u.slave p) u.now)
    let x := u.portR p
    match x.st with
    | .sync =>
      let fixed := (indexed 0 x.routes).map (fun y => (y.1, u.fixRoute b y.1 y.2))
      let steps := fixed.map (fun y =>
        if fget b (rtKind y.1) = 0 then (y.2, false)
        else stepRoute b y.1 y.2 (u.routeWord b y.1 (u.portR p).tn y.2) (x.absentNext || u.fenceMuted))
      let rs := steps.map Prod.fst
      let dout := doWords b false rs
      let word (v : Int) : Int := v / 2 ^ (24 - wordBits b) * 2 ^ (24 - wordBits b)
      let di : List (Option Int) := if fbit b ptDiEn then
          (List.range (portSlots b)).map (fun k =>
            if fbit b ptLoopInt then (dout.getD k none).map word else some (word (satSigned 24 (i.di.getD k 0))))
        else []
      let v := u.modPort p (fun x => { x with
        routes := rs, dout := dout, di := di, frames := x.frames + 1, lastAt := u.now, absentNext := false,
        diHist := x.hear u.now di, line := frameLine b x.dout dout })
      done s (((indexed 0 steps).filter (fun y => y.2.2)).foldl (fun s y => State.routeUnderrun p (x.tn / 16) s y.1) v)
    | .rateJump =>
      done s (u.modPort p (fun x => { x with
        dout := doWords b true x.routes, line := frameLine b x.dout (doWords b true x.routes), frames := x.frames + 1, lastAt := u.now,
        diHist := x.hear u.now [] }))
    | .clockLost => done s (u.modPort p (fun x => { x with frames := x.frames + 1, lastAt := u.now, diHist := x.hear u.now [] }))
    | _ => done s u
  else done s u

/-! ## External clocks (R227, R237 to R240) -/

/-- ρ − 1 in 0.01 ppm of a span of `n` frames, in 1/16 CK_RF cycle (R228). -/
def rateOffset (fs n span : Nat) : Int := rheDiv (span * fs * 10 ^ 8 : Nat) (n * 16 * rfHz) - 10 ^ 8

/-- Limits of R239 in 0.01 ppm. -/
def jumpStep : Nat := 2000000
def jumpRange : Nat := 3000000
def calmStep : Nat := 100000

/-- PORT_SYNC (R227, R228, R238): two FS active edges exactly L bit clocks apart; the tracking loop starts from them. After a loss, a clock that fails the range test
enters RATE_JUMP instead. -/
def execPortSync (t p spacing back : Nat) (s : State) : Out :=
  let u := s.advance t
  let x := u.portR p
  if u.running .port p && u.slave p && x.st == .seek && spacing == frameBits (u.portBlk p) then
    let rho := rateOffset (portRate (u.portBlk p)) 1 (16 * back)
    let v := u.modPort p (fun x => { x with
      st := .sync, bclkSeen := true, lostAt := 0, dataFrom := max x.dataFrom u.now,
      tn := 16 * (u.now - back), period := 16 * back, tickTn := 16 * u.now, tickFrames := 0 })
    let v := v.portSlate 0x0705 p v.now []
    let v := if x.lostAt = 0 then v else v.portSlate 0x0702 p v.now (leBytes 8 (nsOfCycles (x.lastAt - x.lostAt)))
    if x.lostAt ≠ 0 ∧ jumpRange < rho.natAbs then
      let v := (v.modPort p (fun x => { x with st := .rateJump, ratio := rho, steady := 0, jumps := satU 16 (x.jumps + 1) })).portConds
      done s (v.portSlate 0x0703 p v.now (leBytes 4 (unsignedOf 32 rho)))
    else done s v
  else done s u

/-- CLOCK_LOST (R237): four bit-clock periods without a BCLK edge, or two frame periods without an FS edge. -/
def execClockLost (t p : Nat) (bclk : Bool) (periods : Nat) (s : State) : Out :=
  let u := s.advance t
  let x := u.portR p
  if u.running .port p && u.slave p && (x.st == .seek || x.st == .sync || x.st == .rateJump) &&
      decide ((if bclk then 4 else 2) ≤ periods) then
    let v := if x.st = .sync then u.routesGap p u.now else u
    let v := v.modPort p (fun x => { x with
      st := .clockLost, losses := satU 16 (x.losses + 1), lostAt := u.now, di := x.di.map (fun _ => none) })
    done s ((v.portConds).portSlate 0x0701 p v.now [])
  else done s u

/-- PORT_CLOCK_RETURN (R238): the first BCLK edge; the crossing is flushed and the port seeks. `lastAt` holds the instant of the
return until SYNC reports the loss. -/
def execPortClockReturn (t p : Nat) (s : State) : Out :=
  let u := s.advance t
  if u.running .port p && (u.portR p).st == .clockLost then
    let v := u.modPort p (fun x => { x with st := .seek, bclkSeen := true, lastAt := u.now })
    let v := { v with clk := { v.clk with flushes := modAt p (· + 1) v.clk.flushes } }
    done s ((v.setFlag fCrossFlush).portConds)
  else if u.slave p && decide ((u.life ⟨.port, p⟩).eff ≠ .closed) then
    done s (u.modPort p (fun x => { x with bclkSeen := true }))
  else done s u

/-- FS_ERROR (R240): in SYNC, an FS active edge elsewhere than L bit clocks after the previous one, or none there. -/
def execFsError (t p spacing : Nat) (s : State) : Out :=
  let u := s.advance t
  if u.running .port p && u.slave p && (u.portR p).st == .sync && spacing != frameBits (u.portBlk p) then
    let v := u.routesGap p u.now
    done s ((v.modPort p (fun x => { x with st := .seek, fsErr := satU 16 (x.fsErr + 1) })).setFlag fFsError)
  else done s u

/-! ## The management tick (R228, R239) -/

/-- The tick ratio ρ_k − 1: the mean frame period over the tick over the nominal one; without a frame, the last one (R228). -/
def PortRun.tickRatio (x : PortRun) (fs : Nat) : Int := if x.tickFrames = 0 then x.ratio else rateOffset fs x.tickFrames (x.tn - x.tickTn)

/-- A port's part of a tick: LAST_FS, the tick ratio, and an entry into RATE_JUMP. -/
def State.tickPort (s : State) (p : Nat) : State :=
  let x := s.portR p
  if !s.running .port p then s
  else
    let s := s.modPort p (fun x => { x with
      lastFs := if x.frames = 0 then x.lastFs else t64Of256 (s.portTime p (if s.slave p then x.tn / 16 else x.lastAt)), tickTn := x.tn, tickFrames := 0 })
    if !s.slave p then s
    else
      let r := x.tickRatio (portRate (s.portBlk p))
      let step := (r - x.ratio).natAbs
      match x.st with
      | .sync =>
        let s := s.modPort p (fun x => { x with ratio := r, steady := 0 })
        if jumpStep < step ∨ jumpRange < r.natAbs then
          let s := s.routesGap p s.now
          let s := (s.modPort p (fun x => { x with st := .rateJump, jumps := satU 16 (x.jumps + 1) })).portConds
          s.portSlate 0x0703 p s.now (leBytes 4 (unsignedOf 32 r))
        else s
      | .rateJump => s.modPort p (fun x => { x with
          ratio := r, steady := if r.natAbs ≤ jumpRange ∧ step ≤ calmStep then x.steady + 1 else 0 })
      | _ => s

/-- The ports' part of a management tick. -/
def State.tickPorts (s : State) : State := (List.range 4).foldl State.tickPort s

/-- PORT_RATE_OK (R239): 16 consecutive calm ticks; the tracking loop starts afresh at ρ_k. -/
def execPortRateOk (t p : Nat) (s : State) : Out :=
  let u := s.advance t
  if u.running .port p && (u.portR p).st == .rateJump && decide (16 ≤ (u.portR p).steady) then
    let v := (u.modPort p (fun x => { x with
      st := .sync, steady := 0, tn := 16 * x.lastAt,
      period := (rheDiv ((10 ^ 8 + x.ratio) * 16 * rfHz) (10 ^ 8 * portRate (u.portBlk p))).toNat })).portConds
    done s (v.portSlate 0x0704 p v.now [])
  else done s u

end Sys2Proof.Machine
end

