-- ==== Sys2Proof/Machine/Modulate.lean ====
section
/-! DEFINITION. The signals of the composer: the modulator of an FCAR, the symbols of a DCAR frame, levels, the composite and the DAC word (R249 to R252, R255 to R257, R259, R264 to R266). -/
namespace Sys2Proof.Machine
open Sys2Proof

/-! ## Time (R252) -/

/-- CK_RF cycles of a sample at 48 kS/s and at 192 kS/s. -/
def audioStep : Nat := 20480
def mpxStep : Nat := 5120

/-- The phase of a frequency in Hz at a Timebase value in 2^-40 ns, in 2^-32 turn: zero at whole seconds (R252). -/
def tbPhase (hz : Int) (v40 : Nat) : Int := hz * v40 / 256000000000

/-- The place in the RDS bit stream at a Timebase value in 2^-40 ns, in 2^-16 bit (R257). -/
def rdsPlace (v40 : Nat) : Nat := v40 * 2375 / (10 ^ 9 * 2 ^ 25)

/-! ## The modulator of an FCAR (R255, R256) -/

/-- Pre-emphasis of one value: a first-order filter, or none (R255). -/
def emphasise (code : Nat) (x : Int) (mem : Int × Int) : Int :=
  if code = 0 then x
  else rheDiv (Config.emphasis code 0 * x + Config.emphasis code 1 * mem.1 + Config.emphasis code 2 * mem.2) (2 ^ 20)

/-- A value of frequency in units of 150 kHz / 2^24 (R255). -/
def deviation (hz : Nat) : Nat := hz * 2 ^ 24 / 150000

/-- DEV - PILOT - RDS_DEV, which limits |M| + |S|. -/
def fcarLimit (b : Blk) : Nat := deviation (fget b fcDev * 1000 - fget b fcPilot * 250 - fget b fcRdsDev * 250)

/-- |M| + |S|. -/
def loudness (x : Int × Int) : Nat := x.1.natAbs + x.2.natAbs

/-- The limiter (R255): M and S of a sample, given the magnitudes up to 1 ms ahead. Nothing is changed while none of them is above the limit. -/
def limit (most : Nat) (peaks : List Nat) (x : Int × Int) : Int × Int :=
  if peaks.all (fun p => decide (p ≤ most)) then x
  else
    let own := if loudness x = 0 then 2 ^ 24 else most * 2 ^ 24 / loudness x
    let g : Int := (min own (Config.limiter most peaks) : Nat)
    ((x.1 * g).tdiv (2 ^ 24), (x.2 * g).tdiv (2 ^ 24))

/-- Bit number `n` of the RDS stream, coded; none where none is sent. -/
def FmMod.bit (m : FmMod) (n : Nat) : Option Bool := if n < m.bitEnd then m.bits[m.bitEnd - 1 - n]? else none

/-- The RDS signal at full size in 2^-16 at a place in the stream: the pulses of the bits begun (R255, R257). -/
def FmMod.rds (m : FmMod) (place : Nat) : Int :=
  ((List.range 4).map (fun i =>
    if place < i * 2 ^ 16 then 0
    else match m.bit (place / 2 ^ 16 - i) with
      | some true => Config.rdsPulse (place % 2 ^ 16 + i * 2 ^ 16)
      | some false => -Config.rdsPulse (place % 2 ^ 16 + i * 2 ^ 16)
      | none => 0)).sum

/-- The stereo multiplex from M and S at a Timebase value: M + pilot + S cos 2θ + RDS; M alone with MONO (R255). -/
def FmMod.multiplex (b : Blk) (m : FmMod) (x : Int × Int) (v40 : Nat) : Int :=
  if fbit b fcMono then x.1
  else
    let p := tbPhase 19000 v40
    x.1 + rheDiv ((deviation (fget b fcPilot * 250) : Nat) * cosQ 30 p + x.2 * cosQ 30 (2 * p)) (2 ^ 30) +
      rheDiv ((deviation (fget b fcRdsDev * 250) : Nat) * m.rds (rdsPlace v40) * cosQ 30 (3 * p)) (2 ^ 46)

/-- One sample at 192 kS/s, number `k`: the phase integral counts from the first radiated sample on. -/
def FmMod.modulate (b : Blk) (time : Nat → Nat) (x : Int × Int) (m : FmMod) (k : Nat) : FmMod :=
  let v := m.multiplex b x (time (k * mpxStep))
  let on := decide (m.first ≤ k)
  { m with
    mpx := ((v, m.phase) :: m.mpx).take 512,
    phase := if on then ((m.phase + v * 200) % 2 ^ 32).toNat else m.phase,
    peak := if on then max m.peak v.natAbs else m.peak }

/-- One sample at 48 kS/s, number `m.next`: `x` is the audio 95 samples later; filter, pre-emphasis, limiter, interpolation and modulation (R255). -/
def FmMod.step (b : Blk) (time : Nat → Nat) (m : FmMod) (x : Int × Int) : FmMod :=
  let raw := (x :: m.raw).take 63
  let low (f : Int × Int → Int) : Int :=
    rheDiv ((indexed 0 raw).map (fun y => Config.fcarFir ((31 : Int) - y.1).natAbs * f y.2)).sum (2 ^ 20)
  let l := low Prod.fst
  let r := low Prod.snd
  let code := fget b fcPreemph
  let e := (emphasise code (l + r) m.mem.1, emphasise code (l - r) m.mem.2)
  let pre := (e :: m.pre).take 49
  let lim := (limit (fcarLimit b) (pre.map loudness) (pre.getD 48 (0, 0)) :: m.lim).take 32
  let up (i : Nat) (f : Int × Int → Int) : Int :=
    rheDiv ((indexed 0 lim).map (fun y => Config.upFir ((64 : Int) - 4 * y.1 - i).natAbs * f y.2)).sum (2 ^ 20)
  let n := m.next
  let m := { m with next := n + 1, raw := raw, pre := pre, lim := lim, mem := ((l + r, e.1), (l - r, e.2)) }
  (List.range 4).foldl (fun m i => m.modulate b time (up i Prod.fst, up i Prod.snd) (4 * n + i)) m

/-- A modulator at its carrier's start boundary: the phase integral is zero, and the filters are filled from the samples before it. -/
def FmMod.begin (m : FmMod) (b : Nat) : FmMod :=
  { FmMod.reset with next := b / audioStep - 96, first := ceilDiv b mpxStep, bits := m.bits, bitEnd := m.bitEnd }

/-- The audio that FCAR `c` presents at a CK_RF count: its programme's, D earlier; silence for input-absent (R254 to R256, R326). -/
def State.fcarAudio (s : State) (c t : Nat) : Int × Int :=
  let p := fget (s.life ⟨.fcar, c⟩).cur fcProg
  match (s.fcarR c).air.delay with
  | some d => if s.fenceMuted then (0, 0)
    else (convertAt (max 1 (s.progR p).rate) 48000 (s.progR p).hist (16 * ((t : Int) - d))).getD (0, 0)
  | none => (0, 0)

/-- The last CK_RF count at which a carrier radiates, up to now; none when it has not risen. -/
def State.airUntil (s : State) (a : AirRun) : Option Nat :=
  a.riseAt.map (fun r => match a.fallAt with
    | some f => if r ≤ f then min s.now (f + perFrame) else s.now
    | none => s.now)

/-- The modulator of FCAR `c` runs up to now. -/
def State.fmRun (s : State) (c : Nat) : State :=
  match s.airUntil (s.fcarR c).air with
  | none => s
  | some t =>
    let b := (s.life ⟨.fcar, c⟩).cur
    s.modFcar c (fun r =>
      let n := t / audioStep - r.fm.next
      { r with
        air := { r.air with lost := r.air.lost && n == 0 },
        fm := (List.range n).foldl (fun m j =>
          m.step b (fun k => s.time40 k 0) (if r.air.lost && j == 0 then (0, 0) else s.fcarAudio c ((m.next + 95) * audioStep))) r.fm })

/-- The 104 bits of a group, check words and offsets computed anew, join the bits of an FCAR, differentially coded (R255, R257). -/
def FmMod.send (m : FmMod) (k : Nat) (words : List Word16) (prime : Bool) : FmMod :=
  let offs : List RdsOffset := [.a, .b, if prime then .cPrime else .c, .d]
  let block (w : Word16) (o : RdsOffset) : BitVec 26 :=
    let v := BitVec.ofNat 26 (w.toNat * 1024)
    v ^^^ (BitVec.ofNat 26 (rdsSyndrome v ^^^ offsetWord o).toNat)
  let bits := ((words.zip offs).map (fun x => block x.1 x.2)).flatMap (fun w => (List.range 26).map (fun j => w.getLsbD (25 - j)))
  let old := if m.bitEnd = 104 * k then m.bits else []
  { m with bits := (bits.foldl (fun l b => (b != l.headD false) :: l) old).take 312, bitEnd := 104 * (k + 1) }

/-! ## Levels and envelopes (R249, R265, R266, R271) -/

/-- The amplitude of a carrier in 2^-24 of the DAC's full scale, a sine of which gives +9 dBm (R249). -/
def State.carAmplitude (s : State) (d : Bool) (c : Nat) : Nat :=
  let b := (s.life (carRef d c)).cur
  timesTen 4000 (2 ^ 24) (-3800 - 25 * (fget b fcLevel : Int) + 2 * (s.air d c).trim + Config.txGain (carFreq b) s.health.tjMax)

/-- The raised cosine over one Plain frame from `b`, in 2^-24. -/
def riseFrom (b t : Nat) : Nat := if t < b then 0 else raisedCos (min (t - b) perFrame) perFrame

/-- The envelope of a carrier at a CK_RF count in 2^-24: raised cosines over one Plain frame; at once at the loss of the LO, and at a start at full level. -/
def AirRun.envelope (a : AirRun) (t : Nat) : Nat :=
  let up (r : Nat) : Nat := if a.full then (if t < r then 0 else 2 ^ 24) else riseFrom r t
  let down (f : Nat) : Nat := if a.cause = .loLost then (if t < f then 2 ^ 24 else 0) else 2 ^ 24 - riseFrom f t
  match a.riseAt, a.fallAt with
  | none, _ => 0
  | some r, none => up r
  | some r, some f => if r ≤ f then up r * down f / 2 ^ 24 else if t < r then down f else up r

/-- The level loop takes its next correction at the block boundary that has come, and finds the one after it from the measured error: no more than 0.05 dB
(R249). -/
def State.tickTrim (s : State) (d : Bool) (c : Nat) (err : Int) : State :=
  let next := (s.carBoundary d c (s.now + 1)).map (fun b => (b, max (-5) (min 5 (Config.levelLoop err))))
  s.modAir d c (fun a =>
    match a.trimNext with
    | some (b, v) => if b ≤ s.now then { a with trim := a.trim + v, trimNext := next } else a
    | none => { a with trimNext := next })

/-! ## The symbols of a DCAR frame (R259, R264) -/

/-- The phase of a QPSK symbol of π/4-DQPSK in eighths of a turn, by its two bits. -/
def qpskTurn : Bool → Bool → Nat
  | false, false => 1
  | true, false => 3
  | true, true => 5
  | false, true => 7

/-- The 3072 bits of symbol `l` of a frame, 1 to 75. -/
def DcarAir.symbolBits (f : DcarAir) (l : Nat) : List Bool :=
  if l ≤ 3 then (f.fic.drop ((l - 1) * 3072)).take 3072 else (((f.msc.getD ((l - 4) / 18) []).drop ((l - 4) % 18 * 3072)).take 3072)

/-- Carriers and their phases in 2^-32 turn, symbol by symbol: the PRS, then each from the one before it. -/
def DcarAir.phases (f : DcarAir) : Nat → List (Int × Int)
  | 0 => Config.reference 0
  | l + 1 =>
    let bits := f.symbolBits (l + 1)
    let turns := (List.range 1536).map (fun n => (Config.carrierOrder n, (2 ^ 29 * qpskTurn (bits.getD n false) (bits.getD (n + 1536) false) : Nat)))
    (f.phases l).map (fun z => (z.1, z.2 + (((turns.find? (fun x => x.1 == z.1)).map (fun x => (x.2 : Int))).getD 0)))

/-- The sum of carriers at a place in samples of 2.048 MS/s, in 2^-24 of the signal's mean amplitude with all 1536 at full size. -/
def ofdmSum (zs : List (Int × Int)) (place : Int) : Int × Int :=
  cround (isqrt (1536 * 2 ^ 16)) (cscale 4 (csum (zs.map (fun z => turn 30 (z.1 * place * 2 ^ 21 + z.2) (1, 0)))))

/-- Sample `j` of a frame: the null symbol with its TII pairs, `tii` in 2^-24 of an OFDM carrier, then the symbols with their guard intervals. -/
def DcarAir.sample (f : DcarAir) (pairs : List Int) (tii j : Nat) : Int × Int :=
  if j < 2656 then
    if f.tii then
      cround (2 ^ 24) (cscale tii (ofdmSum ((Config.reference 0).filter (fun z => pairs.contains z.1)) ((j : Int) - 608)))
    else (0, 0)
  else ofdmSum (f.phases ((j - 2656) / 2552)) (((j - 2656) % 2552 : Nat) - (504 : Int))

/-- The signal of DCAR `c` at a Timebase value in 2^-40 ns: the frame on air there, interpolated from 2.048 MS/s (R252, R259). -/
def State.dcarSignal (s : State) (c v40 : Nat) : Int × Int :=
  let r := s.dcarR c
  let b := (s.life ⟨.dcar, c⟩).cur
  let pairs := Config.tiiCarriers (fget b dcTiiMain) (fget b dcTiiSub)
  let tii := amplitude (-16 * (6 + 2 * (fget b dcTiiLevel : Int)))
  let one (f : DcarAir) (j : Int) : Int × Int := if 0 ≤ j ∧ j < 196608 then f.sample pairs tii j.toNat else (0, 0)
  match [r.frame, r.was].findSome? (fun o => o.bind (fun f => if f.begins * 2 ^ 32 ≤ v40 then some f else none)) with
  | none => (0, 0)
  | some f =>
    let place := (v40 - f.begins * 2 ^ 32) * 2048 / (10 ^ 6 * 2 ^ 24)
    let j : Int := (place / 2 ^ 16 : Nat)
    cround (2 ^ 17) (csum ((List.range 16).map (fun i =>
      let k : Int := (i : Int) - 7
      cscale (Config.txFir (k * 2 ^ 16 - (place % 2 ^ 16 : Nat)).natAbs) (one f (j + k)))))

/-- The signal of FCAR `c` at a CK_RF count: unit amplitude, the phase integral between its samples at 192 kS/s (R255). -/
def State.fcarSignal (s : State) (c t : Nat) : Int × Int :=
  let m := (s.fcarR c).fm
  let x := m.mpx.getD (4 * m.next - 1 - t / mpxStep) (0, m.phase)
  let on := decide (m.first ≤ t / mpxStep)
  turn 24 (x.2 + (if on then x.1 * 200 * (t % mpxStep : Nat) / mpxStep else 0)) (1, 0)

/-! ## The composite (R247, R251, R252) -/

/-- The instant at which the DAC word of CK_RF cycle `k` leaves the radiation reference point, in 1/64 cycle (R252). -/
def State.radiatedAt (s : State) (k : Nat) : Nat :=
  64 * k + Config.dacDelay + (rheDiv (fget s.tx.profile txOutDelay * 98304 * 64 : Nat) 25600000).toNat

/-- The part of a carrier in the composite at an instant in 1/64 cycle, at its frequency less that of the LO, in 2^-24 of full scale (R247, R252). -/
def State.carSignal (s : State) (d : Bool) (c u : Nat) : Int × Int :=
  let a := s.air d c
  let env := a.envelope (u / 64)
  if env = 0 then (0, 0)
  else
    let b := (s.life (carRef d c)).cur
    let v40 := s.time40 (u / 64) (u % 64)
    let hz : Int := (carFreq b : Int) - (if s.loMode then carLoKhz b * 1000 else 0 : Nat)
    let z := if d then s.dcarSignal c v40 else s.fcarSignal c (u / 64)
    cround (2 ^ 54) (cscale env (cround (2 ^ 24) (cscale (s.carAmplitude d c) (turn 30 (tbPhase hz v40) z))))

/-- The sum of the carriers: real in DIRECT mode. -/
def State.composite (s : State) (u : Nat) : Int × Int :=
  let z := csum (allCars.map (fun x => s.carSignal x.1 x.2 u))
  if s.loMode then z else (z.1, 0)

/-- The half-width h of a carrier's mask in Hz (R250). -/
def halfWidth (d : Bool) : Nat := if d then 856000 else 100000

/-- The carriers as the cancellation pulse is filtered for them: frequency, half-width, power (R251). -/
def State.cancelBands (s : State) : List (Int × Nat × Nat) :=
  (allCars.filter (fun x => (s.air x.1 x.2).st == .onAir)).map (fun x =>
    let b := (s.life (carRef x.1 x.2)).cur
    ((carFreq b : Int) - (if s.loMode then carLoKhz b * 1000 else 0 : Nat), halfWidth x.1, s.carAmplitude x.1 x.2 ^ 2))

/-- -1 dBFS in 2^-24 of full scale. -/
def limitLevel : Nat := amplitude (-16)

/-- What a composite value has beyond -1 dBFS. -/
def excess (z : Int × Int) : Int × Int :=
  let m := isqrt (cpow z)
  if m ≤ limitLevel then (0, 0) else csub z (cround m (cscale limitLevel z))

/-- The limited composite: at each local peak beyond -1 dBFS a cancellation pulse is subtracted (R251). -/
def State.limited (s : State) (k : Nat) : Int × Int :=
  let at_ (j : Nat) : Int × Int := s.composite (s.radiatedAt j)
  let reach := Config.cancelReach % 4096
  let near := (List.range (2 * reach + 1)).map (fun i => k + i - reach)
  let pulses := near.filter (fun j => decide (limitLevel < isqrt (cpow (at_ j)) ∧ cpow (at_ (j - 1)) ≤ cpow (at_ j) ∧ cpow (at_ (j + 1)) < cpow (at_ j)))
  csub (at_ k) (csum (pulses.map (fun j =>
    cround (2 ^ 17) (cmul (excess (at_ j)) (Config.cancelPulse s.cancelBands ((k : Int) - j).natAbs)))))

/-- What the DAC is given in CK_RF cycle `k`, in 2^-24 of full scale: the composite at RFOUT in DIRECT mode; I and Q by turns, corrected by the stored results of
the LO's band, in LO mode (R247, R269). -/
def State.dacValue (s : State) (k : Nat) : Int :=
  let z := s.limited k
  if s.loMode then
    let w := Config.txCorrect (((s.unit 5).newest.drop (4 * s.txBand)).take 4) z
    if k % 2 = 0 then w.1 else w.2
  else z.1

/-- The 12-bit DAC word of a CK_RF cycle, and whether it saturated (R251). -/
def State.dacWord (s : State) (k : Nat) : Int × Bool :=
  let w := rheDiv (s.dacValue k) (2 ^ 13)
  (satSigned 12 w, decide (satSigned 12 w ≠ w))

/-- DAC words that saturated in the tick that ends now: none while the carriers' amplitudes cannot add up to full scale (R251). -/
def State.dacClips (s : State) : Nat :=
  let up := allCars.filter (fun x => (s.air x.1 x.2).riseAt.isSome)
  if up.all (fun x => !x.1) ∧ (up.map (fun x => s.carAmplitude x.1 x.2)).sum < limitLevel then 0
  else ((List.range perTick).filter (fun i => (s.dacWord (s.now - perTick + i)).2)).length

end Sys2Proof.Machine
end

