-- ==== Sys2Proof/Machine/Regen.lean ====
section
/-! DEFINITION. Ensemble regeneration: substitution, the FIC with its edits, the coded CIFs, and the frame on air (R259 to R264). -/
namespace Sys2Proof.Machine
open Sys2Proof

/-! ## The data of a frame (R259 to R261) -/

/-- Byte `k` of an insert's inline block. -/
def AirIns.byte (a : AirIns) (k : Nat) : Nat := (a.inl.extractLsb' (8 * k) 8).toNat

/-- The engine that a DCAR names delivers: LOCKED on this device, or its capacity units come from another member (R259, R261). -/
def State.dcarAlive (s : State) (src : Id) : Bool :=
  if s.fenceMuted then false
  else if s.idLocal src then s.running .ee (idIdx src) && (s.chan (idIdx src) 0).sync == .locked
  else s.cas.cu.any (fun x => x.1 == src && !x.2.2)

/-- The four CIFs and twelve FIBs of the frame whose CIF 0 has a count, when all have come. -/
def AirSrc.frame (a : AirSrc) (count : Nat) : Option (List AirCif × List AirFib) :=
  let cs := (List.range 4).filterMap (fun j => a.cifs.find? (fun x => x.count == (count + j) % 5000))
  let fs (time : Nat) : List AirFib := (List.range 12).filterMap (fun j => a.fibs.find? (fun f => f.time == time && f.no == j))
  match cs with
  | [] => none
  | x :: _ => if cs.length = 4 ∧ (fs x.time).length = 12 then some (cs, fs x.time) else none

/-- The CK_RF count at which the last of them came. -/
def lastArrival (x : List AirCif × List AirFib) : Nat := (x.1.map AirCif.arrived ++ x.2.map AirFib.arrived).foldl max 0

/-! ## Substitution (R263) -/

/-- What fixes a sub-channel's encoding: codec, bit rate, and the rate and channels of the programme that decodes it (R263). -/
def State.encKey (s : State) (src : Id) (sub : Nat) : Nat × Nat × Nat × Nat :=
  let e := idIdx src
  let br := match s.svc.comp.find? (fun c => c.origin.object == src && c.subch == sub) with | some c => c.bitrate | none => 0
  match (s.progsOf src).find? (fun x => x.1 == sub) with
  | some (_, p) => (s.encDelayNs e sub, br, (s.progR p).rate, (s.progR p).channels)
  | none => (s.encDelayNs e sub, br, 0, 0)

/-- Sub-channels within four encoder contexts, those with one encoding sharing a context (R263). -/
def State.inContexts (s : State) (src : Id) : List (Nat × Nat × Nat × Nat) → List (Nat × Nat) → List (Nat × Nat)
  | _, [] => []
  | keys, x :: xs =>
    let k := s.encKey src x.1
    if keys.contains k then x :: State.inContexts s src keys xs
    else if keys.length < 4 then x :: State.inContexts s src (k :: keys) xs
    else State.inContexts s src keys xs

/-- CIFs of an audio unit: a DAB+ superframe, an MP2 frame of 24 or 48 ms (R263). -/
def State.unitCifs (s : State) (g : SubOrg) (p : Nat) : Nat := if g.dabPlus then 5 else if (s.progR p).rate = 24000 then 2 else 1

/-- The audio instants of the unit that a CIF belongs to, for programme `p`: from and to, in CK_RF cycles. -/
def State.unitSpan (s : State) (x : AirCif) (g : SubOrg) (p : Nat) : Nat × Nat :=
  let n := s.unitCifs g p
  let start := x.at_ - x.count % n * logicalCycles 0 + cyclesOfNs (s.progLatencyNs p)
  (start, start + n * logicalCycles 0)

/-- The insert that a unit carries: from the first whose audio instants include the start boundary to the last that includes the end of the stop crossfade. -/
def State.unitInsert (s : State) (x : AirCif) (sub p : Nat) : Option AirIns :=
  match x.subs.find? (fun y => y.1 == sub) with
  | none => none
  | some y =>
    let w := s.unitSpan x y.2.1 p
    (s.progR p).airIns.reverse.find? (fun a => decide (a.from_ < w.2) && (match a.to_ with | none => true | some e => decide (w.1 < e)))

/-- The inserts whose substituted audio the CIFs of a frame carry, with sub-channel and programme (R262, R263). -/
def State.dcarInserts (s : State) (src : Id) (cs : List AirCif) : List (AirIns × Nat × Nat) :=
  (s.progsOf src).filterMap (fun x => (cs.findSome? (fun c => s.unitInsert c x.1 x.2)).map (fun a => (a, x.1, x.2)))

/-- The bytes of a CIF of a substituted sub-channel: the programme's output over the unit, encoded as the original is (R262, R263). -/
def State.substBytes (s : State) (src : Id) (x : AirCif) (y : Nat × SubOrg × List Byte) (p : Nat) (text : List Byte) : List Byte :=
  let w := s.unitSpan x y.2.1 p
  let n := s.unitCifs y.2.1 p
  let len := y.2.2.length
  let k := s.encKey src y.1
  let audio := ((s.progR p).hist.filter (fun a => decide (w.1 ≤ a.at_ ∧ a.at_ < w.2))).reverse.map (fun a => (a.l, a.r))
  ((fitBytes (n * len) (Config.encodeAudio [k.1, k.2.1, k.2.2.1, k.2.2.2] audio text)).drop (x.count % n * len)).take len

/-- What a CIF's sub-channels carry on air: the decoded bytes, or a substitute; static ones take precedence (R259, R263). -/
def State.cifContent (s : State) (src : Id) (fixed subst : List (Nat × Nat)) (x : AirCif) : List (Nat × SubOrg × List Byte) :=
  x.subs.map (fun y =>
    match subst.find? (fun z => z.1 == y.1) with
    | none => y
    | some z =>
      if fixed.contains z then (y.1, y.2.1, s.substBytes src x y z.2 [])
      else match s.unitInsert x y.1 z.2 with
        | some a => (y.1, y.2.1, s.substBytes src x y z.2 (if (a.byte 8).testBit 2 then a.text else []))
        | none => y)

/-! ## The MSC (R259, R261) -/

/-- The 55296 bits of a CIF before time interleaving: each sub-channel encoded into its capacity units. -/
def cifBits (subs : List (Nat × SubOrg × List Byte)) : List Bool :=
  let blocks := subs.map (fun y => (64 * y.2.1.start, encodeBlock (Config.subchMask y.2.1.prot y.2.1.size) (bytesToBits y.2.2)))
  (List.range 55296).map (fun i =>
    match blocks.find? (fun b => decide (b.1 ≤ i ∧ i < b.1 + b.2.length)) with
    | some b => b.2.getD (i - b.1) false
    | none => Config.cuPad i)

/-- Sub-channels of zero content. -/
def zeroContent (subs : List (Nat × SubOrg × List Byte)) : List (Nat × SubOrg × List Byte) :=
  subs.map (fun y => (y.1, y.2.1, zeros y.2.2.length))

/-- The coded CIFs that a frame and its time interleaving reach back to: its own four first, then those radiated before; those that were not are encoded from
what the engine gave, or empty. -/
def codedFor (a : AirSrc) (count : Nat) (own old : List (Nat × List Bool)) : List (Nat × List Bool) :=
  own ++ (List.range 15).map (fun j =>
    let m := (count + 4999 - j) % 5000
    match old.find? (fun x => x.1 == m) with
    | some x => x
    | none => (m, cifBits (((a.cifs.find? (fun c => c.count == m)).map AirCif.subs).getD [])))

/-- A CIF after time interleaving over 16 CIFs. -/
def interleaved (coded : List (Nat × List Bool)) (m : Nat) : List Bool :=
  let before := (List.range 16).map (fun d => ((coded.find? (fun x => x.1 == (m + 5000 - d) % 5000)).map Prod.snd).getD [])
  (List.range 55296).map (fun i => (before.getD (Config.timeDelay (i % 16) % 16) []).getD i false)

/-! ## The FIC (R261, R262; layouts PRESUMED, log 95) -/

/-- Type and extension of a FIG of type 0. -/
def figKind (g : List Byte) : Nat × Nat :=
  match g with
  | h :: b :: _ => (h.toNat / 32, b.toNat % 32)
  | _ => (8, 0)

/-- FIG 0/0 with a CIF count, after one that was received. -/
def fig00 (last : Option (List Byte)) (al : Bool) (count : Nat) : List Byte :=
  let g := last.getD []
  [0x05, 0x00, byteAt g 2, byteAt g 3, BitVec.ofNat 8 (32 * bit al + count / 250), BitVec.ofNat 8 (count % 250)]

/-- FIG 0/18 of a service with one cluster, and FIG 0/19 with New flag 1. -/
def fig018 (sid asu cluster : Nat) : List Byte :=
  [0x07, 0x12] ++ [BitVec.ofNat 8 (sid / 256), BitVec.ofNat 8 sid, BitVec.ofNat 8 (asu / 256), BitVec.ofNat 8 asu, 0x01, BitVec.ofNat 8 cluster]
def fig019 (cluster asw sub : Nat) : List Byte :=
  [0x05, 0x13] ++ [BitVec.ofNat 8 cluster, BitVec.ofNat 8 (asw / 256), BitVec.ofNat 8 asw, BitVec.ofNat 8 (128 + sub % 64)]

/-- The entries of FIG 0/17 with the PTY of the services that an insert changes; `n` bounds their number. -/
def editPty (pty : Nat → Option Nat) : Nat → List Byte → List Byte
  | n + 1, a :: b :: f :: bs =>
    let skip := bit (f.toNat.testBit 5)
    let code := byteAt bs skip
    let v := match pty (a.toNat * 256 + b.toNat) with | some p => BitVec.ofNat 8 (code.toNat / 32 * 32 + p % 32) | none => code
    [a, b, f] ++ bs.take skip ++ (if bs.length ≤ skip then [] else [v]) ++ editPty pty n (bs.drop (skip + 1))
  | _, bs => bs

/-- A received FIG with the edits of R262. -/
def editFig (al : Bool) (pty : Nat → Option Nat) (g : List Byte) : List Byte :=
  if figKind g = (0, 0) then (if al then modAt 4 (fun b => b ||| 0x20) g else g)
  else if figKind g = (0, 17) then g.take 2 ++ editPty pty 8 (g.drop 2)
  else g

/-- The FIGs of a rebuilt FIB: those received, edited and without the announcements that ANN_EN replaces; an empty FIB for one that failed its CRC, with a
generated FIG 0/0 in the first of a frame (R262). -/
def rebuiltFib (annEn al : Bool) (pty : Nat → Option Nat) (last : Option (List Byte)) (count : Nat) (f : AirFib) : List (List Byte) :=
  if f.ok then
    ((figs 30 f.data).1.filter (fun g => !(annEn && (figKind g == (0, 18) || figKind g == (0, 19))))).map (editFig al pty)
  else if f.no = 0 then [fig00 last al count] else []

/-- FIGs that wait for room find it in the FIBs in order; the others wait a frame more (R262). -/
def placeFigs (content : Nat → List Byte) : List (List (List Byte)) → List (Nat × Nat) → List (List (List Byte)) × List (Nat × Nat)
  | fibs, [] => (fibs, [])
  | fibs, g :: gs =>
    match (indexed 0 fibs).find? (fun x => decide (x.2.flatten.length + (content g.1).length ≤ 30)) with
    | some (i, _) => placeFigs content (modAt i (fun l => l ++ [content g.1]) fibs) gs
    | none =>
      let r := placeFigs content fibs gs
      (r.1, (g.1, g.2 + 1) :: r.2)

/-- The 256 bits of a FIB: its FIGs, the end marker and padding, and its CRC. -/
def fibBits (gs : List (List Byte)) : List Bool :=
  let body := bytesToBits (fitBytes 30 (gs.flatten ++ [0xFF]))
  let crc := crcRun 16 0x1021 0xFFFF body ^^^ 0xFFFF
  body ++ (List.range 16).map (fun j => crc.testBit (15 - j))

/-- The FIC of a frame: three FIBs a CIF, encoded. -/
def ficBits (fibs : List (List (List Byte))) : List Bool :=
  (List.range 4).flatMap (fun i => encodeBlock Config.ficMask (((fibs.drop (3 * i)).take 3).flatMap fibBits))

/-- The FIBs of a FILL frame: FIG 0/0 with the DCAR's own count, then the FIGs 0/1 and 0/2 of the last configuration as far as they find room (R261). -/
def fillFibs (a : AirSrc) (count : Nat) : List (List (List Byte)) :=
  let last := a.figs.find? (fun g => figKind g == (0, 0))
  let rest := a.figs.filter (fun g => figKind g != (0, 0))
  (placeFigs (fun k => rest.getD k []) ([fig00 last false count] :: List.replicate 11 []) ((List.range rest.length).map (fun k => (k, 0)))).1

/-! ## The frame (R260 to R264) -/

/-- The Timebase value in 1/256 ns at which the frame on air at a value begins: T0 + k × 96 ms. -/
def DcarRun.beginAt (r : DcarRun) (v : Nat) : Nat := r.t0 + (v + dcarStep / 2 - r.t0) / dcarStep * dcarStep

/-- DCAR_FRAME (R260 to R264): the frame radiated at `t`. -/
def execDcarFrame (t c : Nat) (s : State) : Out :=
  let u := s.advance t
  let r := u.dcarR c
  let b := (u.life ⟨.dcar, c⟩).cur
  if u.running .dcar c && r.air.st == .onAir && r.c0.isSome then
    let src : Id := BitVec.ofNat 32 (fget b dcSource)
    let id := u.idOf .dcar c
    let a := u.airSrc src
    let count := r.countAt (u.timeAt u.now)
    let data := if u.fenceMuted || r.air.lost then none else a.frame count
    let late := data.isNone && u.dcarAlive src && !r.air.lost
    let absent := data.isNone && !late
    if absent && fbit b dcAbsent then
      done s ((u.modDcar c (fun r => { r with absentSrc := true, count := count, air := { r.air with lost := false } })).carrierOff true c .absent true u.now)
    else
      let cs := (data.map Prod.fst).getD []
      let on := u.dcarInserts src cs
      let ids := sortBy (fun i => i) (distinct (on.map (fun x => x.1.ins)))
      let fixed := substStatic b
      let want := fixed ++ sortBy Prod.fst ((on.map (fun x => (x.2.1, x.2.2))).filter (fun x => fixed.all (fun y => y.1 != x.1)))
      let subst := u.inContexts src [] want
      let past := decide (subst.length < want.length)
      let edited := ids.filter (fun j => on.any (fun x => x.1.ins == j && x.1.byte 8 / 2 != 0))
      -- FIGs to add: one FIG 0/18 a service with ANN_EN, one FIG 0/19 an insert with DAB_ANN
      let annEn := fbit b dcAnnEn
      let svcs := u.svc.svc.filter (fun v => v.origin.object == src)
      let anns := ids.filter (fun j => on.any (fun x => x.1.ins == j && (x.1.byte 8).testBit 3))
      let new := ((List.range (if annEn && data.isSome then svcs.length else 0)).map (fun j => 0x1800 + j) ++ anns.map (fun j => 0x1900 + j)).filter
        (fun k => !r.figs.any (fun g => g.1 == k))
      let content (k : Nat) : List Byte :=
        if k < 0x1900 then fig018 (((svcs[k - 0x1800]?).map Service.key).getD 0) (fget b dcAnnSupport) (fget b dcCluster)
        else
          let mine := on.filter (fun x => x.1.ins == k - 0x1900)
          let type := ((mine.head?.map (fun x => x.1.byte 10)).getD 0) % 16
          fig019 (if type = 0 then 0xFF else fget b dcCluster) (2 ^ type) ((((sortBy (fun x => x.2.2) mine).head?).map (fun x => x.2.1)).getD 0)
      let al := on.any (fun x => (x.1.byte 8).testBit 4)
      let pty (sid : Nat) : Option Nat :=
        (on.find? (fun x => (x.1.byte 8).testBit 1 && u.svc.comp.any (fun y => y.origin.object == src && y.key == sid && y.subch == x.2.1))).map (fun x => x.1.byte 9)
      let rebuilt := ((data.map Prod.snd).getD []).map (rebuiltFib annEn al pty (a.figs.find? (fun g => figKind g == (0, 0))) count)
      let placed := if data.isSome then placeFigs content rebuilt (r.figs ++ new.map (fun k => (k, 0))) else (fillFibs a count, r.figs)
      let lost := placed.2.filter (fun g => decide (4 ≤ g.2))
      let own := (List.range 4).map (fun j =>
        ((count + j) % 5000, cifBits (match cs[j]? with
          | some x => u.cifContent src fixed subst x
          | none => zeroContent ((a.cifs.head?.map AirCif.subs).getD []))))
      let coded := codedFor a count own r.coded
      let silent := !fbit b dcTiiEn || (count / 4) % 2 == 1
      let time := u.timeAt u.now
      let air : DcarAir := ⟨r.beginAt time, ficBits placed.1, (List.range 4).map (fun j => interleaved coded (count + j)), !silent⟩
      let slack := match data with | some x => some ((u.now - lastArrival x) * 10000 / 983040) | none => none
      let first := (List.range 4).find? (fun j => (u.dcarR j).air.st == .onAir) == some c
      let u := if past && !r.substLimit then u.slateDet 0x0804 id [] else u
      let u := if late then u.slateT 0x0802 id u.now [] else u
      let u := (edited.filter (fun j => !r.air.edits.contains j)).foldl (fun u j =>
        u.slateAt 0x0806 id time 0 (leBytes 1 j ++ leBytes 8 (t64Of256 time).toNat)) u
      let u := (r.air.edits.filter (fun j => !edited.contains j)).foldl (fun u j =>
        u.slateAt 0x0807 id time 0 (leBytes 1 j ++ leBytes 8 (t64Of256 time).toNat)) u
      let u := u.modDcar c (fun r => { r with
        air := { r.air with edits := edited, lost := false }, count := count, late := if late then satU 16 (r.late + 1) else r.late,
        slackNow := match slack with | some v => some (min v (r.slackNow.getD v)) | none => r.slackNow,
        absentSrc := r.absentSrc || absent, substLimit := past, subst := subst,
        figs := placed.2.filter (fun g => decide (g.2 < 4)), figDefer := satU 16 (r.figDefer + lost.length),
        frame := some air, was := r.frame, coded := coded.take 19 })
      done s (if silent && first && u.loMode then { u with tx := { u.tx with nulls := u.tx.nulls + 1 } } else u)
  else done s u

end Sys2Proof.Machine
end

