-- ==== Sys2Proof/Machine/Composer.lean ====
section
/-! DEFINITION. The composer: Agile LO events, carriers on air, RDS and DCAR frames, transmit calibration, the amplifier and coexistence wires, the feeder sweep, and the carriers' checks (R37 to R44, R247 to R280). -/
namespace Sys2Proof.Machine
open Sys2Proof

/-! ## Agile LO events (R39 to R44, R55, R56) -/

/-- The lock of ALO_RX serves input D: the blanking interval begins after a switch to L-band, else the marking ends (R42, R55). -/
def State.rxLocked (s : State) : State :=
  let k := s.nextSample
  let s := s.loValid k
  if (s.convR 3).loWait then
    let e := k + fget (s.life ⟨.conv, 3⟩).cur cvPselBlank
    let s := s.modConv 3 (fun r => { r with loWait := false, blankEnd := e, blanking := true })
    (s.markConv 3 qSettle k (some e)).endWait .rxLo .ok s.now
  else s

/-- The lock of ALO_TX in a sweep: the segment begins at the next Plain-sample boundary; with the first, SWEEP_START completes (R43,
R44, R273). -/
def State.segmentBegins (s : State) : State :=
  let b := alignUp perSample s.now
  let mark := match s.aloTx.ramp[s.aloTx.seg]? with | some g => g.mark | none => false
  let s := s.modAlo 1 (fun x => { x with segStart := b, markTime := if mark then s.t64At b else x.markTime })
  if s.tx.sweep.st = .waitLock then
    ({ s with tx := { s.tx with sweep := { s.tx.sweep with st := .running, inSeg := 0 } } } : State).endWait .sweep .ok b
  else s

/-- ALO_LOCK (R22, R39, R40, R42): the digital window declares lock. VCO_KHZ of a stored result is the VCO frequency cut down to whole
kHz (DESIGN CHOICE, log 97). -/
def execAloLock (t alo band fine : Nat) (m : LockMeas) (s : State) : Out :=
  let u := s.advance t
  let a := u.alo alo
  if alo ≤ 1 ∧ (a.st = .hopping ∨ a.st = .searching) ∧ u.aloLocks m = true then
    let found : HopEntry := ⟨a.freqHz * 2 ^ a.k / 1000, band, true, fine, u.health.tjMax, u.tick32.toNat⟩
    let u := u.modAlo alo (fun x => { x with
      st := if x.ramp = [] then .locked else .ramping, lock := true, lost := false, hopEnd := none,
      band := if x.st = .searching then band else x.band,
      table := if x.st = .searching then storeHop found x.table else x.table })
    let u := u.aloCond
    done s (if alo = 0 then u.rxLocked else if a.ramp = [] then (if u.loReady then u.loServe else u) else u.segmentBegins)
  else done s u

/-- ALO_SEARCH_FAIL (R40): the ALO stays unlocked; an L-band RUN and a waiting sweep are answered, a carrier waits on to its limit. -/
def execAloSearchFail (t alo : Nat) (s : State) : Out :=
  let u := s.advance t
  if alo ≤ 1 ∧ (u.alo alo).st = .searching then
    let u := (u.modAlo alo (fun x => { x with st := .idle, lock := false, hopEnd := none })).setFlag fAloSearchFail
    if alo = 0 then
      if (u.convR 3).loWait then
        let u := u.endWait .rxLo .loNotReady u.now
        let u := u.modLife ⟨.conv, 3⟩ (fun l => { l with cmd := .held, eff := .held, holdAt := none, dueAt := none, liveAt := none })
        done s ((u.modConv 3 (fun r => { r with loWait := false })).holdEffects ⟨.conv, 3⟩ .hold u.now)
      else done s u
    else
      let u := if u.fullCal then u.calAbort 5 u.now else u
      done s (if u.tx.sweep.st = .waitLock ∨ u.tx.sweep.st = .running then u.sweepEnd true .aborted else u)
  else done s u

/-- ALO_UNLOCK (R22, R42, R266): the digital window loses lock; L-band samples are INVALID, LO-mode carriers are off air from the next DAC sample, and a
hop or search to the same target follows. -/
def execAloUnlock (t alo : Nat) (m : LockMeas) (s : State) : Out :=
  let u := s.advance t
  let a := u.alo alo
  if alo ≤ 1 ∧ (a.st = .locked ∨ a.st = .ramping) ∧ u.aloLoses m = true then
    let u := ((u.modAlo alo (fun x => { x with lock := false, lost := true })).aloCond).slateDet 0x0104 (u.idOf .alo alo) []
    let u := if alo = 0 then u.loInvalid u.nextSample
      else if u.tx.claim.isSome ∧ a.ramp = [] then
        allCars.foldl (fun u x =>
          match (u.air x.1 x.2).st with
          | .onAir => u.carrierOff x.1 x.2 .loLost true u.now
          | .starting => u.modAir x.1 x.2 (fun a => { a with st := .waitLo, startAt := none })
          | .offAir => u.modAir x.1 x.2 (fun a => { a with startAt := none, cause := if a.startAt.isSome then .loLost else a.cause })
          | _ => u) u
      else u
    done s (u.aloTarget alo a.freqHz a.user)
  else done s u

/-- RAMP_SEGMENT_END (R44): DURATION has expired; the ALO hops to the next segment, or the profile ends (R273). -/
def execRampSegmentEnd (t : Nat) (s : State) : Out :=
  let u := s.advance t
  match u.aloTx.ramp[u.aloTx.seg]? with
  | some g =>
    if u.aloTx.st = .ramping ∧ u.tx.sweep.st = .running ∧ u.aloTx.segStart + g.duration * perSample ≤ u.now then
      match u.aloTx.ramp[u.aloTx.seg + 1]? with
      | some h =>
        let u := u.modAlo 1 (fun x => { x with seg := x.seg + 1 })
        let u := { u with tx := { u.tx with sweep := { u.tx.sweep with inSeg := 0 } } }
        done s (u.aloTarget 1 h.startHz u.aloTx.user)
      | none => done s (u.sweepEnd false .ok)
    else done s u
  | none => done s u

/-! ## Carriers on air (R265, R266, R280) -/

/-- A carrier rises at its boundary `b`: PA_EN is high, PA_RAMP follows the rise, CARRIER_ON (R265, R270, R271). -/
def State.carrierOn (s : State) (d : Bool) (c b : Nat) : State :=
  let full := s.yt7300 && !s.otherAir d c
  let s := s.modAir d c (fun a => { a with
    st := .onAir, startAt := none, waitEnd := none, levelTicks := 0, startTime := s.t64At b, riseAt := some b, full := full })
  let s := if d then s else s.modFcar c (fun r => { r with fm := r.fm.begin b })
  let s := { s with tx := { s.tx with
    paEn := true, paRiseAt := none, paFallAt := none, paSlope := none,
    paHighAt := if s.tx.paRamp then none else some (if s.yt7300 then b else b + perFrame) } }
  (s.slateT 0x0800 (mkId s.selfDev (carRef d c)) b []).settleAir

/-- The LO that a carrier needs is locked; in DIRECT mode it needs none. -/
def State.carLoOk (s : State) : Bool := !s.loMode || s.loReady

/-- CARRIER_START (R265): the start boundary; the RUN completes. Under DRIFT_OFF a carrier whose start falls in DRIFT is off air. -/
def execCarrierStart (d : Bool) (c : Nat) (s : State) : Out :=
  match (s.air d c).startAt with
  | none => done s s
  | some b =>
    let u := s.advance b
    if (u.air d c).st = .starting ∧ (u.air d c).startAt = some b ∧ u.carLoOk = true then
      let v := if u.driftOff then u.modAir d c (fun a => { a with st := .offAir, cause := .drift, startAt := none, waitEnd := none })
        else u.carrierOn d c b
      done s (v.endWait (waitCar d c) .ok b)
    else done s u

/-- LO_WAIT_EXPIRY (R265): the RUN completes LO_NOT_READY, and the carrier stays HELD. -/
def execLoWaitExpiry (d : Bool) (c : Nat) (s : State) : Out :=
  match (s.air d c).waitEnd with
  | none => done s s
  | some w =>
    let u := s.advance w
    if (u.air d c).st = .waitLo then
      let u := u.endWait (waitCar d c) .loNotReady w
      let u := u.modLife (carRef d c) (fun l => { l with cmd := .held, eff := .held, holdAt := none, dueAt := none, liveAt := none, viaGroup := false })
      let u := (u.modAir d c (fun a => { a with st := .idle, waitEnd := none })).releaseLo
      done s u.txcalStart
    else done s u

/-- CARRIER_RESUME (R266): an off-air carrier rises again at its boundary. -/
def execCarrierResume (d : Bool) (c : Nat) (s : State) : Out :=
  match (s.air d c).startAt with
  | none => done s s
  | some b =>
    let u := s.advance b
    if (u.air d c).st = .offAir ∧ (u.air d c).startAt = some b ∧ u.carLoOk = true ∧ u.driftOff = false then
      done s (u.carrierOn d c b)
    else done s u

/-! ## RDS on air (R257, R258) -/

/-- The start of RDS slot `k` in 1/256 ns. -/
def slotTime (k : Nat) : Nat := (rheDiv (k * 208 * 256 * 10 ^ 9 : Nat) 2375).toNat

/-- An insert's interval that covers an instant on air, `delay` cycles after the audio's (R258). -/
def AirIns.covers (a : AirIns) (delay t : Nat) : Bool :=
  decide (a.from_ + delay ≤ t) && (match a.to_ with | none => true | some e => decide (t < e + delay))

/-- The insert whose edits apply to FCAR `c` at CK_RF count `t`. -/
def State.fcarInsert (s : State) (c t : Nat) : Option AirIns :=
  match (s.fcarR c).air.delay with
  | none => none
  | some d => (s.progR (fget (s.life ⟨.fcar, c⟩).cur fcProg)).airIns.reverse.find? (fun a => a.covers d t)

/-- The radiotext of an insert in 4-character segments: ended by 0x0D, padded with spaces (R258). -/
def rtBytes (text : List Byte) : List Byte :=
  let t := text.take 64
  let t := if t.length < 64 then t ++ [0x0D] else t
  t ++ List.replicate ((4 - t.length % 4) % 4) 0x20
def rtSegments (text : List Byte) : Nat := (rtBytes text).length / 4

/-- Two bytes as an RDS word, the first in the high half. -/
def rdsPair (bs : List Byte) (i : Nat) : Word16 := BitVec.ofNat 16 ((byteAt bs i).toNat * 256 + (byteAt bs (i + 1)).toNat)

/-- Block B: type and version, TP, PTY, five low bits. -/
def rdsB (type tp pty low : Nat) : Word16 := BitVec.ofNat 16 (type % 32 * 2048 + tp % 2 * 1024 + pty % 32 * 32 + low % 32)

/-- The type and version code of a group. -/
def rdsType (words : List Word16) : Nat := (words.getD 1 0).toNat / 2048

/-- The group that fills an empty slot (R257): 0A from the service entry, with segment `seg` of PS. DI, and what the entry does not
know, are free values. -/
def fillGroup (pi : Word16) (v : Service) (seg free : Nat) : List Word16 :=
  let pty := if v.pty = 0xFF then free % 32 else v.pty
  let di := free / 32 % 2
  let ps := if v.label = [] then BitVec.ofNat 16 (free / 64) else rdsPair (v.label ++ List.replicate 8 0x20) (2 * (seg % 4))
  [pi, rdsB 0 (bitsAt v.flags 0 1) pty (bitsAt v.flags 1 1 * 16 + bitsAt v.flags 2 1 * 8 + di * 4 + seg % 4), 0xE0CD, ps]

/-- The 2A group that carries a segment of an insert's radiotext. -/
def rtGroup (pi : Word16) (v : Service) (ab : Bool) (seg free : Nat) (text : List Byte) : List Word16 :=
  let bs := rtBytes text
  let k := seg % max 1 (rtSegments text)
  [pi, rdsB 4 (bitsAt v.flags 0 1) (if v.pty = 0xFF then free % 32 else v.pty) (bit ab * 16 + k), rdsPair bs (4 * k), rdsPair bs (4 * k + 2)]

/-- The edits TA and PTY of block B (R258). -/
def editB (a : AirIns) (w : Word16) : Word16 :=
  let n := w.toNat
  let type := n / 2048
  let ta := (a.byte 8).testBit 0
  let tp := if ta then 1 else bitsAt n 10 1
  let pty := if (a.byte 8).testBit 1 then a.byte 9 else bitsAt n 5 5
  let low := if ta ∧ type ≤ 1 then n % 16 + 16 else n % 32
  rdsB type tp pty low

/-- The A/B flag of a 2A or 2B group. -/
def rdsAb (words : List Word16) : Option Bool :=
  if rdsType words = 4 ∨ rdsType words = 5 then some ((words.getD 1 0).toNat.testBit 4) else none

/-- The A/B flag of a source group inverted. -/
def flipAb (words : List Word16) : List Word16 := modAt 1 (fun w => w ^^^ 0x0010#16) words

/-- What RDS slot `k` of FCAR `c` does, at CK_RF count `t` (R257, R258). -/
def State.rdsRadiate (s : State) (c k t : Nat) (pi : Word16) : State :=
  let o : Origin := ⟨s.idOf .fmd (fget (s.life ⟨.fcar, c⟩).cur fcRdsSrc), 0⟩
  let v := s.svcOf o 0 pi.toNat
  let id := s.idOf .fcar c
  let time := slotTime k
  let ins := s.fcarInsert c t
  let before := (s.fcarR c).air.edits
  let now := match ins with | some a => [a.ins] | none => []
  -- the first edited group, and the first that no longer is
  let s := (before.filter (fun i => !now.contains i)).foldl (fun s i =>
    s.slateAt 0x0807 id time 0 (leBytes 1 i ++ leBytes 8 (t64Of256 time).toNat)) s
  let s := (now.filter (fun i => !before.contains i)).foldl (fun s i =>
    s.slateAt 0x0806 id time 0 (leBytes 1 i ++ leBytes 8 (t64Of256 time).toNat)) s
  let r := s.fcarR c
  let rt := match ins with | some a => (a.byte 8).testBit 2 | none => false
  let began := now ≠ before
  let r := { r with
    air := { r.air with edits := now }, slots := if began then 1 else r.slots + 1, rtSeg := if began then 0 else r.rtSeg,
    invert := if rt then some r.srcAb else r.invert }
  -- source radiotext and its partner are left out while the insert's is radiated
  let isRt (g : Nat × List Word16 × Bool) : Bool := rdsType g.2.1 == 4 || rdsType g.2.1 == 5 || rdsType g.2.1 == 20
  let dropped := if rt then r.queue.filter (fun (g : Nat × List Word16 × Bool) => decide (g.1 ≤ k) && isRt g) else []
  let r := { r with
    srcAb := (dropped.filterMap (fun (g : Nat × List Word16 × Bool) => rdsAb g.2.1)).getLast?.getD r.srcAb,
    queue := if rt then r.queue.filter (fun g => !(decide (g.1 ≤ k) && isRt g)) else r.queue }
  let edit (ws : List Word16) : List Word16 := match ins with | some a => modAt 1 (editB a) ws | none => ws
  let free := s.fresh.1
  let x : FcarRun :=
    match ins with
    | some a =>
      if rt && r.slots % 2 == 0 then
        { r with rtSeg := r.rtSeg + 1, last := edit (rtGroup pi v (!r.srcAb) r.rtSeg free a.text), lastPrime := false }
      else match r.queue with
        | g :: rest =>
          if g.1 ≤ k then { r with queue := rest, last := edit g.2.1, lastPrime := g.2.2, srcAb := (rdsAb g.2.1).getD r.srcAb }
          else { r with fill := satU 16 (r.fill + 1), seg := (r.seg + 1) % 4, last := edit (fillGroup pi v r.seg free), lastPrime := false }
        | [] => { r with fill := satU 16 (r.fill + 1), seg := (r.seg + 1) % 4, last := edit (fillGroup pi v r.seg free), lastPrime := false }
    | none =>
      match r.queue with
      | g :: rest =>
        if g.1 ≤ k then
          match rdsAb g.2.1, r.invert with
          | some ab, some old =>
            if ab = old then { r with queue := rest, last := flipAb g.2.1, lastPrime := g.2.2 }
            else { r with queue := rest, last := g.2.1, lastPrime := g.2.2, srcAb := ab, invert := none }
          | some ab, none => { r with queue := rest, last := g.2.1, lastPrime := g.2.2, srcAb := ab }
          | none, _ => { r with queue := rest, last := g.2.1, lastPrime := g.2.2 }
        else { r with fill := satU 16 (r.fill + 1), seg := (r.seg + 1) % 4, last := fillGroup pi v r.seg free, lastPrime := false }
      | [] => { r with fill := satU 16 (r.fill + 1), seg := (r.seg + 1) % 4, last := fillGroup pi v r.seg free, lastPrime := false }
  s.fresh.2.modFcar c (fun _ => ({ x with rdsOn := true, lastSlot := k, fm := r.fm.send k x.last x.lastPrime } : FcarRun).trim k)

/-- RDS_SLOT (R257, R258): the grid slot that begins at `t`. The subcarrier is off until the source's PI is confirmed; a slot in which
no group is radiated loses the groups that it would have carried. -/
def execRdsSlot (t c : Nat) (s : State) : Out :=
  let u := s.advance t
  let b := (u.life ⟨.fcar, c⟩).cur
  let src := fget b fcRdsSrc
  let k := (u.timeAt u.now * 2375 * 2 + 208 * 256 * 10 ^ 9) / (2 * 208 * 256 * 10 ^ 9)
  if u.running .fcar c then
    match (u.fmdR src).piConf with
    | some pi =>
      if (u.fcarR c).air.st = .onAir ∧ src < 32 ∧ fbit b fcMono = false then done s (u.rdsRadiate c k u.now pi)
      else done s (u.modFcar c (fun r => { r with rdsOn := false, lastSlot := k, queue := r.queue.filter (fun g => decide (k < g.1)) }))
    | none => done s (u.modFcar c (fun r => { r with rdsOn := false, lastSlot := k, queue := r.queue.filter (fun g => decide (k < g.1)) }))
  else done s u

/-! ## Levels (R249, R251) -/

/-- The level that LEVEL sets, in 1/16 dBm (R249). -/
def levelSet (b : Blk) : Int := -160 - 2 * (fget b fcLevel : Int)

/-- A measured level lies within ±0.5 dB of its setting. -/
def levelOk (b : Blk) (m : Int) : Bool := decide ((m - levelSet b).natAbs ≤ 8)

/-- LEVEL_OUT (R249): 16 ticks in a row outside ±0.5 dB. -/
def execLevelOut (t : Nat) (d : Bool) (c : Nat) (s : State) : Out :=
  let u := s.advance t
  if (u.air d c).st = .onAir ∧ 16 ≤ (u.air d c).levelTicks then
    done s ((u.modAir d c (fun a => { a with levelOut := true })).levelCond)
  else done s u

/-- The carrier's part of a management tick: measured level, MER_TX, peak deviation, the least SLACK. -/
def State.tickCar (i : TickIn) (s : State) (x : Bool × Nat) : State :=
  let j := if x.1 then 24 + x.2 else x.2
  let b := (s.life (carRef x.1 x.2)).cur
  if (s.air x.1 x.2).st = .onAir then
    let m := i.levels.getD j (levelSet b)
    let s := s.modAir x.1 x.2 (fun a => { a with
      levelMeas := m, merTx := i.mers.getD j 0, levelTicks := if levelOk b m then 0 else a.levelTicks + 1,
      levelOut := a.levelOut && !levelOk b m })
    let s := s.tickTrim x.1 x.2 (levelSet b - m)
    if x.1 then s.modDcar x.2 (fun r => { r with slack := r.slackNow.getD r.slack, slackNow := none })
    else s.modFcar x.2 (fun r => { r with dev := r.fm.peak * 1500 / 2 ^ 24, fm := { r.fm with peak := 0 } })
  else s

/-- The composer's part of a management tick (R249, R251, R269). -/
def State.tickTx (s : State) (i : TickIn) : State :=
  let s := (List.range 24).foldl State.fmRun s
  let s := { s with tx := { s.tx with dacClip := satU 16 (s.tx.dacClip + s.dacClips) } }
  let s := (allCars.foldl (State.tickCar i) s).levelCond
  s.txcalStart

/-! ## Transmit calibration (R269, R413, R414) -/

/-- The LIMIT_ID of the first row of R414 that a transmit result breaks: 5 leakage, 6 gain and phase, 7 residuals. -/
def txLimit (m : CalMeas) (factory : List Int) (last : Option (List Int)) : Option Nat :=
  let v (j : Nat) : Int := m.vals.getD j 0
  let near (l : List Int) (j lim : Nat) : Bool := decide ((v j - l.getD j 0).natAbs ≤ lim)
  let vsLast (ok : List Int → Bool) : Bool := match last with | none => true | some l => ok l
  let gain (l : List Int) (num den : Nat) : Bool := withinDb (gainOf (v 2)) (gainOf (l.getD 2 0)) num den
  if !(near factory 0 1024 && near factory 1 1024 && vsLast (fun l => near l 0 128 && near l 1 128)) then some 5
  else if !(gain factory 1 1 && near factory 3 5000 && vsLast (fun l => gain l 1 5 && near l 3 1000)) then some 6
  else if -600 < m.spur ∨ -550 < m.image then some 7
  else none

/-- The results of a transmit run are checked, and applied for its band or discarded (R413 to R415). -/
def State.txcalResult (s : State) (band : Nat) (m : CalMeas) : State :=
  let u := s.unit 5
  let four (l : List Int) : List Int := (l.drop (4 * band)).take 4
  let last := (u.temps.getD band none).map (fun _ => four u.newest)
  match txLimit m (four (s.cal.factory.getD 5 [])) last with
  | none =>
    let vals := u.newest.take (4 * band) ++ fitVals m.vals ++ u.newest.drop (4 * band + 4)
    s.calPass 5 band 0xFFFF s.now vals
  | some k => s.calEnd 5 .limit k s.now
where
  fitVals (l : List Int) : List Int := (List.range 4).map (fun j => l.getD j 0)

/-- TXCAL_IN_SERVICE (R269, R413): 64 silent null symbols have been accumulated. A run that no trigger asked for carries a TRIGGER that
the manual does not state. -/
def execTxcalInService (t nulls : Nat) (m : CalMeas) (s : State) : Out :=
  let u := s.advance t
  if u.loMode && decide (64 ≤ nulls) && decide (64 ≤ u.tx.nulls) && u.dcar.any (fun o => o.run.air.st == .onAir) then
    let u := { u with tx := { u.tx with nulls := 0 } }
    let band := u.txBand
    let trig := match u.fresh.1 % 4 with | 0 => CalTrigger.command | 1 => .temp | 2 => .age | _ => .start
    let u := u.fresh.2
    let u := u.modUnit 5 (fun c => { c with run := some (match c.run with
      | some r => { r with start := u.t64, temp := u.unitTemp 5, band := band, stage := .measuring }
      | none => ⟨trig, .measuring, false, u.unitTemp 5, u.t64, u.now, band, 0, 0⟩) })
    done s (u.txcalResult band m).txcalCond
  else done s u

/-- TXCAL_FULL_END (R269): a FULL calibration ends; ALO_TX serves the carriers that waited for it. -/
def execTxcalFullEnd (t : Nat) (m : CalMeas) (s : State) : Out :=
  let u := s.advance t
  match (u.unit 5).run with
  | some r =>
    if r.stage = CalStage.measuring then done s ((u.txcalResult r.band m).loFree.txcalCond) else done s u
  | none => done s u

/-! ## Amplifier pins (R270, R271) -/

/-- PA_EN_RISE. -/
def execPaEnRise (s : State) : Out :=
  match s.tx.paRiseAt with
  | none => done s s
  | some t =>
    let u := s.advance t
    done s { u with tx := { u.tx with paEn := u.tx.paEn || u.tx.paRiseAt.isSome, paRiseAt := none } }

/-- PA_EN_FALL. -/
def execPaEnFall (s : State) : Out :=
  match s.tx.paFallAt with
  | none => done s s
  | some t =>
    let u := s.advance t
    match u.tx.paFallAt with
    | none => done s u
    | some _ => done s { u with tx := { u.tx with paEn := false, paRamp := false, paSlope := none, paFallAt := none } }

/-- YT7300_RAMP (R271): the pulse-density ramp over RAMP_T before the first start, or after the last fall. -/
def execYt7300Ramp (t : Nat) (up : Bool) (s : State) : Out :=
  let u := s.advance t
  if u.yt7300 && (if up then !u.anyOnAir && (u.fcar.any (fun o => o.run.air.startAt.isSome) || u.dcar.any (fun o => o.run.air.startAt.isSome))
      else !u.anyOnAir && u.tx.paFallAt.isSome) then
    done s { u with tx := { u.tx with paSlope := some (u.now + u.rampT, up), paRamp := false } }
  else done s u

/-! ## The feeder sweep (R272 to R275) -/

/-- The sweep has its grant: ALO_TX goes to the first segment. -/
def State.sweepGo (s : State) : State :=
  match s.aloTx.ramp.head? with
  | none => s
  | some g =>
    let s := { s with tx := { s.tx with sweep := { s.tx.sweep with st := .waitLock } } }
    s.aloTarget 1 g.startHz (s.idOf .alo 1)

/-- CX_GRANT. -/
def execCxGrant (t : Nat) (s : State) : Out :=
  let u := s.advance t
  let u := { u with tx := { u.tx with cxGnt := true } }
  done s (if u.tx.sweep.st = .waitGrant then u.sweepGo else u)

/-- CX_WAIT_EXPIRY: no grant within CX_WAIT. -/
def execCxWaitExpiry (t : Nat) (s : State) : Out :=
  let u := s.advance t
  done s (if u.tx.sweep.st = .waitGrant ∧ u.tx.sweep.waitEnd ≤ u.now then u.sweepEnd true .timeout else u)

/-- CX_GNT_FALL: ALO_TX is muted at the next Plain sample, and the sweep ends. -/
def execCxGntFall (t : Nat) (s : State) : Out :=
  let u := s.advance t
  let u := { u with tx := { u.tx with cxGnt := false } }
  done s (if fbit u.tx.profile txCxEn ∧ (u.tx.sweep.st = .waitLock ∨ u.tx.sweep.st = .running) then u.sweepEnd true .aborted else u)

/-- A frequency lies within 1 MHz of the band of a running carrier (R275). -/
def State.sweepBlocked (s : State) (hz : Nat) : Bool :=
  allCars.any (fun x =>
    s.running (carRef x.1 x.2).kind x.2 && decide (dist hz (carFreq (s.life (carRef x.1 x.2)).cur) ≤ halfWidth x.1 + 1000000))

/-- SWEEP_POINT (R273, R275): the point that ends here is measured. Records of 32 points are written when the next point comes, so
that the last record can carry LAST. -/
def execSweepPoint (t : Nat) (i : SweepIn) (s : State) : Out :=
  let u := s.advance t
  let w := u.tx.sweep
  let n := 2 ^ w.avg
  match u.aloTx.ramp[u.aloTx.seg]? with
  | some g =>
    if w.st = .running ∧ u.aloTx.st = .ramping ∧ (w.inSeg + 1) * n ≤ g.duration ∧
        u.aloTx.segStart + (w.inSeg + 1) * n * perSample ≤ u.now then
      let mid := w.inSeg * n + n / 2
      let hz := (rheDiv (g.startHz * 256 + g.slope * mid) 256).toNat
      let rl := -8 * (w.level : Int) - w.srcLoss - (i.power + w.coupling)
      let flags := bit (u.sweepBlocked hz) + 2 * bit i.clip + 4 * bit i.floor
      let point := leBytes 4 hz ++ leBytes 2 (unsignedOf 16 rl) ++ leBytes 2 (unsignedOf 16 i.phase) ++ leBytes 1 flags ++ zeros 3
      let u := if w.part.length = 32 then u.sweepFlush false false else u
      let w := u.tx.sweep
      let first := w.part.isEmpty
      let w := { w with
        points := w.points + 1, inSeg := w.inSeg + 1, part := w.part ++ [point],
        partFirst := if first then w.points else w.partFirst,
        partTime := if first then u.t64At (u.aloTx.segStart + mid * perSample) else w.partTime }
      done s { u with tx := { u.tx with sweep := w } }
    else done s u
  | none => done s u

/-- SWEEP_START (R272 to R274). -/
def cmdSweepStart (d : Desc) (s : State) : CmdResult :=
  let b (k : Nat) : Nat := d.inlByte k
  let ring := s.ring (b 0)
  let segs := rampOf 64 d.bytes
  let lo : Bool := s.loMode && (s.anyCarrier || s.tx.claim.isSome)
  if 63 < b 0 ∨ ring.kind.toNat ≠ kIqcap then s.bad 24
  else if 80 < b 2 then s.bad 26
  else if b 3 < 6 ∨ 14 < b 3 then s.bad 27
  else if 768 < d.plen.toNat ∨ ring.bufSize < 416 then s.fail .lengthExceeds
  else if d.plen.toNat < 12 ∨ d.plen.toNat % 12 ≠ 0 then s.bad 12
  else if segs.isEmpty then s.bad 72
  else match (indexed 0 segs).find? (fun x => !x.2.passes 30000000 245000000) with
  | some (i, _) => s.bad (64 + 12 * i)
  | none =>
    let inD := (s.life ⟨.conv, 3⟩)
    if fbit inD.blk cvLband || inD.cmd != .run || s.sweeping || lo then s.fail .notPermitted
    else
      let en := fbit s.tx.profile txCxEn
      let w : Sweep := { Sweep.reset with
        st := .waitGrant, ring := b 0, prio := (b 1).testBit 0, level := b 2, avg := b 3, coupling := d.inlAt 4 2, srcLoss := d.inlAt 6 2,
        waitEnd := s.now + fget s.tx.profile txCxWait * 983040 }
      let s := { s with tx := { s.tx with sweep := w, cxReq := en, cxPrio := en && w.prio } }
      let s := s.modAlo 1 (fun x => { x with ramp := segs, seg := 0 })
      let s := if !en || s.tx.cxGnt then s.sweepGo else s
      { s.okCmd with wait := some (.sweep, true) }

/-! ## Checks of the carriers (R247, R249, R250, R263, R276 to R278) -/

/-- 10^(-1/80) and 1 mW, as multiples of 10^-60: the power ratio of one step of LEVEL (R249). -/
def levelStep : Nat := 971627951577106174167342866169
def levelPower (level : Nat) : Nat := (10 ^ 60 / 10) * levelStep ^ (level % 80) / 10 ^ (30 * (level % 80)) / 10 ^ (level / 80)

/-- The ceiling of -3 dBm in the same unit: 10^-0.3 mW. -/
def levelCeiling : Nat := 501187233627272285001554186884945768060471989832819263929697

/-- The summed power of the carriers in RUN, one of them set to a level (R249). -/
def State.ceilingOk (s : State) (d : Bool) (c level : Nat) : Bool :=
  let others := (allCars.filter (fun x => x != (d, c))).map (fun x =>
    let l := s.life (carRef x.1 x.2)
    if l.cmd = .run then levelPower (fget l.blk fcLevel) else 0)
  decide (others.sum + levelPower level ≤ levelCeiling)

/-- A carrier frequency lies within the output mode's range (R247). -/
def State.carFreqOk (s : State) (d : Bool) (b : Blk) : Bool :=
  let f := carFreq b
  if s.loMode then
    let lo := carLoKhz b * 1000
    decide (1000000 ≤ dist f lo) && decide (dist f lo + halfWidth d ≤ 200000000)
  else decide (30000000 ≤ f ∧ f ≤ 400000000)

/-- LO_KHZ counts in LO mode only (R276). -/
def State.carLoOkField (s : State) (b : Blk) : Bool := !s.loMode || decide (30000 ≤ carLoKhz b ∧ carLoKhz b ≤ 1500000)

/-- Every check of CARRIER_SET, in the order of the block (R276, R277). -/
def State.carrierChecks (s : State) (d : Bool) (b : Blk) : List (Field × Bool) :=
  let freq := (fcFreq, s.carFreqOk d b || !s.carLoOkField b)
  if d then
    [freq, (dcSource, fget b dcSource == 0 || (s.idValid (BitVec.ofNat 32 (fget b dcSource)) && idKind (BitVec.ofNat 32 (fget b dcSource)) == Kind.ee.code)),
     (dcLevel, !badCode b dcLevel), (dcLoWait, decide (1 ≤ fget b dcLoWait)), (dcDelay, !badCode b dcDelay),
     (dcTiiMain, !fbit b dcTiiEn || !badCode b dcTiiMain),
     (dcTiiSub, !fbit b dcTiiEn || (!badCode b dcTiiSub && decide (1 ≤ fget b dcTiiSub))), (dcLoKhz, s.carLoOkField b),
     (dcCluster, decide (1 ≤ fget b dcCluster ∧ fget b dcCluster ≤ 254))]
  else
    [freq, (fcProg, decide (fget b fcProg < 64 ∨ fget b fcProg = 0x7F)),
     (fcRdsSrc, decide (fget b fcRdsSrc < 32 ∨ fget b fcRdsSrc = 0xFF)), (fcPreemph, !badCode b fcPreemph),
     (fcLoWait, decide (1 ≤ fget b fcLoWait)), (fcLevel, !badCode b fcLevel), (fcDev, decide (40 ≤ fget b fcDev ∧ fget b fcDev ≤ 100)),
     (fcPilot, !badCode b fcPilot), (fcRdsDev, decide (1 ≤ fget b fcRdsDev ∧ fget b fcRdsDev ≤ 40)), (fcLoKhz, s.carLoOkField b)]

/-- A carrier overlaps another one in RUN (R250). -/
def State.carOverlaps (s : State) (d : Bool) (c : Nat) (b : Blk) : Bool :=
  allCars.any (fun x =>
    let l := s.life (carRef x.1 x.2)
    x != (d, c) && decide (l.cmd = .run) && decide (dist (carFreq b) (carFreq l.blk) < halfWidth d + halfWidth x.1))

/-- A carrier's programme or engine is there (R278). -/
def State.carSourceOk (s : State) (d : Bool) (b : Blk) : Bool :=
  if d then
    let src : Id := BitVec.ofNat 32 (fget b dcSource)
    match s.refOf src with
    | some ⟨.ee, e⟩ => decide ((s.life ⟨.ee, e⟩).cmd ≠ .closed) && fget (s.life ⟨.ee, e⟩).blk eeStd == 0
    | _ => !s.idLocal src && s.idValid src && idKind src == Kind.ee.code
  else
    let p := fget b fcProg
    let q := fget b fcRdsSrc
    decide (p < 64) && decide ((s.life ⟨.prog, p⟩).cmd ≠ .closed) && (q == 0xFF || decide ((s.life ⟨.fmd, q⟩).cmd ≠ .closed))

/-- What OBJ_RUN of a carrier tests (R265, R278). -/
def State.carrierRunCheck (s : State) (d : Bool) (c : Nat) : Status :=
  let b := (s.life (carRef d c)).blk
  let lo := s.loMode && allCars.any (fun x =>
    let l := s.life (carRef x.1 x.2)
    x != (d, c) && decide (l.cmd = .run) && carLoKhz l.blk != carLoKhz b)
  if !s.carSourceOk d b || !s.carFreqOk d b || !s.carLoOkField b || s.carOverlaps d c b || lo then .badParam
  else if !s.ceilingOk d c (fget b fcLevel) then .resourcesExhausted
  else if d && decide ((s.inContexts (BitVec.ofNat 32 (fget b dcSource)) [] (substStatic b)).length < (substStatic b).length) then
    .resourcesExhausted
  else .ok

/-! ## Query (R279) -/

/-- A span of CK_RF cycles in 0.1 µs. -/
def tenthUs (c : Nat) : Nat := c * 10000 / 983040

/-- The 32 bytes of a carrier's query. -/
def State.carrierQuery (s : State) (d : Bool) (c : Nat) : List Byte :=
  let l := s.life (carRef d c)
  let a := s.air d c
  let st := if l.eff = .run then (match a.st with | .waitLo => 2 | .offAir => 4 | _ => 3)
    else if l.cmd = .closed ∧ l.eff = .closed then 0 else 1
  let lim := d && (s.dcarR c).substLimit
  let cnt := if d then ((s.dcarR c).count, (s.dcarR c).slack, (s.dcarR c).figDefer, (s.dcarR c).late)
    else ((s.fcarR c).dev, 0, (s.fcarR c).fill, (s.fcarR c).drop)
  leBytes 1 st ++ leBytes 1 (bit a.short + 2 * bit (!a.edits.isEmpty) + 4 * bit lim + 8 * bit a.levelOut) ++
  leBytes 2 (unsignedOf 16 a.levelMeas) ++ leBytes 2 (unsignedOf 16 a.merTx) ++ leBytes 2 cnt.1 ++ leBytes 4 (tenthUs (a.delay.getD 0)) ++
  leBytes 4 cnt.2.1 ++ leBytes 2 cnt.2.2.1 ++ leBytes 2 cnt.2.2.2 ++ leBytes 2 s.tx.dacClip ++ zeros 2 ++ leBytes 8 a.startTime.toNat

/-- The counters that a carrier's query clears. -/
def State.carrierQueried (s : State) (d : Bool) (c : Nat) : State :=
  let s := if d then s.modDcar c (fun r => { r with figDefer := 0, late := 0 }) else s.modFcar c (fun r => { r with fill := 0, drop := 0 })
  { s with tx := { s.tx with dacClip := 0 } }

end Sys2Proof.Machine
end

