-- ==== Sys2Proof/Machine/Cascade.lean ====
section
/-! DEFINITION. The cascade over the Hihanan Link: ports, election, Clapper and time agreement, joining, fencing, items, epochs, failover and the commands (R304 to R334). -/
namespace Sys2Proof.Machine
open Sys2Proof

/-! ## Roles and tables (R308, R323) -/

def State.modCas (s : State) (f : Cas → Cas) : State := { s with cas := f s.cas }
def State.isMaster (s : State) : Bool := decide (s.cas.st = .member ∧ s.cas.self = s.cas.master)
def State.isDeputy (s : State) : Bool := decide (s.cas.st = .member ∧ s.cas.self = s.cas.deputy ∧ s.cas.self ≠ s.cas.master)

/-- The port. -/
def State.hhl (s : State) (p : HhlPort) : HhlSt := match p with | .up => s.cas.up | .dn => s.cas.dn
def State.modHhl (s : State) (p : HhlPort) (f : HhlSt → HhlSt) : State :=
  match p with
  | .up => s.modCas (fun c => { c with up := f c.up })
  | .dn => s.modCas (fun c => { c with dn := f c.dn })
def hhlPoint : HhlPort → Nat | .up => 8 | .dn => 9
def hhlCode : HhlPort → Nat | .up => 0 | .dn => 1

/-- A cascade slate with the time of detection (R334). -/
def State.casSlate (s : State) (code : Nat) (items : List Byte) : State := s.slateDet code s.devId items

/-- DIGEST of tables: what changes without an epoch, such as fences and measured errors, is left out (R323). -/
def digestOf (t : CasTables) : Word64 :=
  Config.digest { t with members := t.members.map (fun m =>
    { m with st := if m.st = 2 then 1 else m.st, cause := 0, e := 0, d := 0, major := 0, minor := 0 }) }

/-- One entry of the cascade table changed. -/
def setMember (t : CasTables) (i : Nat) (f : CasEntry → CasEntry) : CasTables := { t with members := modAt i f t.members }

def State.hhlConds (s : State) : State := s.setCond fHhlDown (s.cas.up.down || s.cas.dn.down)

/-! ## Fences (R317, R325, R326) -/

/-- Causes of a fence in the coding of R333. -/
def fenceConfig : Nat := 1
def fenceTime : Nat := 2
def fenceRole : Nat := 3

/-- The member is FENCED; a slate from a Clapper carries the tick boundary that it marks, any other the time of detection. -/
def State.fenceFor (s : State) (cause : Nat) (tickAt : Option Nat) : State :=
  if s.cas.st ≠ .member ∨ s.cas.fence.isSome = true then s
  else
    let s := s.modCas (fun c => { c with
      fence := some cause, good := 0, matching := 0,
      tables := setMember c.tables c.self (fun m => { m with st := 2, cause := cause }) })
    let s := s.setCond fCasFenced true
    match tickAt with
    | some t => s.slateT 0x0903 s.devId t (leBytes 1 cause)
    | none => s.casSlate 0x0903 (leBytes 1 cause)

/-- The fence ends. -/
def State.unfence (s : State) : State :=
  if s.cas.fence.isNone then s
  else
    let s := s.modCas (fun c => { c with
      fence := none, fenceHard := false,
      tables := setMember c.tables c.self (fun m => { m with st := 1, cause := 0 }) })
    (s.setCond fCasFenced false).casSlate 0x0904 []

/-- CAS_UNFENCE (R317, R325): 16 good ticks end a fence for time, 4 matching ones a fence for the configuration; a fence for more
than 1 ms, or for the index, stays. -/
def execCasUnfence (t : Nat) (s : State) : Out :=
  let u := s.advance t
  match u.cas.fence with
  | some c =>
    if !u.cas.fenceHard && ((c == fenceConfig && decide (4 ≤ u.cas.matching)) || (c == fenceTime && decide (16 ≤ u.cas.good)) ||
        (c == fenceRole && u.cas.election.isNone)) then done s u.unfence
    else done s u
  | none => done s u

/-- CONFIG_MISMATCH (R325). -/
def execConfigMismatch (t : Nat) (s : State) : Out :=
  let u := s.advance t
  done s (if 2 ≤ u.cas.mismatch ∧ u.isMaster = false then u.fenceFor fenceConfig none else u)

/-! ## The ports (R304, R34) -/

/-- The crossings of a port are flushed: the next record of each source of another member carries DISCONT (R34). -/
def State.hhlFlush (s : State) (p : HhlPort) : State :=
  let s := { s with clk := { s.clk with flushes := modAt (4 + hhlCode p) (· + 1) s.clk.flushes } }
  ({ s with host := { s.host with rings := s.host.rings.map (fun r =>
    { r with streams := r.streams.map (fun x =>
        if x.key < 2 ^ 32 ∧ x.key / 2 ^ 24 ≠ 0xFF then ⟨x.key, 0, true, x.dropped⟩ else x) }) } } : State).setFlag fCrossFlush

/-- HHL_TRAINED: all four lanes hold block lock and deskew. -/
def execHhlTrained (t : Nat) (p : HhlPort) (s : State) : Out :=
  let u := s.advance t
  let h := u.hhl p
  if h.asked && !h.trained then
    let v := (u.modHhl p (fun h => { h with trained := true, down := false })).hhlConds
    let v := if h.down then v.hhlFlush p else v
    done s (v.casSlate 0x0908 (leBytes 1 (hhlCode p) ++ leBytes 1 1))
  else done s u

/-- HHL_DOWN: the lanes have lost block lock for 2 µs; the port retrains without a command. -/
def execHhlDown (t : Nat) (p : HhlPort) (s : State) : Out :=
  let u := s.advance t
  if (u.hhl p).trained then
    let v := (u.modHhl p (fun h => { h with trained := false, down := true, t1 := none, streams := [] })).hhlConds
    done s (v.casSlate 0x0908 (leBytes 1 (hhlCode p) ++ leBytes 1 0))
  else done s u

/-! ## Groups (R366, R372) -/

def State.group (s : State) (g : Nat) : Group := (s.host.groups[g]?).getD ⟨false, [], []⟩
def State.modGroup (s : State) (g : Nat) (f : Group → Group) : State :=
  { s with host := { s.host with groups := modAt g f s.host.groups } }

/-- The group is removed from every group that holds it, and closed. -/
def State.groupClose (s : State) (g : Nat) : State :=
  let me (i : Id) : Bool := s.refOf i == some ⟨.group, g⟩
  let s := { s with host := { s.host with groups := s.host.groups.map (fun (x : Group) => { x with members := x.members.filter (fun i => !me i) }) } }
  s.modGroup g (fun x => { x with defined := false, members := [] })

/-! ## Epochs (R322 to R324) -/

/-- The tick count of the next Clapper: the present tick's at its boundary, else the next one's. -/
def State.clapTick (s : State) : Nat := if s.now % perTick = 0 then s.tick else s.tick + 1

/-- The master advances the epoch with new tables, or queues them behind a pending change (R324). -/
def State.epochAdvance (s : State) (t : CasTables) : State :=
  match s.cas.next with
  | some _ => s.modCas (fun c => { c with queued := c.queued ++ [t] })
  | none =>
    s.modCas (fun c => { c with
      next := some ⟨(c.epoch + 1) % 2 ^ 32, s.clapTick + 8, t⟩, sent := c.sent ++ [.tables t ((c.epoch + 1) % 2 ^ 32)] })

/-- The tables that a further change builds on. -/
def State.latestTables (s : State) : CasTables :=
  match s.cas.queued.getLast?, s.cas.next with
  | some t, _ => t
  | none, some n => n.tables
  | none, none => s.cas.tables

/-- The mirrors that a table asks this device for, as PROG numbers (R322). -/
def State.mirrorsOf (s : State) (t : CasTables) : List Nat :=
  (t.items.filter (fun i => i.isMirror && i.to_ == s.cas.self)).map (fun i => idIdx i.toObj)

/-- A mirror opens in RUN with the reset fields. DESIGN CHOICE (log 76): one whose unit would take the programmes in RUN past 128 stays
CLOSED (R13). -/
def State.openMirror (s : State) (p : Nat) : State :=
  if 128 < s.unitsUsed p + 1 then s else
  let s := s.modLife ⟨.prog, p⟩ (fun l => if l.cmd = .closed then
    { Life.at .run (resetBlk .prog) with mirror := true, s0 := s.index } else l)
  let a := progAmp (resetBlk .prog)
  s.modProg p (fun r => { ProgRun.reset with units := 1, gain := ⟨a, a, s.now / perFrame⟩, conceal := r.conceal, muted := r.muted, follow := { Follow.reset with policy := r.follow.policy, hostList := r.follow.hostList } })
/-- A mirror closes. -/
def State.closeMirror (s : State) (p : Nat) : State :=
  if (s.life ⟨.prog, p⟩).mirror then s.closeNow0 ⟨.prog, p⟩ s.now else s

/-- Tables come into force with their epoch. -/
def State.epochApply (s : State) (t : CasTables) (epoch : Nat) : State :=
  let before := s.mirrorsOf s.cas.tables
  let gone := s.cas.tables.groups.map Prod.fst
  let after := s.mirrorsOf t
  let keep (i : Nat) (m : CasEntry) : CasEntry :=
    match s.cas.tables.members[i]? with
    | some o => if m.st = 1 ∧ o.serial = m.serial then { m with st := if o.st = 2 then 2 else 1, cause := if o.st = 2 then o.cause else 0, e := o.e, d := o.d } else m
    | none => m
  let t' := { t with members := (indexed 0 t.members).map (fun x => keep x.1 x.2) }
  let s := s.modCas (fun c => { c with tables := t', epoch := epoch, next := none })
  let s := t.groups.foldl (fun s g => s.modGroup g.1 (fun h => { h with defined := true, members := g.2 })) s
  let s := (gone.filter (fun g => !t.groups.any (fun x => x.1 == g))).foldl State.groupClose s
  let s := (before.filter (fun p => !after.contains p)).foldl State.closeMirror s
  (after.filter (fun p => !before.contains p)).foldl State.openMirror s

/-- EPOCH_APPLY (R324): at the announced tick; changes that waited are announced for the epoch that follows. -/
def execEpochApply (t : Nat) (s : State) : Out :=
  match s.cas.next with
  | none => done s (s.advance t)
  | some n =>
    let u := s.advance (max t (n.tick * perTick))
    match u.cas.next with
    | none => done s u
    | some n =>
      let u := u.epochApply n.tables n.epoch
      let u := u.casSlate 0x0906 (leBytes 4 n.epoch ++ leBytes 8 (digestOf n.tables).toNat)
      match u.cas.queued with
      | q :: rest => done s ((u.modCas (fun c => { c with queued := rest })).epochAdvance q)
      | [] => done s u

/-! ## Leaving and failing joins (R330, R331) -/

/-- The results of a join, in the chapter's order: JOINED, VERSION, TIMEOUT, FULL, REF_MISMATCH. -/
def joinSlate (s : State) (result index role : Nat) : State :=
  s.casSlate 0x0900 (leBytes 1 result ++ leBytes 1 index ++ leBytes 1 role)

/-- The device stands alone again. -/
def State.casAlone (s : State) : State :=
  let s := (s.mirrorsOf s.cas.tables).foldl State.closeMirror s
  let s := s.modCas (fun c => { Cas.reset with sent := c.sent })
  ((s.setCond fCasFenced false).hhlConds)

/-- A join fails. -/
def State.joinFails (s : State) (result : Nat) : State := joinSlate s.casAlone result 0xFF 0xFF

/-- The role of this device: 0 master, 1 deputy, 2 member. -/
def State.roleCode (s : State) : Nat := if s.isMaster then 0 else if s.isDeputy then 1 else 2

/-- A present member's mark in tables, for a loss (ABSENT, 3) or a leave (FREE, 0). -/
def State.without (s : State) (i st : Nat) : CasTables :=
  let t := s.latestTables
  setMember t i (fun m => if st = 0 then {} else { m with st := st, cause := 0 })

/-- The second arbitration opens on CLAP (R311, R327). -/
def State.deputyElection (s : State) : State := s.modCas (fun c => { c with election := some ⟨s.now, true, false⟩, deputy := 0xFF })

/-- The deputy becomes master (R327): old master, last mirrored tag, vector 0. -/
def State.takeOver (s : State) (lost : Bool) : State :=
  let old := s.cas.master
  let s := s.modCas (fun c => { c with master := c.self, hbMissed := 0 })
  let s := (s.casSlate 0x0902 (leBytes 1 old ++ leBytes 2 s.cas.lastTag.toNat)).signalVec 0
  (s.epochAdvance (s.without old (if lost then 3 else 0))).deputyElection

/-- The device leaves the cascade at tick B + 1 (R331). -/
def State.casLeave (s : State) : State := s.casAlone

/-! ## Election (R310, R311) -/

/-- The device may become master: MSTR_PRI is not 0, and it is a member, or a joining device that may form a cascade. -/
def State.mayMaster (s : State) : Bool :=
  decide (s.straps.mstrPri ≠ 0) && (decide (s.cas.st = .member) || (decide (s.cas.st = .joining) && s.cas.form))

/-- 8 bit times of CLAP. -/
def eightBits : Nat := 8 * 2048

/-- The device pulls CLAP low for 8 bit times. -/
def State.pullClap (s : State) : State :=
  s.modCas (fun c => { c with clapLow := true, election := some ⟨s.now + eightBits, false, true⟩ })

/-- ELECTION_START (R310): two ticks without Clapper or tick mark. -/
def execElectionStart (t : Nat) (s : State) : Out :=
  let u := s.advance t
  if u.mayMaster && u.cas.election.isNone && decide (2 ≤ u.cas.quiet) then done s u.pullClap else done s u

/-- ELECTION_DETECT (R310, R312): a low phase longer than 4 µs. -/
def execElectionDetect (t low : Nat) (s : State) : Out :=
  let u := s.advance t
  if u.cas.st = .alone ∨ low < 3933 ∨ u.cas.election.isSome = true then done s u
  else if u.mayMaster then done s u.pullClap
  else done s (u.modCas (fun c => { c with election := some ⟨u.now + eightBits, false, false⟩ }))

/-- The first of two devices wins: the higher MSTR_PRI, then the lower serial number (R311). -/
def beats (a b : Nat × Nat) : Bool := decide (b.1 < a.1) || (a.1 == b.1 && decide (a.2 < b.2))

/-- This device in an arbitration. -/
def State.bid (s : State) : Nat × Nat := (s.straps.mstrPri.toNat, s.fuses.serial.toNat)

/-- The index of a serial number in the cascade table. -/
def casIndexOf (t : CasTables) (serial : Nat) : Nat :=
  (((indexed 0 t.members).find? (fun x => x.2.serial == serial && (x.2.st == 1 || x.2.st == 2))).map Prod.fst).getD 0xFF

/-- MASTER_ARBITRATION_END (R308, R311, R325): the winner keeps its table, or forms a cascade of the members found. -/
def execMasterArbitrationEnd (t : Nat) (others : List (Nat × Nat)) (found : List CasEntry) (place : Nat) (s : State) : Out :=
  let u := s.advance t
  match u.cas.election with
  | some e =>
    if e.second then done s u
    else
      let wins := e.takesPart && (others.filter (fun o => decide (o.1 ≠ 0))).all (fun o => beats u.bid o)
      let u := u.modCas (fun c => { c with clapLow := false, election := some ⟨u.now, true, !wins && e.takesPart⟩, quiet := 0 })
      if wins then
        if u.cas.st = .joining then
          let tabs : CasTables := ⟨(List.range 8).map (fun i => (found[i]?).getD {}), [], []⟩
          let tabs := setMember tabs place (fun _ =>
            { st := 1, major := u.boot.fwMajor.toNat, minor := u.boot.fwMinor.toNat, serial := u.fuses.serial.toNat })
          let u := u.modCas (fun c => { c with st := .member, self := place, master := place, deputy := 0xFF, tables := tabs, epoch := 0 })
          done s (joinSlate u 0 place 0)
        else done s (u.modCas (fun c => { c with master := c.self }))
      else
        let best := others.foldl (fun (b : Nat × Nat) o => if beats o b then o else b) (0, 2 ^ 64)
        done s (if u.cas.st = .member then u.modCas (fun c => { c with master := casIndexOf c.tables best.2 }) else u)
  | none => done s u

/-- DEPUTY_ARBITRATION_END (R311, R327): the winner of the second arbitration is the deputy. -/
def execDeputyArbitrationEnd (t : Nat) (others : List (Nat × Nat × Nat)) (s : State) : Out :=
  let u := s.advance t
  match u.cas.election with
  | some e =>
    if !e.second then done s u
    else
      let mine : List (Nat × Nat × Nat) := if e.takesPart ∧ u.cas.st = .member then [(u.bid.1, u.bid.2, u.cas.self)] else []
      let all := (mine ++ others).filter (fun o => decide (o.1 ≠ 0))
      let dep := match all with
        | [] => 0xFF
        | x :: xs => (xs.foldl (fun (b : Nat × Nat × Nat) o => if beats (o.1, o.2.1) (b.1, b.2.1) then o else b) x).2.2
      let u := u.modCas (fun c => { c with election := none, deputy := if c.st = .member then dep else c.deputy })
      let u := if u.cas.fence = some fenceRole then u.unfence else u
      done s (if u.isMaster then u.casSlate 0x0901 (leBytes 1 u.cas.master ++ leBytes 1 dep) else u)
  | none => done s u

/-- A master that meets another one: the loser stops its Clapper and tick marks, starts an election and is FENCED until the digests
match; the winner keeps its table (R325). -/
def State.twoMasters (s : State) (other : Nat × Nat) : State :=
  if beats s.bid other then s
  else ((s.modCas (fun c => { c with master := 0xFF })).pullClap).fenceFor fenceConfig none

/-- TICK_MARK (R312, R325): a low phase shorter than 4 µs. -/
def execTickMark (t low pri serial : Nat) (s : State) : Out :=
  let u := s.advance t
  if u.cas.st = .alone ∨ 3932 < low then done s u
  else
    let u := u.modCas (fun c => { c with heard := true })
    done s (if u.isMaster ∧ serial ≠ u.fuses.serial.toNat then u.twoMasters (pri, serial) else u)

/-! ## The Clapper (R313 to R318, R325) -/

/-- F + DELAY and half of ASYM of a point, in 1/256 ns: an HHL timestamp received or sent (R289). -/
def State.hhlReceived (s : State) (p : HhlPort) (t sub : Nat) : Int :=
  let i := hhlPoint p
  (rheDiv (s.time40 t sub) (2 ^ 32)) - (s.pointF i + s.pointDelay i) - rheDiv (s.pointAsym i) 2
def State.hhlSent (s : State) (p : HhlPort) (t : Nat) : Int :=
  let i := hhlPoint p
  (rheDiv (s.time40 t 0) (2 ^ 32)) + (s.pointF i + s.pointDelay i) - rheDiv (s.pointAsym i) 2

/-- ±e limits in 1/256 ns: 50 ns, 1 µs, 1 ms. -/
def lim50ns : Nat := 12800
def lim1us : Nat := 256000
def lim1ms : Nat := 256000000

/-- A member's time agreement with its neighbour, from a time error `e` in 1/256 ns at the tick boundary `b` (R317). -/
def State.timeAgree (s : State) (e : Int) (indexOk : Bool) (b : Nat) : State :=
  let a := e.natAbs
  let s := s.modCas (fun c => { c with
    over50 := if lim50ns < a then c.over50 + 1 else 0, good := if a ≤ lim50ns ∧ indexOk = true then c.good + 1 else 0 })
  if lim1ms < a ∨ indexOk = false then
    (s.fenceFor fenceTime (some b)).modCas (fun c => { c with fenceHard := c.fenceHard || c.fence == some fenceTime })
  else if lim1us < a then
    let s := s.fenceFor fenceTime (some b)
    if s.slewing && (match s.tb.slew with | some sl => sl.rate != 10 | none => true) then s else s.slewStart (-e) 100
  else if 4 ≤ s.cas.over50 ∧ s.slewing = false then
    (s.slewStart (-e) 10).modCas (fun c => { c with over50 := 0 })
  else s

/-- Epoch and digest against the master's (R325), and a pending epoch announced in NEXT (R324). -/
def State.configAgree (s : State) (c : ClapperIn) : State :=
  let ok := s.cas.epoch == c.epoch.toNat && digestOf s.cas.tables == c.digest
  let s := s.modCas (fun x => { x with
    matching := if ok then x.matching + 1 else 0, mismatch := if ok then 0 else x.mismatch + 1 })
  if c.next.1 = 0 ∧ c.next.2.2 = 0 then s
  else
    match s.cas.next with
    | some n => s.modCas (fun x => { x with next := some { n with tick := c.next.2.2 } })
    | none => if s.cas.epoch = c.next.1 then s else s.modCas (fun x => { x with next := some ⟨c.next.1, c.next.2.2, x.tables⟩ })

/-- The master that a Clapper names is the one in the table, or the deputy that takes over (R325, R327). -/
def State.knownMaster (s : State) (c : ClapperIn) : Bool :=
  (match s.cas.tables.members[c.master]? with | some m => m.serial == c.serial.toNat && m.st != 0 | none => false) &&
  (c.master == s.cas.master || c.master == s.cas.deputy || s.cas.master == 0xFF)

/-- CLAPPER (R310, R313 to R318, R325). -/
def execClapper (t sub : Nat) (p : HhlPort) (pri d : Nat) (c : ClapperIn) (s : State) : Out :=
  let u := s.advance t
  if u.cas.st = .alone ∨ (u.hhl p).trained = false then done s u
  else
    let t2 := u.hhlReceived p u.now sub
    let e : Int := t2 - ((c.tSend : Int) + d)
    let u := u.modHhl p (fun h => { h with d := d, e := e, t2 := some t2 })
    let u := u.modCas (fun x => { x with heard := true, lastClap := some c })
    if u.cas.st = .joining then done s (u.modCas (fun x => { x with clapTicks := x.clapTicks + 1 }))
    else if u.isMaster then
      done s (if c.serial ≠ u.fuses.serial then u.twoMasters (pri, c.serial.toNat) else u)
    else
      let b := u.tick * perTick
      if !u.knownMaster c then done s (if u.cas.election.isSome then u else u.fenceFor fenceRole (some b))
      else
        let u := u.modCas (fun x => { x with
          master := c.master, deputy := if c.deputy = 7 then 0xFF else c.deputy,
          tables := setMember x.tables x.self (fun m => { m with e := rheDiv e 64, d := (rheDiv (d * 10 : Nat) 256).toNat }) })
        let u := if u.clk.holdover then u.fresh.2.modCas (fun x => { x with steer := signedOf 21 (u.fresh.1 % 2 ^ 21) }) else u.modCas (fun x => { x with steer := 0 })
        let u := u.configAgree c
        let u := match c.tbchg with
          | some ch => u.modCas (fun x => { x with tbchg := some (ch, b) })
          | none => u
        done s (u.timeAgree e (c.tickIdx == u.tick * 1024) b)

/-- ECHO (R314): d = ((t4 - t1) - (t3 - t2)) / 2. -/
def execEcho (t sub : Nat) (p : HhlPort) (t2 t3 : Nat) (s : State) : Out :=
  let u := s.advance t
  match (u.hhl p).t1 with
  | some t1 =>
    let t4 := u.hhlReceived p u.now sub
    let d := rheDiv ((t4 - t1) - ((t3 : Int) - t2)) 2
    done s (u.modHhl p (fun h => { h with d := d.toNat, t1 := none }))
  | none => done s u

/-- TBCHG_APPLY (R318): at its first Plain-sample boundary after the Clapper the member makes the master's change, and adds what has
accrued since tick boundary B. -/
def execTbchgApply (t : Nat) (s : State) : Out :=
  match s.cas.tbchg with
  | none => done s (s.advance t)
  | some _ =>
    let u := s.advance (alignUp perSample (max t s.now))
    match u.cas.tbchg with
    | none => done s u
    | some (ch, b) =>
      let u := u.modCas (fun c => { c with tbchg := none })
      let edges := u.now / 4 - b / 4
      match ch with
      | .set sec ns =>
        let v := (sec * 10 ^ 9 + ns) * 2 ^ 32 + edges * u.tb.inc.toNat
        done s (({ u with tb := { u.tb with unset := false } } : State).tbJump v 0)
      | .step offset => done s (u.tbJump ((u.tb.total : Int) + offset * 2 ^ 24).toNat 1)
      | .freq inc =>
        let v := ((u.tb.total : Int) + (edges : Int) * ((inc.toNat : Int) - u.tb.inc.toNat)).toNat
        done s (u.tbChange (fun tb => { tb.put v with inc := inc }))
      | .slew offset rate =>
        let old : Int := match u.tb.slew with | some sl => sl.addedSigned (u.now / 4) - sl.addedSigned (b / 4) | none => 0
        let u := u.slewStart offset rate
        let sl : Slew := ⟨offset, rate, b / perSample⟩
        let v := ((u.tb.total : Int) - old + sl.addedSigned (u.now / 4)).toNat
        done s (u.tbChange (fun tb => { tb.put v with slew := some sl }))

/-! ## Joining (R309, R315, R325, R330) -/

/-- Instants on the old count moved to the new one. -/
def shifted (old new n : Nat) : Nat := ((n : Int) + new - old).toNat

/-- What is counted on the Plain sample index, in ticks, or in CK_RF cycles goes over to the master's index (R315). -/
def State.reindex (s : State) (new : Nat) : State :=
  let old := s.now
  let f := shifted old new
  let tk := shifted (old / perTick) (new / perTick)
  let sm := shifted (old / perSample) (new / perSample)
  let mark (m : Mark) : Mark := { m with start := sm m.start, stop := m.stop.map sm }
  { s with
    now := new
    atTick := false
    boot := { s.boot with readyTick := tk s.boot.readyTick }
    clk := { s.clk with holdTick := tk s.clk.holdTick, stopTick := tk s.clk.stopTick, wakeTick := tk s.clk.wakeTick,
                        audRephase := (old + 40 - new % 40) % 40 }
    conv := s.conv.map (fun o => { o with run := { o.run with
      marks := o.run.marks.map mark, holdFrom := sm o.run.holdFrom, attackFrom := sm o.run.attackFrom, blankEnd := sm o.run.blankEnd,
      loMarks := o.run.loMarks.map mark, gains := o.run.gains.map (fun g => (sm g.1, g.2)), leftFrom := o.run.leftFrom.map f,
      nextGain := o.run.nextGain.map (fun g => (g.1, g.2.1, sm g.2.2)), words := o.run.words.map (fun w => (f w.1, w.2)),
      wordsTo := f o.run.wordsTo, pilots := o.run.pilots.map mark } })
    aloRx := { s.aloRx with hopEnd := s.aloRx.hopEnd.map f }
    aloTx := { s.aloTx with hopEnd := s.aloTx.hopEnd.map f }
    flags := { s.flags with edgeSet := (0, []), edgeClear := (0, 0) }
    devMarks := s.devMarks.map mark
    standin := { s.standin with stageEnd := f s.standin.stageEnd, abandonAt := s.standin.abandonAt.map f }
    pulses := s.pulses.map (fun p => { p with
      burst := p.burst.map (fun b => { b with now := b.now, ends := f b.ends }), ignoring := p.ignoring.map f, lastAt := f p.lastAt })
    svc := { s.svc with lastData := s.svc.lastData.map (fun x => (x.1, f x.2)), anns := s.svc.anns.map (fun a => { a with lastAt := f a.lastAt }) }
    prog := s.prog.map (fun o => { o with run := { o.run with follow := { o.run.follow with keepUntil := o.run.follow.keepUntil.map f } } })
    tx := { s.tx with sources := [], paRiseAt := s.tx.paRiseAt.map f, paFallAt := s.tx.paFallAt.map f, paHighAt := s.tx.paHighAt.map f }
    cue := s.cue.map (fun o => { o with run := { o.run with pulseEnd := o.run.pulseEnd.map f } })
    cas := { s.cas with waitEnd := tk s.cas.waitEnd }
    host := { s.host with sb := { s.host.sb with lastTick := tk s.host.sb.lastTick, joinWait := s.host.sb.joinWait.map tk } }
    cal := { s.cal with units := s.cal.units.map (fun u => { u with
      ages := u.ages.map tk, next := u.next.map (fun n => (f n.1, n.2)) }) } }

/-- Runs of held converters and of CONV4 fall due again on the new index (R315). -/
def State.rejoinRuns (s : State) : State :=
  (List.range 5).foldl (fun s u => s.modUnit u (fun c => { c with run := c.run.map (fun r => { r with stage := .pending, viaStandin := false }) })) s

/-- JOIN_ALIGN (R315, R325): after 16 ticks of Clapper. -/
def execJoinAlign (t : Nat) (j : JoinIn) (s : State) : Out :=
  let u := s.advance t
  if u.cas.st = .joining ∧ 16 ≤ u.cas.clapTicks ∧ u.cas.aligned = none then
    if j.major ≠ u.boot.fwMajor.toNat then done s (u.joinFails 1)
    else match j.index with
    | none => done s (u.joinFails 3)
    | some i =>
      let minor := decide (j.minor ≠ u.boot.fwMinor.toNat)
      let u := (u.standinFree u.standin.rota).rejoinRuns
      let u := u.reindex (j.plain * perSample)
      let tb : Tb := { u.tb with
        sec := BitVec.ofNat 48 j.sec, ns := BitVec.ofNat 32 j.ns, frac := BitVec.ofNat 32 j.frac, inc := j.inc, unset := j.unset,
        slew := j.slew.map (fun x => ⟨x.1, x.2, j.plain⟩), past := [] }
      let u := ({ u with tb := tb } : State).modCas (fun c => { c with aligned := some (i, j.tables, j.epoch) })
      done s (if minor then
          (u.setFlag fVersionMinor).casSlate 0x0907 (leBytes 1 i ++ leBytes 1 u.boot.fwMajor.toNat ++ leBytes 1 u.boot.fwMinor.toNat)
        else u)
  else done s u

/-- REF_COMPARE_END (R309, R330): after 64 ticks the frequencies agree within 0.01 ppm, and an aligned device is a member. -/
def execRefCompareEnd (t : Nat) (freq : Int) (s : State) : Out :=
  let u := s.advance t
  if u.cas.st = .joining then
    if 100 < freq.natAbs then done s ((u.joinFails 4).setFlag fRefMismatch)
    else
      match u.cas.aligned, u.cas.lastClap with
      | some (i, tabs, ep), some c =>
        let tabs := setMember tabs i (fun m => { m with
          st := 1, serial := u.fuses.serial.toNat, major := u.boot.fwMajor.toNat, minor := u.boot.fwMinor.toNat })
        let u := u.modCas (fun x => { x with
          st := .member, self := i, master := c.master, deputy := if c.deputy = 7 then 0xFF else c.deputy, epoch := ep, aligned := none,
          matching := 0, mismatch := 0, good := 0, over50 := 0 })
        let u := (u.epochApply tabs ep)
        done s (joinSlate u 0 i u.roleCode)
      | _, _ => done s u
  else done s u

/-- JOIN_TIMEOUT (R330): WAIT expires without a cascade. -/
def execJoinTimeout (t : Nat) (s : State) : Out :=
  let u := s.advance t
  if u.cas.st = .joining ∧ u.cas.waitEnd ≤ u.tick ∧ u.cas.aligned = none then done s (u.joinFails 2) else done s u

/-! ## Heartbeats and losses (R327) -/

/-- HEARTBEAT_LOSS (R327): the deputy has missed HB for 4 Plain samples on every path, and is master from the next Plain-sample
boundary. -/
def execHeartbeatLoss (t missed : Nat) (s : State) : Out :=
  let u := s.advance t
  if u.isDeputy && decide (4 ≤ missed) then
    done s (((u.modCas (fun c => { c with hbMissed := missed })).advance (alignNext perSample u.now)).takeOver true)
  else done s (if u.cas.st = .member ∧ u.isMaster = false then u.modCas (fun c => { c with hbMissed := missed }) else u)

/-- CAS_MEMBER_LOST (R324, R327, R334): the loss of a member other than the master. -/
def execCasMemberLost (t index : Nat) (s : State) : Out :=
  let u := s.advance t
  if u.cas.st = .member ∧ index ≠ u.cas.self ∧ index ≠ u.cas.master ∧ u.memberPresent index = true then
    let dep := index = u.cas.deputy
    let u := (u.setFlag fMemberLost).casSlate 0x0905 (leBytes 1 index)
    let u := u.modCas (fun c => { c with
      cu := c.cu.filter (fun x => idDev x.1 != index), remoteAir := c.remoteAir.filter (fun x => idDev x != index) })
    let u := if u.isMaster then u.epochAdvance (u.without index 3) else u
    done s (if u.isMaster ∧ dep then u.deputyElection else if dep then u.modCas (fun c => { c with deputy := 0xFF }) else u)
  else done s u

/-! ## Word groups (R305, R319 to R322, R329) -/

/-- A record of another member as one ring writes it: its sequence number and marks are the ring's (R329). -/
def remarked (kind : Nat) (bs : List Byte) (seq : Nat) (fresh dropped : Bool) : List Byte :=
  let put (off n v : Nat) (l : List Byte) : List Byte := l.take off ++ leBytes n v ++ l.drop (off + n)
  let marks (lsb : Nat) (off : Nat) (l : List Byte) : List Byte :=
    put off 1 ((leAt l off 1) ||| ((bit fresh + 2 * bit dropped) * 2 ^ lsb)) l
  if kind = kEvt then (if leAt bs 2 1 = 1 then put 8 2 seq (marks 0 3 bs) else put 6 2 seq (marks 0 3 bs))
  else if kind = kSide then put 8 2 seq (marks 0 3 bs)
  else if kind = kIqcap then put 28 2 seq (marks 1 3 bs)
  else put 25 1 (leAt bs 25 1 + 8 * bit dropped + 16 * bit fresh) bs

/-- A ring takes a record of another member: EVT by CODE, SIDE by kind and source, the others all (R293, R174). -/
def State.takesRemote (s : State) (kind : Nat) (bs : List Byte) (r : Ring) : Bool :=
  if kind = kEvt then (if leAt bs 2 1 = 1 then r.kmask.testBit (leAt bs 10 2 / 256) else r.kflags % 2 == 1)
  else if kind = kSide then
    let k := leAt bs 2 1
    s.sideSelects r (if 0x10 ≤ k then k - 0x10 + 5 else k - 1) (BitVec.ofNat 32 (leAt bs 4 4))
  else true

/-- A span of a mirrored programme (R322). -/
def State.mirrorSpan (s : State) (p rate start : Nat) (xs : List (Int × Int)) (absent : Bool) : State :=
  if (s.life ⟨.prog, p⟩).mirror && s.running .prog p then
    let ys := xs.map (fun x => if absent then none else some x)
    s.progSpan p false rate start ys false
  else s

/-- OBJ_RUN and GROUP_RUN (R377). -/
def runOpcodes : List Nat := [0x0102, 0x0107]

/-- The result of a carried command (R329): the last one completes it. -/
def State.carriedResult (s : State) (tag : Word16) (st : Status) (detail : Nat) (ret : List Byte) : State :=
  match s.cas.carried.find? (fun c => c.desc.tag == tag) with
  | none => s
  | some c =>
    let c' := { c with
      left := c.left - 1, status := if c.status = .ok then st else c.status,
      detail := if c.status = .ok then detail else c.detail, ret := if c.ret.isEmpty then ret else c.ret }
    let s := s.modCas (fun x => { x with carried := x.carried.erase c })
    if c'.left = 0 then
      let s := if (c'.status = .ok) = (runOpcodes.contains c.desc.opcode.toNat = true) then s
        else s.modCas (fun x => { x with remoteAir := x.remoteAir.filter (fun i => !c.cars.contains i) })
      let s := s.modRing c.cpl (fun r => { r with owed := r.owed - 1 })
      s.report c.desc c.cpl c.entry c'.status c'.detail c'.ret false true c.time
    else s.modCas (fun x => { x with carried := c' :: x.carried })

/-- The index of a device that joins: its former one while that is free, else the lowest free one (R308). -/
def freeIndex (t : CasTables) (serial : Nat) : Option Nat :=
  let free := (indexed 0 t.members).filter (fun x => x.2.st == 0 || x.2.st == 3)
  match free.find? (fun x => x.2.serial == serial && x.2.st == 3) with
  | some x => some x.1
  | none => free.head?.map Prod.fst

/-- The master takes a device into its table (R308, R324). -/
def State.joinAsked (s : State) (serial major minor : Nat) : State :=
  let t := s.latestTables
  match freeIndex t serial with
  | some i => s.epochAdvance (setMember t i (fun _ => { st := 1, serial := serial, major := major, minor := minor }))
  | none => s

/-- One item of the service channel; those of a FENCED origin are absent (R326). -/
def State.linkItem (fenced : Bool) (s : State) (i : LinkItem) : State :=
  match i with
  | .command d => if s.isMaster then s else s.modCas (fun c => { c with nextTick := c.nextTick ++ [d] })
  | .result tag st detail ret => if s.isMaster then s.carriedResult tag st detail ret else s
  | .record kind bs => if s.isMaster then s.putAll kind (s.takesRemote kind bs) (leAt bs 4 4) (remarked kind bs) else s
  | .mirror p rate start xs absent => s.mirrorSpan p rate start xs (absent || fenced)
  | .cu e count time absent subs fibs =>
    let at_ := s.now - cyclesOfNs ((s.timeAt s.now - time) / 256)
    let s := if absent || fenced then s else s.modSrc e (fun a =>
      (fibs.foldl (fun (a : AirSrc) f => a.addFib ⟨time, f.1, f.2.1, f.2.2, s.now⟩) a).addCif
        ⟨count, time, at_ + count % 4 * logicalCycles 0, s.now, subs.map (fun y => (y.1, ⟨y.2.1.1, y.2.1.2.1, y.2.1.2.2.1, y.2.1.2.2.2⟩, y.2.2))⟩)
    let s := s.modCas (fun c => { c with cu := (e, count, absent || fenced) :: c.cu.filter (fun x => x.1 != e) })
    if absent || fenced then s else s.dcarSource e count time
  | .tables t ep =>
    if s.isMaster then s
    else if ep = (s.cas.epoch + 1) % 2 ^ 32 then
      s.modCas (fun c => { c with next := some ⟨ep, match c.next with | some n => n.tick | none => s.clapTick + 8, t⟩ })
    else s.epochApply t ep
  | .join serial major minor => if s.isMaster then s.joinAsked serial major minor else s
  | .tag tag => if s.isDeputy then s.modCas (fun c => { c with lastTag := tag }) else s
  | .sum x => if fenced then s else s.modCas (fun c => { c with sums := (x :: c.sums).take 4096 })
  | .symbol x => if fenced then s else s.modCas (fun c => { c with symbols := (x :: c.symbols).take 4096 })

/-- The Plain sample that a word group's 16 index bits name: the latest one, up to the present, that ends in them. -/
def groupSample (now low : Nat) : Nat := now - (now + 65536 - low % 65536) % 65536

/-- The Clapper that the device sends on a port at this tick boundary: the master's own, or the master's fields with the device's own T_SEND (R313). -/
def State.clapperOut (s : State) (p : HhlPort) : Option ClapperIn :=
  let sent := (s.hhlSent p (s.tick * perTick)).toNat
  if s.isMaster then
    some { master := s.cas.self, deputy := if s.cas.deputy = 0xFF then 7 else s.cas.deputy, serial := s.fuses.serial, epoch := BitVec.ofNat 32 s.cas.epoch,
           digest := digestOf s.cas.tables, tickIdx := s.tick * 1024, tSend := sent,
           next := match s.cas.next with | some n => (n.epoch, (digestOf n.tables).toNat, n.tick) | none => (0, 0, 0),
           tbchg := s.cas.announce, flags := BitVec.ofNat 8 (bit s.clk.holdover + 2 * bit s.tb.unset + 4 * bit s.cas.ring) }
  else s.cas.lastClap.map (fun c => { c with tSend := sent })

/-- The word group that carries this member's data of Plain sample `k`, in the next Plain frame: header, quality of inputs A to D, the streams that other
members ask for by input and subband, the service channel (R305, R319). -/
def State.wordGroupOut (s : State) (k : Nat) (asked : List (Nat × Nat)) : WordGroupIn :=
  { index := k % 65536, sender := s.cas.self, master := s.cas.master, hb := s.isMaster || s.cas.hbMissed == 0, fenced := s.cas.fence.isSome,
    epoch := s.cas.epoch % 256, quality := [(s.cas.self, (List.range 4).map (fun x => s.qualityAt x k))],
    subs := asked.map (fun a =>
      let f := s.plainFrame [] a.1 a.2 (k / 64)
      (s.cas.self, a.1, a.2, f.2.getD (k % 64) (0, 0), f.1)),
    items := s.cas.sent }

/-- WORD_GROUP (R305, R319, R326, R327). What a FENCED origin sends is not taken. -/
def execWordGroup (t : Nat) (p : HhlPort) (w : WordGroupIn) (s : State) : Out :=
  let u := s.advance t
  if u.cas.st = .member ∧ (u.hhl p).trained = true then
    let u := u.modHhl p (fun h => { h with lastIdx := w.index, streams := w.streams, farFenced := w.fenced })
    let u := u.modCas (fun c => { c with
      hbMissed := if w.hb then 0 else c.hbMissed,
      master := if c.self ≠ c.master ∧ w.master = c.deputy ∧ w.hb then w.master else c.master })
    let k := groupSample u.index w.index
    let u := if w.fenced then u
      else u.takeRemote (w.quality.map (fun q => (q.1, k, q.2)))
        (w.subs.map (fun x => ⟨x.1, x.2.1, x.2.2.1, k, cscale (2 ^ x.2.2.2.2) x.2.2.2.1⟩))
    done s (w.items.foldl (State.linkItem w.fenced) u)
  else done s u

/-! ## The cascade's part of a management tick (R310, R312, R313, R331) -/

/-- δ of the origins as this tick measures it; applied from this boundary, which begins a Plain frame (R316). -/
def State.tickDeltas (ds : List (Nat × Int)) (s : State) : State :=
  s.modCas (fun c => { c with deltas := (ds.map (fun d => (d.1, s.index, d.2)) ++ c.deltas).take 256 })

/-- Leaving at B + 1, ticks without a sign of a master, Clapper symbols sent: the master on each trained port, a member away from the
master. -/
def State.tickCas (s : State) : State :=
  let s := match s.cas.leaveAt with
    | some b => if b ≤ s.now then s.casLeave else s
    | none => s
  if s.cas.st = .alone then s
  else
    let s := s.modCas (fun c => { c with
      quiet := if c.heard || (c.st == .member && c.self == c.master) then 0 else c.quiet + 1, heard := false, announce := none })
    if s.cas.st = .member ∧ s.cas.election = none then
      let send (s : State) (p : HhlPort) : State :=
        if (s.hhl p).trained then s.modHhl p (fun h => { h with t1 := some (s.hhlSent p s.now).toNat }) else s
      if s.isMaster then send (send s .up) .dn
      else if s.cas.self < s.cas.master then send s .up else send s .dn
    else s

/-! ## Commands (R330 to R333) -/

/-- A data-plane object other than CONV4 is in RUN (R330). -/
def State.dataRuns (s : State) : Bool :=
  allRefs.any (fun r => !(r.kind == .conv && r.idx == 4) && ((s.life r).cmd == .run || (s.life r).eff == .run))

/-- CAS_JOIN (R330). -/
def cmdCasJoin (d : Desc) (s : State) : CmdResult :=
  let b (k : Nat) : Nat := d.inlByte k
  let wait := d.inlAt 4 2
  if d.object ≠ 0xFF000000#32 then s.fail .badObject
  else if b 0 % 4 = 0 then s.bad 24
  else if 1 < b 1 then s.bad 25
  else if 1 < b 2 then s.bad 26
  else if wait < 16 then s.bad 28
  else if s.cas.st ≠ .alone ∨ s.dataRuns = true then s.fail .notPermitted
  else
    (s.modCas (fun c => { Cas.reset with
      sent := c.sent, st := .joining, ring := b 1 == 1, mute := b 2 == 1, protect := (b 3).testBit 0, form := (b 3).testBit 1,
      waitEnd := s.tick + wait,
      up := { HhlSt.reset with asked := (b 0).testBit 0 }, dn := { HhlSt.reset with asked := (b 0).testBit 1 } })).okCmd

/-- CAS_LEAVE (R331): this device, or at the master another member. -/
def cmdCasLeave (d : Desc) (s : State) : CmdResult :=
  let b1 := s.now + perTick
  if d.object.toNat % 2 ^ 24 ≠ 0 then s.fail .badObject
  else if idDev d.object ≠ 0xFF ∧ s.memberPresent (idDev d.object) = false then s.fail .badObject
  else if s.cas.st ≠ .member then s.fail .notPermitted
  else if s.idLocal d.object then
    let s := if s.isMaster then s.modCas (fun c => { c with sent := c.sent ++ [.command { d with object := s.devId }] }) else s
    (s.modCas (fun c => { c with leaveAt := some b1 })).okAt b1
  else if s.isMaster then
    let i := idDev d.object
    let s := s.epochAdvance (s.without i 0)
    let s := if s.cas.deputy = i then s.deputyElection else s
    (s.modCas (fun c => { c with
      sent := c.sent ++ [.command d], remoteAir := c.remoteAir.filter (fun x => idDev x != i) })).okAt b1
  else s.fail .notPermitted

/-- The STATUS block of R333. -/
def State.casStatus (s : State) : List Byte :=
  let c := s.cas
  let broken := c.ring && !(c.up.trained && c.dn.trained)
  leBytes 1 c.master ++ leBytes 1 c.deputy ++ leBytes 1 (if c.ring then (if broken then 2 else 1) else 0) ++ leBytes 1 s.members ++
  leBytes 4 c.epoch ++ leBytes 8 (digestOf c.tables).toNat ++ leBytes 4 (match c.next with | some n => n.tick | none => 0) ++ zeros 12 ++
  (List.range 8).flatMap (fun i =>
    let m : CasEntry := (c.tables.members[i]?).getD {}
    leBytes 1 m.st ++ leBytes 1 m.cause ++ leBytes 1 m.major ++ leBytes 1 m.minor ++ leBytes 8 m.serial ++
    leBytes 2 (unsignedOf 16 (satSigned 16 m.e)) ++ leBytes 2 (satU 16 m.d))

/-- CAS_EPOCH with MODE STATUS (R332, R333). -/
def cmdEpochStatus (d : Desc) (s : State) : CmdResult :=
  if !s.isMaster then s.fail .notPermitted
  else if d.plen.toNat < 160 then s.bad 12
  else s.okData d s.casStatus

/-- One entry of an item table (R320). -/
def itemOf (bs : List Byte) (i : Nat) : Nat × CasItem :=
  let o := 16 * i
  (leAt bs o 1, ⟨leAt bs o 1 == 2, leAt bs (o + 1) 1, leAt bs (o + 2) 1, leAt bs (o + 3) 1, BitVec.ofNat 32 (leAt bs (o + 4) 4),
    BitVec.ofNat 32 (leAt bs (o + 8) 4)⟩)

/-- The byte of an entry that R320 or R321 refuses. -/
def State.itemBad (s : State) (earlier : List CasItem) (kind : Nat) (i : CasItem) : Option Nat :=
  let sumKind := [Kind.fmd.code, Kind.amd.code, Kind.ee.code].contains (idKind i.fromObj)
  let objOk (x : Id) : Bool := (idRef x).isSome
  let closed := match s.refOf (BitVec.ofNat 32 (0xFF000000 + i.toObj.toNat % 2 ^ 24)) with
    | some r => decide (i.to_ ≠ s.cas.self) || decide ((s.life r).cmd = .closed) || (s.life r).mirror
    | none => false
  let same (x : CasItem) : Bool := !x.isMirror && x.to_ == i.to_ && x.toObj.toNat % 2 ^ 24 == i.toObj.toNat % 2 ^ 24 && x.chan == i.chan
  (([(0, decide (kind = 1 ∨ kind = 2)), (1, decide (i.from_ < 8) && s.memberPresent i.from_),
     (2, decide (i.to_ < 8) && decide (i.to_ ≠ i.from_) && s.memberPresent i.to_),
     (3, if kind = 1 ∧ idKind i.fromObj = Kind.ee.code then decide (i.chan < 4) else decide (i.chan = 0)),
     (4, objOk i.fromObj && (if kind = 1 then sumKind else idKind i.fromObj == Kind.prog.code)),
     (8, objOk i.toObj && idKind i.toObj == idKind i.fromObj && (kind == 1 || closed) &&
        (kind == 2 || decide ((earlier.filter same).length < 3)))] : List (Nat × Bool)).find? (fun c => !c.2)).map Prod.fst

/-- The first bad byte of a table. -/
def State.itemsBad (s : State) (bs : List Byte) : Nat → Nat → List CasItem → Option Nat
  | 0, _, _ => none
  | n + 1, i, earlier =>
    let x := itemOf bs i
    match s.itemBad earlier x.1 x.2 with
    | some k => some (64 + 16 * i + k)
    | none => s.itemsBad bs n (i + 1) (earlier ++ [x.2])

/-- A table fits the ports of this device: stream units, and 64 MIRROR items a port (R306). -/
def State.itemsFit (s : State) (items : List CasItem) : Bool :=
  let s' := s.modCas (fun c => { c with tables := { c.tables with items := items } })
  ([false, true] : List Bool).all (fun dn => ([false, true] : List Bool).all (fun out =>
    decide (s'.portUnits dn out 96 ≤ 1536) && decide ((items.filter (fun i => i.isMirror && s.crosses dn out i.from_ i.to_)).length ≤ 64)))

/-- CAS_EPOCH with MODE ADVANCE (R324, R332). -/
def cmdEpochAdvance (d : Desc) (s : State) : CmdResult :=
  let n := d.plen.toNat
  if !s.isMaster then s.fail .notPermitted
  else if 1024 < n then s.fail .lengthExceeds
  else if n % 16 ≠ 0 then s.bad 12
  else if s.cas.next.isSome then s.fail .notPermitted
  else match s.itemsBad d.bytes (n / 16) 0 [] with
  | some k => s.bad k
  | none =>
    let items := (List.range (n / 16)).map (fun i => (itemOf d.bytes i).2)
    if !s.itemsFit items then s.fail .resourcesExhausted
    else (s.epochAdvance { s.cas.tables with items := items }).okCmd

/-- CAS_EPOCH with MODE RESYNC (R332): the tables go to every FENCED member at once. -/
def cmdEpochResync (_d : Desc) (s : State) : CmdResult :=
  if !s.isMaster then s.fail .notPermitted
  else (s.modCas (fun c => { c with sent := c.sent ++ [.tables c.tables c.epoch] })).okCmd

end Sys2Proof.Machine
end

