-- ==== Sys2Proof/Machine/Query.lean ====
section
/-! DEFINITION. The blocks of OBJ_QUERY and what a query clears (R70, R99, R137, R138, R171, R199, R222, R245, R279, R378, R379). -/
namespace Sys2Proof.Machine
open Sys2Proof

/-- The STATE of an object without forms of RUN: 0 CLOSED, 1 HELD, 2 RUN. -/
def objStCode : ObjSt → Nat | .closed => 0 | .held => 1 | .run => 2

/-- STATE where a kind has forms of RUN: `run` is the code of the form that applies. -/
def Life.code (l : Life) (run : Nat) : Nat := match l.eff with | .closed => 0 | .held => 1 | .run => run

/-- `n` bytes of a signed number. -/
def sBytes (n : Nat) (i : Int) : List Byte := leBytes n (unsignedOf (8 * n) i)

/-- A span in ns as the four bytes of LATENCY. -/
def latBytes (ns : Nat) : List Byte := leBytes 4 (satU 32 ns)

/-- The 32 bytes of a Pass (R99). -/
def State.passQuery (s : State) (p : Nat) : List Byte :=
  let l := s.life ⟨.pass, p⟩
  let b := l.shown
  let r := s.passR p
  let level (n : Nat) : Int := if inUse (fget b (psIn n)) then r.levelTick.getD n (-32768) else -32768
  leBytes 1 (l.code (if r.gateOpen then 3 else 2)) ++ leBytes 1 (passClass b) ++ leBytes 2 (passK0 (s.onLband b) b) ++
  leBytes 1 (passNsb b) ++ leBytes 1 (passIns b).length ++ leBytes 2 (if l.eff = .run then passStreams b else 0) ++
  latBytes (passLatencyNs b) ++ leBytes 2 (passSettle b) ++ leBytes 2 r.qualTick ++
  ((List.range 4).flatMap (fun n => sBytes 2 (level n))) ++ leBytes 1 r.expTick ++ zeros 1 ++ leBytes 2 r.overCnt ++ leBytes 4 l.s0

/-- STATE of a demodulator: SETTLING until it has delivered, ABSENT while its Pass gives nothing (R105). -/
def DemodCore.form (c : DemodCore) : Nat := if c.absent then 4 else if c.delivered = 0 then 2 else 3

/-- Branch weights, one byte each (R107). -/
def weightBytes (f : Figures) : List Byte := (List.range 4).flatMap (fun n => leBytes 1 (f.weights.getD n 0))

/-- The mean of the last groups' MER (R137). -/
def meanOf (xs : List Nat) : Nat := if xs.isEmpty then 0 else (rheDiv (xs.sum : Nat) xs.length).toNat

/-- The codes of PILOT, RDS_SYNC and AMSS_SYNC. -/
def PilotSt.code : PilotSt → Nat | .absent => 0 | .acquiring => 1 | .locked => 2
def SyncSt.code : SyncSt → Nat | .off => 0 | .search => 1 | .sync => 2

/-- The 32 bytes of an FMD (R137). -/
def State.fmdQuery (s : State) (d : Nat) : List Byte :=
  let l := s.life ⟨.fmd, d⟩
  let r := s.fmdR d
  let f := r.core.figures
  leBytes 1 (l.code r.core.form) ++ leBytes 1 r.pilot.code ++ leBytes 1 r.rds.code ++
  leBytes 1 (rheDiv (r.beta * 255 : Nat) (2 ^ 24)).toNat ++ sBytes 2 f.level ++ sBytes 2 f.cnr ++ leBytes 2 f.multipath ++
  leBytes 2 f.pilotDev ++ leBytes 2 f.devPeak ++ sBytes 2 f.offset ++ leBytes 1 (meanOf r.mers) ++
  leBytes 1 (r.last32.filter id).length ++ leBytes 2 (r.piConf.getD 0).toNat ++ weightBytes f ++ latBytes (s.demodLatencyNs ⟨.fmd, d⟩) ++
  leBytes 1 (bit r.piConf.isSome + 2 * bit r.eqFrozen + 4 * bit r.core.badInput + 8 * bit r.core.concealedQ) ++ zeros 3

/-- The 32 bytes of an AMD (R138). -/
def State.amdQuery (s : State) (d : Nat) : List Byte :=
  let l := s.life ⟨.amd, d⟩
  let r := s.amdR d
  let f := r.core.figures
  leBytes 1 (l.code r.core.form) ++ leBytes 1 (bit r.locked) ++ leBytes 1 (bit r.sync) ++ leBytes 1 r.amss.code ++
  sBytes 2 f.level ++ sBytes 2 (if r.locked then f.cnr else -0x8000) ++ leBytes 2 f.modPeak ++ sBytes 2 f.offset ++ leBytes 2 r.nbCnt ++ leBytes 2 r.nbSkip ++
  weightBytes f ++ latBytes (s.demodLatencyNs ⟨.amd, d⟩) ++ leBytes 1 (4 * bit r.core.badInput + 8 * bit r.core.concealedQ) ++
  leBytes 1 (r.last16.filter id).length ++ zeros 6

/-- SYNC of a channel, in code order. -/
def EeSync.code : EeSync → Nat | .search => 0 | .candidate => 1 | .sync => 2 | .fic => 3 | .locked => 4

/-- The record of one channel (R171). -/
def State.chanQuery (s : State) (e c : Nat) : List Byte :=
  let b := (s.life ⟨.ee, e⟩).shown
  let ch := s.chan e c
  let f := ch.figures
  let dab := decide (fget b eeStd = 0)
  leBytes 1 ch.sync.code ++ leBytes 1 ch.mode ++ leBytes 1 (if ch.mode = 5 then 0xFF else ch.occ) ++
  leBytes 1 (bit ch.unsupported + 2 * bit ch.outOfPass + 4 * bit ch.interruptedQ + 8 * bit ch.holdDriftQ) ++
  sBytes 2 f.merA ++ sBytes 2 (if dab then -32768 else f.merSdc) ++ sBytes 2 f.merMsc ++ sBytes 2 (if dab then -32768 else f.wmerMsc) ++ sBytes 2 f.offset ++ sBytes 2 f.sro ++
  leBytes 2 f.delaySpread ++ leBytes 1 (ch.badHist.filter id).length ++
  leBytes 1 (if fget b eeStd = 0 then 0 else (ch.sdcHist.filter id).length) ++
  ((List.range 4).flatMap (fun n => leBytes 1 (f.snr.getD n 0xFF))) ++ latBytes (s.eeLatencyNs e c) ++ leBytes 2 ch.count ++ zeros 2

/-- CBER over the last 40 logical frames, in 2^-20 (R166). -/
def EeSub.cber (x : EeSub) : Nat :=
  let n := (x.bers.map Prod.snd).sum
  if n = 0 then 0 else satU 16 ((x.bers.map Prod.fst).sum * 2 ^ 20 / n)

/-- The entry of one sub-channel or stream (R171). -/
def State.subQuery (s : State) (e n : Nat) : List Byte :=
  let x := s.sub e n
  let plus := match x.org with | some o => o.dabPlus | none => false
  leBytes 1 n ++
  leBytes 1 (bit x.decoded + 2 * bit plus + 4 * bit x.sfSync + 8 * bit x.discontQ + 16 * bit x.uncorrQ) ++
  leBytes 2 x.cber ++ leBytes 2 (if plus then satU 16 (x.rs.map Prod.fst).sum else 0) ++
  leBytes 2 (if plus then satU 16 (x.rs.map Prod.snd).sum else 0)

/-- The 672 bytes of an engine (R171). -/
def State.eeQuery (s : State) (e : Nat) : List Byte :=
  let l := s.life ⟨.ee, e⟩
  let b := l.shown
  let r := s.eeR e
  let tii (n : Nat) : List Byte := match r.tii[n]? with
    | some (main, sub, level) => leBytes 1 main ++ leBytes 1 sub ++ sBytes 1 level ++ zeros 1
    | none => leBytes 1 0xFF ++ zeros 3
  leBytes 1 (l.code 2) ++ leBytes 1 (fget b eeStd) ++ leBytes 1 (eePasses b).length ++ zeros 1 ++
  leBytes 4 (if l.eff = .run then eeSram b else 0) ++ leBytes 2 (satU 16 r.arrivals) ++ leBytes 2 (satU 16 r.relocks) ++ zeros 4 ++
  (List.range 4).flatMap tii ++ (List.range 4).flatMap (s.chanQuery e) ++ (List.range 64).flatMap (s.subQuery e)

/-- An announcement is ON for the service of a programme's source (R222). -/
def State.annOnProg (s : State) (p : Nat) : Bool :=
  match s.homeOrigin p with
  | some o => s.svc.anns.any (fun a => a.origin == o)
  | none => false

/-- The 32 bytes of a programme, and the following block while following is not OFF (R222). -/
def State.progQuery (s : State) (p : Nat) : List Byte :=
  let l := s.life ⟨.prog, p⟩
  let r := s.progR p
  let head := leBytes 1 (l.code (if r.absent then 3 else 2)) ++ leBytes 1 r.codec ++ leBytes 1 (if l.eff = .run then r.units else 0) ++
    leBytes 1 (match r.insert with | some i => 128 + i | none => 0) ++ leBytes 4 r.rate ++ latBytes (s.progLatencyNs p) ++
    leBytes 2 (satU 16 r.conceal) ++ leBytes 2 (satU 16 r.muted) ++ leBytes 2 r.bitrate ++ leBytes 1 r.channels ++
    leBytes 1 (bit r.mismatch + 2 * bit r.clipQ + 4 * bit (s.annOnProg p)) ++ leBytes 8 r.startTime.toNat ++ zeros 4
  if fget r.follow.policy afMode = 0 then head else head ++ fitBytes 224 (s.followBlock p)

/-- STATE of a port in RUN. -/
def PortSt.code : PortSt → Nat | .idle => 3 | .seek => 2 | .sync => 3 | .clockLost => 4 | .rateJump => 5

/-- One route's entry (R245). -/
def routeQuery (b : Blk) (st : PortSt) (r : Nat) (x : RouteRun) : List Byte :=
  let code := if fget b (rtKind r) = 0 then 0
    else if st = .rateJump ∨ st = .clockLost ∨ st = .seek then 4
    else if x.under then 3
    else if x.delay.isNone then 1 else 2
  leBytes 1 code ++ leBytes 1 (bit x.short + 2 * bit x.underQ + 4 * bit x.clipQ) ++ leBytes 2 (satU 16 x.cnt) ++
  leBytes 4 (tenthUs (x.delay.getD 0))

/-- The 288 bytes of a port (R245). -/
def State.portQuery (s : State) (p : Nat) : List Byte :=
  let l := s.life ⟨.port, p⟩
  let b := l.shown
  let r := s.portR p
  let nominal := portRate b * frameBits b
  let ratio : Int := if fbit b ptRole then r.ratio else 0
  let hz := rheDiv ((nominal : Int) * (10 ^ 8 + ratio)) (10 ^ 8)
  leBytes 1 (l.code r.st.code) ++ leBytes 1 (activeRoutes b).length ++ leBytes 2 (satU 16 r.fsErr) ++ sBytes 4 ratio ++
  leBytes 8 r.lastFs.toNat ++ leBytes 4 hz.toNat ++ leBytes 2 (satU 16 r.losses) ++ leBytes 2 (satU 16 r.jumps) ++ zeros 8 ++
  (List.range 32).flatMap (fun n => routeQuery b r.st n (r.routes.getD n RouteRun.reset))

/-- STATE of a CONV object, the first that applies (R70). -/
def State.convCode (s : State) (x : Nat) : Nat :=
  let r := s.convR x
  let cal : Bool := match (s.unit x).run with | some u => u.stage == .settling || u.stage == .measuring | none => false
  if x = 4 then (if r.failed.isSome then 2 else if cal then 4 else if s.standinCarries then 1 else 0)
  else
    let matching : Bool := match s.standin.use with | .take y _ => y == x | .giveBack y => y == x | _ => false
    let l := s.life ⟨.conv, x⟩
    if l.eff = .closed then 6 else if r.failed.isSome then 2 else if cal then 4 else if matching then 3
    else if r.onStandin then 1 else if l.eff = .held then 5 else 0

/-- The 16 bytes of a CONV object (R70). -/
def State.convQuery (s : State) (x : Nat) : List Byte :=
  let r := s.convR x
  let gain := if x = 4 then (match s.standin.conn with | some y => ((s.convR y).lna, (s.convR y).att) | none => (0, 0)) else (r.lna, r.att)
  let b := (s.life ⟨.conv, x⟩).shown
  leBytes 1 (s.convCode x) ++ leBytes 1 (if x = 4 then s.standin.conn.getD 0xFF else bit r.onStandin) ++ leBytes 1 gain.1 ++
  leBytes 1 gain.2 ++ sBytes 2 r.peak ++ leBytes 2 (satU 16 r.clipCnt) ++ leBytes 2 (satU 16 r.agcSteps) ++ sBytes 2 r.matchGain ++
  sBytes 2 r.matchDelay ++
  leBytes 1 (bit (s.unit x).degraded + (if x = 4 then 0 else 2 * bit (fbit b cvLband) + 4 * bit (fbit b cvAgcFreeze) + 8 * bit r.limit)) ++
  leBytes 1 (match r.cause with | none => 0 | some c => c.code)

/-- The 32 bytes of a Cue (R379). -/
def State.cueQuery (s : State) (n : Nat) : List Byte :=
  let l := s.life ⟨.cue, n⟩
  let b := l.shown
  let r := s.cueR n
  leBytes 1 (l.code 2) ++ leBytes 1 (cueFlags b) ++ zeros 2 ++ leBytes 4 (cuePeriod b) ++ leBytes 8 r.emitted ++
  leBytes 8 (match r.next with | some v => (t64Of256 v).toNat | none => 0) ++ zeros 8

/-- The 32 bytes of a capture (R379). -/
def State.capQuery (s : State) (n : Nat) : List Byte :=
  let r := s.capR n
  leBytes 1 ((s.life ⟨.cap, n⟩).code 2) ++ leBytes 1 (bit r.exp16) ++ leBytes 1 r.ring ++ zeros 1 ++ leBytes 4 r.source.toNat ++
  leBytes 8 r.written ++ leBytes 4 r.dropped ++ leBytes 4 (if r.count = 0 then 0 else r.count - r.done) ++ zeros 8

/-- STATE of an ALO, in code order. -/
def AloSt.code : AloSt → Nat | .idle => 0 | .hopping => 1 | .searching => 2 | .locked => 3 | .ramping => 4

/-- The 4128 bytes of an ALO (R379). -/
def State.aloQuery (s : State) (a : Nat) : List Byte :=
  let x := s.alo a
  let f := x.freqAt s.index
  let n := if x.isSet then aloN256 f x.k else 0
  leBytes 1 x.st.code ++ leBytes 1 (bit x.lock) ++ leBytes 1 x.k ++ leBytes 1 x.band ++ leBytes 1 (n / 2 ^ 32) ++ zeros 3 ++
  leBytes 4 (n % 2 ^ 32) ++ leBytes 4 (rheDiv f 256000).toNat ++ leBytes 2 x.phaseRms ++ leBytes 2 (satU 16 x.hops) ++
  leBytes 2 (satU 16 x.searches) ++ leBytes 2 x.table.length ++ leBytes 4 x.user.toNat ++ zeros 4 ++ hopBytes x.table

/-! ## Groups (R379) -/

/-- The greatest nesting depth below a group. -/
def State.groupDepth (s : State) : Nat → Id → Nat
  | 0, _ => 0
  | fuel + 1, i =>
    if idKind i = Kind.group.code then
      (((s.group (idIdx i)).members.filter (fun m => idKind m == Kind.group.code)).map (fun m => s.groupDepth fuel m + 1)).foldl max 0
    else 0

/-- The state code of an object that a group holds: that of an object of another member is a free value. -/
def State.memberCode (s : State) (i : Id) : Nat :=
  match s.refOf i with
  | some r => objStCode (s.life r).eff
  | none => Config.freeBits (s.freeCtr + i.toNat) % 3

/-- A GROUP's block: header and one entry per direct member. -/
def State.groupQuery (s : State) (g : Nat) : List Byte :=
  let x := s.group g
  let flat := s.flatten 256 (s.idOf .group g)
  let count (c : Nat) : Nat := (flat.filter (fun i => s.memberCode i == c)).length
  let pend := bit (x.pend.any (fun q => q.isRun && decide (s.index < q.index))) +
    2 * bit (x.pend.any (fun q => !q.isRun && decide (s.now < alignUp perFrame (q.index * perSample)))) + 4 * bit (flat.any (fun i => !s.idLocal i))
  let entry (i : Id) : List Byte := leBytes 4 i.toNat ++
    leBytes 1 (if idKind i = Kind.group.code then bit (s.group (idIdx i)).defined else s.memberCode i) ++ zeros 3
  leBytes 1 (bit x.defined) ++ leBytes 1 (s.groupDepth 256 (s.idOf .group g)) ++ leBytes 2 x.members.length ++ leBytes 2 flat.length ++
  leBytes 2 (count 2) ++ leBytes 2 (count 1) ++ leBytes 2 (count 0) ++ leBytes 1 pend ++ zeros 3 ++ x.members.flatMap entry

/-! ## OBJ_QUERY (R359, R378) -/

/-- The block of an object. -/
def State.queryBlock (s : State) (r : Ref) : List Byte :=
  match r.kind with
  | .pass => s.passQuery r.idx
  | .fmd => s.fmdQuery r.idx
  | .amd => s.amdQuery r.idx
  | .ee => s.eeQuery r.idx
  | .prog => s.progQuery r.idx
  | .port => s.portQuery r.idx
  | .fcar => s.carrierQuery false r.idx
  | .dcar => s.carrierQuery true r.idx
  | .cue => s.cueQuery r.idx
  | .cap => s.capQuery r.idx
  | .alo => s.aloQuery r.idx
  | .conv => s.convQuery r.idx
  | .group => s.groupQuery r.idx
  | .device => []

/-- What a query clears: the counts and marks "since the last query". -/
def State.queried (s : State) (r : Ref) : State :=
  match r.kind with
  | .pass => s.modPass r.idx (fun x => { x with overCnt := 0 })
  | .fmd => s.modFmd r.idx (fun x => { x with core := { x.core with concealedQ := false } })
  | .amd => s.modAmd r.idx (fun x => { x with core := { x.core with concealedQ := false }, nbCnt := 0, nbSkip := 0 })
  | .ee => s.modEe r.idx (fun x => { x with
      arrivals := 0, relocks := 0, chans := x.chans.map (fun c => { c with interruptedQ := false, holdDriftQ := false }),
      subs := x.subs.map (fun y => { y with discontQ := false, uncorrQ := false }) })
  | .prog => s.modProg r.idx (fun x => { x with conceal := 0, muted := 0, clipQ := false, follow := { x.follow with switches := 0, starved := 0 } })
  | .port => s.modPort r.idx (fun x => { x with
      fsErr := 0, losses := 0, jumps := 0, routes := x.routes.map (fun y => { y with underQ := false, clipQ := false, cnt := 0 }) })
  | .fcar => s.carrierQueried false r.idx
  | .dcar => s.carrierQueried true r.idx
  | .alo => s.modAlo r.idx (fun x => { x with hops := 0, searches := 0 })
  | .conv => s.modConv r.idx (fun x => { x with clipCnt := 0, agcSteps := 0 })
  | .group => { s with freeCtr := s.freeCtr + 2 ^ 32 }
  | .cue | .cap | .device => s

/-- OBJ_QUERY (R378): a buffer shorter than the block is refused; the block shows what is in effect at the boundary. -/
def cmdObjQuery (d : Desc) (s : State) : CmdResult :=
  match s.refOf d.object with
  | none => s.fail .badObject
  | some r =>
    let out := s.settle.queryBlock r
    if d.plen.toNat < out.length then s.bad 12 else (s.queried r).okData d out

end Sys2Proof.Machine
end

