-- ==== Sys2Proof/Machine/Objects.lean ====
section
/-! DEFINITION. Opening, setting, running, holding and closing objects and groups (R357 to R374). -/
namespace Sys2Proof.Machine
open Sys2Proof

/-! ## Checks of a kind (R359, R364, R376) -/

/-- Every check of PASS_SET on CONV `x` (R52, R68); MANUAL mode uses neither thresholds nor step (R4). -/
def convChecks (x : Nat) (b : Blk) : List (Field × Bool) :=
  let peak := fget b cvAgcMode == 1
  [(cvLna, !badCode b cvLna), (cvAtt, !badCode b cvAtt), (cvAgcMode, !badCode b cvAgcMode), (cvLband, x == 3 || !fbit b cvLband),
   (cvAgcLo, !peak || decide (fget b cvAgcHi + 3 ≤ 6 + fget b cvAgcLo)), (cvAttackStep, !peak || decide (1 ≤ fget b cvAttackStep)),
   (cvAgcHold, !badCode b cvAgcHold)]

/-- Every check of an object's SET block. -/
def State.setChecks (s : State) (r : Ref) (b : Blk) : List (Field × Bool) :=
  match r.kind with
  | .pass => s.passChecks b
  | .fmd | .amd => s.demodChecks r b
  | .ee => s.eeChecks r.idx b
  | .prog => s.progChecks b
  | .port => portChecks b
  | .fcar => s.carrierChecks false b
  | .dcar => s.carrierChecks true b
  | .conv => convChecks r.idx b
  | _ => []

/-- The field table of a kind. -/
def kindFields : Kind → List Field
  | .pass => passFields | .fmd => fmdFields | .amd => amdFields | .ee => eeFields | .prog => progFields | .port => portFields
  | .fcar => fcarFields | .dcar => dcarFields | .conv => convFields | _ => []

/-- The bits of a kind's block that are not reserved; the others are ignored (R4). -/
def kindMask : Kind → Blk
  | .pass => passMask
  | .cue => cueMask.zeroExtend 1280
  | .port => tableMask 1280 portFields
  | k => tableMask 1280 (kindFields k)

/-- What OBJ_RUN tests, for a run counted from CK_RF count `t` (R98, R103, R136, R170, R212, R244, R278, R299). -/
def State.runCheck (s : State) (r : Ref) (t : Nat) : Status :=
  match r.kind with
  | .pass => s.passRunCheck r.idx
  | .fmd | .amd => s.demodRunCheck r
  | .ee => s.eeRunCheck r.idx
  | .prog => s.progRunCheck r.idx
  | .port => s.portRunCheck r.idx
  | .fcar => s.carrierRunCheck false r.idx
  | .dcar => s.carrierRunCheck true r.idx
  | .cue =>
    let b := (s.life r).blk
    if cuePeriod b = 0 ∧ cueStart b < s.cueLeast t then .badParam else .ok
  | .conv => .ok
  | _ => .notPermitted

/-! ## Pending holds and budgets (R361, R374) -/

/-- Objects whose hold is commanded and still to come count as if they ran (R361). -/
def Obj.asRunning {ρ : Type} (o : Obj ρ) : Obj ρ :=
  if o.life.cmd ≠ .run ∧ o.life.eff = .run then { o with life := { o.life with cmd := .run, blk := o.life.cur } } else o

/-- The state with every pending hold of a budgeted kind undone, the objects of `except` apart. -/
def State.withHeld (s : State) (except : List Ref) : State :=
  let f {ρ : Type} (k : Kind) (l : List (Obj ρ)) : List (Obj ρ) :=
    (indexed 0 l).map (fun x => if except.contains ⟨k, x.1⟩ then x.2 else x.2.asRunning)
  { s with pass := f .pass s.pass, prog := f .prog s.prog, fcar := f .fcar s.fcar, dcar := f .dcar s.dcar }

/-- The latest hold boundary to come among the objects of the budgeted kinds. -/
def State.latestHold (s : State) : Nat :=
  (s.pass.map Obj.life ++ s.prog.map Obj.life ++ s.fcar.map Obj.life ++ s.dcar.map Obj.life).foldl (fun (m : Nat) l =>
    match l.holdAt with | some h => if l.cmd = .run then m else max m h | none => m) 0

/-- The CK_RF count from which runs may start: `t`, or the latest pending hold when their budgets need it (R361). -/
def State.runFrom (s : State) (rs : List Ref) (t : Nat) : Nat :=
  let s' := s.withHeld rs
  if rs.any (fun r => s'.runCheck r t == .resourcesExhausted) then max t s.latestHold else t

/-! ## Single objects (R359, R360) -/

/-- A later command takes an object out of a pending AT_INDEX command (R371). -/
def State.override (s : State) (r : Ref) : State :=
  { s with host := { s.host with groups := s.host.groups.map (fun g =>
      if g.pend.isEmpty then g
      else { g with pend := g.pend.map (fun q => { q with members := q.members.filter (fun i => s.refOf i != some r) }) }) } }

/-- The carrier that a reference names. -/
def carOf (r : Ref) : Option (Bool × Nat) :=
  match r.kind with | .fcar => some (false, r.idx) | .dcar => some (true, r.idx) | _ => none

/-- What a run still waits for ends ABORTED when its object is held or closed (R362). -/
def State.abortWaits (s : State) (r : Ref) : State :=
  match carOf r with
  | some (d, c) => s.endWait (waitCar d c) .aborted s.now
  | none => if r = ⟨.conv, 3⟩ then s.endWait .rxLo .aborted s.now else s

/-- The boundary at which a hold taken up now ends an object's output (R8, R266): its next output block boundary; none for an engine
that completes its frame (R165). -/
def State.holdBoundary (s : State) (r : Ref) : Option Nat :=
  match carOf r with
  | some (d, c) => if (s.air d c).st = .onAir then some ((s.carBoundary d c s.now).getD s.now) else some s.now
  | none => if r.kind = .ee then none else some s.now

/-- An AT_INDEX hold of an object is still to come. -/
def Life.laterHold (l : Life) (now : Nat) : Bool :=
  l.holdGroup && (match l.holdAt with | some h => decide (now < h) | none => false)

/-- An AT_INDEX run of an object is still to come. -/
def Life.laterRun (l : Life) (now : Nat) : Bool :=
  l.viaGroup && (match l.dueAt with | some d => decide (now < d) | none => false)

/-- A hold is commanded, at boundary `h` or, for an engine that completes its frame, with none. -/
def Life.hold (l : Life) (h : Option Nat) (group : Bool) : Life :=
  { l with
    cmd := .held, dueAt := none, viaGroup := false,
    holdAt := if l.eff = .run then (if l.cmd = .run ∧ l.holdAt.isSome then l.holdAt else h) else none,
    holdGroup := group && decide (l.eff = .run) }

/-- An object in RUN is held (R359, R360, R362). -/
def State.holdObj (s : State) (r : Ref) : State :=
  let l := s.life r
  if l.cmd ≠ .run ∧ l.laterHold s.now = false then s
  else if r.kind = .cap then s.capStop r.idx
  else
    let s := ((s.abortWaits r).override r).modLife r (fun l => l.hold (s.holdBoundary r) false)
    if r.kind = .ee then s.eeStop r.idx false else s

/-- CLOSED at once, or at the boundary of the hold (R359). -/
def State.closeObj (s : State) (r : Ref) : State :=
  let l := s.life r
  if l.cmd = .closed then s
  else
    let s := s.holdObj r
    if (s.life r).eff = .run then s.modLife r (fun l => { l with cmd := .closed }) else s.closeEffects r

/-- CLOSED goes to HELD with the reset values of every field (R359); an input is powered up (R69). -/
def State.openObj (s : State) (r : Ref) : State :=
  let l := s.life r
  if l.cmd ≠ .closed then s
  else
    let b := resetBlk r.kind
    let s := s.modLife r (fun l => if l.eff = .run then { l with cmd := .held, blk := b } else Life.at .held b)
    if r.kind = .conv then s.modConv r.idx (fun x => { x with powered := true }) else s

/-- A HELD input's converter under calibration: the run ends when the input's RUN is taken up (R412). -/
def State.abortHeldCal (s : State) (r : Ref) : State :=
  if r.kind = .conv ∧ (s.life r).eff ≠ .run then
    match (s.unit r.idx).run with
    | some u => if u.stage != CalStage.pending && !u.viaStandin then s.calAbort r.idx s.now else s
    | none => s
  else s

/-- The run of an object is commanded from CK_RF count `t` on, not before its own hold (R360). -/
def State.startObj (s : State) (t : Nat) (group : Bool) (r : Ref) : State :=
  (s.abortHeldCal r).modLife r (fun l => { l with cmd := .run, dueAt := some (max t (l.holdAt.getD t)), viaGroup := group })

/-- What a run that has been commanded waits for: an LO-mode carrier (R265), input D in L-band (R55). -/
def State.runWait (s : State) (r : Ref) : Option (WaitFor × Bool) :=
  match carOf r with
  | some (d, c) => if s.loMode then some (waitCar d c, true) else none
  | none => if r = ⟨.conv, 3⟩ ∧ fbit (s.life r).blk cvLband = true then some (.rxLo, false) else none

/-- The CK_RF count at which a run takes effect: the start boundary (R362). -/
def State.runTime (s : State) (r : Ref) : Nat :=
  match carOf r with
  | some (d, c) => ((s.settle.air d c).startAt).getD s.now
  | none => ((s.life r).dueAt).getD s.now

/-- OBJ_RUN of one object (R359 to R361, R371). -/
def State.runObj (s : State) (r : Ref) : CmdResult :=
  let l := s.life r
  if r.kind = .cap then s.fail .notPermitted
  else if l.cmd = .run ∧ l.laterRun s.now = false then s.okCmd
  else
    let st := if l.cmd = .run then .ok else s.runCheck r s.now
    if st ≠ .ok then { s.fail st with detail := if st = .badParam then 0xFFFFFFFF else 0 }
    else
      let s := s.override r
      if l.laterHold s.now ∧ l.blk = l.cur then
        (s.modLife r (fun l => { l with cmd := .run, holdAt := none, holdGroup := false })).okCmd
      else
        let from_ := s.runFrom [r] s.now
        let s := if l.laterHold s.now then s.modLife r (fun l => { l with holdAt := some s.now, holdGroup := false }) else s
        let s := s.startObj from_ false r
        { s.okCmd with wait := s.runWait r, time := some (s.runTime r) }

/-- A SET block in place of the present one (R364). -/
def State.setBlk (s : State) (r : Ref) (b : Blk) : State := s.modLife r (fun l => { l with blk := b })

/-- A kind's SET command from a block and the descriptor offset that it starts at (R359, R364). -/
def State.cmdSet (s : State) (r : Ref) (raw : Blk) (base : Nat) : CmdResult :=
  let b := raw &&& kindMask r.kind
  if (s.life r).cmd = .run then s.fail .editWhileRunning
  else match firstFail (s.setChecks r b) with
    | some f => s.bad (base + f.lsb / 8)
    | none => (s.setBlk r b).okCmd

/-- PASS_SET, DEMOD_SET, EE_SET, PROG_SET and CARRIER_SET: the block is inline. -/
def cmdInlineSet (d : Desc) (s : State) : CmdResult :=
  match s.refOf d.object with
  | some r => s.cmdSet r (d.inl.zeroExtend 1280) 24
  | none => s.fail .badObject

/-- PORT_SET (R243, R244): the block is in the buffer, 8 to 136 bytes in multiples of 4. -/
def cmdPortSet (d : Desc) (s : State) : CmdResult :=
  let n := d.plen.toNat
  match s.refOf d.object with
  | some r =>
    if (s.life r).cmd = .run then s.fail .editWhileRunning
    else if 136 < n then s.fail .lengthExceeds
    else if n < 8 ∨ n % 4 ≠ 0 then s.bad 12
    else s.cmdSet r (blockOf 1280 d.bytes) 64
  | none => s.fail .badObject

/-- CUE_SET (R299, R300). -/
def cmdCueSet (d : Desc) (s : State) : CmdResult :=
  match s.refOf d.object with
  | some r =>
    let b : Blk := d.inl.zeroExtend 1280 &&& kindMask .cue
    if (s.life r).cmd = .run then s.fail .editWhileRunning
    else match cueBad b with
      | some k => s.bad (24 + k)
      | none => (s.setBlk r b).okCmd
  | none => s.fail .badObject

/-! ## LIVE_SET (R365) -/

/-- How many words a kind's SET block has, for the kinds that have RWL fields. -/
def liveWords : Kind → Nat
  | .pass => 5 | .conv => 2 | .prog => 3 | .fcar => 5 | .dcar => 8 | _ => 0

/-- The RWL fields of a kind in one word. -/
def liveFields (k : Kind) (w : Nat) : List Field := (kindFields k).filter (fun f => f.live && f.lsb / 32 == w)

/-- A MASK covers whole RWL fields only. -/
def liveMaskOk (k : Kind) (w mask : Nat) : Bool :=
  let part (f : Field) : Nat := (2 ^ f.width - 1) <<< (f.lsb % 32)
  (liveFields k w).all (fun f => mask &&& part f == 0 || mask &&& part f == part f) &&
  mask == (liveFields k w).foldl (fun (m : Nat) f => m ||| (mask &&& part f)) 0

/-- The block with an entry's bits written. -/
def liveWrite (b : Blk) (w value mask : Nat) : Blk :=
  let m := BitVec.ofNat 1280 (mask <<< (32 * w))
  (b &&& ~~~ m) ||| (BitVec.ofNat 1280 (value <<< (32 * w)) &&& m)

/-- The entries of a LIVE_SET: WORD, VALUE, MASK. -/
def liveEntries (d : Desc) : List (Nat × Nat × Nat) :=
  (List.range (d.inlByte 0)).map (fun i => (d.inlByte (4 + 12 * i), d.inlAt (8 + 12 * i) 4, d.inlAt (12 + 12 * i) 4))

/-- The bits that the entries write, in a block that holds the commanded values. -/
def liveApply (es : List (Nat × Nat × Nat)) (b : Blk) : Blk := es.foldl (fun b e => liveWrite b e.1 e.2.1 e.2.2) b

/-- The first failing check of a LIVE_SET's entries for an object: the DETAIL of BAD_PARAM. -/
def State.liveBad (s : State) (r : Ref) (es : List (Nat × Nat × Nat)) : Option Nat :=
  let place (x : Nat × Nat × Nat × Nat) : Option Nat :=
    let base := 28 + 12 * x.1
    if liveWords r.kind ≤ x.2.1 then some base
    else if !liveMaskOk r.kind x.2.1 x.2.2.2 then some (base + 8)
    else
      let b := liveWrite (s.life r).blk x.2.1 x.2.2.1 x.2.2.2
      let touched (f : Field) : Bool := f.live && f.lsb / 32 == x.2.1 && (x.2.2.2.testBit (f.lsb % 32))
      if (s.setChecks r b).any (fun c => touched c.1 && !c.2) then some (base + 4) else none
  (indexed 0 es).findSome? place

/-- A carrier in RUN whose LEVEL is another one after the write meets the ceiling there (R249, R365). -/
def State.liveFits (s after : State) (r : Ref) : Bool :=
  match carOf r with
  | some (d, c) =>
    let level := fget (after.life r).blk fcLevel
    (s.life r).cmd != .run || level == fget (s.life r).blk fcLevel || after.ceilingOk d c level
  | none => true

/-- The boundary at which live fields of an object in RUN apply (R68, R365). -/
def State.liveBoundary (s : State) (r : Ref) : Nat :=
  match carOf r with
  | some (d, c) => (s.carBoundary d c s.now).getD s.now
  | none => if r.kind = .conv then s.now + perSample else s.now

/-- The live fields written: stored in HELD, applied at the next output block boundary in RUN (R359, R360, R365). -/
def State.liveObj (s : State) (es : List (Nat × Nat × Nat)) (r : Ref) : State :=
  let l := s.life r
  let s := s.modLife r (fun l => { l with blk := liveApply es l.blk })
  if l.cmd = .run ∧ l.eff = .run ∧ l.dueAt = none then
    let base := match l.liveAt with | some (_, b) => b | none => l.cur
    let base := match (if r.kind = .conv then (s.convR r.idx).nextGain else none) with
      | some (lna, att, _) => fset (fset base cvLna lna) cvAtt att
      | none => base
    let s := if r.kind = .conv then s.modConv r.idx (fun x => { x with nextGain := none }) else s
    s.modLife r (fun l => { l with liveAt := some (s.liveBoundary r, liveApply es base) })
  else s

/-! ## Groups (R366 to R372) -/

/-- An object takes part in group commands: background objects never, mirrors for LIVE_SET and OBJ_QUERY only (R368). -/
def State.takesPart (s : State) (live : Bool) (r : Ref) : Bool := !(s.life r).background && (live || !(s.life r).mirror)

/-- The objects of this device in a group's flattened set. -/
def State.flatHere (s : State) (live : Bool) (i : Id) : List Ref :=
  ((s.flatten 256 i).filterMap s.refOf).filter (s.takesPart live)

/-- The kinds in dependency order (R369). -/
def kindRank : Kind → Nat
  | .conv => 0 | .pass => 1 | .fmd => 2 | .amd => 3 | .ee => 4 | .prog => 5 | .port => 6 | .fcar => 7 | .dcar => 8 | .cue => 9 | .cap => 10
  | _ => 11

/-- The other members of the cascade that a group reaches. -/
def State.groupElsewhere (s : State) (i : Id) : List Nat := s.otherMembers (s.flatten 256 i)

/-- A member of the cascade is FENCED in the tables. -/
def State.fencedMember (s : State) (m : Nat) : Bool :=
  match s.cas.tables.members[m]? with | some e => e.st == 2 | none => false

/-- A group reaches an object of a FENCED member, this one included. -/
def State.groupFenced (s : State) (i : Id) : Bool :=
  (s.groupElsewhere i).any s.fencedMember || (s.cas.fence.isSome && !(s.flatHere true i).isEmpty)

/-- Every member in RUN is held at CK_RF count `f0` (R370, R371). -/
def State.groupHoldAt (s : State) (i : Id) (f0 : Nat) : State :=
  (sortBy (fun r => kindRank r.kind) (s.flatHere false i)).foldl (fun s r =>
    if (s.life r).cmd ≠ .run then s
    else if r.kind = .cap then (if f0 ≤ s.now then s.capStop r.idx else s.modCap r.idx (fun c => { c with stopAt := some f0 }))
    else ((s.abortWaits r).override r).modLife r (fun l => l.hold (some f0) true)) s

/-- The first member whose run fails, with its status: the objects' own checks first, then the budgets (R369). -/
def State.groupRunFail (s : State) (rs : List Ref) (t : Nat) : Option (Ref × Status) :=
  let go (budget : Bool) : State × Option (Ref × Status) := rs.foldl (fun (a : State × Option (Ref × Status)) r =>
    match a.2 with
    | some _ => a
    | none =>
      let st := a.1.runCheck r t
      if st = .ok ∨ (st = .resourcesExhausted ∧ budget = false) then (a.1.modLife r (fun l => { l with cmd := .run }), none)
      else (a.1, some (r, st))) (s, none)
  match (go false).2 with | some x => some x | none => (go true).2

/-- The members that a group's RUN starts: HELD, captures left out, in dependency order (R369). -/
def State.groupRunnable (s : State) (i : Id) : List Ref :=
  sortBy (fun r => kindRank r.kind) ((s.flatHere false i).filter (fun r => r.kind != .cap && (s.life r).cmd == .held))

/-- The members run from CK_RF count `t` (R361, R369). -/
def State.groupRunAt (s : State) (i : Id) (t : Nat) (d : Desc) : CmdResult :=
  let rs := s.groupRunnable i
  match s.groupRunFail rs t with
  | some (r, st) =>
    let out := if 8 ≤ d.plen.toNat then leBytes 4 (s.idOf r.kind r.idx).toNat ++ leBytes 1 st.code ++ zeros 3 else []
    { s.fail st with detail := 0xFFFFFFFF, ret := out }
  | none =>
    let t := s.runFrom rs t
    (rs.foldl (fun s r => (s.override r).startObj t true r) s).okAt t

/-- The instant of a group command (R371): the take-up boundary, or INDEX within its window, rounded up to a Plain frame for a hold. -/
def State.groupTime (s : State) (d : Desc) (hold : Bool) : Except Nat Nat :=
  let idx := d.inlAt 8 8
  if d.inlByte 0 = 0 then .ok s.now
  else if 1 < d.inlByte 0 then .error 24
  else if idx < s.index ∨ s.index + 2 ^ 26 < idx then .error 32
  else .ok (if hold then alignUp perFrame (idx * perSample) else idx * perSample)

/-- An AT_INDEX command stays pending until its index (R371, R379). -/
def State.groupPending (s : State) (g : Nat) (d : Desc) (isRun : Bool) (members : List Ref) : State :=
  if d.inlByte 0 = 1 then
    s.modGroup g (fun x => { x with pend := x.pend ++ [⟨isRun, d.inlAt 8 8, members.map (fun r => s.idOf r.kind r.idx)⟩] })
  else s

/-- GROUP_HOLD with a time, on this device; FENCED when the group reaches a FENCED member (R370). -/
def State.groupHold (s : State) (d : Desc) (f0 : Nat) : CmdResult :=
  let i := d.object
  let fenced := s.groupFenced i
  let rs := (s.flatHere false i).filter (fun r => (s.life r).cmd == .run)
  let s' := if s.cas.fence.isSome then s else (s.groupHoldAt i f0).groupPending (idIdx i) d false rs
  let out := s'.okAt f0
  let others := (s.groupElsewhere i).filter (fun m => !s.fencedMember m)
  if fenced then { out with status := .fenced, carry := others } else { out with carry := others }

/-- GROUP_RUN with a time, on this device (R369). -/
def State.groupRun (s : State) (d : Desc) (t : Nat) : CmdResult :=
  let i := d.object
  if s.groupFenced i then s.fail .fenced
  else
    let rs := s.groupRunnable i
    let r := s.groupRunAt i t d
    if r.status = .ok then { r with s := r.s.groupPending (idIdx i) d true rs, carry := s.groupElsewhere i } else r

/-- GROUP_HOLD (R370, R371). -/
def cmdGroupHold (d : Desc) (s : State) : CmdResult :=
  match s.groupTime d true with
  | .error k => s.bad k
  | .ok f0 => s.groupHold d f0

/-- GROUP_RUN (R369, R371). -/
def cmdGroupRun (d : Desc) (s : State) : CmdResult :=
  match s.groupTime d false with
  | .error k => s.bad k
  | .ok t => s.groupRun d t

/-- A descriptor's inline block without a MODE: OBJ_HOLD and OBJ_RUN on a GROUP act as IMMEDIATE (R371). -/
def immediate (d : Desc) : Desc := { d with inl := 0 }

/-- OBJ_OPEN (R359, R372). -/
def cmdObjOpen (d : Desc) (s : State) : CmdResult :=
  match s.refOf d.object with
  | none => s.fail .badObject
  | some r =>
    if r.kind = .group then
      if !(s.group r.idx).defined then s.fail .notPermitted
      else { ((s.flatHere false d.object).foldl State.openObj s).okCmd with carry := s.groupElsewhere d.object }
    else (s.openObj r).okCmd

/-- OBJ_HOLD (R359, R370). -/
def cmdObjHold (d : Desc) (s : State) : CmdResult :=
  match s.refOf d.object with
  | none => s.fail .badObject
  | some r =>
    if r.kind = .group then s.groupHold (immediate d) s.now
    else
      let s' := s.holdObj r
      s'.okAt (((s'.life r).holdAt).getD s.now)

/-- OBJ_RUN (R359, R369). -/
def cmdObjRun (d : Desc) (s : State) : CmdResult :=
  match s.refOf d.object with
  | none => s.fail .badObject
  | some r => if r.kind = .group then s.groupRun (immediate d) s.now else s.runObj r

/-- The groups of the shared configuration (R323) when group `g`, which has or had members on several devices, gets new members or is
closed. -/
def spanTable (g : Nat) (members : List Id) (close : Bool) (t : CasTables) : CasTables :=
  let rest := t.groups.filter (fun x => x.1 != g)
  { t with groups := if close then rest else sortBy Prod.fst ((g, members) :: rest) }

/-- OBJ_CLOSE (R359, R372). -/
def cmdObjClose (d : Desc) (s : State) : CmdResult :=
  match s.refOf d.object with
  | none => s.fail .badObject
  | some r =>
    if r.kind = .group then
      let others := s.groupElsewhere d.object
      let spans := (s.group r.idx).members.any (fun i => !s.idLocal i)
      if spans && s.isMaster && s.cas.next.isSome then s.fail .notPermitted
      else
        let s := (sortBy (fun r => kindRank r.kind) (s.flatHere false d.object)).foldl State.closeObj s
        let s := if !spans then s.groupClose r.idx
          else if s.isMaster then s.epochAdvance (spanTable r.idx [] true s.latestTables) else s
        { s.okCmd with carry := others }
    else
      let s' := s.closeObj r
      s'.okAt (((s'.life r).holdAt).getD s.now)

/-- LIVE_SET (R365). -/
def cmdLiveSet (d : Desc) (s : State) : CmdResult :=
  let es := liveEntries d
  let k := d.inlByte 1
  match s.refOf d.object with
  | none => s.fail .badObject
  | some r =>
    if r.kind ≠ .group ∧ (liveWords r.kind = 0 ∨ r = ⟨.conv, 4⟩) then s.fail .notPermitted
    else if d.inlByte 0 < 1 ∨ 3 < d.inlByte 0 then s.bad 24
    else if r.kind ≠ .group then
      if k ≠ r.kind.code then s.bad 25
      else match s.liveBad r es with
        | some k => s.bad k
        | none =>
          let after := s.liveObj es r
          if !s.liveFits after r then s.fail .resourcesExhausted
          else after.okAt (if (s.life r).cmd = .run then s.liveBoundary r else s.now)
    else match Kind.ofCode k with
      | none => s.bad 25
      | some kind =>
        if liveWords kind = 0 then s.bad 25
        else
          let rs := (s.flatHere true d.object).filter (fun r => r.kind == kind && (s.life r).cmd != .closed)
          match rs.findSome? (fun r => s.liveBad r es) with
          | some k => s.bad k
          | none =>
            -- the ceiling is checked with the levels that all members are about to take
            let after := rs.foldl (fun s r => s.liveObj es r) s
            if rs.any (fun r => !s.liveFits after r) then s.fail .resourcesExhausted
            else { after.okCmd with carry := s.groupElsewhere d.object }

/-! ## GROUP_DEFINE (R366, R367) -/

/-- An identifier as it is stored: 0xFF becomes this device's index. -/
def State.stored (s : State) (i : Id) : Id := if idDev i = 0xFF then BitVec.ofNat 32 (s.selfDev * 2 ^ 24 + i.toNat % 2 ^ 24) else i

/-- The groups that a group reaches, itself included. -/
def State.groupReach (s : State) : Nat → Id → List Id
  | 0, _ => []
  | fuel + 1, i =>
    if idKind i = Kind.group.code then i :: (s.group (idIdx i)).members.flatMap (s.groupReach fuel) else []

/-- A member that R366 permits in group `g`. -/
def State.memberOk (s : State) (g i : Id) : Bool :=
  s.idValid i &&
  (match idRef i with
   | some r =>
     match r.kind with
     | .device | .alo => false
     | .conv => decide (r.idx < 4)
     | .group => (!s.idLocal i || (s.group r.idx).defined) && !(s.groupReach 256 i).contains g
     | _ => true
   | none => false)

/-- The first identifier of a list that breaks R366, by position. -/
def State.memberBad (s : State) (mode : Nat) (g : Id) (now : List Id) : Nat → List Id → List Id → Option Nat
  | _, _, [] => none
  | k, seen, i :: is =>
    let bad := seen.contains i || (if mode = 2 then !now.contains i else !s.memberOk g i) || (mode == 1 && now.contains i)
    if bad then some k else s.memberBad mode g now (k + 1) (i :: seen) is

/-- Member entries over all groups, another one than `g`. -/
def State.groupEntries (s : State) (g : Nat) : Nat :=
  ((indexed 0 s.host.groups).map (fun x => if x.1 = g then 0 else x.2.members.length)).sum

/-- GROUP_DEFINE. A change to membership on another device waits for the epoch that announces it (R324, R367). -/
def cmdGroupDefine (d : Desc) (s : State) : CmdResult :=
  let n := d.plen.toNat
  let g := idIdx d.object
  let x := s.group g
  let mode := d.inlByte 0
  if 1024 < n then s.fail .lengthExceeds
  else if 2 < mode then s.bad 24
  else if n % 4 ≠ 0 then s.bad 12
  else if mode ≠ 0 ∧ x.defined = false then s.bad 24
  else
    let ids := (List.range (n / 4)).map (fun k => s.stored (BitVec.ofNat 32 (leAt d.bytes (4 * k) 4)))
    match s.memberBad mode (s.stored d.object) x.members 0 [] ids with
    | some k => s.bad (64 + 4 * k)
    | none =>
      let members := match mode with | 0 => ids | 1 => x.members ++ ids | _ => x.members.filter (fun i => !ids.contains i)
      let spans (is : List Id) : Bool := is.any (fun i => !s.idLocal i)
      if 256 < members.length then s.bad 12
      else if 4096 < s.groupEntries g + members.length then s.fail .resourcesExhausted
      else if spans members || spans x.members then
        if !s.isMaster || s.cas.next.isSome then s.fail .notPermitted
        else
          let s := s.modGroup g (fun y => { y with defined := true })
          (s.epochAdvance (spanTable g members (mode == 0 && n == 0) s.latestTables)).okCmd
      else if mode = 0 ∧ n = 0 then (s.groupClose g).okCmd
      else (s.modGroup g (fun y => { y with defined := true, members := members })).okCmd

/-- GROUP_AT_INDEX (R371): the pending command of group `g` acts at its index; what each member does there stands in its life. -/
def execGroupAtIndex (g : Nat) (s : State) : Out :=
  match (s.group g).pend with
  | [] => done s s
  | q :: qs =>
    let idx := qs.foldl (fun (m : Nat) p => min m p.index) q.index
    let hold := (q :: qs).any (fun p => p.index == idx && !p.isRun)
    let at_ := if hold then alignUp perFrame (idx * perSample) else idx * perSample
    let u := s.advance at_
    done s (if at_ ≤ u.now then u.modGroup g (fun x => { x with pend := x.pend.filter (fun p => p.index != idx) }) else u)

end Sys2Proof.Machine
end

