-- ==== Sys2Proof/Machine/Opcodes.lean ====
section
/-! DEFINITION. The opcodes: the objects that each accepts, and the inline bits that each uses (R377, R347, R365 and the commands' own chapters). -/
namespace Sys2Proof.Machine
open Sys2Proof

def opOpen : Nat := 0x0100
def opHold : Nat := 0x0101
def opRun : Nat := 0x0102
def opClose : Nat := 0x0103
def opQuery : Nat := 0x0104
def opGroupDefine : Nat := 0x0105
def opGroupHold : Nat := 0x0106
def opGroupRun : Nat := 0x0107
def opPassSet : Nat := 0x0200
def opDemodSet : Nat := 0x0201
def opEeSet : Nat := 0x0202
def opProgSet : Nat := 0x0203
def opPortSet : Nat := 0x0204
def opCarrierSet : Nat := 0x0205
def opLiveSet : Nat := 0x0206
def opAfList : Nat := 0x0300
def opAfPolicy : Nat := 0x0301
def opTbSet : Nat := 0x0400
def opTbAdj : Nat := 0x0401
def opCueSet : Nat := 0x0402
def opSlateArm : Nat := 0x0403
def opCapStart : Nat := 0x0500
def opCapStop : Nat := 0x0501
def opInsStart : Nat := 0x0600
def opInsStop : Nat := 0x0601
def opSweep : Nat := 0x0602
def opCasJoin : Nat := 0x0700
def opCasLeave : Nat := 0x0701
def opCasEpoch : Nat := 0x0702
def opCalRun : Nat := 0x0800
def opCalPolicy : Nat := 0x0801
def opNvmCommit : Nat := 0x0802
def opStoryboard : Nat := 0x0803
def opLcAdvance : Nat := 0x0804
def opWipe : Nat := 0x0805

/-- Every opcode (R377). -/
def opcodes : List Nat :=
  [opOpen, opHold, opRun, opClose, opQuery, opGroupDefine, opGroupHold, opGroupRun, opPassSet, opDemodSet, opEeSet, opProgSet,
   opPortSet, opCarrierSet, opLiveSet, opAfList, opAfPolicy, opTbSet, opTbAdj, opCueSet, opSlateArm, opCapStart, opCapStop, opInsStart,
   opInsStop, opSweep, opCasJoin, opCasLeave, opCasEpoch, opCalRun, opCalPolicy, opNvmCommit, opStoryboard, opLcAdvance, opWipe]

/-- The opcode accepts an object of this kind and index (R377). -/
def opAccepts (op : Nat) (r : Ref) : Bool :=
  let life : List Nat := [opOpen, opHold, opRun, opClose, opLiveSet]
  match r.kind with
  | .device => [opTbSet, opTbAdj, opSlateArm, opCasJoin, opCasLeave, opCasEpoch, opCalRun, opCalPolicy, opNvmCommit, opStoryboard, opLcAdvance, opWipe].contains op
  | .group => (life ++ [opQuery, opGroupDefine, opGroupHold, opGroupRun, opInsStart, opInsStop]).contains op
  | .pass => (life ++ [opQuery, opPassSet]).contains op
  | .fmd | .amd => (life ++ [opQuery, opDemodSet]).contains op
  | .ee => (life ++ [opQuery, opEeSet]).contains op
  | .prog => (life ++ [opQuery, opProgSet, opAfList, opAfPolicy, opInsStart, opInsStop]).contains op
  | .port => (life ++ [opQuery, opPortSet]).contains op
  | .fcar | .dcar => (life ++ [opQuery, opCarrierSet]).contains op
  | .cue => (life ++ [opQuery, opCueSet]).contains op
  | .alo => (life ++ [opQuery, opNvmCommit]).contains op || (op == opSweep && r.idx == 1)
  | .conv => (life ++ [opQuery, opCalRun]).contains op || (op == opPassSet && decide (r.idx < 4))
  | .cap => (life ++ [opQuery, opCapStart, opCapStop]).contains op

/-- Step 3 of R347. -/
def State.objectOk (s : State) (op : Nat) (i : Id) : Bool :=
  s.idValid i && (match idRef i with | some r => opAccepts op r | none => false)

/-- Step 4 of R347: the DETAIL of a reserved FLAGS bit or an unaligned BUFADDR. -/
def flagsBad (d : Desc) : Option Nat :=
  if 8 ≤ d.flags.toNat then some 8
  else if d.plen ≠ 0 ∧ d.bufAddr.toNat % 4 ≠ 0 then some 16
  else none

/-- The opcodes that a Storyboard may hold (R383); of CAS_EPOCH only MODE ADVANCE. -/
def sbPermits (d : Desc) : Bool :=
  let op := d.opcode.toNat
  [opOpen, opHold, opRun, opClose, opGroupDefine, opGroupHold, opGroupRun, opPassSet, opDemodSet, opEeSet, opProgSet, opPortSet,
   opCarrierSet, opLiveSet, opAfList, opAfPolicy, opSlateArm, opCasJoin, opCalPolicy].contains op ||
  (op == opCasEpoch && d.inlByte 0 == 1)

/-- The inline block's bits `8 * from` up to `8 * to`. -/
def inlineBytes (from_ to_ : Nat) : BitVec 320 := BitVec.ofNat 320 (2 ^ (8 * to_) - 2 ^ (8 * from_))

/-- The inline bits of a Storyboard's commands that are not reserved. -/
def inlineUsed (op : Nat) (k : Kind) : BitVec 320 :=
  if [opPassSet, opDemodSet, opEeSet, opProgSet, opCarrierSet].contains op then (kindMask k).setWidth 320
  else if op = opGroupDefine ∨ op = opCasEpoch then inlineBytes 0 1
  else if op = opGroupHold ∨ op = opGroupRun then inlineBytes 0 1 ||| inlineBytes 8 16
  else if op = opLiveSet then
    inlineBytes 0 2 ||| inlineBytes 4 5 ||| inlineBytes 8 17 ||| inlineBytes 20 29 ||| inlineBytes 32 40
  else if op = opAfPolicy then (tableMask 128 afFields).setWidth 320
  else if op = opSlateArm then inlineBytes 0 3 ||| BitVec.ofNat 320 (2 ^ 24)
  else if op = opCasJoin then BitVec.ofNat 320 3 ||| inlineBytes 1 3 ||| BitVec.ofNat 320 (3 * 2 ^ 24) ||| inlineBytes 4 6
  else if op = opCalPolicy then (tableMask 64 calFields).setWidth 320
  else 0

/-- The buffer bytes of a Storyboard's commands whose reserved fields are not zero: PORT_SET, AF_LIST_SET, CAS_EPOCH. -/
def bufferReserved (d : Desc) (op : Nat) : List Nat :=
  let bs := d.bytes
  let bad (mask : Nat → Nat) : List Nat := (List.range bs.length).filter (fun k => (byteAt bs k).toNat &&& mask k != 0)
  if op = opPortSet then bad (fun k => 255 - fget (kindMask .port) ⟨8 * k, 8, 0, false, 0⟩)
  else if op = opAfList then
    bad (fun k => match k % 16 with | 1 => 0xF8 | 2 => 0xF0 | 3 => 0xFF | 14 => 0xFF | 15 => 0xFF | _ => 0)
  else if op = opCasEpoch then bad (fun k => if 12 ≤ k % 16 then 0xFF else 0)
  else []

end Sys2Proof.Machine
end

