-- ==== Sys2Proof/Machine/Storage.lean ====
section
/-! DEFINITION. What is stored and what is wiped: NVM_COMMIT and the ends of MRAM writes, Storyboard images, life-cycle steps and WIPE (R380 to R385, R416 to R418, R455 to R461). -/
namespace Sys2Proof.Machine
open Sys2Proof

/-! ## NVM_COMMIT (R380) -/

/-- The object that a RECORD names: false DEVICE, true ALO; the record is written for an ALO by its index. -/
def recordAlo (r : Nat) : Bool := r == 4 || r == 5

/-- MRAM record ID of a RECORD. -/
def recordId (r idx : Nat) : Nat :=
  if r = 1 then idClk else if r = 2 then idTx else if r = 3 then idTime else if idx = 0 then idHopRx else idHopTx

/-- Length of the buffer that a RECORD takes. -/
def recordLen (r : Nat) : Nat := if r = 1 ∨ r = 2 then 16 else if r = 3 then 160 else 0

/-- The first field of the buffer that fails its check. -/
def recordBad (r : Nat) (bs : List Byte) : Option Field :=
  if r = 1 then firstFail (clkChecks (blockOf 128 bs))
  else if r = 2 then firstFail (txChecks (blockOf 128 bs))
  else none

/-- The body that is written: reserved bits are zero. -/
def State.recordBody (s : State) (r idx : Nat) (bs : List Byte) : List Byte :=
  if r = 1 then blockBytes (blockOf 128 bs &&& tableMask 128 clkFields)
  else if r = 2 then blockBytes (blockOf 128 bs &&& tableMask 128 txFields)
  else if r = 3 then blockBytes (blockOf 1280 bs &&& tableMask 1280 timeFields)
  else if r = 4 then hopBytes (s.alo idx).table
  else zeros 4096

/-- NVM_COMMIT. -/
def cmdNvmCommit (d : Desc) (s : State) : CmdResult :=
  let r := d.inlByte 0
  let idx := idIdx d.object
  if r = 0 ∨ 5 < r then s.bad 24
  else if recordAlo r ≠ (idKind d.object == Kind.alo.code) then s.fail .badObject
  else if s.fuses.lcState = 3 then s.fail .notPermitted
  else if d.plen.toNat ≠ recordLen r then s.bad 12
  else match recordBad r d.bytes with
    | some f => s.bad (64 + f.lsb / 8)
    | none =>
      let id := recordId r idx
      { (s.nvmStart id (s.recordBody r idx d.bytes)).okCmd with wait := some (.nvm id, false) }

/-- What the end of a record's write means for the device (R290, R350, R418, R421). -/
def State.nvmEnded (s : State) (id gen : Nat) (body : List Byte) (ok : Bool) : State :=
  if id = idTime then
    if ok then
      { s with tb := { s.tb with profileNext := some (alignNext perFrame s.now, blockOf 1280 body &&& tableMask 1280 timeFields) } }
    else s.endFirst (.nvm id) .aborted s.now
  else if idCal 0 ≤ id ∧ id ≤ idCal 5 then s.calWritten (id - idCal 0) (if ok then gen else 0)
  else s.endFirst (.nvm id) (if ok then .ok else .aborted) s.now

/-- NVM_WRITE_DONE (R417, R439): one attempt ends with its read-back; a mismatch is written once more. -/
def execNvmWriteDone (t id seq : Nat) (ok : Bool) (s : State) : Out :=
  let u := s.advance t
  if id = idDailies then done s (u.dailyWritten seq ok)
  else match u.mram.writes.find? (fun w => w.id == id) with
    | none => done s u
    | some w =>
      if ok then
        let v := ({ u with mram := u.mram.setCopy id w.toA (nvmCopy id w.gen w.body) } : State).nvmNext w
        done s (v.nvmEnded id w.gen w.body true)
      else if w.attempt = 0 then
        done s { u with mram := { u.mram with writes := u.mram.writes.map (fun x => if x = w then { x with attempt := 1 } else x) } }
      else done s (((u.nvmNext w).nvmFail id).nvmEnded id w.gen w.body false)

/-! ## Storyboard images (R381, R383) -/

/-- The descriptor in 64 bytes (R346), with the parameter data that follow it. -/
def descOf (bs : List Byte) (buf : List Byte) : Desc :=
  { ring := cplLink, opcode := BitVec.ofNat 16 (leAt bs 0 2), tag := BitVec.ofNat 16 (leAt bs 2 2), object := BitVec.ofNat 32 (leAt bs 4 4),
    flags := BitVec.ofNat 32 (leAt bs 8 4), plen := BitVec.ofNat 32 (leAt bs 12 4), bufAddr := BitVec.ofNat 64 (leAt bs 16 8),
    inl := BitVec.ofNat 320 (leAt bs 24 40), buf := buf, readOk := true }

/-- The first byte of a list that is not zero, from offset `k`. -/
def nonZeroFrom (k : Nat) : List Byte → Option Nat
  | [] => none
  | b :: bs => if b = 0 then nonZeroFrom (k + 1) bs else some k

/-- Length of an entry whose descriptor has a PLEN. -/
def entryLen (plen : Nat) : Nat := 72 + (plen + 3) / 4 * 4

/-- The first byte that is set in a block outside a mask. -/
def reservedByte (b mask : BitVec 320) : Option Nat :=
  (List.range 40).find? (fun k => (b &&& ~~~ mask).extractLsb' (8 * k) 8 != 0)

/-- The first failing byte of an entry's descriptor and data, counted from the descriptor. -/
def State.entryDescBad (s : State) (d : Desc) (tail : List Byte) : Option Nat :=
  let op := d.opcode.toNat
  if !opcodes.contains op || !sbPermits d then some 0
  else if !s.objectOk op d.object then some 4
  else match flagsBad d with
    | some k => some k
    | none =>
      if d.bufAddr ≠ 0 then some 16
      else
        let kind := match idRef d.object with | some r => r.kind | none => .device
        match reservedByte d.inl (inlineUsed op kind) with
        | some k => some (24 + k)
        | none => match (bufferReserved d op).head? with
          | some k => some (64 + k)
          | none => nonZeroFrom (64 + d.plen.toNat) tail

/-- The first failing byte of the entry at offset `o`, of whose image `room` bytes are left. -/
def State.entryBad (s : State) (im : List Byte) (o : Nat) : Option Nat :=
  let e := im.drop o
  let plen := leAt e 20 4
  let len := leAt e 0 2
  if e.length < 72 ∨ e.length < len then some o
  else if 65536 < plen then some (o + 20)
  else if len ≠ entryLen plen then some o
  else if 4 ≤ leAt e 2 1 then some (o + 2)
  else if leAt e 3 1 ≠ 0 then some (o + 3)
  else if 65535 < leAt e 4 4 then some (o + 4)
  else
    let data := (e.drop 72).take (len - 72)
    (s.entryDescBad (descOf (e.drop 8) (data.take plen)) (data.drop plen)).map (fun k => o + 8 + k)

/-- The first failing byte of `n` entries that start at offset `o` and fill the image. -/
def State.entriesBad (s : State) (im : List Byte) : Nat → Nat → Option Nat
  | 0, o => if o = im.length then none else some o
  | n + 1, o =>
    match s.entryBad im o with
    | some k => some k
    | none => s.entriesBad im n (o + leAt im o 2)

/-- The first failing byte of an image (R383). -/
def State.imageBad (s : State) (im : List Byte) : Option Nat :=
  let len := leAt im 0 4
  if len ≠ im.length ∨ len % 4 ≠ 0 ∨ len < 32 ∨ 163840 < len then some 0
  else if leAt im 4 2 ≠ 1 then some 4
  else if 4096 < leAt im 6 2 then some 6
  else if 2 ≤ leAt im 12 1 then some 12
  else match nonZeroFrom 13 ((im.drop 13).take 19) with
    | some k => some k
    | none => s.entriesBad im (leAt im 6 2) 32

/-- The image that replays nothing. -/
def emptyImage : List Byte := leBytes 4 32 ++ leBytes 2 1 ++ zeros 26

/-- The entries of an image from offset `o`, numbered from `k`: number, EFLAGS, DELAY_TICKS, descriptor. -/
def imageEntries (im : List Byte) : Nat → Nat → Nat → List (Nat × Nat × Nat × Desc)
  | 0, _, _ => []
  | n + 1, k, o =>
    let e := im.drop o
    (k, leAt e 2 1, leAt e 4 4, descOf (e.drop 8) ((e.drop 72).take (leAt e 20 4))) :: imageEntries im n (k + 1) (o + leAt e 0 2)

/-! ## STORYBOARD_SET (R382, R385) -/

/-- A chunk of an image; the new staging, or the DETAIL of BAD_PARAM. -/
def stageChunk (b : Storyboard) (off total : Nat) (last : Bool) (data : List Byte) : Except Nat (List Byte) :=
  let have_ := if off = 0 then [] else b.staged
  if off ≠ have_.length then .error 28
  else if off ≠ 0 ∧ total ≠ b.stagedTotal then .error 32
  else if last && have_.length + data.length != total then .error 12
  else .ok (have_ ++ data)

/-- WRITE when `store`, else CHECK. -/
def State.sbStage (s : State) (d : Desc) (store : Bool) : CmdResult :=
  let total := d.inlAt 8 4
  let last := (d.inlByte 1).testBit 0
  if s.fuses.lcState = 3 then s.fail .notPermitted
  else if 163840 < total then s.fail .lengthExceeds
  else match stageChunk s.host.sb (d.inlAt 4 4) total last d.bytes with
    | .error k => (s.modSb (fun b => { b with staged := [], stagedTotal := 0 })).bad k
    | .ok im =>
      let s := s.modSb (fun b => { b with staged := im, stagedTotal := total })
      if !last then s.okCmd
      else match s.imageBad im with
        | some k => s.bad (64 + k)
        | none => (if store then s.nvmStart idStoryboard im else s).okCmd

/-- The STATUS block. -/
def State.sbStatus (s : State) : List Byte :=
  let b := s.host.sb
  let stored := s.mram.inUse idStoryboard
  let next := match stored with | some (_, im, _) => if leAt im 6 2 = 0 then 0 else leAt im 8 4 | none => 0
  leBytes 1 b.st.code ++ zeros 1 ++ leBytes 2 b.nent ++ leBytes 2 b.doneCnt ++ leBytes 2 b.failCnt ++ leBytes 2 b.firstFail ++
  leBytes 1 b.firstStatus ++ zeros 1 ++ leBytes 4 b.buildRun.toNat ++ leBytes 4 next ++
  leBytes 4 (match stored with | some (g, _, _) => g | none => 0) ++ leBytes 8 b.endTime.toNat

/-- STORYBOARD_SET with MODE WRITE. -/
def cmdStoryboardWrite (d : Desc) (s : State) : CmdResult := s.sbStage d true

/-- STORYBOARD_SET with MODE CHECK. -/
def cmdStoryboardCheck (d : Desc) (s : State) : CmdResult := s.sbStage d false

/-- STORYBOARD_SET with MODE CLEAR. -/
def cmdStoryboardClear (_d : Desc) (s : State) : CmdResult :=
  if s.fuses.lcState = 3 then s.fail .notPermitted else (s.nvmStart idStoryboard emptyImage).okCmd

/-- STORYBOARD_SET with MODE STATUS. -/
def cmdStoryboardStatus (d : Desc) (s : State) : CmdResult :=
  if s.fuses.lcState = 3 then s.fail .notPermitted
  else if d.plen.toNat < 32 then s.bad 12 else s.okData d s.sbStatus

/-! ## Life cycle (R457 to R460) -/

/-- The device's serial number confirms the command. -/
def State.serialOk (s : State) (d : Desc) : Bool := d.inlAt 8 8 == s.fuses.serial.toNat

/-- A step that R457 permits. -/
def lcStepOk (from_ to_ : Nat) : Bool := (from_ == 0 && to_ == 1) || (from_ == 1 && to_ == 2) || (decide (from_ ≤ 2) && to_ == 3)

/-- Length of the buffer of a step. -/
def lcLen (to_ : Nat) : Nat := if to_ = 1 then 32 else if to_ = 3 then 144 else 0

/-- A return token passes (R459). -/
def State.tokenOk (s : State) (bs : List Byte) : Bool :=
  let key := (bs.drop 16).take 64
  let hash := if s.fuses.lcState = 0 then s.fuses.keyK else s.fuses.keyO
  (bs.take 4).map BitVec.toNat == [0x52, 0x54, 0x4E, 0x4B] && leAt bs 8 8 == s.fuses.serial.toNat &&
  leNat (sha256 key) == hash.toNat && ecdsaOk key ((bs.drop 80).take 64) (sha256 (bs.take 80))

/-- LC_ADVANCE. -/
def cmdLcAdvance (d : Desc) (s : State) : CmdResult :=
  let to_ := d.inlByte 0
  if !lcStepOk s.fuses.lcState to_ then s.bad 24
  else if !s.serialOk d then s.bad 32
  else if d.plen.toNat ≠ lcLen to_ then s.bad 12
  else if to_ = 1 ∧ leNat d.bytes = 0 then s.bad 64
  else if to_ = 3 ∧ s.tokenOk d.bytes = false then s.fail .notPermitted
  else ({ s with lcPending := some ⟨to_, if to_ = 1 then blockOf 256 d.bytes else s.fuses.keyO⟩ } : State).okCmd

/-- A pair is blown; a pair of which one side fails reads as blown all the same and disagrees (R430, R460). -/
def blow (both : Bool) : Bool × Bool := (true, both)

/-- The fuses after a step. -/
def Fuses.step_ (f : Fuses) (p : LcPending) (lcBoth dbgBoth : Bool) : Fuses :=
  if p.target = 1 then { f with lcP := blow lcBoth, keyO := p.keyO }
  else if p.target = 2 then { f with lcF := blow lcBoth, dbg := if pairBlown f.dbg then f.dbg else blow dbgBoth }
  else { f with lcR := blow lcBoth }

/-- The record IDs of the profile and Storyboard region, and of the key and record region. -/
def profileIds : List Nat := [idClk, idTx, idTime, idHopRx, idHopTx, idStoryboard]
def recordIds : List Nat := (List.range 6).map idCal

/-- Both copies of the named records are gone. -/
def Mram.wipe (m : Mram) (ids : List Nat) : Mram := { m with recs := m.recs.filter (fun r => !ids.contains r.1) }

/-- The debug access port closes: its instruction selects the bypass register (R463). -/
def Tap.closeDebug (p : Tap) : Tap := { p with debugOpen := false, ir := if p.ir = .debug then .bypass else p.ir }

/-- LC_CHANGE (R460): at the next tick boundary, the Dailies entry, the fuses, the wipe of both regions, a warm reset. -/
def execLcChange (lcBoth dbgBoth : Bool) (s : State) : Out :=
  match s.lcPending with
  | none => done s s
  | some p =>
    if s.flags.halted then done s s
    else
      let u := s.advance (if s.atTick then alignNext perTick s.now else alignUp perTick s.now)
      let (code, u) := u.fresh
      let u := u.addDaily code sevError u.devId (leBytes 1 p.target ++ zeros 3) u.now
      let m := u.mram.wipe (profileIds ++ recordIds)
      let u := { u with mram := { m with dailies := [] }, wipeRun := none }
      let fuses := s.fuses.step_ p lcBoth dbgBoth
      doneFw s { u.deviceReset true .lifeCycle with resetPin := true } fuses
        (if fuses.dbgLock then s.tap.closeDebug else s.tap)

/-! ## WIPE (R461) -/

/-- WIPE: both copies of every record of the named regions are invalid before the completion. -/
def cmdWipe (d : Desc) (s : State) : CmdResult :=
  let regions := d.inlByte 0
  let profile := regions.testBit 0
  let records := regions.testBit 1
  if !profile && !records then s.bad 24
  else if !s.serialOk d then s.bad 32
  else
    let old : WipeRun := s.wipeRun.getD ⟨false, false, false⟩
    ({ s with
      mram := s.mram.wipe ((if profile then profileIds else []) ++ (if records then recordIds else [])),
      wipeRun := some ⟨old.profile || profile, old.records || records, old.reset || (d.inlByte 1).testBit 0⟩ } : State).okCmd

/-- WIPE_OVERWRITE_END: everything else in the regions is zero; with RESET a warm reset follows at the next tick boundary. -/
def execWipeOverwriteEnd (t : Nat) (s : State) : Out :=
  let u := s.advance t
  match u.wipeRun with
  | none => done s u
  | some w =>
    let v := { u with wipeRun := none, mram := if w.records then { u.mram with dailies := [] } else u.mram }
    if w.reset then done s ((v.advance (alignNext perTick v.now)).warmReset .lifeCycle) else done s v

end Sys2Proof.Machine
end

