-- ==== Sys2Proof/Machine/TakeUp.lean ====
section
/-! DEFINITION. Taking up commands: the checks before a command's own, where it runs, its completion or its wait, and when a descriptor may be taken up (R10, R329, R346 to R350, R376, R384). -/
namespace Sys2Proof.Machine
open Sys2Proof

/-! ## The checks of R376 -/

/-- The device that an identifier lies on is FENCED. -/
def State.fencedId (s : State) (i : Id) : Bool := if s.idLocal i then s.cas.fence.isSome else s.fencedMember (idDev i)

/-- Step 2: the target lies on a FENCED member (R219, R326, R369, R370). -/
def State.fencedTarget (s : State) (op : Nat) (i : Id) : Bool :=
  if [opQuery, opCasLeave, opCasEpoch].contains op then false
  else if op = opInsStart ∨ op = opInsStop then
    let all := s.targetAny i
    !all.isEmpty && all.all s.fencedId
  else if idKind i = Kind.group.code ∧ s.idLocal i = true then
    if [opHold, opRun, opGroupHold, opGroupRun].contains op then false
    else if op = opGroupDefine then s.cas.fence.isSome else s.groupFenced i
  else s.fencedId i

/-- Step 3: the object is CLOSED, and R359 and R372 give the command no other outcome. -/
def State.closedTarget (s : State) (op : Nat) (r : Ref) : Bool :=
  if [opOpen, opClose, opQuery, opGroupDefine].contains op then false
  else match r.kind with
    | .group => !(s.group r.idx).defined
    | .device | .alo => false
    | _ => (s.life r).cmd == .closed

/-- Step 4: a background object, a mirror, an ALO object or CONV4 does not accept the command. -/
def State.specialTarget (s : State) (op : Nat) (r : Ref) : Bool :=
  ((s.life r).background && op != opQuery) ||
  ((s.life r).mirror && ! [opQuery, opLiveSet, opInsStart, opInsStop].contains op) ||
  (r.kind == .alo && ! [opQuery, opNvmCommit, opSweep].contains op) ||
  (r == ⟨.conv, 4⟩ && ! [opQuery, opCalRun].contains op)

/-- Where a command comes from: a ring of this device, its Storyboard, or the cascade's master. -/
inductive Source where
  | own | storyboard | link
  deriving DecidableEq, Repr

/-- Step 1, and the Storyboard's own rule (R329, R384); only the master carries a command to another member. -/
def State.roleRefuses (s : State) (src : Source) (op : Nat) (i : Id) : Bool :=
  s.subordinate &&
  (match src with
   | .own => op != opCasLeave && !(op == opQuery && s.idLocal i)
   | .storyboard => !s.idLocal i
   | .link => false)

/-- Steps 1 to 4 of R376 on this device; the object's own state is checked where the object is. -/
def State.precheck (s : State) (src : Source) (op : Nat) (i : Id) : Option Status :=
  if s.roleRefuses src op i then some .notPermitted
  else if s.fencedTarget op i then some .fenced
  else match s.refOf i with
    | some r => if s.closedTarget op r || s.specialTarget op r then some .notPermitted else none
    | none => if op = opCasEpoch then some .notPermitted else none

/-! ## The commands (R377) -/

/-- CAS_EPOCH: role first, then MODE (R332). -/
def cmdCasEpoch (d : Desc) (s : State) : CmdResult :=
  match d.inlByte 0 with
  | 0 => cmdEpochStatus d s
  | 1 => cmdEpochAdvance d s
  | 2 => cmdEpochResync d s
  | _ => if !s.isMaster then s.fail .notPermitted else s.bad 24

/-- STORYBOARD_SET by MODE (R382). -/
def cmdStoryboard (d : Desc) (s : State) : CmdResult :=
  match d.inlByte 0 with
  | 0 => cmdStoryboardWrite d s
  | 1 => cmdStoryboardClear d s
  | 2 => cmdStoryboardStatus d s
  | 3 => cmdStoryboardCheck d s
  | _ => s.bad 24

/-- The command of an opcode, with its own checks. -/
def State.runOp (s : State) (d : Desc) (op : Nat) : CmdResult :=
  if op = opOpen then cmdObjOpen d s
  else if op = opHold then cmdObjHold d s
  else if op = opRun then cmdObjRun d s
  else if op = opClose then cmdObjClose d s
  else if op = opQuery then cmdObjQuery d s
  else if op = opGroupDefine then cmdGroupDefine d s
  else if op = opGroupHold then cmdGroupHold d s
  else if op = opGroupRun then cmdGroupRun d s
  else if [opPassSet, opDemodSet, opEeSet, opProgSet, opCarrierSet].contains op then cmdInlineSet d s
  else if op = opPortSet then cmdPortSet d s
  else if op = opLiveSet then cmdLiveSet d s
  else if op = opAfList then cmdAfListSet d s
  else if op = opAfPolicy then cmdAfPolicySet d s
  else if op = opTbSet then cmdTbSet d s
  else if op = opTbAdj then cmdTbAdj d s
  else if op = opCueSet then cmdCueSet d s
  else if op = opSlateArm then cmdSlateArm d s
  else if op = opCapStart then cmdCapStart d s
  else if op = opCapStop then cmdCapStop d s
  else if op = opInsStart then cmdInsertStart d s
  else if op = opInsStop then cmdInsertStop d s
  else if op = opSweep then cmdSweepStart d s
  else if op = opCasJoin then cmdCasJoin d s
  else if op = opCasLeave then cmdCasLeave d s
  else if op = opCasEpoch then cmdCasEpoch d s
  else if op = opCalRun then cmdCalRun d s
  else if op = opCalPolicy then cmdCalPolicy d s
  else if op = opNvmCommit then cmdNvmCommit d s
  else if op = opStoryboard then cmdStoryboard d s
  else if op = opLcAdvance then cmdLcAdvance d s
  else cmdWipe d s

/-- Every check of R347 and R376 in order, then the command: here, or carried to the member that holds its object (R329). -/
def State.judge (s : State) (src : Source) (limit : Nat) (d : Desc) : CmdResult :=
  let op := d.opcode.toNat
  if !opcodes.contains op then s.fail .badOpcode
  else if src = .own ∧ limit < d.plen.toNat then s.fail .lengthExceeds
  else if !s.objectOk op d.object then s.fail .badObject
  else match flagsBad d with
    | some k => s.bad k
    | none => match s.precheck src op d.object with
      | some st => s.fail st
      | none =>
        if s.idLocal d.object ∨ op = opCasLeave then s.runOp d op
        else { s.okCmd with carry := [idDev d.object] }

/-! ## Completion, wait or carriage (R329, R349, R350) -/

/-- A completed command reports. -/
def State.complete (s : State) (src : Source) (cpl : Nat) (entry : Option (Nat × Nat)) (d : Desc) (r : CmdResult) : State :=
  if src = .link ∧ s.isMaster = true then s.carriedResult d.tag r.status r.detail r.ret
  else s.report d cpl entry r.status r.detail r.ret false false (s.t64At (r.time.getD s.now))

/-- The carriers of other members that a command names (R318). -/
def State.remoteCars (s : State) (d : Desc) : List Id :=
  (s.flatten 256 d.object).filter (fun i => !s.idLocal i && (idKind i == Kind.fcar.code || idKind i == Kind.dcar.code))

/-- One command is decided and acts. -/
def State.runCommand (s : State) (src : Source) (cpl : Nat) (entry : Option (Nat × Nat)) (limit : Nat) (d : Desc) : State :=
  let r := s.judge src limit d
  if src ≠ .link ∧ r.carry.isEmpty = false ∧ (r.status = .ok ∨ r.status = .fenced) then
    -- R329: on every device at B + 1; this device's part too
    let here := s.idLocal d.object
    let s := s.modCas (fun c => { c with
      sent := c.sent ++ [.command d], nextTick := if here then c.nextTick ++ [d] else c.nextTick,
      carried := c.carried ++ [⟨d, cpl, entry, s.t64At (s.now + perTick), r.carry.length + bit here, r.status, 0, [], s.remoteCars d⟩],
      remoteAir := if runOpcodes.contains d.opcode.toNat then c.remoteAir ++ s.remoteCars d else c.remoteAir })
    s.modRing cpl (fun x => { x with owed := x.owed + 1 })
  else match r.wait with
    | some (why, marked) =>
      let s := { r.s with host := { r.s.host with waiting := r.s.host.waiting ++ [(⟨d, cpl, entry, why, marked⟩ : Waiting)] } }
      s.modRing cpl (fun x => { x with owed := x.owed + 1 })
    | none => r.s.complete src cpl entry d r

/-- A descriptor is taken up from its ring: copied, released, checked, carried out; a read of host memory that fails puts the ring into
ERROR and the command has no effect (R345, R348). -/
def State.takeUp (s : State) (d : Desc) : State :=
  if !d.readOk then s.ringFail d.ring 6
  else
    let r := s.ring d.ring
    (s.releaseEntry d.ring).runCommand .own r.pair none r.bufSize d

/-! ## Deferral (R10, R348) -/

/-- A command of a ring that was taken up has not completed (R346). -/
def State.unfinished (s : State) (ring : Nat) : Bool :=
  s.host.waiting.any (fun w => w.desc.ring == ring && w.cpl != cplLink && w.entry.isNone) ||
  s.cas.carried.any (fun c => c.desc.ring == ring && c.entry.isNone)

/-- Nothing stops the controller from taking up commands of host rings at this boundary (R327, R329, R339, R432, R455). -/
def State.takesCommands (s : State) : Bool :=
  s.atTick && decide (s.phase = .released) && s.boot.ready && s.host.open_ && s.host.cmdEnTick && !s.flags.halted && !s.clk.mgmtStopped &&
  !s.isDeputy

/-- The first waiting descriptor of its ring can be taken up now. -/
def State.canTake (s : State) (d : Desc) : Bool :=
  let r := s.ring d.ring
  let c := s.ring r.pair
  s.takesCommands && r.isRunning kCmd && !r.unpaired && decide (0 < r.filled) && c.isRunning kCpl &&
  decide (c.filled + c.owed < c.entries) && !(d.waitPrev && s.unfinished d.ring)

/-- Descriptors of a ring that wait. -/
def State.queuedOn (s : State) (ring : Nat) : Bool := s.host.waitq.any (fun d => d.ring == ring)

/-- The ring is, or is about to be, a CMD ring: its area holds descriptors. -/
def Ring.holdsCommands (r : Ring) : Bool :=
  r.isRunning kCmd || (r.enable && decide (r.st = .disabled) && r.regCtl.toNat % 16 == kCmd)

/-- The host's next descriptor of a ring: taken up at once where nothing defers it, else left to later boundaries. -/
def State.submit (s : State) (d : Desc) : State :=
  if !(s.ring d.ring).holdsCommands then s
  else if !s.queuedOn d.ring && s.canTake d then s.takeUp d
  else { s with host := { s.host with waitq := s.host.waitq ++ [d] } }

/-- The waiting descriptors of one ring, in order, as far as nothing defers the next. -/
def State.drainRing (ring : Nat) : Nat → State → State
  | 0, s => s
  | n + 1, s =>
    match s.host.waitq.find? (fun d => d.ring == ring) with
    | none => s
    | some d =>
      if s.canTake d then
        State.drainRing ring n (({ s with host := { s.host with waitq := s.host.waitq.erase d } } : State).takeUp d)
      else s

/-- All CMD rings in ascending index (R348). -/
def State.drainRings (s : State) : State :=
  (List.range 64).foldl (fun s i => State.drainRing i s.host.waitq.length s) s

/-! ## Commands that the cascade brings (R329, R331) -/

/-- A command that takes effect at this tick boundary on this device. -/
def State.runLinked (s : State) (d : Desc) : State :=
  if d.opcode.toNat = opCasLeave then
    (if s.idLocal d.object then s.casLeave else if s.isDeputy ∧ idDev d.object = s.cas.master then s.takeOver false else s)
  else s.runCommand .link cplLink none 0 d

/-- All of them. -/
def State.runNextTick (s : State) : State :=
  s.cas.nextTick.foldl State.runLinked (s.modCas (fun c => { c with nextTick := [] }))

/-! ## Storyboard replay (R384, R385, R455) -/

/-- A Storyboard entry has not completed. -/
def State.entryWaits (s : State) (n : Nat) : Bool :=
  let mine (e : Option (Nat × Nat)) : Bool := match e with | some (k, _) => k == n | none => false
  s.host.waiting.any (fun w => mine w.entry) || s.cas.carried.any (fun c => mine c.entry)

/-- Some entry has not completed. -/
def State.anyEntryWaits (s : State) : Bool :=
  s.host.waiting.any (fun w => w.entry.isSome) || s.cas.carried.any (fun c => c.entry.isSome)

/-- Replay waits for the join of an earlier entry. -/
def State.joinHolds (s : State) : Bool :=
  match s.host.sb.joinWait with
  | some t => decide (s.cas.st = .joining) && decide (s.tick < t)
  | none => false

/-- One entry is taken up. -/
def State.takeEntry (s : State) (n eflags : Nat) (d : Desc) (rest : List (Nat × Nat × Nat × Desc)) : State :=
  let s := s.modSb (fun b => { b with
    todo := rest, doneCnt := b.doneCnt + 1, lastTick := s.tick,
    joinWait := if eflags.testBit 0 ∧ d.opcode.toNat = opCasJoin then some (s.tick + d.inlAt 4 2) else none })
  s.runCommand .storyboard cplLink (some (n, eflags)) 0 d

/-- The entries due at this tick boundary, `fuel` at most. -/
def State.replayEntries : Nat → State → State
  | 0, s => s
  | fuel + 1, s =>
    match s.host.sb.todo with
    | [] => s
    | (n, eflags, delay, d) :: rest =>
      let late : Bool := n == 0 || decide (s.host.sb.lastTick + delay ≤ s.tick)
      if late && !s.joinHolds && !(d.waitPrev && decide (0 < n) && s.entryWaits (n - 1)) then
        State.replayEntries fuel (s.takeEntry n eflags d rest)
      else s

/-- Replay at a tick boundary: at most 64 entries; it ends once all are taken up and completed. -/
def State.replayStep (s : State) : State :=
  if s.host.sb.st ≠ .replaying then s
  else
    let s := State.replayEntries 64 s
    if s.host.sb.st = .replaying ∧ s.host.sb.todo.isEmpty = true ∧ s.anyEntryWaits = false then s.sbEnd .done else s

/-- The start-up runs have ended: the tests of R409 were made and no run that they started is left. -/
def State.startupDone (s : State) : Bool :=
  !s.cal.startup && s.cal.units.all (fun u => match u.run with | some r => r.trigger != .start | none => true)

/-- Entries of the stored Storyboard; none when no copy passes. -/
def State.sbEntries (s : State) : Option Nat := (s.mram.body idStoryboard).map (fun im => leAt im 6 2)

/-- STORYBOARD_REPLAY_START (R384, R455): at the first tick boundary after the start-up runs have ended. -/
def execStoryboardReplayStart (s : State) : Out :=
  let u := if s.atTick then s else s.advance (alignUp perTick s.now)
  if u.phase = .released ∧ u.boot.ready = true ∧ u.boot.readyTick < u.tick ∧ u.startupDone = true ∧ u.flags.halted = false then
    if u.host.sb.st = .bad then done s (u.setCond fStoryboardBad true)
    else if u.host.sb.st = .none ∧ u.replaySkipped = false ∧ u.host.open_ = false then
      match u.mram.body idStoryboard with
      | none => done s u
      | some im =>
        let n := leAt im 6 2
        if n = 0 then done s u
        else
          let v := u.modSb (fun b => { b with
            st := .replaying, todo := imageEntries im n 0 32, nent := n, buildRun := BitVec.ofNat 32 (leAt im 8 4),
            stopOnError := (leAt im 12 1).testBit 0, lastTick := u.tick })
          done s (if v.atTick then v.replayStep else v)
    else done s u
  else done s u

end Sys2Proof.Machine
end

