-- ==== Sys2Proof/Machine/Commands.lean ====
section
/-! DEFINITION. The host's commands: each row places a descriptor in its CMD ring, with the row's OPCODE and, where the row names one, its MODE (R346, R377). What the command does at its take-up is `State.runOp`. -/
namespace Sys2Proof.Machine
open Sys2Proof

/-- The descriptor with an OPCODE. -/
def withOp (op : Nat) (d : Desc) : Desc := { d with opcode := BitVec.ofNat 16 op }

/-- The descriptor with an OPCODE and a MODE in inline byte 0. -/
def withMode (op mode : Nat) (d : Desc) : Desc :=
  { d with opcode := BitVec.ofNat 16 op, inl := fset d.inl ⟨0, 8, 0, false, 0⟩ mode }

/-- OBJ_OPEN (R359, R372). -/
def execObjOpen (d : Desc) (s : State) : Out := done s (s.submit (withOp opOpen d))

/-- OBJ_HOLD (R359, R370). -/
def execObjHold (d : Desc) (s : State) : Out := done s (s.submit (withOp opHold d))

/-- OBJ_RUN (R359 to R361, R369). -/
def execObjRun (d : Desc) (s : State) : Out := done s (s.submit (withOp opRun d))

/-- OBJ_CLOSE (R359, R372). -/
def execObjClose (d : Desc) (s : State) : Out := done s (s.submit (withOp opClose d))

/-- OBJ_QUERY (R378, R379). -/
def execObjQuery (d : Desc) (s : State) : Out := done s (s.submit (withOp opQuery d))

/-- GROUP_DEFINE (R366, R367). -/
def execGroupDefine (d : Desc) (s : State) : Out := done s (s.submit (withOp opGroupDefine d))

/-- GROUP_HOLD (R370, R371). -/
def execGroupHold (d : Desc) (s : State) : Out := done s (s.submit (withOp opGroupHold d))

/-- GROUP_RUN (R369, R371). -/
def execGroupRun (d : Desc) (s : State) : Out := done s (s.submit (withOp opGroupRun d))

/-- PASS_SET (R68, R97, R98, R364). -/
def execPassSet (d : Desc) (s : State) : Out := done s (s.submit (withOp opPassSet d))

/-- DEMOD_SET (R134 to R136, R364). -/
def execDemodSet (d : Desc) (s : State) : Out := done s (s.submit (withOp opDemodSet d))

/-- EE_SET (R169, R170, R364). -/
def execEeSet (d : Desc) (s : State) : Out := done s (s.submit (withOp opEeSet d))

/-- PROG_SET (R211, R212, R364). -/
def execProgSet (d : Desc) (s : State) : Out := done s (s.submit (withOp opProgSet d))

/-- PORT_SET (R243, R244, R364). -/
def execPortSet (d : Desc) (s : State) : Out := done s (s.submit (withOp opPortSet d))

/-- CARRIER_SET (R276 to R278, R364). -/
def execCarrierSet (d : Desc) (s : State) : Out := done s (s.submit (withOp opCarrierSet d))

/-- LIVE_SET (R365). -/
def execLiveSet (d : Desc) (s : State) : Out := done s (s.submit (withOp opLiveSet d))

/-- AF_LIST_SET (R196). -/
def execAfListSet (d : Desc) (s : State) : Out := done s (s.submit (withOp opAfList d))

/-- AF_POLICY_SET (R197, R198). -/
def execAfPolicySet (d : Desc) (s : State) : Out := done s (s.submit (withOp opAfPolicy d))

/-- TB_SET (R284, R302). -/
def execTbSet (d : Desc) (s : State) : Out := done s (s.submit (withOp opTbSet d))

/-- TB_ADJ with MODE STEP (R284, R303). -/
def execTbAdjStep (d : Desc) (s : State) : Out := done s (s.submit (withMode opTbAdj 0 d))

/-- TB_ADJ with MODE SLEW (R284, R303). -/
def execTbAdjSlew (d : Desc) (s : State) : Out := done s (s.submit (withMode opTbAdj 1 d))

/-- TB_ADJ with MODE FREQ (R284, R303). -/
def execTbAdjFreq (d : Desc) (s : State) : Out := done s (s.submit (withMode opTbAdj 2 d))

/-- TB_ADJ with MODE STATUS (R286, R303). -/
def execTbAdjStatus (d : Desc) (s : State) : Out := done s (s.submit (withMode opTbAdj 3 d))

/-- CUE_SET (R299, R300). -/
def execCueSet (d : Desc) (s : State) : Out := done s (s.submit (withOp opCueSet d))

/-- SLATE_ARM (R298). -/
def execSlateArm (d : Desc) (s : State) : Out := done s (s.submit (withOp opSlateArm d))

/-- CAP_START (R100, R103). -/
def execCapStart (d : Desc) (s : State) : Out := done s (s.submit (withOp opCapStart d))

/-- CAP_STOP (R103). -/
def execCapStop (d : Desc) (s : State) : Out := done s (s.submit (withOp opCapStop d))

/-- INSERT_START (R214 to R219). -/
def execInsertStart (d : Desc) (s : State) : Out := done s (s.submit (withOp opInsStart d))

/-- INSERT_STOP (R218, R219). -/
def execInsertStop (d : Desc) (s : State) : Out := done s (s.submit (withOp opInsStop d))

/-- SWEEP_START (R272 to R274). -/
def execSweepStart (d : Desc) (s : State) : Out := done s (s.submit (withOp opSweep d))

/-- CAS_JOIN (R330). -/
def execCasJoin (d : Desc) (s : State) : Out := done s (s.submit (withOp opCasJoin d))

/-- CAS_LEAVE (R331). -/
def execCasLeave (d : Desc) (s : State) : Out := done s (s.submit (withOp opCasLeave d))

/-- CAS_EPOCH with MODE STATUS (R332, R333). -/
def execCasEpochStatus (d : Desc) (s : State) : Out := done s (s.submit (withMode opCasEpoch 0 d))

/-- CAS_EPOCH with MODE ADVANCE (R324, R332). -/
def execCasEpochAdvance (d : Desc) (s : State) : Out := done s (s.submit (withMode opCasEpoch 1 d))

/-- CAS_EPOCH with MODE RESYNC (R332). -/
def execCasEpochResync (d : Desc) (s : State) : Out := done s (s.submit (withMode opCasEpoch 2 d))

/-- CAL_RUN (R420). -/
def execCalRun (d : Desc) (s : State) : Out := done s (s.submit (withOp opCalRun d))

/-- CAL_POLICY (R422). -/
def execCalPolicy (d : Desc) (s : State) : Out := done s (s.submit (withOp opCalPolicy d))

/-- NVM_COMMIT (R380). -/
def execNvmCommit (d : Desc) (s : State) : Out := done s (s.submit (withOp opNvmCommit d))

/-- STORYBOARD_SET with MODE WRITE (R382, R383). -/
def execStoryboardWrite (d : Desc) (s : State) : Out := done s (s.submit (withMode opStoryboard 0 d))

/-- STORYBOARD_SET with MODE CLEAR (R382). -/
def execStoryboardClear (d : Desc) (s : State) : Out := done s (s.submit (withMode opStoryboard 1 d))

/-- STORYBOARD_SET with MODE STATUS (R382, R385). -/
def execStoryboardStatus (d : Desc) (s : State) : Out := done s (s.submit (withMode opStoryboard 2 d))

/-- STORYBOARD_SET with MODE CHECK (R382, R383). -/
def execStoryboardCheck (d : Desc) (s : State) : Out := done s (s.submit (withMode opStoryboard 3 d))

/-- LC_ADVANCE (R457 to R460). -/
def execLcAdvance (d : Desc) (s : State) : Out := done s (s.submit (withOp opLcAdvance d))

/-- WIPE (R461). -/
def execWipe (d : Desc) (s : State) : Out := done s (s.submit (withOp opWipe d))

end Sys2Proof.Machine
end

