-- ==== Sys2Proof/Machine/HostSetup.lean ====
section
/-! DEFINITION. The PCIe side: its resets, its registers, doorbells, the start and stop of rings, interrupts (R33, R34, R336 to R345, R355, R356, R450). -/
namespace Sys2Proof.Machine
open Sys2Proof

/-! ## Resets of the PCIe side (R34, R337, R450) -/

/-- The number that stands for the ring of a completion that was in flight across a reset of the PCIe side; it is discarded. -/
def cplNone : Nat := 257

/-- A ring number that outlives a reset of the PCIe side. -/
def keptCpl (cpl : Nat) : Nat := if cpl < cplLink then cplNone else cpl

/-- The PCIe side is reset: rings, registers and MSI-X; objects and commands taken up keep their effect, without a completion record. -/
def State.pcieReset (s : State) : State :=
  let h := s.host
  ({ s with
    host := { h with
      epReady := false, cmdEn := true, shadowNow := false, rings := HostIf.reset.rings, msix := Msix.reset, waitq := [],
      waiting := h.waiting.map (fun w => { w with cpl := keptCpl w.cpl }) },
    cas := { s.cas with carried := s.cas.carried.map (fun c => { c with cpl := keptCpl c.cpl }) },
    svc := { s.svc with dumps := [] },
    tb := { s.tb with ptmEnabled := false, ptmT1 := none },
    clk := { s.clk with flushes := modAt 6 (· + 1) s.clk.flushes } } : State).setFlag fCrossFlush

/-- The side is reset only while it runs. -/
def State.pcieResetNow (s : State) (t : Nat) : State :=
  let u := s.advance t
  if u.host.epReady then u.pcieReset else u

/-- PERST_N. -/
def execPerstN (t : Nat) (s : State) : Out := done s (s.pcieResetNow t)

/-- HOT_RESET. -/
def execHotReset (t : Nat) (s : State) : Out := done s (s.pcieResetNow t)

/-- FUNCTION_LEVEL_RESET. -/
def execFunctionLevelReset (t : Nat) (s : State) : Out := done s (s.pcieResetNow t)

/-- ENDPOINT_READY (R450): the endpoint answers; it does not wait for the root loop. -/
def execEndpointReady (s : State) : Out :=
  if s.phase = .porst ∨ s.phase = .warm then done s s
  else done s { s with host := { s.host with epReady := true } }

/-! ## Registers (R33, R336, R338 to R340) -/

/-- A register write reaches the endpoint: it wakes the management clock. -/
def State.barAccess (s : State) (f : State → State) : State := if s.host.epReady then (f s).wake else s

def State.modMsix (s : State) (f : Msix → Msix) : State := { s with host := { s.host with msix := f s.host.msix } }

/-- The low or high 32 bits of a 64-bit register replaced; the mask keeps its reserved bits zero. -/
def putLow (old : Word64) (v mask : Word32) : Word64 := (old &&& 0xFFFFFFFF00000000#64) ||| (v &&& mask).zeroExtend 64
def putHigh (old : Word64) (v : Word32) : Word64 := (old &&& 0xFFFFFFFF#64) ||| (v.zeroExtend 64 <<< 32)

/-- The writable bits of RING_CTL without ENABLE. -/
def ringCtlMask : Word32 := 0x7FFFF

/-- Addresses are 64-byte aligned. -/
def alignMask : Word32 := 0xFFFFFFC0

/-- A 32-bit write of a ring's register: ignored while ENABLE is 1. A write that sets or clears ENABLE is RING_ENABLE or RING_DISABLE. -/
def Ring.writeReg (r : Ring) (off : Nat) (v : Word32) : Ring :=
  if r.enable then r
  else if off = 0 then { r with regBase := putLow r.regBase v alignMask }
  else if off = 4 then { r with regBase := putHigh r.regBase v }
  else if off = 8 then (if v.getLsbD 20 then r else { r with regCtl := v &&& ringCtlMask })
  else if off = 12 then { r with regShadow := putLow r.regShadow v alignMask }
  else if off = 16 then { r with regShadow := putHigh r.regShadow v }
  else r

/-- A 32-bit write of one word of the MSI-X table. -/
def State.writeMsix (s : State) (word : Nat) (v : Word32) : State :=
  let e := word / 4
  if word % 4 = 0 then s.modMsix (fun m => { m with table := modAt e (fun x => (putLow x.1 v (BitVec.allOnes 32), x.2)) m.table })
  else if word % 4 = 1 then s.modMsix (fun m => { m with table := modAt e (fun x => (putHigh x.1 v, x.2)) m.table })
  else if word % 4 = 2 then s.modMsix (fun m => { m with table := modAt e (fun x => (x.1, v)) m.table })
  else
    let b := BitVec.ofNat 64 (2 ^ e)
    (s.modMsix (fun m => { m with mask := if v.getLsbD 0 then m.mask ||| b else m.mask &&& ~~~ b })).flushVecs

/-- A 32-bit write to BAR0. -/
def State.writeBar0 (s : State) (addr : Nat) (v : Word32) : State :=
  if addr = 8 then
    { s with host := { s.host with cmdEn := v.getLsbD 0, shadowNow := s.host.shadowNow || v.getLsbD 1 } }
  else if 0x100 ≤ addr ∧ addr < 0x900 then s.modRing ((addr - 0x100) / 32) (fun r => r.writeReg ((addr - 0x100) % 32) v)
  else if 0x1000 ≤ addr ∧ addr < 0x1400 then s.writeMsix ((addr - 0x1000) / 4) v
  else s

/-- REGISTER_WRITE: BAR0 takes aligned 32-bit accesses, and 64-bit ones as two; other writes are ignored. -/
def execRegisterWrite (t : Nat) (space : RegSpace) (bits : Nat) (value : Word64) (s : State) : Out :=
  let u := s.advance t
  let lo : Word32 := value.setWidth 32
  let on := value.getLsbD 0
  done s (match space with
    | .bar0 addr =>
      u.barAccess (fun s =>
        if addr % 4 ≠ 0 then s
        else if bits = 32 then s.writeBar0 addr lo
        else if bits = 64 then (s.writeBar0 addr lo).writeBar0 (addr + 4) ((value >>> 32).setWidth 32)
        else s)
    | .bar2 _ => u
    | .msixEnable => u.barAccess (fun s => (s.modMsix (fun m => { m with enable := on })).flushVecs)
    | .msixFunctionMask => u.barAccess (fun s => (s.modMsix (fun m => { m with funcMask := on })).flushVecs)
    | .ptmEnable => u.barAccess (fun s => { s with tb := { s.tb with ptmEnabled := on } }))

/-- CMD_EN. -/
def execCmdEn (t : Nat) (on : Bool) (s : State) : Out :=
  done s ((s.advance t).barAccess (fun s => { s with host := { s.host with cmdEn := on } }))

/-- SHADOW_NOW. -/
def execShadowNow (t : Nat) (s : State) : Out :=
  done s ((s.advance t).barAccess (fun s => { s with host := { s.host with shadowNow := true } }))

/-- RING_ENABLE (R340, R344): the RING_CTL value is stored with ENABLE set; while ENABLE is already 1 nothing else changes. -/
def execRingEnable (t ring : Nat) (ctl : Word32) (ctx : List Byte) (s : State) : Out :=
  done s ((s.advance t).barAccess (fun s => s.modRing ring (fun r =>
    if r.enable then r else { r with enable := true, regCtl := ctl &&& ringCtlMask, regCtx := fitBytes 48 ctx })))

/-- RING_DISABLE (R344): acts at the next tick boundary; the other bits of the write change nothing while ENABLE is 1. -/
def execRingDisable (t ring : Nat) (s : State) : Out :=
  done s ((s.advance t).barAccess (fun s => s.modRing ring (fun r =>
    { r with cleared := r.cleared || r.enable, enable := false })))

/-- DOORBELL_WRITE (R33, R342): recorded until the next tick boundary. -/
def execDoorbellWrite (t ring : Nat) (value : Word32) (entries : List (List Byte)) (s : State) : Out :=
  done s ((s.advance t).barAccess (fun s => s.modRing ring (fun r => { r with bells := r.bells ++ [(s.now, value, entries)] })))

/-! ## Starting rings (R341, R343 to R345, R353) -/

/-- A reserved bit of a shadow block's bytes 16 to 63 is set, or a value lies out of range, for a ring kind. -/
def contextBad (kind : Nat) (c : List Byte) : Bool :=
  let at_ (n : Nat) : Nat := (byteAt c (n - 16)).toNat
  let set (a b : Nat) : Bool := (c.drop (a - 16)).take (b - a) |>.any (fun x => x != 0)
  set 19 20 || set 56 64 || (kind != kCmd && set 18 19) || (kind != kSide && kind != kEvt && set 20 22) ||
  (kind != kSide && kind != kAudio && (set 22 23 || set 24 56)) || (kind != kEvt && kind != kAudio && set 23 24) ||
  (kind == kSide && decide (4 ≤ at_ 21)) || (kind == kEvt && decide (2 ≤ at_ 23)) ||
  (kind == kAudio && decide (16 ≤ at_ 23 ∨ at_ 23 % 8 = 7)) ||
  ((kind == kSide || kind == kAudio) && decide (at_ 22 < 1 ∨ 8 < at_ 22))

/-- A source that a ring kind permits (R175, R343). -/
def State.sourceOk (s : State) (kind : Nat) (i : Id) : Bool :=
  s.idValid i &&
  (match idRef i with
   | some r => r.kind == .prog || (kind == kSide && (r.kind == .fmd || r.kind == .amd || r.kind == .ee || r.kind == .group))
   | none => false)

/-- The least BUF_SIZE of a kind. -/
def leastBuf (kind : Nat) (kflags : Nat) : Nat :=
  if kind = kCmd ∨ kind = kCpl then 0
  else if kind = kSide then 512
  else if kind = kAudio then 32 + (if kflags.testBit 3 then 8 else 4) * ceilDiv (16 * 2 ^ (kflags % 8)) 5
  else 64

/-- The first check of R345 that a ring fails at its start: its ERR code. -/
def State.ringFault (s : State) (i : Nat) (r : Ring) : Option Nat :=
  let kind := r.regCtl.toNat % 16
  let logSize := r.regCtl.toNat / 16 % 16
  let logBuf := r.regCtl.toNat / 256 % 16
  let c := r.regCtx
  let kflags := (byteAt c 7).toNat
  let srcs : List Id := (List.range (byteAt c 6).toNat).map (fun n => BitVec.ofNat 32 (leAt c (8 + 4 * n) 4))
  let pair := s.ring (byteAt c 2).toNat
  if kind = 0 ∨ 9 < kind ∨ (kind = kBoot ∧ (i ≠ 0 ∨ s.boot.ready = true)) ∨ (kind ≠ kBoot ∧ s.boot.ready = false) then some 1
  else if 12 < logSize ∨ 11 < logBuf ∨ 32 * 2 ^ logBuf < leastBuf kind kflags then some 2
  else if contextBad kind c || ((kind == kSide || kind == kAudio) && !srcs.all (s.sourceOk kind)) then some 3
  else if kind = kCmd ∧ pair.isRunning kCpl = false then some 4
  else none

/-- A ring as its start leaves it: both indices 0, the context read, the shadow block written. -/
def Ring.started (r : Ring) : Ring :=
  let n := r.regCtl.toNat
  ({ Ring.reset with
    base := r.regBase, kind := BitVec.ofNat 4 n, logSize := BitVec.ofNat 4 (n / 16), logBuf := BitVec.ofNat 4 (n / 256),
    vector := BitVec.ofNat 6 (n / 4096), irqEn := n.testBit 18, enable := true, st := .running, shadow := r.regShadow, ctx := r.regCtx,
    bells := r.bells, regBase := r.regBase, regCtl := r.regCtl, regShadow := r.regShadow, regCtx := r.regCtx } : Ring).writeShadow

/-- The dumps that a SIDE ring owes its sources when it starts (R175). -/
def State.owedDumps (s : State) (i : Nat) : List (Nat × Id × Nat) :=
  (distinct (((s.ring i).srcs.flatMap (s.flatten 256)).map s.canon)).map (fun x => (i, x, s.tick + 16))

/-- A ring starts, or enters ERROR. A DAILIES ring receives the entries held (R440), a BOOT ring takes a new image. -/
def State.startRing (s : State) (i : Nat) : State :=
  let r := s.ring i
  match s.ringFault i r with
  | some e => s.ringFail i e
  | none =>
    let s := s.modRing i (fun _ => r.started)
    let kind := r.regCtl.toNat % 16
    if kind = kDailies then s.log.held.foldl (fun s e => s.putDaily i e) s
    else if kind = kSide then
      { s with svc := { s.svc with dumps := s.svc.dumps.filter (fun d => d.1 != i) ++ s.owedDumps i } }
    else if kind = kBoot then s.bootRingStart
    else s

/-- Rings that are to start: those to the host first, then those to the device, each in ascending index (R344). -/
def State.ringsDue (s : State) (dev : Bool) : List Nat :=
  (List.range 64).filter (fun i => let r := s.ring i; r.enable && decide (r.st = .disabled) && toDevice (r.regCtl.toNat % 16) == dev)

/-- What a boundary does to a ring whose ENABLE has been cleared, or which is STOPPING (R344). -/
def State.stopRing (s : State) (i : Nat) : State :=
  let r := s.ring i
  let s := s.modRing i (fun r => { r with cleared := false })
  if r.st = .stopping then s.modRing i (fun r => { r.writeShadow with st := .disabled })
  else if r.enable && !r.cleared then s
  else if r.st = .running then (s.ringLeaves i).modRing i (fun r => { r with st := .stopping, inData := [], inRead := 0 })
  else if r.st = .error then s.modRing i (fun r => { r with st := .disabled, err := 0 })
  else s

/-- The doorbells of one ring that were written before this boundary: the last value counts (R342). -/
def State.latchBells (s : State) (i : Nat) : State :=
  let due := (s.ring i).bells.filter (fun b => decide (b.1 < s.now))
  match due.getLast? with
  | none => s
  | some b =>
    (s.modRing i (fun r => { r with bells := r.bells.filter (fun b => decide (s.now ≤ b.1)) })).applyBell i b.2.1
      (due.flatMap (fun b => b.2.2))

/-- The rings at a tick boundary: CMD_EN, SHADOW_NOW, stops, starts, doorbells (R339, R342, R344). -/
def State.tickRings (s : State) : State :=
  let s := { s with host := { s.host with
    cmdEnTick := s.host.cmdEn, shadowNow := false,
    rings := s.host.rings.map (fun r => if s.host.shadowNow && decide (r.st = .running) then r.writeShadow else r) } }
  let s := (List.range 64).foldl State.stopRing s
  let s := (s.ringsDue false).foldl State.startRing s
  let s := (s.ringsDue true).foldl State.startRing s
  (List.range 64).foldl State.latchBells s

/-- HOST_DMA_FAIL (R345): a read of host memory fails for a ring that runs, or that is about to start. -/
def execHostDmaFail (t ring : Nat) (s : State) : Out :=
  let u := s.advance t
  let r := u.ring ring
  done s (if r.st = .running ∨ (r.enable = true ∧ r.st = .disabled) then u.ringFail ring 6 else u)

/-! ## Interrupts (R356) -/

/-- IRQ_MODERATION_TIMEOUT: MOD_TIME Plain frames have passed since the first record that was not signalled. -/
def execIrqModerationTimeout (t ring : Nat) (s : State) : Out :=
  let u := s.advance t
  let r := u.ring ring
  done s (if r.st = .running ∧ r.modTime ≠ 0 ∧ 0 < r.unsig ∧ r.firstUnsig + r.modTime ≤ u.now / perFrame then u.ringSignal ring else u)

/-- MSIX_UNMASK. -/
def execMsixUnmask (t : Nat) (e : UnmaskEvent) (s : State) : Out :=
  done s ((s.advance t).barAccess (fun s =>
    (s.modMsix (fun m => match e with
      | .enable => { m with enable := true }
      | .clearFunctionMask => { m with funcMask := false }
      | .unmask v => { m with mask := m.mask &&& ~~~ BitVec.ofNat 64 (2 ^ (v % 64)) })).flushVecs))

end Sys2Proof.Machine
end

