-- ==== Sys2Proof/Machine/Readback.lean ====
section
/-! DEFINITION. What the registers read as: BAR0 and the pages of the management bus (R338 to R340, R356, R400 to R406, R429). -/
namespace Sys2Proof.Machine
open Sys2Proof

/-! ## BAR0 (R338 to R340, R356) -/

/-- BOOT as GLOBAL_STS codes it (R339). -/
def BootSt.code : BootSt → Nat
  | .waitImage => 0 | .loading => 1 | .authFail => 2 | .running => 3 | .recovery => 4

/-- RING_CTL.STATE (R340). -/
def RingSt.code : RingSt → Nat
  | .disabled => 0 | .running => 1 | .stopping => 2 | .error => 3

/-- DEV_ID and DEV_STEP (R339). -/
def devIdReg : Nat := 0x96205900
def State.devStep (s : State) : Nat :=
  s.fuses.step.toNat +
    (if s.boot.st = .running then 2 ^ 8 * s.boot.fwMinor.toNat + 2 ^ 16 * s.boot.fwMajor.toNat else 0)

/-- GLOBAL_STS (R339). -/
def State.globalSts (s : State) : Nat :=
  bit s.boot.ready + 2 * s.boot.st.code +
    16 * bitsOf [decide (s.cas.st = .member), s.isMaster, s.clk.holdover, s.faultN, s.host.rings.any (fun r => decide (r.st = .error)),
      s.tb.unset]

/-- LC_STATE (R339). -/
def State.lcReg (s : State) : Nat := s.fuses.lcState + 4 * bit s.fuses.dbgLock

/-- RING_CTL as it reads (R340). -/
def Ring.ctlReg (r : Ring) : Nat :=
  r.regCtl.toNat % 2 ^ 19 + 2 ^ 20 * bit r.enable + 2 ^ 24 * r.st.code + 2 ^ 27 * r.err.toNat

/-- A register of a ring (R340). -/
def Ring.reg (r : Ring) (off : Nat) : Nat :=
  if off = 0 then r.regBase.toNat % 2 ^ 32
  else if off = 4 then r.regBase.toNat / 2 ^ 32
  else if off = 8 then r.ctlReg
  else if off = 12 then r.regShadow.toNat % 2 ^ 32
  else if off = 16 then r.regShadow.toNat / 2 ^ 32
  else 0

/-- A word of the MSI-X table (R338, R356). -/
def Msix.word (m : Msix) (w : Nat) : Nat :=
  let e := m.table.getD (w / 4) (0, 0)
  if w % 4 = 0 then e.1.toNat % 2 ^ 32
  else if w % 4 = 1 then e.1.toNat / 2 ^ 32
  else if w % 4 = 2 then e.2.toNat
  else bit (m.mask.getLsbD (w / 4))

/-- The aligned 32-bit word that BAR0 reads as at an address; reserved words read zero (R336, R338). -/
def State.bar0 (s : State) (addr : Nat) : Nat :=
  if addr = 0 then devIdReg
  else if addr = 4 then s.devStep
  else if addr = 8 then bit s.host.cmdEn
  else if addr = 12 then s.globalSts
  else if addr = 16 then s.lcReg
  else if 0x100 ≤ addr ∧ addr < 0x900 then (s.ring ((addr - 0x100) / 32)).reg ((addr - 0x100) % 32)
  else if 0x1000 ≤ addr ∧ addr < 0x1400 then s.host.msix.word ((addr - 0x1000) / 4)
  else if addr = 0x1800 then s.host.msix.pend.toNat % 2 ^ 32
  else if addr = 0x1804 then s.host.msix.pend.toNat / 2 ^ 32
  else 0

/-! ## The pages of the management bus (R400 to R406, R429) -/

/-- The identity and life-cycle page (R401), its first 64 bytes. -/
def State.idPage (s : State) : List Byte :=
  leBytes 4 devIdReg ++ leBytes 4 s.devStep ++ leBytes 8 s.fuses.serial.toNat ++ leBytes 1 s.lcReg ++
  leBytes 1 (s.boot.st.code + 8 * bit s.boot.ready) ++
  leBytes 1 ((if s.cas.st = .member then s.cas.self % 8 else 0) + 8 * bitsOf [decide (s.cas.st = .member), s.isMaster, s.isDeputy]) ++
  zeros 1 ++ leBytes 6 s.tick ++ zeros 6 ++ leBytes 8 s.t64.toNat ++ zeros 24

/-- The health page (R402); HEALTH_CLR is write-only and reads zero. -/
def State.healthPage (s : State) : List Byte :=
  let h := s.health
  let words (l : List Nat) : List Byte := l.flatMap (leBytes 2)
  words (h.ts.map (unsignedOf 16)) ++ leBytes 2 (unsignedOf 16 h.tjMax) ++ leBytes 2 (unsignedOf 16 h.tjPeak) ++ words h.volts ++
  zeros 4 ++ words h.vmin ++ zeros 4 ++ words h.vmax ++ zeros 8 ++ leBytes 4 h.tick.toNat

/-- The fault-flag page (R403, R429). -/
def State.flagPage (s : State) : List Byte :=
  let f := s.flags
  leBytes 32 f.bits.toNat ++ leBytes 32 f.cond.toNat ++ leBytes 32 f.attnMask.toNat ++ leBytes 32 f.fmask.toNat ++
  leBytes 1 f.cntSel.toNat ++ zeros 3 ++ leBytes 4 (f.counts.getD f.cntSel.toNat 0).toNat ++
  leBytes 1 (bit f.attnEn + 2 * f.attnRepeat.toNat + 8 * bit f.attnDailies) ++ leBytes 1 (bit f.pendFlag + 2 * bit f.pendDailies)

/-- NEWEST, OLDEST and the entry numbered SEL of the Dailies tail (R404). -/
def Log.newest (l : Log) : Nat := (l.held.getLast?.map Daily.seq).getD 0
def Log.oldest (l : Log) : Nat := (l.held.head?.map Daily.seq).getD 0
def Log.entry (l : Log) : List Byte :=
  match l.held.find? (fun e => e.seq == l.sel.toNat) with
  | none => zeros 64
  | some e => fitBytes 64 (e.bytes 0)

/-- The Dailies tail page (R404). -/
def State.dailiesPage (s : State) : List Byte :=
  let l := s.log
  leBytes 4 l.newest ++ leBytes 4 l.oldest ++ leBytes 4 l.sel.toNat ++
  leBytes 1 (bitsOf [l.autoSel, decide (l.sel.toNat < l.oldest), decide (l.newest < l.sel.toNat) || l.held.isEmpty]) ++ zeros 51 ++ l.entry

/-- The boot and strap control page (R405). -/
def State.bootPage (s : State) : List Byte :=
  let p := s.straps
  let b := s.boot
  leBytes 1 (p.bootSrc.toNat + 4 * p.refSel.toNat + 16 * bit p.lkfUse + 32 * p.madr.toNat) ++ leBytes 1 p.mstrPri.toNat ++
  leBytes 1 b.cause.toNat ++ zeros 1 ++ leBytes 1 (bit b.ovrEn + 2 * b.ovrSrc.toNat + 8 * bit b.skipStoryboard)

/-- MODE of the recovery window: the form of the pointer (R406). -/
def State.modeByte (s : State) : Byte := if s.bus.short then 0x53 else 0x4C

/-- The recovery window (R406). -/
def State.rcvPage (s : State) : List Byte :=
  let b := s.boot
  [s.modeByte, b.rcvStatus] ++ leBytes 2 b.rcvLen.toNat ++ leBytes 4 b.rcvOffset.toNat ++ [0, s.modeByte] ++ zeros 6 ++
  fitBytes 128 b.rcvData ++ zeros 48 ++ s.idPage

/-- The byte that a read of an address of the management bus gives; reserved addresses read zero (R391, R400). -/
def State.mgmtByte (s : State) (addr : Nat) : Byte :=
  if addr < 0x100 then byteAt s.idPage addr
  else if addr < 0x200 then byteAt s.healthPage (addr - 0x100)
  else if addr < 0x300 then byteAt s.flagPage (addr - 0x200)
  else if addr < 0x400 then byteAt s.dailiesPage (addr - 0x300)
  else if addr < 0x500 then byteAt s.bootPage (addr - 0x400)
  else if 0x800 ≤ addr ∧ addr < 0x900 then byteAt s.rcvPage (addr - 0x800)
  else 0

end Sys2Proof.Machine
end

