-- ==== Sys2Proof/Machine/MgmtBus.lean ====
section
/-! DEFINITION. The management bus: transfers, errors, time-outs, the writable registers and the attention request (R386 to R406, R427). -/
namespace Sys2Proof.Machine
open Sys2Proof

/-! ## Registers (R392, R402 to R406) -/

/-- Byte `k` of a field of `w` bits replaced. -/
def setByte {w : Nat} (x : BitVec w) (k : Nat) (b : Byte) : BitVec w :=
  (x &&& ~~~ (BitVec.ofNat w 255 <<< (8 * k))) ||| (b.setWidth w <<< (8 * k))


/-- A W1C write clears attention causes (R403). -/
def State.clearPend (s : State) (b : Byte) : State :=
  { s with flags := { s.flags with
    pendFlag := s.flags.pendFlag && !b.getLsbD 0, pendDailies := s.flags.pendDailies && !b.getLsbD 1 } }

/-- HEALTH_CLR: TJ_PEAK, VMIN and VMAX start again at the next tick (R402). -/
def State.clearHealth (s : State) : State := { s with health := { s.health with clearReq := true } }

/-- One byte of a write transfer reaches its register; read-only and reserved addresses ignore it (R392, R402 to R406). -/
def State.putMgmtByte (s : State) (addr : Nat) (b : Byte) : State :=
  if addr = 0x140 then (if b.getLsbD 0 then s.clearHealth else s)
  else if 0x200 ≤ addr ∧ addr < 0x220 then s.clearFlags (b.setWidth 256 <<< (8 * (addr - 0x200)))
  else if 0x240 ≤ addr ∧ addr < 0x260 then
    { s with flags := { s.flags with attnMask := setByte s.flags.attnMask (addr - 0x240) b } }
  else if 0x260 ≤ addr ∧ addr < 0x280 then
    { s with flags := { s.flags with fmask := setByte s.flags.fmask (addr - 0x260) b } }
  else if addr = 0x280 then { s with flags := { s.flags with cntSel := b } }
  else if addr = 0x288 then
    { s with flags := { s.flags with
      attnEn := b.getLsbD 0, attnRepeat := (b >>> 1).setWidth 2, attnDailies := b.getLsbD 3 } }
  else if addr = 0x289 then s.clearPend b
  else if 0x308 ≤ addr ∧ addr < 0x30C then { s with log := { s.log with sel := setByte s.log.sel (addr - 0x308) b } }
  else if addr = 0x30C then { s with log := { s.log with autoSel := b.getLsbD 0 } }
  else if addr = 0x404 then
    { s with boot := { s.boot with ovrEn := b.getLsbD 0, ovrSrc := (b >>> 1).setWidth 2, skipStoryboard := b.getLsbD 3 } }
  else if 0x802 ≤ addr ∧ addr < 0x804 then { s with boot := { s.boot with rcvLen := setByte s.boot.rcvLen (addr - 0x802) b } }
  else if 0x804 ≤ addr ∧ addr < 0x808 then
    { s with boot := { s.boot with rcvOffset := setByte s.boot.rcvOffset (addr - 0x804) b } }
  else if 0x810 ≤ addr ∧ addr < 0x890 then { s with boot := { s.boot with rcvData := putAt (addr - 0x810) b s.boot.rcvData } }
  else s

/-! ## Transfers (R389 to R394) -/

/-- The device acknowledges its address: it is out of reset, and the management clock runs or has been asked to (R386, R389). -/
def State.busAnswers (s : State) : Bool :=
  decide (s.phase ≠ .porst) && decide (s.phase ≠ .warm) && (!s.clk.mgmtStopped || s.clk.wakeReq)

/-- The device releases its pins while a reset is asserted; a START that finds the management clock stopped only wakes it. -/
def State.busDeaf (s : State) : State := if s.phase = .porst ∨ s.phase = .warm then s else s.wake

/-- Short-pointer mode is in force (R394). -/
def State.shortNow (s : State) : Bool := decide (s.boot.st ≠ .running) || s.tap.testing

/-- A STOP: a change of mode takes effect (R394). -/
def State.busStop (s : State) : State := { s with bus := { s.bus with short := s.shortNow } }

/-- The address of byte `i` after a pointer: within its 32-byte write page, or within the window in short-pointer mode. -/
def writeAddr (short : Bool) (pointer i : Nat) : Nat :=
  if short then 0x800 + (pointer + i) % 256 else pointer / 32 * 32 + (pointer + i) % 32

/-- The bytes of a write transfer with their addresses: the last value at each address, in address order (R392). -/
def heldWrites (short : Bool) (pointer : Nat) (data : List Byte) : List (Nat × Byte) :=
  let all := (indexed 0 data).map (fun x => (writeAddr short pointer x.1, x.2))
  sortBy Prod.fst (all.foldl (fun acc w => acc.filter (fun x => x.1 != w.1) ++ [w]) [])

/-- The value that held writes give an address. -/
def heldAt (ws : List (Nat × Byte)) (addr : Nat) : Option Byte := (ws.find? (fun w => w.1 == addr)).map Prod.snd

/-- The commands of a write transfer, after its other bytes (R405, R406). -/
def State.busCommands (s : State) (ws : List (Nat × Byte)) : State :=
  let s := match heldAt ws 0x890 with
    | some c => if c = 1 then s.rcvLoad else if c = 2 then s.rcvFinish else if c = 3 then s.rcvAbort else s
    | none => s
  if heldAt ws 0x408 = some 0x5A ∧ heldAt ws 0x409 = some 0xA5 then s.warmReset .resetReq else s

/-- A write transfer applied at its end: the pointer, the bytes in address order, the commands. -/
def State.applyWrite (s : State) (bytes : List Byte) : State :=
  let go (short : Bool) (p : Nat) (data : List Byte) : State :=
    let ws := heldWrites short p data
    let s := { s with bus := { s.bus with pointer := BitVec.ofNat 16 (writeAddr short p data.length) } }
    (ws.foldl (fun s w => s.putMgmtByte w.1 w.2) s).busCommands ws
  if s.bus.short then
    match bytes with
    | [] => s
    | p :: data => go true p.toNat data
  else
    match bytes with
    | h :: l :: data => go false (256 * h.toNat + l.toNat) data
    | _ => s

/-- MB_WRITE (R389, R390, R392, R394). -/
def execMbWrite (t : Nat) (bytes : List Byte) (fin : BusEnd) (s : State) : Out :=
  let u := s.busAt t
  if u.busAnswers then
    let u := u.applyWrite bytes
    doneBus s (if fin = .stop then u.busStop else u)
  else doneBus s u.busDeaf

/-- The address of byte `i` of a read transfer (R391, R394). -/
def readAddr (short : Bool) (pointer i : Nat) : Nat :=
  if short then 0x800 + (pointer + i) % 256 else (pointer + i) % 65536

/-- MB_READ (R389 to R391, R404): `n` bytes from the pointer on; AUTO advances SEL after a transfer that read 0x037F. -/
def execMbRead (t n : Nat) (s : State) : Out :=
  let u := s.busAt t
  if u.busAnswers then
    let addr := readAddr u.bus.short u.bus.pointer.toNat
    let addrs := (List.range n).map addr
    let sel := if u.log.autoSel && addrs.contains 0x37F then u.log.sel + 1 else u.log.sel
    doneBus s ({ u with
      bus := { u.bus with pointer := BitVec.ofNat 16 (addr n), lastRead := addrs.map u.mgmtByte },
      log := { u.log with sel := sel } } : State).busStop
  else doneBus s u.busDeaf

/-! ## Errors and time-outs (R395 to R398) -/

/-- The bus side of the crossing is reset: held writes are discarded, the crossing is flushed, the flag is set. -/
def State.busFlush (s : State) (flag : Nat) : State :=
  ((({ s with clk := { s.clk with flushes := modAt 7 (· + 1) s.clk.flushes } } : State).setFlag fCrossFlush).setFlag flag)

/-- The same, while the device drives its pins or responds: in no reset (R386). -/
def State.busFault (s : State) (flag : Nat) : State :=
  if s.phase = .porst ∨ s.phase = .warm then s else s.busFlush flag

/-- BUS_ERROR (R395, R398): none of the bytes of the transfer is applied. -/
def execBusError (t : Nat) (start : Bool) (_held : List Byte) (s : State) : Out :=
  let u := (s.busAt t).busFault fBusError
  doneBus s (if start then u else u.busStop)

/-- SDA_LOW_TO (R396, R398). -/
def execSdaLowTo (t : Nat) (s : State) : Out := doneBus s ((s.busAt t).busFault fSdaLowTo)

/-- SCL_LOW_TO (R396, R398): its timer runs whenever PORST_N is released. -/
def execSclLowTo (t : Nat) (s : State) : Out :=
  let u := s.busAt t
  doneBus s (if u.phase = .porst then u else u.busFlush fSclLowTo)

/-! ## Single registers (R394, R402, R403, R405, R427) -/

/-- A write to a page other than the recovery window takes effect: the device answers and pointers have two bytes. -/
def State.busPage (s : State) (f : State → State) : State := if s.busAnswers && !s.bus.short then f s else s.busDeaf

/-- A flag that the manual assigns and that has no lasting condition. -/
def eventFlags : List Nat :=
  [fCrossFlush, fAloSearchFail, fStandinMatchFail, fConvMismatch, fTableFull, fInsertUnderrun, fFsError, fRouteUnderrun, fMemberLost,
   fVersionMinor, fRefMismatch, fSdaLowTo, fSclLowTo, fBusError, fAttnCollide, fCalFail, fNvmFail, fEccCorr, fEccUncorr, fRingError,
   fFuseBad, fDailiesLoss]

/-- A set of each event flag of word `w` named in `meets`; it meets the clear when the mask names the flag too. -/
def State.setMeets (s : State) (w : Nat) (mask meets : Word32) : State :=
  (List.range 32).foldl (fun s b =>
    let n := 32 * w + b
    if meets.getLsbD b && eventFlags.contains n then s.setFlagMet n (mask.getLsbD b) s.now else s) s

/-- FLAG_CLEAR (R403, R427, R428): the set wins over the clear on the same edge. -/
def execFlagClear (t w : Nat) (mask meets : Word32) (s : State) : Out :=
  doneBus s ((s.busAt t).busPage (fun u =>
    if w < 8 then (u.clearFlags (mask.setWidth 256 <<< (32 * w))).setMeets w mask meets else u))

/-- ATTN_PEND_CLEAR (R403). -/
def execAttnPendClear (t : Nat) (mask : Byte) (s : State) : Out := doneBus s ((s.busAt t).busPage (fun u => u.clearPend mask))

/-- HEALTH_CLR (R402). -/
def execHealthClr (t : Nat) (s : State) : Out := doneBus s ((s.busAt t).busPage State.clearHealth)

/-- RESET_REQ (R405). -/
def execResetReq (t : Nat) (value : Word16) (s : State) : Out :=
  doneBus s ((s.busAt t).busPage (fun u => if value = 0xA55A then u.warmReset .resetReq else u))

/-! ## The attention request (R399) -/

/-- A cause is pending and requests are enabled; there are none in short-pointer mode. -/
def State.attnOn (s : State) : Bool :=
  s.flags.attnEn && (s.flags.pendFlag || s.flags.pendDailies) && !s.bus.short && decide (s.phase = .released)

/-- A pulse: sent, or met by a falling MSCL, after which it is sent again. -/
def State.attnPulse (s : State) (collide : Bool) : State :=
  if collide then ({ s with flags := { s.flags with pulseDue := true } } : State).setFlag fAttnCollide
  else { s with flags := { s.flags with pulseDue := false, pulses := s.flags.pulses + 1 } }

/-- ATTENTION. -/
def execAttention (t : Nat) (collide : Bool) (s : State) : Out :=
  let u := s.busAt t
  doneBus s (if u.attnOn && u.flags.pulseDue then u.attnPulse collide else u)

/-- ATTN_REPEAT: the interval of a value other than ONCE has passed. -/
def execAttnRepeat (t : Nat) (collide : Bool) (s : State) : Out :=
  let u := s.busAt t
  doneBus s (if u.attnOn && decide (u.flags.attnRepeat ≠ 0) then u.attnPulse collide else u)

end Sys2Proof.Machine
end

