-- ==== Sys2Proof/Machine/Tap.lean ====
section
/-! DEFINITION. The test access port: its instructions, the debug port and the test modes (R462 to R464). -/
namespace Sys2Proof.Machine
open Sys2Proof

/-- The test access port changed; nothing else is. -/
def State.modTap (s : State) (f : Tap → Tap) : State := { s with tap := f s.tap }

/-- An instruction that closes the debug port and selects the data register with a value. -/
def Tap.select (p : Tap) (ir : TapInstr) (reg : Word32) : Tap := { p with ir := ir, dataReg := reg, debugOpen := false }

/-- IDCODE: version 1, part 0x9620, the manufacturer's identity, bit 0 one (R462). -/
def idcodeReg : Word32 := BitVec.ofNat 32 (2 ^ 28 + 0x9620 * 2 ^ 12 + Config.jedec % 2 ^ 11 * 2 + 1)

/-- TEST_LOGIC_RESET (R443, R462): the controller and its registers start again; a test mode stays (R464). -/
def execTestLogicReset (s : State) : Out := doneSys s (s.modTap (fun p => { Tap.reset with testing := p.testing, dataReg := idcodeReg }))

/-- BYPASS. -/
def execBypass (s : State) : Out := doneSys s (s.modTap (fun p => p.select .bypass 0))

/-- SAMPLE/PRELOAD: the boundary register takes the pins, or the values preloaded. -/
def execSamplePreload (pins : List Bool) (preload : Option (List Bool)) (s : State) : Out :=
  doneSys s (s.modTap (fun p => { p.select .samplePreload 0 with boundary := preload.getD pins }))

/-- EXTEST: the boundary cells drive the pins. -/
def execExtest (s : State) : Out := doneSys s (s.modTap (fun p => p.select .extest 0))

/-- IDCODE. -/
def execIdcode (s : State) : Out := doneSys s (s.modTap (fun p => p.select .idcode idcodeReg))

/-- CLAMP: the boundary cells drive the pins, and the bypass register is selected. -/
def execClamp (s : State) : Out := doneSys s (s.modTap (fun p => p.select .clamp 0))

/-- HIGHZ: the pins are released, and the bypass register is selected. -/
def execHighz (s : State) : Out := doneSys s (s.modTap (fun p => p.select .highz 0))

/-- The debug access port may be reached (R463). -/
def State.debugAllowed (s : State) : Bool := !s.fuses.dbgLock && decide (s.fuses.lcState ≠ 2)

/-- DEBUG (R463): the port opens, or the bypass register is selected. -/
def execDebug (s : State) : Out :=
  doneSys s (s.modTap (fun p => if s.debugAllowed then { p.select .debug 0 with debugOpen := true } else p.select .bypass 0))

/-- A test mode may be entered (R464). -/
def State.testAllowed (s : State) : Bool := decide (s.fuses.lcState = 0 ∨ s.fuses.lcState = 3)

/-- TEST_MODE (R464): the data plane and the firmware stop, or the bypass register is selected. -/
def execTestMode (s : State) : Out :=
  doneSys s (s.modTap (fun p => if s.testAllowed then { p.select .testMode 0 with testing := true } else p.select .bypass 0))

end Sys2Proof.Machine
end

