-- ==== Sys2Proof/Machine/Tick.lean ====
section
/-! DEFINITION. The management tick: the periodic tests, the rings, Storyboard replay, the take-up of commands, the delivery of slates, and the stop of the management clock (R10, R32, R291, R344, R384, R402, R455). -/
namespace Sys2Proof.Machine
open Sys2Proof

/-- PEAK of each converter over the last tick; the Stand-in has none when it was connected to no input during the whole tick (R70). -/
def State.tickPeaks (s : State) (peaks : List Int) : State :=
  let s := (List.range 5).foldl (fun s x =>
    s.modConv x (fun r => { r with peak := if x = 4 ∧ s.standin.connTick = false then 0 else peaks.getD x r.peak })) s
  s.modStandin (fun d => { d with connTick := d.conn.isSome })

/-- The periodic tests of a tick: health, holdover, cascade, inputs, Passes, ports, composer, programmes, following, calibration. -/
def State.tickTests (s : State) (i : TickIn) : State :=
  let s := (((s.feedStep.tickHealth i).tickThermal.tickLoop i.ctl).tickHoldover).tickCas
  let s := ((s.tickPeaks i.peaks).tickReturn.tickPasses.tickDemods.tickEes.tickPorts).tickTx i
  ((((s.tickProgs).feedStep).tickFollow).tickCal).tickDumps

/-- No replay holds the CMD rings: none is due, or it has ended (R384, R455). -/
def State.replayOver (s : State) : Bool :=
  s.replaySkipped || decide (s.host.sb.st = .done ∨ s.host.sb.st = .stopped ∨ s.host.sb.st = .bad) ||
  (decide (s.host.sb.st = .none) && decide (s.sbEntries = some 0))

/-- Host CMD rings take commands from the first tick after replay ends, or after READY when there is none (R455). -/
def State.openRings (s : State) : State :=
  if s.boot.ready && decide (s.boot.readyTick < s.tick) && s.replayOver then { s with host := { s.host with open_ := true } } else s

/-- Descriptors that the host's rings hold come into the queue of those that wait. -/
def State.enqueue (s : State) (ds : List Desc) : State :=
  { s with host := { s.host with waitq := s.host.waitq ++ ds.filter (fun d => (s.ring d.ring).holdsCommands) } }

/-- The commands of a tick: those the cascade brought, those of the Storyboard, those of the rings. Once a life-cycle change is due,
no command is taken (R460). -/
def State.tickCommands (s : State) (ds : List Desc) : State :=
  if s.lcPending.isSome then { s with host := { s.host with open_ := false } }
  else ((s.runNextTick.replayStep).enqueue ds).drainRings

/-- Something keeps the management clock running (R32). -/
def State.mgmtBusy (s : State) : Bool :=
  !s.host.waitq.isEmpty || !s.host.waiting.isEmpty || !s.cas.carried.isEmpty || !s.cas.nextTick.isEmpty ||
  s.host.rings.any (fun r => !r.bells.isEmpty || (r.isRunning kCmd && decide (0 < r.filled))) ||
  s.prog.any (fun o => decide (o.run.follow.st = .waitId ∨ o.run.follow.st = .following)) ||
  s.cal.units.any (fun c => c.run.isSome || c.report.isSome) ||
  !s.slates.isEmpty || !s.log.writing.isEmpty || !s.mram.writes.isEmpty || decide (s.host.sb.st = .replaying)

/-- The ticks at which results of calibration reach MAX_AGE (R409). -/
def State.ageTicks (s : State) : List Nat :=
  let age := fget s.cal.policy cpMaxAge
  (List.range 6).filterMap (fun u =>
    if s.calAuto u && decide (age ≠ 0) && (s.calLast u).1.isSome then some ((s.calLast u).2 + age * 56250) else none)

/-- The tick of the next PTM dialog (R287). -/
def State.ptmTicks (s : State) : List Nat :=
  let p := fget s.tb.profile tpPtmPeriod
  if p ≠ 0 ∧ s.tb.ptmEnabled = true then [alignNext (2 ^ p) s.tick] else []

/-- The tick that the wake timer is programmed for: the next periodic task, never more than 1024 ticks ahead (R32). -/
def State.wakeDue (s : State) : Nat :=
  (s.ptmTicks ++ s.ageTicks).foldl (fun w t => if s.tick < t then min w t else w) (s.tick + 1024)

/-- CK_MGMT stops at the end of a tick when nothing keeps it (R32). -/
def State.tickStop (s : State) : State :=
  if fbit s.clk.profile ckMgmtStopEn && s.boot.ready && !s.flags.halted && !s.mgmtBusy then
    { s with clk := { s.clk with mgmtStopped := true, wakeReq := false, stopTick := s.tick, wakeTick := s.wakeDue } }
  else s

/-- All that the management controller does at a tick boundary. -/
def State.tickWork (s : State) (i : TickIn) : State :=
  let s := if s.clk.mgmtStopped then s.tickResume else s
  let s := s.tickDeltas i.deltas
  ((((s.tickTests i).openRings.tickRings).tickCommands i.descs).flushSlates).tickStop

/-- The instant of the next tick boundary whose tick has not been processed. -/
def State.tickAt (s : State) : Nat := if s.now % perTick = 0 ∧ s.atTick = false then s.now else alignNext perTick s.now

/-- The controller works at this boundary: outputs are released, it has not halted, and its clock runs or has been woken (R32). -/
def State.tickRuns (s : State) : Bool :=
  decide (s.phase = .released) && !s.flags.halted && (!s.clk.mgmtStopped || s.clk.wakeReq)

/-- MANAGEMENT_TICK (R10). -/
def execManagementTick (i : TickIn) (s : State) : Out :=
  if s.clk.divReset then
    let u : State := { s.advance s.tickAt with atTick := true }
    done s (if u.tickRuns then u.tickWork i else u)
  else done s s

end Sys2Proof.Machine
end

