-- ==== Sys2Proof/Machine/Dispatch.lean ====
section
/-! DEFINITION. The effect of each command: one arm per command, one call of its meaning each. -/
namespace Sys2Proof.Machine
open Sys2Proof

def exec (i : Instr) (s : State) : Host.Outcome State Fault Refusal :=
  match i with
  | .porstNAssert a0 => Sys2Proof.Machine.execPorstNAssert a0 s
  | .wrstNAssert a0 => Sys2Proof.Machine.execWrstNAssert a0 s
  | .resetRelease a0 => Sys2Proof.Machine.execResetRelease a0 s
  | .brownOut a0 a1 => Sys2Proof.Machine.execBrownOut a0 a1 s
  | .brownOutEnd a0 a1 a2 a3 => Sys2Proof.Machine.execBrownOutEnd a0 a1 a2 a3 s
  | .thermalTrip a0 a1 => Sys2Proof.Machine.execThermalTrip a0 a1 s
  | .thermalTripEnd a0 a1 => Sys2Proof.Machine.execThermalTripEnd a0 a1 s
  | .outputRelease a0 => Sys2Proof.Machine.execOutputRelease a0 s
  | .refQualified a0 a1 a2 => Sys2Proof.Machine.execRefQualified a0 a1 a2 s
  | .refLoss a0 a1 a2 a3 => Sys2Proof.Machine.execRefLoss a0 a1 a2 a3 s
  | .refFreqWindowEnd a0 a1 a2 => Sys2Proof.Machine.execRefFreqWindowEnd a0 a1 a2 s
  | .rootLockDeclared a0 a1 => Sys2Proof.Machine.execRootLockDeclared a0 a1 s
  | .rootUnlock a0 a1 a2 => Sys2Proof.Machine.execRootUnlock a0 a1 a2 s
  | .refWaitExpiry a0 a1 => Sys2Proof.Machine.execRefWaitExpiry a0 a1 s
  | .lockDisagree a0 a1 a2 => Sys2Proof.Machine.execLockDisagree a0 a1 a2 s
  | .managementTick a0 => Sys2Proof.Machine.execManagementTick a0 s
  | .wakeRequest a0 a1 => Sys2Proof.Machine.execWakeRequest a0 a1 s
  | .wakeTimer => Sys2Proof.Machine.execWakeTimer s
  | .doorbellWrite a0 a1 a2 a3 => Sys2Proof.Machine.execDoorbellWrite a0 a1 a2 a3 s
  | .aloLock a0 a1 a2 a3 a4 => Sys2Proof.Machine.execAloLock a0 a1 a2 a3 a4 s
  | .aloSearchFail a0 a1 => Sys2Proof.Machine.execAloSearchFail a0 a1 s
  | .aloUnlock a0 a1 a2 => Sys2Proof.Machine.execAloUnlock a0 a1 a2 s
  | .rampSegmentEnd a0 => Sys2Proof.Machine.execRampSegmentEnd a0 s
  | .agcAttack a0 a1 a2 a3 => Sys2Proof.Machine.execAgcAttack a0 a1 a2 a3 s
  | .agcRelease a0 a1 a2 => Sys2Proof.Machine.execAgcRelease a0 a1 a2 s
  | .gainStep a0 => Sys2Proof.Machine.execGainStep a0 s
  | .pselBlankEnd a0 => Sys2Proof.Machine.execPselBlankEnd a0 s
  | .matchWindowOpen => Sys2Proof.Machine.execMatchWindowOpen s
  | .matchWindowClose a0 a1 a2 => Sys2Proof.Machine.execMatchWindowClose a0 a1 a2 s
  | .standinCheck a0 a1 a2 => Sys2Proof.Machine.execStandinCheck a0 a1 a2 s
  | .standinVisit a0 => Sys2Proof.Machine.execStandinVisit a0 s
  | .convFail a0 a1 a2 a3 => Sys2Proof.Machine.execConvFail a0 a1 a2 a3 s
  | .crossbarMove => Sys2Proof.Machine.execCrossbarMove s
  | .failoverSwitch => Sys2Proof.Machine.execFailoverSwitch s
  | .agcLimitEpisodeEnd a0 a1 a2 => Sys2Proof.Machine.execAgcLimitEpisodeEnd a0 a1 a2 s
  | .passBlock a0 a1 a2 => Sys2Proof.Machine.execPassBlock a0 a1 a2 s
  | .settleGateOpen a0 => Sys2Proof.Machine.execSettleGateOpen a0 s
  | .capCountEnd a0 => Sys2Proof.Machine.execCapCountEnd a0 s
  | .demodBlock a0 a1 a2 a3 => Sys2Proof.Machine.execDemodBlock a0 a1 a2 a3 s
  | .fmdGateOpen a0 => Sys2Proof.Machine.execFmdGateOpen a0 s
  | .fmdConcealLimit a0 a1 => Sys2Proof.Machine.execFmdConcealLimit a0 a1 s
  | .amdConcealLimit a0 a1 => Sys2Proof.Machine.execAmdConcealLimit a0 a1 s
  | .pilotWindowEnd a0 a1 a2 a3 => Sys2Proof.Machine.execPilotWindowEnd a0 a1 a2 a3 s
  | .rdsSync a0 a1 a2 => Sys2Proof.Machine.execRdsSync a0 a1 a2 s
  | .rdsLoss a0 a1 a2 => Sys2Proof.Machine.execRdsLoss a0 a1 a2 s
  | .rdsGroup a0 a1 a2 => Sys2Proof.Machine.execRdsGroup a0 a1 a2 s
  | .carrierWindowEnd a0 a1 a2 a3 => Sys2Proof.Machine.execCarrierWindowEnd a0 a1 a2 a3 s
  | .amssBlock a0 a1 a2 => Sys2Proof.Machine.execAmssBlock a0 a1 a2 s
  | .nullCandidate a0 a1 a2 => Sys2Proof.Machine.execNullCandidate a0 a1 a2 s
  | .prsTest a0 a1 a2 a3 => Sys2Proof.Machine.execPrsTest a0 a1 a2 a3 s
  | .fibRecord a0 a1 a2 => Sys2Proof.Machine.execFibRecord a0 a1 a2 s
  | .logicalFrame a0 a1 a2 a3 => Sys2Proof.Machine.execLogicalFrame a0 a1 a2 a3 s
  | .eeLoss a0 a1 a2 => Sys2Proof.Machine.execEeLoss a0 a1 a2 s
  | .tii a0 a1 => Sys2Proof.Machine.execTii a0 a1 s
  | .eeRelock a0 a1 a2 => Sys2Proof.Machine.execEeRelock a0 a1 a2 s
  | .drmModeDetect a0 a1 a2 => Sys2Proof.Machine.execDrmModeDetect a0 a1 a2 s
  | .facRecord a0 a1 a2 a3 => Sys2Proof.Machine.execFacRecord a0 a1 a2 a3 s
  | .sdcRecord a0 a1 a2 a3 => Sys2Proof.Machine.execSdcRecord a0 a1 a2 a3 s
  | .reconfiguration a0 a1 => Sys2Proof.Machine.execReconfiguration a0 a1 s
  | .offsetRangeLoss a0 a1 a2 => Sys2Proof.Machine.execOffsetRangeLoss a0 a1 a2 s
  | .sideDump a0 a1 a2 => Sys2Proof.Machine.execSideDump a0 a1 a2 s
  | .entryStale a0 a1 a2 => Sys2Proof.Machine.execEntryStale a0 a1 a2 s
  | .entryRemoved a0 a1 a2 => Sys2Proof.Machine.execEntryRemoved a0 a1 a2 s
  | .announceTimeout a0 a1 a2 a3 => Sys2Proof.Machine.execAnnounceTimeout a0 a1 a2 a3 s
  | .followProbeStart a0 a1 a2 => Sys2Proof.Machine.execFollowProbeStart a0 a1 a2 s
  | .probeEnd a0 a1 a2 => Sys2Proof.Machine.execProbeEnd a0 a1 a2 s
  | .coarseMeasure a0 a1 a2 => Sys2Proof.Machine.execCoarseMeasure a0 a1 a2 s
  | .alignTimeout a0 a1 a2 => Sys2Proof.Machine.execAlignTimeout a0 a1 a2 s
  | .poolFilled a0 a1 => Sys2Proof.Machine.execPoolFilled a0 a1 s
  | .crossfadeStart a0 => Sys2Proof.Machine.execCrossfadeStart a0 s
  | .crossfadeEnd a0 => Sys2Proof.Machine.execCrossfadeEnd a0 s
  | .offsetRetentionEnd a0 => Sys2Proof.Machine.execOffsetRetentionEnd a0 s
  | .insertOn a0 => Sys2Proof.Machine.execInsertOn a0 s
  | .insertCrossfadeEnd a0 => Sys2Proof.Machine.execInsertCrossfadeEnd a0 s
  | .insertOff a0 => Sys2Proof.Machine.execInsertOff a0 s
  | .insertUnderrun a0 a1 => Sys2Proof.Machine.execInsertUnderrun a0 a1 s
  | .insertLossTimeout a0 => Sys2Proof.Machine.execInsertLossTimeout a0 s
  | .portFrame a0 a1 a2 => Sys2Proof.Machine.execPortFrame a0 a1 a2 s
  | .portSync a0 a1 a2 a3 => Sys2Proof.Machine.execPortSync a0 a1 a2 a3 s
  | .clockLost a0 a1 a2 a3 => Sys2Proof.Machine.execClockLost a0 a1 a2 a3 s
  | .portClockReturn a0 a1 => Sys2Proof.Machine.execPortClockReturn a0 a1 s
  | .portRateOk a0 a1 => Sys2Proof.Machine.execPortRateOk a0 a1 s
  | .fsError a0 a1 a2 => Sys2Proof.Machine.execFsError a0 a1 a2 s
  | .carrierStart a0 a1 => Sys2Proof.Machine.execCarrierStart a0 a1 s
  | .loWaitExpiry a0 a1 => Sys2Proof.Machine.execLoWaitExpiry a0 a1 s
  | .carrierResume a0 a1 => Sys2Proof.Machine.execCarrierResume a0 a1 s
  | .rdsSlot a0 a1 => Sys2Proof.Machine.execRdsSlot a0 a1 s
  | .dcarFrame a0 a1 => Sys2Proof.Machine.execDcarFrame a0 a1 s
  | .levelOut a0 a1 a2 => Sys2Proof.Machine.execLevelOut a0 a1 a2 s
  | .txcalInService a0 a1 a2 => Sys2Proof.Machine.execTxcalInService a0 a1 a2 s
  | .txcalFullEnd a0 a1 => Sys2Proof.Machine.execTxcalFullEnd a0 a1 s
  | .paEnRise => Sys2Proof.Machine.execPaEnRise s
  | .paEnFall => Sys2Proof.Machine.execPaEnFall s
  | .yt7300Ramp a0 a1 => Sys2Proof.Machine.execYt7300Ramp a0 a1 s
  | .cxGrant a0 => Sys2Proof.Machine.execCxGrant a0 s
  | .cxWaitExpiry a0 => Sys2Proof.Machine.execCxWaitExpiry a0 s
  | .cxGntFall a0 => Sys2Proof.Machine.execCxGntFall a0 s
  | .sweepPoint a0 a1 => Sys2Proof.Machine.execSweepPoint a0 a1 s
  | .tbSlewDone => Sys2Proof.Machine.execTbSlewDone s
  | .ptmDialogStart a0 => Sys2Proof.Machine.execPtmDialogStart a0 s
  | .ptmResponse a0 a1 a2 => Sys2Proof.Machine.execPtmResponse a0 a1 a2 s
  | .ptmTimeout a0 => Sys2Proof.Machine.execPtmTimeout a0 s
  | .pulseEdge a0 a1 a2 a3 => Sys2Proof.Machine.execPulseEdge a0 a1 a2 a3 s
  | .handshakeEnd a0 => Sys2Proof.Machine.execHandshakeEnd a0 s
  | .ppsMissing a0 => Sys2Proof.Machine.execPpsMissing a0 s
  | .cue a0 => Sys2Proof.Machine.execCue a0 s
  | .cueWidthEnd a0 => Sys2Proof.Machine.execCueWidthEnd a0 s
  | .hhlTrained a0 a1 => Sys2Proof.Machine.execHhlTrained a0 a1 s
  | .hhlDown a0 a1 => Sys2Proof.Machine.execHhlDown a0 a1 s
  | .wordGroup a0 a1 a2 => Sys2Proof.Machine.execWordGroup a0 a1 a2 s
  | .electionStart a0 => Sys2Proof.Machine.execElectionStart a0 s
  | .electionDetect a0 a1 => Sys2Proof.Machine.execElectionDetect a0 a1 s
  | .masterArbitrationEnd a0 a1 a2 a3 => Sys2Proof.Machine.execMasterArbitrationEnd a0 a1 a2 a3 s
  | .deputyArbitrationEnd a0 a1 => Sys2Proof.Machine.execDeputyArbitrationEnd a0 a1 s
  | .tickMark a0 a1 a2 a3 => Sys2Proof.Machine.execTickMark a0 a1 a2 a3 s
  | .clapper a0 a1 a2 a3 a4 a5 => Sys2Proof.Machine.execClapper a0 a1 a2 a3 a4 a5 s
  | .echo a0 a1 a2 a3 a4 => Sys2Proof.Machine.execEcho a0 a1 a2 a3 a4 s
  | .tbchgApply a0 => Sys2Proof.Machine.execTbchgApply a0 s
  | .joinAlign a0 a1 => Sys2Proof.Machine.execJoinAlign a0 a1 s
  | .refCompareEnd a0 a1 => Sys2Proof.Machine.execRefCompareEnd a0 a1 s
  | .joinTimeout a0 => Sys2Proof.Machine.execJoinTimeout a0 s
  | .casUnfence a0 => Sys2Proof.Machine.execCasUnfence a0 s
  | .configMismatch a0 => Sys2Proof.Machine.execConfigMismatch a0 s
  | .epochApply a0 => Sys2Proof.Machine.execEpochApply a0 s
  | .heartbeatLoss a0 a1 => Sys2Proof.Machine.execHeartbeatLoss a0 a1 s
  | .casMemberLost a0 a1 => Sys2Proof.Machine.execCasMemberLost a0 a1 s
  | .perstN a0 => Sys2Proof.Machine.execPerstN a0 s
  | .hotReset a0 => Sys2Proof.Machine.execHotReset a0 s
  | .functionLevelReset a0 => Sys2Proof.Machine.execFunctionLevelReset a0 s
  | .endpointReady => Sys2Proof.Machine.execEndpointReady s
  | .registerWrite a0 a1 a2 a3 => Sys2Proof.Machine.execRegisterWrite a0 a1 a2 a3 s
  | .cmdEn a0 a1 => Sys2Proof.Machine.execCmdEn a0 a1 s
  | .shadowNow a0 => Sys2Proof.Machine.execShadowNow a0 s
  | .ringEnable a0 a1 a2 a3 => Sys2Proof.Machine.execRingEnable a0 a1 a2 a3 s
  | .ringDisable a0 a1 => Sys2Proof.Machine.execRingDisable a0 a1 s
  | .hostDmaFail a0 a1 => Sys2Proof.Machine.execHostDmaFail a0 a1 s
  | .irqModerationTimeout a0 a1 => Sys2Proof.Machine.execIrqModerationTimeout a0 a1 s
  | .msixUnmask a0 a1 => Sys2Proof.Machine.execMsixUnmask a0 a1 s
  | .bootEntry a0 => Sys2Proof.Machine.execBootEntry a0 s
  | .objOpen a0 => Sys2Proof.Machine.execObjOpen a0 s
  | .objHold a0 => Sys2Proof.Machine.execObjHold a0 s
  | .objRun a0 => Sys2Proof.Machine.execObjRun a0 s
  | .objClose a0 => Sys2Proof.Machine.execObjClose a0 s
  | .objQuery a0 => Sys2Proof.Machine.execObjQuery a0 s
  | .groupDefine a0 => Sys2Proof.Machine.execGroupDefine a0 s
  | .groupHold a0 => Sys2Proof.Machine.execGroupHold a0 s
  | .groupRun a0 => Sys2Proof.Machine.execGroupRun a0 s
  | .groupAtIndex a0 => Sys2Proof.Machine.execGroupAtIndex a0 s
  | .passSet a0 => Sys2Proof.Machine.execPassSet a0 s
  | .demodSet a0 => Sys2Proof.Machine.execDemodSet a0 s
  | .eeSet a0 => Sys2Proof.Machine.execEeSet a0 s
  | .progSet a0 => Sys2Proof.Machine.execProgSet a0 s
  | .portSet a0 => Sys2Proof.Machine.execPortSet a0 s
  | .carrierSet a0 => Sys2Proof.Machine.execCarrierSet a0 s
  | .liveSet a0 => Sys2Proof.Machine.execLiveSet a0 s
  | .afListSet a0 => Sys2Proof.Machine.execAfListSet a0 s
  | .afPolicySet a0 => Sys2Proof.Machine.execAfPolicySet a0 s
  | .tbSet a0 => Sys2Proof.Machine.execTbSet a0 s
  | .tbAdjStep a0 => Sys2Proof.Machine.execTbAdjStep a0 s
  | .tbAdjSlew a0 => Sys2Proof.Machine.execTbAdjSlew a0 s
  | .tbAdjFreq a0 => Sys2Proof.Machine.execTbAdjFreq a0 s
  | .tbAdjStatus a0 => Sys2Proof.Machine.execTbAdjStatus a0 s
  | .cueSet a0 => Sys2Proof.Machine.execCueSet a0 s
  | .slateArm a0 => Sys2Proof.Machine.execSlateArm a0 s
  | .capStart a0 => Sys2Proof.Machine.execCapStart a0 s
  | .capStop a0 => Sys2Proof.Machine.execCapStop a0 s
  | .insertStart a0 => Sys2Proof.Machine.execInsertStart a0 s
  | .insertStop a0 => Sys2Proof.Machine.execInsertStop a0 s
  | .sweepStart a0 => Sys2Proof.Machine.execSweepStart a0 s
  | .casJoin a0 => Sys2Proof.Machine.execCasJoin a0 s
  | .casLeave a0 => Sys2Proof.Machine.execCasLeave a0 s
  | .casEpochStatus a0 => Sys2Proof.Machine.execCasEpochStatus a0 s
  | .casEpochAdvance a0 => Sys2Proof.Machine.execCasEpochAdvance a0 s
  | .casEpochResync a0 => Sys2Proof.Machine.execCasEpochResync a0 s
  | .calRun a0 => Sys2Proof.Machine.execCalRun a0 s
  | .calPolicy a0 => Sys2Proof.Machine.execCalPolicy a0 s
  | .nvmCommit a0 => Sys2Proof.Machine.execNvmCommit a0 s
  | .nvmWriteDone a0 a1 a2 a3 => Sys2Proof.Machine.execNvmWriteDone a0 a1 a2 a3 s
  | .storyboardWrite a0 => Sys2Proof.Machine.execStoryboardWrite a0 s
  | .storyboardCheck a0 => Sys2Proof.Machine.execStoryboardCheck a0 s
  | .storyboardClear a0 => Sys2Proof.Machine.execStoryboardClear a0 s
  | .storyboardStatus a0 => Sys2Proof.Machine.execStoryboardStatus a0 s
  | .lcAdvance a0 => Sys2Proof.Machine.execLcAdvance a0 s
  | .lcChange a0 a1 => Sys2Proof.Machine.execLcChange a0 a1 s
  | .wipe a0 => Sys2Proof.Machine.execWipe a0 s
  | .wipeOverwriteEnd a0 => Sys2Proof.Machine.execWipeOverwriteEnd a0 s
  | .calMeasureStart a0 a1 => Sys2Proof.Machine.execCalMeasureStart a0 a1 s
  | .calMeasureEnd a0 a1 a2 => Sys2Proof.Machine.execCalMeasureEnd a0 a1 a2 s
  | .storyboardReplayStart => Sys2Proof.Machine.execStoryboardReplayStart s
  | .mbWrite a0 a1 a2 => Sys2Proof.Machine.execMbWrite a0 a1 a2 s
  | .mbRead a0 a1 => Sys2Proof.Machine.execMbRead a0 a1 s
  | .busError a0 a1 a2 => Sys2Proof.Machine.execBusError a0 a1 a2 s
  | .sdaLowTo a0 => Sys2Proof.Machine.execSdaLowTo a0 s
  | .sclLowTo a0 => Sys2Proof.Machine.execSclLowTo a0 s
  | .flagClear a0 a1 a2 a3 => Sys2Proof.Machine.execFlagClear a0 a1 a2 a3 s
  | .attnPendClear a0 a1 => Sys2Proof.Machine.execAttnPendClear a0 a1 s
  | .healthClr a0 => Sys2Proof.Machine.execHealthClr a0 s
  | .resetReq a0 a1 => Sys2Proof.Machine.execResetReq a0 a1 s
  | .rcvLoad a0 => Sys2Proof.Machine.execRcvLoad a0 s
  | .rcvFinish a0 => Sys2Proof.Machine.execRcvFinish a0 s
  | .rcvAbort a0 => Sys2Proof.Machine.execRcvAbort a0 s
  | .attention a0 a1 => Sys2Proof.Machine.execAttention a0 a1 s
  | .attnRepeat a0 a1 => Sys2Proof.Machine.execAttnRepeat a0 a1 s
  | .eccCorr a0 => Sys2Proof.Machine.execEccCorr a0 s
  | .eccUncorr a0 a1 => Sys2Proof.Machine.execEccUncorr a0 a1 s
  | .supplyWarn a0 a1 a2 => Sys2Proof.Machine.execSupplyWarn a0 a1 a2 s
  | .supplyFault a0 a1 a2 => Sys2Proof.Machine.execSupplyFault a0 a1 a2 s
  | .bootAuth a0 a1 => Sys2Proof.Machine.execBootAuth a0 a1 s
  | .ready => Sys2Proof.Machine.execReady s
  | .testLogicReset => Sys2Proof.Machine.execTestLogicReset s
  | .bypass => Sys2Proof.Machine.execBypass s
  | .samplePreload a0 a1 => Sys2Proof.Machine.execSamplePreload a0 a1 s
  | .extest => Sys2Proof.Machine.execExtest s
  | .idcode => Sys2Proof.Machine.execIdcode s
  | .clamp => Sys2Proof.Machine.execClamp s
  | .highz => Sys2Proof.Machine.execHighz s
  | .debug => Sys2Proof.Machine.execDebug s
  | .testMode => Sys2Proof.Machine.execTestMode s

end Sys2Proof.Machine
end

