-- ==== Sys2Proof/Machine/Step.lean ====
section
/-! DEFINITION. One step: the command at the front of the queue, or idling; and the placing of a command at the front. -/
namespace Sys2Proof.Machine
open Sys2Proof

/-- The state without the command at the front of its queue. -/
def State.dequeue (s : State) : State := { s with pending := s.pending.tail }

/-- One step: the command at the front of the queue acts on the state with the rest of the queue; on an empty queue the block
idles (DESIGN CHOICE, log 2). -/
def step (s : State) : Host.Outcome State Fault Refusal :=
  match s.pending with
  | [] => .next s
  | c :: _ => exec c s.dequeue

/-- The state with the command that a table word spells put at the front of its queue. The table of this hardware gives its
rows no bits, so no word spells one and the state stays as it is. -/
def State.withFetchWord (s : State) (nbits w : Nat) : State :=
  match Sys2Proof.decodeTableWord nbits w with
  | none => s
  | some c => { s with pending := c :: s.pending }

end Sys2Proof.Machine
end

