-- ==== Sys2Proof/Machine/Pins.lean ====
section
/-! DEFINITION. The output pins as the state gives them (R21, R30, R53, R242, R270, R299, R386, R430, R446). -/
namespace Sys2Proof.Machine
open Sys2Proof

/-- What a pin shows; `clock` is a running clock or a signal on its grid. -/
inductive PinLevel where
  | low | high | highZ | clock
  deriving DecidableEq, Repr

def levelOf (b : Bool) : PinLevel := if b then .high else .low

/-- CKOUT (R30): CK_AUD while CKOUT_EN is 1, from the first reset of the dividers on. -/
def State.pinCkout (s : State) : PinLevel :=
  if s.clk.divReset && fbit s.clk.profile ckCkoutEn && decide (s.phase ≠ .porst ∧ s.phase ≠ .warm) then .clock else .low

/-- LKF (R20, R21): the driver is kept off when LKF_USE is low, and while a reset is asserted. -/
def State.pinLkf (s : State) : PinLevel :=
  if s.straps.lkfUse && decide (s.phase ≠ .porst ∧ s.phase ≠ .warm) then .clock else .highZ

/-- PSEL of an input (R53): zero in reset and while the object is CLOSED. -/
def State.pinPsel (s : State) (x : Nat) : BitVec 3 :=
  if s.phase = .porst ∨ s.phase = .warm ∨ (s.life ⟨.conv, x⟩).eff = .closed then 0 else (s.convR x).psel

/-- BCLK and FS of a port, and DO (R242): DO shows slots in HELD and RUN. -/
def State.pinTdmClock (s : State) (p : Nat) : PinLevel :=
  if s.phase ≠ .released ∨ (s.life ⟨.port, p⟩).eff = .closed ∨ fget (s.life ⟨.port, p⟩).cur ptRole = 1 then .highZ else .clock
def State.pinTdmDo (s : State) (p : Nat) : PinLevel :=
  if s.phase ≠ .released ∨ (s.life ⟨.port, p⟩).eff = .closed then .highZ
  else if (s.life ⟨.port, p⟩).eff = .held then .low else .clock

/-- A CUE pin (R299, R300): driven inactive in HELD; the pulse in RUN. -/
def State.pinCue (s : State) (n : Nat) : PinLevel :=
  let l := s.life ⟨.cue, n⟩
  if s.phase ≠ .released ∨ l.eff = .closed then .highZ
  else levelOf ((cueFlags l.cur).testBit 0 != (decide (l.eff = .run) && (s.cueR n).pulseEnd.isSome))

/-- The amplifier pins and the converter-sharing pins (R270 to R274); low until outputs are released. -/
def State.pinPaEn (s : State) : PinLevel := levelOf (decide (s.phase = .released) && s.tx.paEn)
def State.pinPaRamp (s : State) : PinLevel :=
  if s.phase = .released ∧ s.tx.paSlope.isSome = true then .clock else levelOf (decide (s.phase = .released) && s.tx.paRamp)
def State.pinCxReq (s : State) : PinLevel := levelOf (decide (s.phase = .released) && s.tx.cxReq)
def State.pinCxPrio (s : State) : PinLevel := levelOf (decide (s.phase = .released) && s.tx.cxPrio)

/-- The master's tick mark: one Plain sample from every tick boundary, none while an election runs (R310, R312). -/
def State.tickMarks (s : State) : Bool := s.isMaster && s.cas.election.isNone && decide (s.now % perTick < perSample)

/-- The open-drain pins: FAULT_N is low while FAULT_N is asserted, CLAP while the device pulls it low; released otherwise. -/
def State.pinFaultN (s : State) : PinLevel := if s.faultN then .low else .highZ
def State.pinClap (s : State) : PinLevel := if s.phase = .released ∧ (s.cas.clapLow = true ∨ s.tickMarks = true) then .low else .highZ

/-- PE_WAKE_N is released (R446). -/
def pinPeWakeN : PinLevel := .highZ

/-- QSPI_CS_N, QSPI_CLK and QSPI_IO (R446, R451): the flash is read while boot takes its image from it. -/
def State.flashRead (s : State) : Bool := decide (s.phase = .released) && s.boot.flash && decide (s.boot.st = .loading)
def State.pinQspiCsN (s : State) : PinLevel := levelOf (!s.flashRead)
def State.pinQspiClk (s : State) : PinLevel := if s.flashRead then .clock else .low
def State.pinQspiIo (s : State) : PinLevel := if s.flashRead then .clock else .highZ

/-- HUP_TX and HDN_TX (R446): electrical idle until outputs are released. -/
def State.pinHhlTx (s : State) : PinLevel := if s.phase = .released then .clock else .highZ

/-- RFOUT (R446): the DAC's word at a CK_RF count, zero until outputs are released. -/
def State.pinRfout (s : State) (k : Nat) : Int := if s.phase = .released then (s.dacWord k).1 else 0

end Sys2Proof.Machine
end

