-- ==== Sys2Proof/Safety.lean ====
section
/-! DEFINITION. What counts as a safe state and a safe step of the block, in the terms that statements use: the access lock, the test modes, the fuses, the straps. -/
namespace Sys2Proof.Machine
open Sys2Proof

/-- A command completes on a state, with a next state of which `p` holds. -/
def completes (c : Instr) (s : State) (p : State → Prop) : Prop := ∃ t, exec c s = .next t ∧ p t

/-- No test mode is in force: the data plane and the firmware run (R464). -/
def State.live (s : State) : Prop := s.tap.testing = false

/-- `t` differs from `s` at most in what a report touches: the rings, buffers and interrupts of the host, the Dailies log, the flag
register, the slates that wait, and the wake request of the management clock. -/
def State.reportsOnly (s t : State) : Prop :=
  t = { s with
    host := t.host, log := t.log, flags := t.flags, slates := t.slates, clk := { s.clk with wakeReq := t.clk.wakeReq } }

/-- `t` differs from `s` at most in the rings, buffers and interrupts of the host. -/
def State.hostOnly (s t : State) : Prop := t = { s with host := t.host }

/-- The access lock (R460, R463): a device in FIELD has DBG_LOCK blown, and with DBG_LOCK blown the debug port is closed. -/
def State.accessLocked (s : State) : Bool :=
  (!pairBlown s.fuses.lcF || s.fuses.dbgLock) && (!s.fuses.dbgLock || (!s.tap.debugOpen && decide (s.tap.ir ≠ .debug)))

/-- A test mode is in force only in FACTORY and RETURN (R464). -/
def State.testLegal (s : State) : Bool := !s.tap.testing || s.testAllowed

/-- What a safe state satisfies. -/
def State.safe (s : State) : Bool := s.accessLocked && s.testLegal

/-- A pair that reads as blown stays so. -/
def pairKept (old new : Bool × Bool) : Bool := !pairBlown old || pairBlown new

/-- No fuse that is blown reads as intact afterwards, and no other fuse changes (R453, R456, R460). -/
def Fuses.rises (old new : Fuses) : Bool :=
  pairKept old.lcP new.lcP && pairKept old.lcF new.lcF && pairKept old.lcR new.lcR && pairKept old.dbg new.dbg &&
  decide (old.minSvn ≤ new.minSvn) && decide (new.step = old.step) && decide (new.serial = old.serial) && decide (new.keyK = old.keyK)

/-- The commands of the host, of the data plane and of the firmware: a test mode stops them (R464). The others are those of the reset
pins and monitors, the management bus and the test access port. -/
def stopsInTest : Instr → Bool
  | .porstNAssert _ | .wrstNAssert _ | .resetRelease _ | .brownOut _ _ | .brownOutEnd _ _ _ _ | .thermalTrip _ _
  | .thermalTripEnd _ _ => false
  | .mbWrite _ _ _ | .mbRead _ _ | .busError _ _ _ | .sdaLowTo _ | .sclLowTo _ | .flagClear _ _ _ _ | .attnPendClear _ _
  | .healthClr _ | .resetReq _ _ | .rcvLoad _ | .rcvFinish _ | .rcvAbort _ | .attention _ _ | .attnRepeat _ _ => false
  | .testLogicReset | .bypass | .samplePreload _ _ | .extest | .idcode | .clamp | .highz | .debug | .testMode => false
  | _ => true

/-- The descriptor that a host command's row places in its ring, with the row's OPCODE and MODE (R346, R377); none for the other rows. -/
def hostDesc : Instr → Option Desc
  | .objOpen d => some (withOp opOpen d)
  | .objHold d => some (withOp opHold d)
  | .objRun d => some (withOp opRun d)
  | .objClose d => some (withOp opClose d)
  | .objQuery d => some (withOp opQuery d)
  | .groupDefine d => some (withOp opGroupDefine d)
  | .groupHold d => some (withOp opGroupHold d)
  | .groupRun d => some (withOp opGroupRun d)
  | .passSet d => some (withOp opPassSet d)
  | .demodSet d => some (withOp opDemodSet d)
  | .eeSet d => some (withOp opEeSet d)
  | .progSet d => some (withOp opProgSet d)
  | .portSet d => some (withOp opPortSet d)
  | .carrierSet d => some (withOp opCarrierSet d)
  | .liveSet d => some (withOp opLiveSet d)
  | .afListSet d => some (withOp opAfList d)
  | .afPolicySet d => some (withOp opAfPolicy d)
  | .tbSet d => some (withOp opTbSet d)
  | .tbAdjStep d => some (withMode opTbAdj 0 d)
  | .tbAdjSlew d => some (withMode opTbAdj 1 d)
  | .tbAdjFreq d => some (withMode opTbAdj 2 d)
  | .tbAdjStatus d => some (withMode opTbAdj 3 d)
  | .cueSet d => some (withOp opCueSet d)
  | .slateArm d => some (withOp opSlateArm d)
  | .capStart d => some (withOp opCapStart d)
  | .capStop d => some (withOp opCapStop d)
  | .insertStart d => some (withOp opInsStart d)
  | .insertStop d => some (withOp opInsStop d)
  | .sweepStart d => some (withOp opSweep d)
  | .casJoin d => some (withOp opCasJoin d)
  | .casLeave d => some (withOp opCasLeave d)
  | .casEpochStatus d => some (withMode opCasEpoch 0 d)
  | .casEpochAdvance d => some (withMode opCasEpoch 1 d)
  | .casEpochResync d => some (withMode opCasEpoch 2 d)
  | .calRun d => some (withOp opCalRun d)
  | .calPolicy d => some (withOp opCalPolicy d)
  | .nvmCommit d => some (withOp opNvmCommit d)
  | .storyboardWrite d => some (withMode opStoryboard 0 d)
  | .storyboardClear d => some (withMode opStoryboard 1 d)
  | .storyboardStatus d => some (withMode opStoryboard 2 d)
  | .storyboardCheck d => some (withMode opStoryboard 3 d)
  | .lcAdvance d => some (withOp opLcAdvance d)
  | .wipe d => some (withOp opWipe d)
  | _ => none

/-- The command of a descriptor is taken up at once: its ring and the completion ring run, nothing waits before it, the controller takes
commands at this boundary, and host memory can be read (R345, R346, R348). -/
def State.takesNow (s : State) (d : Desc) : Bool :=
  !s.tap.testing && d.readOk && (s.ring d.ring).holdsCommands && !s.queuedOn d.ring && s.canTake d

/-- It also passes every check before its own, on this device (R347, R376). -/
def State.accepted (s : State) (d : Desc) : Bool :=
  let u := s.releaseEntry d.ring
  s.takesNow d && opcodes.contains d.opcode.toNat && decide (d.plen.toNat ≤ (s.ring d.ring).bufSize) &&
  u.objectOk d.opcode.toNat d.object && (flagsBad d).isNone && (u.precheck .own d.opcode.toNat d.object).isNone && u.idLocal d.object

/-- `t` differs from `s` at most in what a completion touches: rings, interrupts and parameter buffers of the host, and what the device
has put into the cascade's service channel. -/
def State.completionOnly (s t : State) : Prop :=
  t = { s with
    host := { s.host with rings := t.host.rings, msix := t.host.msix, bufOut := t.host.bufOut }
    cas := { s.cas with sent := t.cas.sent } }

/-- The same, and in everything else on the host's side: waiting commands, groups, the Storyboard. -/
def State.hostSideOnly (s t : State) : Prop := t = { s with host := t.host, cas := { s.cas with sent := t.cas.sent } }

/-- The same, and in what a report touches. -/
def State.answersOnly (s t : State) : Prop :=
  t = { s with
    host := t.host, log := t.log, flags := t.flags, slates := t.slates, clk := { s.clk with wakeReq := t.clk.wakeReq }
    cas := { s.cas with sent := t.cas.sent } }

end Sys2Proof.Machine
end

