-- ==== Sys2Proof/Certificates/Slice0/Obligations.lean ====
section
/-! DEFINITION. The statements for the provers. `Rules.…` are the parts of the statements `Obligations.…`; a docstring names the rules of the specification behind each. Statements whose OBLIGATIONS.json entry reads 'derived' follow the sections and not one rule whole. -/
open Sys2Proof Sys2Proof.Machine

/-! ## The queue, the outcomes, the access lock -/

/-- The command at the front of the queue acts on the state with the rest of the queue; an empty queue idles (log 2). -/
def Obligations.StepRunsFront : Prop :=
  (∀ (s : State) (c : Instr) (q : List Instr), s.pending = c :: q → step s = exec c { s with pending := q }) ∧
  (∀ s : State, s.pending = [] → step s = .next s)

/-- Every command, on every state, answers a next state whose queue is the one before: no meaning faults or refuses. -/
def Obligations.EveryCommandAnswers : Prop :=
  ∀ (c : Instr) (s : State), completes c s (fun t => t.pending = s.pending)

/-- State.reset is a safe state with nothing in its queue. -/
def Obligations.ResetSafe : Prop := State.reset.safe = true ∧ State.reset.pending = []

/-- Every step keeps the access lock and the legality of the test modes (R460, R463, R464): in FIELD the debug lock is blown, with it
blown the debug port is closed, and a test mode is in force only in FACTORY and RETURN. -/
def Obligations.StepKeepsSafe : Prop :=
  ∀ s t : State, s.safe = true → step s = .next t → t.safe = true

/-- No step makes a blown fuse read as intact, or changes the stepping, the serial number or the image key (R453, R456, R460). -/
def Obligations.StepNeverUnblows : Prop :=
  ∀ s t : State, step s = .next t → s.fuses.rises t.fuses = true

/-- The straps change only with the release of a device reset, which leaves the device loading (R448). -/
def Obligations.StrapsLatchedAtRelease : Prop :=
  ∀ s t : State, step s = .next t → t.straps = s.straps ∨ (t.phase = .loading ∧ (s.phase = .porst ∨ s.phase = .warm))

/-! ## Reset, release, test access port -/

/-- State.reset is what the manual gives: a power-on reset held, CONV0 to CONV3 and every CAP HELD, CONV4 in RUN, every other object
CLOSED, no flag set, the Timebase at zero and UNSET, TB_INC nominal, FMASK, ATTN_REPEAT, TJ_PEAK, VMIN, VMAX and CMD_EN at their Reset
column, every ring DISABLED. -/
def Obligations.ResetValues : Prop :=
  let s := State.reset
  s.phase = .porst ∧ s.now = 0 ∧ s.tb.total = 0 ∧ s.tb.unset = true ∧ s.tb.inc = 0x0000000411AAAAAB#64 ∧
  s.flags.bits = 0 ∧ s.flags.cond = 0 ∧ s.flags.fmask = fmaskReset ∧ s.flags.attnRepeat = 3 ∧ s.flags.attnEn = false ∧
  s.health.tjPeak = -32768 ∧ s.health.vmin = List.replicate 6 0xFFFF ∧ s.health.vmax = List.replicate 6 0 ∧
  s.host.cmdEn = true ∧ s.host.rings.length = 64 ∧ s.host.rings.all (fun r => decide (r.st = .disabled)) = true ∧
  s.boot.st.code = 0 ∧ s.boot.ready = false ∧ s.boot.cause = 0 ∧
  (s.conv.map (fun o => o.life.eff)) = [.held, .held, .held, .held, .run] ∧
  s.cap.all (fun o => decide (o.life.eff = .held)) = true ∧
  (s.pass.all (fun o => decide (o.life.eff = .closed)) && s.fmd.all (fun o => decide (o.life.eff = .closed)) &&
    s.amd.all (fun o => decide (o.life.eff = .closed)) && s.ee.all (fun o => decide (o.life.eff = .closed)) &&
    s.prog.all (fun o => decide (o.life.eff = .closed)) && s.port.all (fun o => decide (o.life.eff = .closed)) &&
    s.fcar.all (fun o => decide (o.life.eff = .closed)) && s.dcar.all (fun o => decide (o.life.eff = .closed)) &&
    s.cue.all (fun o => decide (o.life.eff = .closed))) = true ∧
  (s.pass.length, s.cap.length, s.fmd.length, s.amd.length, s.ee.length) = (96, 16, 32, 48, 12) ∧
  (s.prog.length, s.port.length, s.fcar.length, s.dcar.length, s.cue.length) = (64, 4, 24, 4, 4)

/-- What a device reset leaves of a state: everything starts again but the overrides of boot, what holds the reset, MRAM, fuses, straps as
latched, the test access port and the queue; a write to MRAM in progress is lost (R417, R444). -/
def Rules.startsAgain (s t : State) : Prop :=
  t = { State.reset with
    phase := t.phase, lastCause := t.lastCause, resetPin := t.resetPin, heldBrown := s.heldBrown || t.heldBrown,
    heldHot := s.heldHot || t.heldHot, freeCtr := s.freeCtr, straps := s.straps, fuses := s.fuses, wipeRun := s.wipeRun,
    boot := { State.reset.boot with ovrEn := t.boot.ovrEn, ovrSrc := t.boot.ovrSrc, skipStoryboard := t.boot.skipStoryboard },
    mram := { s.mram with writes := [] }, tap := t.tap, pending := s.pending }

/-- PORST_N and WRST_N low for 1 µs or longer assert a device reset, a power-on reset over any state and a warm one while outputs are
released; a warm reset keeps OVR_EN and SKIP_STORYBOARD and a power-on reset clears them; a shorter low level does nothing, and a warm
reset asked for in a device reset changes nothing (R443 to R445). -/
def Rules.ResetPins : Prop :=
  ∀ (s : State) (ns : Nat),
    (1000 ≤ ns → s.phase ≠ .porst → completes (.porstNAssert ns) s (fun t =>
      t.phase = .porst ∧ t.resetPin = true ∧ t.lastCause = .porst ∧ Rules.startsAgain s t ∧
      t.boot.ovrEn = false ∧ t.boot.skipStoryboard = false ∧ t.tap = { s.tap with testing := false })) ∧
    (1000 ≤ ns → s.phase = .porst → completes (.porstNAssert ns) s (fun t => t = { s with resetPin := true })) ∧
    (1000 ≤ ns → s.phase = .released → completes (.wrstNAssert ns) s (fun t =>
      t.phase = .warm ∧ t.resetPin = true ∧ t.lastCause = .wrst ∧ Rules.startsAgain s t ∧
      t.boot.ovrEn = s.boot.ovrEn ∧ t.boot.ovrSrc = s.boot.ovrSrc ∧ t.boot.skipStoryboard = s.boot.skipStoryboard ∧ t.tap = s.tap)) ∧
    (s.phase = .porst ∨ s.phase = .warm → completes (.wrstNAssert ns) s (fun t => t = s)) ∧
    (ns < 1000 → completes (.porstNAssert ns) s (fun t => t = s) ∧ completes (.wrstNAssert ns) s (fun t => t = s))

/-- BROWN_OUT below the limit of a monitored supply holds the device as PORST_N would; THERMAL_TRIP from 165 °C on holds it in warm
reset; both holds end at their own rows, from the limit plus its margin held for 1 ms and below 140 °C, and the device then loads unless
something else still holds it (R434, R435). -/
def Rules.MonitorsHoldReset : Prop :=
  ∀ (s : State) (r : ReleaseIn),
    (∀ supply mv limit margin, brownLimit supply = some (limit, margin) → mv < limit → s.phase ≠ .porst →
      completes (.brownOut supply mv) s (fun t =>
        t.phase = .porst ∧ t.heldBrown = true ∧ t.lastCause = .brownOut ∧ Rules.startsAgain s t)) ∧
    (∀ supply mv limit margin, brownLimit supply = some (limit, margin) → mv < limit → s.phase = .porst →
      completes (.brownOut supply mv) s (fun t => t = { s with heldBrown := true })) ∧
    (∀ sensor reading, 2640 ≤ reading → s.phase = .porst ∨ s.phase = .warm →
      completes (.thermalTrip sensor reading) s (fun t => t = { s with heldHot := true })) ∧
    (∀ sensor reading, 2640 ≤ reading → s.phase ≠ .porst → s.phase ≠ .warm →
      completes (.thermalTrip sensor reading) s (fun t =>
        t.phase = .warm ∧ t.heldHot = true ∧ t.lastCause = .thermTrip ∧ Rules.startsAgain s t)) ∧
    (∀ volts ns porstLow, s.heldBrown = true → 1000000 ≤ ns → 700 ≤ volts.getD 0 0 → 2780 ≤ volts.getD 5 0 →
      (s.phase = .porst ∨ s.phase = .warm) →
      completes (.brownOutEnd volts ns porstLow r) s (fun t =>
        t.heldBrown = false ∧ t.resetPin = porstLow ∧
        t.phase = (if porstLow = true ∨ s.heldHot = true then s.phase else .loading))) ∧
    (∀ temps, s.heldHot = true → temps.all (fun x => decide (x < 2240)) = true → (s.phase = .porst ∨ s.phase = .warm) →
      completes (.thermalTripEnd temps r) s (fun t =>
        t.heldHot = false ∧ t.phase = (if s.resetPin = true ∨ s.heldBrown = true then s.phase else .loading)))

/-- Reset pins and monitors: Rules.ResetPins, Rules.MonitorsHoldReset, together. -/
def Obligations.DeviceResets : Prop := Rules.ResetPins ∧ Rules.MonitorsHoldReset

/-- RESET_RELEASE: once nothing else holds the device it loads, with the straps latched as they stand at the release, CLK_PROFILE of
MRAM in force and REF_SEL_BAD's condition as REF_SEL gives it; while a monitor holds it, only the pin's own hold ends (R28, R448,
R449). -/
def Rules.ResetRelease : Prop :=
  ∀ (s : State) (r : ReleaseIn), s.phase = .porst ∨ s.phase = .warm →
    (s.heldBrown = false → s.heldHot = false → completes (.resetRelease r) s (fun t =>
      t.phase = .loading ∧ t.resetPin = false ∧ t.straps = r.straps ∧ t.fuses = s.fuses ∧ t.tap = s.tap ∧
      t.clk.profile = ((t.mram.profile idClk 128 clkFields).1) ∧ t.cond fRefSelBad = (r.straps.refSel == 3) ∧
      t.boot = s.boot ∧ t.pending = s.pending)) ∧
    (s.heldBrown = true ∨ s.heldHot = true → completes (.resetRelease r) s (fun t => t = { s with resetPin := false }))

/-- OUTPUT_RELEASE, at the end of the wipe: outputs are released and boot begins from OVR_SRC when OVR_EN is 1, else from BOOT_SRC; BOOT reads
WAIT_IMAGE, LOADING or RECOVERY by that source; OVR_EN and SKIP_STORYBOARD are used up (R405, R447, R449, R451). -/
def Rules.OutputRelease : Prop :=
  ∀ (s : State) (bad : List BadWord), s.live → s.phase = .wiping →
    completes (.outputRelease bad) s (fun t =>
      let b := (s.advance perTick).boot
      let src := if b.ovrEn then b.ovrSrc else (s.advance perTick).straps.bootSrc
      t.phase = .released ∧ t.boot.src = src ∧ t.boot.ovrEn = false ∧ t.boot.skipStoryboard = false ∧
      t.boot.skipNow = b.skipStoryboard ∧
      t.boot.st = (if src = 0 then .waitImage else if src = 2 then .recovery else .loading))

/-- Release of reset and of outputs: Rules.ResetRelease, Rules.OutputRelease, together. -/
def Obligations.Releases : Prop := Rules.ResetRelease ∧ Rules.OutputRelease

/-- What an instruction of the test access port leaves: nothing but the port itself changes. -/
def Rules.tapOnly (s t : State) : Prop := t = { s with tap := t.tap }

/-- BYPASS, SAMPLE/PRELOAD, EXTEST, IDCODE, CLAMP, HIGHZ and the Test-Logic-Reset state act in every state, DBG_LOCK included, and change
the test access port alone; IDCODE has version 1, part 0x9620 and bit 0 at 1 (R443, R462). -/
def Rules.TapBoundary : Prop :=
  ∀ s : State,
    completes .bypass s (fun t => t.tap.ir = .bypass ∧ t.tap.dataReg = 0 ∧ Rules.tapOnly s t) ∧
    (∀ pins pre, completes (.samplePreload pins pre) s (fun t =>
      t.tap.ir = .samplePreload ∧ t.tap.boundary = pre.getD pins ∧ Rules.tapOnly s t)) ∧
    completes .extest s (fun t => t.tap.ir = .extest ∧ t.tap.boundary = s.tap.boundary ∧ Rules.tapOnly s t) ∧
    completes .idcode s (fun t => t.tap.ir = .idcode ∧ t.tap.dataReg.extractLsb' 28 4 = 1 ∧
      t.tap.dataReg.extractLsb' 12 16 = 0x9620 ∧ t.tap.dataReg.getLsbD 0 = true ∧ Rules.tapOnly s t) ∧
    completes .clamp s (fun t => t.tap.ir = .clamp ∧ t.tap.boundary = s.tap.boundary ∧ Rules.tapOnly s t) ∧
    completes .highz s (fun t => t.tap.ir = .highz ∧ Rules.tapOnly s t) ∧
    completes .testLogicReset s (fun t =>
      t.tap.ir = .idcode ∧ t.tap.boundary = [] ∧ t.tap.debugOpen = false ∧ t.tap.testing = s.tap.testing ∧ Rules.tapOnly s t)

/-- DEBUG opens the debug port in FACTORY, PROVISIONED and RETURN while DBG_LOCK is intact, and selects the bypass register otherwise;
TEST_MODE enters a test mode in FACTORY and RETURN, and selects the bypass register otherwise (R463, R464). -/
def Rules.TapPrivate : Prop :=
  ∀ s : State,
    completes .debug s (fun t => Rules.tapOnly s t ∧
      (s.fuses.dbgLock = false ∧ s.fuses.lcState ≠ 2 → t.tap.ir = .debug ∧ t.tap.debugOpen = true) ∧
      (s.fuses.dbgLock = true ∨ s.fuses.lcState = 2 → t.tap.ir = .bypass ∧ t.tap.debugOpen = false)) ∧
    completes .testMode s (fun t => Rules.tapOnly s t ∧
      (s.fuses.lcState = 0 ∨ s.fuses.lcState = 3 → t.tap.ir = .testMode ∧ t.tap.testing = true) ∧
      (s.fuses.lcState = 1 ∨ s.fuses.lcState = 2 → t.tap.ir = .bypass ∧ t.tap.testing = s.tap.testing))

/-- Instructions of the test access port: Rules.TapBoundary, Rules.TapPrivate, together. -/
def Obligations.TapInstructions : Prop := Rules.TapBoundary ∧ Rules.TapPrivate

/-! ## Boot -/

/-- BOOT_AUTH: an image that passes every check of R453 leaves BOOT at RUNNING with BOOT_CAUSE 0 and no flash read; one that fails
leaves the code of the first check that fails in BOOT_CAUSE and, by its source, BOOT at AUTH_FAIL, the second flash copy next, or
WAIT_IMAGE for QSPI_HOST (R406, R451, R453, R454). -/
def Rules.BootAuth : Prop :=
  ∀ (s : State) (t : Nat) (flash : FlashRead), s.live → (s.advance t).phase = .released →
    let u := s.advance t
    let b := u.boot
    (b.rcvStatus = 1 → b.complete = true →
      (imageFault u.fuses true b.image = none → completes (.bootAuth t flash) s (fun r =>
        r.boot.st = .running ∧ r.boot.cause = 0 ∧ r.boot.rcvStatus = 2 ∧ r.boot.flash = false)) ∧
      (∀ c, imageFault u.fuses true b.image = some c → completes (.bootAuth t flash) s (fun r =>
        r.boot.st = .authFail ∧ r.boot.cause = BitVec.ofNat 8 c ∧ r.boot.rcvStatus = 5 ∧ r.boot.image = []))) ∧
    (b.rcvStatus ≠ 1 → b.st = .loading → b.flash = true →
      (flash = .noAnswer → b.copyB = false → completes (.bootAuth t flash) s (fun r =>
        r.boot.st = .loading ∧ r.boot.copyB = true ∧ r.boot.cause = 7)) ∧
      (flash = .noAnswer → b.copyB = true → completes (.bootAuth t flash) s (fun r =>
        r.boot.st = (if b.src = 3 then .waitImage else .authFail) ∧ r.boot.flash = false ∧ r.boot.cause = 7)) ∧
      (∀ data c, flash = .bytes data → imageFault u.fuses true (flashImage data) = some c → b.copyB = false →
        completes (.bootAuth t flash) s (fun r =>
          r.boot.st = .loading ∧ r.boot.copyB = true ∧ r.boot.cause = BitVec.ofNat 8 c)) ∧
      (∀ data, flash = .bytes data → imageFault u.fuses true (flashImage data) = none →
        completes (.bootAuth t flash) s (fun r =>
          r.boot.st = .running ∧ r.boot.cause = 0 ∧ r.boot.flash = false ∧
          r.boot.fwMinor = byteAt data 12 ∧ r.boot.fwMajor = byteAt data 13)) ∧
      (∀ data c, flash = .bytes data → imageFault u.fuses true (flashImage data) = some c → b.copyB = true →
        completes (.bootAuth t flash) s (fun r =>
          r.boot.st = (if b.src = 3 then .waitImage else .authFail) ∧ r.boot.flash = false ∧
          r.boot.cause = BitVec.ofNat 8 c))) ∧
    (b.rcvStatus ≠ 1 → b.st = .loading → b.flash = false → b.complete = true →
      (imageFault u.fuses b.inOrder b.image = none → completes (.bootAuth t flash) s (fun r =>
        r.boot.st = .running ∧ r.boot.cause = 0 ∧ r.boot.flash = false)) ∧
      (∀ c, imageFault u.fuses b.inOrder b.image = some c → completes (.bootAuth t flash) s (fun r =>
        r.boot.st = .authFail ∧ r.boot.cause = BitVec.ofNat 8 c ∧ r.boot.image = [])))

/-- BOOT_ENTRY: while the host is the source, ring 0 runs as BOOT with an entry filled, and no image is complete, the entry's data join
the image, which starts again outside LOADING; BOOT reads LOADING; the data stay in order while OFFSET is the image's length and the
entry has a length that its slot and its place allow (R355, R451, R453). -/
def Rules.BootEntryTaken : Prop :=
  ∀ (s : State) (e : BootEntry), s.live → (s.ring 0).isRunning kBoot = true → 0 < (s.ring 0).filled →
    (s.boot.src = 0 ∨ (s.boot.src = 3 ∧ s.boot.flash = false)) → s.boot.complete = false → s.boot.rcvStatus ≠ 1 →
    (s.boot.st = .waitImage ∨ s.boot.st = .loading ∨ s.boot.st = .authFail) →
    completes (.bootEntry e) s (fun r =>
      r.boot.st = .loading ∧ r.boot.complete = e.last ∧
      r.boot.image = (if s.boot.st = .loading then s.boot.image else []) ++ e.data ∧
      (r.boot.inOrder = true ↔ (s.boot.st = .loading → s.boot.inOrder = true) ∧
        e.offset = (if s.boot.st = .loading then s.boot.image else []).length ∧ e.data.length ≤ (s.ring 0).bufSize - 16 ∧
        (e.last = true ∨ (16 ≤ e.data.length ∧ e.data.length % 16 = 0))))

/-- Images from the host, the flash and the recovery window: Rules.BootAuth, Rules.BootEntryTaken, together. -/
def Obligations.ImageBoot : Prop := Rules.BootAuth ∧ Rules.BootEntryTaken

/-- READY rises while the firmware runs: GLOBAL_STS reads READY, and MIN_SVN rises to the image's SVN when it carries COMMIT_SVN; no other
fuse, strap or test register changes (R339, R453, R454). -/
def Rules.ReadyRises : Prop :=
  ∀ s : State, s.live → s.boot.st = .running → s.boot.ready = false → s.phase = .released → s.flags.halted = false →
    completes .ready s (fun r =>
      r.boot.ready = true ∧ r.globalSts % 2 = 1 ∧
      r.fuses = { s.fuses with
        minSvn := if s.boot.commitSvn then max s.fuses.minSvn s.boot.svn else s.fuses.minSvn } ∧
      r.tap = s.tap ∧ r.straps = s.straps)

/-- The commands of the recovery window. Unless BOOT reads WAIT_IMAGE, AUTH_FAIL or RECOVERY in short-pointer mode each ends
NOT_PERMITTED and changes nothing else. Else LOAD ends BAD_OFFSET or BAD_LEN, or adds RCV_LEN bytes of RCV_DATA to the image and
ends OK; FINISH makes RCV_STATUS read BUSY; ABORT discards the image and ends IDLE (R406; a command while another is BUSY, and which
chunk counts as the last, are the model's choices, log 39). -/
def Rules.RecoveryCommands : Prop :=
  ∀ (s : State) (t : Nat),
    let u := s.busAt t
    let b := u.boot
    b.rcvStatus ≠ 1 →
    (u.rcvAllowed = false → ∀ c, c = Instr.rcvLoad t ∨ c = .rcvFinish t ∨ c = .rcvAbort t →
      completes c s (fun r => r = s.framed { u with boot := { b with rcvStatus := 6 } })) ∧
    (u.rcvAllowed = true →
      (b.rcvOffset.toNat % 16 ≠ 0 ∨ b.rcvOffset.toNat ≠ b.image.length → completes (.rcvLoad t) s (fun r =>
        r = s.framed { u with boot := { b with rcvStatus := 3 } })) ∧
      (b.rcvOffset.toNat % 16 = 0 → b.rcvOffset.toNat = b.image.length → b.rcvData.length = 128 →
        (b.rcvLen = 0 ∨ 128 < b.rcvLen.toNat ∨
          (b.rcvLen.toNat ≤ 128 ∧ b.rcvLen.toNat % 16 ≠ 0 ∧ lastChunk b.image (b.rcvData.take b.rcvLen.toNat) = false)) →
        completes (.rcvLoad t) s (fun r => r = s.framed { u with boot := { b with rcvStatus := 4 } })) ∧
      (b.rcvOffset.toNat % 16 = 0 → b.rcvOffset.toNat = b.image.length → b.rcvLen ≠ 0 → b.rcvLen.toNat ≤ 128 →
        b.rcvData.length = 128 → (b.rcvLen.toNat % 16 = 0 ∨ lastChunk b.image (b.rcvData.take b.rcvLen.toNat) = true) →
        completes (.rcvLoad t) s (fun r =>
          r = s.framed { u with boot := { b with
            rcvStatus := 2, image := b.image ++ b.rcvData.take b.rcvLen.toNat } })) ∧
      completes (.rcvFinish t) s (fun r =>
        r = s.framed { u with boot := { b with rcvStatus := 1, complete := true, inOrder := true } }) ∧
      completes (.rcvAbort t) s (fun r =>
        r = s.framed { u with boot := { b with rcvStatus := 0, complete := false, image := [] } }))

/-- READY and the recovery commands: Rules.ReadyRises, Rules.RecoveryCommands, together. -/
def Obligations.ReadyAndRecovery : Prop := Rules.ReadyRises ∧ Rules.RecoveryCommands

/-! ## The management bus -/

/-- The pointer: with two-byte pointers a write of two bytes sets it, high byte first, and of one byte or none changes nothing; in
short-pointer mode the first byte sets it into the recovery window. A write of data moves it on within its 32-byte page, or within
the window in short-pointer mode. A STOP brings a change of mode into force (R390, R392, R394). -/
def Rules.BusPointer : Prop :=
  ∀ (s : State) (t : Nat), (s.busAt t).busAnswers = true →
    let u := s.busAt t
    let mode (e : BusEnd) (x : State) : State := if e = .stop then { x with bus := { x.bus with short := x.shortNow } } else x
    (u.bus.short = false → ∀ (e : BusEnd) (h l : Byte),
      completes (.mbWrite t [] e) s (fun r => r = s.framed (mode e u)) ∧
      completes (.mbWrite t [h] e) s (fun r => r = s.framed (mode e u)) ∧
      completes (.mbWrite t [h, l] e) s (fun r =>
        r = s.framed (mode e { u with bus := { u.bus with pointer := BitVec.ofNat 16 (256 * h.toNat + l.toNat) } })) ∧
      (∀ data, ¬ (heldAt (heldWrites false (256 * h.toNat + l.toNat) data) 0x408 = some 0x5A ∧
          heldAt (heldWrites false (256 * h.toNat + l.toNat) data) 0x409 = some 0xA5) →
        completes (.mbWrite t (h :: l :: data) e) s (fun r =>
          r.bus.pointer = BitVec.ofNat 16 ((256 * h.toNat + l.toNat) / 32 * 32 +
            (256 * h.toNat + l.toNat + data.length) % 32) ∧
          r.bus.short = (if e = .stop then u.shortNow else u.bus.short)))) ∧
    (u.bus.short = true → ∀ (e : BusEnd) (p : Byte) (data : List Byte),
      completes (.mbWrite t (p :: data) e) s (fun r =>
        r.bus.pointer = BitVec.ofNat 16 (0x800 + (p.toNat + data.length) % 256) ∧
        r.bus.short = (if e = .stop then u.shortNow else u.bus.short)))

/-- A read returns the bytes from the pointer on, with two-byte pointers over all addresses and in short-pointer mode within the
recovery window, and leaves the pointer after the last of them; AUTO moves SEL by one after a transfer that read 0x037F; nothing
else changes but the mode at the STOP (R390, R391, R394, R404). -/
def Rules.BusRead : Prop :=
  ∀ (s : State) (t n : Nat), (s.busAt t).busAnswers = true →
    let u := s.busAt t
    let addr (i : Nat) : Nat :=
      if u.bus.short then 0x800 + (u.bus.pointer.toNat + i) % 256 else (u.bus.pointer.toNat + i) % 65536
    completes (.mbRead t n) s (fun r =>
      r.bus.lastRead = (List.range n).map (fun i => u.mgmtByte (addr i)) ∧
      r.bus.pointer = BitVec.ofNat 16 (addr n) ∧ r.bus.short = u.shortNow ∧
      r.log.sel = (if u.log.autoSel = true ∧ ∃ i, i < n ∧ addr i = 0x37F then u.log.sel + 1 else u.log.sel) ∧
      r = s.framed { u with bus := r.bus, log := { u.log with sel := r.log.sel } })

/-- While PORST_N or WRST_N holds the device it does not answer; while CK_MGMT is stopped a transfer only raises the wake request
(R386, R389). -/
def Rules.BusSilent : Prop :=
  ∀ (s : State) (t n : Nat) (bytes : List Byte) (e : BusEnd),
    let u := s.busAt t
    (u.phase = .porst ∨ u.phase = .warm →
      completes (.mbWrite t bytes e) s (fun r => r = s.framed u) ∧ completes (.mbRead t n) s (fun r => r = s.framed u)) ∧
    (u.phase ≠ .porst → u.phase ≠ .warm → u.clk.mgmtStopped = true → u.clk.wakeReq = false →
      completes (.mbWrite t bytes e) s (fun r => r = s.framed { u with clk := { u.clk with wakeReq := true } }) ∧
      completes (.mbRead t n) s (fun r => r = s.framed { u with clk := { u.clk with wakeReq := true } }))

/-- Transfers on the management bus: Rules.BusPointer, Rules.BusRead, Rules.BusSilent, together. -/
def Obligations.BusTransfers : Prop := Rules.BusPointer ∧ Rules.BusRead ∧ Rules.BusSilent

/-- What a bus fault leaves: its crossing is flushed once more, its flag is set, nothing else changes but reports (R395 to R398). -/
def Rules.busFlushed (s u r : State) (flag : Nat) : Prop :=
  r.flag flag = true ∧ r.flag fCrossFlush = true ∧
  State.reportsOnly (s.framed { u with clk := { u.clk with flushes := modAt 7 (· + 1) u.clk.flushes } }) r

/-- BUS_ERROR, SDA_LOW_TO and SCL_LOW_TO apply none of the bytes held, flush the crossing and set their flag; the pointer, the recovery
window and the other registers keep their contents, but for a change of mode that a misplaced STOP brings into force (R394 to R396, R398). -/
def Obligations.BusFaults : Prop :=
  ∀ (s : State) (t : Nat), (s.busAt t).phase = .released →
    (∀ held, completes (.busError t true held) s (fun r => Rules.busFlushed s (s.busAt t) r fBusError)) ∧
    (∀ held, completes (.busError t false held) s (fun r =>
      r.flag fBusError = true ∧ r.flag fCrossFlush = true ∧
      State.reportsOnly (s.framed { s.busAt t with
        clk := { (s.busAt t).clk with flushes := modAt 7 (· + 1) (s.busAt t).clk.flushes },
        bus := { (s.busAt t).bus with short := (s.busAt t).shortNow } }) r)) ∧
    completes (.sdaLowTo t) s (fun r => Rules.busFlushed s (s.busAt t) r fSdaLowTo) ∧
    completes (.sclLowTo t) s (fun r => Rules.busFlushed s (s.busAt t) r fSclLowTo)

/-- A W1C write clears exactly the flags of its mask and no lasting condition; a set on the same CK_CORE edge wins: a flag that was set
before it on that edge stays 1, and one that the same edge sets is 1 and its counter counts the set (R403, R427, R428). -/
def Obligations.FlagClear : Prop :=
  ∀ (s : State) (t w : Nat) (mask meets : Word32), (s.busAt t).busAnswers = true → (s.busAt t).bus.short = false → w < 8 →
    (s.busAt t).phase = .released → (s.busAt t).flags.counts.length = 256 →
    let u := s.busAt t
    let kept (n : Nat) : Bool := u.flags.edgeSet.1 == edgeOf u.now && u.flags.edgeSet.2.any (fun x => x.1 == n)
    completes (.flagClear t w mask meets) s (fun r =>
      r.flags.cond = u.flags.cond ∧
      (∀ n, n < 256 → r.flag n =
        ((u.flag n && !(decide (n / 32 = w) && mask.getLsbD (n % 32) && !kept n)) ||
          (decide (n / 32 = w) && meets.getLsbD (n % 32) && eventFlags.contains n))) ∧
      (∀ n, n < 256 → r.flags.counts.getD n 0 = u.flags.counts.getD n 0 +
        (if n / 32 = w ∧ meets.getLsbD (n % 32) = true ∧ eventFlags.contains n = true then 1 else 0)))

/-- ATTN_PEND_CLEAR clears attention causes, HEALTH_CLR marks the health page for a restart at the next tick, RESET_REQ asserts a warm
reset with 0xA55A alone; each changes nothing else, and nothing at all in short-pointer mode (R394, R402, R403, R405). -/
def Rules.BusSingles : Prop :=
  (∀ (s : State) (t w : Nat) (m : Byte) (v : Word16) (mask meets : Word32) (c : Instr),
    (s.busAt t).busAnswers = true → (s.busAt t).bus.short = true →
    c = .attnPendClear t m ∨ c = .healthClr t ∨ c = .resetReq t v ∨ c = .flagClear t w mask meets →
    completes c s (fun r => r = s.framed (s.busAt t))) ∧
  ∀ (s : State) (t : Nat), (s.busAt t).busAnswers = true → (s.busAt t).bus.short = false →
    let u := s.busAt t
    (∀ m : Byte, completes (.attnPendClear t m) s (fun r =>
      r.flags.pendFlag = (u.flags.pendFlag && !m.getLsbD 0) ∧ r.flags.pendDailies = (u.flags.pendDailies && !m.getLsbD 1) ∧
      r = s.framed { u with flags := { u.flags with pendFlag := r.flags.pendFlag, pendDailies := r.flags.pendDailies } })) ∧
    completes (.healthClr t) s (fun r => r = s.framed { u with health := { u.health with clearReq := true } }) ∧
    (u.phase = .released → completes (.resetReq t 0xA55A) s (fun r =>
      r.phase = .warm ∧ r.lastCause = .resetReq ∧ r.now = 0 ∧ r.flags = State.reset.flags ∧ r.mram = { u.mram with writes := [] } ∧
      r.boot.ovrEn = u.boot.ovrEn ∧ r.boot.skipStoryboard = u.boot.skipStoryboard)) ∧
    (∀ v, v ≠ 0xA55A → completes (.resetReq t v) s (fun r => r = s.framed u))

/-- The attention request: while it is enabled, a cause is pending and pointers have two bytes, a pulse that is due is sent and no longer
due, or meets a controller's START, sets ATTN_COLLIDE and stays due; the repetition sends one whatever is due, unless ATTN_REPEAT is
ONCE; otherwise there is none (R399; when a pulse falls due is the model's reading, log 61). -/
def Rules.AttentionPulse : Prop :=
  ∀ (s : State) (t : Nat),
    let u := s.busAt t
    (u.attnOn = true → u.flags.pulseDue = true →
      completes (.attention t false) s (fun r =>
        r = s.framed { u with flags := { u.flags with pulseDue := false, pulses := u.flags.pulses + 1 } }) ∧
      completes (.attention t true) s (fun r => r.flag fAttnCollide = true ∧ r.flags.pulseDue = true ∧
        r.flags.pulses = u.flags.pulses)) ∧
    (u.attnOn = true → u.flags.attnRepeat ≠ 0 →
      completes (.attnRepeat t false) s (fun r =>
        r = s.framed { u with flags := { u.flags with pulseDue := false, pulses := u.flags.pulses + 1 } }) ∧
      completes (.attnRepeat t true) s (fun r => r.flag fAttnCollide = true ∧ r.flags.pulseDue = true ∧
        r.flags.pulses = u.flags.pulses)) ∧
    (u.flags.pulseDue = false → ∀ b, completes (.attention t b) s (fun r => r = s.framed u)) ∧
    (u.flags.attnRepeat = 0 → ∀ b, completes (.attnRepeat t b) s (fun r => r = s.framed u)) ∧
    (u.attnOn = false → ∀ b, completes (.attention t b) s (fun r => r = s.framed u) ∧
      completes (.attnRepeat t b) s (fun r => r = s.framed u))

/-- Single registers of the management bus, attention: Rules.BusSingles, Rules.AttentionPulse, together. -/
def Obligations.BusRequests : Prop := Rules.BusSingles ∧ Rules.AttentionPulse

/-! ## Clocks, holdover, the management clock -/

/-- REF_QUALIFIED: after 65 536 good cycles the reference is qualified and REF_LOST's condition ends; injection begins, or after holdover
the re-lock slew, which has the phase difference to remove the shorter way round; nothing else changes (R24, R27, R487). -/
def Rules.RefQualified : Prop :=
  ∀ (s : State) (t cycles : Nat) (phase : Int), s.live → 65536 ≤ cycles →
    let u := s.advance t
    u.clk.refQual = false → u.phase ≠ .porst → u.phase ≠ .warm →
    completes (.refQualified t cycles phase) s (fun r =>
      r.clk.refQual = true ∧ r.clk.injecting = !u.clk.holdover ∧ r.clk.relocking = u.clk.holdover ∧ r.cond fRefLost = false ∧
      r = s.framed { u with
        flags := { u.flags with cond := r.flags.cond },
        clk := { u.clk with
          refQual := true, injecting := !u.clk.holdover, relocking := u.clk.holdover, slewPpm := 0,
          slewLeft := if u.clk.holdover then slewOf (refFactor u.straps.refSel) phase else 0 } })

/-- The re-lock slew's difference lies within half a reference period either way, of 3 125 000 units of 1/3072 ps for each CK_RF cycle
in it; the offset moves by at most 1 ppm a tick and stays within its limit, and a tick at n ppm removes n times what 1 ppm removes (R27). -/
def Rules.RelockSlew : Prop :=
  (∀ (factor : Nat) (ps : Int), 0 < factor →
    2 * (slewOf factor ps).natAbs ≤ factor * 3125000 ∧ ∃ n : Int, ps * 3072 = slewOf factor ps + n * (factor * 3125000 : Nat)) ∧
  (∀ limit n left, n ≤ limit → 1 ≤ limit → slewNext limit n left ≤ limit ∧ slewNext limit n left ≤ n + 1 ∧ n ≤ slewNext limit n left + 1) ∧
  (∀ s : State, s.clk.relocking = true → s.tickSlew.clk.slewLeft.natAbs ≤ s.clk.slewLeft.natAbs ∧
    s.tickSlew.clk.slewLeft.natAbs = s.clk.slewLeft.natAbs - s.tickSlew.clk.slewPpm * slewUnit)

/-- REF_LOSS by four missing edges or a period below 80 % of nominal, and REF_FREQ_WINDOW_END outside ±200 ppm, declare a qualified
reference lost: REF_LOST's condition holds; with outputs released and no holdover yet, holdover is entered with CTL_VAL as it was 16
reference periods before, injection stopped and D at 2 ppm, and every sample from the next carries HOLDOVER (R24 to R26). -/
def Rules.RefLost : Prop :=
  ∀ (s : State) (t : Nat) (ctl : BitVec 20), s.live → (s.advance t).clk.refQual = true →
    let u := s.advance t
    let lost (r : State) : Prop := r.clk.refQual = false ∧ r.cond fRefLost = true ∧
      (u.clk.holdover = false → u.phase = .released →
        r.clk.holdover = true ∧ r.clk.ctlVal = ctl ∧ r.clk.injecting = false ∧ r.clk.locked = false ∧ r.clk.d = 16 ∧
        r.cond fHoldover = true ∧ r.devMarks = u.devMarks ++ [⟨u.now / 1024 + 1, none, qHoldover⟩]) ∧
      (u.clk.holdover = true → r.clk.relocking = false ∧ r.clk.holdover = true)
    (∀ missing period, 4 ≤ missing ∨ (0 < period ∧ period * 100 < refFactor u.straps.refSel * 80) →
      completes (.refLoss t missing period ctl) s lost) ∧
    (∀ avg : Int, 20000 < avg.natAbs → completes (.refFreqWindowEnd t avg ctl) s lost)

/-- The reference qualifies, the re-lock slew, the reference is lost: Rules.RefQualified, Rules.RelockSlew, Rules.RefLost, together. -/
def Obligations.ReferenceStates : Prop := Rules.RefQualified ∧ Rules.RelockSlew ∧ Rules.RefLost

/-- ROOT_LOCK_DECLARED: by V_LKF below 45 mV when LKF_USE is high, else by the digital window, a qualified reference that is injected, or
slewed to within the lock threshold, gives lock; the first lock begins Plain sample 0 with the Timebase at zero and the wipe, and a lock in holdover ends holdover
(R18, R20, R22, R27). -/
def Rules.RootLock : Prop :=
  ∀ (s : State) (t : Nat) (m : LockMeas), s.live →
    let u := s.advance t
    u.clk.refQual = true → u.clk.locked = false → (u.clk.injecting = true ∨ (u.clk.relocking = true ∧ u.slewDone = true)) →
    (if u.straps.lkfUse then m.lkf < 450 else m.maxErr ≤ u.rootW ∧ u.rootN ≤ m.cycles) →
    completes (.rootLockDeclared t m) s (fun r =>
      r.clk.locked = true ∧ r.clk.injecting = true ∧ r.cond fRootUnlock = false ∧
      (u.clk.divReset = false → u.phase = .loading →
        r.now = 0 ∧ r.phase = .wiping ∧ r.clk.divReset = true ∧ r.tb.total = 0) ∧
      (u.clk.divReset = true → u.clk.holdover = true →
        r.clk.holdover = false ∧ r.cond fHoldover = false ∧ r.cond fDriftHigh = false))

/-- ROOT_UNLOCK: by V_LKF above 90 mV when LKF_USE is high, else by the digital window, root lock is lost; with the reference still
qualified ROOT_UNLOCK's condition holds, and with outputs released holdover is entered, from which a qualified reference is slewed
back to at once (R20, R22, R25, R36; that the slew begins at once is the model's choice, log 43). -/
def Rules.RootUnlock : Prop :=
  ∀ (s : State) (t : Nat) (m : LockMeas) (ctl : BitVec 20), s.live →
    let u := s.advance t
    u.clk.locked = true → (if u.straps.lkfUse then 900 < m.lkf else u.rootW < m.minErr ∧ 8 ≤ m.cycles) →
    completes (.rootUnlock t m ctl) s (fun r =>
      r.clk.locked = false ∧ (u.clk.refQual = true → r.cond fRootUnlock = true) ∧
      (u.phase = .released → r.clk.holdover = true ∧ r.clk.ctlVal = ctl ∧ r.cond fHoldover = true ∧
        r.clk.relocking = u.clk.refQual))

/-- Root lock and unlock: Rules.RootLock, Rules.RootUnlock, together. -/
def Obligations.RootLoop : Prop := Rules.RootLock ∧ Rules.RootUnlock

/-- REF_WAIT_EXPIRY: without a qualified reference at the end of REF_WAIT Plain sample 0 begins free-running, in holdover with D at 40
ppm, the factory CTL_VAL corrected to the present temperature, and REF_LOST's condition; LOCK_DISAGREE: with LKF_USE high its condition follows the two lock indications
(R18, R23, R26, R28). -/
def Rules.RefWaitAndDisagree : Prop :=
  (∀ (s : State) (waited : Nat) (tj : Int), s.live → s.phase = .loading → s.clk.divReset = false → s.clk.refQual = false →
    fget s.clk.profile ckRefWait * 10000000 ≤ waited →
    completes (.refWaitExpiry waited tj) s (fun r =>
      r.now = 0 ∧ r.phase = .wiping ∧ r.clk.divReset = true ∧ r.clk.holdover = true ∧ r.clk.d = 320 ∧ r.clk.ctlVal = ctlAt s.ctlTable tj ∧
      r.cond fRefLost = true ∧ r.tb.total = 0 ∧ r.health = s.health)) ∧
  (∀ (s : State) (t : Nat) (lkf win : Bool), s.live → (s.advance t).straps.lkfUse = true →
    completes (.lockDisagree t lkf win) s (fun r =>
      r.clk.lkfLock = lkf ∧ r.clk.winLock = win ∧ r.cond fLockDisagree = (lkf != win)))

/-- WAKE_REQUEST and WAKE_TIMER ask for CK_MGMT to run again when it is stopped, and change nothing else: a doorbell, a PCIe access, a START, a
data-plane event, or the tick for which the wake timer was programmed (R32, R33). -/
def Rules.Wakes : Prop :=
  (∀ (s : State) (t : Nat) (src : WakeSource), s.live →
    let u := s.advance t
    completes (.wakeRequest t src) s (fun r =>
      (u.clk.mgmtStopped = true → r = s.framed { u with clk := { u.clk with wakeReq := true } }) ∧
      (u.clk.mgmtStopped = false → r = s.framed u))) ∧
  (∀ s : State, s.live → s.clk.mgmtStopped = true →
    let u := s.advance (s.clk.wakeTick * perTick)
    u.clk.mgmtStopped = true →
    completes .wakeTimer s (fun r => r = s.framed { u with clk := { u.clk with wakeReq := true } }))

/-- REF_WAIT, lock disagreement, wakes: Rules.RefWaitAndDisagree, Rules.Wakes, together. -/
def Obligations.ClockEvents : Prop := Rules.RefWaitAndDisagree ∧ Rules.Wakes

/-- MANAGEMENT_TICK brings the block to the next tick boundary. While outputs are released, the controller has not halted and its clock
runs or has been woken, it does the work of a tick, after which no slate waits; else nothing but the time changes (R10, R11, R32, R291,
R432; the order of the work is the model's choice, log 66). -/
def Obligations.ManagementTick : Prop :=
  ∀ (s : State) (i : TickIn), s.live → s.clk.divReset = true →
    let u : State := { s.advance s.tickAt with atTick := true }
    (u.phase = .released → u.flags.halted = false → u.clk.mgmtStopped = false ∨ u.clk.wakeReq = true →
      completes (.managementTick i) s (fun r => r = s.framed (u.tickWork i) ∧ r.slates = [])) ∧
    (u.phase ≠ .released ∨ u.flags.halted = true ∨ (u.clk.mgmtStopped = true ∧ u.clk.wakeReq = false) →
      completes (.managementTick i) s (fun r => r = s.framed u))

/-! ## Agile LOs, the composer, the feeder sweep -/

/-- ALO_LOCK: an ALO that hops or searches, and whose window declares lock, is locked, or ramps when it has a profile, with its frequency
as it was; a search stores its band in the hop table; ALO_UNLOCK's condition follows the ALOs that have lost lock (R22, R39, R40, R42,
R487; that VCO_KHZ is cut to whole kHz is the model's choice, log 97). -/
def Rules.AloLock : Prop :=
  ∀ (s : State) (t a band fine : Nat) (m : LockMeas), s.live → a ≤ 1 →
    let u := s.advance t
    let x := u.alo a
    (x.st = .hopping ∨ x.st = .searching) → u.aloLocks m = true →
    completes (.aloLock t a band fine m) s (fun r =>
      (r.alo a).lock = true ∧ (r.alo a).lost = false ∧ (r.alo a).st = (if x.ramp = [] then .locked else .ramping) ∧
      (r.alo a).freqHz = x.freqHz ∧ (r.alo a).k = x.k ∧
      (x.st = .searching → (r.alo a).band = band ∧ (r.alo a).table =
        storeHop ⟨x.freqHz * 2 ^ x.k / 1000, band, true, fine, u.health.tjMax, u.tick32.toNat⟩ x.table) ∧
      (x.st = .hopping → (r.alo a).band = x.band ∧ (r.alo a).table = x.table) ∧
      r.cond fAloUnlock = (r.aloRx.lost || r.aloTx.lost))

/-- ALO_SEARCH_FAIL: the ALO stays unlocked and its flag is set; an L-band RUN that waited is answered and the input is HELD;
a sweep that waited for the LO ends (R40, R42, R273). -/
def Rules.AloSearchFail : Prop :=
  ∀ (s : State) (t : Nat), s.live → (s.advance t).phase = .released →
    let u := s.advance t
    (u.aloRx.st = .searching → completes (.aloSearchFail t 0) s (fun r =>
      r.aloRx.st = .idle ∧ r.aloRx.lock = false ∧ r.flag fAloSearchFail = true ∧
      ((u.convR 3).loWait = true → (r.convR 3).loWait = false ∧ (r.life ⟨.conv, 3⟩).eff = .held))) ∧
    (u.aloTx.st = .searching → u.fullCal = false →
      (u.tx.sweep.st ≠ .waitLock ∧ u.tx.sweep.st ≠ .running → completes (.aloSearchFail t 1) s (fun r =>
        r.flag fAloSearchFail = true ∧
        State.reportsOnly (s.framed { u with aloTx := { u.aloTx with st := .idle, lock := false, hopEnd := none } }) r)) ∧
      (u.tx.sweep.st = .waitLock ∨ u.tx.sweep.st = .running → completes (.aloSearchFail t 1) s (fun r =>
        r.flag fAloSearchFail = true ∧ r.aloTx.lock = false ∧ r.tx.sweep.st = .none)))

/-- ALO_UNLOCK: a locked or ramping ALO whose window loses lock is unlocked, its condition holds, and a hop or a search to the same frequency follows; every
carrier that ALO_TX serves in LO mode goes off air for the lost LO (R22, R42, R266, R487). -/
def Rules.AloUnlock : Prop :=
  ∀ (s : State) (t a : Nat) (m : LockMeas), s.live → a ≤ 1 →
    let u := s.advance t
    ((u.alo a).st = .locked ∨ (u.alo a).st = .ramping) → u.aloLoses m = true →
    completes (.aloUnlock t a m) s (fun r =>
      (r.alo a).lock = false ∧ (r.alo a).lost = true ∧ (r.alo a).freqHz = (u.alo a).freqHz ∧
      ((r.alo a).st = .hopping ∨ (r.alo a).st = .searching) ∧ r.cond fAloUnlock = true ∧
      (a = 1 → u.tx.claim.isSome = true → u.aloTx.ramp = [] → ∀ d c, (d, c) ∈ allCars → (u.air d c).st = .onAir →
        (r.air d c).st = .offAir ∧ (r.air d c).cause = .loLost))

/-- Lock, search failure and unlock of an ALO: Rules.AloLock, Rules.AloSearchFail, Rules.AloUnlock, together. -/
def Obligations.AgileLos : Prop := Rules.AloLock ∧ Rules.AloSearchFail ∧ Rules.AloUnlock

/-- RAMP_SEGMENT_END, once DURATION has passed in a running sweep: ALO_TX goes to the next segment's start frequency, or after the last
segment the sweep ends (R44, R273). -/
def Rules.RampSegmentEnd : Prop :=
  ∀ (s : State) (t : Nat) (g : Segment), s.live →
    let u := s.advance t
    u.aloTx.ramp[u.aloTx.seg]? = some g → u.aloTx.st = .ramping → u.tx.sweep.st = .running →
    u.aloTx.segStart + g.duration * perSample ≤ u.now →
    (∀ h, u.aloTx.ramp[u.aloTx.seg + 1]? = some h → completes (.rampSegmentEnd t) s (fun r =>
      r.aloTx.seg = u.aloTx.seg + 1 ∧ r.aloTx.freqHz = h.startHz ∧ r.aloTx.lock = false ∧ r.tx.sweep.inSeg = 0 ∧
      r.tx.sweep.st = .running)) ∧
    (u.aloTx.ramp[u.aloTx.seg + 1]? = none → completes (.rampSegmentEnd t) s (fun r =>
      r.tx.sweep.st = .none ∧ r.tx.cxReq = false ∧ r.tx.cxPrio = false))

/-- The coexistence wires and the sweep: CX_GRANT lets a waiting sweep go to its first segment, CX_WAIT_EXPIRY ends it without a grant,
CX_GNT_FALL ends it; SWEEP_POINT, once its samples have passed, adds one point, and changes nothing else but the capture ring (R272,
R273, R275). -/
def Rules.SweepWires : Prop :=
  ∀ (s : State) (t : Nat), s.live →
    let u := s.advance t
    (u.tx.sweep.st ≠ .waitGrant → completes (.cxGrant t) s (fun r =>
      r = s.framed { u with tx := { u.tx with cxGnt := true } })) ∧
    (∀ g gs, u.tx.sweep.st = .waitGrant → u.aloTx.ramp = g :: gs → completes (.cxGrant t) s (fun r =>
      r.tx.cxGnt = true ∧ r.tx.sweep.st = .waitLock ∧ r.aloTx.freqHz = g.startHz ∧ r.aloTx.lock = false)) ∧
    (u.tx.sweep.st = .waitGrant → u.tx.sweep.waitEnd ≤ u.now → completes (.cxWaitExpiry t) s (fun r =>
      r.tx.sweep.st = .none ∧ r.tx.cxReq = false)) ∧
    (fbit u.tx.profile txCxEn = true → u.tx.sweep.st = .waitLock ∨ u.tx.sweep.st = .running →
      completes (.cxGntFall t) s (fun r => r.tx.cxGnt = false ∧ r.tx.sweep.st = .none ∧ r.tx.cxReq = false)) ∧
    (∀ (i : SweepIn) (g : Segment), u.tx.sweep.st = .running → u.aloTx.st = .ramping →
      u.aloTx.ramp[u.aloTx.seg]? = some g → (u.tx.sweep.inSeg + 1) * 2 ^ u.tx.sweep.avg ≤ g.duration →
      u.aloTx.segStart + (u.tx.sweep.inSeg + 1) * 2 ^ u.tx.sweep.avg * perSample ≤ u.now →
      completes (.sweepPoint t i) s (fun r =>
        r.tx.sweep.points = u.tx.sweep.points + 1 ∧ r.tx.sweep.inSeg = u.tx.sweep.inSeg + 1 ∧
        r.tx.sweep.part.length = (if u.tx.sweep.part.length = 32 then 1 else u.tx.sweep.part.length + 1) ∧
        State.hostOnly (s.framed { u with tx := { u.tx with sweep := r.tx.sweep } }) r))

/-- The feeder sweep: Rules.RampSegmentEnd, Rules.SweepWires, together. -/
def Obligations.Sweeps : Prop := Rules.RampSegmentEnd ∧ Rules.SweepWires

/-- A carrier's start boundary: with its LO locked, or in DIRECT mode, the carrier is on air with PA_EN high; under DRIFT_OFF while DRIFT
holds it is off air instead. CARRIER_RESUME brings an off-air carrier back the same way (R265, R266, R270). -/
def Rules.CarrierStarts : Prop :=
  ∀ (s : State) (d : Bool) (c b : Nat), s.live → (d, c) ∈ allCars → (s.air d c).startAt = some b →
    let u := s.advance b
    (u.air d c).startAt = some b → (u.air d c).offAt = none → u.carLoOk = true →
    ((u.air d c).st = .starting → u.driftOff = false → completes (.carrierStart d c) s (fun r =>
      (r.air d c).st = .onAir ∧ (r.air d c).startAt = none ∧ (r.air d c).waitEnd = none ∧ (r.air d c).startTime = u.t64At b ∧
      r.tx.paEn = true)) ∧
    ((u.air d c).st = .starting → u.driftOff = true → completes (.carrierStart d c) s (fun r =>
      (r.air d c).st = .offAir ∧ (r.air d c).cause = .drift ∧ r.tx = u.tx)) ∧
    ((u.air d c).st = .offAir → u.driftOff = false → completes (.carrierResume d c) s (fun r =>
      (r.air d c).st = .onAir ∧ (r.air d c).startTime = u.t64At b ∧ r.tx.paEn = true))

/-- LO_WAIT_EXPIRY: a carrier that still waits for its LO ends HELD and idle (R265). -/
def Rules.LoWaitExpires : Prop :=
  ∀ (s : State) (d : Bool) (c w : Nat), s.live → (d, c) ∈ allCars → (s.air d c).waitEnd = some w →
    ((s.advance w).air d c).st = .waitLo →
    completes (.loWaitExpiry d c) s (fun r =>
      (r.life (carRef d c)).cmd = .held ∧ (r.life (carRef d c)).eff = .held ∧ (r.air d c).st = .idle ∧
      (r.air d c).waitEnd = none)

/-- RDS_SLOT: with a confirmed PI and no insert in progress, an FCAR on air radiates the source group that is due, else a group 0A of the
service entry, which counts as a fill; without a confirmed PI, or off air, the subcarrier is off and the slot's groups are gone
(R257). -/
def Rules.RdsSlots : Prop :=
  ∀ (s : State) (t c : Nat), s.live →
    let u := s.advance t
    let b := (u.life ⟨.fcar, c⟩).cur
    let k := (u.timeAt u.now * 2375 * 2 + 208 * 256 * 10 ^ 9) / (2 * 208 * 256 * 10 ^ 9)
    u.running .fcar c = true → (u.fcarR c).air.edits = [] → u.fcarInsert c u.now = none →
    (∀ pi, (u.fmdR (fget b fcRdsSrc)).piConf = some pi → (u.fcarR c).air.st = .onAir → fget b fcRdsSrc < 32 →
      fbit b fcMono = false →
      (((u.fcarR c).queue = [] ∨ ∃ g rest, (u.fcarR c).queue = g :: rest ∧ k < g.1) → completes (.rdsSlot t c) s (fun r =>
        (r.fcarR c).rdsOn = true ∧ (r.fcarR c).lastSlot = k ∧ (r.fcarR c).fill = satU 16 ((u.fcarR c).fill + 1) ∧
        (r.fcarR c).last.head? = some pi ∧ rdsType (r.fcarR c).last = 0)) ∧
      (∀ g rest, (u.fcarR c).queue = g :: rest → g.1 ≤ k → (rdsAb g.2.1 = none ∨ (u.fcarR c).invert = none) → completes (.rdsSlot t c) s (fun r =>
        (r.fcarR c).rdsOn = true ∧ (r.fcarR c).lastSlot = k ∧ (r.fcarR c).fill = (u.fcarR c).fill ∧
        (r.fcarR c).last = g.2.1))) ∧
    ((u.fmdR (fget b fcRdsSrc)).piConf = none ∨ (u.fcarR c).air.st ≠ .onAir → completes (.rdsSlot t c) s (fun r =>
      r = s.framed (u.modFcar c (fun x => { x with
        rdsOn := false, lastSlot := k, queue := x.queue.filter (fun g => decide (k < g.1)) }))))

/-- DCAR_FRAME: a DCAR on air counts its frame and radiates it; a frame whose four CIFs and twelve FIBs have not all come counts as late
while its source lives; else the source's absence is noted, and takes the DCAR off air when ABSENT says so (R260, R261, R264). -/
def Rules.DcarFrames : Prop :=
  ∀ (s : State) (t c : Nat), s.live →
    let u := s.advance t
    let x := u.dcarR c
    let b := (u.life ⟨.dcar, c⟩).cur
    let src : Id := BitVec.ofNat 32 (fget b dcSource)
    let count := x.countAt (u.timeAt u.now)
    u.running .dcar c = true → x.air.st = .onAir → x.c0.isSome = true → u.fenceMuted = false → x.air.lost = false →
    (((u.airSrc src).frame count).isSome = true ∨ u.dcarAlive src = true → completes (.dcarFrame t c) s (fun r =>
      (r.dcarR c).count = count ∧ (r.dcarR c).air.st = .onAir ∧ (r.dcarR c).absentSrc = x.absentSrc ∧ (r.dcarR c).was = x.frame ∧
      ((r.dcarR c).frame.map DcarAir.begins) = some (x.beginAt (u.timeAt u.now)) ∧
      (r.dcarR c).late = (if ((u.airSrc src).frame count).isSome = true then x.late else satU 16 (x.late + 1)))) ∧
    (((u.airSrc src).frame count).isSome = false → u.dcarAlive src = false → fbit b dcAbsent = false →
      completes (.dcarFrame t c) s (fun r =>
        (r.dcarR c).count = count ∧ (r.dcarR c).air.st = .onAir ∧ (r.dcarR c).absentSrc = true ∧ (r.dcarR c).late = x.late)) ∧
    (((u.airSrc src).frame count).isSome = false → u.dcarAlive src = false → fbit b dcAbsent = true →
      completes (.dcarFrame t c) s (fun r =>
        (r.dcarR c).air.st = .offAir ∧ (r.dcarR c).air.cause = .absent ∧ (r.dcarR c).absentSrc = true))

/-- LEVEL_OUT: sixteen tick readings in a row of a carrier on air outside ±0.5 dB of its setting begin LEVEL_OUT's condition; at each tick a
reading inside ends both the run of readings and the carrier's part of the condition (R249, R487). -/
def Rules.LevelOut : Prop :=
  (∀ (s : State) (t : Nat) (d : Bool) (c : Nat), s.live →
    let u := s.advance t
    (u.air d c).st = .onAir → 16 ≤ (u.air d c).levelTicks →
    completes (.levelOut t d c) s (fun r => (r.air d c).levelOut = true ∧ r.cond fLevelOut = true)) ∧
  (∀ (s : State) (i : TickIn) (d : Bool) (c : Nat), (s.air d c).st = .onAir →
    let ok := levelOk (s.life (carRef d c)).cur (i.levels.getD (if d then 24 + c else c) (levelSet (s.life (carRef d c)).cur))
    let a := (State.tickCar i s (d, c)).air d c
    a.levelTicks = (if ok then 0 else (s.air d c).levelTicks + 1) ∧ a.levelOut = ((s.air d c).levelOut && !ok))

/-- RDS slots, DCAR frames, level: Rules.RdsSlots, Rules.DcarFrames, Rules.LevelOut, together. -/
def Obligations.CarrierContent : Prop := Rules.RdsSlots ∧ Rules.DcarFrames ∧ Rules.LevelOut

/-- TXCAL_IN_SERVICE needs 64 silent null symbols, of which it leaves none; TXCAL_FULL_END ends a FULL run in progress. Both leave no
run of the transmitter; results outside R414 are discarded; results inside it are held for their band and in force from the next frame
boundary of the transmit path (R269, R413 to R415). -/
def Rules.TxCalibration : Prop :=
  (∀ (s : State) (t : Nat) (m : CalMeas), s.live →
    let u := s.advance t
    (∀ nulls, u.loMode = true → 64 ≤ nulls → 64 ≤ u.tx.nulls → u.dcar.any (fun o => o.run.air.st == .onAir) = true →
      completes (.txcalInService t nulls m) s (fun r => r.tx.nulls = 0 ∧ (r.unit 5).run = none)) ∧
    (∀ run, (u.unit 5).run = some run → run.stage = CalStage.measuring →
      let four (l : List Int) : List Int := (l.drop (4 * run.band)).take 4
      let lim := txLimit m (four (u.cal.factory.getD 5 []))
        (((u.unit 5).temps.getD run.band none).map (fun _ => four (u.unit 5).newest))
      (lim.isSome = true → completes (.txcalFullEnd t m) s (fun r =>
        (r.unit 5).run = none ∧ (r.unit 5).vals = (u.unit 5).vals ∧ (r.unit 5).next = (u.unit 5).next)) ∧
      (lim = none → (u.unit 5).newest.length = 112 → run.band < 28 → completes (.txcalFullEnd t m) s (fun r =>
        (r.unit 5).run = none ∧ (r.unit 5).vals = (u.unit 5).vals ∧ ∃ b vals, (r.unit 5).next = some (b, vals) ∧ u.now < b ∧
          ∀ j, vals.getD j 0 = (if 4 * run.band ≤ j ∧ j < 4 * run.band + 4 then m.vals.getD (j - 4 * run.band) 0
            else (u.unit 5).newest.getD j 0))))) ∧
  (∀ (s : State) (b : Nat) (vals : List Int), (s.unit 5).next = some (b, vals) →
    (b ≤ s.now → (s.settleCal.unit 5).vals = vals ∧ (s.settleCal.unit 5).next = none) ∧
    (s.now < b → (s.settleCal.unit 5).vals = (s.unit 5).vals ∧ (s.settleCal.unit 5).next = some (b, vals)))

/-- The amplifier's pins: PA_EN rises and falls at its instants, the fall taking PA_RAMP down with it; with a YT7300 the ramp runs over
RAMP_T before the first start and after the last fall. Nothing else changes (R270, R271). -/
def Rules.AmplifierPins : Prop :=
  (∀ (s : State) (t : Nat), s.live → s.tx.paRiseAt = some t → (s.advance t).tx.paRiseAt.isSome = true →
    completes .paEnRise s (fun r =>
      r = s.framed { s.advance t with tx := { (s.advance t).tx with paEn := true, paRiseAt := none } })) ∧
  (∀ (s : State) (t : Nat), s.live → s.tx.paFallAt = some t → (s.advance t).tx.paFallAt.isSome = true →
    completes .paEnFall s (fun r =>
      r = s.framed { s.advance t with tx := { (s.advance t).tx with
        paEn := false, paRamp := false, paSlope := none, paFallAt := none } })) ∧
  (∀ (s : State) (t : Nat) (up : Bool), s.live →
    let u := s.advance t
    u.yt7300 = true → u.anyOnAir = false →
    (if up then (∃ d c, (d, c) ∈ allCars ∧ (u.air d c).startAt.isSome = true) else u.tx.paFallAt.isSome = true) →
    completes (.yt7300Ramp t up) s (fun r =>
      r = s.framed { u with tx := { u.tx with paSlope := some (u.now + u.rampT, up), paRamp := false } }))

/-- Carriers and the amplifier start and stop: Rules.CarrierStarts, Rules.LoWaitExpires, Rules.AmplifierPins, together. -/
def Obligations.Carriers : Prop := Rules.CarrierStarts ∧ Rules.LoWaitExpires ∧ Rules.AmplifierPins

/-! ## Aerial inputs, the Stand-in, memory errors, supplies -/

/-- AGC_ATTACK in an input that decides, on a peak that reaches AGC_HI: at -30 dB the limit is reached and AGC_LIMIT's condition holds;
above it the gain falls by ATTACK_STEP, not below -30 dB, from the second sample after, and nothing else changes. A clipped
sample counts and is marked CLIP (R48, R50, R58). -/
def Rules.AgcAttack : Prop :=
  ∀ (s : State) (t x peak : Nat), s.live →
    let u := s.advance t
    let k := u.index - 1
    let g := gainDb (u.convR x).lna (u.convR x).att
    (u.agcActs x k = true → peakReaches peak (fget (u.convBlk x) cvAgcHi) = true → (u.convR x).attackFrom ≤ k →
      (u.convR x).nextGain = none →
      (g ≤ -30 → completes (.agcAttack t x peak false) s (fun r =>
        (r.convR x).limit = true ∧ r.cond fAgcLimit = true ∧ (r.convR x).nextGain = none)) ∧
      (-30 < g → completes (.agcAttack t x peak false) s (fun r =>
        let n := ladder (max (g - fget (u.convBlk x) cvAttackStep) (-30))
        r = s.framed (u.modConv x (fun c => { c with nextGain := some (n.1, n.2, k + 2), attackFrom := k + 2 }))))) ∧
    (x < 4 → u.running .conv x = true → u.agcActs x k = false → completes (.agcAttack t x peak true) s (fun r =>
      r = s.framed (u.modConv x (fun c => { c with
        clipCnt := satU 16 (c.clipCnt + 1), marks := c.marks ++ [⟨k, some (k + 1), qClip⟩] })))) ∧
    (x < 4 → u.running .conv x = true → completes (.agcAttack t x peak true) s (fun r =>
      (r.convR x).clipCnt = satU 16 ((u.convR x).clipCnt + 1) ∧ (r.convR x).marks = (u.convR x).marks ++ [⟨k, some (k + 1), qClip⟩]))

/-- AGC_RELEASE over a whole span in which no peak reaches AGC_LO raises the gain by 1 dB up to +20 dB, from the next Plain-sample
boundary on; AGC_LIMIT_EPISODE_END ends the episode with its condition (R50, R51, R487). -/
def Rules.AgcRelease : Prop :=
  ∀ (s : State) (t x peak : Nat), s.live →
    let u := s.advance t
    let span := 64 * 2 ^ fget (u.convBlk x) cvAgcHold
    let g := gainDb (u.convR x).lna (u.convR x).att
    (u.agcActs x (u.index - span) = true → span ≤ u.index → (u.convR x).holdFrom ≤ u.index - span → (u.convR x).nextGain = none →
      g < 20 → peakReaches peak (6 + fget (u.convBlk x) cvAgcLo) = false → completes (.agcRelease t x peak) s (fun r =>
        r = s.framed (u.modConv x (fun c => { c with nextGain := some ((ladder (g + 1)).1, (ladder (g + 1)).2, u.index + 1) })))) ∧
    ((u.convR x).limit = true → peakReaches peak (fget (u.convBlk x) cvAgcHi) = false →
      completes (.agcLimitEpisodeEnd t x peak) s (fun r =>
        (r.convR x).limit = false ∧ r.cond fAgcLimit = r.conv.any (fun o => o.run.limit)))

/-- The ladder of gains from -30 dB to +20 dB takes LNA and attenuator codes whose sum is the gain asked for (R46, R49). -/
def Rules.GainLadder : Prop :=
  ∀ g : Int, -30 ≤ g → g ≤ 20 → gainDb (ladder g).1 (ladder g).2 = g ∧ (ladder g).1 ≤ 2 ∧ (ladder g).2 ≤ 30

/-- GAIN_STEP: a decided gain state is in force from its boundary on, and PSEL_BLANK_END ends a blanking interval, from whose end AGC
counts its spans again (R48, R53). -/
def Rules.GainStepAndBlank : Prop :=
  (∀ (s : State) (x lna att k : Nat), s.live → s.clk.divReset = true → x < 4 → (s.convR x).nextGain = some (lna, att, k) →
    s.dueRefs = [] → s.now < k * perSample →
    completes (.gainStep x) s (fun r =>
      (r.convR x).lna = lna ∧ (r.convR x).att = att ∧ (r.convR x).nextGain = none ∧ r.now = k * perSample)) ∧
  (∀ (s : State) (x : Nat), s.live → (s.convR x).blanking = true → completes (.pselBlankEnd x) s (fun r =>
    r = s.framed ((s.advance ((s.convR x).blankEnd * perSample)).modConv x (fun c => { c with
      blanking := false, holdFrom := max c.holdFrom c.blankEnd }))))

/-- Gain control of the inputs: Rules.AgcAttack, Rules.AgcRelease, Rules.GainLadder, Rules.GainStepAndBlank, together. -/
def Obligations.GainControl : Prop := Rules.AgcAttack ∧ Rules.AgcRelease ∧ Rules.GainLadder ∧ Rules.GainStepAndBlank

/-- A visit or match of the Stand-in: the window of 64 Plain frames opens after the settling, then one check frame with the corrections
found, applied to ADC4, or before a return to the input's own converter; STANDIN_VISIT connects an unused Stand-in to the next input of the rota that is not CLOSED (R59, R63). -/
def Rules.MatchWindow : Prop :=
  ∀ (s : State), s.live →
    (s.standin.stage = .settling → completes .matchWindowOpen s (fun r =>
      let u := s.advance s.standin.stageEnd
      r = s.framed { u with standin := { u.standin with stage := .window, stageEnd := u.now + 64 * perFrame } })) ∧
    (∀ (gain delay offset : Int) (x : Nat), s.standin.stage = .window → s.standin.matching = some x →
      completes (.matchWindowClose gain delay offset) s (fun r =>
        let u := s.advance s.standin.stageEnd
        r.standin.stage = .check ∧ r.standin.stageEnd = u.now + perFrame ∧ r.standin.use = u.standin.use ∧
        (u.standin.use ≠ .giveBack x → r.standin.corr = (gain, delay, offset)) ∧
        (u.standin.use = .giveBack x → r.standin.corr = u.standin.corr ∧
          (x < u.conv.length → (r.convR x).left = (gain, delay, offset) ∧ (r.convR x).leftFrom = none)))) ∧
    (∀ (t x : Nat), let u := s.advance t
      u.phase = .released → u.now % perFrame = 0 → u.standin.use = .idle → u.failedConv 4 = false → u.cal4Active = false →
      u.standin.move = none → u.rotaNext u.standin.rota = some x → completes (.standinVisit t) s (fun r =>
        r = s.framed { u with standin := { u.standin with
          conn := some x, use := .visit x, stage := .settling, stageEnd := alignNext perFrame u.now, fails := 0, corr := (0, 0, 0),
          retry := false, abandonAt := none, connTick := true, rota := x } }))

/-- STANDIN_CHECK acts before the changes that commands carry at its boundary. A passing check takes the input's traffic over, or gives it
back, after which the correction left on its converter shrinks to zero, or ends a visit with its corrections kept; the first three
failing checks in a row open another window, and the fourth sets STANDIN_MATCH_FAIL, ends a take, and leaves a giving back to be tried
again at the next tick (R9, R60 to R63). -/
def Rules.StandinCheck : Prop :=
  ∀ (s : State) (gain delay offset : Int), s.live → s.standin.stage = .check →
    let u := s.arrive s.standin.stageEnd
    let ok := matchPasses gain delay offset
    u.standin.stage = .check → s.standin.stageEnd ≤ u.now →
    completes (.standinCheck gain delay offset) s (fun r => r = s.framed (u.checked gain delay offset).settle) ∧
    (u.dueRefs = [] →
      (∀ x, u.standin.use = .visit x → x < u.conv.length → completes (.standinCheck gain delay offset) s (fun r =>
        r.standin.use = .idle ∧ r.standin.rota = (x + 1) % 4 ∧ (r.convR x).corr = some u.standin.corr)) ∧
      (∀ x forCal, u.standin.use = .take x forCal → ok = true → x < u.conv.length →
        completes (.standinCheck gain delay offset) s (fun r =>
          r.standin.use = .carry x ∧ (r.convR x).onStandin = true ∧
          ⟨u.index, some (u.index + 1), qSwitch⟩ ∈ (r.convR x).marks ∧ ⟨u.index, none, qStandin⟩ ∈ (r.convR x).marks)) ∧
      (∀ x, u.standin.use = .giveBack x → ok = true → x < u.conv.length → completes (.standinCheck gain delay offset) s (fun r =>
        r.standin.use = .idle ∧ r.standin.conn = none ∧ (r.convR x).onStandin = false ∧ (r.convR x).leftFrom = some u.now)) ∧
      (∀ x forCal, u.standin.use = .take x forCal ∨ u.standin.use = .giveBack x → ok = false → u.standin.fails < 3 →
        completes (.standinCheck gain delay offset) s (fun r =>
          r.standin.stage = .window ∧ r.standin.fails = u.standin.fails + 1 ∧ r.standin.use = u.standin.use)) ∧
      (∀ x forCal, ok = false → 3 ≤ u.standin.fails → u.phase = .released →
        (u.standin.use = .take x forCal → completes (.standinCheck gain delay offset) s (fun r =>
          r.flag fStandinMatchFail = true ∧ r.standin.use = .idle)) ∧
        (u.standin.use = .giveBack x → completes (.standinCheck gain delay offset) s (fun r =>
          r.flag fStandinMatchFail = true ∧ r.standin.use = .giveBack x ∧ r.standin.retry = true))))

/-- The correction left on a converter after a return shrinks to zero, by 2^-11 of gain, 0.32 ps and 1 LSB each Plain frame, within R62's limits
(that it shrinks as fast as that is the model's choice, log 96). -/
def Rules.ReturnedCorrection : Prop :=
  ∀ (c : ConvRun) (a : Nat), c.leftFrom = some a →
    (∀ t, a ≤ t → (c.leftAt t).1.natAbs = c.left.1.natAbs - 32 * ((t - a) / perFrame) ∧
      (c.leftAt t).2.1.natAbs = c.left.2.1.natAbs - 32 * ((t - a) / perFrame) ∧
      (c.leftAt t).2.2.natAbs = c.left.2.2.natAbs - 16 * ((t - a) / perFrame)) ∧
    ∃ e, ∀ t, e ≤ t → c.leftAt t = (0, 0, 0)

/-- The Stand-in: windows, checks, the correction that a return leaves: Rules.MatchWindow, Rules.StandinCheck, Rules.ReturnedCorrection,
together. -/
def Obligations.StandinMatches : Prop := Rules.MatchWindow ∧ Rules.StandinCheck ∧ Rules.ReturnedCorrection

/-- CONV_FAIL declares a converter FAILED, with CONV_FAIL's condition: an unused Stand-in moves to its input, which is INVALID from the
sample of the failure to the switch; a converter whose traffic ADC4 carries stays on it. CROSSBAR_MOVE connects ADC4; FAILOVER_SWITCH
moves the traffic, with the corrections stored for the input; both act before the changes that commands carry at their boundary (R9, R64
to R66). -/
def Obligations.ConverterFailure : Prop :=
  (∀ (s : State) (t c k : Nat) (cause : FailCause), s.live →
    let u := s.advance t
    u.clk.divReset = true → c ≤ 4 → c < u.conv.length → u.failedConv c = false → k ≤ u.index → cause ≠ .match_ →
    (u.life ⟨.conv, c⟩).eff ≠ .closed →
    completes (.convFail t c k cause) s (fun r =>
      (r.convR c).failed = some cause ∧ r.cond fConvFail = true ∧
      (c ≠ 4 → (u.convR c).onStandin = false → u.failedConv 4 = false → u.standin.move = none → u.standin.use = .idle →
        u.standin.conn = none → r.standin.use = .failover c ∧ (r.convR c).marks = (u.convR c).marks ++ [⟨k, some (k + 10), qInvalid⟩] ∧
          ∃ m, r.standin.move = some m ∧ m.input = c ∧ m.moveAt = (k + 2) * perSample ∧ m.switchAt = (k + 10) * perSample) ∧
      (c ≠ 4 → (u.convR c).onStandin = true → (r.convR c).onStandin = true ∧ r.standin.move = u.standin.move))) ∧
  (∀ (s : State) (m : FailMove), s.live → s.standin.move = some m → m.moved = false → m.input ≠ 4 →
    completes .crossbarMove s (fun r =>
      let u := s.arrive m.moveAt
      r = s.framed (u.crossbarMoved m).settle ∧
      (u.dueRefs = [] → r.standin.conn = some m.input ∧ r.standin.move = some { m with moved := true }))) ∧
  (∀ (s : State) (m : FailMove), s.live → s.standin.move = some m → m.input ≠ 4 →
    m.input < (s.arrive m.switchAt).conv.length → completes .failoverSwitch s (fun r =>
      let u := s.arrive m.switchAt
      r = s.framed (u.failedOver m).settle ∧
      (u.dueRefs = [] → r.standin.move = none ∧ r.standin.conn = some m.input ∧ r.standin.use = .carry m.input ∧
        r.standin.corr = ((u.convR m.input).corr).getD (0, 0, 0) ∧ (r.convR m.input).onStandin = true)))

/-- ECC_CORR sets its flag and changes nothing else but reports. ECC_UNCORR sets its flag, and treats the word by its region: the
management controller's memory halts the controller with MGMT_FAULT, a Pass's or demodulator's next block carries a GAP, an input's
present sample is INVALID, an engine's next frames are erased, a decoder restarts, and a queue's next frame is absent (R431, R432). -/
def Rules.MemoryErrors : Prop :=
  ∀ (s : State) (t : Nat), s.live → (s.advance t).phase = .released →
    let u := s.advance t
    completes (.eccCorr t) s (fun r => r.flag fEccCorr = true ∧ State.reportsOnly (s.framed u) r) ∧
    (∀ w : BadWord, w.region = .management → completes (.eccUncorr t w) s (fun r =>
      r.flag fEccUncorr = true ∧ (u.cond fMgmtFault = false → r.flag fMgmtFault = true) ∧ r.cond fMgmtFault = true ∧ r.flags.halted = true ∧
      State.reportsOnly (s.framed u) r)) ∧
    (∀ w : BadWord, w.region ≠ .management → completes (.eccUncorr t w) s (fun r =>
      r.flag fEccUncorr = true ∧
      (∀ i, w.region = .plainPassDemod → u.refOf w.owner = some ⟨.pass, i⟩ → i < u.pass.length →
        (r.passR i).gapNext = (u.passR i).gapNext + 1 ∧
        State.reportsOnly (s.framed (u.modPass i (fun x => { x with gapNext := x.gapNext + 1 }))) r) ∧
      (∀ i, w.region = .plainPassDemod → u.refOf w.owner = some ⟨.fmd, i⟩ →
        State.reportsOnly (s.framed (u.modFmd i (fun x => { x with core := { x.core with gapNext := x.core.gapNext + 1 } }))) r) ∧
      (∀ i, w.region = .plainPassDemod → u.refOf w.owner = some ⟨.amd, i⟩ →
        State.reportsOnly (s.framed (u.modAmd i (fun x => { x with core := { x.core with gapNext := x.core.gapNext + 1 } }))) r) ∧
      (∀ i, w.region = .plainPassDemod → u.refOf w.owner = some ⟨.conv, i⟩ →
        State.reportsOnly (s.framed (u.markConv i qInvalid u.index (some (u.index + 1)))) r) ∧
      (∀ i, w.region = .engine → u.refOf w.owner = some ⟨.ee, i⟩ →
        State.reportsOnly (s.framed (u.modEe i (fun x => { x with
          chans := x.chans.map (fun c => { c with erased := c.erased + 1 }) }))) r) ∧
      (∀ i, w.region = .decoder → u.refOf w.owner = some ⟨.prog, i⟩ →
        State.reportsOnly (s.framed (u.modProg i (fun x => { x with restarting := true }))) r) ∧
      (∀ i, w.region = .queues → u.refOf w.owner = some ⟨.port, i⟩ →
        State.reportsOnly (s.framed (u.modPort i (fun x => { x with absentNext := true }))) r) ∧
      (∀ i, w.region = .queues → u.refOf w.owner = some ⟨.prog, i⟩ →
        State.reportsOnly (s.framed (u.modProg i (fun x => { x with absentNext := true }))) r) ∧
      (∀ i, w.region = .queues → u.refOf w.owner = some ⟨.fcar, i⟩ →
        State.reportsOnly (s.framed (u.modFcar i (fun x => { x with air := { x.air with lost := true } }))) r) ∧
      (∀ i, w.region = .queues → u.refOf w.owner = some ⟨.dcar, i⟩ →
        State.reportsOnly (s.framed (u.modDcar i (fun x => { x with air := { x.air with lost := true } }))) r)))

/-- SUPPLY_WARN and SUPPLY_FAULT: four readings in a row outside a window begin the supply's condition; a window already left changes
nothing (R435, R487). -/
def Rules.SupplyWindows : Prop :=
  ∀ (s : State) (t i : Nat) (readings : List Nat), s.live → i < 6 → readings.length = 4 →
    let u := s.advance t
    (u.health.warn.length = 6 → readings.all (fun mv => !insideWindow false i mv) = true → u.health.warn.getD i false = false →
      completes (.supplyWarn t i readings) s (fun r => r.health.warn.getD i false = true ∧ r.cond fSupplyWarn = true ∧
        State.reportsOnly (s.framed { u with health := r.health }) r)) ∧
    (u.health.fault.length = 6 → readings.all (fun mv => !insideWindow true i mv) = true → u.health.fault.getD i false = false →
      completes (.supplyFault t i readings) s (fun r => r.health.fault.getD i false = true ∧ r.cond fSupplyFault = true ∧
        State.reportsOnly (s.framed { u with health := r.health }) r)) ∧
    (u.health.warn.getD i false = true → completes (.supplyWarn t i readings) s (fun r => r = s.framed u)) ∧
    (u.health.fault.getD i false = true → completes (.supplyFault t i readings) s (fun r => r = s.framed u))

/-- Memory errors and supplies: Rules.MemoryErrors, Rules.SupplyWindows, together. -/
def Obligations.HealthFaults : Prop := Rules.MemoryErrors ∧ Rules.SupplyWindows

/-! ## Passes, captures, demodulators -/

/-- PASS_BLOCK: a Pass in RUN whose settling gate lies before the frame's end delivers a block of one entry per stream, with its gate
open; before the gate, in a frame without a sample, and out of RUN, it delivers none (R83, R93). -/
def Rules.PassBlocks : Prop :=
  ∀ (s : State) (f p : Nat) (i : PassIn), s.live →
    let u := (s.advance (frameEnd f)).takeIn i
    let b := u.passBlk p
    let start := (u.life ⟨.pass, p⟩).s0 * perSample
    let gate := passFirst p b start + passSettle b
    let m0 := passFirst p b (max start (f * perFrame))
    let m1 := passFirst p b ((f + 1) * perFrame)
    (u.running .pass p = true → start ≤ frameEnd f → m0 < m1 → gate < m1 → completes (.passBlock f p i) s (fun r =>
      (∃ qs, (r.passR p).block = some (f, qs) ∧ qs.length = streamsOf b) ∧ (r.passR p).gateOpen = true ∧
      (r.passR p).started = true ∧ (r.passR p).gapNext = 0 ∧ r.life ⟨.pass, p⟩ = u.life ⟨.pass, p⟩)) ∧
    (u.running .pass p = true → start ≤ frameEnd f → (m1 ≤ gate ∨ m1 ≤ m0) → completes (.passBlock f p i) s (fun r =>
      (r.passR p).block = none ∧ (r.passR p).started = (u.passR p).started)) ∧
    (u.running .pass p = false ∨ frameEnd f < start → completes (.passBlock f p i) s (fun r =>
      r = s.framed (u.modPass p (fun x => { x with block := none }))))

/-- SETTLE_GATE_OPEN opens the gate of a Pass in RUN at the instant of its first sample after SETTLE_N, CAP_COUNT_END puts a capture of
COUNT blocks to HELD; nothing else changes (R93, R103). -/
def Rules.PassGateAndCapture : Prop :=
  (∀ (s : State) (p : Nat), s.live → s.running .pass p = true → (s.passR p).gateOpen = false →
    let b := s.passBlk p
    let u := s.advance (passInstant p b (passFirst p b ((s.life ⟨.pass, p⟩).s0 * perSample) + passSettle b))
    u.running .pass p = true → completes (.settleGateOpen p) s (fun r =>
      r = s.framed (u.modPass p (fun x => { x with gateOpen := true })))) ∧
  (∀ (s : State) (c : Nat), s.live → s.running .cap c = true → (s.capR c).count ≠ 0 → (s.capR c).count ≤ (s.capR c).done →
    completes (.capCountEnd c) s (fun r => r = s.framed (s.modLife ⟨.cap, c⟩ Life.capHeld)))

/-- Pass blocks, gates, captures: Rules.PassBlocks, Rules.PassGateAndCapture, together. -/
def Obligations.PassesAndCaptures : Prop := Rules.PassBlocks ∧ Rules.PassGateAndCapture

/-- DEMOD_BLOCK: a demodulator in RUN delivers its block for the frame; without a usable Pass block it delivers zero samples, all ABSENT, in
exact number, and its run starts again; with one it has begun (R105, R106, R116). -/
def Rules.DemodBlocks : Prop :=
  ∀ (s : State) (f d : Nat) (i : DemodIn), s.live →
    let u := s.advance (frameEnd f)
    (u.running .fmd d = true →
      let p := demodPass (u.life ⟨.fmd, d⟩).cur
      (u.passUsable 1 p f = true → completes (.demodBlock f false d i) s (fun r =>
        (r.fmdR d).core.began.isSome = true ∧ (r.fmdR d).core.absent = false ∧ (r.fmdR d).core.gapNext = 0 ∧
        ∃ o, (r.fmdR d).core.out = some o ∧ o.frame = f ∧ o.samples.length = o.absent.length)) ∧
      (u.passUsable 1 p f = false → completes (.demodBlock f false d i) s (fun r =>
        (r.fmdR d).core.began = none ∧ (r.fmdR d).core.out = some (u.demodAbsent true f p).2.1 ∧
        (r.fmdR d).pilot = (u.fmdR d).pilot ∧ (r.fmdR d).piConf = (u.fmdR d).piConf))) ∧
    (u.running .amd d = true →
      let p := demodPass (u.life ⟨.amd, d⟩).cur
      (u.passUsable 2 p f = true → completes (.demodBlock f true d i) s (fun r =>
        (r.amdR d).core.began.isSome = true ∧ (r.amdR d).core.absent = false ∧
        ∃ o, (r.amdR d).core.out = some o ∧ o.frame = f ∧ o.samples.length = o.absent.length)) ∧
      (u.passUsable 2 p f = false → completes (.demodBlock f true d i) s (fun r =>
        (r.amdR d).core.began = none ∧ (r.amdR d).core.out = some (u.demodAbsent false f p).2.1)))

/-- FMD_GATE_OPEN is the instant of the 81st audio sample; at the conceal limits of FM and AM the next audio fades in over 32 samples.
Nothing else changes (R116, R117, R122). -/
def Rules.DemodGates : Prop :=
  ∀ (s : State) (d : Nat), s.live →
    (∀ b, (s.fmdR d).core.began = some b → s.running .fmd d = true →
      let p := demodPass (s.life ⟨.fmd, d⟩).cur
      completes (.fmdGateOpen d) s (fun r => r = s.framed (s.advance ((ceilDiv (b - 8 * p) 30720 + 80) * 30720 + 8 * p)))) ∧
    (∀ t, let u := s.advance t
      (u.running .fmd d = true → (u.fmdR d).core.began.isSome = true → completes (.fmdConcealLimit t d) s (fun r =>
        r = s.framed (u.modFmd d (fun x => { x with core := { x.core with fade := 32 } })))) ∧
      (u.running .amd d = true → (u.amdR d).core.began.isSome = true → completes (.amdConcealLimit t d) s (fun r =>
        r = s.framed (u.modAmd d (fun x => { x with core := { x.core with fade := 32 } })))))

/-- Demodulator blocks and gates: Rules.DemodBlocks, Rules.DemodGates, together. -/
def Obligations.Demodulators : Prop := Rules.DemodBlocks ∧ Rules.DemodGates

/-- PILOT_WINDOW_END: the pilot locks with the second good window in a row and is lost below PILOT_MIN less 500 Hz or beyond 20°;
CARRIER_WINDOW_END: the carrier loop locks within 10° and is lost beyond 25° (R112, R120). Only the loop, its slate and reports
change. -/
def Obligations.LoopWindows : Prop :=
  ∀ (s : State) (f d dev rms : Nat) (offset : Int), s.live → (f + 1) % 128 = 0 →
    let u := s.advance (frameEnd f)
    let pmin := 50 * fget (u.life ⟨.fmd, d⟩).cur fmPilotMin
    let p := demodPass (u.life ⟨.fmd, d⟩).cur
    (∀ began, u.running .fmd d = true → (u.fmdR d).core.began = some began →
      ((u.fmdR d).pilot = .locked → dev + 50 < pmin ∨ 200 < rms → completes (.pilotWindowEnd f d dev rms) s (fun r =>
        State.reportsOnly (s.framed (u.modFmd d (fun x => { x with
          pilot := if dev < 50 then .absent else .acquiring, goodWindows := 0, betaFall := 16 }))) r)) ∧
      ((u.fmdR d).pilot = .locked → pmin ≤ dev + 50 → rms ≤ 200 → completes (.pilotWindowEnd f d dev rms) s (fun r =>
        r = s.framed u)) ∧
      ((u.fmdR d).pilot ≠ .locked → pmin ≤ dev → rms ≤ 100 →
        (ceilDiv (began - 8 * p) 30720 + 80) * 30720 + 8 * p ≤ (f + 1 - 128) * perFrame → 1 ≤ (u.fmdR d).goodWindows →
        completes (.pilotWindowEnd f d dev rms) s (fun r =>
          State.reportsOnly (s.framed (u.modFmd d (fun x => { x with
            pilot := .locked, goodWindows := (u.fmdR d).goodWindows + 1 }))) r)) ∧
      ((u.fmdR d).pilot ≠ .locked →
        let good : Prop := pmin ≤ dev ∧ rms ≤ 100 ∧ (ceilDiv (began - 8 * p) 30720 + 80) * 30720 + 8 * p ≤ (f + 1 - 128) * perFrame
        (¬ good → completes (.pilotWindowEnd f d dev rms) s (fun r => r = s.framed (u.modFmd d (fun x => { x with
          goodWindows := 0, pilot := if pmin ≤ dev then .acquiring else x.pilot })))) ∧
        (good → (u.fmdR d).goodWindows = 0 → completes (.pilotWindowEnd f d dev rms) s (fun r => r = s.framed (u.modFmd d (fun x => { x with
          goodWindows := 1, pilot := .acquiring })))))) ∧
    (u.running .amd d = true → (u.amdR d).core.began.isSome = true →
      ((u.amdR d).locked = true → 250 < rms → completes (.carrierWindowEnd f d rms offset) s (fun r =>
        State.reportsOnly (s.framed (u.modAmd d (fun x => { x with locked := false }))) r)) ∧
      ((u.amdR d).locked = true → rms ≤ 250 → completes (.carrierWindowEnd f d rms offset) s (fun r => r = s.framed u)) ∧
      ((u.amdR d).locked = false → completes (.carrierWindowEnd f d rms offset) s (fun r =>
        r = s.framed (u.modAmd d (fun x => { x with locked := decide (rms ≤ 100) })))))

/-- RDS_SYNC takes a searching RDS receiver of a running FMD to SYNC when two blocks 26 bits apart carry offsets that follow each other;
RDS_LOSS takes it back to SEARCH when the Costas loop loses lock or RDS_LOSS_N blocks in a row were BAD (R125). -/
def Rules.RdsSyncLoss : Prop :=
  ∀ (s : State) (t d : Nat) (words : Option (BitVec 26 × BitVec 26)) (loop : Bool), s.live →
    let u := s.advance t
    let b := (u.life ⟨.fmd, d⟩).cur
    let held := ((u.fmdR d).path.lastBits u.now 52).map Prod.snd
    let w := words.getD (BitVec.ofNat 26 (bitsToNat (held.take 26)), BitVec.ofNat 26 (bitsToNat (held.drop 26)))
    let rbds := fget b fmRdsMode == 2
    u.running .fmd d = true →
    ((u.fmdR d).rds = .search → rdsFollows (rdsOffsetOf rbds w.1) (rdsOffsetOf rbds w.2) = true →
      completes (.rdsSync t d words) s (fun r =>
        State.reportsOnly (s.framed (u.modFmd d (fun x => { x with
          rds := .sync, resync := true, groupConcealed := false, badRun := 0 }))) r)) ∧
    ((u.fmdR d).rds = .search → rdsFollows (rdsOffsetOf rbds w.1) (rdsOffsetOf rbds w.2) = false →
      completes (.rdsSync t d words) s (fun r => r = s.framed u)) ∧
    ((u.fmdR d).rds = .sync → (loop = true ∨ fget b fmRdsLossN ≤ (u.fmdR d).badRun) → completes (.rdsLoss t d loop) s (fun r =>
      State.reportsOnly (s.framed (u.modFmd d (fun x => { x with rds := .search }))) r))

/-- A block in sync is taken as sent when its remainder is its place's offset, and is BAD when no error burst that RDS_CORR allows explains it;
otherwise its burst, of at most two bits, or of at most five under LARGE, is corrected (R126; the offset words and the generator are
PRESUMED, log 85). -/
def Rules.RdsCorrection : Prop :=
  ∀ (corr i : Nat) (w : BitVec 26), i < 4 →
    let place : List RdsOffset := match i with | 0 => [.a] | 1 => [.b] | 2 => [.c, .cPrime] | _ => [.d]
    let x := rdsBlock corr false i w
    (x.1.stat = .ok ↔ ∃ o, o ∈ place ∧ offsetWord o = rdsSyndrome w) ∧
    (x.1.stat = .ok → x.1.word = BitVec.ofNat 16 (w.toNat / 1024) ∧ x.2 = 0) ∧
    (corr = 0 → x.1.stat = .ok ∨ x.1.stat = .bad) ∧ (corr = 1 → x.1.stat ≠ .corrLarge) ∧
    (x.1.stat = .corrSmall ∨ x.1.stat = .corrLarge → ∃ n e o, 1 ≤ n ∧ n ≤ burstMost corr ∧ e ∈ bursts n ∧ o ∈ place ∧
      offsetWord o = rdsSyndrome (w ^^^ e) ∧ x.1.word = BitVec.ofNat 16 ((w ^^^ e).toNat / 1024) ∧ x.1.offset = o ∧
      (x.1.stat = .corrSmall ↔ n ≤ 2)) ∧
    (x.1.stat = .bad → ∀ n e o, 1 ≤ n → n ≤ burstMost corr → e ∈ bursts n → o ∈ place → offsetWord o ≠ rdsSyndrome (w ^^^ e))

/-- RDS_GROUP: a valid PI in block A is confirmed by the second group in a row that brings it; until then it is a candidate. An FMD that
has confirmed a PI keeps it while groups with the same one arrive (R127). -/
def Rules.RdsPi : Prop :=
  ∀ (s : State) (t d : Nat) (g : RdsGroupIn) (v : Word16), s.live →
    let u := s.advance t
    let x := rdsDecode g (fget (u.life ⟨.fmd, d⟩).cur fmRdsCorr) false (u.fmdR d).path u.now
    u.running .fmd d = true → (u.fmdR d).rds = .sync → fget (u.life ⟨.fmd, d⟩).cur fmRdsMode = 1 →
    piOf x 0 .a = some v → piOf x 2 .cPrime = none →
    completes (.rdsGroup t d g) s (fun r =>
      (r.fmdR d).resync = false ∧ (r.fmdR d).piLast = some v ∧
      (r.fmdR d).piConf = (if (u.fmdR d).piCand = some v ∧ (u.fmdR d).piLast = some v then some v else (u.fmdR d).piConf) ∧
      ((u.fmdR d).piConf = some v → (r.fmdR d).piCand = none) ∧
      ((u.fmdR d).piConf ≠ some v → (u.fmdR d).piCand ≠ some v → (r.fmdR d).piCand = some v))

/-- AMSS_BLOCK: two good blocks in a row give sync, four failing ones lose it; while the carrier loop is unlocked every block fails (R131). -/
def Rules.AmssBlocks : Prop :=
  ∀ (s : State) (t d : Nat) (b : AmssIn), s.live →
    let u := s.advance t
    let x := u.amdR d
    u.running .amd d = true → x.amss ≠ .off → x.core.began.isSome = true →
    let ok := (if b.fromBits then (Config.amssBlock (x.path.bits.map Prod.snd)).1 else b.ok) && x.locked
    completes (.amssBlock t d b) s (fun r =>
      (r.amdR d).amssGood = (if ok then x.amssGood + 1 else 0) ∧ (r.amdR d).amssBad = (if ok then 0 else x.amssBad + 1) ∧
      (r.amdR d).amss = (if x.amss = .sync then (if 4 ≤ (r.amdR d).amssBad then .search else .sync)
        else if 2 ≤ (r.amdR d).amssGood then .sync else .search))

/-- RDS and AMSS reception: Rules.RdsSyncLoss, Rules.RdsCorrection, Rules.RdsPi, Rules.AmssBlocks, together. -/
def Obligations.RdsAndAmss : Prop := Rules.RdsSyncLoss ∧ Rules.RdsCorrection ∧ Rules.RdsPi ∧ Rules.AmssBlocks

/-! ## The Timebase, PTM, pulse inputs, Cues, calibration runs -/

/-- TB_SLEW_DONE ends a slew at its Plain-sample boundary: the rate in force and the counter's value stay (R284). -/
def Rules.SlewDone : Prop :=
  ∀ (s : State) (sl : Slew), s.live → s.tb.slew = some sl →
    let u := s.advance (sl.ends * perSample)
    completes .tbSlewDone s (fun r =>
      r.tb.slew = none ∧ r.tb.inc = u.tb.inc ∧ r.tb.sec = u.tb.sec ∧ r.tb.ns = u.tb.ns ∧ r.tb.frac = u.tb.frac ∧
      State.reportsOnly (s.framed { u with tb := r.tb }) r)

/-- PTM: a dialog takes t1 and counts, in a tick whose number 2^PTM_PERIOD divides, when PTM_PERIOD is not 0, PTM is enabled, READY has
risen and none is under way; the response ends
it with a slate; without one it ends after 1 ms (R287). -/
def Rules.PtmDialog : Prop :=
  ∀ (s : State) (t : Nat), s.live →
    let u := s.advance t
    (fget u.tb.profile tpPtmPeriod ≠ 0 → u.tb.ptmEnabled = true → u.boot.ready = true → u.tb.ptmT1 = none →
      u.tick % 2 ^ fget u.tb.profile tpPtmPeriod = 0 → completes (.ptmDialogStart t) s (fun r => ∃ t1, r = s.framed { u with tb := { u.tb with
        ptmT1 := some (t1, u.now), ptmDialogs := (u.tb.ptmDialogs + 1) % 2 ^ 32 } })) ∧
    (∀ t1 at_, u.tb.ptmT1 = some (t1, at_) →
      (∀ master prop, completes (.ptmResponse t master prop) s (fun r =>
        r.slates.length = u.slates.length + (if u.flags.halted = true ∨ u.phase ≠ .released then 0 else 1) ∧
        State.reportsOnly (s.framed { u with tb := { u.tb with ptmT1 := none } }) r)) ∧
      (at_ + 983040 ≤ u.now → completes (.ptmTimeout t) s (fun r =>
        State.reportsOnly (s.framed { u with tb := { u.tb with ptmT1 := none } }) r)))

/-- PULSE_EDGE at an armed input without a burst begins one with its time; a further selected edge of the burst is counted in its
handshake, and a sixteenth only marks the overflow; at a disarmed input nothing but the span to ignore changes. HANDSHAKE_END: without
a new edge the burst ends, with its slate, and disarms a ONCE input (R295 to R297). -/
def Rules.PulseBursts : Prop :=
  ∀ (s : State) (i : Nat), s.live → i < 3 →
    (∀ (t sub : Nat) (falling : Bool),
      let u := (s.advance t).pulseSettle i
      i < u.pulses.length →
      ((u.pulse i).burst = none → (u.pulse i).ignoring = none → (u.pulse i).mode ≠ 0 → edgeActive (u.pulse i).edge falling = true →
        completes (.pulseEdge t sub i falling) s (fun r => (r.pulse i).burst =
          some ⟨u.pinTime (5 + i) u.now sub falling, falling, u.qualNow, 1, 0, u.now + handshake, false⟩)) ∧
      (∀ b, (u.pulse i).burst = some b → (u.pulse i).mode ≠ 0 → edgeActive (u.pulse i).edge falling = true →
        completes (.pulseEdge t sub i falling) s (fun r => (r.pulse i).burst =
          some (if b.now < 15 then { b with now := b.now + 1, total := satU 16 (b.total + 1) } else { b with overflow := true }))) ∧
      ((u.pulse i).burst = none → (u.pulse i).mode = 0 → completes (.pulseEdge t sub i falling) s (fun r =>
        r = s.framed (u.modPulse i (fun x => { x with ignoring := some (ignoreNext x.ignoring u.now) }))))) ∧
    (∀ b, (s.pulse i).burst = some b →
      let u := s.advance b.ends
      (u.pulse i).burst = some { b with now := 0 } → completes (.handshakeEnd i) s (fun r =>
        (r.pulse i).burst = none ∧ (r.pulse i).lastPps = t64Of256 b.time ∧
        r.slates.length = u.slates.length + (if u.flags.halted = true ∨ u.phase ≠ .released then 0 else 1) ∧
        ((u.pulse i).mode = 1 → (r.pulse i).mode = 0) ∧ ((u.pulse i).mode ≠ 1 → (r.pulse i).mode = (u.pulse i).mode) ∧
        (i = 0 → r.cond fPpsLost = false))) ∧
    (∀ b b', (s.pulse i).burst = some b → b'.now ≠ 0 → ((s.advance b.ends).pulse i).burst = some b' → completes (.handshakeEnd i) s (fun r =>
      r = s.framed ((s.advance b.ends).modPulse i (fun x => { x with burst := some { b' with now := 0, ends := b'.ends + handshake } }))))

/-- Slews, PTM dialogs, pulse bursts: Rules.SlewDone, Rules.PtmDialog, Rules.PulseBursts, together. -/
def Obligations.TimebaseEvents : Prop := Rules.SlewDone ∧ Rules.PtmDialog ∧ Rules.PulseBursts

/-- CUE: the pulse that is due is emitted for WIDTH and counts; after the last one none is due, otherwise the next lies one PERIOD later.
CUE_WIDTH_END: the pulse ends, and after the last one the Cue is HELD from the next Plain-frame boundary (R299, R301). -/
def Obligations.CuePulses : Prop :=
  ∀ (s : State) (n : Nat), s.live →
    (∀ v, (s.cueR n).next = some v →
      let u := s.advance (s.cycleOf v)
      let b := (u.life ⟨.cue, n⟩).cur
      let x := u.cueR n
      u.running .cue n = true → x.next = some v → completes (.cue n) s (fun r =>
        (r.cueR n).k = x.k + 1 ∧ (r.cueR n).emitted = x.emitted + 1 ∧ (r.cueR n).pulseEnd = some (u.now + cyclesOfNs (cueWidth b)) ∧
        (r.cueR n).next = (if cuePeriod b = 0 ∨ (cueCount b ≠ 0 ∧ cueCount b ≤ x.emitted + 1) then none
          else some (v + cuePeriod b * 256)))) ∧
    (∀ e, (s.cueR n).pulseEnd = some e →
      let u := s.advance e
      ((u.cueR n).lastDone = false → completes (.cueWidthEnd n) s (fun r =>
        r = s.framed (u.modCue n (fun x => { x with pulseEnd := none, lastDone := false })))) ∧
      (u.dueRefs = [] → (u.cueR n).lastDone = true → u.running .cue n = true → (u.life ⟨.cue, n⟩).cmd = .run →
        completes (.cueWidthEnd n) s (fun r => (r.life ⟨.cue, n⟩).cmd = .held ∧ (r.cueR n).pulseEnd = none ∧
          (if u.now % perFrame = 0 then (r.life ⟨.cue, n⟩).eff = .held
            else (r.life ⟨.cue, n⟩).eff = .run ∧ (r.life ⟨.cue, n⟩).holdAt = some (alignNext perFrame u.now)))))

/-- CAL_MEASURE_START: after the settling the measurement of 512 Plain frames begins at a Plain-frame boundary. CAL_MEASURE_END, at the
boundary that ends it and before the changes that commands carry there: results within the plausibility limits are in force and their
run is over, and a FAILED converter returns to service; others are discarded, counted and reported, and CAL_FAIL is set (R8, R9, R67,
R411, R414, R415). -/
def Rules.CalibrationRuns : Prop :=
  ∀ (s : State) (t x : Nat) (run : CalRun), s.live → x < 5 → (s.unit x).run = some run →
    let b := s.stageBoundary run.ends t
    b % perFrame = 0 ∧ run.ends ≤ b ∧ s.now ≤ b ∧
    (run.stage = CalStage.settling → ((s.advance b).unit x).run = some run → completes (.calMeasureStart t x) s (fun r =>
      r = s.framed ((s.advance b).modUnit x (fun c => { c with
        run := some { run with stage := .measuring, ends := (s.advance b).now + 512 * perFrame } })))) ∧
    (∀ m : CalMeas, run.stage = CalStage.measuring →
      let u := s.arriveGain b
      (u.unit x).run = some run → u.phase = .released →
      let lastT := (u.unit x).temps.getD 0 none
      let lim := convLimit m (u.cal.factory.getD x []) (lastT.map (fun _ => (u.unit x).vals)) ((run.temp - lastT.getD run.temp).natAbs)
      (lim = none → completes (.calMeasureEnd t x m) s (fun r =>
        r = s.framed (((u.calPass x 0 0xFFFF u.now m.vals).convBack x u.index).afterMeasure x true).settle ∧
        (u.dueRefs = [] → (r.unit x).run = none ∧ (r.unit x).vals = m.vals ∧ (r.unit x).fails = 0 ∧ (r.unit x).degraded = false ∧
          (r.convR x).failed = none))) ∧
      (∀ k, lim = some k → completes (.calMeasureEnd t x m) s (fun r =>
        r = s.framed ((u.calEnd x .limit k u.now).afterMeasure x false).settle ∧
        (u.dueRefs = [] → (r.unit x).run = none ∧ (r.unit x).vals = (u.unit x).vals ∧ (r.unit x).fails = (u.unit x).fails + 1 ∧
          r.flag fCalFail = true ∧ ((u.unit x).degraded = true → (r.unit x).degraded = true)))))

/-- Calibration runs end: Rules.TxCalibration, Rules.CalibrationRuns, together. -/
def Obligations.Calibrations : Prop := Rules.TxCalibration ∧ Rules.CalibrationRuns

/-! ## Following, inserts -/

/-- A candidate's probe: it starts when an origin receives its frequency or background objects can be opened, else the candidate is STARVED;
once its time has passed, PROBE_END leaves it ALIGNING when it is eligible with enough quality, a source programme and a place among four,
and INELIGIBLE, its background objects closed, when it is not eligible (R187 to R189). -/
def Rules.FollowProbes : Prop :=
  ∀ (s : State) (t p k : Nat) (c : Cand), s.live →
    let u := s.advance t
    u.candLive p k = true → (u.follow p).cand k = some c →
    (c.st = .idle ∨ c.st = .ineligible ∨ c.st = .starved → c.background = [] →
      ((u.candOrigin p k).isSome = true → completes (.followProbeStart t p k) s (fun r =>
        ∃ x, (r.follow p).cand k = some x ∧ x.st = .probe ∧ x.since = u.now ∧ x.q = none ∧ x.entry = c.entry)) ∧
      (∀ w, u.candOrigin p k = none → (u.releaseCand p k).openBackground p k = some w →
        completes (.followProbeStart t p k) s (fun r =>
          r = s.framed (w.modCand p k (fun x => { x with st := .probe, since := w.now, q := none })))) ∧
      (u.candOrigin p k = none → (u.releaseCand p k).openBackground p k = none →
        completes (.followProbeStart t p k) s (fun r =>
          (∃ x, (r.follow p).cand k = some x ∧ x.st = .starved) ∧
          (r.follow p).starved = satU 16 ((u.follow p).starved + 1)))) ∧
    (c.st = .probe → c.since + probeSpan c.entry.std ≤ u.now →
      (u.eligible p k = false → completes (.probeEnd t p k) s (fun r =>
        ∃ x, (r.follow p).cand k = some x ∧ x.st = .ineligible ∧
          ((∀ ch, (u.follow p).change = some ch → ch.target ≠ k) → x.background = []))) ∧
      (u.eligible p k = true → (∃ q, c.q = some q) → -24 ≤ c.q4 → (u.candProg p k).isSome = true →
        ((u.follow p).cands.filter (fun x => x.st == .aligning || x.st == .ready || x.st == .standby)).length < 4 →
        completes (.probeEnd t p k) s (fun r =>
          ∃ x, (r.follow p).cand k = some x ∧ x.st = .aligning ∧ x.lags = [] ∧ x.since = u.now)))

/-- COARSE_MEASURE: three lags in a row within 2 ms and above the correlation limit establish an offset, and three misses in a row lose it;
ALIGN_TIMEOUT ends 30 s without an offset; the background objects of a candidate that fails are closed, but for those of a change's
target (R189, R191, R195). -/
def Rules.FollowAlign : Prop :=
  ∀ (s : State) (t p k : Nat) (c : Cand), s.live →
    let u := s.advance t
    u.candLive p k = true → (u.follow p).cand k = some c →
    (∀ m : Int × Corr, coarse ((u.progR p).area (u.follow p).active) ((u.progR p).area k) = some m →
      (c.st = .aligning → c.delta = none → c.lags.length = 2 → c.lags.all (agree (48 * m.1)) = true →
        m.2.atLeast (fget (u.follow p).policy afCorrMin) = true → completes (.coarseMeasure t p k) s (fun r =>
          ∃ x, (r.follow p).cand k = some x ∧ x.delta = some (48 * m.1) ∧ (x.st = .ready ∨ x.st = .standby) ∧ x.peak = m.2.mille)) ∧
      (c.st = .ready ∨ c.st = .standby → c.delta.isSome = true → c.miss = 2 →
        m.2.atLeast (fget (u.follow p).policy afCorrMin) = false → fbit (u.follow p).policy afAllowUnaligned = false →
        completes (.coarseMeasure t p k) s (fun r =>
          ∃ x, (r.follow p).cand k = some x ∧ x.delta = none ∧ x.st = .ineligible))) ∧
    (c.st = .aligning → c.since + 30 * rfHz ≤ u.now → fbit (u.follow p).policy afAllowUnaligned = false →
      completes (.alignTimeout t p k) s (fun r =>
        ∃ x, (r.follow p).cand k = some x ∧ x.st = .ineligible ∧
          ((∀ ch, (u.follow p).change = some ch → ch.target ≠ k) → x.background = [])))

/-- POOL_FILLED makes the standby usable once its pool area holds the history its place needs. CROSSFADE_START begins a change and counts
it; CROSSFADE_END gives the output to the new source with its pool delay and level scale; OFFSET_RETENTION_END forgets the candidates of
a suspended service (R192, R194, R195). -/
def Rules.FollowChanges : Prop :=
  ∀ (s : State) (p : Nat), s.live →
    (∀ t k, ((s.advance t).follow p).standby = some k →
      (((s.advance t).follow p).bSb ≤ (((s.advance t).progR p).area k).hist.length → completes (.poolFilled t p) s (fun r =>
        r = s.framed ((s.advance t).modCand p k (fun c => { c with usable := true })))) ∧
      ((((s.advance t).progR p).area k).hist.length < ((s.advance t).follow p).bSb → completes (.poolFilled t p) s (fun r =>
        r = s.framed (s.advance t)))) ∧
    (∀ ch, (s.follow p).change = some ch → ch.started = false → (s.advance ch.start).followed p = true →
      completes (.crossfadeStart p) s (fun r =>
        (r.follow p).change = some { ch with started := true } ∧ (r.follow p).lastChange = ch.start ∧
        (r.follow p).switches = satU 16 (((s.advance ch.start).follow p).switches + 1) ∧
        (r.follow p).active = ((s.advance ch.start).follow p).active)) ∧
    (∀ ch, (s.follow p).change = some ch → ch.started = true → (s.advance ch.stop).followed p = true →
      completes (.crossfadeEnd p) s (fun r =>
        let f := (s.advance ch.stop).follow p
        (r.follow p).change = none ∧ (r.follow p).bAct = f.bSb.toNat ∧ (r.follow p).scale = levelScale f ch.target ∧
        (r.follow p).failTicks = 0 ∧ (r.follow p).betterTicks = 0)) ∧
    (∀ t, (s.follow p).keepUntil = some t → ((s.advance t).follow p).st = .suspended →
      completes (.offsetRetentionEnd p) s (fun r =>
        r = s.framed ((s.advance t).modFollow p (fun f => { f with cands := [], keepUntil := none }))))

/-- Service following: Rules.FollowProbes, Rules.FollowAlign, Rules.FollowChanges, together. -/
def Obligations.Following : Prop := Rules.FollowProbes ∧ Rules.FollowAlign ∧ Rules.FollowChanges

/-- INSERT_ON takes the programmes in RUN that it is to start with at its boundary; INSERT_OFF begins the crossfade out of those that it has
taken, and frees the others; INSERT_CROSSFADE_END frees those whose crossfade out has ended (R213, R214, R218). -/
def Rules.InsertBoundaries : Prop :=
  ∀ (s : State) (i : Nat), s.live →
    (∀ b, (s.insertR i).startAt = some b →
      let u := (s.advance b).feedStep
      completes (.insertOn i) s (fun r => ∀ p, p ∈ (u.insertR i).starting → (u.life ⟨.prog, p⟩).cmd ≠ .closed →
        u.running .prog p = true → u.cas.st ≠ .member →
        (r.progR p).insert = some i ∧ (r.progR p).insertFrom = some b ∧ (r.progR p).insertTo = none ∧
        (r.insertR i).startAt = none ∧ (r.insertR i).onAt.isSome = true ∧ p ∈ (r.insertR i).members)) ∧
    (∀ b, (s.insertR i).stopAt = some b →
      let u := (s.advance b).feedStep
      completes (.insertOff i) s (fun r => ∀ p, p ∈ (u.insertR i).stopping → (u.progR p).insert = some i →
        (u.running .prog p = true → (u.progR p).insertFrom.isSome = true →
          (r.progR p).insertTo = some b ∧ (r.progR p).insert = some i) ∧
        (u.running .prog p = false ∨ (u.progR p).insertFrom = none → (r.progR p).insert = none))) ∧
    (∀ b, (s.insertR i).fadeFrom = some b →
      let u := (s.advance (b + (s.insertR i).span)).feedStep
      completes (.insertCrossfadeEnd i) s (fun r => ∀ p, p ∈ u.insMembers i →
        (∀ e, (u.progR p).insertTo = some e → e + (u.insertR i).span ≤ u.now → (r.progR p).insert = none) ∧
        ((u.progR p).insertTo = none → (r.progR p).insert = some i ∧ (r.progR p).insertOld = none)))

/-- INSERT_UNDERRUN begins an episode of an insert whose source fails, with its flag; INSERT_LOSS_TIMEOUT ends the insert at the next
alignment frame under REVERT, and changes nothing under HOLD (R217). -/
def Rules.InsertUnderruns : Prop :=
  ∀ (s : State) (i : Nat), s.live →
    (∀ t, let u := (s.advance t).feedStep
      (u.insertR i).reads = true → u.insertFails (u.insertR i) = true →
      ((u.insertR i).underrun = false → u.phase = .released → completes (.insertUnderrun t i) s (fun r =>
        r.flag fInsertUnderrun = true ∧
        State.reportsOnly (s.framed (u.modInsert i (fun n => { n with underrun := true, underAt := u.now }))) r)) ∧
      ((u.insertR i).underrun = true → completes (.insertUnderrun t i) s (fun r => r = s.framed u))) ∧
    ((s.insertR i).reads = true → (s.insertR i).underrun = true →
      let u := (s.advance (s.insertR i).lossAt).feedStep
      (u.insertR i).underrun = true → (u.insertR i).stopAt = none →
      ((u.insertR i).byte 11 = 1 → completes (.insertLossTimeout i) s (fun r =>
        (r.insertR i).stopAt = some (alignNext perAlign u.now) ∧ (r.insertR i).cause = .sourceLost ∧
        (r.insertR i).stopping = u.insMembers i ++ (u.insertR i).starting)) ∧
      ((u.insertR i).byte 11 = 0 → completes (.insertLossTimeout i) s (fun r => r = s.framed u)))

/-- Inserts: Rules.InsertBoundaries, Rules.InsertUnderruns, together. -/
def Obligations.Inserts : Prop := Rules.InsertBoundaries ∧ Rules.InsertUnderruns

/-! ## Ensemble engines, side data -/

/-- NULL_CANDIDATE and PRS_TEST: a searching channel of known mode takes the first candidate found, and in every other state the
second-look search takes it. A candidate of the main path that reaches PRS_THR gives SYNC in DAB with its offset, the higher ratio winning
where the second-look's passes too; where it fails, the second-look's takes its place, and without one the channel returns to SEARCH; a
second-look candidate that fails is dropped (R143 to R145, R148, R151, R152). -/
def Rules.EngineSync : Prop :=
  (∀ (q : EePath) (k : Nat) (y : EeCand), k ≠ 0 → q.cand 0 = some y → (q.takeCand k).cand k = some { y with taken := k }) ∧
  ∀ (s : State) (t e c : Nat), s.live →
    let u := (s.advance t).eeFeed false e c
    let x := u.chan e c
    let one := u.decided e (x.path.cand 1)
    let two := u.decided e (x.path.cand 2)
    u.chanOn e c = true →
    (x.mode ≠ 0xFF → (x.path.cand 0).isSome = true →
      (x.sync = .search → completes (.nullCandidate t e c) s (fun r =>
        r = s.framed (u.modChan e c (fun ch => { ch with sync := .candidate, path := ch.path.takeCand 1 })))) ∧
      (x.sync ≠ .search → completes (.nullCandidate t e c) s (fun r =>
        r = s.framed (u.modChan e c (fun ch => { ch with path := ch.path.takeCand 2 }))))) ∧
    (∀ v, two = some (v, false) → completes (.prsTest t e c true) s (fun r =>
      r = s.framed (u.modChan e c (fun ch => { ch with path := ch.path.dropCand 2 })))) ∧
    (x.sync = .candidate →
      (∀ v, (one = some (v, true) ∧ ∀ w, two = some (w, true) → w.ratio ≤ v.ratio) ∨
          (two = some (v, true) ∧ ∃ o ok, one = some (o, ok) ∧ (ok = true → o.ratio < v.ratio)) →
        (u.eeStdOf e = 0 → completes (.prsTest t e c false) s (fun r =>
          (r.chan e c).sync = .sync ∧ (r.chan e c).path.figures.offset = offsetHz 0 v.freq ∧ (r.chan e c).badHist = [] ∧
          (r.chan e c).mode = x.mode ∧ ∃ k, (r.chan e c).path.track = some k ∧ k.freq = v.freq ∧ k.first = v.first)) ∧
        (u.eeStdOf e ≠ 0 → completes (.prsTest t e c false) s (fun r =>
          (r.chan e c).sync = .candidate ∧ ∃ k, (r.chan e c).path.track = some k ∧ k.freq = v.freq ∧ k.first = v.first))) ∧
      (∀ v, one = some (v, false) → x.path.cand 2 = none → completes (.prsTest t e c false) s (fun r =>
        r = s.framed (u.modChan e c (fun ch => { ch with sync := .search, path := ch.path.dropCand 1 })))) ∧
      (∀ v w, one = some (v, false) → two = some (w, false) → completes (.prsTest t e c false) s (fun r =>
        r = s.framed (u.modChan e c (fun ch => { ch with sync := .search, path := (ch.path.dropCand 1).dropCand 2 })))) ∧
      (∀ v y, one = some (v, false) → two = none → x.path.cand 2 = some y → completes (.prsTest t e c false) s (fun r =>
        (r.chan e c).sync = .candidate ∧ (r.chan e c).path.cand 1 = some { y with taken := 1 })))

/-- DRM_MODE_DETECT: the mode whose correlation is at least 0.5 and at least 1.5 times every other one's is that of the channel (R152). -/
def Rules.DrmMode : Prop :=
  ∀ (s : State) (t e c i v : Nat), s.live →
    let u := (s.advance t).eeFeed false e c
    let peaks := (u.chan e c).path.peaks
    peaks.length = 4 → peaks[i]? = some v → 500 ≤ v → (∀ j w, j ≠ i → peaks[j]? = some w → 3 * w ≤ 2 * v) →
    u.chanOn e c = true → u.eeStdOf e = 1 → fget (u.eeBlk e) eeDrmMode = 0 → (u.chan e c).sync = .search →
    (u.chan e c).mode = 0xFF →
    completes (.drmModeDetect t e c) s (fun r => r = s.framed (u.modChan e c (fun ch => { ch with mode := i + 1 })))

/-- EE_LOSS after LOSS_N frames in a row that failed, and OFFSET_RANGE_LOSS of a DRM channel whose offset has left ±half a carrier spacing,
return the channel to SEARCH; EE_RELOCK, on evidence for an arrival outside the guard interval, counts a re-lock and notes its instant;
TII reports the set of the last average (R146, R147, R149, R153). -/
def Rules.EngineLoss : Prop :=
  ∀ (s : State) (t e c : Nat), s.live →
    let u := (s.advance t).eeFeed false e c
    u.chanOn e c = true →
    (fget (u.eeBlk e) eeLossN ≤ (u.chan e c).path.lossRun → ((u.chan e c).sync.up = true ∨ (u.chan e c).path.track.isSome = true) →
      completes (.eeLoss t e c) s (fun r => (r.chan e c).sync = .search ∧ (r.chan e c).path.track = none)) ∧
    ((u.chan e c).sync.up = true → u.eeStdOf e ≠ 0 →
      ∀ k, (u.chan e c).path.track = some k → 2 ^ 32 < (k.freq - k.freq0).natAbs * (2 * usefulOf (u.chan e c).mode) →
      completes (.offsetRangeLoss t e c) s (fun r => (r.chan e c).sync = .search)) ∧
    ((u.chan e c).sync.up = true → fget (u.eeBlk e) eeSlMargin ≠ 0 →
      (relockTo (fget (u.eeBlk e) eeSlMargin) (fget (u.eeBlk e) eeSlFrames) (guardOf (u.chan e c).mode)
        (u.chan e c).path.arrivals).isSome = true →
      completes (.eeRelock t e c) s (fun r =>
        (r.eeR e).relocks = satU 16 ((u.eeR e).relocks + 1) ∧ (r.chan e c).relockAt = some u.now ∧
        (r.chan e c).interruptedQ = true ∧ (r.chan e c).sync = (u.chan e c).sync)) ∧
    (c = 0 → u.eeStdOf e = 0 → fbit (u.eeBlk e) eeTiiEn = true → completes (.tii t e) s (fun r =>
      State.reportsOnly (s.framed (u.modEe e (fun x => { x with tii := (u.chan e 0).path.tiiSet }))) r))

/-- The arrival that a re-lock goes to lies outside the guard interval, with a margin of SL_MARGIN over the main one in SL_FRAMES frames in
a row (R149). -/
def Rules.RelockEvidence : Prop :=
  ∀ (margin frames guard : Nat) (fs : List (List EeArrival)) (a : EeArrival), relockTo margin frames guard fs = some a →
    guard < a.delay.natAbs ∧ frames ≤ fs.length ∧ a ∈ fs.headD [] ∧ relockOk margin guard (fs.take frames) a = true

/-- Synchronisation of an engine: Rules.EngineSync, Rules.DrmMode, Rules.EngineLoss, Rules.RelockEvidence, together. -/
def Obligations.EngineStates : Prop := Rules.EngineSync ∧ Rules.DrmMode ∧ Rules.EngineLoss ∧ Rules.RelockEvidence

/-- The records of a channel: a FIB, a FAC and an SDC block that wait are delivered and enter the channel's history of failures; a FIB with
FIG 0/0 takes DAB from SYNC to FIC, and the first good FAC a DRM candidate to SYNC (R146, R152, R163, R164). -/
def Rules.EngineRecords : Prop :=
  ∀ (s : State) (t e : Nat), s.live →
    (∀ (facts : List (Nat × Fact)) (f : EeBlock),
      let u := (s.advance t).eeFeed false e 0
      u.chanOn e 0 = true → u.eeStdOf e = 0 → (u.chan e 0).sync.up = true → (u.chan e 0).path.block none = some f →
      completes (.fibRecord t e facts) s (fun r =>
        (r.chan e 0).badHist = ((!f.ok) :: (u.chan e 0).badHist).take 120 ∧
        (f.ok = false → (r.chan e 0).sync = (u.chan e 0).sync) ∧
        ((u.chan e 0).sync = .sync → f.ok = true →
          (∃ x, x ∈ figFacts (figs 30 (f.data.take 30)).1 facts ∧ ∃ eid cif a b, x.2 = Fact.ensemble eid cif a b) →
          (r.chan e 0).sync = .fic))) ∧
    (∀ (c : Nat) (f : FacIn) (k : EeBlock),
      let u := (s.advance t).eeFeed false e c
      u.chanOn e c = true → u.eeStdOf e ≠ 0 → (u.chan e c).path.block (some 0) = some k → (u.chan e c).path.track.isSome = true →
      ((u.chan e c).sync = .candidate → k.ok = true → completes (.facRecord t e c f) s (fun r =>
        (r.chan e c).sync = .sync ∧ (r.chan e c).badHist = [false])) ∧
      ((u.chan e c).sync = .candidate → k.ok = false → completes (.facRecord t e c f) s (fun r =>
        r = s.framed (u.modChan e c (fun ch => { ch with path := ch.path.unblock k })))) ∧
      ((u.chan e c).sync.up = true → completes (.facRecord t e c f) s (fun r =>
        (r.chan e c).sync = (u.chan e c).sync ∧ (r.chan e c).badHist = ((!k.ok) :: (u.chan e c).badHist).take 32))) ∧
    (∀ (c : Nat) (d : SdcIn) (k : EeBlock),
      let u := (s.advance t).eeFeed false e c
      u.chanOn e c = true → u.eeStdOf e ≠ 0 → (u.chan e c).sync.up = true → (u.chan e c).path.block (some 1) = some k →
      completes (.sdcRecord t e c d) s (fun r =>
        (r.chan e c).sdcHist = ((!k.ok) :: (u.chan e c).sdcHist).take 8 ∧ (r.chan e c).sync = (u.chan e c).sync))

/-- LOGICAL_FRAME in an engine in RUN: the frame that is due is delivered with the count that its place gives, and locks the channel, in DAB once
it has a sub-channel; a channel that has none due goes on with ABSENT frames, whose counts go on too. RECONFIGURATION puts the announced
configuration into force once the frame before it has been delivered (R146, R160, R162). -/
def Rules.EngineFrames : Prop :=
  ∀ (s : State) (t e c : Nat) (audio : List ProgAudio), s.live →
    let u := (s.advance t).eeFeed false e c
    let x := u.chan e c
    u.chanOn e c = true →
    (x.due = true → (u.life ⟨.ee, e⟩).cmd = .run → completes (.logicalFrame t e c audio) s (fun r =>
      (r.chan e c).count = ((x.base.getD 0) + x.path.oldest) % countModulus x.mode ∧
      (r.chan e c).path.deliver = x.path.oldest + 1 ∧ (r.chan e c).erased = x.erased - 1 ∧
      (x.sync = .locked ∨ u.eeStdOf e ≠ 0 ∨ (∃ i, i < 64 ∧ (u.sub e i).org.isSome = true) → (r.chan e c).sync = .locked))) ∧
    (∀ at0, x.due = false → x.lastAt = some at0 → completes (.logicalFrame t e c audio) s (fun r =>
      let mode := if u.eeStdOf e = 0 then 0 else if u.eeStdOf e = 2 then 5 else 1
      (r.chan e c).count = (x.count + 1) % countModulus mode ∧ (r.chan e c).lastAt = some (at0 + logicalCycles mode) ∧
      ∀ o, o ∈ (r.eeR e).outs → o.chan = c → o.flags.testBit 6 = true)) ∧
    (∀ n, c = 0 → u.eeStdOf e = 0 → (u.eeR e).reconfigAt = some n →
      (x.sync ≠ .locked ∨ (x.count + 5000 - n % 5000 + 1) % 5000 < 2500) → completes (.reconfiguration t e) s (fun r =>
        (r.eeR e).reconfigAt = none ∧ ∀ y, y ∈ (r.eeR e).subs → y.next = none))

/-- Records and frames of an engine: Rules.EngineRecords, Rules.EngineFrames, together. -/
def Obligations.EngineData : Prop := Rules.EngineRecords ∧ Rules.EngineFrames

/-- Side data of an origin that has fallen silent: after 10 s its entries are stale, after 60 s they are gone; an announcement of a
cluster without its signal for 2 s is gone; SIDE_DUMP leaves no dump owed to its ring for the source, and the tables as they are (R175,
R181, R221). -/
def Obligations.SideDataAges : Prop :=
  ∀ (s : State) (t : Nat) (src : Id) (c : Nat), s.live →
    let u := s.advance t
    let mine (o : Origin) : Prop := u.canon o.object = u.canon src ∧ o.chan = c
    (completes (.entryStale t src c) s (fun r => ∀ v, v ∈ r.svc.svc → mine v.origin → u.originAlive v.origin = false →
      u.silentFor v.origin 10 = true → v.stale = true)) ∧
    (completes (.entryRemoved t src c) s (fun r => ∀ v, v ∈ r.svc.svc → mine v.origin →
      u.originAlive v.origin = true ∨ u.silentFor v.origin 60 = false)) ∧
    (∀ cluster, completes (.announceTimeout t src c cluster) s (fun r => ∀ a, a ∈ r.svc.anns → mine a.origin → a.cluster = cluster →
      cluster ≠ 0xFF → u.now < a.lastAt + 2 * rfHz)) ∧
    (∀ ring, (u.ring ring).isRunning kSide = true → (∃ n, (ring, u.canon src, n) ∈ u.svc.dumps) →
      completes (.sideDump t ring src) s (fun r =>
        (∀ n, (ring, u.canon src, n) ∉ r.svc.dumps) ∧ r.svc.svc = u.svc.svc ∧ r.svc.comp = u.svc.comp))

/-! ## Audio ports -/

/-- PORT_FRAME of a port in SYNC, on its grid or at its clock: the frame is counted, DO carries one word for each slot, and a route whose
source delivers nothing at the frame's instant underruns; in RATE_JUMP the frame carries zeros, in CLOCK_LOST it is only counted
(R226, R229, R231, R234, R237, R239). -/
def Rules.PortFrames : Prop :=
  ∀ (s : State) (t p : Nat) (i : PortIn), s.live →
    let u := s.advance t
    let b := u.portBlk p
    let x := u.portR p
    let v := u.modPort p (fun y => y.track (u.slave p) u.now)
    let y := v.portR p
    u.running .port p = true → x.dataFrom ≤ u.now → u.slave p = true ∨ onGrid (portRate b) u.now = true →
    (x.st = .sync → completes (.portFrame t p i) s (fun r =>
      (r.portR p).frames = x.frames + 1 ∧ (r.portR p).lastAt = u.now ∧ (r.portR p).dout.length = portSlots b ∧
      (r.portR p).st = .sync ∧ (r.portR p).routes.length = x.routes.length ∧
      (∀ k z, x.routes[k]? = some z → fget b (rtKind k) ≠ 0 →
        (v.fixRoute b k z).delay = none ∨ v.routeWord b k y.tn (v.fixRoute b k z) = none →
        ∃ w, (r.portR p).routes[k]? = some w ∧ w.under = true))) ∧
    (x.st = .rateJump → completes (.portFrame t p i) s (fun r =>
      r = s.framed (v.modPort p (fun y => { y with
        dout := doWords b true y.routes, line := frameLine b y.dout (doWords b true y.routes), frames := y.frames + 1, lastAt := u.now,
        diHist := y.hear u.now [] })))) ∧
    (x.st = .clockLost → completes (.portFrame t p i) s (fun r =>
      r = s.framed (v.modPort p (fun y => { y with frames := y.frames + 1, lastAt := u.now, diHist := y.hear u.now [] }))))

/-- A slave port's clock: two FS edges a frame apart give SYNC, and RATE_JUMP where a clock that returns is further off its nominal rate
than R239 allows; four BCLK periods or two FS periods without an edge give CLOCK_LOST with its condition, whose end at the first BCLK
edge starts SEEK and flushes the crossing; an FS edge elsewhere in SYNC counts as an error, sets FS_ERROR and starts SEEK; sixteen calm
ticks end RATE_JUMP (R227, R237 to R240). -/
def Rules.PortClocks : Prop :=
  ∀ (s : State) (t p : Nat), s.live →
    let u := s.advance t
    let x := u.portR p
    u.running .port p = true →
    (∀ back, u.slave p = true → x.st = .seek →
      let far := jumpRange < (rateOffset (portRate (u.portBlk p)) 1 (16 * back)).natAbs
      (x.lostAt = 0 ∨ ¬ far → completes (.portSync t p (frameBits (u.portBlk p)) back) s (fun r =>
        (r.portR p).st = .sync ∧ (r.portR p).lostAt = 0 ∧ (r.portR p).bclkSeen = true)) ∧
      (x.lostAt ≠ 0 → far → completes (.portSync t p (frameBits (u.portBlk p)) back) s (fun r =>
        (r.portR p).st = .rateJump ∧ (r.portR p).jumps = satU 16 (x.jumps + 1) ∧ r.cond fRateJump = true))) ∧
    (∀ bclk periods, u.slave p = true → x.st = .seek ∨ x.st = .sync ∨ x.st = .rateJump →
      (if bclk then 4 else 2) ≤ periods → completes (.clockLost t p bclk periods) s (fun r =>
        (r.portR p).st = .clockLost ∧ (r.portR p).losses = satU 16 (x.losses + 1) ∧ (r.portR p).lostAt = u.now ∧
        r.cond fClockLost = true)) ∧
    (x.st = .clockLost → u.phase = .released → completes (.portClockReturn t p) s (fun r =>
      (r.portR p).st = .seek ∧ (r.portR p).bclkSeen = true ∧ r.flag fCrossFlush = true ∧
      r.clk.flushes = modAt p (· + 1) u.clk.flushes ∧ r.cond fClockLost = r.port.any (fun o => o.run.st == .clockLost))) ∧
    (∀ spacing, u.slave p = true → x.st = .sync → spacing ≠ frameBits (u.portBlk p) → u.phase = .released →
      completes (.fsError t p spacing) s (fun r =>
        (r.portR p).st = .seek ∧ (r.portR p).fsErr = satU 16 (x.fsErr + 1) ∧ r.flag fFsError = true)) ∧
    (x.st = .rateJump → 16 ≤ x.steady → completes (.portRateOk t p) s (fun r =>
      (r.portR p).st = .sync ∧ (r.portR p).steady = 0 ∧ r.cond fRateJump = r.port.any (fun o => o.run.st == .rateJump)))

/-- Frames and clocks of the audio ports: Rules.PortFrames, Rules.PortClocks, together. -/
def Obligations.AudioPorts : Prop := Rules.PortFrames ∧ Rules.PortClocks

/-! ## The cascade -/

/-- A port whose lanes train is up, and flushes its crossing when it had been down; lanes that lose block lock take it down, with
HHL_DOWN's condition; an ECHO gives the delay as half of what the way back and forth took longer than the far end held it; a word group
of a trained port leaves its index, streams and heartbeat, and its item of a carried command waits for the next tick
(R304, R305, R314, R327, R329). -/
def Obligations.CascadePorts : Prop :=
  ∀ (s : State) (t : Nat) (p : HhlPort), s.live →
    let u := s.advance t
    ((u.hhl p).asked = true → (u.hhl p).trained = false → completes (.hhlTrained t p) s (fun r =>
      let v := u.modHhl p (fun h => { h with trained := true, down := false })
      r.cas = v.cas ∧ r.cond fHhlDown = (v.cas.up.down || v.cas.dn.down) ∧
      State.reportsOnly (s.framed { v with clk := { v.clk with
        flushes := if (u.hhl p).down then modAt (4 + hhlCode p) (· + 1) v.clk.flushes else v.clk.flushes } }) r)) ∧
    ((u.hhl p).trained = true → completes (.hhlDown t p) s (fun r =>
      let v := u.modHhl p (fun h => { h with trained := false, down := true, t1 := none, streams := [] })
      r.cas = v.cas ∧ r.cond fHhlDown = true ∧ State.reportsOnly (s.framed v) r)) ∧
    (∀ t1 sub t2 t3, (u.hhl p).t1 = some t1 → completes (.echo t sub p t2 t3) s (fun r =>
      r = s.framed (u.modHhl p (fun h => { h with
        d := (rheDiv ((u.hhlReceived p u.now sub - t1) - ((t3 : Int) - t2)) 2).toNat, t1 := none })))) ∧
    (∀ w : WordGroupIn, u.cas.st = .member → (u.hhl p).trained = true →
      (w.items = [] → completes (.wordGroup t p w) s (fun r =>
        (r.hhl p).lastIdx = w.index ∧ (r.hhl p).streams = w.streams ∧ (r.hhl p).farFenced = w.fenced ∧
        r.cas.hbMissed = (if w.hb then 0 else u.cas.hbMissed) ∧ r = s.framed { u with cas := r.cas })) ∧
      (∀ d, w.items = [.command d] → w.hb = false → u.isMaster = false → completes (.wordGroup t p w) s (fun r =>
        r.cas.nextTick = u.cas.nextTick ++ [d] ∧ r = s.framed { u with cas := r.cas })))

/-- Elections. Two quiet ticks, or a low phase longer than 4 µs, make a device that may become master pull CLAP for 8 bit times; one that
may not waits. The first arbitration makes the device that beats every other one master, and a joining device then forms its own
cascade; the second one gives the deputy. A tick mark is a sign of a master; a master that hears a better one stops and is FENCED
(R310 to R312, R325, R327). -/
def Rules.CascadeElections : Prop :=
  ∀ (s : State) (t : Nat), s.live →
    let u := s.advance t
    let pulled : State := { u with cas := { u.cas with clapLow := true, election := some ⟨u.now + 8 * 2048, false, true⟩ } }
    (u.mayMaster = true → u.cas.election = none → 2 ≤ u.cas.quiet → completes (.electionStart t) s (fun r => r = s.framed pulled)) ∧
    (∀ low, u.cas.st ≠ .alone → 3933 ≤ low → u.cas.election = none →
      (u.mayMaster = true → completes (.electionDetect t low) s (fun r => r = s.framed pulled)) ∧
      (u.mayMaster = false → completes (.electionDetect t low) s (fun r =>
        r = s.framed { u with cas := { u.cas with election := some ⟨u.now + 8 * 2048, false, false⟩ } }))) ∧
    (∀ e others found place, u.cas.election = some e → e.second = false →
      (e.takesPart = true → (∀ o, o ∈ others → o.1 ≠ 0 → beats u.bid o = true) →
        (u.cas.st = .member → completes (.masterArbitrationEnd t others found place) s (fun r =>
          r.cas.master = u.cas.self ∧ r.cas.tables = u.cas.tables ∧ r.cas.clapLow = false)) ∧
        (u.cas.st = .joining → completes (.masterArbitrationEnd t others found place) s (fun r =>
          r.cas.st = .member ∧ r.cas.self = place ∧ r.cas.master = place ∧ r.cas.epoch = 0 ∧ r.cas.clapLow = false))) ∧
      (∀ o, others = [o] → o.1 ≠ 0 → o.2 < 2 ^ 64 → e.takesPart = false ∨ beats u.bid o = false → u.cas.st = .member →
        completes (.masterArbitrationEnd t others found place) s (fun r =>
          r.cas.master = casIndexOf u.cas.tables o.2 ∧ r.cas.tables = u.cas.tables ∧ r.cas.clapLow = false))) ∧
    (∀ e, u.cas.election = some e → e.second = true → u.cas.st = .member → completes (.deputyArbitrationEnd t []) s (fun r =>
      r.cas.election = none ∧ r.cas.deputy = (if e.takesPart = true ∧ u.straps.mstrPri ≠ 0 then u.cas.self else 0xFF))) ∧
    (∀ low pri serial, u.cas.st ≠ .alone → low ≤ 3932 →
      (u.isMaster = false → completes (.tickMark t low pri serial) s (fun r =>
        r = s.framed { u with cas := { u.cas with heard := true } })) ∧
      (u.isMaster = true → serial ≠ u.fuses.serial.toNat → beats u.bid (pri, serial) = false → u.cas.fence = none →
        completes (.tickMark t low pri serial) s (fun r =>
          r.cas.master = 0xFF ∧ r.cas.clapLow = true ∧ r.cas.fence = some fenceConfig ∧ r.cond fCasFenced = true)))

/-- Losses. A deputy that misses the heartbeat for 4 Plain samples is master from the next Plain-sample boundary and opens the second
arbitration; the loss of another member sets its flag, ends a deputy's role, and at the master puts new tables on their way
(R324, R327). -/
def Rules.CascadeLosses : Prop :=
  ∀ (s : State) (t : Nat), s.live →
    let u := s.advance t
    (∀ missed, u.isDeputy = true → 4 ≤ missed →
      let v := ({ u with cas := { u.cas with hbMissed := missed } } : State).advance (alignNext perSample u.now)
      completes (.heartbeatLoss t missed) s (fun r =>
        r.cas.master = v.cas.self ∧ r.cas.election = some ⟨v.now, true, false⟩ ∧ r.cas.deputy = 0xFF ∧ r.now = v.now ∧
        r.cas.next.isSome = true)) ∧
    (∀ i, u.cas.st = .member → i ≠ u.cas.self → i ≠ u.cas.master → u.memberPresent i = true → u.phase = .released →
      completes (.casMemberLost t i) s (fun r =>
        r.flag fMemberLost = true ∧ r.cas.deputy = (if i = u.cas.deputy then 0xFF else u.cas.deputy) ∧
        (u.isMaster = true → r.cas.next.isSome = true) ∧ r.cas.master = u.cas.master))

/-- Elections and losses in a cascade: Rules.CascadeElections, Rules.CascadeLosses, together. -/
def Obligations.CascadeRoles : Prop := Rules.CascadeElections ∧ Rules.CascadeLosses

/-- CLAPPER. It leaves the delay and the time error of its port and counts for a join. At a member whose master it names: within 50 ns the
tick is good and no fence begins; beyond 1 ms the member is FENCED. A Clapper of a master that the table does not hold fences the
member unless an election is on (R313 to R317, R325). -/
def Obligations.CascadeClapper : Prop :=
  ∀ (s : State) (t sub : Nat) (p : HhlPort) (pri d : Nat) (c : ClapperIn), s.live →
    let u := s.advance t
    let e : Int := u.hhlReceived p u.now sub - ((c.tSend : Int) + d)
    u.cas.st ≠ .alone → (u.hhl p).trained = true →
    (u.cas.st = .joining → completes (.clapper t sub p pri d c) s (fun r =>
      (r.hhl p).d = d ∧ (r.hhl p).e = e ∧ r.cas.clapTicks = u.cas.clapTicks + 1 ∧ r.cas.heard = true ∧
      r = s.framed { u with cas := r.cas })) ∧
    (u.cas.st = .member → u.isMaster = false → u.knownMaster c = true → c.tickIdx = u.tick * 1024 →
      (e.natAbs ≤ lim50ns → completes (.clapper t sub p pri d c) s (fun r =>
        (r.hhl p).e = e ∧ r.cas.master = c.master ∧ r.cas.good = u.cas.good + 1 ∧ r.cas.over50 = 0 ∧
        r.cas.fence = u.cas.fence)) ∧
      (lim1ms < e.natAbs → u.cas.fence = none → completes (.clapper t sub p pri d c) s (fun r =>
        (r.hhl p).e = e ∧ r.cas.good = 0 ∧ r.cas.fence = some fenceTime ∧ r.cas.fenceHard = true ∧
        r.cond fCasFenced = true))) ∧
    (u.cas.st = .member → u.isMaster = false → u.knownMaster c = false → u.cas.fence = none →
      (u.cas.election = none → completes (.clapper t sub p pri d c) s (fun r =>
        r.cas.fence = some fenceRole ∧ r.cond fCasFenced = true ∧ r.cas.master = u.cas.master)) ∧
      (u.cas.election.isSome = true → completes (.clapper t sub p pri d c) s (fun r =>
        r.cas.fence = none ∧ r.cas.master = u.cas.master ∧ r = s.framed { u with cas := r.cas })))

/-- What the master announces comes into force at its boundary: a Timebase change at the next Plain sample, an epoch at its tick with
its tables, the changes that wait behind it being announced next (R318, R324). -/
def Rules.CascadeChanges : Prop :=
  ∀ (s : State) (t : Nat), s.live →
    (s.cas.tbchg = none → completes (.tbchgApply t) s (fun r => r = s.framed (s.advance t))) ∧
    (s.cas.tbchg.isSome = true →
      let u := s.advance (alignUp perSample (max t s.now))
      (∀ inc b, u.cas.tbchg = some (.freq inc, b) → completes (.tbchgApply t) s (fun r =>
        r.tb.inc = inc ∧ r.cas = { u.cas with tbchg := none } ∧
        r = s.framed { u with cas := r.cas, tb := r.tb })) ∧
      (∀ sec ns b, u.cas.tbchg = some (.set sec ns, b) → completes (.tbchgApply t) s (fun r =>
        r.tb.unset = false ∧ r.cas.tbchg = none ∧ r.tb.inc = u.tb.inc))) ∧
    (∀ m, s.cas.next = some m →
      let u := s.advance (max t (m.tick * perTick))
      ∀ n, u.cas.next = some n → completes (.epochApply t) s (fun r =>
        r.cas.epoch = n.epoch ∧ r.cas.tables.items = n.tables.items ∧ r.cas.tables.groups = n.tables.groups ∧
        (u.cas.queued = [] → r.cas.next = none) ∧
        (∀ q qs, u.cas.queued = q :: qs → r.cas.queued = qs ∧ r.cas.next.map EpochNext.tables = some q)))

/-- Joining, fencing. After 16 ticks of Clapper a joining device of the master's major version that gets an index takes the master's Plain
sample index; otherwise the join fails. Frequencies more than 0.01 ppm apart, or WAIT's end, make it fail too; agreement makes the
aligned device a member. A mismatch of configuration of two ticks fences a member; 4 matching or 16 good ticks end a fence, but not one
that lasts until CAS_LEAVE (R309, R315, R317, R325, R330). -/
def Rules.CascadeJoins : Prop :=
  ∀ (s : State) (t : Nat), s.live →
    let u := s.advance t
    (∀ j : JoinIn, u.cas.st = .joining → 16 ≤ u.cas.clapTicks → u.cas.aligned = none →
      (j.major ≠ u.boot.fwMajor.toNat ∨ j.index = none → completes (.joinAlign t j) s (fun r => r.cas.st = .alone)) ∧
      (∀ i, j.index = some i → j.major = u.boot.fwMajor.toNat → completes (.joinAlign t j) s (fun r =>
        r.now = j.plain * perSample ∧ r.cas.aligned = some (i, j.tables, j.epoch) ∧ r.cas.st = .joining ∧
        r.tb.inc = j.inc ∧ r.tb.unset = j.unset))) ∧
    (∀ freq : Int, u.cas.st = .joining →
      (100 < freq.natAbs → completes (.refCompareEnd t freq) s (fun r =>
        r.cas.st = .alone ∧ (u.phase = .released → r.flag fRefMismatch = true))) ∧
      (∀ i tabs ep c, freq.natAbs ≤ 100 → u.cas.aligned = some (i, tabs, ep) → u.cas.lastClap = some c →
        completes (.refCompareEnd t freq) s (fun r =>
          r.cas.st = .member ∧ r.cas.self = i ∧ r.cas.master = c.master ∧ r.cas.epoch = ep ∧ r.cas.aligned = none))) ∧
    (u.cas.st = .joining → u.cas.waitEnd ≤ u.tick → u.cas.aligned = none → completes (.joinTimeout t) s (fun r =>
      r.cas = { Cas.reset with sent := r.cas.sent })) ∧
    (u.cas.st = .member → u.isMaster = false → u.cas.fence = none →
      (2 ≤ u.cas.mismatch → completes (.configMismatch t) s (fun r =>
        r.cas.fence = some fenceConfig ∧ r.cond fCasFenced = true ∧ r.cas.st = .member)) ∧
      (u.cas.mismatch < 2 → completes (.configMismatch t) s (fun r => r = s.framed u))) ∧
    (∀ c, u.cas.fence = some c →
      (u.cas.fenceHard = false → (c = fenceConfig ∧ 4 ≤ u.cas.matching) ∨ (c = fenceTime ∧ 16 ≤ u.cas.good) →
        completes (.casUnfence t) s (fun r =>
          r.cas.fence = none ∧ r.cond fCasFenced = false ∧ r.cas.master = u.cas.master ∧
          State.reportsOnly (s.framed { u with cas := r.cas }) r)) ∧
      (u.cas.fenceHard = true → completes (.casUnfence t) s (fun r => r = s.framed u)))

/-- Joins, fences and announced changes: Rules.CascadeChanges, Rules.CascadeJoins, together. -/
def Obligations.CascadeMembers : Prop := Rules.CascadeChanges ∧ Rules.CascadeJoins

/-! ## The PCIe side, rings, interrupts -/

/-- What a register write that reaches the endpoint does besides: it wakes a stopped management clock (R33). -/
def Rules.woken (s : State) : State := { s with clk := { s.clk with wakeReq := s.clk.wakeReq || s.clk.mgmtStopped } }

/-- A command resets the PCIe side alone, while the endpoint answers. -/
def Rules.resetsPcie (s : State) (t : Nat) (c : Instr) : Prop :=
  let u := s.advance t
  (u.host.epReady = true → completes c s (fun r =>
    r.host.epReady = false ∧ r.host.cmdEn = true ∧ r.host.rings = HostIf.reset.rings ∧ r.host.msix = Msix.reset ∧ r.host.waitq = [] ∧
    r.host.groups = u.host.groups ∧ r.host.sb = u.host.sb ∧ (∀ q, r.life q = u.life q) ∧ r.mram = u.mram ∧
    r.tb = { u.tb with ptmEnabled := false, ptmT1 := none } ∧ r.clk.flushes = modAt 6 (· + 1) u.clk.flushes ∧
    (u.phase = .released → r.flag fCrossFlush = true))) ∧
  (u.host.epReady = false → completes c s (fun r => r = s.framed u))

/-- PERST_N, a hot reset and a function-level reset reset the PCIe side alone: the rings are disabled, CMD_EN is 1, the endpoint waits for
ENDPOINT_READY, its crossing is flushed; objects, Timebase and MRAM keep their contents (R34, R337, R450). -/
def Rules.PcieResets : Prop :=
  (∀ (s : State) (t : Nat), s.live →
    Rules.resetsPcie s t (.perstN t) ∧ Rules.resetsPcie s t (.hotReset t) ∧ Rules.resetsPcie s t (.functionLevelReset t)) ∧
  (∀ s : State, s.live → s.phase ≠ .porst → s.phase ≠ .warm → completes .endpointReady s (fun r =>
    r = s.framed { s with host := { s.host with epReady := true } }))

/-- Writes to the endpoint. REGISTER_WRITE sets the register it names; an unaligned write of BAR0 and a write of BAR2 set none; while
ENABLE is 1 a ring's registers keep their values. CMD_EN, SHADOW_NOW, RING_ENABLE, RING_DISABLE (which a later RING_ENABLE does not undo)
and doorbells are noted for the next tick boundary. Each wakes the management clock, and changes nothing else (R33, R336, R338 to R340, R342, R344). -/
def Rules.HostWrites : Prop :=
  ∀ (s : State) (t : Nat), s.live →
    let u := s.advance t
    u.host.epReady = true →
    (∀ on, completes (.cmdEn t on) s (fun r => r = s.framed (Rules.woken { u with host := { u.host with cmdEn := on } }))) ∧
    completes (.shadowNow t) s (fun r => r = s.framed (Rules.woken { u with host := { u.host with shadowNow := true } })) ∧
    (∀ i ctl ctx, completes (.ringEnable t i ctl ctx) s (fun r => r = s.framed (Rules.woken (u.modRing i (fun x =>
      if x.enable then x else { x with enable := true, regCtl := ctl &&& 0x7FFFF, regCtx := fitBytes 48 ctx }))))) ∧
    (∀ i, completes (.ringDisable t i) s (fun r => r = s.framed (Rules.woken (u.modRing i (fun x =>
      { x with cleared := x.cleared || x.enable, enable := false }))))) ∧
    (∀ i v entries, completes (.doorbellWrite t i v entries) s (fun r =>
      r = s.framed (Rules.woken (u.modRing i (fun x => { x with bells := x.bells ++ [(u.now, v, entries)] }))))) ∧
    (∀ v : Word64,
      completes (.registerWrite t (.bar0 8) 32 v) s (fun r => r = s.framed (Rules.woken { u with
        host := { u.host with cmdEn := v.getLsbD 0, shadowNow := u.host.shadowNow || v.getLsbD 1 } })) ∧
      (∀ i, i < 64 → (u.ring i).enable = false → u.host.rings.length = 64 →
        completes (.registerWrite t (.bar0 (0x100 + 32 * i)) 64 v) s (fun r =>
          (r.ring i).regBase = v &&& 0xFFFFFFFFFFFFFFC0 ∧ (∀ j, j ≠ i → r.ring j = u.ring j) ∧
          State.hostOnly (s.framed (Rules.woken u)) r)) ∧
      (∀ i k, i < 64 → k < 8 → (u.ring i).enable = true → completes (.registerWrite t (.bar0 (0x100 + 32 * i + 4 * k)) 32 v) s (fun r =>
        r = s.framed (Rules.woken u))) ∧
      (∀ a, a % 4 ≠ 0 → completes (.registerWrite t (.bar0 a) 32 v) s (fun r => r = s.framed (Rules.woken u))) ∧
      (∀ a bits, completes (.registerWrite t (.bar2 a) bits v) s (fun r => r = s.framed u)) ∧
      completes (.registerWrite t .ptmEnable 32 v) s (fun r =>
        r = s.framed (Rules.woken { u with tb := { u.tb with ptmEnabled := v.getLsbD 0 } })) ∧
      completes (.registerWrite t .msixFunctionMask 32 v) s (fun r =>
        r.host.msix.funcMask = v.getLsbD 0 ∧ State.hostOnly (s.framed (Rules.woken u)) r))

/-- Resets of the PCIe side, writes to the endpoint: Rules.PcieResets, Rules.HostWrites, together. -/
def Obligations.EndpointWrites : Prop := Rules.PcieResets ∧ Rules.HostWrites

/-- HOST_DMA_FAIL puts a ring that runs, or is about to start, into ERROR with ERR 6 and sets RING_ERROR; IRQ_MODERATION_TIMEOUT signals a
ring's vector once MOD_TIME has passed since its first record that was not signalled; MSIX_UNMASK sends what a mask has held back, one
message a vector (R345, R356). -/
def Obligations.RingEvents : Prop :=
  ∀ (s : State) (t : Nat), s.live →
    let u := s.advance t
    (∀ i,
      ((u.ring i).st = .running ∨ ((u.ring i).enable = true ∧ (u.ring i).st = .disabled) → u.phase = .released →
        completes (.hostDmaFail t i) s (fun r => (r.ring i).st = .error ∧ (r.ring i).err = 6 ∧ r.flag fRingError = true)) ∧
      ((u.ring i).st ≠ .running → (u.ring i).enable = false → completes (.hostDmaFail t i) s (fun r => r = s.framed u))) ∧
    (∀ i, (u.ring i).st = .running → (u.ring i).irqEn = true → (u.ring i).modTime ≠ 0 → 0 < (u.ring i).unsig →
      (u.ring i).firstUnsig + (u.ring i).modTime ≤ u.now / perFrame →
      completes (.irqModerationTimeout t i) s (fun r =>
        (r.ring i).unsig = 0 ∧ (∀ j, j ≠ i → r.ring j = u.ring j) ∧ State.hostOnly (s.framed u) r ∧
        (if u.host.msix.enable = true ∧ u.host.msix.funcMask = false ∧ u.host.msix.mask.getLsbD (u.ring i).vector.toNat = false then
          r.host.msix.sent = u.host.msix.sent ++ [(u.ring i).vector.toNat] ∧ r.host.msix.pend = u.host.msix.pend
        else r.host.msix.sent = u.host.msix.sent ∧ r.host.msix.pend.getLsbD (u.ring i).vector.toNat = true))) ∧
    (∀ v, v < 64 → u.host.epReady = true → u.host.msix.enable = true → u.host.msix.funcMask = false →
      u.host.msix.pend.getLsbD v = true → u.host.msix.mask.getLsbD v = true → completes (.msixUnmask t (.unmask v)) s (fun r =>
        v ∈ r.host.msix.sent.drop u.host.msix.sent.length ∧ r.host.msix.mask.getLsbD v = false ∧
        r.host.msix.pend.getLsbD v = false ∧ State.hostOnly (s.framed (Rules.woken u)) r)) ∧
    (u.host.epReady = true → u.host.msix.funcMask = true → completes (.msixUnmask t .enable) s (fun r =>
      r = s.framed (Rules.woken { u with host := { u.host with msix := { u.host.msix with enable := true } } }))) ∧
    (u.host.epReady = true → u.host.msix.enable = false → completes (.msixUnmask t .clearFunctionMask) s (fun r =>
      r = s.framed (Rules.woken { u with host := { u.host with msix := { u.host.msix with funcMask := false } } })))

/-! ## Storage, life cycle, pending group commands -/

/-- The write of a persisted Dailies entry that reads back well ends (R439). WIPE_OVERWRITE_END ends a wipe, and a warm reset follows when
RESET asked for it (R461). -/
def Rules.StoredRecords : Prop :=
  ∀ (s : State) (t : Nat), s.live →
    let u := s.advance t
    (∀ seq a, u.log.writing.find? (fun w => w.1 == seq) = some (seq, a) → completes (.nvmWriteDone t idDailies seq true) s (fun r =>
      r.log.writing = u.log.writing.filter (fun w => w.1 != seq) ∧ r = s.framed { u with log := r.log, mram := r.mram })) ∧
    (∀ w, u.wipeRun = some w →
      (w.reset = false → completes (.wipeOverwriteEnd t) s (fun r =>
        r = s.framed { u with wipeRun := none, mram := if w.records then { u.mram with dailies := [] } else u.mram })) ∧
      (w.reset = true → u.phase = .released → completes (.wipeOverwriteEnd t) s (fun r =>
        r.phase = .warm ∧ r.lastCause = .lifeCycle ∧ r.wipeRun = none)))

/-- LC_CHANGE carries out the step that LC_ADVANCE left pending: its fuses are blown, the debug port closes with DBG_LOCK, both regions
lose every copy and every persisted entry, and a warm reset follows (R457, R460, R463). -/
def Rules.LifeCycleStep : Prop :=
  ∀ (s : State) (p : LcPending) (a b : Bool), s.live → s.lcPending = some p → s.flags.halted = false →
    completes (.lcChange a b) s (fun r =>
      r.phase = .warm ∧ r.lastCause = .lifeCycle ∧ r.resetPin = true ∧ r.lcPending = none ∧
      r.fuses = s.fuses.step_ p a b ∧ r.fuses.serial = s.fuses.serial ∧
      (p.target = 1 → pairBlown r.fuses.lcP = true ∧ r.fuses.keyO = p.keyO) ∧
      (p.target = 2 → pairBlown r.fuses.lcF = true ∧ pairBlown r.fuses.dbg = true) ∧
      (r.fuses.dbgLock = true → r.tap.debugOpen = false ∧ r.tap.ir ≠ .debug) ∧
      r.mram.dailies = [] ∧ r.mram.recs.all (fun x => !(profileIds ++ recordIds).contains x.1) = true ∧
      r.straps = s.straps ∧ r.pending = s.pending)

/-- STORYBOARD_REPLAY_START, at the first tick boundary after the start-up runs have ended, begins the replay of the stored entries;
with both copies bad it begins STORYBOARD_BAD's condition (R384, R385, R455). GROUP_AT_INDEX: at its index a single pending command of
a group is no longer pending (R371). -/
def Rules.ReplayAndIndex : Prop :=
  (∀ s : State, s.live →
    let u := if s.atTick then s else s.advance (alignUp perTick s.now)
    u.phase = .released → u.boot.ready = true → u.boot.readyTick < u.tick → u.startupDone = true → u.flags.halted = false →
    (u.host.sb.st = .bad → completes .storyboardReplayStart s (fun r => r.cond fStoryboardBad = true ∧ r.host.sb.st = .bad)) ∧
    (∀ im, u.host.sb.st = .none → u.replaySkipped = false → u.host.open_ = false → u.mram.body idStoryboard = some im →
      leAt im 6 2 ≠ 0 →
      let v : State := { u with host := { u.host with sb := { u.host.sb with
        st := .replaying, todo := imageEntries im (leAt im 6 2) 0 32, nent := leAt im 6 2,
        buildRun := BitVec.ofNat 32 (leAt im 8 4), stopOnError := (leAt im 12 1).testBit 0, lastTick := u.tick } } }
      completes .storyboardReplayStart s (fun r => r = s.framed (if u.atTick then v.replayStep else v)))) ∧
  (∀ (s : State) (g : Nat) (q : GroupPend), s.live → s.clk.divReset = true → (s.group g).pend = [q] →
    let i := if q.isRun then q.index * perSample else alignUp perFrame (q.index * perSample)
    let u := s.advance i
    completes (.groupAtIndex g) s (fun r =>
      i ≤ r.now ∧ (r.group g).pend.all (fun x => x.index != q.index) = true ∧
      State.hostOnly (s.framed u) r))

/-- Persisted entries, wipes, life-cycle steps, replay: Rules.StoredRecords, Rules.LifeCycleStep, Rules.ReplayAndIndex, together. -/
def Obligations.StoredAndLifeCycle : Prop := Rules.StoredRecords ∧ Rules.LifeCycleStep ∧ Rules.ReplayAndIndex

/-! ## Host commands: take-up -/

/-- A host command whose descriptor the controller takes up at this boundary: the ring's entry is released, the checks of R347 and R376 and
the command's own decide, and unless it waits or is carried to other members its completion record follows, whole, on the paired CPL
ring. One that waits is noted with what it waits for. Nothing else changes than what its judgement says. A descriptor that something
defers stays queued; one whose read fails puts its ring into ERROR (R345 to R350). -/
def Obligations.CommandsTakenUp : Prop :=
  ∀ (s : State) (c : Instr) (d : Desc), s.live → hostDesc c = some d →
    let u := s.releaseEntry d.ring
    let cpl := (s.ring d.ring).pair
    let r := u.judge .own (s.ring d.ring).bufSize d
    (s.takesNow d = true → r.carry = [] →
      (r.wait = none → completes c s (fun t =>
        State.completionOnly (s.framed r.s) t ∧
        (¬ (d.cplErrOnly = true ∧ r.status = .ok) → (r.s.ring cpl).st = .running → r.s.flags.halted = false →
          (r.s.ring cpl).filled < (r.s.ring cpl).entries →
          (t.ring cpl).out = (r.s.ring cpl).out ++ [completion d r.status r.detail (r.ret.take d.plen.toNat).length
            ((r.s.ring cpl).stream keyCpl).seq ((r.s.ring cpl).stream keyCpl).fresh false false
            (r.s.t64At (r.time.getD r.s.now))]) ∧
        ((d.cplErrOnly = true ∧ r.status = .ok) → (t.ring cpl).out = (r.s.ring cpl).out))) ∧
      (∀ why marked, r.wait = some (why, marked) → completes c s (fun t =>
        t.host.waiting = r.s.host.waiting ++ [⟨d, cpl, none, why, marked⟩] ∧ State.hostOnly (s.framed r.s) t))) ∧
    ((s.ring d.ring).holdsCommands = true → s.queuedOn d.ring = true ∨ s.canTake d = false → completes c s (fun t =>
      t = s.framed { s with host := { s.host with waitq := s.host.waitq ++ [d] } })) ∧
    ((s.ring d.ring).holdsCommands = false → completes c s (fun t => t = s)) ∧
    ((s.ring d.ring).holdsCommands = true → s.queuedOn d.ring = false → s.canTake d = true → d.readOk = false →
      completes c s (fun t => (t.ring d.ring).st = .error ∧ (t.ring d.ring).err = 6 ∧ t.flag fRingError = true))

/-! ## Host commands: objects -/

/-- OBJ_OPEN takes an object from CLOSED to HELD with the reset values of every field, and leaves any other one as it is; OBJ_RUN
commands the run of a HELD object that passes its test, leaves an object in RUN as it is, and is not permitted for a capture; OBJ_QUERY
returns the object's block and clears what counts since the last query, or fails for a buffer that is too short
(R359 to R361, R378). -/
def Rules.ObjectRuns : Prop :=
  ∀ (s : State) (d : Desc) (q : Ref), let u := s.releaseEntry d.ring
    u.refOf d.object = some q →
    (q.kind ≠ .group → (u.life? q).isSome = true → s.accepted (withOp opOpen d) = true →
      ((u.life q).cmd = .closed → (u.life q).eff ≠ .run → completes (.objOpen d) s (fun t =>
        t.life q = Life.at .held (resetBlk q.kind) ∧
        State.completionOnly (s.framed (
          let v := u.modLife q (fun _ => Life.at .held (resetBlk q.kind))
          if q.kind = .conv then v.modConv q.idx (fun x => { x with powered := true }) else v)) t)) ∧
      ((u.life q).cmd ≠ .closed → completes (.objOpen d) s (State.completionOnly (s.framed u)))) ∧
    (q.kind ≠ .group → (u.life? q).isSome = true → s.accepted (withOp opRun d) = true →
      ((u.life q).cmd = .held → (u.life q).laterHold u.now = false → q.kind ≠ .cap → u.runCheck q u.now = .ok →
        completes (.objRun d) s (fun t => ∃ l : Life, l.cmd = .run ∧ l.dueAt.isSome = true ∧ l.blk = (u.life q).blk ∧
          l.eff = (u.life q).eff ∧ t.life q = l ∧ State.hostSideOnly (s.framed (u.modLife q (fun _ => l))) t)) ∧
      ((u.life q).cmd = .run → (u.life q).laterRun u.now = false → completes (.objRun d) s (State.completionOnly (s.framed u))) ∧
      (q.kind = .cap → completes (.objRun d) s (State.completionOnly (s.framed u)))) ∧
    (s.accepted (withOp opQuery d) = true →
      let block := u.settle.queryBlock q
      (block.length ≤ d.plen.toNat → completes (.objQuery d) s (fun t =>
        State.completionOnly (s.framed (u.queried q)) t ∧
        (block ≠ [] → t.host.bufOut = s.host.bufOut ++ [(d.bufAddr, block)]))) ∧
      (d.plen.toNat < block.length → completes (.objQuery d) s (State.completionOnly (s.framed u))))

/-- OBJ_HOLD commands the hold of an object in RUN, whose output goes on to its boundary, and leaves any other object as it is; a capture
is HELD or stops with its block in progress. OBJ_CLOSE closes the object, at once when it does not run, with its fields discarded
(R103, R359, R360). -/
def Rules.ObjectHolds : Prop :=
  ∀ (s : State) (d : Desc) (q : Ref), let u := s.releaseEntry d.ring
    u.refOf d.object = some q → q.kind ≠ .group → (u.life? q).isSome = true →
    (s.accepted (withOp opHold d) = true →
      ((u.life q).cmd ≠ .run → (u.life q).laterHold u.now = false →
        completes (.objHold d) s (State.completionOnly (s.framed u))) ∧
      ((u.life q).cmd = .run → q.kind ≠ .cap → q.kind ≠ .ee → completes (.objHold d) s (fun t => ∃ l : Life,
        l.cmd = .held ∧ l.eff = (u.life q).eff ∧ l.blk = (u.life q).blk ∧ l.dueAt = none ∧ t.life q = l ∧
        State.answersOnly (s.framed (u.modLife q (fun _ => l))) t)) ∧
      ((u.life q).cmd = .run → q.kind = .ee → completes (.objHold d) s (fun t =>
        (t.life q).cmd = .held ∧ (t.life q).blk = (u.life q).blk)) ∧
      ((u.life q).cmd = .run → q.kind = .cap → completes (.objHold d) s (fun t =>
        (t.life q).cmd = .held ∨ (t.capR q.idx).stopping = true))) ∧
    (s.accepted (withOp opClose d) = true →
      ((u.life q).cmd = .closed → completes (.objClose d) s (State.completionOnly (s.framed u))) ∧
      ((u.life q).cmd ≠ .closed → completes (.objClose d) s (fun t => (t.life q).cmd = .closed)) ∧
      ((u.life q).cmd = .held → (u.life q).eff = .held → completes (.objClose d) s (fun t =>
        (t.life q).eff = .closed ∧ (t.life q).blk = resetBlk q.kind ∧ (t.life q).holdAt = none)))

/-- OBJ_OPEN, OBJ_RUN, OBJ_QUERY, OBJ_HOLD, OBJ_CLOSE: Rules.ObjectRuns, Rules.ObjectHolds, together. -/
def Obligations.ObjectCommands : Prop := Rules.ObjectRuns ∧ Rules.ObjectHolds

/-! ## Host commands: fields -/

/-- A SET command with an inline block stores it, its reserved bits zero, in an object that is not in RUN when every check passes, and
changes nothing otherwise. -/
def Rules.setsBlock (s : State) (d : Desc) (q : Ref) (c : Instr) (op : Nat) : Prop :=
  let u := s.releaseEntry d.ring
  let b : Blk := d.inl.zeroExtend 1280 &&& kindMask q.kind
  s.accepted (withOp op d) = true →
  ((u.life q).cmd ≠ .run → firstFail (u.setChecks q b) = none → completes c s (State.completionOnly (s.framed (u.setBlk q b)))) ∧
  ((u.life q).cmd = .run ∨ (firstFail (u.setChecks q b)).isSome = true → completes c s (State.completionOnly (s.framed u)))

/-- The SET commands store the block of an object that is not in RUN, its reserved bits zero; a block with a field that fails its check,
and an object in RUN, leave everything as it is (R359, R364, R376). -/
def Rules.SetCommands : Prop :=
  ∀ (s : State) (d : Desc) (q : Ref), let u := s.releaseEntry d.ring
    u.refOf d.object = some q →
    Rules.setsBlock s d q (.passSet d) opPassSet ∧ Rules.setsBlock s d q (.demodSet d) opDemodSet ∧
    Rules.setsBlock s d q (.eeSet d) opEeSet ∧ Rules.setsBlock s d q (.progSet d) opProgSet ∧
    Rules.setsBlock s d q (.carrierSet d) opCarrierSet ∧
    (s.accepted (withOp opPortSet d) = true →
      let b : Blk := blockOf 1280 d.bytes &&& kindMask q.kind
      ((u.life q).cmd ≠ .run → 8 ≤ d.plen.toNat → d.plen.toNat ≤ 136 → d.plen.toNat % 4 = 0 → firstFail (u.setChecks q b) = none →
        completes (.portSet d) s (State.completionOnly (s.framed (u.setBlk q b)))) ∧
      ((u.life q).cmd = .run ∨ d.plen.toNat < 8 ∨ 136 < d.plen.toNat ∨ d.plen.toNat % 4 ≠ 0 →
        completes (.portSet d) s (State.completionOnly (s.framed u)))) ∧
    (s.accepted (withOp opCueSet d) = true →
      let b : Blk := d.inl.zeroExtend 1280 &&& kindMask .cue
      ((u.life q).cmd ≠ .run → cueBad b = none → completes (.cueSet d) s (State.completionOnly (s.framed (u.setBlk q b)))) ∧
      ((u.life q).cmd = .run ∨ (cueBad b).isSome = true → completes (.cueSet d) s (State.completionOnly (s.framed u))))

/-- LIVE_SET stores live fields in HELD, and in RUN applies them at a boundary to come, the fields in effect staying till then. AF_LIST_SET
and AF_POLICY_SET store a programme's list and policy (R196 to R198, R365). -/
def Rules.LiveAndFollow : Prop :=
  ∀ (s : State) (d : Desc) (q : Ref), let u := s.releaseEntry d.ring
    u.refOf d.object = some q →
    (s.accepted (withOp opLiveSet d) = true → q.kind ≠ .group → liveWords q.kind ≠ 0 → 1 ≤ d.inlByte 0 → d.inlByte 0 ≤ 3 →
      d.inlByte 1 = q.kind.code → u.liveBad q (liveEntries d) = none → u.liveFits (u.liveObj (liveEntries d) q) q = true →
      let b := liveApply (liveEntries d) (u.life q).blk
      ((u.life q).cmd ≠ .run → completes (.liveSet d) s (State.completionOnly (s.framed (u.setBlk q b)))) ∧
      ((u.life q).cmd = .run → (u.life q).eff = .run → (u.life q).dueAt = none → completes (.liveSet d) s (fun t =>
        (t.life q).blk = b ∧ (t.life q).cmd = .run ∧ (t.life q).cur = (u.life q).cur ∧ (t.life q).liveAt.isSome = true))) ∧
    (∀ p, q = ⟨.prog, p⟩ →
      (s.accepted (withOp opAfList d) = true → d.plen.toNat % 16 = 0 → d.plen.toNat ≤ 176 → hostBad (hostList d.bytes) = none →
        (p < u.prog.length → completes (.afListSet d) s (fun t => (t.follow p).hostList = hostList d.bytes)) ∧
        ((u.follow p).st ≠ .following → completes (.afListSet d) s (State.completionOnly (s.framed
          (u.modFollow p (fun f => { f with hostList := hostList d.bytes })))))) ∧
      (s.accepted (withOp opAfPolicy d) = true →
        let b : BitVec 128 := d.inl.extractLsb' 0 128 &&& tableMask 128 afFields
        firstFail (policyChecks b) = none →
        (u.life q).cmd ≠ .run ∨ (fget b afMode = fget (u.follow p).policy afMode ∧
          fget b afAlignA = fget (u.follow p).policy afAlignA) →
        (∃ x ch, u.progSource (u.life q).blk = some (x, ch) ∧ (x.kind = .fmd ∨ x.kind = .amd ∨ x.kind = .ee)) →
        fget b afMode = 0 ∨ u.followedCount p < 8 →
        (p < u.prog.length → completes (.afPolicySet d) s (fun t => (t.follow p).policy = b)) ∧
        ((u.follow p).st ≠ .following → completes (.afPolicySet d) s (State.completionOnly (s.framed
          (u.modFollow p (fun f => { f with policy := b })))))))

/-- The SET commands, LIVE_SET, AF_LIST_SET, AF_POLICY_SET: Rules.SetCommands, Rules.LiveAndFollow, together. -/
def Obligations.FieldCommands : Prop := Rules.SetCommands ∧ Rules.LiveAndFollow

/-! ## Host commands: groups -/

/-- GROUP_DEFINE on a group whose members, old and new, lie on this device stores, adds or takes away members, or closes the group; the
members stay in order (R366, R367). -/
def Rules.GroupDefined : Prop :=
  ∀ (s : State) (d : Desc) (g : Nat), let u := s.releaseEntry d.ring
    u.refOf d.object = some ⟨.group, g⟩ → g < u.host.groups.length → s.accepted (withOp opGroupDefine d) = true →
    let n := d.plen.toNat
    let ids := (List.range (n / 4)).map (fun k => u.stored (BitVec.ofNat 32 (leAt d.bytes (4 * k) 4)))
    let old := (u.group g).members
    let new := if d.inlByte 0 = 0 then ids else if d.inlByte 0 = 1 then old ++ ids else old.filter (fun i => !ids.contains i)
    (n ≤ 1024 → n % 4 = 0 → d.inlByte 0 ≤ 2 → d.inlByte 0 = 0 ∨ (u.group g).defined = true →
      u.memberBad (d.inlByte 0) (u.stored d.object) old 0 [] ids = none → new.length ≤ 256 →
      u.groupEntries g + new.length ≤ 4096 → (new ++ old).all u.idLocal = true →
      completes (.groupDefine d) s (fun t =>
        t.group g = (if d.inlByte 0 = 0 ∧ n = 0 then { u.group g with defined := false, members := [] }
          else { u.group g with defined := true, members := new }) ∧
        State.hostSideOnly (s.framed u) t)) ∧
    (1024 < n ∨ n % 4 ≠ 0 ∨ 2 < d.inlByte 0 ∨ (d.inlByte 0 ≠ 0 ∧ (u.group g).defined = false) →
      completes (.groupDefine d) s (State.completionOnly (s.framed u)))

/-- A command, with a time in descriptor `e`, holds every member of a group in RUN at that time's boundary. -/
def Rules.holdsGroup (s : State) (d : Desc) (g : Nat) (c : Instr) (op : Nat) (e : Desc) : Prop :=
  let u := s.releaseEntry d.ring
  ∀ f0, s.accepted (withOp op d) = true → u.groupTime e true = .ok f0 → u.groupFenced d.object = false → u.cas.fence = none →
    completes c s (fun t =>
      (∀ q, q ∈ u.flatHere false d.object → (u.life q).cmd = .run → q.kind ≠ .cap →
        (t.life q).cmd = .held ∧ (t.life q).dueAt = none ∧ (t.life q).blk = (u.life q).blk ∧
        ((u.life q).eff = .run → (u.life q).holdAt = none → (t.life q).holdAt = some f0)) ∧
      (e.inlByte 0 = 1 → (t.group g).pend.length = (u.group g).pend.length + 1))

/-- A command, with a time in descriptor `e`, runs the members of a group that may start, every one or none. -/
def Rules.runsGroup (s : State) (d : Desc) (c : Instr) (op : Nat) (e : Desc) : Prop :=
  let u := s.releaseEntry d.ring
  ∀ t0, s.accepted (withOp op d) = true → u.groupTime e false = .ok t0 → u.groupFenced d.object = false →
    (u.groupRunFail (u.groupRunnable d.object) t0 = none → completes c s (fun t =>
      ∀ q, q ∈ u.groupRunnable d.object → (t.life q).cmd = .run ∧ (t.life q).dueAt.isSome = true ∧ (t.life q).viaGroup = true ∧
        (t.life q).blk = (u.life q).blk)) ∧
    ((u.groupRunFail (u.groupRunnable d.object) t0).isSome = true → completes c s (State.completionOnly (s.framed u)))

/-- Commands to a group that reaches no other device. GROUP_HOLD, and OBJ_HOLD as its IMMEDIATE form, command the hold of every member in
RUN at one boundary, the take-up's or INDEX's; GROUP_RUN and OBJ_RUN, when every member that is to start passes its test, command the
run of each, and of none otherwise; OBJ_OPEN opens the CLOSED members, OBJ_CLOSE closes every member and the group (R369 to R372). -/
def Rules.GroupCommands : Prop :=
  ∀ (s : State) (d : Desc) (g : Nat), let u := s.releaseEntry d.ring
    u.refOf d.object = some ⟨.group, g⟩ → g < u.host.groups.length → u.groupElsewhere d.object = [] →
    Rules.holdsGroup s d g (.groupHold d) opGroupHold d ∧ Rules.holdsGroup s d g (.objHold d) opHold (immediate d) ∧
    Rules.runsGroup s d (.groupRun d) opGroupRun d ∧ Rules.runsGroup s d (.objRun d) opRun (immediate d) ∧
    (s.accepted (withOp opOpen d) = true → (u.group g).defined = true → completes (.objOpen d) s (fun t =>
      ∀ q, q ∈ u.flatHere false d.object → (u.life? q).isSome = true → (u.life q).cmd = .closed → (u.life q).eff ≠ .run →
        t.life q = Life.at .held (resetBlk q.kind))) ∧
    (s.accepted (withOp opClose d) = true → (u.group g).members.all u.idLocal = true → completes (.objClose d) s (fun t =>
      (t.group g).defined = false ∧ (t.group g).members = [] ∧
      ∀ q, q ∈ u.flatHere false d.object → (t.life q).cmd = .closed))

/-- Commands to groups: Rules.GroupDefined, Rules.GroupCommands, together. -/
def Obligations.GroupActions : Prop := Rules.GroupDefined ∧ Rules.GroupCommands

/-! ## Host commands: Timebase, pulse inputs -/

/-- TB_SET sets the counter and clears UNSET; STEP moves it and SLEW starts a slew, its rate staying; FREQ changes the rate alone; STATUS
returns the block of R286 and changes nothing (R284, R286, R302, R303). -/
def Obligations.TimebaseCommands : Prop :=
  ∀ (s : State) (d : Desc), let u := s.releaseEntry d.ring
    (s.accepted (withOp opTbSet d) = true → d.inlAt 6 4 ≤ 999999999 → u.carriersRun = false → completes (.tbSet d) s (fun t =>
      t.tb.total = (d.inlAt 0 6 * 10 ^ 9 + d.inlAt 6 4) * 2 ^ 32 ∧ t.tb.unset = false ∧ t.tb.inc = u.tb.inc ∧
      t.tb.slew = u.tb.slew)) ∧
    (let e := withMode opTbAdj 0 d; s.accepted e = true → u.carriersRun = false → completes (.tbAdjStep d) s (fun t =>
        t.tb.total = ((u.tb.total : Int) + signedOf 64 (e.inlAt 4 8) * 2 ^ 24).toNat % (2 ^ 48 * 10 ^ 9 * 2 ^ 32) ∧
        t.tb.unset = u.tb.unset ∧ t.tb.inc = u.tb.inc ∧ t.tb.slew = u.tb.slew)) ∧
    (let e := withMode opTbAdj 1 d; s.accepted e = true → (signedOf 64 (e.inlAt 4 8)).natAbs ≤ 256000000000 → 1 ≤ e.inlAt 12 4 → e.inlAt 12 4 ≤ 10000 →
      completes (.tbAdjSlew d) s (fun t =>
        t.tb.slew = some ⟨signedOf 64 (e.inlAt 4 8), e.inlAt 12 4, u.index⟩ ∧ t.tb.total = u.tb.total ∧ t.tb.inc = u.tb.inc)) ∧
    (let e := withMode opTbAdj 2 d; s.accepted e = true → incOk (e.inlAt 16 8) = true → completes (.tbAdjFreq d) s (fun t =>
        t.tb.inc = BitVec.ofNat 64 (e.inlAt 16 8) ∧ t.tb.total = u.tb.total ∧ t.tb.slew = u.tb.slew)) ∧
    (s.accepted (withMode opTbAdj 3 d) = true → 48 ≤ d.plen.toNat → completes (.tbAdjStatus d) s (fun t =>
      State.completionOnly (s.framed u) t ∧ t.host.bufOut = s.host.bufOut ++ [(d.bufAddr, u.tbStatus)])) ∧
    (s.accepted (withOp opSlateArm d) = true → d.inlByte 0 < 3 → d.inlByte 1 < 3 → d.inlByte 2 < 3 →
      (d.inlByte 3).testBit 0 = false ∨ d.inlByte 0 = 0 → d.inlByte 0 < u.pulses.length →
      completes (.slateArm d) s (fun t =>
        (t.pulse (d.inlByte 0)).mode = BitVec.ofNat 2 (d.inlByte 1) ∧ (t.pulse (d.inlByte 0)).edge = BitVec.ofNat 2 (d.inlByte 2) ∧
        (t.pulse (d.inlByte 0)).supervise = (d.inlByte 3).testBit 0 ∧ (∀ j, j ≠ d.inlByte 0 → t.pulse j = u.pulse j) ∧
        (d.inlByte 0 = 0 → d.inlByte 1 = 0 ∨ (d.inlByte 3).testBit 0 = false → t.cond fPpsLost = false)))

/-! ## Host commands: captures, inserts, the sweep -/

/-- CAP_START puts a capture into RUN with the source, ring and count that it names; CAP_STOP puts it to HELD, or lets its block in
progress be the last; SWEEP_START begins a sweep of its segments, which waits for a grant when the transmitter's profile enables
coexistence, and completes at its end (R100, R103, R272, R273). -/
def Rules.CaptureCommands : Prop :=
  ∀ (s : State) (d : Desc), let u := s.releaseEntry d.ring
    (∀ p, s.accepted (withOp opCapStart d) = true → u.refOf (BitVec.ofNat 32 (d.inlAt 0 4)) = some ⟨.pass, p⟩ →
      let c := idIdx d.object
      let b := (u.life ⟨.pass, p⟩).blk
      let avail := 2 ^ streamsOf b - 1
      let exp16 := (d.inlByte 6).testBit 0
      let n := ((List.range 16).filter (fun j => (if d.inlAt 4 2 = 0 then avail else d.inlAt 4 2 &&& avail).testBit j)).length
      (u.life ⟨.pass, p⟩).cmd ≠ .closed → d.inlByte 7 ≤ 15 ∨ exp16 = false → d.inlByte 8 ≤ 63 →
      (u.ring (d.inlByte 8)).kind.toNat = kIqcap → d.inlByte 9 = 0 ∨ (d.inlByte 9 = 1 ∧ u.index ≤ d.inlAt 16 8 ∧
        d.inlAt 16 8 ≤ u.index + 2 ^ 26) →
      (u.life ⟨.cap, c⟩).cmd ≠ .run → capMost b n exp16 ≤ (u.ring (d.inlByte 8)).bufSize → c < u.cap.length →
      completes (.capStart d) s (fun t =>
        (t.life ⟨.cap, c⟩).cmd = .run ∧ (t.life ⟨.cap, c⟩).eff = .run ∧ (t.capR c).source = BitVec.ofNat 32 (d.inlAt 0 4) ∧
        (t.capR c).streams = d.inlAt 4 2 ∧ (t.capR c).ring = d.inlByte 8 ∧ (t.capR c).count = d.inlAt 12 4 ∧ (t.capR c).done = 0 ∧
        State.hostSideOnly (s.framed { u with cap := t.cap }) t)) ∧
    (s.accepted (withOp opCapStop d) = true →
      let c := idIdx d.object
      (u.cmdRun .cap c = true → completes (.capStop d) s (fun t =>
        ((t.life ⟨.cap, c⟩).cmd = .held ∨ (t.capR c).stopping = true) ∧ State.completionOnly (s.framed { u with cap := t.cap }) t)) ∧
      (u.cmdRun .cap c = false → completes (.capStop d) s (State.completionOnly (s.framed u)))) ∧
    (∀ g gs, s.accepted (withOp opSweep d) = true → rampOf 64 d.bytes = g :: gs →
      d.inlByte 0 ≤ 63 → (u.ring (d.inlByte 0)).kind.toNat = kIqcap → d.inlByte 2 ≤ 80 → 6 ≤ d.inlByte 3 → d.inlByte 3 ≤ 14 →
      12 ≤ d.plen.toNat → d.plen.toNat ≤ 768 → d.plen.toNat % 12 = 0 → 416 ≤ (u.ring (d.inlByte 0)).bufSize →
      (g :: gs).all (fun x => x.passes 30000000 245000000) = true → fbit (u.life ⟨.conv, 3⟩).blk cvLband = false →
      (u.life ⟨.conv, 3⟩).cmd = .run → u.sweeping = false →
      u.loMode = false ∨ (u.anyCarrier = false ∧ u.tx.claim = none) →
      (fbit u.tx.profile txCxEn = true → u.tx.cxGnt = false → completes (.sweepStart d) s (fun t =>
        t.tx.sweep.st = .waitGrant ∧ t.tx.cxReq = true ∧ t.tx.cxPrio = (d.inlByte 1).testBit 0 ∧ t.aloTx.ramp = g :: gs ∧
        (∃ w, w ∈ t.host.waiting ∧ w.why = .sweep))) ∧
      (fbit u.tx.profile txCxEn = false → completes (.sweepStart d) s (fun t =>
        t.tx.sweep.st = .waitLock ∧ t.tx.cxReq = false ∧ t.aloTx.freqHz = g.startHz ∧ t.aloTx.ramp = g :: gs ∧
        (∃ w, w ∈ t.host.waiting ∧ w.why = .sweep))))

/-- INSERT_START on programmes of this device that no other insert holds begins its insert at the next alignment frame with every one of
them that is not CLOSED; INSERT_STOP ends it for those it holds at the next alignment frame; of a slot that is in use, or is not,
neither changes anything (R214, R216, R218, R219). -/
def Rules.InsertCommands : Prop :=
  ∀ (s : State) (d : Desc), let u := s.releaseEntry d.ring
    let i := d.inlByte 0
    let target := idKind d.object = Kind.prog.code ∨ idKind d.object = Kind.group.code
    target → u.targetAny d.object ≠ [] → u.otherMembers (u.targetAny d.object) = [] →
    (s.accepted (withOp opInsStart d) = true → u.insertBad (withOp opInsStart d) = none → d.plen.toNat ≤ 64 →
      ((u.insertR i).active = false → i < u.inserts.length → (∀ p, p ∈ u.targetProgs d.object → u.holder p = none ∧
        (u.life ⟨.prog, p⟩).background = false) → completes (.insertStart d) s (fun t =>
        (t.insertR i).active = true ∧ (t.insertR i).startAt = some (alignNext perAlign u.now) ∧ (t.insertR i).inl = d.inl ∧
        (t.insertR i).text = d.bytes ∧
        (∀ p, p ∈ u.targetProgs d.object → (u.life ⟨.prog, p⟩).cmd ≠ .closed → p ∈ (t.insertR i).starting) ∧
        State.completionOnly (s.framed { u with inserts := t.inserts }) t)) ∧
      ((u.insertR i).active = true → completes (.insertStart d) s (State.completionOnly (s.framed u)))) ∧
    (s.accepted (withOp opInsStop d) = true → i ≤ 7 →
      ((u.insertR i).active = true → i < u.inserts.length →
        (∃ p, p ∈ u.targetProgs d.object ∧ (u.progR p).insert = some i) → completes (.insertStop d) s (fun t =>
        (t.insertR i).stopAt = some (alignNext perAlign u.now) ∧ (t.insertR i).cause = .stop ∧
        (∀ p, p ∈ u.targetProgs d.object → (u.progR p).insert = some i → p ∈ (t.insertR i).stopping) ∧
        State.completionOnly (s.framed { u with inserts := t.inserts }) t)) ∧
      ((u.insertR i).active = false → completes (.insertStop d) s (State.completionOnly (s.framed u))))

/-- Captures, the sweep, inserts by command: Rules.CaptureCommands, Rules.InsertCommands, together. -/
def Obligations.ActionCommands : Prop := Rules.CaptureCommands ∧ Rules.InsertCommands

/-! ## Host commands: the cascade -/

/-- CAS_JOIN of a device that stands alone, with nothing of the data plane in RUN, starts a join with the ports it names; CAS_LEAVE of a
member takes effect a tick later; at the master CAS_EPOCH returns the status block, announces new item tables for an epoch eight ticks
off, or sends the tables again (R324, R330 to R333). -/
def Rules.CascadeCommands : Prop :=
  ∀ (s : State) (d : Desc), let u := s.releaseEntry d.ring
    (s.accepted (withOp opCasJoin d) = true → d.object = 0xFF000000 →
      d.inlByte 0 % 4 ≠ 0 → d.inlByte 1 ≤ 1 → d.inlByte 2 ≤ 1 → 16 ≤ d.inlAt 4 2 → u.cas.st = .alone →
      (u.dataRuns = false → completes (.casJoin d) s (fun t =>
        t.cas.st = .joining ∧ t.cas.waitEnd = u.tick + d.inlAt 4 2 ∧ t.cas.up.asked = (d.inlByte 0).testBit 0 ∧
        t.cas.dn.asked = (d.inlByte 0).testBit 1 ∧ t.cas.form = (d.inlByte 3).testBit 1 ∧ t.cas.mute = (d.inlByte 2 == 1) ∧
        State.completionOnly (s.framed { u with cas := t.cas }) t)) ∧
      (u.dataRuns = true → completes (.casJoin d) s (State.completionOnly (s.framed u)))) ∧
    (s.accepted (withOp opCasLeave d) = true → u.cas.st = .member → completes (.casLeave d) s
      (State.completionOnly (s.framed { u with cas := { u.cas with leaveAt := some (u.now + perTick) } }))) ∧
    (s.accepted (withMode opCasEpoch 0 d) = true → u.isMaster = true → 160 ≤ d.plen.toNat → completes (.casEpochStatus d) s (fun t =>
      State.completionOnly (s.framed u) t ∧ t.host.bufOut = s.host.bufOut ++ [(d.bufAddr, u.casStatus)])) ∧
    (s.accepted (withMode opCasEpoch 1 d) = true → u.isMaster = true → d.plen.toNat ≤ 1024 → d.plen.toNat % 16 = 0 →
      u.cas.next = none → u.itemsBad d.bytes (d.plen.toNat / 16) 0 [] = none →
      let items := (List.range (d.plen.toNat / 16)).map (fun i => (itemOf d.bytes i).2)
      u.itemsFit items = true → completes (.casEpochAdvance d) s (fun t =>
        t.cas.next = some ⟨(u.cas.epoch + 1) % 2 ^ 32, u.clapTick + 8, { u.cas.tables with items := items }⟩ ∧
        t.cas.epoch = u.cas.epoch ∧ t.cas.tables = u.cas.tables ∧
        State.completionOnly (s.framed { u with cas := t.cas }) t)) ∧
    (s.accepted (withMode opCasEpoch 2 d) = true → u.isMaster = true → completes (.casEpochResync d) s (fun t =>
      LinkItem.tables u.cas.tables u.cas.epoch ∈ t.cas.sent.drop u.cas.sent.length ∧ State.completionOnly (s.framed u) t))

/-- CAS_JOIN, CAS_LEAVE, CAS_EPOCH: Rules.CascadeCommands, as it stands. -/
def Obligations.CascadeActions : Prop := Rules.CascadeCommands

/-! ## Host commands: calibration, storage, life cycle -/

/-- CAL_RUN makes a run of its unit fall due, and waits for its end: alone it starts at once, on the generator for an input out of RUN,
through the Stand-in for one in RUN. CAL_POLICY stores the policy that passes its checks (R410, R411, R419, R420, R422). -/
def Rules.CalibrationCommands : Prop :=
  ∀ (s : State) (d : Desc), let u := s.releaseEntry d.ring
    (∀ x, s.accepted (withOp opCalRun d) = true → u.refOf d.object = some ⟨.conv, x⟩ → d.plen = 0 ∨ 32 ≤ d.plen.toNat →
      u.cal.units.length = 6 → (∀ y, y < 6 → (u.unit y).run = none) →
      let waits (t : State) : Prop := ∃ w, w ∈ t.host.waiting ∧ w.why = .cal x ∧ w.marked = true
      (x < 4 → u.cmdRun .conv x = false → completes (.calRun d) s (fun t =>
        (t.unit x).run.map CalRun.stage = some .settling ∧ (t.unit x).run.map CalRun.trigger = some .command ∧ waits t ∧
        State.hostSideOnly (s.framed { u with cal := t.cal }) t)) ∧
      (x < 4 → u.cmdRun .conv x = true → u.failedConv x = false → u.failedConv 4 = false → u.standin.use = .idle →
        completes (.calRun d) s (fun t =>
          (t.unit x).run.map CalRun.stage = some .matching ∧ t.standin.use = .take x true ∧ t.standin.conn = some x ∧ waits t)) ∧
      (x = 4 → u.standin.use = .idle → u.standinCarries = false → completes (.calRun d) s (fun t =>
        (t.unit 4).run.map CalRun.stage = some .settling ∧ t.standin.conn = none ∧ waits t))) ∧
    (s.accepted (withOp opCalRun d) = true → idKind d.object = 0 → d.inlByte 0 = 0 → d.plen = 0 ∨ 32 ≤ d.plen.toNat →
      u.cal.units.length = 6 → (u.unit 5).run = none → u.loMode = true → u.anyCarrier = false → completes (.calRun d) s (fun t =>
        (t.unit 5).run.map CalRun.trigger = some .command ∧ ∃ w, w ∈ t.host.waiting ∧ w.why = .cal 5 ∧ w.marked = true)) ∧
    (s.accepted (withOp opCalPolicy d) = true →
      let b : BitVec 64 := d.inl.extractLsb' 0 64 &&& tableMask 64 calFields
      (firstFail (calChecks b) = none → completes (.calPolicy d) s
        (State.completionOnly (s.framed { u with cal := { u.cal with policy := b } }))) ∧
      ((firstFail (calChecks b)).isSome = true → completes (.calPolicy d) s (State.completionOnly (s.framed u))))

/-- STORYBOARD_SET by MODE `m` stages a chunk that continues the image; the last chunk of an image without a failing byte stores it, or
not, as `store` says. -/
def Rules.stagesImage (s : State) (d : Desc) (c : Instr) (m : Nat) (store : Bool) : Prop :=
  let u := s.releaseEntry d.ring
  let e := withMode opStoryboard m d
  let held := if e.inlAt 4 4 = 0 then [] else u.host.sb.staged
  s.accepted e = true → e.inlAt 8 4 ≤ 163840 → e.inlAt 4 4 = held.length → e.inlAt 4 4 = 0 ∨ e.inlAt 8 4 = u.host.sb.stagedTotal →
  ((e.inlByte 1).testBit 0 = false → completes c s (fun t =>
    t.host.sb = { u.host.sb with staged := held ++ d.bytes, stagedTotal := e.inlAt 8 4 } ∧ State.hostSideOnly (s.framed u) t)) ∧
  ((e.inlByte 1).testBit 0 = true → held.length + d.bytes.length = e.inlAt 8 4 → u.imageBad (held ++ d.bytes) = none →
    completes c s (fun t =>
      t.host.sb.staged = held ++ d.bytes ∧ t.mram = (if store then (u.nvmStart idStoryboard (held ++ d.bytes)).mram else u.mram) ∧
      State.hostSideOnly (s.framed { u with mram := t.mram }) t))

/-- NVM_COMMIT begins the write of its record with the reserved bits zero, and waits for it. STORYBOARD_SET stages a chunk that continues
the image; with its last chunk WRITE begins the write of an image without a failing byte and CHECK writes nothing; CLEAR begins the
write of an empty image; STATUS returns its block (R380 to R383, R385, R417). -/
def Rules.StorageCommands : Prop :=
  ∀ (s : State) (d : Desc), let u := s.releaseEntry d.ring
    u.fuses.lcState ≠ 3 →
    (let k := d.inlByte 0; s.accepted (withOp opNvmCommit d) = true → 1 ≤ k → k ≤ 5 → recordAlo k = (idKind d.object == Kind.alo.code) →
      d.plen.toNat = recordLen k → recordBad k d.bytes = none → completes (.nvmCommit d) s (fun t =>
        t.mram = (u.nvmStart (recordId k (idIdx d.object)) (u.recordBody k (idIdx d.object) d.bytes)).mram ∧
        (∃ w, w ∈ t.mram.writes ∧ w.id = recordId k (idIdx d.object) ∧ w.body = u.recordBody k (idIdx d.object) d.bytes) ∧
        (∃ w, w ∈ t.host.waiting ∧ w.why = .nvm (recordId k (idIdx d.object))) ∧
        State.hostSideOnly (s.framed { u with mram := t.mram }) t)) ∧
    Rules.stagesImage s d (.storyboardWrite d) 0 true ∧ Rules.stagesImage s d (.storyboardCheck d) 3 false ∧
    (s.accepted (withMode opStoryboard 1 d) = true → completes (.storyboardClear d) s
      (State.completionOnly (s.framed (u.nvmStart idStoryboard emptyImage)))) ∧
    (s.accepted (withMode opStoryboard 2 d) = true → 32 ≤ d.plen.toNat → completes (.storyboardStatus d) s (fun t =>
      State.completionOnly (s.framed u) t ∧ t.host.bufOut = s.host.bufOut ++ [(d.bufAddr, u.sbStatus)]))

/-- LC_ADVANCE with the device's serial number leaves a step that R457 permits pending, and a step to RETURN only with a token that
passes; WIPE takes both copies of every record of the named regions away and notes the overwrite to come; with another serial number
neither does anything (R457 to R461). -/
def Rules.LifeCycleCommands : Prop :=
  ∀ (s : State) (d : Desc), let u := s.releaseEntry d.ring
    (s.accepted (withOp opLcAdvance d) = true →
      let k := d.inlByte 0
      (lcStepOk u.fuses.lcState k = true → u.serialOk d = true → d.plen.toNat = lcLen k → (k = 1 → leNat d.bytes ≠ 0) →
        (k = 3 → u.tokenOk d.bytes = true) → completes (.lcAdvance d) s (State.completionOnly (s.framed { u with
          lcPending := some ⟨k, if k = 1 then blockOf 256 d.bytes else u.fuses.keyO⟩ }))) ∧
      (lcStepOk u.fuses.lcState k = false ∨ u.serialOk d = false ∨ (k = 3 ∧ u.tokenOk d.bytes = false) →
        completes (.lcAdvance d) s (State.completionOnly (s.framed u)))) ∧
    (s.accepted (withOp opWipe d) = true →
      let a := (d.inlByte 0).testBit 0
      let b := (d.inlByte 0).testBit 1
      (a = true ∨ b = true → u.serialOk d = true → completes (.wipe d) s (fun t =>
        t.mram.recs = u.mram.recs.filter (fun r =>
          !((a && profileIds.contains r.1) || (b && recordIds.contains r.1))) ∧
        (∃ w, t.wipeRun = some w ∧ (a = true → w.profile = true) ∧ (b = true → w.records = true) ∧
          ((d.inlByte 1).testBit 0 = true → w.reset = true)) ∧
        State.completionOnly (s.framed { u with mram := t.mram, wipeRun := t.wipeRun }) t)) ∧
      ((a = false ∧ b = false) ∨ u.serialOk d = false → completes (.wipe d) s (State.completionOnly (s.framed u))))

/-- CAL_RUN, CAL_POLICY, NVM_COMMIT, STORYBOARD_SET, LC_ADVANCE, WIPE: Rules.CalibrationCommands, Rules.StorageCommands, Rules.LifeCycleCommands, together. -/
def Obligations.ServiceCommands : Prop := Rules.CalibrationCommands ∧ Rules.StorageCommands ∧ Rules.LifeCycleCommands

/-! ## Rules stated whole -/

/-- R298. While PPS_IN is armed EVERY with SUPERVISE, a gap of 1.1 s without a burst raises PPS_MISSING with DETECTED and sets PPS_LOST,
which page 0x0200 shows; in the same gap it does so no more; the next burst of PPS_IN, with its slate, ends the gap. -/
def Rules.PpsGap : Prop :=
  ∀ (s : State), s.live →
    (∀ t, let u := s.advance t
      u.pulses ≠ [] → (u.pulse 0).mode = 2 → (u.pulse 0).supervise = true → (u.pulse 0).burst = none →
      (u.pulse 0).lastAt + 1081344000 ≤ u.now →
      ((u.pulse 0).gapRaised = false → completes (.ppsMissing t) s (fun r =>
        r.cond fPpsLost = true ∧ (r.pulse 0).gapRaised = true ∧ (r.pulse 0).mode = 2 ∧
        (u.phase = .released → u.flags.halted = false →
          (u.cond fPpsLost = false → r.flag fPpsLost = true ∧ (r.mgmtByte (0x200 + 1)).getLsbD 1 = true) ∧
          ∃ x, r.slates = u.slates ++ [x] ∧ x.code = 0x0009 ∧ x.qual.testBit 6 = true))) ∧
      ((u.pulse 0).gapRaised = true → completes (.ppsMissing t) s (fun r => r = s.framed u))) ∧
    (∀ b, (s.pulse 0).burst = some b →
      let u := s.advance b.ends
      (u.pulse 0).burst = some { b with now := 0 } → completes (.handshakeEnd 0) s (fun r =>
        (r.pulse 0).gapRaised = false ∧ r.cond fPpsLost = false ∧
        (u.phase = .released → u.flags.halted = false → ∃ x, r.slates = u.slates ++ [x] ∧ x.code = 0x0001)))

/-- A gap of PPS_IN: Rules.PpsGap, as it stands. -/
def Obligations.PpsGaps : Prop := Rules.PpsGap

/-- R464. TEST_MODE enters a test mode in FACTORY and RETURN, and elsewhere selects the bypass register; in a test mode every command of the
data plane and of the firmware leaves the state as it is, the management bus is to be in short-pointer mode, and a step that ends the
test mode is a power-on reset. -/
def Rules.TestModes : Prop :=
  (∀ s : State, completes .testMode s (fun t => t = { s with tap := t.tap } ∧
    (s.fuses.lcState = 0 ∨ s.fuses.lcState = 3 → t.tap.ir = .testMode ∧ t.tap.testing = true) ∧
    (s.fuses.lcState = 1 ∨ s.fuses.lcState = 2 → t.tap.ir = .bypass ∧ t.tap.testing = s.tap.testing))) ∧
  (∀ s t : State, step s = .next t → s.tap.testing = false → t.tap.testing = true →
    (s.fuses.lcState = 0 ∨ s.fuses.lcState = 3) ∧ ∃ q, s.pending = .testMode :: q) ∧
  (∀ (c : Instr) (s : State), stopsInTest c = true → s.tap.testing = true → exec c s = .next s) ∧
  (∀ s : State, s.tap.testing = true → s.shortNow = true) ∧
  (∀ s t : State, step s = .next t → s.tap.testing = true → t.tap.testing = false → t.phase = .porst ∧ t.now = 0)

/-- Test modes: entry, what they stop, their end: Rules.TestModes, as it stands. -/
def Obligations.TestModesHold : Prop := Rules.TestModes

/-- R417. The copy of a record in use is the valid one, of two the newer, of equals A; a write goes to the other copy with GEN one above, or
1, and till its end the copy in use stays so; a read-back that agrees puts the copy in place, a first mismatch has it written once
more, a second one ends the write with NVM_FAIL and the copy in use as before; NVM_COMMIT and STORYBOARD_SET write by this rule. -/
def Rules.RecordCopies : Prop :=
  (∀ (m : Mram) (id : Nat),
    let a := nvmRead id (m.copies id).a
    let b := nvmRead id (m.copies id).b
    (a = none → b = none → m.inUse id = none) ∧
    (∀ g bs, a = some (g, bs) → b = none → m.inUse id = some (g, bs, true)) ∧
    (∀ g bs, a = none → b = some (g, bs) → m.inUse id = some (g, bs, false)) ∧
    (∀ ga ba gb bb, a = some (ga, ba) → b = some (gb, bb) →
      (1 ≤ ((gb : Int) - ga) % 2 ^ 32 → ((gb : Int) - ga) % 2 ^ 32 ≤ 2 ^ 31 - 1 → m.inUse id = some (gb, bb, false)) ∧
      (1 ≤ ((ga : Int) - gb) % 2 ^ 32 → ((ga : Int) - gb) % 2 ^ 32 ≤ 2 ^ 31 - 1 → m.inUse id = some (ga, ba, true)) ∧
      (ga = gb → m.inUse id = some (ga, ba, true)))) ∧
  (∀ (s : State) (id : Nat) (body : List Byte), s.mram.writes.any (fun w => w.id == id) = false →
    (s.nvmStart id body).mram.inUse id = s.mram.inUse id ∧
    (∀ g bs isA, s.mram.inUse id = some (g, bs, isA) → (s.nvmStart id body).mram.writes =
      ⟨id, body, if g = 0xFFFFFFFF then 1 else g + 1, !isA, 0⟩ :: s.mram.writes) ∧
    (s.mram.inUse id = none → ∃ isA, (s.nvmStart id body).mram.writes = ⟨id, body, 1, isA, 0⟩ :: s.mram.writes)) ∧
  (∀ (s : State) (t id seq : Nat) (w : NvmWrite), s.live →
    let u := s.advance t
    id ≠ idDailies → u.mram.writes.find? (fun x => x.id == id) = some w →
    (w.attempt = 0 → completes (.nvmWriteDone t id seq false) s (fun r =>
      r = s.framed { u with mram := { u.mram with
        writes := u.mram.writes.map (fun x => if x = w then { x with attempt := 1 } else x) } })) ∧
    ((u.mram.writes.erase w).find? (fun x => x.id == id) = none →
      completes (.nvmWriteDone t id seq true) s (fun r =>
        r.mram = { u.mram.setCopy id w.toA (nvmCopy id w.gen w.body) with writes := u.mram.writes.erase w }) ∧
      (w.attempt ≠ 0 → u.phase = .released → completes (.nvmWriteDone t id seq false) s (fun r =>
        r.flag fNvmFail = true ∧ r.mram = { u.mram with writes := u.mram.writes.erase w } ∧
        r.mram.inUse id = u.mram.inUse id)))) ∧
  (∀ (d : Desc) (s : State),
    ((cmdNvmCommit d s).status = .ok → (cmdNvmCommit d s).s.mram =
      (s.nvmStart (recordId (d.inlByte 0) (idIdx d.object)) (s.recordBody (d.inlByte 0) (idIdx d.object) d.bytes)).mram) ∧
    ((cmdStoryboardWrite d s).status = .ok → (d.inlByte 1).testBit 0 = true → ∃ im,
      (cmdStoryboardWrite d s).s.mram = (s.nvmStart idStoryboard im).mram))

/-- Copies of a record: Rules.RecordCopies, as it stands. -/
def Obligations.RecordWrites : Prop := Rules.RecordCopies

/-- R428. Every set of a flag counts, and CNT_VAL shows the count; a set that finds the flag at 1 and meets no clear does nothing else
but leave a note for a clear later on its clock edge; a rising sets ATTN_PEND.FLAG when ATTN_MASK has the flag, writes a flag record to every EVT ring that runs with REC set and has room, and
adds the entry FLAG_SET to the log. For a flag with a lasting condition the onset is the set. -/
def Rules.FlagSets : Prop :=
  ∀ (s : State) (n t : Nat), n < 256 → s.phase = .released → s.flags.counts.length = 256 → s.flags.halted = false →
    (∀ met, let r := s.setFlagMet n met t
      r.flag n = true ∧ r.flags.counts = modAt n (· + 1) s.flags.counts ∧
      (∀ i, i < 4 → s.flags.cntSel.toNat = n →
        r.mgmtByte (0x284 + i) = byteAt (leBytes 4 ((s.flags.counts.getD n 0) + 1).toNat) i) ∧
      (s.flag n = true → met = false → s.flags.clearedAt (edgeOf t) n = false → r = { s with
        flags := { s.flags with counts := modAt n (· + 1) s.flags.counts }.noteSet (edgeOf t) n false
        clk := { s.clk with wakeReq := s.clk.wakeReq || s.clk.mgmtStopped } }) ∧
      (s.flag n = false ∨ met = true ∨ s.flags.clearedAt (edgeOf t) n = true →
        r.flags.pendFlag = (s.flags.pendFlag || s.flags.attnMask.getLsbD n) ∧
        (∀ i, i < 64 → (s.ring i).isRunning kEvt = true → (s.ring i).kflags % 2 = 1 → (s.ring i).filled < (s.ring i).entries →
          ∃ rec, (r.ring i).out = (s.ring i).out ++ [rec] ∧ leAt rec 0 2 = 32 ∧ leAt rec 2 1 = 2 ∧ leAt rec 4 2 = n) ∧
        r.log.held.getLast?.map Daily.code = some 0x0002)) ∧
    (s.cond n = false → (s.setCond n true).flags.counts = modAt n (· + 1) s.flags.counts ∧ (s.setCond n true).cond n = true) ∧
    (s.cond n = true → s.setCond n true = s)

/-- Sets and risings of a flag: Rules.FlagSets, as it stands. -/
def Obligations.FlagsCounted : Prop := Rules.FlagSets
end

