-- ==== Sys2Proof/Laws/Frames.lean ====
section
/-! SUPPORT. What the shared operations that write flags, slates, Dailies entries, records and interrupts can change, said once. -/
namespace Sys2Proof.Laws
open Sys2Proof Sys2Proof.Machine

/-! ## The two relations -/

theorem hostOnly_refl (s : State) : s.hostOnly s := rfl
theorem hostOnly_trans {a b c : State} (h : a.hostOnly b) (k : b.hostOnly c) : a.hostOnly c := by
  unfold State.hostOnly at *; rw [k, h]
theorem reportsOnly_refl (s : State) : s.reportsOnly s := rfl
theorem reportsOnly_trans {a b c : State} (h : a.reportsOnly b) (k : b.reportsOnly c) : a.reportsOnly c := by
  unfold State.reportsOnly at *; rw [k, h]
theorem reportsOnly_of_hostOnly {a b : State} (h : a.hostOnly b) : a.reportsOnly b := by
  unfold State.reportsOnly State.hostOnly at *; rw [h]

/-- A fold whose every step keeps a reflexive and transitive relation keeps it. -/
theorem foldl_keeps {α β : Type} (R : β → β → Prop) (r : ∀ b, R b b) (t : ∀ a b c, R a b → R b c → R a c) (f : β → α → β)
    (h : ∀ b a, R b (f b a)) (l : List α) (b : β) : R b (l.foldl f b) := by
  induction l generalizing b with
  | nil => exact r b
  | cons a l ih => exact t _ _ _ (h b a) (ih _)

theorem foldl_hostOnly {α : Type} (f : State → α → State) (h : ∀ b a, State.hostOnly b (f b a)) (l : List α) (s : State) :
    s.hostOnly (l.foldl f s) :=
  foldl_keeps State.hostOnly hostOnly_refl (fun _ _ _ => hostOnly_trans) f h l s

theorem foldl_reportsOnly {α : Type} (f : State → α → State) (h : ∀ b a, State.reportsOnly b (f b a)) (l : List α) (s : State) :
    s.reportsOnly (l.foldl f s) :=
  foldl_keeps State.reportsOnly reportsOnly_refl (fun _ _ _ => reportsOnly_trans) f h l s

/-! ## Rings and interrupts -/

theorem modRing_hostOnly (s : State) (i : Nat) (f : Ring → Ring) : s.hostOnly (s.modRing i f) := rfl
theorem modSb_hostOnly (s : State) (f : Storyboard → Storyboard) : s.hostOnly (s.modSb f) := rfl
theorem modMsix_hostOnly (s : State) (f : Msix → Msix) : s.hostOnly (s.modMsix f) := rfl
theorem signalVec_hostOnly (s : State) (v : Nat) : s.hostOnly (s.signalVec v) := rfl
theorem flushVecs_hostOnly (s : State) : s.hostOnly s.flushVecs := by unfold State.flushVecs; dsimp only; split <;> rfl
theorem ringCount_hostOnly (s : State) (i : Nat) : s.hostOnly (s.ringCount i) := by
  unfold State.ringCount; dsimp only; repeat' split
  all_goals rfl
theorem ringSignal_hostOnly (s : State) (i : Nat) : s.hostOnly (s.ringSignal i) := by
  unfold State.ringSignal; dsimp only; split <;> rfl
theorem writeRecord_hostOnly (s : State) (i key : Nat) (mk : Nat → Bool → Bool → List Byte) :
    s.hostOnly (s.writeRecord i key mk) := by
  unfold State.writeRecord; dsimp only; repeat' split
  all_goals rfl
theorem putRecord_hostOnly (s : State) (i key : Nat) (mk : Nat → Bool → Bool → List Byte) :
    s.hostOnly (s.putRecord i key mk) := by
  unfold State.putRecord; dsimp only; split
  · exact writeRecord_hostOnly s i key mk
  · exact hostOnly_trans (writeRecord_hostOnly s i key mk) (ringCount_hostOnly _ i)
theorem putAll_hostOnly (s : State) (kind : Nat) (sel : Ring → Bool) (key : Nat) (mk : Nat → Bool → Bool → List Byte) :
    s.hostOnly (s.putAll kind sel key mk) := by
  refine foldl_hostOnly _ (fun b a => ?_) _ s
  split
  · exact putRecord_hostOnly b a key mk
  · rfl
theorem putDaily_hostOnly (s : State) (ring : Nat) (e : Daily) : s.hostOnly (s.putDaily ring e) := putRecord_hostOnly s ring _ _
theorem completeOn_hostOnly (s : State) (cpl : Nat) (d : Desc) (st : Status) (detail retLen : Nat) (waited remote : Bool)
    (time : Word64) : s.hostOnly (s.completeOn cpl d st detail retLen waited remote time) := by
  unfold State.completeOn; dsimp only; split
  · rfl
  · split
    · split
      · exact writeRecord_hostOnly ..
      · exact hostOnly_trans (writeRecord_hostOnly ..) (ringSignal_hostOnly ..)
    · exact putRecord_hostOnly ..
theorem flushSlates_hostOnly (s : State) : ({ s with slates := [] } : State).hostOnly s.flushSlates :=
  foldl_hostOnly _ (fun b _ => putAll_hostOnly b _ _ _ _) _ _

/-! ## The Dailies log, the flags and the slates -/

theorem addDaily_reportsOnly (s : State) (code sev : Nat) (object : Id) (data : List Byte) (t : Nat) :
    s.reportsOnly (s.addDaily code sev object data t) := by
  unfold State.addDaily; dsimp only; split
  · rfl
  · refine reportsOnly_trans (b := _) ?_ (foldl_reportsOnly _ (fun b a => ?_) _ _)
    · rfl
    · split
      · exact reportsOnly_of_hostOnly (putDaily_hostOnly ..)
      · rfl
theorem flagRise_reportsOnly (s : State) (n : Nat) (met : Bool) (t : Nat) : s.reportsOnly (s.flagRise n met t) := by
  unfold State.flagRise; dsimp only
  refine reportsOnly_trans ?_ (addDaily_reportsOnly ..)
  refine reportsOnly_trans ?_ (reportsOnly_of_hostOnly (putAll_hostOnly ..))
  rfl
theorem setFlagMet_reportsOnly (s : State) (n : Nat) (met : Bool) (t : Nat) : s.reportsOnly (s.setFlagMet n met t) := by
  unfold State.setFlagMet; dsimp only; split
  · rfl
  · split
    · refine reportsOnly_trans ?_ (flagRise_reportsOnly ..); rfl
    · rfl
theorem setFlag_reportsOnly (s : State) (n : Nat) : s.reportsOnly (s.setFlag n) := setFlagMet_reportsOnly ..
theorem setCond_reportsOnly (s : State) (n : Nat) (l : Bool) : s.reportsOnly (s.setCond n l) := by
  unfold State.setCond; dsimp only; split
  · rfl
  · split
    · refine reportsOnly_trans ?_ (setFlagMet_reportsOnly ..); rfl
    · rfl
theorem markMet_reportsOnly (s : State) (n : Nat) : s.reportsOnly (s.markMet n) := rfl
theorem metClear_reportsOnly (s : State) (n : Nat) (rise : Bool) : s.reportsOnly (s.metClear n rise) := by
  unfold State.metClear; split
  · exact markMet_reportsOnly s n
  · exact flagRise_reportsOnly ..
theorem clearFlags_reportsOnly (s : State) (m : BitVec 256) : s.reportsOnly (s.clearFlags m) := by
  unfold State.clearFlags; dsimp only
  refine reportsOnly_trans ?_ (foldl_reportsOnly _ (fun b (a : Nat × Bool) => metClear_reportsOnly b a.1 a.2) _ _)
  rfl
theorem slateAt_reportsOnly (s : State) (code : Nat) (object : Id) (time qual : Nat) (p : List Byte) :
    s.reportsOnly (s.slateAt code object time qual p) := by
  unfold State.slateAt; split <;> rfl
theorem slateT_reportsOnly (s : State) (code : Nat) (object : Id) (t : Nat) (p : List Byte) :
    s.reportsOnly (s.slateT code object t p) := slateAt_reportsOnly ..
theorem slateDet_reportsOnly (s : State) (code : Nat) (object : Id) (p : List Byte) :
    s.reportsOnly (s.slateDet code object p) := slateAt_reportsOnly ..
theorem wake_reportsOnly (s : State) : s.reportsOnly s.wake := by
  unfold State.wake; split <;> rfl
theorem sbEnd_reportsOnly (s : State) (st : SbSt) : s.reportsOnly (s.sbEnd st) := by
  refine reportsOnly_trans ?_ (slateDet_reportsOnly ..); rfl
theorem sbReport_reportsOnly (s : State) (n e : Nat) (d : Desc) (st : Status) : s.reportsOnly (s.sbReport n e d st) := by
  unfold State.sbReport; dsimp only; split
  · rfl
  · split
    · refine reportsOnly_trans (reportsOnly_trans ?_ (addDaily_reportsOnly ..)) (sbEnd_reportsOnly ..); rfl
    · refine reportsOnly_trans ?_ (addDaily_reportsOnly ..); rfl

end Sys2Proof.Laws
end

