-- ==== Sys2Proof/Laws/State.lean ====
section
/-! SUPPORT. The fields of State after each update, one lemma per field per update, and the fields that two states share. -/
namespace Sys2Proof.Laws
open Sys2Proof Sys2Proof.Machine

/-! ## The end of a command -/

@[simp] theorem framed_pending (s t : State) : (s.framed t).pending = s.pending := rfl
@[simp] theorem framed_fuses (s t : State) : (s.framed t).fuses = s.fuses := rfl
@[simp] theorem framed_straps (s t : State) : (s.framed t).straps = s.straps := rfl
@[simp] theorem framed_tap (s t : State) : (s.framed t).tap = s.tap := rfl
@[simp] theorem kept_pending (s t : State) : (s.kept t).pending = s.pending := by unfold State.kept; split <;> rfl
@[simp] theorem kept_fuses (s t : State) : (s.kept t).fuses = s.fuses := by unfold State.kept; split <;> rfl
@[simp] theorem kept_straps (s t : State) : (s.kept t).straps = s.straps := by unfold State.kept; split <;> rfl
@[simp] theorem kept_tap (s t : State) : (s.kept t).tap = s.tap := by unfold State.kept; split <;> rfl
theorem kept_of_testing {s : State} (h : s.tap.testing = true) (t : State) : s.kept t = s := by unfold State.kept; simp [h]
theorem kept_of_live {s : State} (h : s.live) (t : State) : s.kept t = s.framed t := by
  unfold State.live at h; unfold State.kept; simp [h]
theorem done_of_live {s : State} (h : s.live) (t : State) : done s t = .next (s.framed t) := by rw [done, kept_of_live h]
theorem framed_reportsOnly {s a b : State} (h : a.reportsOnly b) : (s.framed a).reportsOnly (s.framed b) := by
  unfold State.reportsOnly State.framed at *; rw [h]
theorem framed_hostOnly {s a b : State} (h : a.hostOnly b) : (s.framed a).hostOnly (s.framed b) := by
  unfold State.hostOnly State.framed at *; rw [h]
theorem dequeue_cons (s : State) (c : Instr) (q : List Instr) : ({ s with pending := c :: q } : State).dequeue = { s with pending := q } := rfl

/-! ## Fields that a relation keeps -/

theorem reportsOnly_now {s t : State} (h : s.reportsOnly t) : t.now = s.now := by rw [h]
theorem reportsOnly_atTick {s t : State} (h : s.reportsOnly t) : t.atTick = s.atTick := by rw [h]
theorem reportsOnly_phase {s t : State} (h : s.reportsOnly t) : t.phase = s.phase := by rw [h]
theorem reportsOnly_lastCause {s t : State} (h : s.reportsOnly t) : t.lastCause = s.lastCause := by rw [h]
theorem reportsOnly_resetPin {s t : State} (h : s.reportsOnly t) : t.resetPin = s.resetPin := by rw [h]
theorem reportsOnly_heldBrown {s t : State} (h : s.reportsOnly t) : t.heldBrown = s.heldBrown := by rw [h]
theorem reportsOnly_heldHot {s t : State} (h : s.reportsOnly t) : t.heldHot = s.heldHot := by rw [h]
theorem reportsOnly_freeCtr {s t : State} (h : s.reportsOnly t) : t.freeCtr = s.freeCtr := by rw [h]
theorem reportsOnly_straps {s t : State} (h : s.reportsOnly t) : t.straps = s.straps := by rw [h]
theorem reportsOnly_fuses {s t : State} (h : s.reportsOnly t) : t.fuses = s.fuses := by rw [h]
theorem reportsOnly_boot {s t : State} (h : s.reportsOnly t) : t.boot = s.boot := by rw [h]
theorem reportsOnly_lcPending {s t : State} (h : s.reportsOnly t) : t.lcPending = s.lcPending := by rw [h]
theorem reportsOnly_wipeRun {s t : State} (h : s.reportsOnly t) : t.wipeRun = s.wipeRun := by rw [h]
theorem reportsOnly_mram {s t : State} (h : s.reportsOnly t) : t.mram = s.mram := by rw [h]
theorem reportsOnly_aloRx {s t : State} (h : s.reportsOnly t) : t.aloRx = s.aloRx := by rw [h]
theorem reportsOnly_aloTx {s t : State} (h : s.reportsOnly t) : t.aloTx = s.aloTx := by rw [h]
theorem reportsOnly_health {s t : State} (h : s.reportsOnly t) : t.health = s.health := by rw [h]
theorem reportsOnly_bus {s t : State} (h : s.reportsOnly t) : t.bus = s.bus := by rw [h]
theorem reportsOnly_tb {s t : State} (h : s.reportsOnly t) : t.tb = s.tb := by rw [h]
theorem reportsOnly_pulses {s t : State} (h : s.reportsOnly t) : t.pulses = s.pulses := by rw [h]
theorem reportsOnly_conv {s t : State} (h : s.reportsOnly t) : t.conv = s.conv := by rw [h]
theorem reportsOnly_devMarks {s t : State} (h : s.reportsOnly t) : t.devMarks = s.devMarks := by rw [h]
theorem reportsOnly_standin {s t : State} (h : s.reportsOnly t) : t.standin = s.standin := by rw [h]
theorem reportsOnly_pass {s t : State} (h : s.reportsOnly t) : t.pass = s.pass := by rw [h]
theorem reportsOnly_cap {s t : State} (h : s.reportsOnly t) : t.cap = s.cap := by rw [h]
theorem reportsOnly_fmd {s t : State} (h : s.reportsOnly t) : t.fmd = s.fmd := by rw [h]
theorem reportsOnly_amd {s t : State} (h : s.reportsOnly t) : t.amd = s.amd := by rw [h]
theorem reportsOnly_ee {s t : State} (h : s.reportsOnly t) : t.ee = s.ee := by rw [h]
theorem reportsOnly_svc {s t : State} (h : s.reportsOnly t) : t.svc = s.svc := by rw [h]
theorem reportsOnly_prog {s t : State} (h : s.reportsOnly t) : t.prog = s.prog := by rw [h]
theorem reportsOnly_inserts {s t : State} (h : s.reportsOnly t) : t.inserts = s.inserts := by rw [h]
theorem reportsOnly_port {s t : State} (h : s.reportsOnly t) : t.port = s.port := by rw [h]
theorem reportsOnly_fcar {s t : State} (h : s.reportsOnly t) : t.fcar = s.fcar := by rw [h]
theorem reportsOnly_dcar {s t : State} (h : s.reportsOnly t) : t.dcar = s.dcar := by rw [h]
theorem reportsOnly_tx {s t : State} (h : s.reportsOnly t) : t.tx = s.tx := by rw [h]
theorem reportsOnly_cue {s t : State} (h : s.reportsOnly t) : t.cue = s.cue := by rw [h]
theorem reportsOnly_cas {s t : State} (h : s.reportsOnly t) : t.cas = s.cas := by rw [h]
theorem reportsOnly_cal {s t : State} (h : s.reportsOnly t) : t.cal = s.cal := by rw [h]
theorem reportsOnly_tap {s t : State} (h : s.reportsOnly t) : t.tap = s.tap := by rw [h]
theorem reportsOnly_pending {s t : State} (h : s.reportsOnly t) : t.pending = s.pending := by rw [h]
theorem hostOnly_now {s t : State} (h : s.hostOnly t) : t.now = s.now := by rw [h]
theorem hostOnly_atTick {s t : State} (h : s.hostOnly t) : t.atTick = s.atTick := by rw [h]
theorem hostOnly_phase {s t : State} (h : s.hostOnly t) : t.phase = s.phase := by rw [h]
theorem hostOnly_lastCause {s t : State} (h : s.hostOnly t) : t.lastCause = s.lastCause := by rw [h]
theorem hostOnly_resetPin {s t : State} (h : s.hostOnly t) : t.resetPin = s.resetPin := by rw [h]
theorem hostOnly_heldBrown {s t : State} (h : s.hostOnly t) : t.heldBrown = s.heldBrown := by rw [h]
theorem hostOnly_heldHot {s t : State} (h : s.hostOnly t) : t.heldHot = s.heldHot := by rw [h]
theorem hostOnly_freeCtr {s t : State} (h : s.hostOnly t) : t.freeCtr = s.freeCtr := by rw [h]
theorem hostOnly_straps {s t : State} (h : s.hostOnly t) : t.straps = s.straps := by rw [h]
theorem hostOnly_fuses {s t : State} (h : s.hostOnly t) : t.fuses = s.fuses := by rw [h]
theorem hostOnly_boot {s t : State} (h : s.hostOnly t) : t.boot = s.boot := by rw [h]
theorem hostOnly_lcPending {s t : State} (h : s.hostOnly t) : t.lcPending = s.lcPending := by rw [h]
theorem hostOnly_wipeRun {s t : State} (h : s.hostOnly t) : t.wipeRun = s.wipeRun := by rw [h]
theorem hostOnly_mram {s t : State} (h : s.hostOnly t) : t.mram = s.mram := by rw [h]
theorem hostOnly_log {s t : State} (h : s.hostOnly t) : t.log = s.log := by rw [h]
theorem hostOnly_clk {s t : State} (h : s.hostOnly t) : t.clk = s.clk := by rw [h]
theorem hostOnly_aloRx {s t : State} (h : s.hostOnly t) : t.aloRx = s.aloRx := by rw [h]
theorem hostOnly_aloTx {s t : State} (h : s.hostOnly t) : t.aloTx = s.aloTx := by rw [h]
theorem hostOnly_flags {s t : State} (h : s.hostOnly t) : t.flags = s.flags := by rw [h]
theorem hostOnly_health {s t : State} (h : s.hostOnly t) : t.health = s.health := by rw [h]
theorem hostOnly_bus {s t : State} (h : s.hostOnly t) : t.bus = s.bus := by rw [h]
theorem hostOnly_tb {s t : State} (h : s.hostOnly t) : t.tb = s.tb := by rw [h]
theorem hostOnly_slates {s t : State} (h : s.hostOnly t) : t.slates = s.slates := by rw [h]
theorem hostOnly_pulses {s t : State} (h : s.hostOnly t) : t.pulses = s.pulses := by rw [h]
theorem hostOnly_conv {s t : State} (h : s.hostOnly t) : t.conv = s.conv := by rw [h]
theorem hostOnly_devMarks {s t : State} (h : s.hostOnly t) : t.devMarks = s.devMarks := by rw [h]
theorem hostOnly_standin {s t : State} (h : s.hostOnly t) : t.standin = s.standin := by rw [h]
theorem hostOnly_pass {s t : State} (h : s.hostOnly t) : t.pass = s.pass := by rw [h]
theorem hostOnly_cap {s t : State} (h : s.hostOnly t) : t.cap = s.cap := by rw [h]
theorem hostOnly_fmd {s t : State} (h : s.hostOnly t) : t.fmd = s.fmd := by rw [h]
theorem hostOnly_amd {s t : State} (h : s.hostOnly t) : t.amd = s.amd := by rw [h]
theorem hostOnly_ee {s t : State} (h : s.hostOnly t) : t.ee = s.ee := by rw [h]
theorem hostOnly_svc {s t : State} (h : s.hostOnly t) : t.svc = s.svc := by rw [h]
theorem hostOnly_prog {s t : State} (h : s.hostOnly t) : t.prog = s.prog := by rw [h]
theorem hostOnly_inserts {s t : State} (h : s.hostOnly t) : t.inserts = s.inserts := by rw [h]
theorem hostOnly_port {s t : State} (h : s.hostOnly t) : t.port = s.port := by rw [h]
theorem hostOnly_fcar {s t : State} (h : s.hostOnly t) : t.fcar = s.fcar := by rw [h]
theorem hostOnly_dcar {s t : State} (h : s.hostOnly t) : t.dcar = s.dcar := by rw [h]
theorem hostOnly_tx {s t : State} (h : s.hostOnly t) : t.tx = s.tx := by rw [h]
theorem hostOnly_cue {s t : State} (h : s.hostOnly t) : t.cue = s.cue := by rw [h]
theorem hostOnly_cas {s t : State} (h : s.hostOnly t) : t.cas = s.cas := by rw [h]
theorem hostOnly_cal {s t : State} (h : s.hostOnly t) : t.cal = s.cal := by rw [h]
theorem hostOnly_tap {s t : State} (h : s.hostOnly t) : t.tap = s.tap := by rw [h]
theorem hostOnly_pending {s t : State} (h : s.hostOnly t) : t.pending = s.pending := by rw [h]

/-! ## State.framed -/

@[simp] theorem framed_now (s t : State) : (s.framed t).now = t.now := rfl
@[simp] theorem framed_atTick (s t : State) : (s.framed t).atTick = t.atTick := rfl
@[simp] theorem framed_phase (s t : State) : (s.framed t).phase = t.phase := rfl
@[simp] theorem framed_lastCause (s t : State) : (s.framed t).lastCause = t.lastCause := rfl
@[simp] theorem framed_resetPin (s t : State) : (s.framed t).resetPin = t.resetPin := rfl
@[simp] theorem framed_heldBrown (s t : State) : (s.framed t).heldBrown = t.heldBrown := rfl
@[simp] theorem framed_heldHot (s t : State) : (s.framed t).heldHot = t.heldHot := rfl
@[simp] theorem framed_freeCtr (s t : State) : (s.framed t).freeCtr = t.freeCtr := rfl
@[simp] theorem framed_boot (s t : State) : (s.framed t).boot = t.boot := rfl
@[simp] theorem framed_lcPending (s t : State) : (s.framed t).lcPending = t.lcPending := rfl
@[simp] theorem framed_wipeRun (s t : State) : (s.framed t).wipeRun = t.wipeRun := rfl
@[simp] theorem framed_mram (s t : State) : (s.framed t).mram = t.mram := rfl
@[simp] theorem framed_log (s t : State) : (s.framed t).log = t.log := rfl
@[simp] theorem framed_clk (s t : State) : (s.framed t).clk = t.clk := rfl
@[simp] theorem framed_aloRx (s t : State) : (s.framed t).aloRx = t.aloRx := rfl
@[simp] theorem framed_aloTx (s t : State) : (s.framed t).aloTx = t.aloTx := rfl
@[simp] theorem framed_flags (s t : State) : (s.framed t).flags = t.flags := rfl
@[simp] theorem framed_health (s t : State) : (s.framed t).health = t.health := rfl
@[simp] theorem framed_bus (s t : State) : (s.framed t).bus = t.bus := rfl
@[simp] theorem framed_tb (s t : State) : (s.framed t).tb = t.tb := rfl
@[simp] theorem framed_slates (s t : State) : (s.framed t).slates = t.slates := rfl
@[simp] theorem framed_pulses (s t : State) : (s.framed t).pulses = t.pulses := rfl
@[simp] theorem framed_conv (s t : State) : (s.framed t).conv = t.conv := rfl
@[simp] theorem framed_devMarks (s t : State) : (s.framed t).devMarks = t.devMarks := rfl
@[simp] theorem framed_standin (s t : State) : (s.framed t).standin = t.standin := rfl
@[simp] theorem framed_pass (s t : State) : (s.framed t).pass = t.pass := rfl
@[simp] theorem framed_cap (s t : State) : (s.framed t).cap = t.cap := rfl
@[simp] theorem framed_fmd (s t : State) : (s.framed t).fmd = t.fmd := rfl
@[simp] theorem framed_amd (s t : State) : (s.framed t).amd = t.amd := rfl
@[simp] theorem framed_ee (s t : State) : (s.framed t).ee = t.ee := rfl
@[simp] theorem framed_svc (s t : State) : (s.framed t).svc = t.svc := rfl
@[simp] theorem framed_prog (s t : State) : (s.framed t).prog = t.prog := rfl
@[simp] theorem framed_inserts (s t : State) : (s.framed t).inserts = t.inserts := rfl
@[simp] theorem framed_port (s t : State) : (s.framed t).port = t.port := rfl
@[simp] theorem framed_fcar (s t : State) : (s.framed t).fcar = t.fcar := rfl
@[simp] theorem framed_dcar (s t : State) : (s.framed t).dcar = t.dcar := rfl
@[simp] theorem framed_tx (s t : State) : (s.framed t).tx = t.tx := rfl
@[simp] theorem framed_cue (s t : State) : (s.framed t).cue = t.cue := rfl
@[simp] theorem framed_cas (s t : State) : (s.framed t).cas = t.cas := rfl
@[simp] theorem framed_host (s t : State) : (s.framed t).host = t.host := rfl
@[simp] theorem framed_cal (s t : State) : (s.framed t).cal = t.cal := rfl

/-! ## State.modRing -/

@[simp] theorem modRing_now (s : State) (i : Nat) (f : Ring → Ring) : (s.modRing i f).now = s.now := rfl
@[simp] theorem modRing_atTick (s : State) (i : Nat) (f : Ring → Ring) : (s.modRing i f).atTick = s.atTick := rfl
@[simp] theorem modRing_phase (s : State) (i : Nat) (f : Ring → Ring) : (s.modRing i f).phase = s.phase := rfl
@[simp] theorem modRing_lastCause (s : State) (i : Nat) (f : Ring → Ring) : (s.modRing i f).lastCause = s.lastCause := rfl
@[simp] theorem modRing_resetPin (s : State) (i : Nat) (f : Ring → Ring) : (s.modRing i f).resetPin = s.resetPin := rfl
@[simp] theorem modRing_heldBrown (s : State) (i : Nat) (f : Ring → Ring) : (s.modRing i f).heldBrown = s.heldBrown := rfl
@[simp] theorem modRing_heldHot (s : State) (i : Nat) (f : Ring → Ring) : (s.modRing i f).heldHot = s.heldHot := rfl
@[simp] theorem modRing_freeCtr (s : State) (i : Nat) (f : Ring → Ring) : (s.modRing i f).freeCtr = s.freeCtr := rfl
@[simp] theorem modRing_straps (s : State) (i : Nat) (f : Ring → Ring) : (s.modRing i f).straps = s.straps := rfl
@[simp] theorem modRing_fuses (s : State) (i : Nat) (f : Ring → Ring) : (s.modRing i f).fuses = s.fuses := rfl
@[simp] theorem modRing_boot (s : State) (i : Nat) (f : Ring → Ring) : (s.modRing i f).boot = s.boot := rfl
@[simp] theorem modRing_lcPending (s : State) (i : Nat) (f : Ring → Ring) : (s.modRing i f).lcPending = s.lcPending := rfl
@[simp] theorem modRing_wipeRun (s : State) (i : Nat) (f : Ring → Ring) : (s.modRing i f).wipeRun = s.wipeRun := rfl
@[simp] theorem modRing_mram (s : State) (i : Nat) (f : Ring → Ring) : (s.modRing i f).mram = s.mram := rfl
@[simp] theorem modRing_log (s : State) (i : Nat) (f : Ring → Ring) : (s.modRing i f).log = s.log := rfl
@[simp] theorem modRing_clk (s : State) (i : Nat) (f : Ring → Ring) : (s.modRing i f).clk = s.clk := rfl
@[simp] theorem modRing_aloRx (s : State) (i : Nat) (f : Ring → Ring) : (s.modRing i f).aloRx = s.aloRx := rfl
@[simp] theorem modRing_aloTx (s : State) (i : Nat) (f : Ring → Ring) : (s.modRing i f).aloTx = s.aloTx := rfl
@[simp] theorem modRing_flags (s : State) (i : Nat) (f : Ring → Ring) : (s.modRing i f).flags = s.flags := rfl
@[simp] theorem modRing_health (s : State) (i : Nat) (f : Ring → Ring) : (s.modRing i f).health = s.health := rfl
@[simp] theorem modRing_bus (s : State) (i : Nat) (f : Ring → Ring) : (s.modRing i f).bus = s.bus := rfl
@[simp] theorem modRing_tb (s : State) (i : Nat) (f : Ring → Ring) : (s.modRing i f).tb = s.tb := rfl
@[simp] theorem modRing_slates (s : State) (i : Nat) (f : Ring → Ring) : (s.modRing i f).slates = s.slates := rfl
@[simp] theorem modRing_pulses (s : State) (i : Nat) (f : Ring → Ring) : (s.modRing i f).pulses = s.pulses := rfl
@[simp] theorem modRing_conv (s : State) (i : Nat) (f : Ring → Ring) : (s.modRing i f).conv = s.conv := rfl
@[simp] theorem modRing_devMarks (s : State) (i : Nat) (f : Ring → Ring) : (s.modRing i f).devMarks = s.devMarks := rfl
@[simp] theorem modRing_standin (s : State) (i : Nat) (f : Ring → Ring) : (s.modRing i f).standin = s.standin := rfl
@[simp] theorem modRing_pass (s : State) (i : Nat) (f : Ring → Ring) : (s.modRing i f).pass = s.pass := rfl
@[simp] theorem modRing_cap (s : State) (i : Nat) (f : Ring → Ring) : (s.modRing i f).cap = s.cap := rfl
@[simp] theorem modRing_fmd (s : State) (i : Nat) (f : Ring → Ring) : (s.modRing i f).fmd = s.fmd := rfl
@[simp] theorem modRing_amd (s : State) (i : Nat) (f : Ring → Ring) : (s.modRing i f).amd = s.amd := rfl
@[simp] theorem modRing_ee (s : State) (i : Nat) (f : Ring → Ring) : (s.modRing i f).ee = s.ee := rfl
@[simp] theorem modRing_svc (s : State) (i : Nat) (f : Ring → Ring) : (s.modRing i f).svc = s.svc := rfl
@[simp] theorem modRing_prog (s : State) (i : Nat) (f : Ring → Ring) : (s.modRing i f).prog = s.prog := rfl
@[simp] theorem modRing_inserts (s : State) (i : Nat) (f : Ring → Ring) : (s.modRing i f).inserts = s.inserts := rfl
@[simp] theorem modRing_port (s : State) (i : Nat) (f : Ring → Ring) : (s.modRing i f).port = s.port := rfl
@[simp] theorem modRing_fcar (s : State) (i : Nat) (f : Ring → Ring) : (s.modRing i f).fcar = s.fcar := rfl
@[simp] theorem modRing_dcar (s : State) (i : Nat) (f : Ring → Ring) : (s.modRing i f).dcar = s.dcar := rfl
@[simp] theorem modRing_tx (s : State) (i : Nat) (f : Ring → Ring) : (s.modRing i f).tx = s.tx := rfl
@[simp] theorem modRing_cue (s : State) (i : Nat) (f : Ring → Ring) : (s.modRing i f).cue = s.cue := rfl
@[simp] theorem modRing_cas (s : State) (i : Nat) (f : Ring → Ring) : (s.modRing i f).cas = s.cas := rfl
@[simp] theorem modRing_cal (s : State) (i : Nat) (f : Ring → Ring) : (s.modRing i f).cal = s.cal := rfl
@[simp] theorem modRing_tap (s : State) (i : Nat) (f : Ring → Ring) : (s.modRing i f).tap = s.tap := rfl
@[simp] theorem modRing_pending (s : State) (i : Nat) (f : Ring → Ring) : (s.modRing i f).pending = s.pending := rfl

/-! ## State.modSb -/

@[simp] theorem modSb_now (s : State) (f : Storyboard → Storyboard) : (s.modSb f).now = s.now := rfl
@[simp] theorem modSb_atTick (s : State) (f : Storyboard → Storyboard) : (s.modSb f).atTick = s.atTick := rfl
@[simp] theorem modSb_phase (s : State) (f : Storyboard → Storyboard) : (s.modSb f).phase = s.phase := rfl
@[simp] theorem modSb_lastCause (s : State) (f : Storyboard → Storyboard) : (s.modSb f).lastCause = s.lastCause := rfl
@[simp] theorem modSb_resetPin (s : State) (f : Storyboard → Storyboard) : (s.modSb f).resetPin = s.resetPin := rfl
@[simp] theorem modSb_heldBrown (s : State) (f : Storyboard → Storyboard) : (s.modSb f).heldBrown = s.heldBrown := rfl
@[simp] theorem modSb_heldHot (s : State) (f : Storyboard → Storyboard) : (s.modSb f).heldHot = s.heldHot := rfl
@[simp] theorem modSb_freeCtr (s : State) (f : Storyboard → Storyboard) : (s.modSb f).freeCtr = s.freeCtr := rfl
@[simp] theorem modSb_straps (s : State) (f : Storyboard → Storyboard) : (s.modSb f).straps = s.straps := rfl
@[simp] theorem modSb_fuses (s : State) (f : Storyboard → Storyboard) : (s.modSb f).fuses = s.fuses := rfl
@[simp] theorem modSb_boot (s : State) (f : Storyboard → Storyboard) : (s.modSb f).boot = s.boot := rfl
@[simp] theorem modSb_lcPending (s : State) (f : Storyboard → Storyboard) : (s.modSb f).lcPending = s.lcPending := rfl
@[simp] theorem modSb_wipeRun (s : State) (f : Storyboard → Storyboard) : (s.modSb f).wipeRun = s.wipeRun := rfl
@[simp] theorem modSb_mram (s : State) (f : Storyboard → Storyboard) : (s.modSb f).mram = s.mram := rfl
@[simp] theorem modSb_log (s : State) (f : Storyboard → Storyboard) : (s.modSb f).log = s.log := rfl
@[simp] theorem modSb_clk (s : State) (f : Storyboard → Storyboard) : (s.modSb f).clk = s.clk := rfl
@[simp] theorem modSb_aloRx (s : State) (f : Storyboard → Storyboard) : (s.modSb f).aloRx = s.aloRx := rfl
@[simp] theorem modSb_aloTx (s : State) (f : Storyboard → Storyboard) : (s.modSb f).aloTx = s.aloTx := rfl
@[simp] theorem modSb_flags (s : State) (f : Storyboard → Storyboard) : (s.modSb f).flags = s.flags := rfl
@[simp] theorem modSb_health (s : State) (f : Storyboard → Storyboard) : (s.modSb f).health = s.health := rfl
@[simp] theorem modSb_bus (s : State) (f : Storyboard → Storyboard) : (s.modSb f).bus = s.bus := rfl
@[simp] theorem modSb_tb (s : State) (f : Storyboard → Storyboard) : (s.modSb f).tb = s.tb := rfl
@[simp] theorem modSb_slates (s : State) (f : Storyboard → Storyboard) : (s.modSb f).slates = s.slates := rfl
@[simp] theorem modSb_pulses (s : State) (f : Storyboard → Storyboard) : (s.modSb f).pulses = s.pulses := rfl
@[simp] theorem modSb_conv (s : State) (f : Storyboard → Storyboard) : (s.modSb f).conv = s.conv := rfl
@[simp] theorem modSb_devMarks (s : State) (f : Storyboard → Storyboard) : (s.modSb f).devMarks = s.devMarks := rfl
@[simp] theorem modSb_standin (s : State) (f : Storyboard → Storyboard) : (s.modSb f).standin = s.standin := rfl
@[simp] theorem modSb_pass (s : State) (f : Storyboard → Storyboard) : (s.modSb f).pass = s.pass := rfl
@[simp] theorem modSb_cap (s : State) (f : Storyboard → Storyboard) : (s.modSb f).cap = s.cap := rfl
@[simp] theorem modSb_fmd (s : State) (f : Storyboard → Storyboard) : (s.modSb f).fmd = s.fmd := rfl
@[simp] theorem modSb_amd (s : State) (f : Storyboard → Storyboard) : (s.modSb f).amd = s.amd := rfl
@[simp] theorem modSb_ee (s : State) (f : Storyboard → Storyboard) : (s.modSb f).ee = s.ee := rfl
@[simp] theorem modSb_svc (s : State) (f : Storyboard → Storyboard) : (s.modSb f).svc = s.svc := rfl
@[simp] theorem modSb_prog (s : State) (f : Storyboard → Storyboard) : (s.modSb f).prog = s.prog := rfl
@[simp] theorem modSb_inserts (s : State) (f : Storyboard → Storyboard) : (s.modSb f).inserts = s.inserts := rfl
@[simp] theorem modSb_port (s : State) (f : Storyboard → Storyboard) : (s.modSb f).port = s.port := rfl
@[simp] theorem modSb_fcar (s : State) (f : Storyboard → Storyboard) : (s.modSb f).fcar = s.fcar := rfl
@[simp] theorem modSb_dcar (s : State) (f : Storyboard → Storyboard) : (s.modSb f).dcar = s.dcar := rfl
@[simp] theorem modSb_tx (s : State) (f : Storyboard → Storyboard) : (s.modSb f).tx = s.tx := rfl
@[simp] theorem modSb_cue (s : State) (f : Storyboard → Storyboard) : (s.modSb f).cue = s.cue := rfl
@[simp] theorem modSb_cas (s : State) (f : Storyboard → Storyboard) : (s.modSb f).cas = s.cas := rfl
@[simp] theorem modSb_cal (s : State) (f : Storyboard → Storyboard) : (s.modSb f).cal = s.cal := rfl
@[simp] theorem modSb_tap (s : State) (f : Storyboard → Storyboard) : (s.modSb f).tap = s.tap := rfl
@[simp] theorem modSb_pending (s : State) (f : Storyboard → Storyboard) : (s.modSb f).pending = s.pending := rfl

/-! ## State.modMsix -/

@[simp] theorem modMsix_now (s : State) (f : Msix → Msix) : (s.modMsix f).now = s.now := rfl
@[simp] theorem modMsix_atTick (s : State) (f : Msix → Msix) : (s.modMsix f).atTick = s.atTick := rfl
@[simp] theorem modMsix_phase (s : State) (f : Msix → Msix) : (s.modMsix f).phase = s.phase := rfl
@[simp] theorem modMsix_lastCause (s : State) (f : Msix → Msix) : (s.modMsix f).lastCause = s.lastCause := rfl
@[simp] theorem modMsix_resetPin (s : State) (f : Msix → Msix) : (s.modMsix f).resetPin = s.resetPin := rfl
@[simp] theorem modMsix_heldBrown (s : State) (f : Msix → Msix) : (s.modMsix f).heldBrown = s.heldBrown := rfl
@[simp] theorem modMsix_heldHot (s : State) (f : Msix → Msix) : (s.modMsix f).heldHot = s.heldHot := rfl
@[simp] theorem modMsix_freeCtr (s : State) (f : Msix → Msix) : (s.modMsix f).freeCtr = s.freeCtr := rfl
@[simp] theorem modMsix_straps (s : State) (f : Msix → Msix) : (s.modMsix f).straps = s.straps := rfl
@[simp] theorem modMsix_fuses (s : State) (f : Msix → Msix) : (s.modMsix f).fuses = s.fuses := rfl
@[simp] theorem modMsix_boot (s : State) (f : Msix → Msix) : (s.modMsix f).boot = s.boot := rfl
@[simp] theorem modMsix_lcPending (s : State) (f : Msix → Msix) : (s.modMsix f).lcPending = s.lcPending := rfl
@[simp] theorem modMsix_wipeRun (s : State) (f : Msix → Msix) : (s.modMsix f).wipeRun = s.wipeRun := rfl
@[simp] theorem modMsix_mram (s : State) (f : Msix → Msix) : (s.modMsix f).mram = s.mram := rfl
@[simp] theorem modMsix_log (s : State) (f : Msix → Msix) : (s.modMsix f).log = s.log := rfl
@[simp] theorem modMsix_clk (s : State) (f : Msix → Msix) : (s.modMsix f).clk = s.clk := rfl
@[simp] theorem modMsix_aloRx (s : State) (f : Msix → Msix) : (s.modMsix f).aloRx = s.aloRx := rfl
@[simp] theorem modMsix_aloTx (s : State) (f : Msix → Msix) : (s.modMsix f).aloTx = s.aloTx := rfl
@[simp] theorem modMsix_flags (s : State) (f : Msix → Msix) : (s.modMsix f).flags = s.flags := rfl
@[simp] theorem modMsix_health (s : State) (f : Msix → Msix) : (s.modMsix f).health = s.health := rfl
@[simp] theorem modMsix_bus (s : State) (f : Msix → Msix) : (s.modMsix f).bus = s.bus := rfl
@[simp] theorem modMsix_tb (s : State) (f : Msix → Msix) : (s.modMsix f).tb = s.tb := rfl
@[simp] theorem modMsix_slates (s : State) (f : Msix → Msix) : (s.modMsix f).slates = s.slates := rfl
@[simp] theorem modMsix_pulses (s : State) (f : Msix → Msix) : (s.modMsix f).pulses = s.pulses := rfl
@[simp] theorem modMsix_conv (s : State) (f : Msix → Msix) : (s.modMsix f).conv = s.conv := rfl
@[simp] theorem modMsix_devMarks (s : State) (f : Msix → Msix) : (s.modMsix f).devMarks = s.devMarks := rfl
@[simp] theorem modMsix_standin (s : State) (f : Msix → Msix) : (s.modMsix f).standin = s.standin := rfl
@[simp] theorem modMsix_pass (s : State) (f : Msix → Msix) : (s.modMsix f).pass = s.pass := rfl
@[simp] theorem modMsix_cap (s : State) (f : Msix → Msix) : (s.modMsix f).cap = s.cap := rfl
@[simp] theorem modMsix_fmd (s : State) (f : Msix → Msix) : (s.modMsix f).fmd = s.fmd := rfl
@[simp] theorem modMsix_amd (s : State) (f : Msix → Msix) : (s.modMsix f).amd = s.amd := rfl
@[simp] theorem modMsix_ee (s : State) (f : Msix → Msix) : (s.modMsix f).ee = s.ee := rfl
@[simp] theorem modMsix_svc (s : State) (f : Msix → Msix) : (s.modMsix f).svc = s.svc := rfl
@[simp] theorem modMsix_prog (s : State) (f : Msix → Msix) : (s.modMsix f).prog = s.prog := rfl
@[simp] theorem modMsix_inserts (s : State) (f : Msix → Msix) : (s.modMsix f).inserts = s.inserts := rfl
@[simp] theorem modMsix_port (s : State) (f : Msix → Msix) : (s.modMsix f).port = s.port := rfl
@[simp] theorem modMsix_fcar (s : State) (f : Msix → Msix) : (s.modMsix f).fcar = s.fcar := rfl
@[simp] theorem modMsix_dcar (s : State) (f : Msix → Msix) : (s.modMsix f).dcar = s.dcar := rfl
@[simp] theorem modMsix_tx (s : State) (f : Msix → Msix) : (s.modMsix f).tx = s.tx := rfl
@[simp] theorem modMsix_cue (s : State) (f : Msix → Msix) : (s.modMsix f).cue = s.cue := rfl
@[simp] theorem modMsix_cas (s : State) (f : Msix → Msix) : (s.modMsix f).cas = s.cas := rfl
@[simp] theorem modMsix_cal (s : State) (f : Msix → Msix) : (s.modMsix f).cal = s.cal := rfl
@[simp] theorem modMsix_tap (s : State) (f : Msix → Msix) : (s.modMsix f).tap = s.tap := rfl
@[simp] theorem modMsix_pending (s : State) (f : Msix → Msix) : (s.modMsix f).pending = s.pending := rfl

/-! ## State.signalVec -/

@[simp] theorem signalVec_now (s : State) (v : Nat) : (s.signalVec v).now = s.now := rfl
@[simp] theorem signalVec_atTick (s : State) (v : Nat) : (s.signalVec v).atTick = s.atTick := rfl
@[simp] theorem signalVec_phase (s : State) (v : Nat) : (s.signalVec v).phase = s.phase := rfl
@[simp] theorem signalVec_lastCause (s : State) (v : Nat) : (s.signalVec v).lastCause = s.lastCause := rfl
@[simp] theorem signalVec_resetPin (s : State) (v : Nat) : (s.signalVec v).resetPin = s.resetPin := rfl
@[simp] theorem signalVec_heldBrown (s : State) (v : Nat) : (s.signalVec v).heldBrown = s.heldBrown := rfl
@[simp] theorem signalVec_heldHot (s : State) (v : Nat) : (s.signalVec v).heldHot = s.heldHot := rfl
@[simp] theorem signalVec_freeCtr (s : State) (v : Nat) : (s.signalVec v).freeCtr = s.freeCtr := rfl
@[simp] theorem signalVec_straps (s : State) (v : Nat) : (s.signalVec v).straps = s.straps := rfl
@[simp] theorem signalVec_fuses (s : State) (v : Nat) : (s.signalVec v).fuses = s.fuses := rfl
@[simp] theorem signalVec_boot (s : State) (v : Nat) : (s.signalVec v).boot = s.boot := rfl
@[simp] theorem signalVec_lcPending (s : State) (v : Nat) : (s.signalVec v).lcPending = s.lcPending := rfl
@[simp] theorem signalVec_wipeRun (s : State) (v : Nat) : (s.signalVec v).wipeRun = s.wipeRun := rfl
@[simp] theorem signalVec_mram (s : State) (v : Nat) : (s.signalVec v).mram = s.mram := rfl
@[simp] theorem signalVec_log (s : State) (v : Nat) : (s.signalVec v).log = s.log := rfl
@[simp] theorem signalVec_clk (s : State) (v : Nat) : (s.signalVec v).clk = s.clk := rfl
@[simp] theorem signalVec_aloRx (s : State) (v : Nat) : (s.signalVec v).aloRx = s.aloRx := rfl
@[simp] theorem signalVec_aloTx (s : State) (v : Nat) : (s.signalVec v).aloTx = s.aloTx := rfl
@[simp] theorem signalVec_flags (s : State) (v : Nat) : (s.signalVec v).flags = s.flags := rfl
@[simp] theorem signalVec_health (s : State) (v : Nat) : (s.signalVec v).health = s.health := rfl
@[simp] theorem signalVec_bus (s : State) (v : Nat) : (s.signalVec v).bus = s.bus := rfl
@[simp] theorem signalVec_tb (s : State) (v : Nat) : (s.signalVec v).tb = s.tb := rfl
@[simp] theorem signalVec_slates (s : State) (v : Nat) : (s.signalVec v).slates = s.slates := rfl
@[simp] theorem signalVec_pulses (s : State) (v : Nat) : (s.signalVec v).pulses = s.pulses := rfl
@[simp] theorem signalVec_conv (s : State) (v : Nat) : (s.signalVec v).conv = s.conv := rfl
@[simp] theorem signalVec_devMarks (s : State) (v : Nat) : (s.signalVec v).devMarks = s.devMarks := rfl
@[simp] theorem signalVec_standin (s : State) (v : Nat) : (s.signalVec v).standin = s.standin := rfl
@[simp] theorem signalVec_pass (s : State) (v : Nat) : (s.signalVec v).pass = s.pass := rfl
@[simp] theorem signalVec_cap (s : State) (v : Nat) : (s.signalVec v).cap = s.cap := rfl
@[simp] theorem signalVec_fmd (s : State) (v : Nat) : (s.signalVec v).fmd = s.fmd := rfl
@[simp] theorem signalVec_amd (s : State) (v : Nat) : (s.signalVec v).amd = s.amd := rfl
@[simp] theorem signalVec_ee (s : State) (v : Nat) : (s.signalVec v).ee = s.ee := rfl
@[simp] theorem signalVec_svc (s : State) (v : Nat) : (s.signalVec v).svc = s.svc := rfl
@[simp] theorem signalVec_prog (s : State) (v : Nat) : (s.signalVec v).prog = s.prog := rfl
@[simp] theorem signalVec_inserts (s : State) (v : Nat) : (s.signalVec v).inserts = s.inserts := rfl
@[simp] theorem signalVec_port (s : State) (v : Nat) : (s.signalVec v).port = s.port := rfl
@[simp] theorem signalVec_fcar (s : State) (v : Nat) : (s.signalVec v).fcar = s.fcar := rfl
@[simp] theorem signalVec_dcar (s : State) (v : Nat) : (s.signalVec v).dcar = s.dcar := rfl
@[simp] theorem signalVec_tx (s : State) (v : Nat) : (s.signalVec v).tx = s.tx := rfl
@[simp] theorem signalVec_cue (s : State) (v : Nat) : (s.signalVec v).cue = s.cue := rfl
@[simp] theorem signalVec_cas (s : State) (v : Nat) : (s.signalVec v).cas = s.cas := rfl
@[simp] theorem signalVec_cal (s : State) (v : Nat) : (s.signalVec v).cal = s.cal := rfl
@[simp] theorem signalVec_tap (s : State) (v : Nat) : (s.signalVec v).tap = s.tap := rfl
@[simp] theorem signalVec_pending (s : State) (v : Nat) : (s.signalVec v).pending = s.pending := rfl

/-! ## State.modTap -/

@[simp] theorem modTap_now (s : State) (f : Tap → Tap) : (s.modTap f).now = s.now := rfl
@[simp] theorem modTap_atTick (s : State) (f : Tap → Tap) : (s.modTap f).atTick = s.atTick := rfl
@[simp] theorem modTap_phase (s : State) (f : Tap → Tap) : (s.modTap f).phase = s.phase := rfl
@[simp] theorem modTap_lastCause (s : State) (f : Tap → Tap) : (s.modTap f).lastCause = s.lastCause := rfl
@[simp] theorem modTap_resetPin (s : State) (f : Tap → Tap) : (s.modTap f).resetPin = s.resetPin := rfl
@[simp] theorem modTap_heldBrown (s : State) (f : Tap → Tap) : (s.modTap f).heldBrown = s.heldBrown := rfl
@[simp] theorem modTap_heldHot (s : State) (f : Tap → Tap) : (s.modTap f).heldHot = s.heldHot := rfl
@[simp] theorem modTap_freeCtr (s : State) (f : Tap → Tap) : (s.modTap f).freeCtr = s.freeCtr := rfl
@[simp] theorem modTap_straps (s : State) (f : Tap → Tap) : (s.modTap f).straps = s.straps := rfl
@[simp] theorem modTap_fuses (s : State) (f : Tap → Tap) : (s.modTap f).fuses = s.fuses := rfl
@[simp] theorem modTap_boot (s : State) (f : Tap → Tap) : (s.modTap f).boot = s.boot := rfl
@[simp] theorem modTap_lcPending (s : State) (f : Tap → Tap) : (s.modTap f).lcPending = s.lcPending := rfl
@[simp] theorem modTap_wipeRun (s : State) (f : Tap → Tap) : (s.modTap f).wipeRun = s.wipeRun := rfl
@[simp] theorem modTap_mram (s : State) (f : Tap → Tap) : (s.modTap f).mram = s.mram := rfl
@[simp] theorem modTap_log (s : State) (f : Tap → Tap) : (s.modTap f).log = s.log := rfl
@[simp] theorem modTap_clk (s : State) (f : Tap → Tap) : (s.modTap f).clk = s.clk := rfl
@[simp] theorem modTap_aloRx (s : State) (f : Tap → Tap) : (s.modTap f).aloRx = s.aloRx := rfl
@[simp] theorem modTap_aloTx (s : State) (f : Tap → Tap) : (s.modTap f).aloTx = s.aloTx := rfl
@[simp] theorem modTap_flags (s : State) (f : Tap → Tap) : (s.modTap f).flags = s.flags := rfl
@[simp] theorem modTap_health (s : State) (f : Tap → Tap) : (s.modTap f).health = s.health := rfl
@[simp] theorem modTap_bus (s : State) (f : Tap → Tap) : (s.modTap f).bus = s.bus := rfl
@[simp] theorem modTap_tb (s : State) (f : Tap → Tap) : (s.modTap f).tb = s.tb := rfl
@[simp] theorem modTap_slates (s : State) (f : Tap → Tap) : (s.modTap f).slates = s.slates := rfl
@[simp] theorem modTap_pulses (s : State) (f : Tap → Tap) : (s.modTap f).pulses = s.pulses := rfl
@[simp] theorem modTap_conv (s : State) (f : Tap → Tap) : (s.modTap f).conv = s.conv := rfl
@[simp] theorem modTap_devMarks (s : State) (f : Tap → Tap) : (s.modTap f).devMarks = s.devMarks := rfl
@[simp] theorem modTap_standin (s : State) (f : Tap → Tap) : (s.modTap f).standin = s.standin := rfl
@[simp] theorem modTap_pass (s : State) (f : Tap → Tap) : (s.modTap f).pass = s.pass := rfl
@[simp] theorem modTap_cap (s : State) (f : Tap → Tap) : (s.modTap f).cap = s.cap := rfl
@[simp] theorem modTap_fmd (s : State) (f : Tap → Tap) : (s.modTap f).fmd = s.fmd := rfl
@[simp] theorem modTap_amd (s : State) (f : Tap → Tap) : (s.modTap f).amd = s.amd := rfl
@[simp] theorem modTap_ee (s : State) (f : Tap → Tap) : (s.modTap f).ee = s.ee := rfl
@[simp] theorem modTap_svc (s : State) (f : Tap → Tap) : (s.modTap f).svc = s.svc := rfl
@[simp] theorem modTap_prog (s : State) (f : Tap → Tap) : (s.modTap f).prog = s.prog := rfl
@[simp] theorem modTap_inserts (s : State) (f : Tap → Tap) : (s.modTap f).inserts = s.inserts := rfl
@[simp] theorem modTap_port (s : State) (f : Tap → Tap) : (s.modTap f).port = s.port := rfl
@[simp] theorem modTap_fcar (s : State) (f : Tap → Tap) : (s.modTap f).fcar = s.fcar := rfl
@[simp] theorem modTap_dcar (s : State) (f : Tap → Tap) : (s.modTap f).dcar = s.dcar := rfl
@[simp] theorem modTap_tx (s : State) (f : Tap → Tap) : (s.modTap f).tx = s.tx := rfl
@[simp] theorem modTap_cue (s : State) (f : Tap → Tap) : (s.modTap f).cue = s.cue := rfl
@[simp] theorem modTap_cas (s : State) (f : Tap → Tap) : (s.modTap f).cas = s.cas := rfl
@[simp] theorem modTap_host (s : State) (f : Tap → Tap) : (s.modTap f).host = s.host := rfl
@[simp] theorem modTap_cal (s : State) (f : Tap → Tap) : (s.modTap f).cal = s.cal := rfl
@[simp] theorem modTap_pending (s : State) (f : Tap → Tap) : (s.modTap f).pending = s.pending := rfl

/-! ## State.modCas -/

@[simp] theorem modCas_now (s : State) (f : Cas → Cas) : (s.modCas f).now = s.now := rfl
@[simp] theorem modCas_atTick (s : State) (f : Cas → Cas) : (s.modCas f).atTick = s.atTick := rfl
@[simp] theorem modCas_phase (s : State) (f : Cas → Cas) : (s.modCas f).phase = s.phase := rfl
@[simp] theorem modCas_lastCause (s : State) (f : Cas → Cas) : (s.modCas f).lastCause = s.lastCause := rfl
@[simp] theorem modCas_resetPin (s : State) (f : Cas → Cas) : (s.modCas f).resetPin = s.resetPin := rfl
@[simp] theorem modCas_heldBrown (s : State) (f : Cas → Cas) : (s.modCas f).heldBrown = s.heldBrown := rfl
@[simp] theorem modCas_heldHot (s : State) (f : Cas → Cas) : (s.modCas f).heldHot = s.heldHot := rfl
@[simp] theorem modCas_freeCtr (s : State) (f : Cas → Cas) : (s.modCas f).freeCtr = s.freeCtr := rfl
@[simp] theorem modCas_straps (s : State) (f : Cas → Cas) : (s.modCas f).straps = s.straps := rfl
@[simp] theorem modCas_fuses (s : State) (f : Cas → Cas) : (s.modCas f).fuses = s.fuses := rfl
@[simp] theorem modCas_boot (s : State) (f : Cas → Cas) : (s.modCas f).boot = s.boot := rfl
@[simp] theorem modCas_lcPending (s : State) (f : Cas → Cas) : (s.modCas f).lcPending = s.lcPending := rfl
@[simp] theorem modCas_wipeRun (s : State) (f : Cas → Cas) : (s.modCas f).wipeRun = s.wipeRun := rfl
@[simp] theorem modCas_mram (s : State) (f : Cas → Cas) : (s.modCas f).mram = s.mram := rfl
@[simp] theorem modCas_log (s : State) (f : Cas → Cas) : (s.modCas f).log = s.log := rfl
@[simp] theorem modCas_clk (s : State) (f : Cas → Cas) : (s.modCas f).clk = s.clk := rfl
@[simp] theorem modCas_aloRx (s : State) (f : Cas → Cas) : (s.modCas f).aloRx = s.aloRx := rfl
@[simp] theorem modCas_aloTx (s : State) (f : Cas → Cas) : (s.modCas f).aloTx = s.aloTx := rfl
@[simp] theorem modCas_flags (s : State) (f : Cas → Cas) : (s.modCas f).flags = s.flags := rfl
@[simp] theorem modCas_health (s : State) (f : Cas → Cas) : (s.modCas f).health = s.health := rfl
@[simp] theorem modCas_bus (s : State) (f : Cas → Cas) : (s.modCas f).bus = s.bus := rfl
@[simp] theorem modCas_tb (s : State) (f : Cas → Cas) : (s.modCas f).tb = s.tb := rfl
@[simp] theorem modCas_slates (s : State) (f : Cas → Cas) : (s.modCas f).slates = s.slates := rfl
@[simp] theorem modCas_pulses (s : State) (f : Cas → Cas) : (s.modCas f).pulses = s.pulses := rfl
@[simp] theorem modCas_conv (s : State) (f : Cas → Cas) : (s.modCas f).conv = s.conv := rfl
@[simp] theorem modCas_devMarks (s : State) (f : Cas → Cas) : (s.modCas f).devMarks = s.devMarks := rfl
@[simp] theorem modCas_standin (s : State) (f : Cas → Cas) : (s.modCas f).standin = s.standin := rfl
@[simp] theorem modCas_pass (s : State) (f : Cas → Cas) : (s.modCas f).pass = s.pass := rfl
@[simp] theorem modCas_cap (s : State) (f : Cas → Cas) : (s.modCas f).cap = s.cap := rfl
@[simp] theorem modCas_fmd (s : State) (f : Cas → Cas) : (s.modCas f).fmd = s.fmd := rfl
@[simp] theorem modCas_amd (s : State) (f : Cas → Cas) : (s.modCas f).amd = s.amd := rfl
@[simp] theorem modCas_ee (s : State) (f : Cas → Cas) : (s.modCas f).ee = s.ee := rfl
@[simp] theorem modCas_svc (s : State) (f : Cas → Cas) : (s.modCas f).svc = s.svc := rfl
@[simp] theorem modCas_prog (s : State) (f : Cas → Cas) : (s.modCas f).prog = s.prog := rfl
@[simp] theorem modCas_inserts (s : State) (f : Cas → Cas) : (s.modCas f).inserts = s.inserts := rfl
@[simp] theorem modCas_port (s : State) (f : Cas → Cas) : (s.modCas f).port = s.port := rfl
@[simp] theorem modCas_fcar (s : State) (f : Cas → Cas) : (s.modCas f).fcar = s.fcar := rfl
@[simp] theorem modCas_dcar (s : State) (f : Cas → Cas) : (s.modCas f).dcar = s.dcar := rfl
@[simp] theorem modCas_tx (s : State) (f : Cas → Cas) : (s.modCas f).tx = s.tx := rfl
@[simp] theorem modCas_cue (s : State) (f : Cas → Cas) : (s.modCas f).cue = s.cue := rfl
@[simp] theorem modCas_host (s : State) (f : Cas → Cas) : (s.modCas f).host = s.host := rfl
@[simp] theorem modCas_cal (s : State) (f : Cas → Cas) : (s.modCas f).cal = s.cal := rfl
@[simp] theorem modCas_tap (s : State) (f : Cas → Cas) : (s.modCas f).tap = s.tap := rfl
@[simp] theorem modCas_pending (s : State) (f : Cas → Cas) : (s.modCas f).pending = s.pending := rfl

/-! ## State.modStandin -/

@[simp] theorem modStandin_now (s : State) (f : Standin → Standin) : (s.modStandin f).now = s.now := rfl
@[simp] theorem modStandin_atTick (s : State) (f : Standin → Standin) : (s.modStandin f).atTick = s.atTick := rfl
@[simp] theorem modStandin_phase (s : State) (f : Standin → Standin) : (s.modStandin f).phase = s.phase := rfl
@[simp] theorem modStandin_lastCause (s : State) (f : Standin → Standin) : (s.modStandin f).lastCause = s.lastCause := rfl
@[simp] theorem modStandin_resetPin (s : State) (f : Standin → Standin) : (s.modStandin f).resetPin = s.resetPin := rfl
@[simp] theorem modStandin_heldBrown (s : State) (f : Standin → Standin) : (s.modStandin f).heldBrown = s.heldBrown := rfl
@[simp] theorem modStandin_heldHot (s : State) (f : Standin → Standin) : (s.modStandin f).heldHot = s.heldHot := rfl
@[simp] theorem modStandin_freeCtr (s : State) (f : Standin → Standin) : (s.modStandin f).freeCtr = s.freeCtr := rfl
@[simp] theorem modStandin_straps (s : State) (f : Standin → Standin) : (s.modStandin f).straps = s.straps := rfl
@[simp] theorem modStandin_fuses (s : State) (f : Standin → Standin) : (s.modStandin f).fuses = s.fuses := rfl
@[simp] theorem modStandin_boot (s : State) (f : Standin → Standin) : (s.modStandin f).boot = s.boot := rfl
@[simp] theorem modStandin_lcPending (s : State) (f : Standin → Standin) : (s.modStandin f).lcPending = s.lcPending := rfl
@[simp] theorem modStandin_wipeRun (s : State) (f : Standin → Standin) : (s.modStandin f).wipeRun = s.wipeRun := rfl
@[simp] theorem modStandin_mram (s : State) (f : Standin → Standin) : (s.modStandin f).mram = s.mram := rfl
@[simp] theorem modStandin_log (s : State) (f : Standin → Standin) : (s.modStandin f).log = s.log := rfl
@[simp] theorem modStandin_clk (s : State) (f : Standin → Standin) : (s.modStandin f).clk = s.clk := rfl
@[simp] theorem modStandin_aloRx (s : State) (f : Standin → Standin) : (s.modStandin f).aloRx = s.aloRx := rfl
@[simp] theorem modStandin_aloTx (s : State) (f : Standin → Standin) : (s.modStandin f).aloTx = s.aloTx := rfl
@[simp] theorem modStandin_flags (s : State) (f : Standin → Standin) : (s.modStandin f).flags = s.flags := rfl
@[simp] theorem modStandin_health (s : State) (f : Standin → Standin) : (s.modStandin f).health = s.health := rfl
@[simp] theorem modStandin_bus (s : State) (f : Standin → Standin) : (s.modStandin f).bus = s.bus := rfl
@[simp] theorem modStandin_tb (s : State) (f : Standin → Standin) : (s.modStandin f).tb = s.tb := rfl
@[simp] theorem modStandin_slates (s : State) (f : Standin → Standin) : (s.modStandin f).slates = s.slates := rfl
@[simp] theorem modStandin_pulses (s : State) (f : Standin → Standin) : (s.modStandin f).pulses = s.pulses := rfl
@[simp] theorem modStandin_conv (s : State) (f : Standin → Standin) : (s.modStandin f).conv = s.conv := rfl
@[simp] theorem modStandin_devMarks (s : State) (f : Standin → Standin) : (s.modStandin f).devMarks = s.devMarks := rfl
@[simp] theorem modStandin_pass (s : State) (f : Standin → Standin) : (s.modStandin f).pass = s.pass := rfl
@[simp] theorem modStandin_cap (s : State) (f : Standin → Standin) : (s.modStandin f).cap = s.cap := rfl
@[simp] theorem modStandin_fmd (s : State) (f : Standin → Standin) : (s.modStandin f).fmd = s.fmd := rfl
@[simp] theorem modStandin_amd (s : State) (f : Standin → Standin) : (s.modStandin f).amd = s.amd := rfl
@[simp] theorem modStandin_ee (s : State) (f : Standin → Standin) : (s.modStandin f).ee = s.ee := rfl
@[simp] theorem modStandin_svc (s : State) (f : Standin → Standin) : (s.modStandin f).svc = s.svc := rfl
@[simp] theorem modStandin_prog (s : State) (f : Standin → Standin) : (s.modStandin f).prog = s.prog := rfl
@[simp] theorem modStandin_inserts (s : State) (f : Standin → Standin) : (s.modStandin f).inserts = s.inserts := rfl
@[simp] theorem modStandin_port (s : State) (f : Standin → Standin) : (s.modStandin f).port = s.port := rfl
@[simp] theorem modStandin_fcar (s : State) (f : Standin → Standin) : (s.modStandin f).fcar = s.fcar := rfl
@[simp] theorem modStandin_dcar (s : State) (f : Standin → Standin) : (s.modStandin f).dcar = s.dcar := rfl
@[simp] theorem modStandin_tx (s : State) (f : Standin → Standin) : (s.modStandin f).tx = s.tx := rfl
@[simp] theorem modStandin_cue (s : State) (f : Standin → Standin) : (s.modStandin f).cue = s.cue := rfl
@[simp] theorem modStandin_cas (s : State) (f : Standin → Standin) : (s.modStandin f).cas = s.cas := rfl
@[simp] theorem modStandin_host (s : State) (f : Standin → Standin) : (s.modStandin f).host = s.host := rfl
@[simp] theorem modStandin_cal (s : State) (f : Standin → Standin) : (s.modStandin f).cal = s.cal := rfl
@[simp] theorem modStandin_tap (s : State) (f : Standin → Standin) : (s.modStandin f).tap = s.tap := rfl
@[simp] theorem modStandin_pending (s : State) (f : Standin → Standin) : (s.modStandin f).pending = s.pending := rfl

/-! ## State.modUnit -/

@[simp] theorem modUnit_now (s : State) (u : Nat) (f : CalUnit → CalUnit) : (s.modUnit u f).now = s.now := rfl
@[simp] theorem modUnit_atTick (s : State) (u : Nat) (f : CalUnit → CalUnit) : (s.modUnit u f).atTick = s.atTick := rfl
@[simp] theorem modUnit_phase (s : State) (u : Nat) (f : CalUnit → CalUnit) : (s.modUnit u f).phase = s.phase := rfl
@[simp] theorem modUnit_lastCause (s : State) (u : Nat) (f : CalUnit → CalUnit) : (s.modUnit u f).lastCause = s.lastCause := rfl
@[simp] theorem modUnit_resetPin (s : State) (u : Nat) (f : CalUnit → CalUnit) : (s.modUnit u f).resetPin = s.resetPin := rfl
@[simp] theorem modUnit_heldBrown (s : State) (u : Nat) (f : CalUnit → CalUnit) : (s.modUnit u f).heldBrown = s.heldBrown := rfl
@[simp] theorem modUnit_heldHot (s : State) (u : Nat) (f : CalUnit → CalUnit) : (s.modUnit u f).heldHot = s.heldHot := rfl
@[simp] theorem modUnit_freeCtr (s : State) (u : Nat) (f : CalUnit → CalUnit) : (s.modUnit u f).freeCtr = s.freeCtr := rfl
@[simp] theorem modUnit_straps (s : State) (u : Nat) (f : CalUnit → CalUnit) : (s.modUnit u f).straps = s.straps := rfl
@[simp] theorem modUnit_fuses (s : State) (u : Nat) (f : CalUnit → CalUnit) : (s.modUnit u f).fuses = s.fuses := rfl
@[simp] theorem modUnit_boot (s : State) (u : Nat) (f : CalUnit → CalUnit) : (s.modUnit u f).boot = s.boot := rfl
@[simp] theorem modUnit_lcPending (s : State) (u : Nat) (f : CalUnit → CalUnit) : (s.modUnit u f).lcPending = s.lcPending := rfl
@[simp] theorem modUnit_wipeRun (s : State) (u : Nat) (f : CalUnit → CalUnit) : (s.modUnit u f).wipeRun = s.wipeRun := rfl
@[simp] theorem modUnit_mram (s : State) (u : Nat) (f : CalUnit → CalUnit) : (s.modUnit u f).mram = s.mram := rfl
@[simp] theorem modUnit_log (s : State) (u : Nat) (f : CalUnit → CalUnit) : (s.modUnit u f).log = s.log := rfl
@[simp] theorem modUnit_clk (s : State) (u : Nat) (f : CalUnit → CalUnit) : (s.modUnit u f).clk = s.clk := rfl
@[simp] theorem modUnit_aloRx (s : State) (u : Nat) (f : CalUnit → CalUnit) : (s.modUnit u f).aloRx = s.aloRx := rfl
@[simp] theorem modUnit_aloTx (s : State) (u : Nat) (f : CalUnit → CalUnit) : (s.modUnit u f).aloTx = s.aloTx := rfl
@[simp] theorem modUnit_flags (s : State) (u : Nat) (f : CalUnit → CalUnit) : (s.modUnit u f).flags = s.flags := rfl
@[simp] theorem modUnit_health (s : State) (u : Nat) (f : CalUnit → CalUnit) : (s.modUnit u f).health = s.health := rfl
@[simp] theorem modUnit_bus (s : State) (u : Nat) (f : CalUnit → CalUnit) : (s.modUnit u f).bus = s.bus := rfl
@[simp] theorem modUnit_tb (s : State) (u : Nat) (f : CalUnit → CalUnit) : (s.modUnit u f).tb = s.tb := rfl
@[simp] theorem modUnit_slates (s : State) (u : Nat) (f : CalUnit → CalUnit) : (s.modUnit u f).slates = s.slates := rfl
@[simp] theorem modUnit_pulses (s : State) (u : Nat) (f : CalUnit → CalUnit) : (s.modUnit u f).pulses = s.pulses := rfl
@[simp] theorem modUnit_conv (s : State) (u : Nat) (f : CalUnit → CalUnit) : (s.modUnit u f).conv = s.conv := rfl
@[simp] theorem modUnit_devMarks (s : State) (u : Nat) (f : CalUnit → CalUnit) : (s.modUnit u f).devMarks = s.devMarks := rfl
@[simp] theorem modUnit_standin (s : State) (u : Nat) (f : CalUnit → CalUnit) : (s.modUnit u f).standin = s.standin := rfl
@[simp] theorem modUnit_pass (s : State) (u : Nat) (f : CalUnit → CalUnit) : (s.modUnit u f).pass = s.pass := rfl
@[simp] theorem modUnit_cap (s : State) (u : Nat) (f : CalUnit → CalUnit) : (s.modUnit u f).cap = s.cap := rfl
@[simp] theorem modUnit_fmd (s : State) (u : Nat) (f : CalUnit → CalUnit) : (s.modUnit u f).fmd = s.fmd := rfl
@[simp] theorem modUnit_amd (s : State) (u : Nat) (f : CalUnit → CalUnit) : (s.modUnit u f).amd = s.amd := rfl
@[simp] theorem modUnit_ee (s : State) (u : Nat) (f : CalUnit → CalUnit) : (s.modUnit u f).ee = s.ee := rfl
@[simp] theorem modUnit_svc (s : State) (u : Nat) (f : CalUnit → CalUnit) : (s.modUnit u f).svc = s.svc := rfl
@[simp] theorem modUnit_prog (s : State) (u : Nat) (f : CalUnit → CalUnit) : (s.modUnit u f).prog = s.prog := rfl
@[simp] theorem modUnit_inserts (s : State) (u : Nat) (f : CalUnit → CalUnit) : (s.modUnit u f).inserts = s.inserts := rfl
@[simp] theorem modUnit_port (s : State) (u : Nat) (f : CalUnit → CalUnit) : (s.modUnit u f).port = s.port := rfl
@[simp] theorem modUnit_fcar (s : State) (u : Nat) (f : CalUnit → CalUnit) : (s.modUnit u f).fcar = s.fcar := rfl
@[simp] theorem modUnit_dcar (s : State) (u : Nat) (f : CalUnit → CalUnit) : (s.modUnit u f).dcar = s.dcar := rfl
@[simp] theorem modUnit_tx (s : State) (u : Nat) (f : CalUnit → CalUnit) : (s.modUnit u f).tx = s.tx := rfl
@[simp] theorem modUnit_cue (s : State) (u : Nat) (f : CalUnit → CalUnit) : (s.modUnit u f).cue = s.cue := rfl
@[simp] theorem modUnit_cas (s : State) (u : Nat) (f : CalUnit → CalUnit) : (s.modUnit u f).cas = s.cas := rfl
@[simp] theorem modUnit_host (s : State) (u : Nat) (f : CalUnit → CalUnit) : (s.modUnit u f).host = s.host := rfl
@[simp] theorem modUnit_tap (s : State) (u : Nat) (f : CalUnit → CalUnit) : (s.modUnit u f).tap = s.tap := rfl
@[simp] theorem modUnit_pending (s : State) (u : Nat) (f : CalUnit → CalUnit) : (s.modUnit u f).pending = s.pending := rfl

/-! ## State.modSvc -/

@[simp] theorem modSvc_now (s : State) (f : Services → Services) : (s.modSvc f).now = s.now := rfl
@[simp] theorem modSvc_atTick (s : State) (f : Services → Services) : (s.modSvc f).atTick = s.atTick := rfl
@[simp] theorem modSvc_phase (s : State) (f : Services → Services) : (s.modSvc f).phase = s.phase := rfl
@[simp] theorem modSvc_lastCause (s : State) (f : Services → Services) : (s.modSvc f).lastCause = s.lastCause := rfl
@[simp] theorem modSvc_resetPin (s : State) (f : Services → Services) : (s.modSvc f).resetPin = s.resetPin := rfl
@[simp] theorem modSvc_heldBrown (s : State) (f : Services → Services) : (s.modSvc f).heldBrown = s.heldBrown := rfl
@[simp] theorem modSvc_heldHot (s : State) (f : Services → Services) : (s.modSvc f).heldHot = s.heldHot := rfl
@[simp] theorem modSvc_freeCtr (s : State) (f : Services → Services) : (s.modSvc f).freeCtr = s.freeCtr := rfl
@[simp] theorem modSvc_straps (s : State) (f : Services → Services) : (s.modSvc f).straps = s.straps := rfl
@[simp] theorem modSvc_fuses (s : State) (f : Services → Services) : (s.modSvc f).fuses = s.fuses := rfl
@[simp] theorem modSvc_boot (s : State) (f : Services → Services) : (s.modSvc f).boot = s.boot := rfl
@[simp] theorem modSvc_lcPending (s : State) (f : Services → Services) : (s.modSvc f).lcPending = s.lcPending := rfl
@[simp] theorem modSvc_wipeRun (s : State) (f : Services → Services) : (s.modSvc f).wipeRun = s.wipeRun := rfl
@[simp] theorem modSvc_mram (s : State) (f : Services → Services) : (s.modSvc f).mram = s.mram := rfl
@[simp] theorem modSvc_log (s : State) (f : Services → Services) : (s.modSvc f).log = s.log := rfl
@[simp] theorem modSvc_clk (s : State) (f : Services → Services) : (s.modSvc f).clk = s.clk := rfl
@[simp] theorem modSvc_aloRx (s : State) (f : Services → Services) : (s.modSvc f).aloRx = s.aloRx := rfl
@[simp] theorem modSvc_aloTx (s : State) (f : Services → Services) : (s.modSvc f).aloTx = s.aloTx := rfl
@[simp] theorem modSvc_flags (s : State) (f : Services → Services) : (s.modSvc f).flags = s.flags := rfl
@[simp] theorem modSvc_health (s : State) (f : Services → Services) : (s.modSvc f).health = s.health := rfl
@[simp] theorem modSvc_bus (s : State) (f : Services → Services) : (s.modSvc f).bus = s.bus := rfl
@[simp] theorem modSvc_tb (s : State) (f : Services → Services) : (s.modSvc f).tb = s.tb := rfl
@[simp] theorem modSvc_slates (s : State) (f : Services → Services) : (s.modSvc f).slates = s.slates := rfl
@[simp] theorem modSvc_pulses (s : State) (f : Services → Services) : (s.modSvc f).pulses = s.pulses := rfl
@[simp] theorem modSvc_conv (s : State) (f : Services → Services) : (s.modSvc f).conv = s.conv := rfl
@[simp] theorem modSvc_devMarks (s : State) (f : Services → Services) : (s.modSvc f).devMarks = s.devMarks := rfl
@[simp] theorem modSvc_standin (s : State) (f : Services → Services) : (s.modSvc f).standin = s.standin := rfl
@[simp] theorem modSvc_pass (s : State) (f : Services → Services) : (s.modSvc f).pass = s.pass := rfl
@[simp] theorem modSvc_cap (s : State) (f : Services → Services) : (s.modSvc f).cap = s.cap := rfl
@[simp] theorem modSvc_fmd (s : State) (f : Services → Services) : (s.modSvc f).fmd = s.fmd := rfl
@[simp] theorem modSvc_amd (s : State) (f : Services → Services) : (s.modSvc f).amd = s.amd := rfl
@[simp] theorem modSvc_ee (s : State) (f : Services → Services) : (s.modSvc f).ee = s.ee := rfl
@[simp] theorem modSvc_prog (s : State) (f : Services → Services) : (s.modSvc f).prog = s.prog := rfl
@[simp] theorem modSvc_inserts (s : State) (f : Services → Services) : (s.modSvc f).inserts = s.inserts := rfl
@[simp] theorem modSvc_port (s : State) (f : Services → Services) : (s.modSvc f).port = s.port := rfl
@[simp] theorem modSvc_fcar (s : State) (f : Services → Services) : (s.modSvc f).fcar = s.fcar := rfl
@[simp] theorem modSvc_dcar (s : State) (f : Services → Services) : (s.modSvc f).dcar = s.dcar := rfl
@[simp] theorem modSvc_tx (s : State) (f : Services → Services) : (s.modSvc f).tx = s.tx := rfl
@[simp] theorem modSvc_cue (s : State) (f : Services → Services) : (s.modSvc f).cue = s.cue := rfl
@[simp] theorem modSvc_cas (s : State) (f : Services → Services) : (s.modSvc f).cas = s.cas := rfl
@[simp] theorem modSvc_host (s : State) (f : Services → Services) : (s.modSvc f).host = s.host := rfl
@[simp] theorem modSvc_cal (s : State) (f : Services → Services) : (s.modSvc f).cal = s.cal := rfl
@[simp] theorem modSvc_tap (s : State) (f : Services → Services) : (s.modSvc f).tap = s.tap := rfl
@[simp] theorem modSvc_pending (s : State) (f : Services → Services) : (s.modSvc f).pending = s.pending := rfl

/-! ## State.dequeue -/

@[simp] theorem dequeue_now (s : State) : (s.dequeue).now = s.now := rfl
@[simp] theorem dequeue_atTick (s : State) : (s.dequeue).atTick = s.atTick := rfl
@[simp] theorem dequeue_phase (s : State) : (s.dequeue).phase = s.phase := rfl
@[simp] theorem dequeue_lastCause (s : State) : (s.dequeue).lastCause = s.lastCause := rfl
@[simp] theorem dequeue_resetPin (s : State) : (s.dequeue).resetPin = s.resetPin := rfl
@[simp] theorem dequeue_heldBrown (s : State) : (s.dequeue).heldBrown = s.heldBrown := rfl
@[simp] theorem dequeue_heldHot (s : State) : (s.dequeue).heldHot = s.heldHot := rfl
@[simp] theorem dequeue_freeCtr (s : State) : (s.dequeue).freeCtr = s.freeCtr := rfl
@[simp] theorem dequeue_straps (s : State) : (s.dequeue).straps = s.straps := rfl
@[simp] theorem dequeue_fuses (s : State) : (s.dequeue).fuses = s.fuses := rfl
@[simp] theorem dequeue_boot (s : State) : (s.dequeue).boot = s.boot := rfl
@[simp] theorem dequeue_lcPending (s : State) : (s.dequeue).lcPending = s.lcPending := rfl
@[simp] theorem dequeue_wipeRun (s : State) : (s.dequeue).wipeRun = s.wipeRun := rfl
@[simp] theorem dequeue_mram (s : State) : (s.dequeue).mram = s.mram := rfl
@[simp] theorem dequeue_log (s : State) : (s.dequeue).log = s.log := rfl
@[simp] theorem dequeue_clk (s : State) : (s.dequeue).clk = s.clk := rfl
@[simp] theorem dequeue_aloRx (s : State) : (s.dequeue).aloRx = s.aloRx := rfl
@[simp] theorem dequeue_aloTx (s : State) : (s.dequeue).aloTx = s.aloTx := rfl
@[simp] theorem dequeue_flags (s : State) : (s.dequeue).flags = s.flags := rfl
@[simp] theorem dequeue_health (s : State) : (s.dequeue).health = s.health := rfl
@[simp] theorem dequeue_bus (s : State) : (s.dequeue).bus = s.bus := rfl
@[simp] theorem dequeue_tb (s : State) : (s.dequeue).tb = s.tb := rfl
@[simp] theorem dequeue_slates (s : State) : (s.dequeue).slates = s.slates := rfl
@[simp] theorem dequeue_pulses (s : State) : (s.dequeue).pulses = s.pulses := rfl
@[simp] theorem dequeue_conv (s : State) : (s.dequeue).conv = s.conv := rfl
@[simp] theorem dequeue_devMarks (s : State) : (s.dequeue).devMarks = s.devMarks := rfl
@[simp] theorem dequeue_standin (s : State) : (s.dequeue).standin = s.standin := rfl
@[simp] theorem dequeue_pass (s : State) : (s.dequeue).pass = s.pass := rfl
@[simp] theorem dequeue_cap (s : State) : (s.dequeue).cap = s.cap := rfl
@[simp] theorem dequeue_fmd (s : State) : (s.dequeue).fmd = s.fmd := rfl
@[simp] theorem dequeue_amd (s : State) : (s.dequeue).amd = s.amd := rfl
@[simp] theorem dequeue_ee (s : State) : (s.dequeue).ee = s.ee := rfl
@[simp] theorem dequeue_svc (s : State) : (s.dequeue).svc = s.svc := rfl
@[simp] theorem dequeue_prog (s : State) : (s.dequeue).prog = s.prog := rfl
@[simp] theorem dequeue_inserts (s : State) : (s.dequeue).inserts = s.inserts := rfl
@[simp] theorem dequeue_port (s : State) : (s.dequeue).port = s.port := rfl
@[simp] theorem dequeue_fcar (s : State) : (s.dequeue).fcar = s.fcar := rfl
@[simp] theorem dequeue_dcar (s : State) : (s.dequeue).dcar = s.dcar := rfl
@[simp] theorem dequeue_tx (s : State) : (s.dequeue).tx = s.tx := rfl
@[simp] theorem dequeue_cue (s : State) : (s.dequeue).cue = s.cue := rfl
@[simp] theorem dequeue_cas (s : State) : (s.dequeue).cas = s.cas := rfl
@[simp] theorem dequeue_host (s : State) : (s.dequeue).host = s.host := rfl
@[simp] theorem dequeue_cal (s : State) : (s.dequeue).cal = s.cal := rfl
@[simp] theorem dequeue_tap (s : State) : (s.dequeue).tap = s.tap := rfl

/-! ## State.clearPend -/

@[simp] theorem clearPend_now (s : State) (b : Byte) : (s.clearPend b).now = s.now := rfl
@[simp] theorem clearPend_atTick (s : State) (b : Byte) : (s.clearPend b).atTick = s.atTick := rfl
@[simp] theorem clearPend_phase (s : State) (b : Byte) : (s.clearPend b).phase = s.phase := rfl
@[simp] theorem clearPend_lastCause (s : State) (b : Byte) : (s.clearPend b).lastCause = s.lastCause := rfl
@[simp] theorem clearPend_resetPin (s : State) (b : Byte) : (s.clearPend b).resetPin = s.resetPin := rfl
@[simp] theorem clearPend_heldBrown (s : State) (b : Byte) : (s.clearPend b).heldBrown = s.heldBrown := rfl
@[simp] theorem clearPend_heldHot (s : State) (b : Byte) : (s.clearPend b).heldHot = s.heldHot := rfl
@[simp] theorem clearPend_freeCtr (s : State) (b : Byte) : (s.clearPend b).freeCtr = s.freeCtr := rfl
@[simp] theorem clearPend_straps (s : State) (b : Byte) : (s.clearPend b).straps = s.straps := rfl
@[simp] theorem clearPend_fuses (s : State) (b : Byte) : (s.clearPend b).fuses = s.fuses := rfl
@[simp] theorem clearPend_boot (s : State) (b : Byte) : (s.clearPend b).boot = s.boot := rfl
@[simp] theorem clearPend_lcPending (s : State) (b : Byte) : (s.clearPend b).lcPending = s.lcPending := rfl
@[simp] theorem clearPend_wipeRun (s : State) (b : Byte) : (s.clearPend b).wipeRun = s.wipeRun := rfl
@[simp] theorem clearPend_mram (s : State) (b : Byte) : (s.clearPend b).mram = s.mram := rfl
@[simp] theorem clearPend_log (s : State) (b : Byte) : (s.clearPend b).log = s.log := rfl
@[simp] theorem clearPend_clk (s : State) (b : Byte) : (s.clearPend b).clk = s.clk := rfl
@[simp] theorem clearPend_aloRx (s : State) (b : Byte) : (s.clearPend b).aloRx = s.aloRx := rfl
@[simp] theorem clearPend_aloTx (s : State) (b : Byte) : (s.clearPend b).aloTx = s.aloTx := rfl
@[simp] theorem clearPend_health (s : State) (b : Byte) : (s.clearPend b).health = s.health := rfl
@[simp] theorem clearPend_bus (s : State) (b : Byte) : (s.clearPend b).bus = s.bus := rfl
@[simp] theorem clearPend_tb (s : State) (b : Byte) : (s.clearPend b).tb = s.tb := rfl
@[simp] theorem clearPend_slates (s : State) (b : Byte) : (s.clearPend b).slates = s.slates := rfl
@[simp] theorem clearPend_pulses (s : State) (b : Byte) : (s.clearPend b).pulses = s.pulses := rfl
@[simp] theorem clearPend_conv (s : State) (b : Byte) : (s.clearPend b).conv = s.conv := rfl
@[simp] theorem clearPend_devMarks (s : State) (b : Byte) : (s.clearPend b).devMarks = s.devMarks := rfl
@[simp] theorem clearPend_standin (s : State) (b : Byte) : (s.clearPend b).standin = s.standin := rfl
@[simp] theorem clearPend_pass (s : State) (b : Byte) : (s.clearPend b).pass = s.pass := rfl
@[simp] theorem clearPend_cap (s : State) (b : Byte) : (s.clearPend b).cap = s.cap := rfl
@[simp] theorem clearPend_fmd (s : State) (b : Byte) : (s.clearPend b).fmd = s.fmd := rfl
@[simp] theorem clearPend_amd (s : State) (b : Byte) : (s.clearPend b).amd = s.amd := rfl
@[simp] theorem clearPend_ee (s : State) (b : Byte) : (s.clearPend b).ee = s.ee := rfl
@[simp] theorem clearPend_svc (s : State) (b : Byte) : (s.clearPend b).svc = s.svc := rfl
@[simp] theorem clearPend_prog (s : State) (b : Byte) : (s.clearPend b).prog = s.prog := rfl
@[simp] theorem clearPend_inserts (s : State) (b : Byte) : (s.clearPend b).inserts = s.inserts := rfl
@[simp] theorem clearPend_port (s : State) (b : Byte) : (s.clearPend b).port = s.port := rfl
@[simp] theorem clearPend_fcar (s : State) (b : Byte) : (s.clearPend b).fcar = s.fcar := rfl
@[simp] theorem clearPend_dcar (s : State) (b : Byte) : (s.clearPend b).dcar = s.dcar := rfl
@[simp] theorem clearPend_tx (s : State) (b : Byte) : (s.clearPend b).tx = s.tx := rfl
@[simp] theorem clearPend_cue (s : State) (b : Byte) : (s.clearPend b).cue = s.cue := rfl
@[simp] theorem clearPend_cas (s : State) (b : Byte) : (s.clearPend b).cas = s.cas := rfl
@[simp] theorem clearPend_host (s : State) (b : Byte) : (s.clearPend b).host = s.host := rfl
@[simp] theorem clearPend_cal (s : State) (b : Byte) : (s.clearPend b).cal = s.cal := rfl
@[simp] theorem clearPend_tap (s : State) (b : Byte) : (s.clearPend b).tap = s.tap := rfl
@[simp] theorem clearPend_pending (s : State) (b : Byte) : (s.clearPend b).pending = s.pending := rfl

/-! ## State.clearHealth -/

@[simp] theorem clearHealth_now (s : State) : (s.clearHealth).now = s.now := rfl
@[simp] theorem clearHealth_atTick (s : State) : (s.clearHealth).atTick = s.atTick := rfl
@[simp] theorem clearHealth_phase (s : State) : (s.clearHealth).phase = s.phase := rfl
@[simp] theorem clearHealth_lastCause (s : State) : (s.clearHealth).lastCause = s.lastCause := rfl
@[simp] theorem clearHealth_resetPin (s : State) : (s.clearHealth).resetPin = s.resetPin := rfl
@[simp] theorem clearHealth_heldBrown (s : State) : (s.clearHealth).heldBrown = s.heldBrown := rfl
@[simp] theorem clearHealth_heldHot (s : State) : (s.clearHealth).heldHot = s.heldHot := rfl
@[simp] theorem clearHealth_freeCtr (s : State) : (s.clearHealth).freeCtr = s.freeCtr := rfl
@[simp] theorem clearHealth_straps (s : State) : (s.clearHealth).straps = s.straps := rfl
@[simp] theorem clearHealth_fuses (s : State) : (s.clearHealth).fuses = s.fuses := rfl
@[simp] theorem clearHealth_boot (s : State) : (s.clearHealth).boot = s.boot := rfl
@[simp] theorem clearHealth_lcPending (s : State) : (s.clearHealth).lcPending = s.lcPending := rfl
@[simp] theorem clearHealth_wipeRun (s : State) : (s.clearHealth).wipeRun = s.wipeRun := rfl
@[simp] theorem clearHealth_mram (s : State) : (s.clearHealth).mram = s.mram := rfl
@[simp] theorem clearHealth_log (s : State) : (s.clearHealth).log = s.log := rfl
@[simp] theorem clearHealth_clk (s : State) : (s.clearHealth).clk = s.clk := rfl
@[simp] theorem clearHealth_aloRx (s : State) : (s.clearHealth).aloRx = s.aloRx := rfl
@[simp] theorem clearHealth_aloTx (s : State) : (s.clearHealth).aloTx = s.aloTx := rfl
@[simp] theorem clearHealth_flags (s : State) : (s.clearHealth).flags = s.flags := rfl
@[simp] theorem clearHealth_bus (s : State) : (s.clearHealth).bus = s.bus := rfl
@[simp] theorem clearHealth_tb (s : State) : (s.clearHealth).tb = s.tb := rfl
@[simp] theorem clearHealth_slates (s : State) : (s.clearHealth).slates = s.slates := rfl
@[simp] theorem clearHealth_pulses (s : State) : (s.clearHealth).pulses = s.pulses := rfl
@[simp] theorem clearHealth_conv (s : State) : (s.clearHealth).conv = s.conv := rfl
@[simp] theorem clearHealth_devMarks (s : State) : (s.clearHealth).devMarks = s.devMarks := rfl
@[simp] theorem clearHealth_standin (s : State) : (s.clearHealth).standin = s.standin := rfl
@[simp] theorem clearHealth_pass (s : State) : (s.clearHealth).pass = s.pass := rfl
@[simp] theorem clearHealth_cap (s : State) : (s.clearHealth).cap = s.cap := rfl
@[simp] theorem clearHealth_fmd (s : State) : (s.clearHealth).fmd = s.fmd := rfl
@[simp] theorem clearHealth_amd (s : State) : (s.clearHealth).amd = s.amd := rfl
@[simp] theorem clearHealth_ee (s : State) : (s.clearHealth).ee = s.ee := rfl
@[simp] theorem clearHealth_svc (s : State) : (s.clearHealth).svc = s.svc := rfl
@[simp] theorem clearHealth_prog (s : State) : (s.clearHealth).prog = s.prog := rfl
@[simp] theorem clearHealth_inserts (s : State) : (s.clearHealth).inserts = s.inserts := rfl
@[simp] theorem clearHealth_port (s : State) : (s.clearHealth).port = s.port := rfl
@[simp] theorem clearHealth_fcar (s : State) : (s.clearHealth).fcar = s.fcar := rfl
@[simp] theorem clearHealth_dcar (s : State) : (s.clearHealth).dcar = s.dcar := rfl
@[simp] theorem clearHealth_tx (s : State) : (s.clearHealth).tx = s.tx := rfl
@[simp] theorem clearHealth_cue (s : State) : (s.clearHealth).cue = s.cue := rfl
@[simp] theorem clearHealth_cas (s : State) : (s.clearHealth).cas = s.cas := rfl
@[simp] theorem clearHealth_host (s : State) : (s.clearHealth).host = s.host := rfl
@[simp] theorem clearHealth_cal (s : State) : (s.clearHealth).cal = s.cal := rfl
@[simp] theorem clearHealth_tap (s : State) : (s.clearHealth).tap = s.tap := rfl
@[simp] theorem clearHealth_pending (s : State) : (s.clearHealth).pending = s.pending := rfl

/-! ## State.busStop -/

@[simp] theorem busStop_now (s : State) : (s.busStop).now = s.now := rfl
@[simp] theorem busStop_atTick (s : State) : (s.busStop).atTick = s.atTick := rfl
@[simp] theorem busStop_phase (s : State) : (s.busStop).phase = s.phase := rfl
@[simp] theorem busStop_lastCause (s : State) : (s.busStop).lastCause = s.lastCause := rfl
@[simp] theorem busStop_resetPin (s : State) : (s.busStop).resetPin = s.resetPin := rfl
@[simp] theorem busStop_heldBrown (s : State) : (s.busStop).heldBrown = s.heldBrown := rfl
@[simp] theorem busStop_heldHot (s : State) : (s.busStop).heldHot = s.heldHot := rfl
@[simp] theorem busStop_freeCtr (s : State) : (s.busStop).freeCtr = s.freeCtr := rfl
@[simp] theorem busStop_straps (s : State) : (s.busStop).straps = s.straps := rfl
@[simp] theorem busStop_fuses (s : State) : (s.busStop).fuses = s.fuses := rfl
@[simp] theorem busStop_boot (s : State) : (s.busStop).boot = s.boot := rfl
@[simp] theorem busStop_lcPending (s : State) : (s.busStop).lcPending = s.lcPending := rfl
@[simp] theorem busStop_wipeRun (s : State) : (s.busStop).wipeRun = s.wipeRun := rfl
@[simp] theorem busStop_mram (s : State) : (s.busStop).mram = s.mram := rfl
@[simp] theorem busStop_log (s : State) : (s.busStop).log = s.log := rfl
@[simp] theorem busStop_clk (s : State) : (s.busStop).clk = s.clk := rfl
@[simp] theorem busStop_aloRx (s : State) : (s.busStop).aloRx = s.aloRx := rfl
@[simp] theorem busStop_aloTx (s : State) : (s.busStop).aloTx = s.aloTx := rfl
@[simp] theorem busStop_flags (s : State) : (s.busStop).flags = s.flags := rfl
@[simp] theorem busStop_health (s : State) : (s.busStop).health = s.health := rfl
@[simp] theorem busStop_tb (s : State) : (s.busStop).tb = s.tb := rfl
@[simp] theorem busStop_slates (s : State) : (s.busStop).slates = s.slates := rfl
@[simp] theorem busStop_pulses (s : State) : (s.busStop).pulses = s.pulses := rfl
@[simp] theorem busStop_conv (s : State) : (s.busStop).conv = s.conv := rfl
@[simp] theorem busStop_devMarks (s : State) : (s.busStop).devMarks = s.devMarks := rfl
@[simp] theorem busStop_standin (s : State) : (s.busStop).standin = s.standin := rfl
@[simp] theorem busStop_pass (s : State) : (s.busStop).pass = s.pass := rfl
@[simp] theorem busStop_cap (s : State) : (s.busStop).cap = s.cap := rfl
@[simp] theorem busStop_fmd (s : State) : (s.busStop).fmd = s.fmd := rfl
@[simp] theorem busStop_amd (s : State) : (s.busStop).amd = s.amd := rfl
@[simp] theorem busStop_ee (s : State) : (s.busStop).ee = s.ee := rfl
@[simp] theorem busStop_svc (s : State) : (s.busStop).svc = s.svc := rfl
@[simp] theorem busStop_prog (s : State) : (s.busStop).prog = s.prog := rfl
@[simp] theorem busStop_inserts (s : State) : (s.busStop).inserts = s.inserts := rfl
@[simp] theorem busStop_port (s : State) : (s.busStop).port = s.port := rfl
@[simp] theorem busStop_fcar (s : State) : (s.busStop).fcar = s.fcar := rfl
@[simp] theorem busStop_dcar (s : State) : (s.busStop).dcar = s.dcar := rfl
@[simp] theorem busStop_tx (s : State) : (s.busStop).tx = s.tx := rfl
@[simp] theorem busStop_cue (s : State) : (s.busStop).cue = s.cue := rfl
@[simp] theorem busStop_cas (s : State) : (s.busStop).cas = s.cas := rfl
@[simp] theorem busStop_host (s : State) : (s.busStop).host = s.host := rfl
@[simp] theorem busStop_cal (s : State) : (s.busStop).cal = s.cal := rfl
@[simp] theorem busStop_tap (s : State) : (s.busStop).tap = s.tap := rfl
@[simp] theorem busStop_pending (s : State) : (s.busStop).pending = s.pending := rfl

/-! ## State.modPass -/

@[simp] theorem modPass_now (s : State) (i : Nat) (f : PassRun → PassRun) : (s.modPass i f).now = s.now := rfl
@[simp] theorem modPass_atTick (s : State) (i : Nat) (f : PassRun → PassRun) : (s.modPass i f).atTick = s.atTick := rfl
@[simp] theorem modPass_phase (s : State) (i : Nat) (f : PassRun → PassRun) : (s.modPass i f).phase = s.phase := rfl
@[simp] theorem modPass_lastCause (s : State) (i : Nat) (f : PassRun → PassRun) : (s.modPass i f).lastCause = s.lastCause := rfl
@[simp] theorem modPass_resetPin (s : State) (i : Nat) (f : PassRun → PassRun) : (s.modPass i f).resetPin = s.resetPin := rfl
@[simp] theorem modPass_heldBrown (s : State) (i : Nat) (f : PassRun → PassRun) : (s.modPass i f).heldBrown = s.heldBrown := rfl
@[simp] theorem modPass_heldHot (s : State) (i : Nat) (f : PassRun → PassRun) : (s.modPass i f).heldHot = s.heldHot := rfl
@[simp] theorem modPass_freeCtr (s : State) (i : Nat) (f : PassRun → PassRun) : (s.modPass i f).freeCtr = s.freeCtr := rfl
@[simp] theorem modPass_straps (s : State) (i : Nat) (f : PassRun → PassRun) : (s.modPass i f).straps = s.straps := rfl
@[simp] theorem modPass_fuses (s : State) (i : Nat) (f : PassRun → PassRun) : (s.modPass i f).fuses = s.fuses := rfl
@[simp] theorem modPass_boot (s : State) (i : Nat) (f : PassRun → PassRun) : (s.modPass i f).boot = s.boot := rfl
@[simp] theorem modPass_lcPending (s : State) (i : Nat) (f : PassRun → PassRun) : (s.modPass i f).lcPending = s.lcPending := rfl
@[simp] theorem modPass_wipeRun (s : State) (i : Nat) (f : PassRun → PassRun) : (s.modPass i f).wipeRun = s.wipeRun := rfl
@[simp] theorem modPass_mram (s : State) (i : Nat) (f : PassRun → PassRun) : (s.modPass i f).mram = s.mram := rfl
@[simp] theorem modPass_log (s : State) (i : Nat) (f : PassRun → PassRun) : (s.modPass i f).log = s.log := rfl
@[simp] theorem modPass_clk (s : State) (i : Nat) (f : PassRun → PassRun) : (s.modPass i f).clk = s.clk := rfl
@[simp] theorem modPass_aloRx (s : State) (i : Nat) (f : PassRun → PassRun) : (s.modPass i f).aloRx = s.aloRx := rfl
@[simp] theorem modPass_aloTx (s : State) (i : Nat) (f : PassRun → PassRun) : (s.modPass i f).aloTx = s.aloTx := rfl
@[simp] theorem modPass_flags (s : State) (i : Nat) (f : PassRun → PassRun) : (s.modPass i f).flags = s.flags := rfl
@[simp] theorem modPass_health (s : State) (i : Nat) (f : PassRun → PassRun) : (s.modPass i f).health = s.health := rfl
@[simp] theorem modPass_bus (s : State) (i : Nat) (f : PassRun → PassRun) : (s.modPass i f).bus = s.bus := rfl
@[simp] theorem modPass_tb (s : State) (i : Nat) (f : PassRun → PassRun) : (s.modPass i f).tb = s.tb := rfl
@[simp] theorem modPass_slates (s : State) (i : Nat) (f : PassRun → PassRun) : (s.modPass i f).slates = s.slates := rfl
@[simp] theorem modPass_pulses (s : State) (i : Nat) (f : PassRun → PassRun) : (s.modPass i f).pulses = s.pulses := rfl
@[simp] theorem modPass_conv (s : State) (i : Nat) (f : PassRun → PassRun) : (s.modPass i f).conv = s.conv := rfl
@[simp] theorem modPass_devMarks (s : State) (i : Nat) (f : PassRun → PassRun) : (s.modPass i f).devMarks = s.devMarks := rfl
@[simp] theorem modPass_standin (s : State) (i : Nat) (f : PassRun → PassRun) : (s.modPass i f).standin = s.standin := rfl
@[simp] theorem modPass_cap (s : State) (i : Nat) (f : PassRun → PassRun) : (s.modPass i f).cap = s.cap := rfl
@[simp] theorem modPass_fmd (s : State) (i : Nat) (f : PassRun → PassRun) : (s.modPass i f).fmd = s.fmd := rfl
@[simp] theorem modPass_amd (s : State) (i : Nat) (f : PassRun → PassRun) : (s.modPass i f).amd = s.amd := rfl
@[simp] theorem modPass_ee (s : State) (i : Nat) (f : PassRun → PassRun) : (s.modPass i f).ee = s.ee := rfl
@[simp] theorem modPass_svc (s : State) (i : Nat) (f : PassRun → PassRun) : (s.modPass i f).svc = s.svc := rfl
@[simp] theorem modPass_prog (s : State) (i : Nat) (f : PassRun → PassRun) : (s.modPass i f).prog = s.prog := rfl
@[simp] theorem modPass_inserts (s : State) (i : Nat) (f : PassRun → PassRun) : (s.modPass i f).inserts = s.inserts := rfl
@[simp] theorem modPass_port (s : State) (i : Nat) (f : PassRun → PassRun) : (s.modPass i f).port = s.port := rfl
@[simp] theorem modPass_fcar (s : State) (i : Nat) (f : PassRun → PassRun) : (s.modPass i f).fcar = s.fcar := rfl
@[simp] theorem modPass_dcar (s : State) (i : Nat) (f : PassRun → PassRun) : (s.modPass i f).dcar = s.dcar := rfl
@[simp] theorem modPass_tx (s : State) (i : Nat) (f : PassRun → PassRun) : (s.modPass i f).tx = s.tx := rfl
@[simp] theorem modPass_cue (s : State) (i : Nat) (f : PassRun → PassRun) : (s.modPass i f).cue = s.cue := rfl
@[simp] theorem modPass_cas (s : State) (i : Nat) (f : PassRun → PassRun) : (s.modPass i f).cas = s.cas := rfl
@[simp] theorem modPass_host (s : State) (i : Nat) (f : PassRun → PassRun) : (s.modPass i f).host = s.host := rfl
@[simp] theorem modPass_cal (s : State) (i : Nat) (f : PassRun → PassRun) : (s.modPass i f).cal = s.cal := rfl
@[simp] theorem modPass_tap (s : State) (i : Nat) (f : PassRun → PassRun) : (s.modPass i f).tap = s.tap := rfl
@[simp] theorem modPass_pending (s : State) (i : Nat) (f : PassRun → PassRun) : (s.modPass i f).pending = s.pending := rfl

/-! ## State.modFmd -/

@[simp] theorem modFmd_now (s : State) (i : Nat) (f : FmdRun → FmdRun) : (s.modFmd i f).now = s.now := rfl
@[simp] theorem modFmd_atTick (s : State) (i : Nat) (f : FmdRun → FmdRun) : (s.modFmd i f).atTick = s.atTick := rfl
@[simp] theorem modFmd_phase (s : State) (i : Nat) (f : FmdRun → FmdRun) : (s.modFmd i f).phase = s.phase := rfl
@[simp] theorem modFmd_lastCause (s : State) (i : Nat) (f : FmdRun → FmdRun) : (s.modFmd i f).lastCause = s.lastCause := rfl
@[simp] theorem modFmd_resetPin (s : State) (i : Nat) (f : FmdRun → FmdRun) : (s.modFmd i f).resetPin = s.resetPin := rfl
@[simp] theorem modFmd_heldBrown (s : State) (i : Nat) (f : FmdRun → FmdRun) : (s.modFmd i f).heldBrown = s.heldBrown := rfl
@[simp] theorem modFmd_heldHot (s : State) (i : Nat) (f : FmdRun → FmdRun) : (s.modFmd i f).heldHot = s.heldHot := rfl
@[simp] theorem modFmd_freeCtr (s : State) (i : Nat) (f : FmdRun → FmdRun) : (s.modFmd i f).freeCtr = s.freeCtr := rfl
@[simp] theorem modFmd_straps (s : State) (i : Nat) (f : FmdRun → FmdRun) : (s.modFmd i f).straps = s.straps := rfl
@[simp] theorem modFmd_fuses (s : State) (i : Nat) (f : FmdRun → FmdRun) : (s.modFmd i f).fuses = s.fuses := rfl
@[simp] theorem modFmd_boot (s : State) (i : Nat) (f : FmdRun → FmdRun) : (s.modFmd i f).boot = s.boot := rfl
@[simp] theorem modFmd_lcPending (s : State) (i : Nat) (f : FmdRun → FmdRun) : (s.modFmd i f).lcPending = s.lcPending := rfl
@[simp] theorem modFmd_wipeRun (s : State) (i : Nat) (f : FmdRun → FmdRun) : (s.modFmd i f).wipeRun = s.wipeRun := rfl
@[simp] theorem modFmd_mram (s : State) (i : Nat) (f : FmdRun → FmdRun) : (s.modFmd i f).mram = s.mram := rfl
@[simp] theorem modFmd_log (s : State) (i : Nat) (f : FmdRun → FmdRun) : (s.modFmd i f).log = s.log := rfl
@[simp] theorem modFmd_clk (s : State) (i : Nat) (f : FmdRun → FmdRun) : (s.modFmd i f).clk = s.clk := rfl
@[simp] theorem modFmd_aloRx (s : State) (i : Nat) (f : FmdRun → FmdRun) : (s.modFmd i f).aloRx = s.aloRx := rfl
@[simp] theorem modFmd_aloTx (s : State) (i : Nat) (f : FmdRun → FmdRun) : (s.modFmd i f).aloTx = s.aloTx := rfl
@[simp] theorem modFmd_flags (s : State) (i : Nat) (f : FmdRun → FmdRun) : (s.modFmd i f).flags = s.flags := rfl
@[simp] theorem modFmd_health (s : State) (i : Nat) (f : FmdRun → FmdRun) : (s.modFmd i f).health = s.health := rfl
@[simp] theorem modFmd_bus (s : State) (i : Nat) (f : FmdRun → FmdRun) : (s.modFmd i f).bus = s.bus := rfl
@[simp] theorem modFmd_tb (s : State) (i : Nat) (f : FmdRun → FmdRun) : (s.modFmd i f).tb = s.tb := rfl
@[simp] theorem modFmd_slates (s : State) (i : Nat) (f : FmdRun → FmdRun) : (s.modFmd i f).slates = s.slates := rfl
@[simp] theorem modFmd_pulses (s : State) (i : Nat) (f : FmdRun → FmdRun) : (s.modFmd i f).pulses = s.pulses := rfl
@[simp] theorem modFmd_conv (s : State) (i : Nat) (f : FmdRun → FmdRun) : (s.modFmd i f).conv = s.conv := rfl
@[simp] theorem modFmd_devMarks (s : State) (i : Nat) (f : FmdRun → FmdRun) : (s.modFmd i f).devMarks = s.devMarks := rfl
@[simp] theorem modFmd_standin (s : State) (i : Nat) (f : FmdRun → FmdRun) : (s.modFmd i f).standin = s.standin := rfl
@[simp] theorem modFmd_pass (s : State) (i : Nat) (f : FmdRun → FmdRun) : (s.modFmd i f).pass = s.pass := rfl
@[simp] theorem modFmd_cap (s : State) (i : Nat) (f : FmdRun → FmdRun) : (s.modFmd i f).cap = s.cap := rfl
@[simp] theorem modFmd_amd (s : State) (i : Nat) (f : FmdRun → FmdRun) : (s.modFmd i f).amd = s.amd := rfl
@[simp] theorem modFmd_ee (s : State) (i : Nat) (f : FmdRun → FmdRun) : (s.modFmd i f).ee = s.ee := rfl
@[simp] theorem modFmd_svc (s : State) (i : Nat) (f : FmdRun → FmdRun) : (s.modFmd i f).svc = s.svc := rfl
@[simp] theorem modFmd_prog (s : State) (i : Nat) (f : FmdRun → FmdRun) : (s.modFmd i f).prog = s.prog := rfl
@[simp] theorem modFmd_inserts (s : State) (i : Nat) (f : FmdRun → FmdRun) : (s.modFmd i f).inserts = s.inserts := rfl
@[simp] theorem modFmd_port (s : State) (i : Nat) (f : FmdRun → FmdRun) : (s.modFmd i f).port = s.port := rfl
@[simp] theorem modFmd_fcar (s : State) (i : Nat) (f : FmdRun → FmdRun) : (s.modFmd i f).fcar = s.fcar := rfl
@[simp] theorem modFmd_dcar (s : State) (i : Nat) (f : FmdRun → FmdRun) : (s.modFmd i f).dcar = s.dcar := rfl
@[simp] theorem modFmd_tx (s : State) (i : Nat) (f : FmdRun → FmdRun) : (s.modFmd i f).tx = s.tx := rfl
@[simp] theorem modFmd_cue (s : State) (i : Nat) (f : FmdRun → FmdRun) : (s.modFmd i f).cue = s.cue := rfl
@[simp] theorem modFmd_cas (s : State) (i : Nat) (f : FmdRun → FmdRun) : (s.modFmd i f).cas = s.cas := rfl
@[simp] theorem modFmd_host (s : State) (i : Nat) (f : FmdRun → FmdRun) : (s.modFmd i f).host = s.host := rfl
@[simp] theorem modFmd_cal (s : State) (i : Nat) (f : FmdRun → FmdRun) : (s.modFmd i f).cal = s.cal := rfl
@[simp] theorem modFmd_tap (s : State) (i : Nat) (f : FmdRun → FmdRun) : (s.modFmd i f).tap = s.tap := rfl
@[simp] theorem modFmd_pending (s : State) (i : Nat) (f : FmdRun → FmdRun) : (s.modFmd i f).pending = s.pending := rfl

/-! ## State.modAmd -/

@[simp] theorem modAmd_now (s : State) (i : Nat) (f : AmdRun → AmdRun) : (s.modAmd i f).now = s.now := rfl
@[simp] theorem modAmd_atTick (s : State) (i : Nat) (f : AmdRun → AmdRun) : (s.modAmd i f).atTick = s.atTick := rfl
@[simp] theorem modAmd_phase (s : State) (i : Nat) (f : AmdRun → AmdRun) : (s.modAmd i f).phase = s.phase := rfl
@[simp] theorem modAmd_lastCause (s : State) (i : Nat) (f : AmdRun → AmdRun) : (s.modAmd i f).lastCause = s.lastCause := rfl
@[simp] theorem modAmd_resetPin (s : State) (i : Nat) (f : AmdRun → AmdRun) : (s.modAmd i f).resetPin = s.resetPin := rfl
@[simp] theorem modAmd_heldBrown (s : State) (i : Nat) (f : AmdRun → AmdRun) : (s.modAmd i f).heldBrown = s.heldBrown := rfl
@[simp] theorem modAmd_heldHot (s : State) (i : Nat) (f : AmdRun → AmdRun) : (s.modAmd i f).heldHot = s.heldHot := rfl
@[simp] theorem modAmd_freeCtr (s : State) (i : Nat) (f : AmdRun → AmdRun) : (s.modAmd i f).freeCtr = s.freeCtr := rfl
@[simp] theorem modAmd_straps (s : State) (i : Nat) (f : AmdRun → AmdRun) : (s.modAmd i f).straps = s.straps := rfl
@[simp] theorem modAmd_fuses (s : State) (i : Nat) (f : AmdRun → AmdRun) : (s.modAmd i f).fuses = s.fuses := rfl
@[simp] theorem modAmd_boot (s : State) (i : Nat) (f : AmdRun → AmdRun) : (s.modAmd i f).boot = s.boot := rfl
@[simp] theorem modAmd_lcPending (s : State) (i : Nat) (f : AmdRun → AmdRun) : (s.modAmd i f).lcPending = s.lcPending := rfl
@[simp] theorem modAmd_wipeRun (s : State) (i : Nat) (f : AmdRun → AmdRun) : (s.modAmd i f).wipeRun = s.wipeRun := rfl
@[simp] theorem modAmd_mram (s : State) (i : Nat) (f : AmdRun → AmdRun) : (s.modAmd i f).mram = s.mram := rfl
@[simp] theorem modAmd_log (s : State) (i : Nat) (f : AmdRun → AmdRun) : (s.modAmd i f).log = s.log := rfl
@[simp] theorem modAmd_clk (s : State) (i : Nat) (f : AmdRun → AmdRun) : (s.modAmd i f).clk = s.clk := rfl
@[simp] theorem modAmd_aloRx (s : State) (i : Nat) (f : AmdRun → AmdRun) : (s.modAmd i f).aloRx = s.aloRx := rfl
@[simp] theorem modAmd_aloTx (s : State) (i : Nat) (f : AmdRun → AmdRun) : (s.modAmd i f).aloTx = s.aloTx := rfl
@[simp] theorem modAmd_flags (s : State) (i : Nat) (f : AmdRun → AmdRun) : (s.modAmd i f).flags = s.flags := rfl
@[simp] theorem modAmd_health (s : State) (i : Nat) (f : AmdRun → AmdRun) : (s.modAmd i f).health = s.health := rfl
@[simp] theorem modAmd_bus (s : State) (i : Nat) (f : AmdRun → AmdRun) : (s.modAmd i f).bus = s.bus := rfl
@[simp] theorem modAmd_tb (s : State) (i : Nat) (f : AmdRun → AmdRun) : (s.modAmd i f).tb = s.tb := rfl
@[simp] theorem modAmd_slates (s : State) (i : Nat) (f : AmdRun → AmdRun) : (s.modAmd i f).slates = s.slates := rfl
@[simp] theorem modAmd_pulses (s : State) (i : Nat) (f : AmdRun → AmdRun) : (s.modAmd i f).pulses = s.pulses := rfl
@[simp] theorem modAmd_conv (s : State) (i : Nat) (f : AmdRun → AmdRun) : (s.modAmd i f).conv = s.conv := rfl
@[simp] theorem modAmd_devMarks (s : State) (i : Nat) (f : AmdRun → AmdRun) : (s.modAmd i f).devMarks = s.devMarks := rfl
@[simp] theorem modAmd_standin (s : State) (i : Nat) (f : AmdRun → AmdRun) : (s.modAmd i f).standin = s.standin := rfl
@[simp] theorem modAmd_pass (s : State) (i : Nat) (f : AmdRun → AmdRun) : (s.modAmd i f).pass = s.pass := rfl
@[simp] theorem modAmd_cap (s : State) (i : Nat) (f : AmdRun → AmdRun) : (s.modAmd i f).cap = s.cap := rfl
@[simp] theorem modAmd_fmd (s : State) (i : Nat) (f : AmdRun → AmdRun) : (s.modAmd i f).fmd = s.fmd := rfl
@[simp] theorem modAmd_ee (s : State) (i : Nat) (f : AmdRun → AmdRun) : (s.modAmd i f).ee = s.ee := rfl
@[simp] theorem modAmd_svc (s : State) (i : Nat) (f : AmdRun → AmdRun) : (s.modAmd i f).svc = s.svc := rfl
@[simp] theorem modAmd_prog (s : State) (i : Nat) (f : AmdRun → AmdRun) : (s.modAmd i f).prog = s.prog := rfl
@[simp] theorem modAmd_inserts (s : State) (i : Nat) (f : AmdRun → AmdRun) : (s.modAmd i f).inserts = s.inserts := rfl
@[simp] theorem modAmd_port (s : State) (i : Nat) (f : AmdRun → AmdRun) : (s.modAmd i f).port = s.port := rfl
@[simp] theorem modAmd_fcar (s : State) (i : Nat) (f : AmdRun → AmdRun) : (s.modAmd i f).fcar = s.fcar := rfl
@[simp] theorem modAmd_dcar (s : State) (i : Nat) (f : AmdRun → AmdRun) : (s.modAmd i f).dcar = s.dcar := rfl
@[simp] theorem modAmd_tx (s : State) (i : Nat) (f : AmdRun → AmdRun) : (s.modAmd i f).tx = s.tx := rfl
@[simp] theorem modAmd_cue (s : State) (i : Nat) (f : AmdRun → AmdRun) : (s.modAmd i f).cue = s.cue := rfl
@[simp] theorem modAmd_cas (s : State) (i : Nat) (f : AmdRun → AmdRun) : (s.modAmd i f).cas = s.cas := rfl
@[simp] theorem modAmd_host (s : State) (i : Nat) (f : AmdRun → AmdRun) : (s.modAmd i f).host = s.host := rfl
@[simp] theorem modAmd_cal (s : State) (i : Nat) (f : AmdRun → AmdRun) : (s.modAmd i f).cal = s.cal := rfl
@[simp] theorem modAmd_tap (s : State) (i : Nat) (f : AmdRun → AmdRun) : (s.modAmd i f).tap = s.tap := rfl
@[simp] theorem modAmd_pending (s : State) (i : Nat) (f : AmdRun → AmdRun) : (s.modAmd i f).pending = s.pending := rfl

/-! ## State.modEe -/

@[simp] theorem modEe_now (s : State) (i : Nat) (f : EeRun → EeRun) : (s.modEe i f).now = s.now := rfl
@[simp] theorem modEe_atTick (s : State) (i : Nat) (f : EeRun → EeRun) : (s.modEe i f).atTick = s.atTick := rfl
@[simp] theorem modEe_phase (s : State) (i : Nat) (f : EeRun → EeRun) : (s.modEe i f).phase = s.phase := rfl
@[simp] theorem modEe_lastCause (s : State) (i : Nat) (f : EeRun → EeRun) : (s.modEe i f).lastCause = s.lastCause := rfl
@[simp] theorem modEe_resetPin (s : State) (i : Nat) (f : EeRun → EeRun) : (s.modEe i f).resetPin = s.resetPin := rfl
@[simp] theorem modEe_heldBrown (s : State) (i : Nat) (f : EeRun → EeRun) : (s.modEe i f).heldBrown = s.heldBrown := rfl
@[simp] theorem modEe_heldHot (s : State) (i : Nat) (f : EeRun → EeRun) : (s.modEe i f).heldHot = s.heldHot := rfl
@[simp] theorem modEe_freeCtr (s : State) (i : Nat) (f : EeRun → EeRun) : (s.modEe i f).freeCtr = s.freeCtr := rfl
@[simp] theorem modEe_straps (s : State) (i : Nat) (f : EeRun → EeRun) : (s.modEe i f).straps = s.straps := rfl
@[simp] theorem modEe_fuses (s : State) (i : Nat) (f : EeRun → EeRun) : (s.modEe i f).fuses = s.fuses := rfl
@[simp] theorem modEe_boot (s : State) (i : Nat) (f : EeRun → EeRun) : (s.modEe i f).boot = s.boot := rfl
@[simp] theorem modEe_lcPending (s : State) (i : Nat) (f : EeRun → EeRun) : (s.modEe i f).lcPending = s.lcPending := rfl
@[simp] theorem modEe_wipeRun (s : State) (i : Nat) (f : EeRun → EeRun) : (s.modEe i f).wipeRun = s.wipeRun := rfl
@[simp] theorem modEe_mram (s : State) (i : Nat) (f : EeRun → EeRun) : (s.modEe i f).mram = s.mram := rfl
@[simp] theorem modEe_log (s : State) (i : Nat) (f : EeRun → EeRun) : (s.modEe i f).log = s.log := rfl
@[simp] theorem modEe_clk (s : State) (i : Nat) (f : EeRun → EeRun) : (s.modEe i f).clk = s.clk := rfl
@[simp] theorem modEe_aloRx (s : State) (i : Nat) (f : EeRun → EeRun) : (s.modEe i f).aloRx = s.aloRx := rfl
@[simp] theorem modEe_aloTx (s : State) (i : Nat) (f : EeRun → EeRun) : (s.modEe i f).aloTx = s.aloTx := rfl
@[simp] theorem modEe_flags (s : State) (i : Nat) (f : EeRun → EeRun) : (s.modEe i f).flags = s.flags := rfl
@[simp] theorem modEe_health (s : State) (i : Nat) (f : EeRun → EeRun) : (s.modEe i f).health = s.health := rfl
@[simp] theorem modEe_bus (s : State) (i : Nat) (f : EeRun → EeRun) : (s.modEe i f).bus = s.bus := rfl
@[simp] theorem modEe_tb (s : State) (i : Nat) (f : EeRun → EeRun) : (s.modEe i f).tb = s.tb := rfl
@[simp] theorem modEe_slates (s : State) (i : Nat) (f : EeRun → EeRun) : (s.modEe i f).slates = s.slates := rfl
@[simp] theorem modEe_pulses (s : State) (i : Nat) (f : EeRun → EeRun) : (s.modEe i f).pulses = s.pulses := rfl
@[simp] theorem modEe_conv (s : State) (i : Nat) (f : EeRun → EeRun) : (s.modEe i f).conv = s.conv := rfl
@[simp] theorem modEe_devMarks (s : State) (i : Nat) (f : EeRun → EeRun) : (s.modEe i f).devMarks = s.devMarks := rfl
@[simp] theorem modEe_standin (s : State) (i : Nat) (f : EeRun → EeRun) : (s.modEe i f).standin = s.standin := rfl
@[simp] theorem modEe_pass (s : State) (i : Nat) (f : EeRun → EeRun) : (s.modEe i f).pass = s.pass := rfl
@[simp] theorem modEe_cap (s : State) (i : Nat) (f : EeRun → EeRun) : (s.modEe i f).cap = s.cap := rfl
@[simp] theorem modEe_fmd (s : State) (i : Nat) (f : EeRun → EeRun) : (s.modEe i f).fmd = s.fmd := rfl
@[simp] theorem modEe_amd (s : State) (i : Nat) (f : EeRun → EeRun) : (s.modEe i f).amd = s.amd := rfl
@[simp] theorem modEe_svc (s : State) (i : Nat) (f : EeRun → EeRun) : (s.modEe i f).svc = s.svc := rfl
@[simp] theorem modEe_prog (s : State) (i : Nat) (f : EeRun → EeRun) : (s.modEe i f).prog = s.prog := rfl
@[simp] theorem modEe_inserts (s : State) (i : Nat) (f : EeRun → EeRun) : (s.modEe i f).inserts = s.inserts := rfl
@[simp] theorem modEe_port (s : State) (i : Nat) (f : EeRun → EeRun) : (s.modEe i f).port = s.port := rfl
@[simp] theorem modEe_fcar (s : State) (i : Nat) (f : EeRun → EeRun) : (s.modEe i f).fcar = s.fcar := rfl
@[simp] theorem modEe_dcar (s : State) (i : Nat) (f : EeRun → EeRun) : (s.modEe i f).dcar = s.dcar := rfl
@[simp] theorem modEe_tx (s : State) (i : Nat) (f : EeRun → EeRun) : (s.modEe i f).tx = s.tx := rfl
@[simp] theorem modEe_cue (s : State) (i : Nat) (f : EeRun → EeRun) : (s.modEe i f).cue = s.cue := rfl
@[simp] theorem modEe_cas (s : State) (i : Nat) (f : EeRun → EeRun) : (s.modEe i f).cas = s.cas := rfl
@[simp] theorem modEe_host (s : State) (i : Nat) (f : EeRun → EeRun) : (s.modEe i f).host = s.host := rfl
@[simp] theorem modEe_cal (s : State) (i : Nat) (f : EeRun → EeRun) : (s.modEe i f).cal = s.cal := rfl
@[simp] theorem modEe_tap (s : State) (i : Nat) (f : EeRun → EeRun) : (s.modEe i f).tap = s.tap := rfl
@[simp] theorem modEe_pending (s : State) (i : Nat) (f : EeRun → EeRun) : (s.modEe i f).pending = s.pending := rfl

/-! ## State.modProg -/

@[simp] theorem modProg_now (s : State) (i : Nat) (f : ProgRun → ProgRun) : (s.modProg i f).now = s.now := rfl
@[simp] theorem modProg_atTick (s : State) (i : Nat) (f : ProgRun → ProgRun) : (s.modProg i f).atTick = s.atTick := rfl
@[simp] theorem modProg_phase (s : State) (i : Nat) (f : ProgRun → ProgRun) : (s.modProg i f).phase = s.phase := rfl
@[simp] theorem modProg_lastCause (s : State) (i : Nat) (f : ProgRun → ProgRun) : (s.modProg i f).lastCause = s.lastCause := rfl
@[simp] theorem modProg_resetPin (s : State) (i : Nat) (f : ProgRun → ProgRun) : (s.modProg i f).resetPin = s.resetPin := rfl
@[simp] theorem modProg_heldBrown (s : State) (i : Nat) (f : ProgRun → ProgRun) : (s.modProg i f).heldBrown = s.heldBrown := rfl
@[simp] theorem modProg_heldHot (s : State) (i : Nat) (f : ProgRun → ProgRun) : (s.modProg i f).heldHot = s.heldHot := rfl
@[simp] theorem modProg_freeCtr (s : State) (i : Nat) (f : ProgRun → ProgRun) : (s.modProg i f).freeCtr = s.freeCtr := rfl
@[simp] theorem modProg_straps (s : State) (i : Nat) (f : ProgRun → ProgRun) : (s.modProg i f).straps = s.straps := rfl
@[simp] theorem modProg_fuses (s : State) (i : Nat) (f : ProgRun → ProgRun) : (s.modProg i f).fuses = s.fuses := rfl
@[simp] theorem modProg_boot (s : State) (i : Nat) (f : ProgRun → ProgRun) : (s.modProg i f).boot = s.boot := rfl
@[simp] theorem modProg_lcPending (s : State) (i : Nat) (f : ProgRun → ProgRun) : (s.modProg i f).lcPending = s.lcPending := rfl
@[simp] theorem modProg_wipeRun (s : State) (i : Nat) (f : ProgRun → ProgRun) : (s.modProg i f).wipeRun = s.wipeRun := rfl
@[simp] theorem modProg_mram (s : State) (i : Nat) (f : ProgRun → ProgRun) : (s.modProg i f).mram = s.mram := rfl
@[simp] theorem modProg_log (s : State) (i : Nat) (f : ProgRun → ProgRun) : (s.modProg i f).log = s.log := rfl
@[simp] theorem modProg_clk (s : State) (i : Nat) (f : ProgRun → ProgRun) : (s.modProg i f).clk = s.clk := rfl
@[simp] theorem modProg_aloRx (s : State) (i : Nat) (f : ProgRun → ProgRun) : (s.modProg i f).aloRx = s.aloRx := rfl
@[simp] theorem modProg_aloTx (s : State) (i : Nat) (f : ProgRun → ProgRun) : (s.modProg i f).aloTx = s.aloTx := rfl
@[simp] theorem modProg_flags (s : State) (i : Nat) (f : ProgRun → ProgRun) : (s.modProg i f).flags = s.flags := rfl
@[simp] theorem modProg_health (s : State) (i : Nat) (f : ProgRun → ProgRun) : (s.modProg i f).health = s.health := rfl
@[simp] theorem modProg_bus (s : State) (i : Nat) (f : ProgRun → ProgRun) : (s.modProg i f).bus = s.bus := rfl
@[simp] theorem modProg_tb (s : State) (i : Nat) (f : ProgRun → ProgRun) : (s.modProg i f).tb = s.tb := rfl
@[simp] theorem modProg_slates (s : State) (i : Nat) (f : ProgRun → ProgRun) : (s.modProg i f).slates = s.slates := rfl
@[simp] theorem modProg_pulses (s : State) (i : Nat) (f : ProgRun → ProgRun) : (s.modProg i f).pulses = s.pulses := rfl
@[simp] theorem modProg_conv (s : State) (i : Nat) (f : ProgRun → ProgRun) : (s.modProg i f).conv = s.conv := rfl
@[simp] theorem modProg_devMarks (s : State) (i : Nat) (f : ProgRun → ProgRun) : (s.modProg i f).devMarks = s.devMarks := rfl
@[simp] theorem modProg_standin (s : State) (i : Nat) (f : ProgRun → ProgRun) : (s.modProg i f).standin = s.standin := rfl
@[simp] theorem modProg_pass (s : State) (i : Nat) (f : ProgRun → ProgRun) : (s.modProg i f).pass = s.pass := rfl
@[simp] theorem modProg_cap (s : State) (i : Nat) (f : ProgRun → ProgRun) : (s.modProg i f).cap = s.cap := rfl
@[simp] theorem modProg_fmd (s : State) (i : Nat) (f : ProgRun → ProgRun) : (s.modProg i f).fmd = s.fmd := rfl
@[simp] theorem modProg_amd (s : State) (i : Nat) (f : ProgRun → ProgRun) : (s.modProg i f).amd = s.amd := rfl
@[simp] theorem modProg_ee (s : State) (i : Nat) (f : ProgRun → ProgRun) : (s.modProg i f).ee = s.ee := rfl
@[simp] theorem modProg_svc (s : State) (i : Nat) (f : ProgRun → ProgRun) : (s.modProg i f).svc = s.svc := rfl
@[simp] theorem modProg_inserts (s : State) (i : Nat) (f : ProgRun → ProgRun) : (s.modProg i f).inserts = s.inserts := rfl
@[simp] theorem modProg_port (s : State) (i : Nat) (f : ProgRun → ProgRun) : (s.modProg i f).port = s.port := rfl
@[simp] theorem modProg_fcar (s : State) (i : Nat) (f : ProgRun → ProgRun) : (s.modProg i f).fcar = s.fcar := rfl
@[simp] theorem modProg_dcar (s : State) (i : Nat) (f : ProgRun → ProgRun) : (s.modProg i f).dcar = s.dcar := rfl
@[simp] theorem modProg_tx (s : State) (i : Nat) (f : ProgRun → ProgRun) : (s.modProg i f).tx = s.tx := rfl
@[simp] theorem modProg_cue (s : State) (i : Nat) (f : ProgRun → ProgRun) : (s.modProg i f).cue = s.cue := rfl
@[simp] theorem modProg_cas (s : State) (i : Nat) (f : ProgRun → ProgRun) : (s.modProg i f).cas = s.cas := rfl
@[simp] theorem modProg_host (s : State) (i : Nat) (f : ProgRun → ProgRun) : (s.modProg i f).host = s.host := rfl
@[simp] theorem modProg_cal (s : State) (i : Nat) (f : ProgRun → ProgRun) : (s.modProg i f).cal = s.cal := rfl
@[simp] theorem modProg_tap (s : State) (i : Nat) (f : ProgRun → ProgRun) : (s.modProg i f).tap = s.tap := rfl
@[simp] theorem modProg_pending (s : State) (i : Nat) (f : ProgRun → ProgRun) : (s.modProg i f).pending = s.pending := rfl

/-! ## State.modPort -/

@[simp] theorem modPort_now (s : State) (i : Nat) (f : PortRun → PortRun) : (s.modPort i f).now = s.now := rfl
@[simp] theorem modPort_atTick (s : State) (i : Nat) (f : PortRun → PortRun) : (s.modPort i f).atTick = s.atTick := rfl
@[simp] theorem modPort_phase (s : State) (i : Nat) (f : PortRun → PortRun) : (s.modPort i f).phase = s.phase := rfl
@[simp] theorem modPort_lastCause (s : State) (i : Nat) (f : PortRun → PortRun) : (s.modPort i f).lastCause = s.lastCause := rfl
@[simp] theorem modPort_resetPin (s : State) (i : Nat) (f : PortRun → PortRun) : (s.modPort i f).resetPin = s.resetPin := rfl
@[simp] theorem modPort_heldBrown (s : State) (i : Nat) (f : PortRun → PortRun) : (s.modPort i f).heldBrown = s.heldBrown := rfl
@[simp] theorem modPort_heldHot (s : State) (i : Nat) (f : PortRun → PortRun) : (s.modPort i f).heldHot = s.heldHot := rfl
@[simp] theorem modPort_freeCtr (s : State) (i : Nat) (f : PortRun → PortRun) : (s.modPort i f).freeCtr = s.freeCtr := rfl
@[simp] theorem modPort_straps (s : State) (i : Nat) (f : PortRun → PortRun) : (s.modPort i f).straps = s.straps := rfl
@[simp] theorem modPort_fuses (s : State) (i : Nat) (f : PortRun → PortRun) : (s.modPort i f).fuses = s.fuses := rfl
@[simp] theorem modPort_boot (s : State) (i : Nat) (f : PortRun → PortRun) : (s.modPort i f).boot = s.boot := rfl
@[simp] theorem modPort_lcPending (s : State) (i : Nat) (f : PortRun → PortRun) : (s.modPort i f).lcPending = s.lcPending := rfl
@[simp] theorem modPort_wipeRun (s : State) (i : Nat) (f : PortRun → PortRun) : (s.modPort i f).wipeRun = s.wipeRun := rfl
@[simp] theorem modPort_mram (s : State) (i : Nat) (f : PortRun → PortRun) : (s.modPort i f).mram = s.mram := rfl
@[simp] theorem modPort_log (s : State) (i : Nat) (f : PortRun → PortRun) : (s.modPort i f).log = s.log := rfl
@[simp] theorem modPort_clk (s : State) (i : Nat) (f : PortRun → PortRun) : (s.modPort i f).clk = s.clk := rfl
@[simp] theorem modPort_aloRx (s : State) (i : Nat) (f : PortRun → PortRun) : (s.modPort i f).aloRx = s.aloRx := rfl
@[simp] theorem modPort_aloTx (s : State) (i : Nat) (f : PortRun → PortRun) : (s.modPort i f).aloTx = s.aloTx := rfl
@[simp] theorem modPort_flags (s : State) (i : Nat) (f : PortRun → PortRun) : (s.modPort i f).flags = s.flags := rfl
@[simp] theorem modPort_health (s : State) (i : Nat) (f : PortRun → PortRun) : (s.modPort i f).health = s.health := rfl
@[simp] theorem modPort_bus (s : State) (i : Nat) (f : PortRun → PortRun) : (s.modPort i f).bus = s.bus := rfl
@[simp] theorem modPort_tb (s : State) (i : Nat) (f : PortRun → PortRun) : (s.modPort i f).tb = s.tb := rfl
@[simp] theorem modPort_slates (s : State) (i : Nat) (f : PortRun → PortRun) : (s.modPort i f).slates = s.slates := rfl
@[simp] theorem modPort_pulses (s : State) (i : Nat) (f : PortRun → PortRun) : (s.modPort i f).pulses = s.pulses := rfl
@[simp] theorem modPort_conv (s : State) (i : Nat) (f : PortRun → PortRun) : (s.modPort i f).conv = s.conv := rfl
@[simp] theorem modPort_devMarks (s : State) (i : Nat) (f : PortRun → PortRun) : (s.modPort i f).devMarks = s.devMarks := rfl
@[simp] theorem modPort_standin (s : State) (i : Nat) (f : PortRun → PortRun) : (s.modPort i f).standin = s.standin := rfl
@[simp] theorem modPort_pass (s : State) (i : Nat) (f : PortRun → PortRun) : (s.modPort i f).pass = s.pass := rfl
@[simp] theorem modPort_cap (s : State) (i : Nat) (f : PortRun → PortRun) : (s.modPort i f).cap = s.cap := rfl
@[simp] theorem modPort_fmd (s : State) (i : Nat) (f : PortRun → PortRun) : (s.modPort i f).fmd = s.fmd := rfl
@[simp] theorem modPort_amd (s : State) (i : Nat) (f : PortRun → PortRun) : (s.modPort i f).amd = s.amd := rfl
@[simp] theorem modPort_ee (s : State) (i : Nat) (f : PortRun → PortRun) : (s.modPort i f).ee = s.ee := rfl
@[simp] theorem modPort_svc (s : State) (i : Nat) (f : PortRun → PortRun) : (s.modPort i f).svc = s.svc := rfl
@[simp] theorem modPort_prog (s : State) (i : Nat) (f : PortRun → PortRun) : (s.modPort i f).prog = s.prog := rfl
@[simp] theorem modPort_inserts (s : State) (i : Nat) (f : PortRun → PortRun) : (s.modPort i f).inserts = s.inserts := rfl
@[simp] theorem modPort_fcar (s : State) (i : Nat) (f : PortRun → PortRun) : (s.modPort i f).fcar = s.fcar := rfl
@[simp] theorem modPort_dcar (s : State) (i : Nat) (f : PortRun → PortRun) : (s.modPort i f).dcar = s.dcar := rfl
@[simp] theorem modPort_tx (s : State) (i : Nat) (f : PortRun → PortRun) : (s.modPort i f).tx = s.tx := rfl
@[simp] theorem modPort_cue (s : State) (i : Nat) (f : PortRun → PortRun) : (s.modPort i f).cue = s.cue := rfl
@[simp] theorem modPort_cas (s : State) (i : Nat) (f : PortRun → PortRun) : (s.modPort i f).cas = s.cas := rfl
@[simp] theorem modPort_host (s : State) (i : Nat) (f : PortRun → PortRun) : (s.modPort i f).host = s.host := rfl
@[simp] theorem modPort_cal (s : State) (i : Nat) (f : PortRun → PortRun) : (s.modPort i f).cal = s.cal := rfl
@[simp] theorem modPort_tap (s : State) (i : Nat) (f : PortRun → PortRun) : (s.modPort i f).tap = s.tap := rfl
@[simp] theorem modPort_pending (s : State) (i : Nat) (f : PortRun → PortRun) : (s.modPort i f).pending = s.pending := rfl

/-! ## State.modFcar -/

@[simp] theorem modFcar_now (s : State) (i : Nat) (f : FcarRun → FcarRun) : (s.modFcar i f).now = s.now := rfl
@[simp] theorem modFcar_atTick (s : State) (i : Nat) (f : FcarRun → FcarRun) : (s.modFcar i f).atTick = s.atTick := rfl
@[simp] theorem modFcar_phase (s : State) (i : Nat) (f : FcarRun → FcarRun) : (s.modFcar i f).phase = s.phase := rfl
@[simp] theorem modFcar_lastCause (s : State) (i : Nat) (f : FcarRun → FcarRun) : (s.modFcar i f).lastCause = s.lastCause := rfl
@[simp] theorem modFcar_resetPin (s : State) (i : Nat) (f : FcarRun → FcarRun) : (s.modFcar i f).resetPin = s.resetPin := rfl
@[simp] theorem modFcar_heldBrown (s : State) (i : Nat) (f : FcarRun → FcarRun) : (s.modFcar i f).heldBrown = s.heldBrown := rfl
@[simp] theorem modFcar_heldHot (s : State) (i : Nat) (f : FcarRun → FcarRun) : (s.modFcar i f).heldHot = s.heldHot := rfl
@[simp] theorem modFcar_freeCtr (s : State) (i : Nat) (f : FcarRun → FcarRun) : (s.modFcar i f).freeCtr = s.freeCtr := rfl
@[simp] theorem modFcar_straps (s : State) (i : Nat) (f : FcarRun → FcarRun) : (s.modFcar i f).straps = s.straps := rfl
@[simp] theorem modFcar_fuses (s : State) (i : Nat) (f : FcarRun → FcarRun) : (s.modFcar i f).fuses = s.fuses := rfl
@[simp] theorem modFcar_boot (s : State) (i : Nat) (f : FcarRun → FcarRun) : (s.modFcar i f).boot = s.boot := rfl
@[simp] theorem modFcar_lcPending (s : State) (i : Nat) (f : FcarRun → FcarRun) : (s.modFcar i f).lcPending = s.lcPending := rfl
@[simp] theorem modFcar_wipeRun (s : State) (i : Nat) (f : FcarRun → FcarRun) : (s.modFcar i f).wipeRun = s.wipeRun := rfl
@[simp] theorem modFcar_mram (s : State) (i : Nat) (f : FcarRun → FcarRun) : (s.modFcar i f).mram = s.mram := rfl
@[simp] theorem modFcar_log (s : State) (i : Nat) (f : FcarRun → FcarRun) : (s.modFcar i f).log = s.log := rfl
@[simp] theorem modFcar_clk (s : State) (i : Nat) (f : FcarRun → FcarRun) : (s.modFcar i f).clk = s.clk := rfl
@[simp] theorem modFcar_aloRx (s : State) (i : Nat) (f : FcarRun → FcarRun) : (s.modFcar i f).aloRx = s.aloRx := rfl
@[simp] theorem modFcar_aloTx (s : State) (i : Nat) (f : FcarRun → FcarRun) : (s.modFcar i f).aloTx = s.aloTx := rfl
@[simp] theorem modFcar_flags (s : State) (i : Nat) (f : FcarRun → FcarRun) : (s.modFcar i f).flags = s.flags := rfl
@[simp] theorem modFcar_health (s : State) (i : Nat) (f : FcarRun → FcarRun) : (s.modFcar i f).health = s.health := rfl
@[simp] theorem modFcar_bus (s : State) (i : Nat) (f : FcarRun → FcarRun) : (s.modFcar i f).bus = s.bus := rfl
@[simp] theorem modFcar_tb (s : State) (i : Nat) (f : FcarRun → FcarRun) : (s.modFcar i f).tb = s.tb := rfl
@[simp] theorem modFcar_slates (s : State) (i : Nat) (f : FcarRun → FcarRun) : (s.modFcar i f).slates = s.slates := rfl
@[simp] theorem modFcar_pulses (s : State) (i : Nat) (f : FcarRun → FcarRun) : (s.modFcar i f).pulses = s.pulses := rfl
@[simp] theorem modFcar_conv (s : State) (i : Nat) (f : FcarRun → FcarRun) : (s.modFcar i f).conv = s.conv := rfl
@[simp] theorem modFcar_devMarks (s : State) (i : Nat) (f : FcarRun → FcarRun) : (s.modFcar i f).devMarks = s.devMarks := rfl
@[simp] theorem modFcar_standin (s : State) (i : Nat) (f : FcarRun → FcarRun) : (s.modFcar i f).standin = s.standin := rfl
@[simp] theorem modFcar_pass (s : State) (i : Nat) (f : FcarRun → FcarRun) : (s.modFcar i f).pass = s.pass := rfl
@[simp] theorem modFcar_cap (s : State) (i : Nat) (f : FcarRun → FcarRun) : (s.modFcar i f).cap = s.cap := rfl
@[simp] theorem modFcar_fmd (s : State) (i : Nat) (f : FcarRun → FcarRun) : (s.modFcar i f).fmd = s.fmd := rfl
@[simp] theorem modFcar_amd (s : State) (i : Nat) (f : FcarRun → FcarRun) : (s.modFcar i f).amd = s.amd := rfl
@[simp] theorem modFcar_ee (s : State) (i : Nat) (f : FcarRun → FcarRun) : (s.modFcar i f).ee = s.ee := rfl
@[simp] theorem modFcar_svc (s : State) (i : Nat) (f : FcarRun → FcarRun) : (s.modFcar i f).svc = s.svc := rfl
@[simp] theorem modFcar_prog (s : State) (i : Nat) (f : FcarRun → FcarRun) : (s.modFcar i f).prog = s.prog := rfl
@[simp] theorem modFcar_inserts (s : State) (i : Nat) (f : FcarRun → FcarRun) : (s.modFcar i f).inserts = s.inserts := rfl
@[simp] theorem modFcar_port (s : State) (i : Nat) (f : FcarRun → FcarRun) : (s.modFcar i f).port = s.port := rfl
@[simp] theorem modFcar_dcar (s : State) (i : Nat) (f : FcarRun → FcarRun) : (s.modFcar i f).dcar = s.dcar := rfl
@[simp] theorem modFcar_tx (s : State) (i : Nat) (f : FcarRun → FcarRun) : (s.modFcar i f).tx = s.tx := rfl
@[simp] theorem modFcar_cue (s : State) (i : Nat) (f : FcarRun → FcarRun) : (s.modFcar i f).cue = s.cue := rfl
@[simp] theorem modFcar_cas (s : State) (i : Nat) (f : FcarRun → FcarRun) : (s.modFcar i f).cas = s.cas := rfl
@[simp] theorem modFcar_host (s : State) (i : Nat) (f : FcarRun → FcarRun) : (s.modFcar i f).host = s.host := rfl
@[simp] theorem modFcar_cal (s : State) (i : Nat) (f : FcarRun → FcarRun) : (s.modFcar i f).cal = s.cal := rfl
@[simp] theorem modFcar_tap (s : State) (i : Nat) (f : FcarRun → FcarRun) : (s.modFcar i f).tap = s.tap := rfl
@[simp] theorem modFcar_pending (s : State) (i : Nat) (f : FcarRun → FcarRun) : (s.modFcar i f).pending = s.pending := rfl

/-! ## State.modDcar -/

@[simp] theorem modDcar_now (s : State) (i : Nat) (f : DcarRun → DcarRun) : (s.modDcar i f).now = s.now := rfl
@[simp] theorem modDcar_atTick (s : State) (i : Nat) (f : DcarRun → DcarRun) : (s.modDcar i f).atTick = s.atTick := rfl
@[simp] theorem modDcar_phase (s : State) (i : Nat) (f : DcarRun → DcarRun) : (s.modDcar i f).phase = s.phase := rfl
@[simp] theorem modDcar_lastCause (s : State) (i : Nat) (f : DcarRun → DcarRun) : (s.modDcar i f).lastCause = s.lastCause := rfl
@[simp] theorem modDcar_resetPin (s : State) (i : Nat) (f : DcarRun → DcarRun) : (s.modDcar i f).resetPin = s.resetPin := rfl
@[simp] theorem modDcar_heldBrown (s : State) (i : Nat) (f : DcarRun → DcarRun) : (s.modDcar i f).heldBrown = s.heldBrown := rfl
@[simp] theorem modDcar_heldHot (s : State) (i : Nat) (f : DcarRun → DcarRun) : (s.modDcar i f).heldHot = s.heldHot := rfl
@[simp] theorem modDcar_freeCtr (s : State) (i : Nat) (f : DcarRun → DcarRun) : (s.modDcar i f).freeCtr = s.freeCtr := rfl
@[simp] theorem modDcar_straps (s : State) (i : Nat) (f : DcarRun → DcarRun) : (s.modDcar i f).straps = s.straps := rfl
@[simp] theorem modDcar_fuses (s : State) (i : Nat) (f : DcarRun → DcarRun) : (s.modDcar i f).fuses = s.fuses := rfl
@[simp] theorem modDcar_boot (s : State) (i : Nat) (f : DcarRun → DcarRun) : (s.modDcar i f).boot = s.boot := rfl
@[simp] theorem modDcar_lcPending (s : State) (i : Nat) (f : DcarRun → DcarRun) : (s.modDcar i f).lcPending = s.lcPending := rfl
@[simp] theorem modDcar_wipeRun (s : State) (i : Nat) (f : DcarRun → DcarRun) : (s.modDcar i f).wipeRun = s.wipeRun := rfl
@[simp] theorem modDcar_mram (s : State) (i : Nat) (f : DcarRun → DcarRun) : (s.modDcar i f).mram = s.mram := rfl
@[simp] theorem modDcar_log (s : State) (i : Nat) (f : DcarRun → DcarRun) : (s.modDcar i f).log = s.log := rfl
@[simp] theorem modDcar_clk (s : State) (i : Nat) (f : DcarRun → DcarRun) : (s.modDcar i f).clk = s.clk := rfl
@[simp] theorem modDcar_aloRx (s : State) (i : Nat) (f : DcarRun → DcarRun) : (s.modDcar i f).aloRx = s.aloRx := rfl
@[simp] theorem modDcar_aloTx (s : State) (i : Nat) (f : DcarRun → DcarRun) : (s.modDcar i f).aloTx = s.aloTx := rfl
@[simp] theorem modDcar_flags (s : State) (i : Nat) (f : DcarRun → DcarRun) : (s.modDcar i f).flags = s.flags := rfl
@[simp] theorem modDcar_health (s : State) (i : Nat) (f : DcarRun → DcarRun) : (s.modDcar i f).health = s.health := rfl
@[simp] theorem modDcar_bus (s : State) (i : Nat) (f : DcarRun → DcarRun) : (s.modDcar i f).bus = s.bus := rfl
@[simp] theorem modDcar_tb (s : State) (i : Nat) (f : DcarRun → DcarRun) : (s.modDcar i f).tb = s.tb := rfl
@[simp] theorem modDcar_slates (s : State) (i : Nat) (f : DcarRun → DcarRun) : (s.modDcar i f).slates = s.slates := rfl
@[simp] theorem modDcar_pulses (s : State) (i : Nat) (f : DcarRun → DcarRun) : (s.modDcar i f).pulses = s.pulses := rfl
@[simp] theorem modDcar_conv (s : State) (i : Nat) (f : DcarRun → DcarRun) : (s.modDcar i f).conv = s.conv := rfl
@[simp] theorem modDcar_devMarks (s : State) (i : Nat) (f : DcarRun → DcarRun) : (s.modDcar i f).devMarks = s.devMarks := rfl
@[simp] theorem modDcar_standin (s : State) (i : Nat) (f : DcarRun → DcarRun) : (s.modDcar i f).standin = s.standin := rfl
@[simp] theorem modDcar_pass (s : State) (i : Nat) (f : DcarRun → DcarRun) : (s.modDcar i f).pass = s.pass := rfl
@[simp] theorem modDcar_cap (s : State) (i : Nat) (f : DcarRun → DcarRun) : (s.modDcar i f).cap = s.cap := rfl
@[simp] theorem modDcar_fmd (s : State) (i : Nat) (f : DcarRun → DcarRun) : (s.modDcar i f).fmd = s.fmd := rfl
@[simp] theorem modDcar_amd (s : State) (i : Nat) (f : DcarRun → DcarRun) : (s.modDcar i f).amd = s.amd := rfl
@[simp] theorem modDcar_ee (s : State) (i : Nat) (f : DcarRun → DcarRun) : (s.modDcar i f).ee = s.ee := rfl
@[simp] theorem modDcar_svc (s : State) (i : Nat) (f : DcarRun → DcarRun) : (s.modDcar i f).svc = s.svc := rfl
@[simp] theorem modDcar_prog (s : State) (i : Nat) (f : DcarRun → DcarRun) : (s.modDcar i f).prog = s.prog := rfl
@[simp] theorem modDcar_inserts (s : State) (i : Nat) (f : DcarRun → DcarRun) : (s.modDcar i f).inserts = s.inserts := rfl
@[simp] theorem modDcar_port (s : State) (i : Nat) (f : DcarRun → DcarRun) : (s.modDcar i f).port = s.port := rfl
@[simp] theorem modDcar_fcar (s : State) (i : Nat) (f : DcarRun → DcarRun) : (s.modDcar i f).fcar = s.fcar := rfl
@[simp] theorem modDcar_tx (s : State) (i : Nat) (f : DcarRun → DcarRun) : (s.modDcar i f).tx = s.tx := rfl
@[simp] theorem modDcar_cue (s : State) (i : Nat) (f : DcarRun → DcarRun) : (s.modDcar i f).cue = s.cue := rfl
@[simp] theorem modDcar_cas (s : State) (i : Nat) (f : DcarRun → DcarRun) : (s.modDcar i f).cas = s.cas := rfl
@[simp] theorem modDcar_host (s : State) (i : Nat) (f : DcarRun → DcarRun) : (s.modDcar i f).host = s.host := rfl
@[simp] theorem modDcar_cal (s : State) (i : Nat) (f : DcarRun → DcarRun) : (s.modDcar i f).cal = s.cal := rfl
@[simp] theorem modDcar_tap (s : State) (i : Nat) (f : DcarRun → DcarRun) : (s.modDcar i f).tap = s.tap := rfl
@[simp] theorem modDcar_pending (s : State) (i : Nat) (f : DcarRun → DcarRun) : (s.modDcar i f).pending = s.pending := rfl

/-! ## State.modCue -/

@[simp] theorem modCue_now (s : State) (i : Nat) (f : CueRun → CueRun) : (s.modCue i f).now = s.now := rfl
@[simp] theorem modCue_atTick (s : State) (i : Nat) (f : CueRun → CueRun) : (s.modCue i f).atTick = s.atTick := rfl
@[simp] theorem modCue_phase (s : State) (i : Nat) (f : CueRun → CueRun) : (s.modCue i f).phase = s.phase := rfl
@[simp] theorem modCue_lastCause (s : State) (i : Nat) (f : CueRun → CueRun) : (s.modCue i f).lastCause = s.lastCause := rfl
@[simp] theorem modCue_resetPin (s : State) (i : Nat) (f : CueRun → CueRun) : (s.modCue i f).resetPin = s.resetPin := rfl
@[simp] theorem modCue_heldBrown (s : State) (i : Nat) (f : CueRun → CueRun) : (s.modCue i f).heldBrown = s.heldBrown := rfl
@[simp] theorem modCue_heldHot (s : State) (i : Nat) (f : CueRun → CueRun) : (s.modCue i f).heldHot = s.heldHot := rfl
@[simp] theorem modCue_freeCtr (s : State) (i : Nat) (f : CueRun → CueRun) : (s.modCue i f).freeCtr = s.freeCtr := rfl
@[simp] theorem modCue_straps (s : State) (i : Nat) (f : CueRun → CueRun) : (s.modCue i f).straps = s.straps := rfl
@[simp] theorem modCue_fuses (s : State) (i : Nat) (f : CueRun → CueRun) : (s.modCue i f).fuses = s.fuses := rfl
@[simp] theorem modCue_boot (s : State) (i : Nat) (f : CueRun → CueRun) : (s.modCue i f).boot = s.boot := rfl
@[simp] theorem modCue_lcPending (s : State) (i : Nat) (f : CueRun → CueRun) : (s.modCue i f).lcPending = s.lcPending := rfl
@[simp] theorem modCue_wipeRun (s : State) (i : Nat) (f : CueRun → CueRun) : (s.modCue i f).wipeRun = s.wipeRun := rfl
@[simp] theorem modCue_mram (s : State) (i : Nat) (f : CueRun → CueRun) : (s.modCue i f).mram = s.mram := rfl
@[simp] theorem modCue_log (s : State) (i : Nat) (f : CueRun → CueRun) : (s.modCue i f).log = s.log := rfl
@[simp] theorem modCue_clk (s : State) (i : Nat) (f : CueRun → CueRun) : (s.modCue i f).clk = s.clk := rfl
@[simp] theorem modCue_aloRx (s : State) (i : Nat) (f : CueRun → CueRun) : (s.modCue i f).aloRx = s.aloRx := rfl
@[simp] theorem modCue_aloTx (s : State) (i : Nat) (f : CueRun → CueRun) : (s.modCue i f).aloTx = s.aloTx := rfl
@[simp] theorem modCue_flags (s : State) (i : Nat) (f : CueRun → CueRun) : (s.modCue i f).flags = s.flags := rfl
@[simp] theorem modCue_health (s : State) (i : Nat) (f : CueRun → CueRun) : (s.modCue i f).health = s.health := rfl
@[simp] theorem modCue_bus (s : State) (i : Nat) (f : CueRun → CueRun) : (s.modCue i f).bus = s.bus := rfl
@[simp] theorem modCue_tb (s : State) (i : Nat) (f : CueRun → CueRun) : (s.modCue i f).tb = s.tb := rfl
@[simp] theorem modCue_slates (s : State) (i : Nat) (f : CueRun → CueRun) : (s.modCue i f).slates = s.slates := rfl
@[simp] theorem modCue_pulses (s : State) (i : Nat) (f : CueRun → CueRun) : (s.modCue i f).pulses = s.pulses := rfl
@[simp] theorem modCue_conv (s : State) (i : Nat) (f : CueRun → CueRun) : (s.modCue i f).conv = s.conv := rfl
@[simp] theorem modCue_devMarks (s : State) (i : Nat) (f : CueRun → CueRun) : (s.modCue i f).devMarks = s.devMarks := rfl
@[simp] theorem modCue_standin (s : State) (i : Nat) (f : CueRun → CueRun) : (s.modCue i f).standin = s.standin := rfl
@[simp] theorem modCue_pass (s : State) (i : Nat) (f : CueRun → CueRun) : (s.modCue i f).pass = s.pass := rfl
@[simp] theorem modCue_cap (s : State) (i : Nat) (f : CueRun → CueRun) : (s.modCue i f).cap = s.cap := rfl
@[simp] theorem modCue_fmd (s : State) (i : Nat) (f : CueRun → CueRun) : (s.modCue i f).fmd = s.fmd := rfl
@[simp] theorem modCue_amd (s : State) (i : Nat) (f : CueRun → CueRun) : (s.modCue i f).amd = s.amd := rfl
@[simp] theorem modCue_ee (s : State) (i : Nat) (f : CueRun → CueRun) : (s.modCue i f).ee = s.ee := rfl
@[simp] theorem modCue_svc (s : State) (i : Nat) (f : CueRun → CueRun) : (s.modCue i f).svc = s.svc := rfl
@[simp] theorem modCue_prog (s : State) (i : Nat) (f : CueRun → CueRun) : (s.modCue i f).prog = s.prog := rfl
@[simp] theorem modCue_inserts (s : State) (i : Nat) (f : CueRun → CueRun) : (s.modCue i f).inserts = s.inserts := rfl
@[simp] theorem modCue_port (s : State) (i : Nat) (f : CueRun → CueRun) : (s.modCue i f).port = s.port := rfl
@[simp] theorem modCue_fcar (s : State) (i : Nat) (f : CueRun → CueRun) : (s.modCue i f).fcar = s.fcar := rfl
@[simp] theorem modCue_dcar (s : State) (i : Nat) (f : CueRun → CueRun) : (s.modCue i f).dcar = s.dcar := rfl
@[simp] theorem modCue_tx (s : State) (i : Nat) (f : CueRun → CueRun) : (s.modCue i f).tx = s.tx := rfl
@[simp] theorem modCue_cas (s : State) (i : Nat) (f : CueRun → CueRun) : (s.modCue i f).cas = s.cas := rfl
@[simp] theorem modCue_host (s : State) (i : Nat) (f : CueRun → CueRun) : (s.modCue i f).host = s.host := rfl
@[simp] theorem modCue_cal (s : State) (i : Nat) (f : CueRun → CueRun) : (s.modCue i f).cal = s.cal := rfl
@[simp] theorem modCue_tap (s : State) (i : Nat) (f : CueRun → CueRun) : (s.modCue i f).tap = s.tap := rfl
@[simp] theorem modCue_pending (s : State) (i : Nat) (f : CueRun → CueRun) : (s.modCue i f).pending = s.pending := rfl

/-! ## State.modConv -/

@[simp] theorem modConv_now (s : State) (i : Nat) (f : ConvRun → ConvRun) : (s.modConv i f).now = s.now := rfl
@[simp] theorem modConv_atTick (s : State) (i : Nat) (f : ConvRun → ConvRun) : (s.modConv i f).atTick = s.atTick := rfl
@[simp] theorem modConv_phase (s : State) (i : Nat) (f : ConvRun → ConvRun) : (s.modConv i f).phase = s.phase := rfl
@[simp] theorem modConv_lastCause (s : State) (i : Nat) (f : ConvRun → ConvRun) : (s.modConv i f).lastCause = s.lastCause := rfl
@[simp] theorem modConv_resetPin (s : State) (i : Nat) (f : ConvRun → ConvRun) : (s.modConv i f).resetPin = s.resetPin := rfl
@[simp] theorem modConv_heldBrown (s : State) (i : Nat) (f : ConvRun → ConvRun) : (s.modConv i f).heldBrown = s.heldBrown := rfl
@[simp] theorem modConv_heldHot (s : State) (i : Nat) (f : ConvRun → ConvRun) : (s.modConv i f).heldHot = s.heldHot := rfl
@[simp] theorem modConv_freeCtr (s : State) (i : Nat) (f : ConvRun → ConvRun) : (s.modConv i f).freeCtr = s.freeCtr := rfl
@[simp] theorem modConv_straps (s : State) (i : Nat) (f : ConvRun → ConvRun) : (s.modConv i f).straps = s.straps := rfl
@[simp] theorem modConv_fuses (s : State) (i : Nat) (f : ConvRun → ConvRun) : (s.modConv i f).fuses = s.fuses := rfl
@[simp] theorem modConv_boot (s : State) (i : Nat) (f : ConvRun → ConvRun) : (s.modConv i f).boot = s.boot := rfl
@[simp] theorem modConv_lcPending (s : State) (i : Nat) (f : ConvRun → ConvRun) : (s.modConv i f).lcPending = s.lcPending := rfl
@[simp] theorem modConv_wipeRun (s : State) (i : Nat) (f : ConvRun → ConvRun) : (s.modConv i f).wipeRun = s.wipeRun := rfl
@[simp] theorem modConv_mram (s : State) (i : Nat) (f : ConvRun → ConvRun) : (s.modConv i f).mram = s.mram := rfl
@[simp] theorem modConv_log (s : State) (i : Nat) (f : ConvRun → ConvRun) : (s.modConv i f).log = s.log := rfl
@[simp] theorem modConv_clk (s : State) (i : Nat) (f : ConvRun → ConvRun) : (s.modConv i f).clk = s.clk := rfl
@[simp] theorem modConv_aloRx (s : State) (i : Nat) (f : ConvRun → ConvRun) : (s.modConv i f).aloRx = s.aloRx := rfl
@[simp] theorem modConv_aloTx (s : State) (i : Nat) (f : ConvRun → ConvRun) : (s.modConv i f).aloTx = s.aloTx := rfl
@[simp] theorem modConv_flags (s : State) (i : Nat) (f : ConvRun → ConvRun) : (s.modConv i f).flags = s.flags := rfl
@[simp] theorem modConv_health (s : State) (i : Nat) (f : ConvRun → ConvRun) : (s.modConv i f).health = s.health := rfl
@[simp] theorem modConv_bus (s : State) (i : Nat) (f : ConvRun → ConvRun) : (s.modConv i f).bus = s.bus := rfl
@[simp] theorem modConv_tb (s : State) (i : Nat) (f : ConvRun → ConvRun) : (s.modConv i f).tb = s.tb := rfl
@[simp] theorem modConv_slates (s : State) (i : Nat) (f : ConvRun → ConvRun) : (s.modConv i f).slates = s.slates := rfl
@[simp] theorem modConv_pulses (s : State) (i : Nat) (f : ConvRun → ConvRun) : (s.modConv i f).pulses = s.pulses := rfl
@[simp] theorem modConv_devMarks (s : State) (i : Nat) (f : ConvRun → ConvRun) : (s.modConv i f).devMarks = s.devMarks := rfl
@[simp] theorem modConv_standin (s : State) (i : Nat) (f : ConvRun → ConvRun) : (s.modConv i f).standin = s.standin := rfl
@[simp] theorem modConv_pass (s : State) (i : Nat) (f : ConvRun → ConvRun) : (s.modConv i f).pass = s.pass := rfl
@[simp] theorem modConv_cap (s : State) (i : Nat) (f : ConvRun → ConvRun) : (s.modConv i f).cap = s.cap := rfl
@[simp] theorem modConv_fmd (s : State) (i : Nat) (f : ConvRun → ConvRun) : (s.modConv i f).fmd = s.fmd := rfl
@[simp] theorem modConv_amd (s : State) (i : Nat) (f : ConvRun → ConvRun) : (s.modConv i f).amd = s.amd := rfl
@[simp] theorem modConv_ee (s : State) (i : Nat) (f : ConvRun → ConvRun) : (s.modConv i f).ee = s.ee := rfl
@[simp] theorem modConv_svc (s : State) (i : Nat) (f : ConvRun → ConvRun) : (s.modConv i f).svc = s.svc := rfl
@[simp] theorem modConv_prog (s : State) (i : Nat) (f : ConvRun → ConvRun) : (s.modConv i f).prog = s.prog := rfl
@[simp] theorem modConv_inserts (s : State) (i : Nat) (f : ConvRun → ConvRun) : (s.modConv i f).inserts = s.inserts := rfl
@[simp] theorem modConv_port (s : State) (i : Nat) (f : ConvRun → ConvRun) : (s.modConv i f).port = s.port := rfl
@[simp] theorem modConv_fcar (s : State) (i : Nat) (f : ConvRun → ConvRun) : (s.modConv i f).fcar = s.fcar := rfl
@[simp] theorem modConv_dcar (s : State) (i : Nat) (f : ConvRun → ConvRun) : (s.modConv i f).dcar = s.dcar := rfl
@[simp] theorem modConv_tx (s : State) (i : Nat) (f : ConvRun → ConvRun) : (s.modConv i f).tx = s.tx := rfl
@[simp] theorem modConv_cue (s : State) (i : Nat) (f : ConvRun → ConvRun) : (s.modConv i f).cue = s.cue := rfl
@[simp] theorem modConv_cas (s : State) (i : Nat) (f : ConvRun → ConvRun) : (s.modConv i f).cas = s.cas := rfl
@[simp] theorem modConv_host (s : State) (i : Nat) (f : ConvRun → ConvRun) : (s.modConv i f).host = s.host := rfl
@[simp] theorem modConv_cal (s : State) (i : Nat) (f : ConvRun → ConvRun) : (s.modConv i f).cal = s.cal := rfl
@[simp] theorem modConv_tap (s : State) (i : Nat) (f : ConvRun → ConvRun) : (s.modConv i f).tap = s.tap := rfl
@[simp] theorem modConv_pending (s : State) (i : Nat) (f : ConvRun → ConvRun) : (s.modConv i f).pending = s.pending := rfl

/-! ## State.modCap -/

@[simp] theorem modCap_now (s : State) (i : Nat) (f : CapRun → CapRun) : (s.modCap i f).now = s.now := rfl
@[simp] theorem modCap_atTick (s : State) (i : Nat) (f : CapRun → CapRun) : (s.modCap i f).atTick = s.atTick := rfl
@[simp] theorem modCap_phase (s : State) (i : Nat) (f : CapRun → CapRun) : (s.modCap i f).phase = s.phase := rfl
@[simp] theorem modCap_lastCause (s : State) (i : Nat) (f : CapRun → CapRun) : (s.modCap i f).lastCause = s.lastCause := rfl
@[simp] theorem modCap_resetPin (s : State) (i : Nat) (f : CapRun → CapRun) : (s.modCap i f).resetPin = s.resetPin := rfl
@[simp] theorem modCap_heldBrown (s : State) (i : Nat) (f : CapRun → CapRun) : (s.modCap i f).heldBrown = s.heldBrown := rfl
@[simp] theorem modCap_heldHot (s : State) (i : Nat) (f : CapRun → CapRun) : (s.modCap i f).heldHot = s.heldHot := rfl
@[simp] theorem modCap_freeCtr (s : State) (i : Nat) (f : CapRun → CapRun) : (s.modCap i f).freeCtr = s.freeCtr := rfl
@[simp] theorem modCap_straps (s : State) (i : Nat) (f : CapRun → CapRun) : (s.modCap i f).straps = s.straps := rfl
@[simp] theorem modCap_fuses (s : State) (i : Nat) (f : CapRun → CapRun) : (s.modCap i f).fuses = s.fuses := rfl
@[simp] theorem modCap_boot (s : State) (i : Nat) (f : CapRun → CapRun) : (s.modCap i f).boot = s.boot := rfl
@[simp] theorem modCap_lcPending (s : State) (i : Nat) (f : CapRun → CapRun) : (s.modCap i f).lcPending = s.lcPending := rfl
@[simp] theorem modCap_wipeRun (s : State) (i : Nat) (f : CapRun → CapRun) : (s.modCap i f).wipeRun = s.wipeRun := rfl
@[simp] theorem modCap_mram (s : State) (i : Nat) (f : CapRun → CapRun) : (s.modCap i f).mram = s.mram := rfl
@[simp] theorem modCap_log (s : State) (i : Nat) (f : CapRun → CapRun) : (s.modCap i f).log = s.log := rfl
@[simp] theorem modCap_clk (s : State) (i : Nat) (f : CapRun → CapRun) : (s.modCap i f).clk = s.clk := rfl
@[simp] theorem modCap_aloRx (s : State) (i : Nat) (f : CapRun → CapRun) : (s.modCap i f).aloRx = s.aloRx := rfl
@[simp] theorem modCap_aloTx (s : State) (i : Nat) (f : CapRun → CapRun) : (s.modCap i f).aloTx = s.aloTx := rfl
@[simp] theorem modCap_flags (s : State) (i : Nat) (f : CapRun → CapRun) : (s.modCap i f).flags = s.flags := rfl
@[simp] theorem modCap_health (s : State) (i : Nat) (f : CapRun → CapRun) : (s.modCap i f).health = s.health := rfl
@[simp] theorem modCap_bus (s : State) (i : Nat) (f : CapRun → CapRun) : (s.modCap i f).bus = s.bus := rfl
@[simp] theorem modCap_tb (s : State) (i : Nat) (f : CapRun → CapRun) : (s.modCap i f).tb = s.tb := rfl
@[simp] theorem modCap_slates (s : State) (i : Nat) (f : CapRun → CapRun) : (s.modCap i f).slates = s.slates := rfl
@[simp] theorem modCap_pulses (s : State) (i : Nat) (f : CapRun → CapRun) : (s.modCap i f).pulses = s.pulses := rfl
@[simp] theorem modCap_conv (s : State) (i : Nat) (f : CapRun → CapRun) : (s.modCap i f).conv = s.conv := rfl
@[simp] theorem modCap_devMarks (s : State) (i : Nat) (f : CapRun → CapRun) : (s.modCap i f).devMarks = s.devMarks := rfl
@[simp] theorem modCap_standin (s : State) (i : Nat) (f : CapRun → CapRun) : (s.modCap i f).standin = s.standin := rfl
@[simp] theorem modCap_pass (s : State) (i : Nat) (f : CapRun → CapRun) : (s.modCap i f).pass = s.pass := rfl
@[simp] theorem modCap_fmd (s : State) (i : Nat) (f : CapRun → CapRun) : (s.modCap i f).fmd = s.fmd := rfl
@[simp] theorem modCap_amd (s : State) (i : Nat) (f : CapRun → CapRun) : (s.modCap i f).amd = s.amd := rfl
@[simp] theorem modCap_ee (s : State) (i : Nat) (f : CapRun → CapRun) : (s.modCap i f).ee = s.ee := rfl
@[simp] theorem modCap_svc (s : State) (i : Nat) (f : CapRun → CapRun) : (s.modCap i f).svc = s.svc := rfl
@[simp] theorem modCap_prog (s : State) (i : Nat) (f : CapRun → CapRun) : (s.modCap i f).prog = s.prog := rfl
@[simp] theorem modCap_inserts (s : State) (i : Nat) (f : CapRun → CapRun) : (s.modCap i f).inserts = s.inserts := rfl
@[simp] theorem modCap_port (s : State) (i : Nat) (f : CapRun → CapRun) : (s.modCap i f).port = s.port := rfl
@[simp] theorem modCap_fcar (s : State) (i : Nat) (f : CapRun → CapRun) : (s.modCap i f).fcar = s.fcar := rfl
@[simp] theorem modCap_dcar (s : State) (i : Nat) (f : CapRun → CapRun) : (s.modCap i f).dcar = s.dcar := rfl
@[simp] theorem modCap_tx (s : State) (i : Nat) (f : CapRun → CapRun) : (s.modCap i f).tx = s.tx := rfl
@[simp] theorem modCap_cue (s : State) (i : Nat) (f : CapRun → CapRun) : (s.modCap i f).cue = s.cue := rfl
@[simp] theorem modCap_cas (s : State) (i : Nat) (f : CapRun → CapRun) : (s.modCap i f).cas = s.cas := rfl
@[simp] theorem modCap_host (s : State) (i : Nat) (f : CapRun → CapRun) : (s.modCap i f).host = s.host := rfl
@[simp] theorem modCap_cal (s : State) (i : Nat) (f : CapRun → CapRun) : (s.modCap i f).cal = s.cal := rfl
@[simp] theorem modCap_tap (s : State) (i : Nat) (f : CapRun → CapRun) : (s.modCap i f).tap = s.tap := rfl
@[simp] theorem modCap_pending (s : State) (i : Nat) (f : CapRun → CapRun) : (s.modCap i f).pending = s.pending := rfl

/-! ## State.modInsert -/

@[simp] theorem modInsert_now (s : State) (i : Nat) (f : Insert → Insert) : (s.modInsert i f).now = s.now := rfl
@[simp] theorem modInsert_atTick (s : State) (i : Nat) (f : Insert → Insert) : (s.modInsert i f).atTick = s.atTick := rfl
@[simp] theorem modInsert_phase (s : State) (i : Nat) (f : Insert → Insert) : (s.modInsert i f).phase = s.phase := rfl
@[simp] theorem modInsert_lastCause (s : State) (i : Nat) (f : Insert → Insert) : (s.modInsert i f).lastCause = s.lastCause := rfl
@[simp] theorem modInsert_resetPin (s : State) (i : Nat) (f : Insert → Insert) : (s.modInsert i f).resetPin = s.resetPin := rfl
@[simp] theorem modInsert_heldBrown (s : State) (i : Nat) (f : Insert → Insert) : (s.modInsert i f).heldBrown = s.heldBrown := rfl
@[simp] theorem modInsert_heldHot (s : State) (i : Nat) (f : Insert → Insert) : (s.modInsert i f).heldHot = s.heldHot := rfl
@[simp] theorem modInsert_freeCtr (s : State) (i : Nat) (f : Insert → Insert) : (s.modInsert i f).freeCtr = s.freeCtr := rfl
@[simp] theorem modInsert_straps (s : State) (i : Nat) (f : Insert → Insert) : (s.modInsert i f).straps = s.straps := rfl
@[simp] theorem modInsert_fuses (s : State) (i : Nat) (f : Insert → Insert) : (s.modInsert i f).fuses = s.fuses := rfl
@[simp] theorem modInsert_boot (s : State) (i : Nat) (f : Insert → Insert) : (s.modInsert i f).boot = s.boot := rfl
@[simp] theorem modInsert_lcPending (s : State) (i : Nat) (f : Insert → Insert) : (s.modInsert i f).lcPending = s.lcPending := rfl
@[simp] theorem modInsert_wipeRun (s : State) (i : Nat) (f : Insert → Insert) : (s.modInsert i f).wipeRun = s.wipeRun := rfl
@[simp] theorem modInsert_mram (s : State) (i : Nat) (f : Insert → Insert) : (s.modInsert i f).mram = s.mram := rfl
@[simp] theorem modInsert_log (s : State) (i : Nat) (f : Insert → Insert) : (s.modInsert i f).log = s.log := rfl
@[simp] theorem modInsert_clk (s : State) (i : Nat) (f : Insert → Insert) : (s.modInsert i f).clk = s.clk := rfl
@[simp] theorem modInsert_aloRx (s : State) (i : Nat) (f : Insert → Insert) : (s.modInsert i f).aloRx = s.aloRx := rfl
@[simp] theorem modInsert_aloTx (s : State) (i : Nat) (f : Insert → Insert) : (s.modInsert i f).aloTx = s.aloTx := rfl
@[simp] theorem modInsert_flags (s : State) (i : Nat) (f : Insert → Insert) : (s.modInsert i f).flags = s.flags := rfl
@[simp] theorem modInsert_health (s : State) (i : Nat) (f : Insert → Insert) : (s.modInsert i f).health = s.health := rfl
@[simp] theorem modInsert_bus (s : State) (i : Nat) (f : Insert → Insert) : (s.modInsert i f).bus = s.bus := rfl
@[simp] theorem modInsert_tb (s : State) (i : Nat) (f : Insert → Insert) : (s.modInsert i f).tb = s.tb := rfl
@[simp] theorem modInsert_slates (s : State) (i : Nat) (f : Insert → Insert) : (s.modInsert i f).slates = s.slates := rfl
@[simp] theorem modInsert_pulses (s : State) (i : Nat) (f : Insert → Insert) : (s.modInsert i f).pulses = s.pulses := rfl
@[simp] theorem modInsert_conv (s : State) (i : Nat) (f : Insert → Insert) : (s.modInsert i f).conv = s.conv := rfl
@[simp] theorem modInsert_devMarks (s : State) (i : Nat) (f : Insert → Insert) : (s.modInsert i f).devMarks = s.devMarks := rfl
@[simp] theorem modInsert_standin (s : State) (i : Nat) (f : Insert → Insert) : (s.modInsert i f).standin = s.standin := rfl
@[simp] theorem modInsert_pass (s : State) (i : Nat) (f : Insert → Insert) : (s.modInsert i f).pass = s.pass := rfl
@[simp] theorem modInsert_cap (s : State) (i : Nat) (f : Insert → Insert) : (s.modInsert i f).cap = s.cap := rfl
@[simp] theorem modInsert_fmd (s : State) (i : Nat) (f : Insert → Insert) : (s.modInsert i f).fmd = s.fmd := rfl
@[simp] theorem modInsert_amd (s : State) (i : Nat) (f : Insert → Insert) : (s.modInsert i f).amd = s.amd := rfl
@[simp] theorem modInsert_ee (s : State) (i : Nat) (f : Insert → Insert) : (s.modInsert i f).ee = s.ee := rfl
@[simp] theorem modInsert_svc (s : State) (i : Nat) (f : Insert → Insert) : (s.modInsert i f).svc = s.svc := rfl
@[simp] theorem modInsert_prog (s : State) (i : Nat) (f : Insert → Insert) : (s.modInsert i f).prog = s.prog := rfl
@[simp] theorem modInsert_port (s : State) (i : Nat) (f : Insert → Insert) : (s.modInsert i f).port = s.port := rfl
@[simp] theorem modInsert_fcar (s : State) (i : Nat) (f : Insert → Insert) : (s.modInsert i f).fcar = s.fcar := rfl
@[simp] theorem modInsert_dcar (s : State) (i : Nat) (f : Insert → Insert) : (s.modInsert i f).dcar = s.dcar := rfl
@[simp] theorem modInsert_tx (s : State) (i : Nat) (f : Insert → Insert) : (s.modInsert i f).tx = s.tx := rfl
@[simp] theorem modInsert_cue (s : State) (i : Nat) (f : Insert → Insert) : (s.modInsert i f).cue = s.cue := rfl
@[simp] theorem modInsert_cas (s : State) (i : Nat) (f : Insert → Insert) : (s.modInsert i f).cas = s.cas := rfl
@[simp] theorem modInsert_host (s : State) (i : Nat) (f : Insert → Insert) : (s.modInsert i f).host = s.host := rfl
@[simp] theorem modInsert_cal (s : State) (i : Nat) (f : Insert → Insert) : (s.modInsert i f).cal = s.cal := rfl
@[simp] theorem modInsert_tap (s : State) (i : Nat) (f : Insert → Insert) : (s.modInsert i f).tap = s.tap := rfl
@[simp] theorem modInsert_pending (s : State) (i : Nat) (f : Insert → Insert) : (s.modInsert i f).pending = s.pending := rfl

/-! ## State.modPulse -/

@[simp] theorem modPulse_now (s : State) (i : Nat) (f : PulseIn → PulseIn) : (s.modPulse i f).now = s.now := rfl
@[simp] theorem modPulse_atTick (s : State) (i : Nat) (f : PulseIn → PulseIn) : (s.modPulse i f).atTick = s.atTick := rfl
@[simp] theorem modPulse_phase (s : State) (i : Nat) (f : PulseIn → PulseIn) : (s.modPulse i f).phase = s.phase := rfl
@[simp] theorem modPulse_lastCause (s : State) (i : Nat) (f : PulseIn → PulseIn) : (s.modPulse i f).lastCause = s.lastCause := rfl
@[simp] theorem modPulse_resetPin (s : State) (i : Nat) (f : PulseIn → PulseIn) : (s.modPulse i f).resetPin = s.resetPin := rfl
@[simp] theorem modPulse_heldBrown (s : State) (i : Nat) (f : PulseIn → PulseIn) : (s.modPulse i f).heldBrown = s.heldBrown := rfl
@[simp] theorem modPulse_heldHot (s : State) (i : Nat) (f : PulseIn → PulseIn) : (s.modPulse i f).heldHot = s.heldHot := rfl
@[simp] theorem modPulse_freeCtr (s : State) (i : Nat) (f : PulseIn → PulseIn) : (s.modPulse i f).freeCtr = s.freeCtr := rfl
@[simp] theorem modPulse_straps (s : State) (i : Nat) (f : PulseIn → PulseIn) : (s.modPulse i f).straps = s.straps := rfl
@[simp] theorem modPulse_fuses (s : State) (i : Nat) (f : PulseIn → PulseIn) : (s.modPulse i f).fuses = s.fuses := rfl
@[simp] theorem modPulse_boot (s : State) (i : Nat) (f : PulseIn → PulseIn) : (s.modPulse i f).boot = s.boot := rfl
@[simp] theorem modPulse_lcPending (s : State) (i : Nat) (f : PulseIn → PulseIn) : (s.modPulse i f).lcPending = s.lcPending := rfl
@[simp] theorem modPulse_wipeRun (s : State) (i : Nat) (f : PulseIn → PulseIn) : (s.modPulse i f).wipeRun = s.wipeRun := rfl
@[simp] theorem modPulse_mram (s : State) (i : Nat) (f : PulseIn → PulseIn) : (s.modPulse i f).mram = s.mram := rfl
@[simp] theorem modPulse_log (s : State) (i : Nat) (f : PulseIn → PulseIn) : (s.modPulse i f).log = s.log := rfl
@[simp] theorem modPulse_clk (s : State) (i : Nat) (f : PulseIn → PulseIn) : (s.modPulse i f).clk = s.clk := rfl
@[simp] theorem modPulse_aloRx (s : State) (i : Nat) (f : PulseIn → PulseIn) : (s.modPulse i f).aloRx = s.aloRx := rfl
@[simp] theorem modPulse_aloTx (s : State) (i : Nat) (f : PulseIn → PulseIn) : (s.modPulse i f).aloTx = s.aloTx := rfl
@[simp] theorem modPulse_flags (s : State) (i : Nat) (f : PulseIn → PulseIn) : (s.modPulse i f).flags = s.flags := rfl
@[simp] theorem modPulse_health (s : State) (i : Nat) (f : PulseIn → PulseIn) : (s.modPulse i f).health = s.health := rfl
@[simp] theorem modPulse_bus (s : State) (i : Nat) (f : PulseIn → PulseIn) : (s.modPulse i f).bus = s.bus := rfl
@[simp] theorem modPulse_tb (s : State) (i : Nat) (f : PulseIn → PulseIn) : (s.modPulse i f).tb = s.tb := rfl
@[simp] theorem modPulse_slates (s : State) (i : Nat) (f : PulseIn → PulseIn) : (s.modPulse i f).slates = s.slates := rfl
@[simp] theorem modPulse_conv (s : State) (i : Nat) (f : PulseIn → PulseIn) : (s.modPulse i f).conv = s.conv := rfl
@[simp] theorem modPulse_devMarks (s : State) (i : Nat) (f : PulseIn → PulseIn) : (s.modPulse i f).devMarks = s.devMarks := rfl
@[simp] theorem modPulse_standin (s : State) (i : Nat) (f : PulseIn → PulseIn) : (s.modPulse i f).standin = s.standin := rfl
@[simp] theorem modPulse_pass (s : State) (i : Nat) (f : PulseIn → PulseIn) : (s.modPulse i f).pass = s.pass := rfl
@[simp] theorem modPulse_cap (s : State) (i : Nat) (f : PulseIn → PulseIn) : (s.modPulse i f).cap = s.cap := rfl
@[simp] theorem modPulse_fmd (s : State) (i : Nat) (f : PulseIn → PulseIn) : (s.modPulse i f).fmd = s.fmd := rfl
@[simp] theorem modPulse_amd (s : State) (i : Nat) (f : PulseIn → PulseIn) : (s.modPulse i f).amd = s.amd := rfl
@[simp] theorem modPulse_ee (s : State) (i : Nat) (f : PulseIn → PulseIn) : (s.modPulse i f).ee = s.ee := rfl
@[simp] theorem modPulse_svc (s : State) (i : Nat) (f : PulseIn → PulseIn) : (s.modPulse i f).svc = s.svc := rfl
@[simp] theorem modPulse_prog (s : State) (i : Nat) (f : PulseIn → PulseIn) : (s.modPulse i f).prog = s.prog := rfl
@[simp] theorem modPulse_inserts (s : State) (i : Nat) (f : PulseIn → PulseIn) : (s.modPulse i f).inserts = s.inserts := rfl
@[simp] theorem modPulse_port (s : State) (i : Nat) (f : PulseIn → PulseIn) : (s.modPulse i f).port = s.port := rfl
@[simp] theorem modPulse_fcar (s : State) (i : Nat) (f : PulseIn → PulseIn) : (s.modPulse i f).fcar = s.fcar := rfl
@[simp] theorem modPulse_dcar (s : State) (i : Nat) (f : PulseIn → PulseIn) : (s.modPulse i f).dcar = s.dcar := rfl
@[simp] theorem modPulse_tx (s : State) (i : Nat) (f : PulseIn → PulseIn) : (s.modPulse i f).tx = s.tx := rfl
@[simp] theorem modPulse_cue (s : State) (i : Nat) (f : PulseIn → PulseIn) : (s.modPulse i f).cue = s.cue := rfl
@[simp] theorem modPulse_cas (s : State) (i : Nat) (f : PulseIn → PulseIn) : (s.modPulse i f).cas = s.cas := rfl
@[simp] theorem modPulse_host (s : State) (i : Nat) (f : PulseIn → PulseIn) : (s.modPulse i f).host = s.host := rfl
@[simp] theorem modPulse_cal (s : State) (i : Nat) (f : PulseIn → PulseIn) : (s.modPulse i f).cal = s.cal := rfl
@[simp] theorem modPulse_tap (s : State) (i : Nat) (f : PulseIn → PulseIn) : (s.modPulse i f).tap = s.tap := rfl
@[simp] theorem modPulse_pending (s : State) (i : Nat) (f : PulseIn → PulseIn) : (s.modPulse i f).pending = s.pending := rfl

end Sys2Proof.Laws
end

