-- ==== Sys2Proof/Laws/Exec.lean ====
section
/-! SUPPORT. How each meaning ends: what the end of a command restores, said once for each command. -/
namespace Sys2Proof.Laws
open Sys2Proof Sys2Proof.Machine

/-- Both branches of a choice end a command in one way. -/
theorem ite_ends {f : State → State → Out} {s : State} {p : Prop} [Decidable p] {a b : Out} (ha : ∃ e, a = f s e) (hb : ∃ e, b = f s e) :
    ∃ e, (if p then a else b) = f s e := by split <;> assumption

theorem execPorstNAssert_ends (ns : Nat) (s : State) : ∃ end_, execPorstNAssert ns s = doneSys s end_ := by
  unfold execPorstNAssert
  try dsimp only
  repeat' (first | with_reducible exact ⟨_, rfl⟩ | refine ite_ends ?_ ?_ | split)
theorem execWrstNAssert_ends (ns : Nat) (s : State) : ∃ end_, execWrstNAssert ns s = doneSys s end_ := by
  unfold execWrstNAssert
  try dsimp only
  repeat' (first | with_reducible exact ⟨_, rfl⟩ | refine ite_ends ?_ ?_ | split)
theorem execResetRelease_ends (r : ReleaseIn) (s : State) : ∃ end_, execResetRelease r s = doneSys s end_ := by
  unfold execResetRelease
  with_reducible exact ⟨_, rfl⟩
theorem execBrownOut_ends (supply mv : Nat) (s : State) : ∃ end_, execBrownOut supply mv s = doneSys s end_ := by
  unfold execBrownOut
  try dsimp only
  repeat' (first | with_reducible exact ⟨_, rfl⟩ | refine ite_ends ?_ ?_ | split)
theorem execBrownOutEnd_ends (volts : List Nat) (ns : Nat) (porstLow : Bool) (r : ReleaseIn) (s : State) : ∃ end_, execBrownOutEnd volts ns porstLow r s = doneSys s end_ := by
  unfold execBrownOutEnd
  try dsimp only
  repeat' (first | with_reducible exact ⟨_, rfl⟩ | refine ite_ends ?_ ?_ | split)
theorem execThermalTrip_ends (_sensor : Nat) (reading : Int) (s : State) : ∃ end_, execThermalTrip _sensor reading s = doneSys s end_ := by
  unfold execThermalTrip
  try dsimp only
  repeat' (first | with_reducible exact ⟨_, rfl⟩ | refine ite_ends ?_ ?_ | split)
theorem execThermalTripEnd_ends (temps : List Int) (r : ReleaseIn) (s : State) : ∃ end_, execThermalTripEnd temps r s = doneSys s end_ := by
  unfold execThermalTripEnd
  try dsimp only
  repeat' (first | with_reducible exact ⟨_, rfl⟩ | refine ite_ends ?_ ?_ | split)
theorem execOutputRelease_ends (bad : List BadWord) (s : State) : ∃ end_, execOutputRelease bad s = done s end_ := by
  unfold execOutputRelease
  try dsimp only
  repeat' (first | with_reducible exact ⟨_, rfl⟩ | refine ite_ends ?_ ?_ | split)
theorem execRefQualified_ends (t cycles : Nat) (phase : Int) (s : State) : ∃ end_, execRefQualified t cycles phase s = done s end_ := by
  unfold execRefQualified
  try dsimp only
  repeat' (first | with_reducible exact ⟨_, rfl⟩ | refine ite_ends ?_ ?_ | split)
theorem execRefLoss_ends (t missing period : Nat) (ctlBefore : BitVec 20) (s : State) : ∃ end_, execRefLoss t missing period ctlBefore s = done s end_ := by
  unfold execRefLoss
  try dsimp only
  repeat' (first | with_reducible exact ⟨_, rfl⟩ | refine ite_ends ?_ ?_ | split)
theorem execRefFreqWindowEnd_ends (t : Nat) (avg : Int) (ctlBefore : BitVec 20) (s : State) : ∃ end_, execRefFreqWindowEnd t avg ctlBefore s = done s end_ := by
  unfold execRefFreqWindowEnd
  try dsimp only
  repeat' (first | with_reducible exact ⟨_, rfl⟩ | refine ite_ends ?_ ?_ | split)
theorem execRootLockDeclared_ends (t : Nat) (m : LockMeas) (s : State) : ∃ end_, execRootLockDeclared t m s = done s end_ := by
  unfold execRootLockDeclared
  try dsimp only
  repeat' (first | with_reducible exact ⟨_, rfl⟩ | refine ite_ends ?_ ?_ | split)
theorem execRootUnlock_ends (t : Nat) (m : LockMeas) (ctlBefore : BitVec 20) (s : State) : ∃ end_, execRootUnlock t m ctlBefore s = done s end_ := by
  unfold execRootUnlock
  try dsimp only
  repeat' (first | with_reducible exact ⟨_, rfl⟩ | refine ite_ends ?_ ?_ | split)
theorem execRefWaitExpiry_ends (waited : Nat) (tj : Int) (s : State) : ∃ end_, execRefWaitExpiry waited tj s = done s end_ := by
  unfold execRefWaitExpiry
  try dsimp only
  repeat' (first | with_reducible exact ⟨_, rfl⟩ | refine ite_ends ?_ ?_ | split)
theorem execLockDisagree_ends (t : Nat) (lkf win : Bool) (s : State) : ∃ end_, execLockDisagree t lkf win s = done s end_ := by
  unfold execLockDisagree
  try dsimp only
  repeat' (first | with_reducible exact ⟨_, rfl⟩ | refine ite_ends ?_ ?_ | split)
theorem execManagementTick_ends (i : TickIn) (s : State) : ∃ end_, execManagementTick i s = done s end_ := by
  unfold execManagementTick
  try dsimp only
  repeat' (first | with_reducible exact ⟨_, rfl⟩ | refine ite_ends ?_ ?_ | split)
theorem execWakeRequest_ends (t : Nat) (_src : WakeSource) (s : State) : ∃ end_, execWakeRequest t _src s = done s end_ := by
  unfold execWakeRequest
  with_reducible exact ⟨_, rfl⟩
theorem execWakeTimer_ends (s : State) : ∃ end_, execWakeTimer s = done s end_ := by
  unfold execWakeTimer
  try dsimp only
  repeat' (first | with_reducible exact ⟨_, rfl⟩ | refine ite_ends ?_ ?_ | split)
theorem execDoorbellWrite_ends (t ring : Nat) (value : Word32) (entries : List (List Byte)) (s : State) : ∃ end_, execDoorbellWrite t ring value entries s = done s end_ := by
  unfold execDoorbellWrite
  with_reducible exact ⟨_, rfl⟩
theorem execAloLock_ends (t alo band fine : Nat) (m : LockMeas) (s : State) : ∃ end_, execAloLock t alo band fine m s = done s end_ := by
  unfold execAloLock
  try dsimp only
  repeat' (first | with_reducible exact ⟨_, rfl⟩ | refine ite_ends ?_ ?_ | split)
theorem execAloSearchFail_ends (t alo : Nat) (s : State) : ∃ end_, execAloSearchFail t alo s = done s end_ := by
  unfold execAloSearchFail
  try dsimp only
  repeat' (first | with_reducible exact ⟨_, rfl⟩ | refine ite_ends ?_ ?_ | split)
theorem execAloUnlock_ends (t alo : Nat) (m : LockMeas) (s : State) : ∃ end_, execAloUnlock t alo m s = done s end_ := by
  unfold execAloUnlock
  try dsimp only
  repeat' (first | with_reducible exact ⟨_, rfl⟩ | refine ite_ends ?_ ?_ | split)
theorem execRampSegmentEnd_ends (t : Nat) (s : State) : ∃ end_, execRampSegmentEnd t s = done s end_ := by
  unfold execRampSegmentEnd
  try dsimp only
  repeat' (first | with_reducible exact ⟨_, rfl⟩ | refine ite_ends ?_ ?_ | split)
theorem execAgcAttack_ends (t x peak : Nat) (clip : Bool) (s : State) : ∃ end_, execAgcAttack t x peak clip s = done s end_ := by
  unfold execAgcAttack
  try dsimp only
  repeat' (first | with_reducible exact ⟨_, rfl⟩ | refine ite_ends ?_ ?_ | split)
theorem execAgcRelease_ends (t x peak : Nat) (s : State) : ∃ end_, execAgcRelease t x peak s = done s end_ := by
  unfold execAgcRelease
  try dsimp only
  repeat' (first | with_reducible exact ⟨_, rfl⟩ | refine ite_ends ?_ ?_ | split)
theorem execGainStep_ends (x : Nat) (s : State) : ∃ end_, execGainStep x s = done s end_ := by
  unfold execGainStep
  try dsimp only
  repeat' (first | with_reducible exact ⟨_, rfl⟩ | refine ite_ends ?_ ?_ | split)
theorem execPselBlankEnd_ends (x : Nat) (s : State) : ∃ end_, execPselBlankEnd x s = done s end_ := by
  unfold execPselBlankEnd
  try dsimp only
  repeat' (first | with_reducible exact ⟨_, rfl⟩ | refine ite_ends ?_ ?_ | split)
theorem execMatchWindowOpen_ends (s : State) : ∃ end_, execMatchWindowOpen s = done s end_ := by
  unfold execMatchWindowOpen
  try dsimp only
  repeat' (first | with_reducible exact ⟨_, rfl⟩ | refine ite_ends ?_ ?_ | split)
theorem execMatchWindowClose_ends (gain delay offset : Int) (s : State) : ∃ end_, execMatchWindowClose gain delay offset s = done s end_ := by
  unfold execMatchWindowClose
  try dsimp only
  repeat' (first | with_reducible exact ⟨_, rfl⟩ | refine ite_ends ?_ ?_ | split)
theorem execStandinCheck_ends (gain delay offset : Int) (s : State) : ∃ end_, execStandinCheck gain delay offset s = done s end_ := by
  unfold execStandinCheck
  try dsimp only
  repeat' (first | with_reducible exact ⟨_, rfl⟩ | refine ite_ends ?_ ?_ | split)
theorem execStandinVisit_ends (t : Nat) (s : State) : ∃ end_, execStandinVisit t s = done s end_ := by
  unfold execStandinVisit
  try dsimp only
  repeat' (first | with_reducible exact ⟨_, rfl⟩ | refine ite_ends ?_ ?_ | split)
theorem execConvFail_ends (t c k : Nat) (cause : FailCause) (s : State) : ∃ end_, execConvFail t c k cause s = done s end_ := by
  unfold execConvFail
  try dsimp only
  repeat' (first | with_reducible exact ⟨_, rfl⟩ | refine ite_ends ?_ ?_ | split)
theorem execCrossbarMove_ends (s : State) : ∃ end_, execCrossbarMove s = done s end_ := by
  unfold execCrossbarMove
  try dsimp only
  repeat' (first | with_reducible exact ⟨_, rfl⟩ | refine ite_ends ?_ ?_ | split)
theorem execFailoverSwitch_ends (s : State) : ∃ end_, execFailoverSwitch s = done s end_ := by
  unfold execFailoverSwitch
  try dsimp only
  repeat' (first | with_reducible exact ⟨_, rfl⟩ | refine ite_ends ?_ ?_ | split)
theorem execAgcLimitEpisodeEnd_ends (t x peak : Nat) (s : State) : ∃ end_, execAgcLimitEpisodeEnd t x peak s = done s end_ := by
  unfold execAgcLimitEpisodeEnd
  try dsimp only
  repeat' (first | with_reducible exact ⟨_, rfl⟩ | refine ite_ends ?_ ?_ | split)
theorem execPassBlock_ends (f p : Nat) (i : PassIn) (s : State) : ∃ end_, execPassBlock f p i s = done s end_ := by
  unfold execPassBlock
  try dsimp only
  repeat' (first | with_reducible exact ⟨_, rfl⟩ | refine ite_ends ?_ ?_ | split)
theorem execSettleGateOpen_ends (p : Nat) (s : State) : ∃ end_, execSettleGateOpen p s = done s end_ := by
  unfold execSettleGateOpen
  try dsimp only
  repeat' (first | with_reducible exact ⟨_, rfl⟩ | refine ite_ends ?_ ?_ | split)
theorem execCapCountEnd_ends (c : Nat) (s : State) : ∃ end_, execCapCountEnd c s = done s end_ := by
  unfold execCapCountEnd
  try dsimp only
  repeat' (first | with_reducible exact ⟨_, rfl⟩ | refine ite_ends ?_ ?_ | split)
theorem execDemodBlock_ends (f : Nat) (am : Bool) (d : Nat) (i : DemodIn) (s : State) : ∃ end_, execDemodBlock f am d i s = done s end_ := by
  unfold execDemodBlock
  try dsimp only
  repeat' (first | with_reducible exact ⟨_, rfl⟩ | refine ite_ends ?_ ?_ | split)
theorem execFmdGateOpen_ends (d : Nat) (s : State) : ∃ end_, execFmdGateOpen d s = done s end_ := by
  unfold execFmdGateOpen
  try dsimp only
  repeat' (first | with_reducible exact ⟨_, rfl⟩ | refine ite_ends ?_ ?_ | split)
theorem execFmdConcealLimit_ends (t d : Nat) (s : State) : ∃ end_, execFmdConcealLimit t d s = done s end_ := by
  unfold execFmdConcealLimit
  try dsimp only
  repeat' (first | with_reducible exact ⟨_, rfl⟩ | refine ite_ends ?_ ?_ | split)
theorem execAmdConcealLimit_ends (t d : Nat) (s : State) : ∃ end_, execAmdConcealLimit t d s = done s end_ := by
  unfold execAmdConcealLimit
  try dsimp only
  repeat' (first | with_reducible exact ⟨_, rfl⟩ | refine ite_ends ?_ ?_ | split)
theorem execPilotWindowEnd_ends (f d dev rms : Nat) (s : State) : ∃ end_, execPilotWindowEnd f d dev rms s = done s end_ := by
  unfold execPilotWindowEnd
  try dsimp only
  repeat' (first | with_reducible exact ⟨_, rfl⟩ | refine ite_ends ?_ ?_ | split)
theorem execRdsSync_ends (t d : Nat) (words : Option (BitVec 26 × BitVec 26)) (s : State) : ∃ end_, execRdsSync t d words s = done s end_ := by
  unfold execRdsSync
  try dsimp only
  repeat' (first | with_reducible exact ⟨_, rfl⟩ | refine ite_ends ?_ ?_ | split)
theorem execRdsLoss_ends (t d : Nat) (loop : Bool) (s : State) : ∃ end_, execRdsLoss t d loop s = done s end_ := by
  unfold execRdsLoss
  try dsimp only
  repeat' (first | with_reducible exact ⟨_, rfl⟩ | refine ite_ends ?_ ?_ | split)
theorem execRdsGroup_ends (t d : Nat) (g : RdsGroupIn) (s : State) : ∃ end_, execRdsGroup t d g s = done s end_ := by
  unfold execRdsGroup
  with_reducible exact ⟨_, rfl⟩
theorem execCarrierWindowEnd_ends (f d rms : Nat) (offset : Int) (s : State) : ∃ end_, execCarrierWindowEnd f d rms offset s = done s end_ := by
  unfold execCarrierWindowEnd
  try dsimp only
  repeat' (first | with_reducible exact ⟨_, rfl⟩ | refine ite_ends ?_ ?_ | split)
theorem execAmssBlock_ends (t d : Nat) (b : AmssIn) (s : State) : ∃ end_, execAmssBlock t d b s = done s end_ := by
  unfold execAmssBlock
  try dsimp only
  repeat' (first | with_reducible exact ⟨_, rfl⟩ | refine ite_ends ?_ ?_ | split)
theorem execNullCandidate_ends (t e c : Nat) (s : State) : ∃ end_, execNullCandidate t e c s = done s end_ := by
  unfold execNullCandidate
  try dsimp only
  repeat' (first | with_reducible exact ⟨_, rfl⟩ | refine ite_ends ?_ ?_ | split)
theorem execPrsTest_ends (t e c : Nat) (second : Bool) (s : State) : ∃ end_, execPrsTest t e c second s = done s end_ := by
  unfold execPrsTest
  try dsimp only
  repeat' (first | with_reducible exact ⟨_, rfl⟩ | refine ite_ends ?_ ?_ | split)
theorem execFibRecord_ends (t e : Nat) (facts : List (Nat × Fact)) (s : State) : ∃ end_, execFibRecord t e facts s = done s end_ := by
  unfold execFibRecord
  try dsimp only
  repeat' (first | with_reducible exact ⟨_, rfl⟩ | refine ite_ends ?_ ?_ | split)
theorem execLogicalFrame_ends (t e c : Nat) (audio : List ProgAudio) (s : State) : ∃ end_, execLogicalFrame t e c audio s = done s end_ := by
  unfold execLogicalFrame
  try dsimp only
  repeat' (first | with_reducible exact ⟨_, rfl⟩ | refine ite_ends ?_ ?_ | split)
theorem execEeLoss_ends (t e c : Nat) (s : State) : ∃ end_, execEeLoss t e c s = done s end_ := by
  unfold execEeLoss
  try dsimp only
  repeat' (first | with_reducible exact ⟨_, rfl⟩ | refine ite_ends ?_ ?_ | split)
theorem execTii_ends (t e : Nat) (s : State) : ∃ end_, execTii t e s = done s end_ := by
  unfold execTii
  try dsimp only
  repeat' (first | with_reducible exact ⟨_, rfl⟩ | refine ite_ends ?_ ?_ | split)
theorem execEeRelock_ends (t e c : Nat) (s : State) : ∃ end_, execEeRelock t e c s = done s end_ := by
  unfold execEeRelock
  try dsimp only
  repeat' (first | with_reducible exact ⟨_, rfl⟩ | refine ite_ends ?_ ?_ | split)
theorem execDrmModeDetect_ends (t e c : Nat) (s : State) : ∃ end_, execDrmModeDetect t e c s = done s end_ := by
  unfold execDrmModeDetect
  try dsimp only
  repeat' (first | with_reducible exact ⟨_, rfl⟩ | refine ite_ends ?_ ?_ | split)
theorem execFacRecord_ends (t e c : Nat) (f : FacIn) (s : State) : ∃ end_, execFacRecord t e c f s = done s end_ := by
  unfold execFacRecord
  try dsimp only
  repeat' (first | with_reducible exact ⟨_, rfl⟩ | refine ite_ends ?_ ?_ | split)
theorem execSdcRecord_ends (t e c : Nat) (d : SdcIn) (s : State) : ∃ end_, execSdcRecord t e c d s = done s end_ := by
  unfold execSdcRecord
  try dsimp only
  repeat' (first | with_reducible exact ⟨_, rfl⟩ | refine ite_ends ?_ ?_ | split)
theorem execReconfiguration_ends (t e : Nat) (s : State) : ∃ end_, execReconfiguration t e s = done s end_ := by
  unfold execReconfiguration
  try dsimp only
  repeat' (first | with_reducible exact ⟨_, rfl⟩ | refine ite_ends ?_ ?_ | split)
theorem execOffsetRangeLoss_ends (t e c : Nat) (s : State) : ∃ end_, execOffsetRangeLoss t e c s = done s end_ := by
  unfold execOffsetRangeLoss
  try dsimp only
  repeat' (first | with_reducible exact ⟨_, rfl⟩ | refine ite_ends ?_ ?_ | split)
theorem execSideDump_ends (t ring : Nat) (source : Id) (s : State) : ∃ end_, execSideDump t ring source s = done s end_ := by
  unfold execSideDump
  try dsimp only
  repeat' (first | with_reducible exact ⟨_, rfl⟩ | refine ite_ends ?_ ?_ | split)
theorem execEntryStale_ends (t : Nat) (origin : Id) (chan : Nat) (s : State) : ∃ end_, execEntryStale t origin chan s = done s end_ := by
  unfold execEntryStale
  with_reducible exact ⟨_, rfl⟩
theorem execEntryRemoved_ends (t : Nat) (origin : Id) (chan : Nat) (s : State) : ∃ end_, execEntryRemoved t origin chan s = done s end_ := by
  unfold execEntryRemoved
  with_reducible exact ⟨_, rfl⟩
theorem execAnnounceTimeout_ends (t : Nat) (origin : Id) (chan cluster : Nat) (s : State) : ∃ end_, execAnnounceTimeout t origin chan cluster s = done s end_ := by
  unfold execAnnounceTimeout
  with_reducible exact ⟨_, rfl⟩
theorem execFollowProbeStart_ends (t p k : Nat) (s : State) : ∃ end_, execFollowProbeStart t p k s = done s end_ := by
  unfold execFollowProbeStart
  try dsimp only
  repeat' (first | with_reducible exact ⟨_, rfl⟩ | refine ite_ends ?_ ?_ | split)
theorem execProbeEnd_ends (t p k : Nat) (s : State) : ∃ end_, execProbeEnd t p k s = done s end_ := by
  unfold execProbeEnd
  try dsimp only
  repeat' (first | with_reducible exact ⟨_, rfl⟩ | refine ite_ends ?_ ?_ | split)
theorem execCoarseMeasure_ends (t p k : Nat) (s : State) : ∃ end_, execCoarseMeasure t p k s = done s end_ := by
  unfold execCoarseMeasure
  try dsimp only
  repeat' (first | with_reducible exact ⟨_, rfl⟩ | refine ite_ends ?_ ?_ | split)
theorem execAlignTimeout_ends (t p k : Nat) (s : State) : ∃ end_, execAlignTimeout t p k s = done s end_ := by
  unfold execAlignTimeout
  try dsimp only
  repeat' (first | with_reducible exact ⟨_, rfl⟩ | refine ite_ends ?_ ?_ | split)
theorem execPoolFilled_ends (t p : Nat) (s : State) : ∃ end_, execPoolFilled t p s = done s end_ := by
  unfold execPoolFilled
  try dsimp only
  repeat' (first | with_reducible exact ⟨_, rfl⟩ | refine ite_ends ?_ ?_ | split)
theorem execCrossfadeStart_ends (p : Nat) (s : State) : ∃ end_, execCrossfadeStart p s = done s end_ := by
  unfold execCrossfadeStart
  try dsimp only
  repeat' (first | with_reducible exact ⟨_, rfl⟩ | refine ite_ends ?_ ?_ | split)
theorem execCrossfadeEnd_ends (p : Nat) (s : State) : ∃ end_, execCrossfadeEnd p s = done s end_ := by
  unfold execCrossfadeEnd
  try dsimp only
  repeat' (first | with_reducible exact ⟨_, rfl⟩ | refine ite_ends ?_ ?_ | split)
theorem execOffsetRetentionEnd_ends (p : Nat) (s : State) : ∃ end_, execOffsetRetentionEnd p s = done s end_ := by
  unfold execOffsetRetentionEnd
  try dsimp only
  repeat' (first | with_reducible exact ⟨_, rfl⟩ | refine ite_ends ?_ ?_ | split)
theorem execInsertOn_ends (i : Nat) (s : State) : ∃ end_, execInsertOn i s = done s end_ := by
  unfold execInsertOn
  try dsimp only
  repeat' (first | with_reducible exact ⟨_, rfl⟩ | refine ite_ends ?_ ?_ | split)
theorem execInsertCrossfadeEnd_ends (i : Nat) (s : State) : ∃ end_, execInsertCrossfadeEnd i s = done s end_ := by
  unfold execInsertCrossfadeEnd
  try dsimp only
  repeat' (first | with_reducible exact ⟨_, rfl⟩ | refine ite_ends ?_ ?_ | split)
theorem execInsertOff_ends (i : Nat) (s : State) : ∃ end_, execInsertOff i s = done s end_ := by
  unfold execInsertOff
  try dsimp only
  repeat' (first | with_reducible exact ⟨_, rfl⟩ | refine ite_ends ?_ ?_ | split)
theorem execInsertUnderrun_ends (t i : Nat) (s : State) : ∃ end_, execInsertUnderrun t i s = done s end_ := by
  unfold execInsertUnderrun
  with_reducible exact ⟨_, rfl⟩
theorem execInsertLossTimeout_ends (i : Nat) (s : State) : ∃ end_, execInsertLossTimeout i s = done s end_ := by
  unfold execInsertLossTimeout
  with_reducible exact ⟨_, rfl⟩
theorem execPortFrame_ends (t p : Nat) (i : PortIn) (s : State) : ∃ end_, execPortFrame t p i s = done s end_ := by
  unfold execPortFrame
  try dsimp only
  repeat' (first | with_reducible exact ⟨_, rfl⟩ | refine ite_ends ?_ ?_ | split)
theorem execPortSync_ends (t p spacing back : Nat) (s : State) : ∃ end_, execPortSync t p spacing back s = done s end_ := by
  unfold execPortSync
  try dsimp only
  repeat' (first | with_reducible exact ⟨_, rfl⟩ | refine ite_ends ?_ ?_ | split)
theorem execClockLost_ends (t p : Nat) (bclk : Bool) (periods : Nat) (s : State) : ∃ end_, execClockLost t p bclk periods s = done s end_ := by
  unfold execClockLost
  try dsimp only
  repeat' (first | with_reducible exact ⟨_, rfl⟩ | refine ite_ends ?_ ?_ | split)
theorem execPortClockReturn_ends (t p : Nat) (s : State) : ∃ end_, execPortClockReturn t p s = done s end_ := by
  unfold execPortClockReturn
  try dsimp only
  repeat' (first | with_reducible exact ⟨_, rfl⟩ | refine ite_ends ?_ ?_ | split)
theorem execPortRateOk_ends (t p : Nat) (s : State) : ∃ end_, execPortRateOk t p s = done s end_ := by
  unfold execPortRateOk
  try dsimp only
  repeat' (first | with_reducible exact ⟨_, rfl⟩ | refine ite_ends ?_ ?_ | split)
theorem execFsError_ends (t p spacing : Nat) (s : State) : ∃ end_, execFsError t p spacing s = done s end_ := by
  unfold execFsError
  try dsimp only
  repeat' (first | with_reducible exact ⟨_, rfl⟩ | refine ite_ends ?_ ?_ | split)
theorem execCarrierStart_ends (d : Bool) (c : Nat) (s : State) : ∃ end_, execCarrierStart d c s = done s end_ := by
  unfold execCarrierStart
  try dsimp only
  repeat' (first | with_reducible exact ⟨_, rfl⟩ | refine ite_ends ?_ ?_ | split)
theorem execLoWaitExpiry_ends (d : Bool) (c : Nat) (s : State) : ∃ end_, execLoWaitExpiry d c s = done s end_ := by
  unfold execLoWaitExpiry
  try dsimp only
  repeat' (first | with_reducible exact ⟨_, rfl⟩ | refine ite_ends ?_ ?_ | split)
theorem execCarrierResume_ends (d : Bool) (c : Nat) (s : State) : ∃ end_, execCarrierResume d c s = done s end_ := by
  unfold execCarrierResume
  try dsimp only
  repeat' (first | with_reducible exact ⟨_, rfl⟩ | refine ite_ends ?_ ?_ | split)
theorem execRdsSlot_ends (t c : Nat) (s : State) : ∃ end_, execRdsSlot t c s = done s end_ := by
  unfold execRdsSlot
  try dsimp only
  repeat' (first | with_reducible exact ⟨_, rfl⟩ | refine ite_ends ?_ ?_ | split)
theorem execDcarFrame_ends (t c : Nat) (s : State) : ∃ end_, execDcarFrame t c s = done s end_ := by
  unfold execDcarFrame
  try dsimp only
  repeat' (first | with_reducible exact ⟨_, rfl⟩ | refine ite_ends ?_ ?_ | split)
theorem execLevelOut_ends (t : Nat) (d : Bool) (c : Nat) (s : State) : ∃ end_, execLevelOut t d c s = done s end_ := by
  unfold execLevelOut
  try dsimp only
  repeat' (first | with_reducible exact ⟨_, rfl⟩ | refine ite_ends ?_ ?_ | split)
theorem execTxcalInService_ends (t nulls : Nat) (m : CalMeas) (s : State) : ∃ end_, execTxcalInService t nulls m s = done s end_ := by
  unfold execTxcalInService
  try dsimp only
  repeat' (first | with_reducible exact ⟨_, rfl⟩ | refine ite_ends ?_ ?_ | split)
theorem execTxcalFullEnd_ends (t : Nat) (m : CalMeas) (s : State) : ∃ end_, execTxcalFullEnd t m s = done s end_ := by
  unfold execTxcalFullEnd
  try dsimp only
  repeat' (first | with_reducible exact ⟨_, rfl⟩ | refine ite_ends ?_ ?_ | split)
theorem execPaEnRise_ends (s : State) : ∃ end_, execPaEnRise s = done s end_ := by
  unfold execPaEnRise
  try dsimp only
  repeat' (first | with_reducible exact ⟨_, rfl⟩ | refine ite_ends ?_ ?_ | split)
theorem execPaEnFall_ends (s : State) : ∃ end_, execPaEnFall s = done s end_ := by
  unfold execPaEnFall
  try dsimp only
  repeat' (first | with_reducible exact ⟨_, rfl⟩ | refine ite_ends ?_ ?_ | split)
theorem execYt7300Ramp_ends (t : Nat) (up : Bool) (s : State) : ∃ end_, execYt7300Ramp t up s = done s end_ := by
  unfold execYt7300Ramp
  try dsimp only
  repeat' (first | with_reducible exact ⟨_, rfl⟩ | refine ite_ends ?_ ?_ | split)
theorem execCxGrant_ends (t : Nat) (s : State) : ∃ end_, execCxGrant t s = done s end_ := by
  unfold execCxGrant
  with_reducible exact ⟨_, rfl⟩
theorem execCxWaitExpiry_ends (t : Nat) (s : State) : ∃ end_, execCxWaitExpiry t s = done s end_ := by
  unfold execCxWaitExpiry
  with_reducible exact ⟨_, rfl⟩
theorem execCxGntFall_ends (t : Nat) (s : State) : ∃ end_, execCxGntFall t s = done s end_ := by
  unfold execCxGntFall
  with_reducible exact ⟨_, rfl⟩
theorem execSweepPoint_ends (t : Nat) (i : SweepIn) (s : State) : ∃ end_, execSweepPoint t i s = done s end_ := by
  unfold execSweepPoint
  try dsimp only
  repeat' (first | with_reducible exact ⟨_, rfl⟩ | refine ite_ends ?_ ?_ | split)
theorem execTbSlewDone_ends (s : State) : ∃ end_, execTbSlewDone s = done s end_ := by
  unfold execTbSlewDone
  try dsimp only
  repeat' (first | with_reducible exact ⟨_, rfl⟩ | refine ite_ends ?_ ?_ | split)
theorem execPtmDialogStart_ends (t : Nat) (s : State) : ∃ end_, execPtmDialogStart t s = done s end_ := by
  unfold execPtmDialogStart
  try dsimp only
  repeat' (first | with_reducible exact ⟨_, rfl⟩ | refine ite_ends ?_ ?_ | split)
theorem execPtmResponse_ends (t : Nat) (master : Word64) (prop : Word32) (s : State) : ∃ end_, execPtmResponse t master prop s = done s end_ := by
  unfold execPtmResponse
  try dsimp only
  repeat' (first | with_reducible exact ⟨_, rfl⟩ | refine ite_ends ?_ ?_ | split)
theorem execPtmTimeout_ends (t : Nat) (s : State) : ∃ end_, execPtmTimeout t s = done s end_ := by
  unfold execPtmTimeout
  try dsimp only
  repeat' (first | with_reducible exact ⟨_, rfl⟩ | refine ite_ends ?_ ?_ | split)
theorem execPulseEdge_ends (t sub input : Nat) (falling : Bool) (s : State) : ∃ end_, execPulseEdge t sub input falling s = done s end_ := by
  unfold execPulseEdge
  try dsimp only
  repeat' (first | with_reducible exact ⟨_, rfl⟩ | refine ite_ends ?_ ?_ | split)
theorem execHandshakeEnd_ends (input : Nat) (s : State) : ∃ end_, execHandshakeEnd input s = done s end_ := by
  unfold execHandshakeEnd
  try dsimp only
  repeat' (first | with_reducible exact ⟨_, rfl⟩ | refine ite_ends ?_ ?_ | split)
theorem execPpsMissing_ends (t : Nat) (s : State) : ∃ end_, execPpsMissing t s = done s end_ := by
  unfold execPpsMissing
  try dsimp only
  repeat' (first | with_reducible exact ⟨_, rfl⟩ | refine ite_ends ?_ ?_ | split)
theorem execCue_ends (n : Nat) (s : State) : ∃ end_, execCue n s = done s end_ := by
  unfold execCue
  try dsimp only
  repeat' (first | with_reducible exact ⟨_, rfl⟩ | refine ite_ends ?_ ?_ | split)
theorem execCueWidthEnd_ends (n : Nat) (s : State) : ∃ end_, execCueWidthEnd n s = done s end_ := by
  unfold execCueWidthEnd
  try dsimp only
  repeat' (first | with_reducible exact ⟨_, rfl⟩ | refine ite_ends ?_ ?_ | split)
theorem execHhlTrained_ends (t : Nat) (p : HhlPort) (s : State) : ∃ end_, execHhlTrained t p s = done s end_ := by
  unfold execHhlTrained
  try dsimp only
  repeat' (first | with_reducible exact ⟨_, rfl⟩ | refine ite_ends ?_ ?_ | split)
theorem execHhlDown_ends (t : Nat) (p : HhlPort) (s : State) : ∃ end_, execHhlDown t p s = done s end_ := by
  unfold execHhlDown
  try dsimp only
  repeat' (first | with_reducible exact ⟨_, rfl⟩ | refine ite_ends ?_ ?_ | split)
theorem execWordGroup_ends (t : Nat) (p : HhlPort) (w : WordGroupIn) (s : State) : ∃ end_, execWordGroup t p w s = done s end_ := by
  unfold execWordGroup
  try dsimp only
  repeat' (first | with_reducible exact ⟨_, rfl⟩ | refine ite_ends ?_ ?_ | split)
theorem execElectionStart_ends (t : Nat) (s : State) : ∃ end_, execElectionStart t s = done s end_ := by
  unfold execElectionStart
  try dsimp only
  repeat' (first | with_reducible exact ⟨_, rfl⟩ | refine ite_ends ?_ ?_ | split)
theorem execElectionDetect_ends (t low : Nat) (s : State) : ∃ end_, execElectionDetect t low s = done s end_ := by
  unfold execElectionDetect
  try dsimp only
  repeat' (first | with_reducible exact ⟨_, rfl⟩ | refine ite_ends ?_ ?_ | split)
theorem execMasterArbitrationEnd_ends (t : Nat) (others : List (Nat × Nat)) (found : List CasEntry) (place : Nat) (s : State) : ∃ end_, execMasterArbitrationEnd t others found place s = done s end_ := by
  unfold execMasterArbitrationEnd
  try dsimp only
  repeat' (first | with_reducible exact ⟨_, rfl⟩ | refine ite_ends ?_ ?_ | split)
theorem execDeputyArbitrationEnd_ends (t : Nat) (others : List (Nat × Nat × Nat)) (s : State) : ∃ end_, execDeputyArbitrationEnd t others s = done s end_ := by
  unfold execDeputyArbitrationEnd
  try dsimp only
  repeat' (first | with_reducible exact ⟨_, rfl⟩ | refine ite_ends ?_ ?_ | split)
theorem execTickMark_ends (t low pri serial : Nat) (s : State) : ∃ end_, execTickMark t low pri serial s = done s end_ := by
  unfold execTickMark
  try dsimp only
  repeat' (first | with_reducible exact ⟨_, rfl⟩ | refine ite_ends ?_ ?_ | split)
theorem execClapper_ends (t sub : Nat) (p : HhlPort) (pri d : Nat) (c : ClapperIn) (s : State) : ∃ end_, execClapper t sub p pri d c s = done s end_ := by
  unfold execClapper
  try dsimp only
  repeat' (first | with_reducible exact ⟨_, rfl⟩ | refine ite_ends ?_ ?_ | split)
theorem execEcho_ends (t sub : Nat) (p : HhlPort) (t2 t3 : Nat) (s : State) : ∃ end_, execEcho t sub p t2 t3 s = done s end_ := by
  unfold execEcho
  try dsimp only
  repeat' (first | with_reducible exact ⟨_, rfl⟩ | refine ite_ends ?_ ?_ | split)
theorem execTbchgApply_ends (t : Nat) (s : State) : ∃ end_, execTbchgApply t s = done s end_ := by
  unfold execTbchgApply
  try dsimp only
  repeat' (first | with_reducible exact ⟨_, rfl⟩ | refine ite_ends ?_ ?_ | split)
theorem execJoinAlign_ends (t : Nat) (j : JoinIn) (s : State) : ∃ end_, execJoinAlign t j s = done s end_ := by
  unfold execJoinAlign
  try dsimp only
  repeat' (first | with_reducible exact ⟨_, rfl⟩ | refine ite_ends ?_ ?_ | split)
theorem execRefCompareEnd_ends (t : Nat) (freq : Int) (s : State) : ∃ end_, execRefCompareEnd t freq s = done s end_ := by
  unfold execRefCompareEnd
  try dsimp only
  repeat' (first | with_reducible exact ⟨_, rfl⟩ | refine ite_ends ?_ ?_ | split)
theorem execJoinTimeout_ends (t : Nat) (s : State) : ∃ end_, execJoinTimeout t s = done s end_ := by
  unfold execJoinTimeout
  try dsimp only
  repeat' (first | with_reducible exact ⟨_, rfl⟩ | refine ite_ends ?_ ?_ | split)
theorem execCasUnfence_ends (t : Nat) (s : State) : ∃ end_, execCasUnfence t s = done s end_ := by
  unfold execCasUnfence
  try dsimp only
  repeat' (first | with_reducible exact ⟨_, rfl⟩ | refine ite_ends ?_ ?_ | split)
theorem execConfigMismatch_ends (t : Nat) (s : State) : ∃ end_, execConfigMismatch t s = done s end_ := by
  unfold execConfigMismatch
  with_reducible exact ⟨_, rfl⟩
theorem execEpochApply_ends (t : Nat) (s : State) : ∃ end_, execEpochApply t s = done s end_ := by
  unfold execEpochApply
  try dsimp only
  repeat' (first | with_reducible exact ⟨_, rfl⟩ | refine ite_ends ?_ ?_ | split)
theorem execHeartbeatLoss_ends (t missed : Nat) (s : State) : ∃ end_, execHeartbeatLoss t missed s = done s end_ := by
  unfold execHeartbeatLoss
  try dsimp only
  repeat' (first | with_reducible exact ⟨_, rfl⟩ | refine ite_ends ?_ ?_ | split)
theorem execCasMemberLost_ends (t index : Nat) (s : State) : ∃ end_, execCasMemberLost t index s = done s end_ := by
  unfold execCasMemberLost
  try dsimp only
  repeat' (first | with_reducible exact ⟨_, rfl⟩ | refine ite_ends ?_ ?_ | split)
theorem execPerstN_ends (t : Nat) (s : State) : ∃ end_, execPerstN t s = done s end_ := by
  unfold execPerstN
  with_reducible exact ⟨_, rfl⟩
theorem execHotReset_ends (t : Nat) (s : State) : ∃ end_, execHotReset t s = done s end_ := by
  unfold execHotReset
  with_reducible exact ⟨_, rfl⟩
theorem execFunctionLevelReset_ends (t : Nat) (s : State) : ∃ end_, execFunctionLevelReset t s = done s end_ := by
  unfold execFunctionLevelReset
  with_reducible exact ⟨_, rfl⟩
theorem execEndpointReady_ends (s : State) : ∃ end_, execEndpointReady s = done s end_ := by
  unfold execEndpointReady
  try dsimp only
  repeat' (first | with_reducible exact ⟨_, rfl⟩ | refine ite_ends ?_ ?_ | split)
theorem execRegisterWrite_ends (t : Nat) (space : RegSpace) (bits : Nat) (value : Word64) (s : State) : ∃ end_, execRegisterWrite t space bits value s = done s end_ := by
  unfold execRegisterWrite
  with_reducible exact ⟨_, rfl⟩
theorem execCmdEn_ends (t : Nat) (on : Bool) (s : State) : ∃ end_, execCmdEn t on s = done s end_ := by
  unfold execCmdEn
  with_reducible exact ⟨_, rfl⟩
theorem execShadowNow_ends (t : Nat) (s : State) : ∃ end_, execShadowNow t s = done s end_ := by
  unfold execShadowNow
  with_reducible exact ⟨_, rfl⟩
theorem execRingEnable_ends (t ring : Nat) (ctl : Word32) (ctx : List Byte) (s : State) : ∃ end_, execRingEnable t ring ctl ctx s = done s end_ := by
  unfold execRingEnable
  with_reducible exact ⟨_, rfl⟩
theorem execRingDisable_ends (t ring : Nat) (s : State) : ∃ end_, execRingDisable t ring s = done s end_ := by
  unfold execRingDisable
  with_reducible exact ⟨_, rfl⟩
theorem execHostDmaFail_ends (t ring : Nat) (s : State) : ∃ end_, execHostDmaFail t ring s = done s end_ := by
  unfold execHostDmaFail
  with_reducible exact ⟨_, rfl⟩
theorem execIrqModerationTimeout_ends (t ring : Nat) (s : State) : ∃ end_, execIrqModerationTimeout t ring s = done s end_ := by
  unfold execIrqModerationTimeout
  with_reducible exact ⟨_, rfl⟩
theorem execMsixUnmask_ends (t : Nat) (e : UnmaskEvent) (s : State) : ∃ end_, execMsixUnmask t e s = done s end_ := by
  unfold execMsixUnmask
  with_reducible exact ⟨_, rfl⟩
theorem execBootEntry_ends (e : BootEntry) (s : State) : ∃ end_, execBootEntry e s = done s end_ := by
  unfold execBootEntry
  try dsimp only
  repeat' (first | with_reducible exact ⟨_, rfl⟩ | refine ite_ends ?_ ?_ | split)
theorem execObjOpen_ends (d : Desc) (s : State) : ∃ end_, execObjOpen d s = done s end_ := by
  unfold execObjOpen
  with_reducible exact ⟨_, rfl⟩
theorem execObjHold_ends (d : Desc) (s : State) : ∃ end_, execObjHold d s = done s end_ := by
  unfold execObjHold
  with_reducible exact ⟨_, rfl⟩
theorem execObjRun_ends (d : Desc) (s : State) : ∃ end_, execObjRun d s = done s end_ := by
  unfold execObjRun
  with_reducible exact ⟨_, rfl⟩
theorem execObjClose_ends (d : Desc) (s : State) : ∃ end_, execObjClose d s = done s end_ := by
  unfold execObjClose
  with_reducible exact ⟨_, rfl⟩
theorem execObjQuery_ends (d : Desc) (s : State) : ∃ end_, execObjQuery d s = done s end_ := by
  unfold execObjQuery
  with_reducible exact ⟨_, rfl⟩
theorem execGroupDefine_ends (d : Desc) (s : State) : ∃ end_, execGroupDefine d s = done s end_ := by
  unfold execGroupDefine
  with_reducible exact ⟨_, rfl⟩
theorem execGroupHold_ends (d : Desc) (s : State) : ∃ end_, execGroupHold d s = done s end_ := by
  unfold execGroupHold
  with_reducible exact ⟨_, rfl⟩
theorem execGroupRun_ends (d : Desc) (s : State) : ∃ end_, execGroupRun d s = done s end_ := by
  unfold execGroupRun
  with_reducible exact ⟨_, rfl⟩
theorem execGroupAtIndex_ends (g : Nat) (s : State) : ∃ end_, execGroupAtIndex g s = done s end_ := by
  unfold execGroupAtIndex
  try dsimp only
  repeat' (first | with_reducible exact ⟨_, rfl⟩ | refine ite_ends ?_ ?_ | split)
theorem execPassSet_ends (d : Desc) (s : State) : ∃ end_, execPassSet d s = done s end_ := by
  unfold execPassSet
  with_reducible exact ⟨_, rfl⟩
theorem execDemodSet_ends (d : Desc) (s : State) : ∃ end_, execDemodSet d s = done s end_ := by
  unfold execDemodSet
  with_reducible exact ⟨_, rfl⟩
theorem execEeSet_ends (d : Desc) (s : State) : ∃ end_, execEeSet d s = done s end_ := by
  unfold execEeSet
  with_reducible exact ⟨_, rfl⟩
theorem execProgSet_ends (d : Desc) (s : State) : ∃ end_, execProgSet d s = done s end_ := by
  unfold execProgSet
  with_reducible exact ⟨_, rfl⟩
theorem execPortSet_ends (d : Desc) (s : State) : ∃ end_, execPortSet d s = done s end_ := by
  unfold execPortSet
  with_reducible exact ⟨_, rfl⟩
theorem execCarrierSet_ends (d : Desc) (s : State) : ∃ end_, execCarrierSet d s = done s end_ := by
  unfold execCarrierSet
  with_reducible exact ⟨_, rfl⟩
theorem execLiveSet_ends (d : Desc) (s : State) : ∃ end_, execLiveSet d s = done s end_ := by
  unfold execLiveSet
  with_reducible exact ⟨_, rfl⟩
theorem execAfListSet_ends (d : Desc) (s : State) : ∃ end_, execAfListSet d s = done s end_ := by
  unfold execAfListSet
  with_reducible exact ⟨_, rfl⟩
theorem execAfPolicySet_ends (d : Desc) (s : State) : ∃ end_, execAfPolicySet d s = done s end_ := by
  unfold execAfPolicySet
  with_reducible exact ⟨_, rfl⟩
theorem execTbSet_ends (d : Desc) (s : State) : ∃ end_, execTbSet d s = done s end_ := by
  unfold execTbSet
  with_reducible exact ⟨_, rfl⟩
theorem execTbAdjStep_ends (d : Desc) (s : State) : ∃ end_, execTbAdjStep d s = done s end_ := by
  unfold execTbAdjStep
  with_reducible exact ⟨_, rfl⟩
theorem execTbAdjSlew_ends (d : Desc) (s : State) : ∃ end_, execTbAdjSlew d s = done s end_ := by
  unfold execTbAdjSlew
  with_reducible exact ⟨_, rfl⟩
theorem execTbAdjFreq_ends (d : Desc) (s : State) : ∃ end_, execTbAdjFreq d s = done s end_ := by
  unfold execTbAdjFreq
  with_reducible exact ⟨_, rfl⟩
theorem execTbAdjStatus_ends (d : Desc) (s : State) : ∃ end_, execTbAdjStatus d s = done s end_ := by
  unfold execTbAdjStatus
  with_reducible exact ⟨_, rfl⟩
theorem execCueSet_ends (d : Desc) (s : State) : ∃ end_, execCueSet d s = done s end_ := by
  unfold execCueSet
  with_reducible exact ⟨_, rfl⟩
theorem execSlateArm_ends (d : Desc) (s : State) : ∃ end_, execSlateArm d s = done s end_ := by
  unfold execSlateArm
  with_reducible exact ⟨_, rfl⟩
theorem execCapStart_ends (d : Desc) (s : State) : ∃ end_, execCapStart d s = done s end_ := by
  unfold execCapStart
  with_reducible exact ⟨_, rfl⟩
theorem execCapStop_ends (d : Desc) (s : State) : ∃ end_, execCapStop d s = done s end_ := by
  unfold execCapStop
  with_reducible exact ⟨_, rfl⟩
theorem execInsertStart_ends (d : Desc) (s : State) : ∃ end_, execInsertStart d s = done s end_ := by
  unfold execInsertStart
  with_reducible exact ⟨_, rfl⟩
theorem execInsertStop_ends (d : Desc) (s : State) : ∃ end_, execInsertStop d s = done s end_ := by
  unfold execInsertStop
  with_reducible exact ⟨_, rfl⟩
theorem execSweepStart_ends (d : Desc) (s : State) : ∃ end_, execSweepStart d s = done s end_ := by
  unfold execSweepStart
  with_reducible exact ⟨_, rfl⟩
theorem execCasJoin_ends (d : Desc) (s : State) : ∃ end_, execCasJoin d s = done s end_ := by
  unfold execCasJoin
  with_reducible exact ⟨_, rfl⟩
theorem execCasLeave_ends (d : Desc) (s : State) : ∃ end_, execCasLeave d s = done s end_ := by
  unfold execCasLeave
  with_reducible exact ⟨_, rfl⟩
theorem execCasEpochStatus_ends (d : Desc) (s : State) : ∃ end_, execCasEpochStatus d s = done s end_ := by
  unfold execCasEpochStatus
  with_reducible exact ⟨_, rfl⟩
theorem execCasEpochAdvance_ends (d : Desc) (s : State) : ∃ end_, execCasEpochAdvance d s = done s end_ := by
  unfold execCasEpochAdvance
  with_reducible exact ⟨_, rfl⟩
theorem execCasEpochResync_ends (d : Desc) (s : State) : ∃ end_, execCasEpochResync d s = done s end_ := by
  unfold execCasEpochResync
  with_reducible exact ⟨_, rfl⟩
theorem execCalRun_ends (d : Desc) (s : State) : ∃ end_, execCalRun d s = done s end_ := by
  unfold execCalRun
  with_reducible exact ⟨_, rfl⟩
theorem execCalPolicy_ends (d : Desc) (s : State) : ∃ end_, execCalPolicy d s = done s end_ := by
  unfold execCalPolicy
  with_reducible exact ⟨_, rfl⟩
theorem execNvmCommit_ends (d : Desc) (s : State) : ∃ end_, execNvmCommit d s = done s end_ := by
  unfold execNvmCommit
  with_reducible exact ⟨_, rfl⟩
theorem execNvmWriteDone_ends (t id seq : Nat) (ok : Bool) (s : State) : ∃ end_, execNvmWriteDone t id seq ok s = done s end_ := by
  unfold execNvmWriteDone
  try dsimp only
  repeat' (first | with_reducible exact ⟨_, rfl⟩ | refine ite_ends ?_ ?_ | split)
theorem execStoryboardWrite_ends (d : Desc) (s : State) : ∃ end_, execStoryboardWrite d s = done s end_ := by
  unfold execStoryboardWrite
  with_reducible exact ⟨_, rfl⟩
theorem execStoryboardCheck_ends (d : Desc) (s : State) : ∃ end_, execStoryboardCheck d s = done s end_ := by
  unfold execStoryboardCheck
  with_reducible exact ⟨_, rfl⟩
theorem execStoryboardClear_ends (d : Desc) (s : State) : ∃ end_, execStoryboardClear d s = done s end_ := by
  unfold execStoryboardClear
  with_reducible exact ⟨_, rfl⟩
theorem execStoryboardStatus_ends (d : Desc) (s : State) : ∃ end_, execStoryboardStatus d s = done s end_ := by
  unfold execStoryboardStatus
  with_reducible exact ⟨_, rfl⟩
theorem execLcAdvance_ends (d : Desc) (s : State) : ∃ end_, execLcAdvance d s = done s end_ := by
  unfold execLcAdvance
  with_reducible exact ⟨_, rfl⟩
theorem execWipe_ends (d : Desc) (s : State) : ∃ end_, execWipe d s = done s end_ := by
  unfold execWipe
  with_reducible exact ⟨_, rfl⟩
theorem execWipeOverwriteEnd_ends (t : Nat) (s : State) : ∃ end_, execWipeOverwriteEnd t s = done s end_ := by
  unfold execWipeOverwriteEnd
  try dsimp only
  repeat' (first | with_reducible exact ⟨_, rfl⟩ | refine ite_ends ?_ ?_ | split)
theorem execCalMeasureStart_ends (t unit : Nat) (s : State) : ∃ end_, execCalMeasureStart t unit s = done s end_ := by
  unfold execCalMeasureStart
  try dsimp only
  repeat' (first | with_reducible exact ⟨_, rfl⟩ | refine ite_ends ?_ ?_ | split)
theorem execCalMeasureEnd_ends (t unit : Nat) (m : CalMeas) (s : State) : ∃ end_, execCalMeasureEnd t unit m s = done s end_ := by
  unfold execCalMeasureEnd
  try dsimp only
  repeat' (first | with_reducible exact ⟨_, rfl⟩ | refine ite_ends ?_ ?_ | split)
theorem execStoryboardReplayStart_ends (s : State) : ∃ end_, execStoryboardReplayStart s = done s end_ := by
  unfold execStoryboardReplayStart
  try dsimp only
  repeat' (first | with_reducible exact ⟨_, rfl⟩ | refine ite_ends ?_ ?_ | split)
theorem execMbWrite_ends (t : Nat) (bytes : List Byte) (fin : BusEnd) (s : State) : ∃ end_, execMbWrite t bytes fin s = doneBus s end_ := by
  unfold execMbWrite
  try dsimp only
  repeat' (first | with_reducible exact ⟨_, rfl⟩ | refine ite_ends ?_ ?_ | split)
theorem execMbRead_ends (t n : Nat) (s : State) : ∃ end_, execMbRead t n s = doneBus s end_ := by
  unfold execMbRead
  try dsimp only
  repeat' (first | with_reducible exact ⟨_, rfl⟩ | refine ite_ends ?_ ?_ | split)
theorem execBusError_ends (t : Nat) (start : Bool) (_held : List Byte) (s : State) : ∃ end_, execBusError t start _held s = doneBus s end_ := by
  unfold execBusError
  with_reducible exact ⟨_, rfl⟩
theorem execSdaLowTo_ends (t : Nat) (s : State) : ∃ end_, execSdaLowTo t s = doneBus s end_ := by
  unfold execSdaLowTo
  with_reducible exact ⟨_, rfl⟩
theorem execSclLowTo_ends (t : Nat) (s : State) : ∃ end_, execSclLowTo t s = doneBus s end_ := by
  unfold execSclLowTo
  with_reducible exact ⟨_, rfl⟩
theorem execFlagClear_ends (t w : Nat) (mask meets : Word32) (s : State) : ∃ end_, execFlagClear t w mask meets s = doneBus s end_ := by
  unfold execFlagClear
  with_reducible exact ⟨_, rfl⟩
theorem execAttnPendClear_ends (t : Nat) (mask : Byte) (s : State) : ∃ end_, execAttnPendClear t mask s = doneBus s end_ := by
  unfold execAttnPendClear
  with_reducible exact ⟨_, rfl⟩
theorem execHealthClr_ends (t : Nat) (s : State) : ∃ end_, execHealthClr t s = doneBus s end_ := by
  unfold execHealthClr
  with_reducible exact ⟨_, rfl⟩
theorem execResetReq_ends (t : Nat) (value : Word16) (s : State) : ∃ end_, execResetReq t value s = doneBus s end_ := by
  unfold execResetReq
  with_reducible exact ⟨_, rfl⟩
theorem execRcvLoad_ends (t : Nat) (s : State) : ∃ end_, execRcvLoad t s = doneBus s end_ := by
  unfold execRcvLoad
  with_reducible exact ⟨_, rfl⟩
theorem execRcvFinish_ends (t : Nat) (s : State) : ∃ end_, execRcvFinish t s = doneBus s end_ := by
  unfold execRcvFinish
  with_reducible exact ⟨_, rfl⟩
theorem execRcvAbort_ends (t : Nat) (s : State) : ∃ end_, execRcvAbort t s = doneBus s end_ := by
  unfold execRcvAbort
  with_reducible exact ⟨_, rfl⟩
theorem execAttention_ends (t : Nat) (collide : Bool) (s : State) : ∃ end_, execAttention t collide s = doneBus s end_ := by
  unfold execAttention
  with_reducible exact ⟨_, rfl⟩
theorem execAttnRepeat_ends (t : Nat) (collide : Bool) (s : State) : ∃ end_, execAttnRepeat t collide s = doneBus s end_ := by
  unfold execAttnRepeat
  with_reducible exact ⟨_, rfl⟩
theorem execEccCorr_ends (t : Nat) (s : State) : ∃ end_, execEccCorr t s = done s end_ := by
  unfold execEccCorr
  with_reducible exact ⟨_, rfl⟩
theorem execEccUncorr_ends (t : Nat) (w : BadWord) (s : State) : ∃ end_, execEccUncorr t w s = done s end_ := by
  unfold execEccUncorr
  try dsimp only
  repeat' (first | with_reducible exact ⟨_, rfl⟩ | refine ite_ends ?_ ?_ | split)
theorem execSupplyWarn_ends (t supply : Nat) (readings : List Nat) (s : State) : ∃ end_, execSupplyWarn t supply readings s = done s end_ := by
  unfold execSupplyWarn
  with_reducible exact ⟨_, rfl⟩
theorem execSupplyFault_ends (t supply : Nat) (readings : List Nat) (s : State) : ∃ end_, execSupplyFault t supply readings s = done s end_ := by
  unfold execSupplyFault
  with_reducible exact ⟨_, rfl⟩
theorem execBootAuth_ends (t : Nat) (flash : FlashRead) (s : State) : ∃ end_, execBootAuth t flash s = done s end_ := by
  unfold execBootAuth
  try dsimp only
  repeat' (first | with_reducible exact ⟨_, rfl⟩ | refine ite_ends ?_ ?_ | split)
theorem execTestLogicReset_ends (s : State) : ∃ end_, execTestLogicReset s = doneSys s end_ := by
  unfold execTestLogicReset
  with_reducible exact ⟨_, rfl⟩
theorem execBypass_ends (s : State) : ∃ end_, execBypass s = doneSys s end_ := by
  unfold execBypass
  with_reducible exact ⟨_, rfl⟩
theorem execSamplePreload_ends (pins : List Bool) (preload : Option (List Bool)) (s : State) : ∃ end_, execSamplePreload pins preload s = doneSys s end_ := by
  unfold execSamplePreload
  with_reducible exact ⟨_, rfl⟩
theorem execExtest_ends (s : State) : ∃ end_, execExtest s = doneSys s end_ := by
  unfold execExtest
  with_reducible exact ⟨_, rfl⟩
theorem execIdcode_ends (s : State) : ∃ end_, execIdcode s = doneSys s end_ := by
  unfold execIdcode
  with_reducible exact ⟨_, rfl⟩
theorem execClamp_ends (s : State) : ∃ end_, execClamp s = doneSys s end_ := by
  unfold execClamp
  with_reducible exact ⟨_, rfl⟩
theorem execHighz_ends (s : State) : ∃ end_, execHighz s = doneSys s end_ := by
  unfold execHighz
  with_reducible exact ⟨_, rfl⟩
theorem execDebug_ends (s : State) : ∃ end_, execDebug s = doneSys s end_ := by
  unfold execDebug
  with_reducible exact ⟨_, rfl⟩
theorem execTestMode_ends (s : State) : ∃ end_, execTestMode s = doneSys s end_ := by
  unfold execTestMode
  try dsimp only
  repeat' (first | with_reducible exact ⟨_, rfl⟩ | refine ite_ends ?_ ?_ | split)

/-- Every command but READY, LC_CHANGE, those of the management bus, of the resets and of the test access port ends in `done`. -/
theorem exec_done (c : Instr) (s : State) (h : stopsInTest c = true) (h1 : c ≠ .ready) (h2 : ∀ a b, c ≠ .lcChange a b) :
    ∃ e, exec c s = done s e := by
  cases c
  case porstNAssert => exact absurd h (by simp [stopsInTest])
  case wrstNAssert => exact absurd h (by simp [stopsInTest])
  case resetRelease => exact absurd h (by simp [stopsInTest])
  case brownOut => exact absurd h (by simp [stopsInTest])
  case brownOutEnd => exact absurd h (by simp [stopsInTest])
  case thermalTrip => exact absurd h (by simp [stopsInTest])
  case thermalTripEnd => exact absurd h (by simp [stopsInTest])
  case outputRelease a0 => exact execOutputRelease_ends a0 s
  case refQualified a0 a1 a2 => exact execRefQualified_ends a0 a1 a2 s
  case refLoss a0 a1 a2 a3 => exact execRefLoss_ends a0 a1 a2 a3 s
  case refFreqWindowEnd a0 a1 a2 => exact execRefFreqWindowEnd_ends a0 a1 a2 s
  case rootLockDeclared a0 a1 => exact execRootLockDeclared_ends a0 a1 s
  case rootUnlock a0 a1 a2 => exact execRootUnlock_ends a0 a1 a2 s
  case refWaitExpiry a0 a1 => exact execRefWaitExpiry_ends a0 a1 s
  case lockDisagree a0 a1 a2 => exact execLockDisagree_ends a0 a1 a2 s
  case managementTick a0 => exact execManagementTick_ends a0 s
  case wakeRequest a0 a1 => exact execWakeRequest_ends a0 a1 s
  case wakeTimer => exact execWakeTimer_ends s
  case doorbellWrite a0 a1 a2 a3 => exact execDoorbellWrite_ends a0 a1 a2 a3 s
  case aloLock a0 a1 a2 a3 a4 => exact execAloLock_ends a0 a1 a2 a3 a4 s
  case aloSearchFail a0 a1 => exact execAloSearchFail_ends a0 a1 s
  case aloUnlock a0 a1 a2 => exact execAloUnlock_ends a0 a1 a2 s
  case rampSegmentEnd a0 => exact execRampSegmentEnd_ends a0 s
  case agcAttack a0 a1 a2 a3 => exact execAgcAttack_ends a0 a1 a2 a3 s
  case agcRelease a0 a1 a2 => exact execAgcRelease_ends a0 a1 a2 s
  case gainStep a0 => exact execGainStep_ends a0 s
  case pselBlankEnd a0 => exact execPselBlankEnd_ends a0 s
  case matchWindowOpen => exact execMatchWindowOpen_ends s
  case matchWindowClose a0 a1 a2 => exact execMatchWindowClose_ends a0 a1 a2 s
  case standinCheck a0 a1 a2 => exact execStandinCheck_ends a0 a1 a2 s
  case standinVisit a0 => exact execStandinVisit_ends a0 s
  case convFail a0 a1 a2 a3 => exact execConvFail_ends a0 a1 a2 a3 s
  case crossbarMove => exact execCrossbarMove_ends s
  case failoverSwitch => exact execFailoverSwitch_ends s
  case agcLimitEpisodeEnd a0 a1 a2 => exact execAgcLimitEpisodeEnd_ends a0 a1 a2 s
  case passBlock a0 a1 a2 => exact execPassBlock_ends a0 a1 a2 s
  case settleGateOpen a0 => exact execSettleGateOpen_ends a0 s
  case capCountEnd a0 => exact execCapCountEnd_ends a0 s
  case demodBlock a0 a1 a2 a3 => exact execDemodBlock_ends a0 a1 a2 a3 s
  case fmdGateOpen a0 => exact execFmdGateOpen_ends a0 s
  case fmdConcealLimit a0 a1 => exact execFmdConcealLimit_ends a0 a1 s
  case amdConcealLimit a0 a1 => exact execAmdConcealLimit_ends a0 a1 s
  case pilotWindowEnd a0 a1 a2 a3 => exact execPilotWindowEnd_ends a0 a1 a2 a3 s
  case rdsSync a0 a1 a2 => exact execRdsSync_ends a0 a1 a2 s
  case rdsLoss a0 a1 a2 => exact execRdsLoss_ends a0 a1 a2 s
  case rdsGroup a0 a1 a2 => exact execRdsGroup_ends a0 a1 a2 s
  case carrierWindowEnd a0 a1 a2 a3 => exact execCarrierWindowEnd_ends a0 a1 a2 a3 s
  case amssBlock a0 a1 a2 => exact execAmssBlock_ends a0 a1 a2 s
  case nullCandidate a0 a1 a2 => exact execNullCandidate_ends a0 a1 a2 s
  case prsTest a0 a1 a2 a3 => exact execPrsTest_ends a0 a1 a2 a3 s
  case fibRecord a0 a1 a2 => exact execFibRecord_ends a0 a1 a2 s
  case logicalFrame a0 a1 a2 a3 => exact execLogicalFrame_ends a0 a1 a2 a3 s
  case eeLoss a0 a1 a2 => exact execEeLoss_ends a0 a1 a2 s
  case tii a0 a1 => exact execTii_ends a0 a1 s
  case eeRelock a0 a1 a2 => exact execEeRelock_ends a0 a1 a2 s
  case drmModeDetect a0 a1 a2 => exact execDrmModeDetect_ends a0 a1 a2 s
  case facRecord a0 a1 a2 a3 => exact execFacRecord_ends a0 a1 a2 a3 s
  case sdcRecord a0 a1 a2 a3 => exact execSdcRecord_ends a0 a1 a2 a3 s
  case reconfiguration a0 a1 => exact execReconfiguration_ends a0 a1 s
  case offsetRangeLoss a0 a1 a2 => exact execOffsetRangeLoss_ends a0 a1 a2 s
  case sideDump a0 a1 a2 => exact execSideDump_ends a0 a1 a2 s
  case entryStale a0 a1 a2 => exact execEntryStale_ends a0 a1 a2 s
  case entryRemoved a0 a1 a2 => exact execEntryRemoved_ends a0 a1 a2 s
  case announceTimeout a0 a1 a2 a3 => exact execAnnounceTimeout_ends a0 a1 a2 a3 s
  case followProbeStart a0 a1 a2 => exact execFollowProbeStart_ends a0 a1 a2 s
  case probeEnd a0 a1 a2 => exact execProbeEnd_ends a0 a1 a2 s
  case coarseMeasure a0 a1 a2 => exact execCoarseMeasure_ends a0 a1 a2 s
  case alignTimeout a0 a1 a2 => exact execAlignTimeout_ends a0 a1 a2 s
  case poolFilled a0 a1 => exact execPoolFilled_ends a0 a1 s
  case crossfadeStart a0 => exact execCrossfadeStart_ends a0 s
  case crossfadeEnd a0 => exact execCrossfadeEnd_ends a0 s
  case offsetRetentionEnd a0 => exact execOffsetRetentionEnd_ends a0 s
  case insertOn a0 => exact execInsertOn_ends a0 s
  case insertCrossfadeEnd a0 => exact execInsertCrossfadeEnd_ends a0 s
  case insertOff a0 => exact execInsertOff_ends a0 s
  case insertUnderrun a0 a1 => exact execInsertUnderrun_ends a0 a1 s
  case insertLossTimeout a0 => exact execInsertLossTimeout_ends a0 s
  case portFrame a0 a1 a2 => exact execPortFrame_ends a0 a1 a2 s
  case portSync a0 a1 a2 a3 => exact execPortSync_ends a0 a1 a2 a3 s
  case clockLost a0 a1 a2 a3 => exact execClockLost_ends a0 a1 a2 a3 s
  case portClockReturn a0 a1 => exact execPortClockReturn_ends a0 a1 s
  case portRateOk a0 a1 => exact execPortRateOk_ends a0 a1 s
  case fsError a0 a1 a2 => exact execFsError_ends a0 a1 a2 s
  case carrierStart a0 a1 => exact execCarrierStart_ends a0 a1 s
  case loWaitExpiry a0 a1 => exact execLoWaitExpiry_ends a0 a1 s
  case carrierResume a0 a1 => exact execCarrierResume_ends a0 a1 s
  case rdsSlot a0 a1 => exact execRdsSlot_ends a0 a1 s
  case dcarFrame a0 a1 => exact execDcarFrame_ends a0 a1 s
  case levelOut a0 a1 a2 => exact execLevelOut_ends a0 a1 a2 s
  case txcalInService a0 a1 a2 => exact execTxcalInService_ends a0 a1 a2 s
  case txcalFullEnd a0 a1 => exact execTxcalFullEnd_ends a0 a1 s
  case paEnRise => exact execPaEnRise_ends s
  case paEnFall => exact execPaEnFall_ends s
  case yt7300Ramp a0 a1 => exact execYt7300Ramp_ends a0 a1 s
  case cxGrant a0 => exact execCxGrant_ends a0 s
  case cxWaitExpiry a0 => exact execCxWaitExpiry_ends a0 s
  case cxGntFall a0 => exact execCxGntFall_ends a0 s
  case sweepPoint a0 a1 => exact execSweepPoint_ends a0 a1 s
  case tbSlewDone => exact execTbSlewDone_ends s
  case ptmDialogStart a0 => exact execPtmDialogStart_ends a0 s
  case ptmResponse a0 a1 a2 => exact execPtmResponse_ends a0 a1 a2 s
  case ptmTimeout a0 => exact execPtmTimeout_ends a0 s
  case pulseEdge a0 a1 a2 a3 => exact execPulseEdge_ends a0 a1 a2 a3 s
  case handshakeEnd a0 => exact execHandshakeEnd_ends a0 s
  case ppsMissing a0 => exact execPpsMissing_ends a0 s
  case cue a0 => exact execCue_ends a0 s
  case cueWidthEnd a0 => exact execCueWidthEnd_ends a0 s
  case hhlTrained a0 a1 => exact execHhlTrained_ends a0 a1 s
  case hhlDown a0 a1 => exact execHhlDown_ends a0 a1 s
  case wordGroup a0 a1 a2 => exact execWordGroup_ends a0 a1 a2 s
  case electionStart a0 => exact execElectionStart_ends a0 s
  case electionDetect a0 a1 => exact execElectionDetect_ends a0 a1 s
  case masterArbitrationEnd a0 a1 a2 a3 => exact execMasterArbitrationEnd_ends a0 a1 a2 a3 s
  case deputyArbitrationEnd a0 a1 => exact execDeputyArbitrationEnd_ends a0 a1 s
  case tickMark a0 a1 a2 a3 => exact execTickMark_ends a0 a1 a2 a3 s
  case clapper a0 a1 a2 a3 a4 a5 => exact execClapper_ends a0 a1 a2 a3 a4 a5 s
  case echo a0 a1 a2 a3 a4 => exact execEcho_ends a0 a1 a2 a3 a4 s
  case tbchgApply a0 => exact execTbchgApply_ends a0 s
  case joinAlign a0 a1 => exact execJoinAlign_ends a0 a1 s
  case refCompareEnd a0 a1 => exact execRefCompareEnd_ends a0 a1 s
  case joinTimeout a0 => exact execJoinTimeout_ends a0 s
  case casUnfence a0 => exact execCasUnfence_ends a0 s
  case configMismatch a0 => exact execConfigMismatch_ends a0 s
  case epochApply a0 => exact execEpochApply_ends a0 s
  case heartbeatLoss a0 a1 => exact execHeartbeatLoss_ends a0 a1 s
  case casMemberLost a0 a1 => exact execCasMemberLost_ends a0 a1 s
  case perstN a0 => exact execPerstN_ends a0 s
  case hotReset a0 => exact execHotReset_ends a0 s
  case functionLevelReset a0 => exact execFunctionLevelReset_ends a0 s
  case endpointReady => exact execEndpointReady_ends s
  case registerWrite a0 a1 a2 a3 => exact execRegisterWrite_ends a0 a1 a2 a3 s
  case cmdEn a0 a1 => exact execCmdEn_ends a0 a1 s
  case shadowNow a0 => exact execShadowNow_ends a0 s
  case ringEnable a0 a1 a2 a3 => exact execRingEnable_ends a0 a1 a2 a3 s
  case ringDisable a0 a1 => exact execRingDisable_ends a0 a1 s
  case hostDmaFail a0 a1 => exact execHostDmaFail_ends a0 a1 s
  case irqModerationTimeout a0 a1 => exact execIrqModerationTimeout_ends a0 a1 s
  case msixUnmask a0 a1 => exact execMsixUnmask_ends a0 a1 s
  case bootEntry a0 => exact execBootEntry_ends a0 s
  case objOpen a0 => exact execObjOpen_ends a0 s
  case objHold a0 => exact execObjHold_ends a0 s
  case objRun a0 => exact execObjRun_ends a0 s
  case objClose a0 => exact execObjClose_ends a0 s
  case objQuery a0 => exact execObjQuery_ends a0 s
  case groupDefine a0 => exact execGroupDefine_ends a0 s
  case groupHold a0 => exact execGroupHold_ends a0 s
  case groupRun a0 => exact execGroupRun_ends a0 s
  case groupAtIndex a0 => exact execGroupAtIndex_ends a0 s
  case passSet a0 => exact execPassSet_ends a0 s
  case demodSet a0 => exact execDemodSet_ends a0 s
  case eeSet a0 => exact execEeSet_ends a0 s
  case progSet a0 => exact execProgSet_ends a0 s
  case portSet a0 => exact execPortSet_ends a0 s
  case carrierSet a0 => exact execCarrierSet_ends a0 s
  case liveSet a0 => exact execLiveSet_ends a0 s
  case afListSet a0 => exact execAfListSet_ends a0 s
  case afPolicySet a0 => exact execAfPolicySet_ends a0 s
  case tbSet a0 => exact execTbSet_ends a0 s
  case tbAdjStep a0 => exact execTbAdjStep_ends a0 s
  case tbAdjSlew a0 => exact execTbAdjSlew_ends a0 s
  case tbAdjFreq a0 => exact execTbAdjFreq_ends a0 s
  case tbAdjStatus a0 => exact execTbAdjStatus_ends a0 s
  case cueSet a0 => exact execCueSet_ends a0 s
  case slateArm a0 => exact execSlateArm_ends a0 s
  case capStart a0 => exact execCapStart_ends a0 s
  case capStop a0 => exact execCapStop_ends a0 s
  case insertStart a0 => exact execInsertStart_ends a0 s
  case insertStop a0 => exact execInsertStop_ends a0 s
  case sweepStart a0 => exact execSweepStart_ends a0 s
  case casJoin a0 => exact execCasJoin_ends a0 s
  case casLeave a0 => exact execCasLeave_ends a0 s
  case casEpochStatus a0 => exact execCasEpochStatus_ends a0 s
  case casEpochAdvance a0 => exact execCasEpochAdvance_ends a0 s
  case casEpochResync a0 => exact execCasEpochResync_ends a0 s
  case calRun a0 => exact execCalRun_ends a0 s
  case calPolicy a0 => exact execCalPolicy_ends a0 s
  case nvmCommit a0 => exact execNvmCommit_ends a0 s
  case nvmWriteDone a0 a1 a2 a3 => exact execNvmWriteDone_ends a0 a1 a2 a3 s
  case storyboardWrite a0 => exact execStoryboardWrite_ends a0 s
  case storyboardCheck a0 => exact execStoryboardCheck_ends a0 s
  case storyboardClear a0 => exact execStoryboardClear_ends a0 s
  case storyboardStatus a0 => exact execStoryboardStatus_ends a0 s
  case lcAdvance a0 => exact execLcAdvance_ends a0 s
  case lcChange a b => exact absurd rfl (h2 a b)
  case wipe a0 => exact execWipe_ends a0 s
  case wipeOverwriteEnd a0 => exact execWipeOverwriteEnd_ends a0 s
  case calMeasureStart a0 a1 => exact execCalMeasureStart_ends a0 a1 s
  case calMeasureEnd a0 a1 a2 => exact execCalMeasureEnd_ends a0 a1 a2 s
  case storyboardReplayStart => exact execStoryboardReplayStart_ends s
  case mbWrite => exact absurd h (by simp [stopsInTest])
  case mbRead => exact absurd h (by simp [stopsInTest])
  case busError => exact absurd h (by simp [stopsInTest])
  case sdaLowTo => exact absurd h (by simp [stopsInTest])
  case sclLowTo => exact absurd h (by simp [stopsInTest])
  case flagClear => exact absurd h (by simp [stopsInTest])
  case attnPendClear => exact absurd h (by simp [stopsInTest])
  case healthClr => exact absurd h (by simp [stopsInTest])
  case resetReq => exact absurd h (by simp [stopsInTest])
  case rcvLoad => exact absurd h (by simp [stopsInTest])
  case rcvFinish => exact absurd h (by simp [stopsInTest])
  case rcvAbort => exact absurd h (by simp [stopsInTest])
  case attention => exact absurd h (by simp [stopsInTest])
  case attnRepeat => exact absurd h (by simp [stopsInTest])
  case eccCorr a0 => exact execEccCorr_ends a0 s
  case eccUncorr a0 a1 => exact execEccUncorr_ends a0 a1 s
  case supplyWarn a0 a1 a2 => exact execSupplyWarn_ends a0 a1 a2 s
  case supplyFault a0 a1 a2 => exact execSupplyFault_ends a0 a1 a2 s
  case bootAuth a0 a1 => exact execBootAuth_ends a0 a1 s
  case ready => exact absurd rfl h1
  case testLogicReset => exact absurd h (by simp [stopsInTest])
  case bypass => exact absurd h (by simp [stopsInTest])
  case samplePreload => exact absurd h (by simp [stopsInTest])
  case extest => exact absurd h (by simp [stopsInTest])
  case idcode => exact absurd h (by simp [stopsInTest])
  case clamp => exact absurd h (by simp [stopsInTest])
  case highz => exact absurd h (by simp [stopsInTest])
  case debug => exact absurd h (by simp [stopsInTest])
  case testMode => exact absurd h (by simp [stopsInTest])

end Sys2Proof.Laws
end

