-- ==== Sys2Proof/WellFormed.lean ====
section
/-! DEFINITION. Which commands are well formed: the operands name parts that the block has, and lists have the length that the row's event gives them. A meaning is total: it has no effect where an operand names no part. -/
namespace Sys2Proof

/-- The six supplies, the six sensors, the four aerial inputs, the five converters (R45, R402). -/
def supplyOk (i : Nat) : Bool := decide (i < 6)
def inputOk (x : Nat) : Bool := decide (x < 4)
def convOk (c : Nat) : Bool := decide (c < 5)

/-- The two Agile LOs (R37). -/
def aloOk (a : Nat) : Bool := decide (a < 2)

/-- The indices of the kinds of R14. -/
def passOk (p : Nat) : Bool := decide (p < 96)
def capOk (c : Nat) : Bool := decide (c < 16)
def fmdOk (d : Nat) : Bool := decide (d < 32)
def amdOk (d : Nat) : Bool := decide (d < 48)
def engineOk (e : Nat) : Bool := decide (e < 12)
def progOk (p : Nat) : Bool := decide (p < 64)
def portOk (p : Nat) : Bool := decide (p < 4)
def cueOk (n : Nat) : Bool := decide (n < 4)
def carrierOk (d : Bool) (c : Nat) : Bool := if d then decide (c < 4) else decide (c < 24)

/-- A candidate of a followed service: the home source and up to eleven more (R187). -/
def candOk (k : Nat) : Bool := decide (k < 12)

/-- INS_ID of an insert (R214). -/
def insertOk (i : Nat) : Bool := decide (i < 8)

/-- A pulse input (R295): PPS_IN, EVT_IN0, EVT_IN1. -/
def pulseOk (i : Nat) : Bool := decide (i < 3)

/-- A ring (R338), a channel of an engine (R140), a sub-interval of a CK_RF cycle in 1/64, a member of a cascade (R304). -/
def ringOk (r : Nat) : Bool := decide (r < 64)
def chanOk (c : Nat) : Bool := decide (c < 4)
def subOk (s : Nat) : Bool := decide (s < 64)
def memberOk (m : Nat) : Bool := decide (m < 8)

/-- The descriptor names a ring and carries no more data than PLEN says (R346). -/
def descOk (d : Desc) : Bool := ringOk d.ring && decide (d.buf.length ≤ d.plen.toNat)

/-- Decoded audio for a programme at a rate that a decoder can have (R202). -/
def audioOk (a : ProgAudio) : Bool := progOk a.prog && decide (8000 ≤ a.rate ∧ a.rate ≤ 48000)

/-- The command is well formed. -/
def Instr.wellFormed : Instr → Bool
  | .porstNAssert _ | .wrstNAssert _ | .resetRelease _ | .outputRelease _ => true
  | .brownOut supply _ => supplyOk supply
  | .brownOutEnd volts _ _ _ => decide (volts.length = 6)
  | .thermalTrip sensor _ => supplyOk sensor
  | .thermalTripEnd temps _ => decide (temps.length = 6)
  | .refQualified _ _ _ | .refLoss _ _ _ _ | .refFreqWindowEnd _ _ _ | .rootLockDeclared _ _ | .rootUnlock _ _ _ | .refWaitExpiry _ _
  | .lockDisagree _ _ _ => true
  | .managementTick i => i.descs.all descOk
  | .wakeRequest _ _ | .wakeTimer => true
  | .doorbellWrite _ ring _ _ => ringOk ring
  | .aloLock _ alo _ _ _ | .aloSearchFail _ alo | .aloUnlock _ alo _ => aloOk alo
  | .rampSegmentEnd _ => true
  | .agcAttack _ x _ _ | .agcRelease _ x _ | .gainStep x | .pselBlankEnd x | .agcLimitEpisodeEnd _ x _ => inputOk x
  | .matchWindowOpen | .matchWindowClose _ _ _ | .standinCheck _ _ _ | .standinVisit _ | .crossbarMove | .failoverSwitch => true
  | .convFail _ c _ _ => convOk c
  | .passBlock _ p _ | .settleGateOpen p => passOk p
  | .capCountEnd c => capOk c
  | .demodBlock _ am d _ => if am then amdOk d else fmdOk d
  | .fmdGateOpen d | .fmdConcealLimit _ d | .pilotWindowEnd _ d _ _ | .rdsSync _ d _ | .rdsLoss _ d _ | .rdsGroup _ d _ => fmdOk d
  | .amdConcealLimit _ d | .carrierWindowEnd _ d _ _ | .amssBlock _ d _ => amdOk d
  | .nullCandidate _ e c | .prsTest _ e c _ | .eeLoss _ e c | .eeRelock _ e c
  | .drmModeDetect _ e c | .facRecord _ e c _ | .sdcRecord _ e c _ | .offsetRangeLoss _ e c => engineOk e && chanOk c
  | .logicalFrame _ e c audio => engineOk e && chanOk c && audio.all audioOk
  | .fibRecord _ e _ | .tii _ e | .reconfiguration _ e => engineOk e
  | .sideDump _ ring _ => ringOk ring
  | .entryStale _ _ c | .entryRemoved _ _ c | .announceTimeout _ _ c _ => chanOk c
  | .followProbeStart _ p k | .probeEnd _ p k | .coarseMeasure _ p k | .alignTimeout _ p k => progOk p && candOk k
  | .poolFilled _ p | .crossfadeStart p | .crossfadeEnd p | .offsetRetentionEnd p => progOk p
  | .insertOn i | .insertCrossfadeEnd i | .insertOff i | .insertUnderrun _ i | .insertLossTimeout i => insertOk i
  | .portFrame _ p _ | .portSync _ p _ _ | .clockLost _ p _ _ | .portClockReturn _ p | .portRateOk _ p | .fsError _ p _ => portOk p
  | .carrierStart d c | .loWaitExpiry d c | .carrierResume d c | .levelOut _ d c => carrierOk d c
  | .rdsSlot _ c => carrierOk false c
  | .dcarFrame _ c => carrierOk true c
  | .txcalInService _ _ _ | .txcalFullEnd _ _ | .paEnRise | .paEnFall | .yt7300Ramp _ _ | .cxGrant _ | .cxWaitExpiry _
  | .cxGntFall _ | .sweepPoint _ _ => true
  | .tbSlewDone | .ptmDialogStart _ | .ptmResponse _ _ _ | .ptmTimeout _ | .ppsMissing _ => true
  | .pulseEdge _ sub input _ => subOk sub && pulseOk input
  | .handshakeEnd input => pulseOk input
  | .cue n | .cueWidthEnd n => cueOk n
  | .hhlTrained _ _ | .hhlDown _ _ | .wordGroup _ _ _ | .electionStart _ | .electionDetect _ _ | .masterArbitrationEnd _ _ _ _
  | .deputyArbitrationEnd _ _ | .tickMark _ _ _ _ => true
  | .clapper _ sub _ _ _ _ | .echo _ sub _ _ _ => subOk sub
  | .tbchgApply _ | .joinAlign _ _ | .refCompareEnd _ _ | .joinTimeout _ | .casUnfence _ | .configMismatch _ | .epochApply _
  | .heartbeatLoss _ _ => true
  | .casMemberLost _ index => memberOk index
  | .perstN _ | .hotReset _ | .functionLevelReset _ | .endpointReady | .cmdEn _ _ | .shadowNow _ => true
  | .registerWrite _ _ bits _ => [8, 16, 32, 64].contains bits
  | .ringEnable _ ring _ ctx => ringOk ring && decide (ctx.length = 48)
  | .ringDisable _ ring | .hostDmaFail _ ring | .irqModerationTimeout _ ring => ringOk ring
  | .msixUnmask _ e => match e with | .unmask v => ringOk v | _ => true
  | .bootEntry _ => true
  | .objOpen d | .objHold d | .objRun d | .objClose d | .objQuery d | .groupDefine d | .groupHold d | .groupRun d | .passSet d
  | .demodSet d | .eeSet d | .progSet d | .portSet d | .carrierSet d | .liveSet d | .afListSet d | .afPolicySet d | .tbSet d
  | .tbAdjStep d | .tbAdjSlew d | .tbAdjFreq d | .tbAdjStatus d | .cueSet d | .slateArm d | .capStart d | .capStop d | .insertStart d
  | .insertStop d | .sweepStart d | .casJoin d | .casLeave d | .casEpochStatus d | .casEpochAdvance d | .casEpochResync d | .calRun d
  | .calPolicy d | .nvmCommit d | .storyboardWrite d | .storyboardCheck d | .storyboardClear d | .storyboardStatus d | .lcAdvance d
  | .wipe d => descOk d
  | .groupAtIndex g => decide (g < 256)
  | .nvmWriteDone _ _ _ _ | .lcChange _ _ | .wipeOverwriteEnd _ | .storyboardReplayStart => true
  | .calMeasureStart _ unit | .calMeasureEnd _ unit _ => supplyOk unit
  | .mbWrite _ _ _ | .mbRead _ _ | .busError _ _ _ | .sdaLowTo _ | .sclLowTo _ => true
  | .flagClear _ w _ _ => memberOk w
  | .attnPendClear _ _ | .healthClr _ | .resetReq _ _ | .rcvLoad _ | .rcvFinish _ | .rcvAbort _ | .attention _ _ | .attnRepeat _ _
  | .eccCorr _ | .eccUncorr _ _ => true
  | .supplyWarn _ supply readings | .supplyFault _ supply readings => supplyOk supply && decide (readings.length = 4)
  | .bootAuth _ _ | .ready | .testLogicReset | .bypass | .samplePreload _ _ | .extest | .idcode | .clamp | .highz | .debug
  | .testMode => true

end Sys2Proof
end

