-- ==== Sys2Proof/Laws/PerInstr.lean ====
section
/-! SUPPORT. No family of statements is made instruction by instruction: LAWS.json names none. -/
namespace Sys2Proof.Laws
open Sys2Proof
end Sys2Proof.Laws
end

