-- ==== Sys2Proof/Tests/Slice0.lean ====
section
/-! SUPPORT. The author's own tests: an ill-formed term for each check of WellFormed, and a concrete state that meets the hypotheses of each
statement, with what the command leaves there. -/
namespace Sys2Proof.Tests
set_option Elab.async false
open Sys2Proof Sys2Proof.Machine

/-- The state that a command leaves; the state itself where it does not complete. -/
def after (c : Instr) (s : State) : State :=
  match exec c s with
  | .next t => t
  | _ => s

/-- A device in service, its outputs released, with no clock reference, at CK_RF count 0 of a Plain frame numbering that does not run. -/
def base : State :=
  { State.reset with
    phase := .released, resetPin := false, bus := { Bus.reset with short := false }, boot := { State.reset.boot with st := .running, ready := true } }

/-- The state with an object of this device in RUN with a block. -/
def inRun (s : State) (k : Kind) (i : Nat) (b : Blk) : State := s.modLife ⟨k, i⟩ (fun _ => Life.at .run b)
/-! ## Well-formedness: an ill-formed term for each check, which the check refuses, beside a well-formed one -/

theorem test_wf_supply : (Instr.brownOut 6 0).wellFormed = false ∧ (Instr.brownOut 5 0).wellFormed = true := by decide
theorem test_wf_volts : (Instr.brownOutEnd [0] 0 false {}).wellFormed = false ∧ (Instr.thermalTripEnd [0] {}).wellFormed = false := by decide
theorem test_wf_tick : (Instr.managementTick { descs := [{ ring := 64 }] }).wellFormed = false ∧ (Instr.managementTick {}).wellFormed = true := by decide
theorem test_wf_audio : (Instr.logicalFrame 0 0 0 [{ prog := 64 }]).wellFormed = false ∧ (Instr.logicalFrame 0 0 0 [{ prog := 63, rate := 7999 }]).wellFormed = false ∧ (Instr.logicalFrame 0 0 0 [{ prog := 63 }]).wellFormed = true := by decide
theorem test_wf_ring : (Instr.doorbellWrite 0 64 0 []).wellFormed = false ∧ (Instr.sideDump 0 64 0).wellFormed = false ∧ (Instr.ringDisable 0 64).wellFormed = false := by decide
theorem test_wf_ringCtx : (Instr.ringEnable 0 0 0 []).wellFormed = false ∧ (Instr.ringEnable 0 0 0 (List.replicate 48 0)).wellFormed = true := by decide
theorem test_wf_alo : (Instr.aloSearchFail 0 2).wellFormed = false ∧ (Instr.aloSearchFail 0 1).wellFormed = true := by decide
theorem test_wf_input : (Instr.gainStep 4).wellFormed = false ∧ (Instr.gainStep 3).wellFormed = true := by decide
theorem test_wf_conv : (Instr.convFail 0 5 0 .bias).wellFormed = false ∧ (Instr.convFail 0 4 0 .bias).wellFormed = true := by decide
theorem test_wf_pass : (Instr.settleGateOpen 96).wellFormed = false ∧ (Instr.settleGateOpen 95).wellFormed = true := by decide
theorem test_wf_cap : (Instr.capCountEnd 16).wellFormed = false ∧ (Instr.capCountEnd 15).wellFormed = true := by decide
theorem test_wf_demod : (Instr.demodBlock 0 false 32 {}).wellFormed = false ∧ (Instr.demodBlock 0 true 32 {}).wellFormed = true ∧ (Instr.demodBlock 0 true 48 {}).wellFormed = false := by decide
theorem test_wf_fmd : (Instr.fmdGateOpen 32).wellFormed = false ∧ (Instr.fmdGateOpen 31).wellFormed = true := by decide
theorem test_wf_amd : (Instr.amdConcealLimit 0 48).wellFormed = false ∧ (Instr.amdConcealLimit 0 47).wellFormed = true := by decide
theorem test_wf_engine : (Instr.nullCandidate 0 12 0).wellFormed = false ∧ (Instr.nullCandidate 0 11 4).wellFormed = false ∧ (Instr.nullCandidate 0 11 3).wellFormed = true := by decide
theorem test_wf_follow : (Instr.alignTimeout 0 64 0).wellFormed = false ∧ (Instr.alignTimeout 0 63 12).wellFormed = false ∧ (Instr.alignTimeout 0 63 11).wellFormed = true := by decide
theorem test_wf_prog : (Instr.crossfadeEnd 64).wellFormed = false ∧ (Instr.crossfadeEnd 63).wellFormed = true := by decide
theorem test_wf_insert : (Instr.insertOn 8).wellFormed = false ∧ (Instr.insertOn 7).wellFormed = true := by decide
theorem test_wf_port : (Instr.portRateOk 0 4).wellFormed = false ∧ (Instr.portRateOk 0 3).wellFormed = true := by decide
theorem test_wf_carrier : (Instr.carrierStart true 4).wellFormed = false ∧ (Instr.carrierStart false 4).wellFormed = true ∧ (Instr.carrierStart false 24).wellFormed = false ∧ (Instr.rdsSlot 0 24).wellFormed = false ∧ (Instr.dcarFrame 0 4).wellFormed = false ∧ (Instr.levelOut 0 true 4).wellFormed = false := by decide
theorem test_wf_pulse : (Instr.pulseEdge 0 64 0 false).wellFormed = false ∧ (Instr.pulseEdge 0 63 3 false).wellFormed = false ∧ (Instr.pulseEdge 0 63 2 false).wellFormed = true ∧ (Instr.handshakeEnd 3).wellFormed = false := by decide
theorem test_wf_cue : (Instr.cue 4).wellFormed = false ∧ (Instr.cue 3).wellFormed = true := by decide
theorem test_wf_cascade : (Instr.casMemberLost 0 8).wellFormed = false ∧ (Instr.casMemberLost 0 7).wellFormed = true ∧ (Instr.echo 0 64 .up 0 0).wellFormed = false := by decide
theorem test_wf_write : (Instr.registerWrite 0 (.bar0 0) 24 0).wellFormed = false ∧ (Instr.registerWrite 0 (.bar0 0) 32 0).wellFormed = true := by decide
theorem test_wf_vector : (Instr.msixUnmask 0 (.unmask 64)).wellFormed = false ∧ (Instr.msixUnmask 0 (.unmask 63)).wellFormed = true := by decide
theorem test_wf_desc : (Instr.objOpen { ring := 64 }).wellFormed = false ∧ (Instr.cueSet { buf := [0], plen := 0 }).wellFormed = false ∧ (Instr.cueSet { buf := [0], plen := 1 }).wellFormed = true := by decide
theorem test_wf_group : (Instr.groupAtIndex 256).wellFormed = false ∧ (Instr.groupAtIndex 255).wellFormed = true := by decide
theorem test_wf_unit : (Instr.calMeasureStart 0 6).wellFormed = false ∧ (Instr.calMeasureStart 0 5).wellFormed = true := by decide
theorem test_wf_flagWord : (Instr.flagClear 0 8 0 0).wellFormed = false ∧ (Instr.flagClear 0 7 0 0).wellFormed = true := by decide
theorem test_wf_readings : (Instr.supplyWarn 0 0 [0]).wellFormed = false ∧ (Instr.supplyFault 0 6 [0, 0, 0, 0]).wellFormed = false ∧ (Instr.supplyFault 0 5 [0, 0, 0, 0]).wellFormed = true := by decide

/-! ## The queue, reset, release, test access port -/

theorem test_queue : step State.reset = .next State.reset := rfl
theorem test_queue_front : step { base with pending := [.bypass, .extest] } = exec .bypass { base with pending := [.extest] } := rfl
theorem witness_StepNeverUnblows : step base = .next base ∧ State.reset.phase = .porst ∧
    (after (.resetRelease { straps := { bootSrc := 2 } }) State.reset).straps.bootSrc = 2 := ⟨rfl, rfl, rfl⟩
theorem witness_StepKeepsSafe : State.reset.safe = true ∧ base.safe = true := by decide
theorem witness_TestModeStops : ({ base with tap := { Tap.reset with testing := true } }).tap.testing = true ∧
    stopsInTest .ready = true ∧ after .ready { base with tap := { Tap.reset with testing := true } } = { base with tap := { Tap.reset with testing := true } } := ⟨rfl, rfl, rfl⟩

/-- PORST_N for 1 µs, and one nanosecond less. -/
theorem witness_ResetPins :
    base.phase ≠ .porst ∧ base.phase = .released ∧ (after (.porstNAssert 1000) base).phase = .porst ∧
    (after (.porstNAssert 999) base).phase = .released ∧ (after (.wrstNAssert 1000) base).phase = .warm ∧
    (after (.wrstNAssert 999) base).phase = .released ∧ State.reset.phase = .porst := by decide

/-- A device that its brown-out monitor holds, and one that a temperature comparator holds. -/
def browned : State := { State.reset with heldBrown := true, resetPin := false }
def hot : State := { State.reset with phase := .warm, heldHot := true, resetPin := false }

theorem witness_MonitorsHoldReset :
    brownLimit 0 = some (680, 20) ∧ (after (.brownOut 0 679) base).phase = .porst ∧ (after (.brownOut 0 680) base).phase = .released ∧
    (after (.thermalTrip 0 2640) base).phase = .warm ∧ (after (.thermalTrip 0 2639) base).phase = .released ∧
    (after (.brownOut 0 679) State.reset).heldBrown = true ∧ (after (.thermalTrip 0 2640) State.reset).heldHot = true ∧
    (after (.brownOutEnd [700, 0, 0, 0, 0, 2780] 999999 false {}) browned).phase = .porst ∧
    (after (.brownOutEnd [700, 0, 0, 0, 0, 2780] 1000000 true {}) browned).phase = .porst ∧
    (after (.brownOutEnd [700, 0, 0, 0, 0, 2780] 1000000 false {}) browned).phase = .loading ∧
    (after (.brownOutEnd [700, 0, 0, 0, 0, 2779] 1000000 false {}) browned).phase = .porst ∧
    (after (.thermalTripEnd [2239, 0, 0, 0, 0, 0] {}) hot).phase = .loading ∧
    (after (.thermalTripEnd [2240, 0, 0, 0, 0, 0] {}) hot).phase = .warm := by decide

theorem witness_ResetRelease :
    (after (.resetRelease { straps := { refSel := 3 } }) State.reset).phase = .loading ∧
    (after (.resetRelease { straps := { refSel := 3 } }) State.reset).straps.refSel = 3 ∧
    (after (.resetRelease {}) browned).phase = .porst := by decide

/-- A device at the end of its wipe, booting from the straps' source, or from the override. -/
def wiping (ovr : Bool) : State :=
  { State.reset with phase := .wiping, resetPin := false, straps := { bootSrc := 1 }, boot := { State.reset.boot with ovrEn := ovr, ovrSrc := 2 } }

theorem witness_OutputRelease :
    (wiping false).tap.testing = false ∧ (wiping false).phase = .wiping ∧ (after (.outputRelease []) (wiping false)).boot.st = .loading ∧
    (after (.outputRelease []) (wiping true)).boot.st = .recovery ∧ (after (.outputRelease []) (wiping true)).boot.ovrEn = false := by decide

/-- The four life-cycle states, and a blown DBG_LOCK. -/
def fused (p f r d : Bool) : State :=
  { base with fuses := { base.fuses with lcP := (p, p), lcF := (f, f), lcR := (r, r), dbg := (d, d) } }

theorem test_lcState : ([fused false false false false, fused true false false false, fused true true false true, fused true true true true].map (fun s => s.fuses.lcState)) = [0, 1, 2, 3] := by decide
theorem test_debug :
    (after .debug (fused true false false false)).tap.debugOpen = true ∧ (after .debug (fused true true false true)).tap.ir = .bypass ∧
    (after .debug (fused true true true true)).tap.debugOpen = false := by decide
theorem test_testMode :
    (after .testMode (fused false false false false)).tap.testing = true ∧ (after .testMode (fused true false false false)).tap.testing = false ∧
    (after .testMode (fused true true false true)).tap.ir = .bypass ∧ (after .testMode (fused true true true true)).tap.testing = true := by decide
theorem test_idcode : (after .idcode base).tap.ir = .idcode ∧ (after .testLogicReset base).tap.ir = .idcode := by decide
theorem test_samplePreload : (after (.samplePreload [true] none) base).tap.boundary = [true] ∧ (after (.samplePreload [true] (some [false])) base).tap.boundary = [false] := by decide

/-! ## Boot -/

/-- An image of 208 bytes: header, the base point of the curve as key, the signature made with the private key 1 and the nonce 1, and
sixteen zero bytes. -/
def image : List Byte :=
  leBytes 20 0xa10307000000100000000136395459 ++ zeros 44 ++ beBytes 64 0x6b17d1f2e12c4247f8bce6e563a440f277037d812deb33a0f4a13945d898c2964fe342e2fe1a7f9b8ee7eb4a7c0f9e162bce33576b315ececbb6406837bf51f5 ++ beBytes 64 0x6b17d1f2e12c4247f8bce6e563a440f277037d812deb33a0f4a13945d898c2965efe3090591203c28f3ded086ded7f42f2197f3ee2d0ddad23dfd40f827046ec ++ zeros 16
def keyed : Fuses := { State.reset.fuses with keyK := 0x9f0db5cbf5eed6fe24dff4d80f5d2f14803ebbb0c638c7ae362223ef7ddb75d8 }
theorem test_image : imageFault keyed true image = none ∧ imageFault State.reset.fuses true image = some 3 ∧ imageFault keyed true [] = some 1 := by decide +kernel

/-- A device in LOADING from the host's ring, from the flash, and with a recovery image to decide. -/
def booting (im : List Byte) : State :=
  { base with fuses := keyed, boot := { State.reset.boot with st := .loading, image := im, complete := true, inOrder := true } }
def flashing (copyB : Bool) (src : BitVec 2) : State :=
  { base with fuses := keyed, boot := { State.reset.boot with st := .loading, src := src, flash := true, copyB := copyB } }
def deciding (im : List Byte) : State :=
  { base with fuses := keyed, boot := { State.reset.boot with st := .recovery, rcvStatus := 1, image := im, complete := true } }

theorem witness_BootAuth_fails :
    (booting []).boot.rcvStatus ≠ 1 ∧ imageFault keyed true (booting []).boot.image = some 1 ∧
    (after (.bootAuth 0 .noAnswer) (booting [])).boot.st = .authFail ∧
    (after (.bootAuth 0 .noAnswer) (flashing false 1)).boot.copyB = true ∧
    (after (.bootAuth 0 (.bytes [])) (flashing true 1)).boot.st = .authFail ∧
    (after (.bootAuth 0 (.bytes [])) (flashing true 3)).boot.st = .waitImage ∧
    (after (.bootAuth 0 .noAnswer) (deciding [])).boot.rcvStatus = 5 := by decide
theorem witness_BootAuth_passes : flashImage image = image ∧ (booting image).boot.complete = true ∧
    (flashing false 1).boot.flash = true ∧ (deciding image).boot.rcvStatus = 1 := by decide +kernel

/-- A device that waits for an image from the host, with a BOOT ring of 16 filled entries. -/
def waiting : State :=
  { base with
    boot := { State.reset.boot with st := .waitImage }
    host := { HostIf.reset with rings := { Ring.reset with kind := 9, st := .running, enable := true, dProd := 16, logBuf := 2 } :: List.replicate 63 Ring.reset } }

theorem witness_BootEntryTaken :
    (waiting.ring 0).isRunning kBoot = true ∧ 0 < (waiting.ring 0).filled ∧
    (after (.bootEntry ⟨0, false, zeros 16⟩) waiting).boot.st = .loading ∧
    (after (.bootEntry ⟨0, false, zeros 16⟩) waiting).boot.inOrder = true ∧
    (after (.bootEntry ⟨16, true, zeros 16⟩) (after (.bootEntry ⟨0, false, zeros 16⟩) waiting)).boot.image.length = 32 ∧
    (after (.bootEntry ⟨4, true, zeros 16⟩) waiting).boot.inOrder = false := by decide

/-- Firmware that has just started, of SVN 3, which asks for the rise of MIN_SVN. -/
def started : State := { base with boot := { State.reset.boot with st := .running, svn := 3, commitSvn := true } }

theorem witness_ReadyRises :
    started.boot.ready = false ∧ started.flags.halted = false ∧ (after .ready started).boot.ready = true ∧
    (after .ready started).fuses.minSvn = 3 := by decide

/-- A recovery window in short-pointer mode, with a length, an offset and 32 bytes of image. -/
def recovery (len : Word16) (off : Word32) : State :=
  { base with
    bus := { Bus.reset with short := true }
    boot := { State.reset.boot with st := .recovery, rcvLen := len, rcvOffset := off, image := zeros 32 } }
/-- The last chunk of an image whose header gives one byte after its 192 bytes of header and signature. -/
def lastOf : State :=
  { recovery 1 192 with boot := { (recovery 1 192).boot with image := zeros 8 ++ leBytes 4 1 ++ zeros 180 } }

theorem witness_RecoveryCommands :
    (recovery 128 32).rcvAllowed = true ∧ (recovery 128 32).boot.rcvStatus ≠ 1 ∧ (recovery 128 32).boot.rcvData.length = 128 ∧
    (after (.rcvLoad 0) (recovery 128 32)).boot.image.length = 160 ∧
    ([recovery 128 33, recovery 128 48, recovery 129 32, recovery 0 32, recovery 1 32].map
      (fun s => (after (.rcvLoad 0) s).boot.rcvStatus)) = [3, 3, 4, 4, 4] ∧ lastChunk lastOf.boot.image (zeros 1) = true ∧
    (after (.rcvLoad 0) lastOf).boot.rcvStatus = 2 ∧ (after (.rcvLoad 0) lastOf).boot.image.length = 193 ∧
    (after (.rcvFinish 0) (recovery 1 32)).boot.rcvStatus = 1 ∧ (after (.rcvAbort 0) (recovery 1 32)).boot.image = [] ∧
    (after (.rcvLoad 0) base).boot.rcvStatus = 6 := by decide +kernel

/-! ## The management bus -/

/-- A device that answers, and one whose window is in short-pointer mode. -/
def shortBus : State := { base with bus := { Bus.reset with short := true, pointer := 0x8FE } , boot := { State.reset.boot with st := .recovery } }

theorem witness_BusPointer :
    (base.busAt 0).busAnswers = true ∧ base.bus.short = false ∧ (shortBus.busAt 0).busAnswers = true ∧ shortBus.bus.short = true ∧
    (after (.mbWrite 0 [0x04, 0x1F, 0, 0] .stop) base).bus.pointer = 0x401 ∧
    (after (.mbWrite 0 [0x04] .stop) base).bus.pointer = 0 ∧
    (after (.mbWrite 0 [0xFF] .repeatedStart) shortBus).bus.pointer = 0x8FF ∧
    (after (.mbWrite 0 [0xFF, 1, 2] .stop) shortBus).bus.pointer = 0x801 ∧ heldAt (heldWrites false 0x41F [0, 0]) 0x408 = none := by decide +kernel
theorem witness_BusRead :
    (after (.mbRead 0 3) shortBus).bus.pointer = 0x801 ∧ (after (.mbRead 0 1) { base with bus := { base.bus with pointer := 0xFFFF } }).bus.pointer = 0 ∧
    (after (.mbRead 0 1) { base with bus := { base.bus with pointer := 0x37F }, log := { Log.reset with autoSel := true } }).log.sel = 1 := by decide
theorem witness_BusSilent :
    State.reset.phase = .porst ∧ (after (.mbWrite 0 [4, 0] .stop) State.reset).bus.pointer = 0 ∧
    (after (.mbRead 0 1) { base with clk := { Clk.reset with mgmtStopped := true } }).clk.wakeReq = true := by decide
theorem witness_BusFaults :
    (base.busAt 0).phase = .released ∧ (after (.busError 0 true [1]) base).flag fBusError = true ∧
    (after (.busError 0 false []) base).flag fCrossFlush = true ∧ (after (.sdaLowTo 0) base).flag fSdaLowTo = true ∧
    (after (.sclLowTo 0) base).flag fSclLowTo = true := by decide +kernel

/-- Two flags that stand, one of them of a lasting condition. -/
def flagged : State := { base with flags := { Flags.reset with bits := 0x3, cond := 0x1 } }
theorem witness_FlagClear :
    flagged.flags.counts.length = 256 ∧ (flagged.busAt 0).bus.short = false ∧
    (after (.flagClear 0 0 1 0) flagged).flags.bits = 2 ∧ (after (.flagClear 0 7 0xFFFFFFFF 0) flagged).flags.bits = 3 ∧
    (after (.flagClear 0 (fBusError / 32) 0xFFFFFFFF 0xFFFFFFFF) base).flag fBusError = true ∧
    (after (.flagClear 0 (fBusError / 32) 0xFFFFFFFF 0) (base.setFlag fBusError)).flag fBusError = true ∧
    (after (.flagClear 4 (fBusError / 32) 0xFFFFFFFF 0) { base.setFlag fBusError with clk := { Clk.reset with divReset := true } }).flag fBusError = false := by decide +kernel
theorem witness_BusSingles :
    (shortBus.busAt 0).busAnswers = true ∧ (shortBus.busAt 0).bus.short = true ∧ (after (.healthClr 0) shortBus).health.clearReq = false ∧
    (after (.resetReq 0 0xA55A) shortBus).phase = .released ∧
    (after (.attnPendClear 0 1) { base with flags := { Flags.reset with pendFlag := true, pendDailies := true } }).flags.pendDailies = true ∧
    (after (.healthClr 0) base).health.clearReq = true ∧ (after (.resetReq 0 0xA55A) base).phase = .warm ∧
    (after (.resetReq 0 0xA55B) base).phase = .released := by decide

/-- Attention enabled with a pulse due. -/
def attending : State := { base with flags := { Flags.reset with attnEn := true, pulseDue := true, pendFlag := true } }
theorem witness_AttentionPulse :
    (attending.busAt 0).attnOn = true ∧ (base.busAt 0).attnOn = false ∧ attending.flags.attnRepeat ≠ 0 ∧
    (after (.attention 0 false) attending).flags.pulses = 1 ∧ (after (.attention 0 true) attending).flag fAttnCollide = true ∧
    (after (.attnRepeat 0 true) attending).flags.pulseDue = true ∧ (after (.attention 0 false) base).flags.pulses = 0 := by decide +kernel

/-! ## Clocks, holdover, the management clock -/

/-- Clocks of a device in service: reference qualified, loop locked, dividers reset. -/
def lockedClk : Clk := { Clk.reset with refQual := true, injecting := true, locked := true, divReset := true }
def clocked (c : Clk) : State := { base with clk := c }

theorem witness_RefQualified :
    base.tap.testing = false ∧ (base.advance 0).clk.refQual = false ∧ (after (.refQualified 0 65536 5) base).clk.injecting = true ∧
    (after (.refQualified 0 65536 5) (clocked { Clk.reset with holdover := true })).clk.relocking = true ∧
    (after (.refQualified 0 65536 (-40000)) (clocked { Clk.reset with holdover := true })).clk.slewLeft = 2120000 ∧
    (after (.refQualified 0 65535 5) base).clk.refQual = false := by decide +kernel
/-- A re-lock slew that has moved the offset to 3 ppm, with a difference left. -/
def reslewing (left : Int) : State := clocked { Clk.reset with relocking := true, slewPpm := 3, slewLeft := left }
theorem witness_RelockSlew :
    slewOf 40 (-40000) = 2120000 ∧ slewOf 40 62500000 = 0 ∧ slewNext 10 3 1000000000 = 4 ∧ slewNext 3 3 1000000000 = 3 ∧ slewNext 10 3 0 = 2 ∧
    (reslewing 1000000000).tickSlew.clk.slewPpm = 4 ∧ (reslewing 1000000000).tickSlew.clk.slewLeft = 1000000000 - 4 * slewUnit ∧
    (reslewing (-5)).tickSlew.clk.slewPpm = 2 := by decide +kernel
/-- A qualified reference before the dividers run, in and out of holdover. -/
def qualified (h : Bool) : State := clocked { Clk.reset with refQual := true, injecting := true, locked := true, holdover := h }
theorem witness_RefLost :
    ((qualified false).advance 0).clk.refQual = true ∧ (qualified false).phase = .released ∧ refFactor 0 = 40 ∧
    (after (.refLoss 0 4 0 7) (qualified false)).clk.holdover = true ∧ (after (.refLoss 0 4 0 7) (qualified false)).clk.ctlVal = 7 ∧
    (after (.refLoss 0 3 31 7) (qualified true)).clk.relocking = false ∧
    (after (.refLoss 0 3 32 7) (qualified false)).clk.refQual = true ∧
    (after (.refFreqWindowEnd 0 20001 7) (qualified false)).clk.refQual = false ∧
    (after (.refFreqWindowEnd 0 (-20001) 7) (qualified false)).cond fRefLost = true ∧
    (after (.refFreqWindowEnd 0 20000 7) (qualified false)).clk.refQual = true := by decide +kernel
/-- A device that loads, with the reference qualified and injected, LKF_USE as given. -/
def locking (lkf : Bool) : State :=
  { State.reset with
    phase := .loading, resetPin := false, straps := { lkfUse := lkf }, clk := { Clk.reset with refQual := true, injecting := true } }
theorem witness_RootLock :
    (locking true).clk.locked = false ∧ (after (.rootLockDeclared 0 { lkf := 449 }) (locking true)).phase = .wiping ∧
    (after (.rootLockDeclared 0 { lkf := 450 }) (locking true)).clk.locked = false ∧
    (after (.rootLockDeclared 0 { maxErr := (locking false).rootW, cycles := (locking false).rootN }) (locking false)).clk.divReset = true ∧
    (after (.rootLockDeclared 0 { maxErr := (locking false).rootW + 1, cycles := (locking false).rootN }) (locking false)).clk.locked = false := by decide
/-- In holdover with the re-lock slew under way, at Plain sample 0. -/
def relocking : State := clocked { lockedClk with locked := false, injecting := false, holdover := true, relocking := true }
theorem witness_RootLock_holdover :
    (relocking.advance 0).clk.holdover = true ∧
    (after (.rootLockDeclared 0 { maxErr := 0, cycles := 1024 }) relocking).clk.holdover = false := by decide +kernel
theorem witness_RootUnlock :
    ((qualified false).advance 0).clk.locked = true ∧
    (after (.rootUnlock 0 { minErr := (qualified false).rootW + 1, cycles := 8 } 5) (qualified false)).clk.holdover = true ∧
    (after (.rootUnlock 0 { minErr := (qualified false).rootW, cycles := 8 } 5) (qualified false)).clk.locked = true ∧
    (after (.rootUnlock 0 { lkf := 901 } 5) { qualified false with straps := { lkfUse := true } }).cond fRootUnlock = true ∧
    (after (.rootUnlock 0 { lkf := 900 } 5) { qualified false with straps := { lkfUse := true } }).clk.locked = true := by decide +kernel
/-- A device that loads, with no reference. -/
def loadingDev : State := { State.reset with phase := .loading }
theorem witness_RefWaitAndDisagree :
    loadingDev.phase = .loading ∧ loadingDev.clk.refQual = false ∧ loadingDev.clk.divReset = false ∧ fget loadingDev.clk.profile ckRefWait = 10 ∧
    (after (.refWaitExpiry 100000000 640) loadingDev).clk.d = 320 ∧ (after (.refWaitExpiry 100000000 640) loadingDev).phase = .wiping ∧
    (after (.refWaitExpiry 99999999 640) loadingDev).phase = .loading ∧
    (after (.lockDisagree 0 true false) { base with straps := { lkfUse := true } }).cond fLockDisagree = true ∧
    (after (.lockDisagree 0 true true) { base with straps := { lkfUse := true } }).cond fLockDisagree = false := by decide +kernel
def stopped : State := clocked { Clk.reset with mgmtStopped := true }
theorem witness_Wakes :
    (stopped.advance 0).clk.mgmtStopped = true ∧ (after (.wakeRequest 0 .doorbell) stopped).clk.wakeReq = true ∧
    (after (.wakeRequest 0 .doorbell) base).clk.wakeReq = false ∧ (after .wakeTimer stopped).clk.wakeReq = true := by decide

/-- A device in service at Plain sample 0, before the work of the tick there. -/
def inService : State := clocked lockedClk
theorem witness_ManagementTick :
    inService.clk.divReset = true ∧ (inService.advance inService.tickAt).phase = .released ∧
    (inService.advance inService.tickAt).flags.halted = false ∧
    ((clocked { lockedClk with mgmtStopped := true }).advance inService.tickAt).clk.mgmtStopped = true ∧
    ({ inService with flags := { Flags.reset with halted := true } }.advance inService.tickAt).flags.halted = true := by decide +kernel
theorem test_managementTick :
    (after (.managementTick { temps := List.replicate 6 640, volts := [700, 1000, 1000, 1000, 1000, 2900] }) inService).atTick = true ∧
    (after (.managementTick { temps := List.replicate 6 640, volts := [700, 1000, 1000, 1000, 1000, 2900] }) inService).health.tjMax = 640 := by decide +kernel

/-! ## Agile LOs, the composer, the feeder sweep -/

def aloRxAt (st : AloSt) : State := base.modAlo 0 (fun a => { a with st := st, freqHz := 1000000, lost := true })
/-- Phase errors that lie within every threshold for a long run of cycles, and that lie beyond it for eight. -/
def still : LockMeas := { cycles := 1000000 }
def drifted : LockMeas := { minErr := 1000000, maxErr := 1000000, cycles := 8 }
theorem witness_AloLock :
    ((aloRxAt .searching).advance 0).alo 0 = (aloRxAt .searching).alo 0 ∧ ((aloRxAt .searching).alo 0).st = .searching ∧
    base.aloLocks still = true ∧ base.aloLoses drifted = true ∧
    ((after (.aloLock 0 0 9 1 still) (aloRxAt .searching)).alo 0).band = 9 ∧ ((after (.aloLock 0 0 9 1 still) (aloRxAt .hopping)).alo 0).band = 0 ∧
    ((after (.aloLock 0 0 9 1 still) (aloRxAt .hopping)).alo 0).st = .locked ∧ (after (.aloLock 0 0 9 1 still) (aloRxAt .hopping)).cond fAloUnlock = false ∧
    ((after (.aloLock 0 0 9 1 drifted) (aloRxAt .hopping)).alo 0).st = .hopping := by decide +kernel

/-- ALO_TX in a state, with a sweep of two segments of 4 Plain samples in another. -/
def sweeping (a : AloSt) (sw : SweepSt) : State :=
  { base with
    aloTx := { Alo.reset with st := a, lock := true, ramp := [⟨100000000, 0, 4, false⟩, ⟨200000000, 5, 4, true⟩] }
    tx := { Tx.reset with cxReq := true, sweep := { Sweep.reset with st := sw } } }
theorem witness_AloSearchFail :
    (aloRxAt .searching).aloRx.st = .searching ∧ (after (.aloSearchFail 0 0) (aloRxAt .searching)).flag fAloSearchFail = true ∧
    (sweeping .searching .none).fullCal = false ∧ (after (.aloSearchFail 0 1) (sweeping .searching .none)).aloTx.st = .idle ∧
    (after (.aloSearchFail 0 1) (sweeping .searching .waitLock)).tx.sweep.st = .none := by decide +kernel
/-- An L-band RUN of CONV3 that waits for ALO_RX. -/
def lband : State := (aloRxAt .searching).modConv 3 (fun c => { c with loWait := true })
theorem witness_AloSearchFail_lband :
    ((lband.advance 0).convR 3).loWait = true ∧ ((after (.aloSearchFail 0 0) lband).life ⟨.conv, 3⟩).eff = .held := by decide +kernel

/-- FCAR0 on air in LO mode, and ALO_TX locked to its claim. -/
def onAirLo (st : AirSt) : State :=
  (inRun { base with
      aloTx := { Alo.reset with st := .locked, lock := true, freqHz := 98000000 }
      tx := { Tx.reset with profile := 1, claim := some 98000 } } .fcar 0 0).modAir false 0
    (fun a => { a with st := st, startAt := some 0, waitEnd := some 0 })
theorem witness_AloUnlock :
    ((onAirLo .onAir).alo 1).st = .locked ∧ (onAirLo .onAir).tx.claim.isSome = true ∧ (onAirLo .onAir).aloTx.ramp = [] ∧
    (false, 0) ∈ allCars ∧ ((onAirLo .onAir).air false 0).st = .onAir ∧
    ((after (.aloUnlock 0 1 drifted) (onAirLo .onAir)).air false 0).cause = .loLost ∧
    ((after (.aloUnlock 0 0 drifted) (aloRxAt .locked)).alo 0).st = .searching ∧
    ((after (.aloUnlock 0 0 still) (aloRxAt .locked)).alo 0).st = .locked := by decide +kernel

/-- ALO_TX ramps at the start of a running sweep, as the segments have passed or not. -/
def ramping (seg now : Nat) : State :=
  { sweeping .ramping .running with now := now, aloTx := { (sweeping .ramping .running).aloTx with seg := seg } }
theorem witness_RampSegmentEnd :
    (ramping 0 4096).aloTx.ramp[0 + 1]? = some ⟨200000000, 5, 4, true⟩ ∧ (ramping 1 4096).aloTx.ramp[1 + 1]? = none ∧
    (after (.rampSegmentEnd 0) (ramping 0 4096)).aloTx.seg = 1 ∧ (after (.rampSegmentEnd 0) (ramping 0 4095)).aloTx.seg = 0 ∧
    (after (.rampSegmentEnd 0) (ramping 1 4096)).tx.sweep.st = .none := by decide
theorem witness_SweepWires :
    (after (.cxGrant 0) base).tx.cxGnt = true ∧ base.tx.sweep.st ≠ .waitGrant ∧
    (after (.cxGrant 0) (sweeping .idle .waitGrant)).tx.sweep.st = .waitLock ∧
    (after (.cxWaitExpiry 0) (sweeping .idle .waitGrant)).tx.sweep.st = .none ∧
    fbit (sweeping .idle .waitLock).tx.profile txCxEn = true ∧ (after (.cxGntFall 0) (sweeping .idle .waitLock)).tx.cxReq = false ∧
    (after (.cxGntFall 0) (sweeping .ramping .running)).tx.sweep.st = .none ∧
    (after (.sweepPoint 0 { power := 0, phase := 0, clip := false, floor := false }) (ramping 0 1024)).tx.sweep.points = 1 ∧
    (after (.sweepPoint 0 { power := 0, phase := 0, clip := false, floor := false }) (ramping 0 1023)).tx.sweep.points = 0 := by decide +kernel

def direct (st : AirSt) : State := (inRun base .fcar 0 0).modAir false 0 (fun a => { a with st := st, startAt := some 0, waitEnd := some 0 })
/-- The same under DRIFT_OFF while DRIFT holds. -/
def drifting (st : AirSt) : State :=
  { direct st with tx := { Tx.reset with profile := 0x2000000 }, clk := { Clk.reset with holdover := true, d := 500 } }
theorem witness_CarrierStarts :
    ((direct .starting).advance 0).carLoOk = true ∧ (direct .starting).driftOff = false ∧ ((direct .starting).air false 0).offAt = none ∧
    ((after (.carrierStart false 0) (direct .starting)).air false 0).st = .onAir ∧ (drifting .starting).driftOff = true ∧
    ((after (.carrierStart false 0) (drifting .starting)).air false 0).cause = .drift ∧
    (after (.carrierResume false 0) (direct .offAir)).tx.paEn = true ∧ (onAirLo .starting).carLoOk = true ∧
    ((after (.carrierStart false 0) (onAirLo .starting)).air false 0).st = .onAir := by decide +kernel
theorem witness_LoWaitExpires :
    ((onAirLo .waitLo).air false 0).waitEnd = some 0 ∧ (((onAirLo .waitLo).advance 0).air false 0).st = .waitLo ∧
    ((after (.loWaitExpiry false 0) (onAirLo .waitLo)).life ⟨.fcar, 0⟩).eff = .held := by decide

/-- FCAR0 with RDS of FMD0, whose PI is confirmed or not, and its queue. -/
def rdsOnAir (pi : Option Word16) (q : List (Nat × List Word16 × Bool)) : State :=
  ((inRun base .fcar 0 (fset 0 fcRdsSrc 0)).modFmd 0 (fun r => { r with piConf := pi })).modFcar 0
    (fun x => { x with air := { AirRun.reset with st := .onAir }, queue := q })
theorem witness_RdsSlots :
    (rdsOnAir (some 0xC201) []).running .fcar 0 = true ∧ ((rdsOnAir (some 0xC201) []).fcarR 0).air.edits = [] ∧
    (rdsOnAir (some 0xC201) []).fcarInsert 0 0 = none ∧
    ((after (.rdsSlot 0 0) (rdsOnAir (some 0xC201) [(0, [0xC201, 0x8000, 1, 2], false)])).fcarR 0).last = [0xC201, 0x8000, 1, 2] ∧
    rdsAb [0xC201, 0x8000, 1, 2] = none ∧
    ((after (.rdsSlot 0 0) (rdsOnAir none [])).fcarR 0).rdsOn = false ∧
    ((after (.rdsSlot 0 0) (rdsOnAir (some 0xC201) [])).fcarR 0).fill = 1 := by decide +kernel

/-- The same with the four CIFs from count 0 on and their twelve FIBs from the engine. -/
def stored (s : State) : State :=
  { s with tx := { s.tx with sources := [⟨0xFF040000, (List.range 4).map (fun j => ⟨j, 7, 0, 0, []⟩), (List.range 12).map (fun j => ⟨7, j, true, zeros 30, 0⟩), []⟩] } }
/-- DCAR0 on air with EE0 as its source, locked or not, and ABSENT as given. -/
def dabOnAir (st : EeSync) (absent : Nat) : State :=
  (((inRun (inRun base .ee 0 0) .dcar 0 (fset (fset 0 dcSource 0xFF040000) dcAbsent absent)).modChan 0 0
    (fun c => { c with sync := st })).modDcar 0 (fun x => { x with air := { AirRun.reset with st := .onAir }, c0 := some 0 }))
theorem witness_DcarFrames :
    (dabOnAir .locked 0).running .dcar 0 = true ∧ (dabOnAir .locked 0).dcarAlive 0xFF040000 = true ∧
    ((dabOnAir .locked 0).dcarR 0).air.st = .onAir ∧ ((dabOnAir .locked 0).dcarR 0).c0.isSome = true ∧ (dabOnAir .locked 0).fenceMuted = false ∧
    ((dabOnAir .locked 0).airSrc 0xFF040000).frame (((dabOnAir .locked 0).dcarR 0).countAt 0) = none ∧
    ((after (.dcarFrame 0 0) (dabOnAir .locked 0)).dcarR 0).late = 1 ∧
    (((stored (dabOnAir .locked 0)).airSrc 0xFF040000).frame (((dabOnAir .locked 0).dcarR 0).countAt 0)).isSome = true ∧
    ((after (.dcarFrame 0 0) (stored (dabOnAir .locked 0))).dcarR 0).late = 0 ∧
    (dabOnAir .search 0).dcarAlive 0xFF040000 = false ∧
    ((after (.dcarFrame 0 0) (dabOnAir .search 0)).dcarR 0).absentSrc = true ∧
    ((after (.dcarFrame 0 0) (dabOnAir .search 1)).dcarR 0).air.cause = .absent := by decide +kernel
/-- FCAR0 on air whose measured level has been outside for the given number of ticks, and the same with its condition begun. -/
def offLevel (n : Nat) (out : Bool) : State := (direct .onAir).modAir false 0 (fun a => { a with levelTicks := n, levelOut := out })
theorem witness_LevelOut :
    ((offLevel 16 false).air false 0).st = .onAir ∧ (after (.levelOut 0 false 0) (offLevel 16 false)).cond fLevelOut = true ∧
    (after (.levelOut 0 false 0) (offLevel 15 false)).cond fLevelOut = false ∧
    (((offLevel 15 false).tickCar { levels := [100] } (false, 0)).air false 0).levelTicks = 16 ∧
    (((offLevel 16 true).tickCar { levels := [levelSet ((offLevel 16 true).life ⟨.fcar, 0⟩).cur] } (false, 0)).air false 0).levelOut = false := by decide +kernel

/-- DCAR0 on air in LO mode with 64 null symbols accumulated, and a FULL run that measures band 2. -/
def nulls (n : Nat) : State := { dabOnAir .locked 0 with tx := { Tx.reset with profile := 1, nulls := n } }
def fullRun : State :=
  base.modUnit 5 (fun c => { c with run := some ⟨.command, .measuring, false, 400, 0, 0, 2, 0, 1⟩ })
def txGood : CalMeas := { vals := [1, 0, 0, 0], spur := -600, image := -600 }
theorem witness_TxCalibration :
    (nulls 64).loMode = true ∧ (nulls 64).dcar.any (fun o => o.run.air.st == .onAir) = true ∧
    (after (.txcalInService 0 64 {}) (nulls 64)).tx.nulls = 0 ∧ (after (.txcalInService 0 64 {}) (nulls 63)).tx.nulls = 63 ∧
    (fullRun.unit 5).run.isSome = true ∧ (fullRun.unit 5).vals.length = 112 ∧
    ((after (.txcalFullEnd 0 txGood) fullRun).unit 5).run = none ∧
    txLimit txGood ((((fullRun.cal.factory.getD 5 []).drop 8).take 4)) none = none ∧ (fullRun.unit 5).newest.length = 112 ∧
    ((after (.txcalFullEnd 0 txGood) fullRun).unit 5).next.map (fun x => (decide (0 < x.1), x.2.getD 7 9, x.2.getD 8 9, x.2.getD 12 9)) = some (true, 0, 1, 0) ∧
    (txLimit { txGood with image := 0 } [] none).isSome = true ∧ ((after (.txcalFullEnd 0 { txGood with image := 0 }) fullRun).unit 5).next = none ∧
    (((base.modUnit 5 (fun c => { c with next := some (0, [7]) })).settleCal).unit 5).vals = [7] ∧
    (((base.modUnit 5 (fun c => { c with next := some (1, [7]) })).settleCal).unit 5).next = some (1, [7]) := by decide +kernel

def amplifier (r f : Option Nat) : State := { base with tx := { Tx.reset with profile := 2, paRiseAt := r, paFallAt := f, paEn := true } }
theorem witness_AmplifierPins :
    ((amplifier (some 0) none).advance 0).tx.paRiseAt.isSome = true ∧ (after .paEnRise (amplifier (some 0) none)).tx.paEn = true ∧
    (after .paEnFall (amplifier none (some 0))).tx.paEn = false ∧ (amplifier none (some 0)).yt7300 = true ∧ (amplifier none (some 0)).anyOnAir = false ∧
    (after (.yt7300Ramp 0 false) (amplifier none (some 0))).tx.paSlope.isSome = true ∧
    (after (.yt7300Ramp 0 true) { direct .starting with tx := { Tx.reset with profile := 2 } }).tx.paSlope.isSome = true := by decide

/-! ## Aerial inputs, the Stand-in, memory errors, supplies -/

/-- CONV0 in RUN with AGC, at a gain state and the boundary of Plain sample 4096. -/
def agcAt (lna att : Nat) : State :=
  (inRun { base with now := 4096 * 1024 } .conv 0 (tableReset 1280 convFields)).modConv 0 (fun c => { c with lna := lna, att := att })
theorem witness_AgcAttack :
    (agcAt 0 0).agcActs 0 4095 = true ∧ peakReaches 1627 2 = true ∧ peakReaches 1626 2 = false ∧ gainDb 0 30 = -30 ∧ -30 < gainDb 0 29 ∧
    ((after (.agcAttack 0 0 1627 false) (agcAt 0 30)).convR 0).limit = true ∧ (after (.agcAttack 0 0 1627 false) (agcAt 0 30)).cond fAgcLimit = true ∧
    ((after (.agcAttack 0 0 1627 false) (agcAt 0 29)).convR 0).nextGain = some (0, 30, 4097) ∧
    ((after (.agcAttack 0 0 1627 false) (agcAt 2 0)).convR 0).nextGain = some (2, 6, 4097) ∧
    ((after (.agcAttack 0 0 1626 false) (agcAt 2 0)).convR 0).nextGain = none := by decide +kernel
/-- CONV1 in RUN with its AGC frozen. -/
def frozen : State := inRun { base with now := 1024 } .conv 1 (fset (tableReset 1280 convFields) cvAgcFreeze 1)
theorem witness_AgcAttack_clip :
    frozen.running .conv 1 = true ∧ frozen.agcActs 1 0 = false ∧ ((after (.agcAttack 0 1 2048 true) frozen).convR 1).clipCnt = 1 := by decide +kernel
theorem witness_AgcRelease :
    64 * 2 ^ fget ((agcAt 0 0).convBlk 0) cvAgcHold = 4096 ∧ (agcAt 0 0).agcActs 0 0 = true ∧ gainDb 2 0 = 20 ∧ gainDb 0 0 < 20 ∧
    peakReaches 0 14 = false ∧ ((after (.agcRelease 0 0 0) (agcAt 0 0)).convR 0).nextGain = some ((ladder 1).1, (ladder 1).2, 4097) ∧
    ((after (.agcRelease 0 0 0) (agcAt 2 0)).convR 0).nextGain = none ∧
    ((after (.agcLimitEpisodeEnd 0 0 0) ((agcAt 0 30).modConv 0 (fun c => { c with limit := true }))).convR 0).limit = false := by decide +kernel
theorem witness_GainLadder : gainDb (ladder (-30)).1 (ladder (-30)).2 = -30 ∧ gainDb (ladder 20).1 (ladder 20).2 = 20 := by decide
/-- At Plain sample 0 with the clocks running, a gain step due at sample 1 and a blanking interval up to sample 1. -/
def stepping : State :=
  ({ base with clk := { Clk.reset with refQual := true, injecting := true, locked := true, divReset := true } } : State).modConv 0
    (fun c => { c with nextGain := some (1, 3, 1), blanking := true, blankEnd := 1 })
theorem witness_GainStepAndBlank :
    stepping.dueRefs = [] ∧ stepping.now < 1 * perSample ∧ ((after (.gainStep 0) stepping).convR 0).att = 3 ∧
    (after (.gainStep 0) stepping).now = 1024 ∧ ((after (.pselBlankEnd 0) stepping).convR 0).blanking = false := by decide +kernel

def standinAt (use : StandinUse) (stage : MatchStage) (fails : Nat) : State :=
  { base with standin := { Standin.reset with use := use, stage := stage, fails := fails, conn := some 2 } }
theorem witness_MatchWindow :
    (after .matchWindowOpen (standinAt (.visit 2) .settling 0)).standin.stageEnd = 64 * 65536 ∧
    (standinAt (.visit 2) .window 0).standin.matching = some 2 ∧
    (after (.matchWindowClose 1 2 3) (standinAt (.visit 2) .window 0)).standin.corr = (1, 2, 3) ∧
    base.failedConv 4 = false ∧ base.cal4Active = false ∧ base.rotaNext 0 = some 0 ∧ base.now % perFrame = 0 ∧
    (after (.standinVisit 0) base).standin.use = .visit 0 := by decide
theorem witness_StandinCheck :
    matchPasses 32 (-32) 16 = true ∧ matchPasses 33 0 0 = false ∧ matchPasses 0 33 0 = false ∧ matchPasses 0 0 17 = false ∧
    (after (.standinCheck 0 0 0) (standinAt (.visit 2) .check 0)).standin.rota = 3 ∧
    (after (.standinCheck 0 0 0) (standinAt (.take 2 false) .check 0)).standin.use = .carry 2 ∧
    (after (.standinCheck 0 0 0) (standinAt (.giveBack 2) .check 0)).standin.use = .idle ∧
    (after (.standinCheck 33 0 0) (standinAt (.take 2 false) .check 2)).standin.fails = 3 ∧
    (after (.standinCheck 33 0 0) (standinAt (.giveBack 2) .check 3)).standin.retry = true ∧
    (after (.standinCheck 33 0 0) (standinAt (.take 2 false) .check 3)).flag fStandinMatchFail = true ∧
    ((standinAt (.visit 2) .check 0).arrive 0).standin.stage = .check ∧ ((standinAt (.visit 2) .check 0).arrive 0).dueRefs = [] ∧
    ((after (.standinCheck 0 0 0) (standinAt (.giveBack 2) .check 0)).convR 2).leftFrom = some 0 := by decide +kernel
/-- ADC2 as a return left it at CK_RF count 0. -/
def left2 : ConvRun := { ConvRun.reset with left := (100, -40, 8), leftFrom := some 0 }
theorem witness_ReturnedCorrection :
    left2.leftFrom = some 0 ∧ left2.leftAt 0 = (100, -40, 8) ∧ left2.leftAt perFrame = (68, -8, 0) ∧ left2.leftAt (3 * perFrame) = (4, 0, 0) ∧
    left2.leftAt (4 * perFrame) = (0, 0, 0) := by decide
def failing (m : FailMove) : State := { base with standin := { Standin.reset with use := .failover 1, move := some m } }
def move : FailMove := ⟨1, 5, 7168, 15360, 0, 0, .clock, none, false, true, []⟩
theorem witness_ConverterFailure :
    stepping.failedConv 1 = false ∧ (stepping.life ⟨.conv, 1⟩).eff ≠ .closed ∧ stepping.standin.use = .idle ∧ stepping.standin.conn = none ∧
    (after (.convFail 0 1 0 .clock) stepping).standin.use = .failover 1 ∧ ((after (.convFail 0 4 0 .bias) stepping).convR 4).failed = some .bias ∧
    (after .crossbarMove (failing move)).standin.conn = some 1 ∧ (after .failoverSwitch (failing move)).standin.use = .carry 1 ∧
    move.other ≠ some move.input ∧ ((after .failoverSwitch (failing move)).convR 1).onStandin = true := by decide +kernel
theorem witness_MemoryErrors :
    (base.advance 0).phase = .released ∧ base.refOf 0xFF010005 = some ⟨.pass, 5⟩ ∧ base.refOf 0xFF050006 = some ⟨.prog, 6⟩ ∧
    base.refOf 0xFF060003 = some ⟨.port, 3⟩ ∧ (after (.eccCorr 0) base).flag fEccCorr = true ∧
    (after (.eccUncorr 0 ⟨.management, 0xFF000000, 0⟩) base).flags.halted = true ∧
    ((after (.eccUncorr 0 ⟨.plainPassDemod, 0xFF010005, 0⟩) base).passR 5).gapNext = 1 ∧
    ((after (.eccUncorr 0 ⟨.decoder, 0xFF050006, 0⟩) base).progR 6).restarting = true ∧
    ((after (.eccUncorr 0 ⟨.queues, 0xFF060003, 0⟩) base).portR 3).absentNext = true := by decide +kernel
theorem witness_SupplyWindows :
    base.health.warn.length = 6 ∧ base.health.fault.length = 6 ∧ base.health.warn.getD 5 false = false ∧
    [0, 0, 0, 0].all (fun mv => !insideWindow false 5 mv) = true ∧ [0, 0, 0, 0].all (fun mv => !insideWindow true 5 mv) = true ∧
    (after (.supplyWarn 0 5 [0, 0, 0, 0]) base).cond fSupplyWarn = true ∧ (after (.supplyFault 0 5 [0, 0, 0, 0]) base).cond fSupplyFault = true ∧
    ((after (.supplyWarn 0 5 [0, 0, 0, 0]) base).health.warn.getD 5 false) = true := by decide +kernel

/-! ## Passes, captures, demodulators -/

/-- PASS0 in RUN with a block. -/
def passRun (b : Blk) : State := inRun base .pass 0 b
def fmBlk : Blk := fset (fset (tableReset 1280 passFields) psClass 1) psRateK 5
theorem witness_PassBlocks :
    (passRun fmBlk).running .pass 0 = true ∧ (0 : Nat) ≤ frameEnd 40 ∧
    passFirst 0 fmBlk (40 * perFrame) < passFirst 0 fmBlk (41 * perFrame) ∧
    passFirst 0 fmBlk 0 + passSettle fmBlk < passFirst 0 fmBlk (41 * perFrame) ∧
    passFirst 0 fmBlk perFrame ≤ passFirst 0 fmBlk 0 + passSettle fmBlk ∧
    ((after (.passBlock 40 0 {}) (passRun fmBlk)).passR 0).gateOpen = true ∧
    ((after (.passBlock 0 0 {}) (passRun fmBlk)).passR 0).block = none ∧
    base.running .pass 0 = false ∧ ((after (.passBlock 40 0 {}) base).passR 0).block = none := by decide +kernel
def capturing : State := (inRun base .cap 3 0).modCap 3 (fun c => { c with count := 2, done := 2 })
theorem witness_PassGateAndCapture :
    ((passRun fmBlk).passR 0).gateOpen = false ∧ ((after (.settleGateOpen 0) (passRun fmBlk)).passR 0).gateOpen = true ∧
    capturing.running .cap 3 = true ∧ (capturing.capR 3).count ≠ 0 ∧ ((after (.capCountEnd 3) capturing).life ⟨.cap, 3⟩).eff = .held := by decide

/-- FMD0 and AMD0 in RUN on PASS0, which has or has not a block for Plain frame 40. -/
def demodding (cls : Nat) (has : Bool) : State :=
  (inRun (inRun (passRun (fset fmBlk psClass cls)) .fmd 0 (fset (tableReset 1280 fmdFields) dmPass 0)) .amd 0
    (fset (tableReset 1280 amdFields) dmPass 0)).modPass 0 (fun r => { r with past := if has then [(40, fset fmBlk psClass cls, [])] else [] })
theorem witness_DemodBlocks :
    (demodding 1 true).running .fmd 0 = true ∧ (demodding 1 true).passUsable 1 0 40 = true ∧ (demodding 2 true).passUsable 2 0 40 = true ∧
    (demodding 1 false).passUsable 1 0 40 = false ∧ (demodding 1 true).passUsable 2 0 40 = false ∧
    ((after (.demodBlock 40 false 0 {}) (demodding 1 true)).fmdR 0).core.began.isSome = true ∧
    ((after (.demodBlock 40 true 0 {}) (demodding 2 true)).amdR 0).core.began.isSome = true ∧
    ((after (.demodBlock 40 false 0 {}) (demodding 1 false)).fmdR 0).core.began = none ∧
    ((after (.demodBlock 40 true 0 {}) (demodding 2 false)).amdR 0).core.out.isSome = true := by decide +kernel

/-- FMD0 and AMD0 that have begun, the loops in given states. -/
def looping (p : PilotSt) (good : Nat) (l : Bool) : State :=
  ((demodding 1 true).modFmd 0 (fun r => { r with pilot := p, goodWindows := good, rds := .search, core := { r.core with began := some 0 } })).modAmd 0
    (fun r => { r with locked := l, amss := .search, amssGood := 1, amssBad := 3, core := { r.core with began := some 0 } })
theorem witness_DemodGates :
    (after (.fmdGateOpen 0) (looping .absent 0 false)).running .fmd 0 = true ∧
    ((after (.fmdConcealLimit 0 0) (looping .absent 0 false)).fmdR 0).core.fade = 32 ∧
    ((after (.amdConcealLimit 0 0) (looping .absent 0 false)).amdR 0).core.fade = 32 := by decide
theorem witness_LoopWindows :
    (255 + 1) % 128 = 0 ∧ 50 * fget ((looping .locked 0 true).life ⟨.fmd, 0⟩).cur fmPilotMin = 300 ∧
    ((after (.pilotWindowEnd 255 0 249 0) (looping .locked 0 true)).fmdR 0).pilot = .acquiring ∧
    ((after (.pilotWindowEnd 255 0 250 200) (looping .locked 0 true)).fmdR 0).pilot = .locked ∧
    ((after (.pilotWindowEnd 255 0 300 201) (looping .locked 0 true)).fmdR 0).pilot = .acquiring ∧
    ((after (.pilotWindowEnd 255 0 49 0) (looping .locked 0 true)).fmdR 0).pilot = .absent ∧
    ((after (.pilotWindowEnd 255 0 300 100) (looping .acquiring 1 true)).fmdR 0).pilot = .locked ∧
    ((after (.pilotWindowEnd 255 0 300 101) (looping .acquiring 1 true)).fmdR 0).pilot = .acquiring ∧
    ((after (.carrierWindowEnd 255 0 251 0) (looping .locked 0 true)).amdR 0).locked = false ∧
    ((after (.carrierWindowEnd 255 0 250 0) (looping .locked 0 true)).amdR 0).locked = true ∧
    ((after (.carrierWindowEnd 255 0 100 0) (looping .locked 0 false)).amdR 0).locked = true := by decide +kernel
def rdsSynced (cand last : Option Word16) : State :=
  (looping .locked 0 true).modFmd 0 (fun r => { r with rds := .sync, piCand := cand, piLast := last })
/-- The four blocks of a group with PI 0xC201, their check words worked out by hand from the generator and the offset words. -/
def blockA : BitVec 26 := 0x308066D
def blockB : BitVec 26 := 0x01021EB
def blockC : BitVec 26 := 0x38335E9
def blockD : BitVec 26 := 0x08080DC
theorem witness_RdsSyncLoss :
    ((looping .locked 0 true).fmdR 0).rds = .search ∧ rdsFollows (rdsOffsetOf false blockA) (rdsOffsetOf false blockB) = true ∧
    rdsFollows (rdsOffsetOf false blockA) (rdsOffsetOf false blockA) = false ∧
    ((after (.rdsSync 0 0 (some (blockA, blockB))) (looping .locked 0 true)).fmdR 0).rds = .sync ∧
    ((after (.rdsSync 0 0 (some (blockA, blockA))) (looping .locked 0 true)).fmdR 0).rds = .search ∧ (rdsSynced none none).running .fmd 0 = true ∧
    ((after (.rdsLoss 0 0 true) (rdsSynced none none)).fmdR 0).rds = .search ∧
    ((after (.rdsLoss 0 0 false) (rdsSynced none none)).fmdR 0).rds = .sync := by decide +kernel
/-- A block as sent, with a burst of two bits, of five, and of six; under DETECT, SMALL and LARGE. -/
theorem witness_RdsCorrection :
    (rdsBlock 0 false 0 blockA).1 = ⟨0xC201, .a, .ok⟩ ∧ (rdsBlock 0 false 0 (blockA ^^^ 0x30000)).1.stat = .bad ∧
    (rdsBlock 1 false 0 (blockA ^^^ 0x30000)).1 = ⟨0xC201, .a, .corrSmall⟩ ∧ (rdsBlock 1 false 0 (blockA ^^^ 0x1F0000)).1.stat = .bad ∧
    (rdsBlock 2 false 0 (blockA ^^^ 0x1F0000)).1 = ⟨0xC201, .a, .corrLarge⟩ ∧ (rdsBlock 2 false 2 blockC).1 = ⟨0xE0CD, .c, .ok⟩ := by decide +kernel
def groupIn : RdsGroupIn := ⟨some ([blockA, blockB, blockC, blockD], 80, 0)⟩
/-- The group as FMD0 decodes it. -/
def group (s : State) : RdsGroup := rdsDecode groupIn 0 false (s.fmdR 0).path 0
theorem witness_RdsPi :
    piOf (group (rdsSynced none none)) 0 .a = some 0xC201 ∧ piOf (group (rdsSynced none none)) 2 .cPrime = none ∧ fget ((rdsSynced none none).life ⟨.fmd, 0⟩).cur fmRdsMode = 1 ∧
    ((after (.rdsGroup 0 0 groupIn) (rdsSynced none none)).fmdR 0).piCand = some 0xC201 ∧
    ((after (.rdsGroup 0 0 groupIn) (rdsSynced (some 0xC201) (some 0xC201))).fmdR 0).piConf = some 0xC201 := by decide +kernel
theorem witness_AmssBlocks :
    ((looping .locked 0 true).amdR 0).amss ≠ .off ∧ ((after (.amssBlock 0 0 ⟨1, true, 0, 0, 0, [], false⟩) (looping .locked 0 true)).amdR 0).amss = .sync ∧
    ((after (.amssBlock 0 0 ⟨1, true, 0, 0, 0, [], false⟩) (looping .locked 0 false)).amdR 0).amssBad = 4 := by decide +kernel

/-! ## The Timebase, PTM, pulse inputs, Cues, calibration runs -/

def slewing : State := { base with tb := { base.tb with slew := some ⟨256, 100, 0⟩ } }
theorem witness_SlewDone : slewing.tb.slew.isSome = true ∧ (after .tbSlewDone slewing).tb.slew = none ∧ (after .tbSlewDone slewing).tb.inc = base.tb.inc := by decide

/-- PTM enabled with a period, and the dialog under way since CK_RF count 0, at a count. -/
def ptm (t1 : Option (Nat × Nat)) (now : Nat) : State :=
  { base with now := now, tb := { base.tb with profile := fset base.tb.profile tpPtmPeriod 3, ptmEnabled := true, ptmT1 := t1 } }
theorem witness_PtmDialog :
    fget (ptm none 0).tb.profile tpPtmPeriod ≠ 0 ∧ (ptm none 0).boot.ready = true ∧ (after (.ptmDialogStart 0) (ptm none 0)).tb.ptmDialogs = 1 ∧
    (after (.ptmResponse 0 1000 10) (ptm (some (0, 0)) 0)).slates.length = 1 ∧
    (after (.ptmTimeout 0) (ptm (some (0, 0)) 983040)).tb.ptmT1 = none ∧
    (after (.ptmTimeout 0) (ptm (some (0, 0)) 983039)).tb.ptmT1.isSome = true := by decide +kernel

/-- PPS_IN with a mode and a burst. -/
def pulseAt (mode : BitVec 2) (b : Option Burst) : State := base.modPulse 0 (fun p => { p with mode := mode, burst := b })
def burst (n : Nat) : Burst := ⟨1000, false, 0, n, n, 1000, false⟩
theorem witness_PulseBursts :
    0 < base.pulses.length ∧ ((pulseAt 2 none).pulseSettle 0).pulses = (pulseAt 2 none).pulses ∧ edgeActive 0 false = true ∧
    ((after (.pulseEdge 0 0 0 false) (pulseAt 2 none)).pulse 0).burst.isSome = true ∧
    ((after (.pulseEdge 0 0 0 true) (pulseAt 2 none)).pulse 0).burst.isSome = false ∧
    ((after (.pulseEdge 0 63 0 false) (pulseAt 2 (some (burst 14)))).pulse 0).burst.map Burst.now = some 15 ∧
    ((after (.pulseEdge 0 63 0 false) (pulseAt 2 (some (burst 15)))).pulse 0).burst.map Burst.overflow = some true ∧
    ((after (.pulseEdge 0 0 0 false) base).pulse 0).burst = none ∧
    ((after (.handshakeEnd 0) (pulseAt 1 (some (burst 0)))).pulse 0).mode = 0 ∧
    ((after (.handshakeEnd 0) (pulseAt 2 (some (burst 0)))).pulse 0).burst = none := by decide
/-- PPS_IN armed EVERY under supervision, 1.1 s after its arming or one CK_RF cycle less. -/
def gapAt (now : Nat) (raised : Bool) : State :=
  ({ base with now := now } : State).modPulse 0 (fun p => { p with mode := 2, supervise := true, gapRaised := raised })
theorem witness_PpsGap :
    (gapAt 1081344000 false).pulses ≠ [] ∧ (after (.ppsMissing 0) (gapAt 1081344000 false)).cond fPpsLost = true ∧
    (after (.ppsMissing 0) (gapAt 1081343999 false)).cond fPpsLost = false ∧
    (after (.ppsMissing 0) (gapAt 1081344000 true)).slates = [] := by decide +kernel

/-- CUE1 in RUN, of COUNT 2, WIDTH 1000 ns and PERIOD 1 ms, with a pulse due at Timebase 0, or one in progress. -/
def cueBlk : Blk := BitVec.ofNat 1280 (1000000 * 2 ^ 96 + 1000 * 2 ^ 128 + 2 * 2 ^ 160)
def cued (emitted : Nat) (pulseEnd : Option Nat) (last : Bool) : State :=
  (inRun base .cue 1 cueBlk).modCue 1 (fun c => { c with next := some 0, emitted := emitted, pulseEnd := pulseEnd, lastDone := last })
theorem witness_CuePulses :
    (cued 0 none false).running .cue 1 = true ∧ ((after (.cue 1) (cued 0 none false)).cueR 1).next = some 256000000 ∧
    ((after (.cue 1) (cued 1 none false)).cueR 1).next = none ∧ ((after (.cueWidthEnd 1) (cued 2 (some 0) false)).cueR 1).pulseEnd = none ∧
    (cued 2 (some 0) true).dueRefs = [] ∧ ((cued 2 (some 0) true).life ⟨.cue, 1⟩).cmd = .run ∧
    ((after (.cueWidthEnd 1) (cued 2 (some 0) true)).life ⟨.cue, 1⟩).cmd = .held := by decide +kernel

/-- CONV2 in a calibration run. -/
def calibrating (st : CalStage) : State := base.modUnit 2 (fun c => { c with run := some ⟨.command, st, false, 400, 0, 0, 0, 0, 1⟩ })
theorem witness_CalibrationRuns :
    ((calibrating .settling).unit 2).run.isSome = true ∧
    (((after (.calMeasureStart 0 2) (calibrating .settling)).unit 2).run.map CalRun.stage) = some .measuring ∧
    convLimit { vals := List.replicate 256 0, spur := -850 } [] none 0 = none ∧ (convLimit { vals := [], spur := -849 } [] none 0).isSome = true ∧
    ((after (.calMeasureEnd 0 2 { vals := List.replicate 256 0, spur := -900 }) (calibrating .measuring)).unit 2).run = none ∧
    ((after (.calMeasureEnd 0 2 { vals := List.replicate 256 0, spur := -800 }) (calibrating .measuring)).unit 2).fails = 1 ∧
    (after (.calMeasureEnd 0 2 { vals := List.replicate 256 0, spur := -800 }) (calibrating .measuring)).flag fCalFail = true := by decide +kernel

/-! ## Following, inserts -/

/-- PROG0 on FMD0, which gives a signal, with two candidates: the home source in a state, and one of 99.5 MHz that nothing receives. -/
def cand (flags khz : Nat) (st : CandSt) : Cand := newCand ⟨0, flags, 0, khz, 0, 0⟩ 0 st
def followAt (active : Nat) (pol : BitVec 128) (a b : Cand) : State :=
  (((inRun (inRun base .fmd 0 0) .prog 0 (fset 0 pgSource 0xFF020000)).modFmd 0 (fun r => { r with core := { r.core with absent := false } })).modFollow 0
    (fun f => { f with policy := pol, st := .following, active := active, cands := [a, b] }))
def pol : BitVec 128 := tableReset 128 afFields
def home (st : CandSt) : Cand := cand 1 0 st
def other (st : CandSt) : Cand := cand 0 99500 st
def later (s : State) : State := { s with now := rfHz }
/-- PROG0 on FMD0 and PASS0 at 98 MHz with CONV0 in RUN, and the candidate of 99.5 MHz idle: background objects can be opened. -/
def openable : State :=
  inRun (inRun (followAt 0 pol (home .active) (other .idle)) .conv 0 (tableReset 1280 convFields)) .pass 0 (fset (fset (resetBlk .pass) psClass 1) psTune 428168533)
def candSt (s : State) (k : Nat) : Option CandSt := ((s.follow 0).cand k).map Cand.st
theorem witness_FollowProbes :
    (followAt 1 pol (home .idle) (other .active)).candLive 0 0 = true ∧ ((followAt 1 pol (home .idle) (other .active)).candOrigin 0 0).isSome = true ∧
    candSt (after (.followProbeStart 0 0 0) (followAt 1 pol (home .idle) (other .active))) 0 = some .probe ∧
    ((followAt 0 (fset pol afMaxBg 0) (home .active) (other .idle)).candOrigin 0 1).isSome = false ∧
    (((followAt 0 (fset pol afMaxBg 0) (home .active) (other .idle)).releaseCand 0 1).openBackground 0 1).isSome = false ∧
    candSt (after (.followProbeStart 0 0 1) (followAt 0 (fset pol afMaxBg 0) (home .active) (other .idle))) 1 = some .starved ∧
    (followAt 1 pol { home .probe with q := some 0 } (other .active)).eligible 0 0 = true ∧
    (followAt 1 pol { home .probe with q := some 0 } (other .active)).candProg 0 0 = some 0 ∧
    (-24 : Int) ≤ ({ home .probe with q := some 0 }).q4 ∧
    candSt (after (.probeEnd 0 0 0) (later (followAt 1 pol { home .probe with q := some 0 } (other .active)))) 0 = some .aligning ∧
    (home .probe).since + probeSpan (home .probe).entry.std = rfHz ∧
    (followAt 0 pol (home .active) (other .probe)).eligible 0 1 = false ∧
    candSt (after (.probeEnd 0 0 1) (later (followAt 0 pol (home .active) (other .probe)))) 1 = some .ineligible ∧
    candSt (after (.probeEnd 0 0 1) (followAt 0 pol (home .active) (other .probe))) 1 = some .probe ∧
    (openable.candOrigin 0 1).isSome = false ∧ ((openable.releaseCand 0 1).openBackground 0 1).isSome = true ∧
    candSt (after (.followProbeStart 0 0 1) openable) 1 = some .probe := by decide +kernel
theorem witness_FollowAlign :
    fbit pol afAllowUnaligned = false ∧
    candSt (after (.alignTimeout 0 0 0) { followAt 1 pol (home .aligning) (other .active) with now := 30 * rfHz }) 0 = some .ineligible ∧
    candSt (after (.alignTimeout 0 0 0) { followAt 1 pol (home .aligning) (other .active) with now := 30 * rfHz - 1 }) 0 = some .aligning := by decide

/-- A window of nothing correlates with nothing. -/
theorem corrOf_zeros (m : Nat) (ys : List Int) : (corrOf (List.replicate m 0) ys).cross = 0 := by
  have h : ∀ (m : Nat) (ys : List Int), (((List.replicate m (0 : Int)).zip ys).map (fun v => v.1 * v.2)).sum = 0 := by
    intro m
    induction m with
    | zero => simp
    | succ m ih =>
      intro ys
      cases ys with
      | nil => simp
      | cons y ys => simp [List.replicate_succ, ih]
  simp [corrOf, h]
/-- Where nothing correlates the best place found stays. -/
theorem fold_zeros (lo : Int) (m : Int × Corr) (cs : List Corr) (i : Nat) (h : ∀ c, c ∈ cs → c.cross = 0) :
    (indexed i cs).foldl (fun (m : Int × Corr) x => if x.2.over m.2 then (lo + x.1, x.2) else m) m = m := by
  induction cs generalizing i with
  | nil => rfl
  | cons c cs ih =>
    have hc : c.cross = 0 := h c (by simp)
    simp only [indexed, List.foldl_cons, Corr.over, hc]
    simp only [Int.lt_irrefl, decide_false, Bool.false_and, Bool.false_eq_true, if_false]
    exact ih (i + 1) (fun d hd => h d (by simp [hd]))
/-- An envelope of one impulse, newest first; the active source's history with it and without, and a candidate's. -/
def spike (n : Nat) : List Int := 1 :: List.replicate n 0
def spiked : PoolArea := ⟨1, [], 0, spike 8999, 0⟩
def flat : PoolArea := ⟨1, [], 0, List.replicate 9000 0, 0⟩
def heard (k : Nat) : PoolArea := ⟨k, [], 0, List.replicate 2500 0 ++ spike 3999, 0⟩
theorem spike_corr : corrOf (spike 3999) (spike 3999) = ⟨3999, 3999, 3999⟩ := by decide +kernel
theorem heard_env (k : Nat) : (((heard k).env.drop ((heard k).envLast - 0 + 2500)).take 4000) = spike 3999 ∧ (heard k).env.length = 6500 := by
  have h : ((heard 0).env.drop (0 - 0 + 2500)).take 4000 = spike 3999 ∧ (heard 0).env.length = 6500 := by decide +kernel
  exact h
theorem zeros_window (n j : Nat) : (((List.replicate n (0 : Int)).drop j).take 4000) = List.replicate (min 4000 (n - j)) 0 := by
  rw [List.drop_replicate, List.take_replicate]
/-- The first lag alone correlates. -/
theorem best_first (lo : Int) (c : Corr) (f : Nat → Corr) (n : Nat) (h0 : f 0 = c) (hc : (0 : Int) < c.cross)
    (h : ∀ k, (f (k + 1)).cross = 0) : bestLag lo ((List.range (n + 1)).map f) = (lo, c) := by
  have e : (List.range (n + 1)).map f = c :: (List.range n).map (fun k => f (k + 1)) := by
    rw [List.range_succ_eq_map, List.map_cons, List.map_map, h0]; rfl
  unfold bestLag
  rw [e]
  simp only [indexed, List.foldl_cons, Corr.over, hc, decide_true, Bool.true_and]
  simp only [Int.le_refl, decide_true, Bool.true_or, if_true, Int.natCast_zero, Int.add_zero]
  exact fold_zeros lo (lo, c) _ 1 (fun d hd => by
    obtain ⟨k, _, rfl⟩ := List.mem_map.mp hd; exact h k)
/-- The coarse measurement finds the impulse 2.5 s away, and nothing in silence. -/
theorem coarse_spiked (k : Nat) : coarse spiked (heard k) = some (-2500, ⟨3999, 3999, 3999⟩) := by
  unfold coarse
  have hn : min spiked.envLast (heard k).envLast = 0 := rfl
  have hl : spiked.env.length = 9000 := by decide +kernel
  simp only [hn]
  rw [(heard_env k).1, (heard_env k).2, hl]
  rw [if_neg (by show ¬(6500 < 0 - 0 + 6500 ∨ 9000 < 0 - 0 + 9000); decide)]
  refine congrArg some ?_
  refine best_first _ _ (fun j => corrOf ((spiked.env.drop (spiked.envLast - 0 + j)).take 4000) (spike 3999)) 5000 ?_ (by decide) ?_
  · have : ((spiked.env.drop (spiked.envLast - 0 + 0)).take 4000) = spike 3999 := by decide +kernel
    show corrOf ((spiked.env.drop (spiked.envLast - 0 + 0)).take 4000) (spike 3999) = _
    rw [this, spike_corr]
  · intro j
    have : (spiked.env.drop (spiked.envLast - 0 + (j + 1))) = (List.replicate 8999 (0 : Int)).drop j := by
      show (spike 8999).drop (0 - 0 + (j + 1)) = _
      rw [Nat.sub_self, Nat.zero_add]; rfl
    show (corrOf ((spiked.env.drop (spiked.envLast - 0 + (j + 1))).take 4000) (spike 3999)).cross = 0
    rw [this, zeros_window]; exact corrOf_zeros _ _
theorem coarse_flat (k : Nat) : coarse flat (heard k) = some (0, ⟨0, 0, 0⟩) := by
  unfold coarse
  have hn : min flat.envLast (heard k).envLast = 0 := rfl
  have hl : flat.env.length = 9000 := by decide +kernel
  simp only [hn]
  rw [(heard_env k).1, (heard_env k).2, hl]
  rw [if_neg (by show ¬(6500 < 0 - 0 + 6500 ∨ 9000 < 0 - 0 + 9000); decide)]
  refine congrArg some ?_
  unfold bestLag
  refine fold_zeros _ _ _ 0 (fun d hd => ?_)
  obtain ⟨j, _, rfl⟩ := List.mem_map.mp hd
  show (corrOf (((List.replicate 9000 (0 : Int)).drop (flat.envLast - 0 + j)).take 4000) (spike 3999)).cross = 0
  rw [zeros_window]; exact corrOf_zeros _ _
def aligningAt (d : Option Int) : Cand := { home (if d.isSome then .ready else .aligning) with lags := [-120000, -119910], delta := d, miss := 2 }
def measuring (a : PoolArea) (d : Option Int) : State :=
  (followAt 1 pol (aligningAt d) (other .active)).modProg 0 (fun r => { r with pool := [a, heard 0] })
theorem witness_FollowAlign_measures :
    (measuring spiked none).candLive 0 0 = true ∧ ((measuring spiked none).follow 0).cand 0 = some (aligningAt none) ∧
    coarse (((measuring spiked none).progR 0).area ((measuring spiked none).follow 0).active) (((measuring spiked none).progR 0).area 0) =
      some (-2500, ⟨3999, 3999, 3999⟩) ∧
    (aligningAt none).lags.length = 2 ∧ (aligningAt none).lags.all (agree (48 * (-2500))) = true ∧
    (⟨3999, 3999, 3999⟩ : Corr).atLeast (fget pol afCorrMin) = true :=
  ⟨by decide +kernel, by decide +kernel, coarse_spiked 0, by decide +kernel, by decide +kernel, by decide +kernel⟩
theorem witness_FollowAlign_misses :
    (measuring flat (some 7)).candLive 0 0 = true ∧ ((measuring flat (some 7)).follow 0).cand 0 = some (aligningAt (some 7)) ∧
    coarse (((measuring flat (some 7)).progR 0).area ((measuring flat (some 7)).follow 0).active) (((measuring flat (some 7)).progR 0).area 0) =
      some (0, ⟨0, 0, 0⟩) ∧
    (aligningAt (some 7)).st = .ready ∧ (aligningAt (some 7)).miss = 2 ∧ (⟨0, 0, 0⟩ : Corr).atLeast (fget pol afCorrMin) = false :=
  ⟨by decide +kernel, by decide +kernel, coarse_flat 0, by decide +kernel, by decide +kernel, by decide +kernel⟩

/-- A change from the home source to the standby, started or not, and a suspended service whose offsets are kept until 0. -/
def changing (started : Bool) : State :=
  (followAt 0 pol (home .active) { other .standby with delta := some 0 }).modFollow 0
    (fun f => { f with standby := some 1, change := some ⟨1, 0, 0, false, false, started⟩ })
def suspended : State := (changing false).modFollow 0 (fun f => { f with st := .suspended, keepUntil := some 0 })
/-- The same with a standby whose place needs a history of `d` frames, of which its pool area holds two. -/
def pooled (d : Int) : State :=
  ((changing false).modFollow 0 (fun f => { f with bSb := d })).modProg 0
    (fun r => { r with pool := [⟨1, [none, none], 2, [], 0⟩] })
theorem witness_FollowChanges :
    ((changing false).follow 0).standby = some 1 ∧ ((changing false).advance 0).followed 0 = true ∧
    ((changing false).follow 0).bSb = 0 ∧ (((after (.poolFilled 0 0) (changing false)).follow 0).cands.map Cand.usable) = [false, true] ∧
    ((pooled 48).follow 0).bSb = 48 ∧ (((after (.poolFilled 0 0) (pooled 48)).follow 0).cands.map Cand.usable) = [false, false] ∧
    (((after (.poolFilled 0 0) (pooled 2)).follow 0).cands.map Cand.usable) = [false, true] ∧
    ((after (.crossfadeStart 0) (changing false)).follow 0).switches = 1 ∧ ((after (.crossfadeEnd 0) (changing true)).follow 0).change = none ∧
    ((after (.offsetRetentionEnd 0) suspended).follow 0).cands = [] := by decide +kernel

/-- Insert 0 for PROG0, about to start, to stop, or in a crossfade, at 0; LOSS set and its source failing. -/
def insertAt (f : Insert → Insert) (r : ProgRun → ProgRun) : State :=
  ((inRun base .prog 0 0).modProg 0 r).modInsert 0 (fun n => f { n with active := true })
theorem witness_InsertBoundaries :
    ((insertAt (fun n => { n with startAt := some 0, starting := [0] }) id).insertR 0).startAt = some 0 ∧
    (((insertAt (fun n => { n with startAt := some 0, starting := [0] }) id).advance 0).feedStep.insertR 0).starting = [0] ∧
    ((after (.insertOn 0) (insertAt (fun n => { n with startAt := some 0, starting := [0] }) id)).progR 0).insert = some 0 ∧
    (((insertAt (fun n => { n with stopAt := some 0, stopping := [0], members := [0] }) (fun p => { p with insert := some 0, insertFrom := some 0 })).advance 0).feedStep.insertR 0).stopping = [0] ∧
    ((after (.insertOff 0) (insertAt (fun n => { n with stopAt := some 0, stopping := [0], members := [0] })
      (fun p => { p with insert := some 0, insertFrom := some 0 }))).progR 0).insertTo = some 0 ∧
    ((after (.insertOff 0) (insertAt (fun n => { n with stopAt := some 0, stopping := [0], members := [0] })
      (fun p => { p with insert := some 0 }))).progR 0).insert = none ∧
    ((insertAt (fun n => { n with fadeFrom := some 0, members := [0] }) (fun p => { p with insert := some 0, insertTo := some 0 })).insMembers 0) = [0] ∧
    ((after (.insertCrossfadeEnd 0) (insertAt (fun n => { n with fadeFrom := some 0, members := [0] })
      (fun p => { p with insert := some 0, insertTo := some 0 }))).progR 0).insert = none ∧
    ((after (.insertCrossfadeEnd 0) (insertAt (fun n => { n with fadeFrom := some 0, members := [0] })
      (fun p => { p with insert := some 0 }))).progR 0).insert = some 0 := by decide +kernel
def underrunning (u : Bool) (fallback : Nat) : State :=
  insertAt (fun n => { n with onAt := some 0, underrun := u, inl := BitVec.ofNat 320 (fallback * 2 ^ 88) }) id
theorem witness_InsertUnderruns :
    (((underrunning false 0).advance 0).feedStep.insertR 0).reads = true ∧
    ((underrunning false 0).advance 0).feedStep.insertFails (((underrunning false 0).advance 0).feedStep.insertR 0) = true ∧
    (after (.insertUnderrun 0 0) (underrunning false 0)).flag fInsertUnderrun = true ∧
    ((((underrunning true 1).advance 0).feedStep.insertR 0).underrun = true) ∧
    ((after (.insertLossTimeout 0) (underrunning true 1)).insertR 0).cause = .sourceLost ∧
    ((after (.insertLossTimeout 0) (underrunning true 0)).insertR 0).stopAt = none := by decide +kernel

/-! ## Ensemble engines, side data -/

/-- EE1 in RUN of a standard on PASS5, its channel 0 in a state. -/
def engine (std : Nat) (f : EeChan → EeChan) : State :=
  (inRun base .ee 1 (fset (fset (fset (tableReset 1280 eeFields) eeStd std) (eePass 0) 5) eeTiiEn 1)).modChan 1 0 f
def inSync (st : EeSync) (mode : Nat) : EeChan → EeChan := fun c => { c with sync := st, mode := mode }
/-- Channel 0 with its signal path changed. -/
def pathed (f : EePath → EePath) (g : EeChan → EeChan) : EeChan → EeChan := fun c => { g c with path := f c.path }
/-- A decision of a ratio, of a frame that begins at the working sample of the same number; a candidate in a place, decided or not. -/
def verdict (ratio : Nat) : EeTest := ⟨ratio, 1000, ratio, 0, 0, 0, 0⟩
def found (taken : Nat) (ratio : Option Nat) : EeCand := ⟨some 0, ratio.map verdict, taken⟩
def withCands (std mode : Nat) (st : EeSync) (cs : List EeCand) : State := engine std (pathed (fun q => { q with cands := cs }) (inSync st mode))
theorem witness_EngineSync :
    ({ EePath.reset with cands := [found 2 none, found 0 none] }).cand 0 = some (found 0 none) ∧ (withCands 0 0 .search [found 0 none]).chanOn 1 0 = true ∧
    ((withCands 0 0 .search [found 0 none]).chan 1 0).sync = .search ∧ prsThr ((engine 0 id).eeBlk 1) = 120 ∧
    ((after (.nullCandidate 0 1 0) (withCands 0 0 .search [found 0 none])).chan 1 0).sync = .candidate ∧
    ((after (.nullCandidate 0 1 0) (withCands 0 0 .search [found 0 none])).chan 1 0).path.cand 1 = some (found 1 none) ∧
    ((after (.nullCandidate 0 1 0) (withCands 0 0 .locked [found 0 none])).chan 1 0).sync = .locked ∧
    ((after (.nullCandidate 0 1 0) (withCands 0 0 .locked [found 0 none])).chan 1 0).path.cand 2 = some (found 2 none) ∧
    ((after (.prsTest 0 1 0 true) (withCands 0 0 .locked [found 2 (some 119)])).chan 1 0).path.cands = [] ∧ 0 < ((engine 0 id).eeR 1).chans.length := by decide +kernel
/-- What PRS_TEST leaves of channel 0 with such candidates: the state, the frame that its tracking begins with, the candidates' places. -/
def prsLeaves (std : Nat) (cs : List EeCand) : EeSync × Option Nat × List Nat :=
  let c := (after (.prsTest 0 1 0 false) (withCands std std .candidate cs)).chan 1 0
  (c.sync, c.path.track.map EeTrack.first, c.path.cands.map EeCand.taken)
theorem witness_EngineSync_tests :
    (withCands 0 0 .candidate [found 1 (some 120)]).decided 1 (some (found 1 (some 120))) = some (verdict 120, true) ∧
    (withCands 0 0 .candidate [found 1 (some 119)]).decided 1 (some (found 1 (some 119))) = some (verdict 119, false) ∧
    prsLeaves 0 [found 1 (some 120)] = (.sync, some 120, []) ∧ (prsLeaves 0 [found 1 (some 120), found 2 (some 130)]).2.1 = some 130 ∧
    (prsLeaves 0 [found 1 (some 130), found 2 (some 120)]).2.1 = some 130 ∧ (prsLeaves 0 [found 1 (some 119), found 2 (some 120)]).2.1 = some 120 ∧
    prsLeaves 0 [found 1 (some 119)] = (.search, none, []) ∧ prsLeaves 0 [found 1 (some 119), found 2 (some 118)] = (.search, none, []) ∧
    prsLeaves 0 [found 1 (some 119), found 2 none] = (.candidate, none, [1]) ∧ (prsLeaves 1 [found 1 (some 120)]).1 = .candidate ∧
    (prsLeaves 1 [found 1 (some 120)]).2.1 = some 120 := by decide +kernel
def peaked (l : List Nat) : State := engine 1 (pathed (fun q => { q with peaks := l }) (inSync .search 0xFF))
theorem witness_DrmMode :
    (peaked [333, 500, 0, 333]).eeStdOf 1 = 1 ∧ fget ((engine 1 id).eeBlk 1) eeDrmMode = 0 ∧ (peaked [333, 500, 0, 333]).chanOn 1 0 = true ∧
    ((after (.drmModeDetect 0 1 0) (peaked [333, 500, 0, 333])).chan 1 0).mode = 2 ∧
    ((after (.drmModeDetect 0 1 0) (peaked [334, 500, 0, 333])).chan 1 0).mode = 0xFF ∧
    ((after (.drmModeDetect 0 1 0) (peaked [0, 499, 0, 0])).chan 1 0).mode = 0xFF := by decide +kernel
/-- Channel 0 in a state, tracking, with so many frames in a row that failed, its offset moved, and two frames' arrivals. -/
def tracking (std mode : Nat) (st : EeSync) (run : Nat) (moved delay : Int) : State :=
  engine std (pathed (fun q => { (q.start std (verdict 120)) with
    track := (q.start std (verdict 120)).track.map (fun k => { k with freq := k.freq0 + moved })
    lossRun := run, arrivals := List.replicate 2 [⟨0, 100⟩, ⟨delay, 1000⟩], tiiSet := [(1, 1, -40)] }) (inSync st mode))
theorem witness_EngineLoss :
    (tracking 0 0 .locked 4 0 505).chanOn 1 0 = true ∧ ((tracking 0 0 .locked 4 0 505).chan 1 0).sync.up = true ∧ fget ((engine 0 id).eeBlk 1) eeLossN = 4 ∧
    ((after (.eeLoss 0 1 0) (tracking 0 0 .locked 4 0 0)).chan 1 0).sync = .search ∧
    ((after (.eeLoss 0 1 0) (tracking 0 0 .locked 3 0 0)).chan 1 0).sync = .locked ∧
    ((after (.eeLoss 0 1 0) (tracking 1 1 .candidate 4 0 0)).chan 1 0).path.track = none ∧
    usefulOf 1 = 1152 ∧ ((after (.offsetRangeLoss 0 1 0) (tracking 1 1 .locked 0 1864136 0)).chan 1 0).sync = .search ∧
    ((after (.offsetRangeLoss 0 1 0) (tracking 1 1 .locked 0 1864135 0)).chan 1 0).sync = .locked ∧
    fget ((engine 0 id).eeBlk 1) eeSlMargin = 6 ∧ ((after (.eeRelock 0 1 0) (tracking 0 0 .locked 0 0 505)).eeR 1).relocks = 1 ∧
    ((after (.eeRelock 0 1 0) (tracking 0 0 .locked 0 0 504)).eeR 1).relocks = 0 ∧
    ((after (.tii 0 1) (tracking 0 0 .locked 0 0 0)).eeR 1).tii = [(1, 1, -40)] := by decide +kernel
theorem witness_RelockEvidence :
    relockTo 6 2 504 [[⟨0, 100⟩, ⟨600, 1000⟩], [⟨0, 100⟩, ⟨537, 1000⟩]] = some ⟨600, 1000⟩ ∧
    relockTo 6 2 504 [[⟨0, 100⟩, ⟨600, 1000⟩], [⟨0, 100⟩, ⟨536, 1000⟩]] = none ∧ relockTo 6 2 504 [[⟨0, 100⟩, ⟨600, 1000⟩]] = none ∧
    relockTo 6 1 504 [[⟨0, 100⟩, ⟨504, 1000⟩]] = none := by decide +kernel
/-- Channel 0 with a block that waits, tracking or not: FIG 0/0 of ensemble 0xC181 in a FIB, or the FAC or SDC of number `no`. -/
def blocked (std mode : Nat) (st : EeSync) (no : Nat) (ok : Bool) : State :=
  engine std (pathed (fun q => { (q.start std (verdict 120)) with
    blocks := [⟨[0x05, 0x00, 0xC1, 0x81, 0, 0, 0xFF] ++ zeros 23, 240, no, ok, false, 0, 0⟩] }) (inSync st mode))
def fig00 : Nat × Fact := (0, .ensemble 0xC181 0 false none)
def fac : FacIn := ⟨0, 3, false, 0, false, 0, false, []⟩
theorem witness_EngineRecords :
    ((blocked 0 0 .sync 0 true).chan 1 0).path.block none ≠ none ∧ (blocked 0 0 .sync 0 true).eeStdOf 1 = 0 ∧
    figFacts (figs 30 ([0x05, 0x00, 0xC1, 0x81, 0, 0, 0xFF] ++ zeros 23)).1 [fig00] = [fig00] ∧
    ((after (.fibRecord 0 1 [fig00]) (blocked 0 0 .sync 0 true)).chan 1 0).sync = .fic ∧
    ((after (.fibRecord 0 1 [fig00]) (blocked 0 0 .sync 0 false)).chan 1 0).badHist = [true] ∧
    ((blocked 1 2 .candidate 0 true).chan 1 0).path.track.isSome = true ∧
    ((after (.facRecord 0 1 0 fac) (blocked 1 2 .candidate 0 true)).chan 1 0).sync = .sync ∧
    ((after (.facRecord 0 1 0 fac) (blocked 1 2 .candidate 0 false)).chan 1 0).sync = .candidate ∧
    ((after (.facRecord 0 1 0 fac) (blocked 1 2 .fic 0 false)).chan 1 0).badHist = [true] ∧
    ((after (.sdcRecord 0 1 0 ⟨true, 0, []⟩) (blocked 1 2 .fic 1 true)).chan 1 0).sdcHist = [false] := by decide +kernel
/-- Channel 0 with the CIFs 0 to 15 stored, the first of count 4995, and sub-channel 3 known. -/
def storing (st : EeSync) (deliver : Nat) : State :=
  (engine 0 (pathed (fun q => { (q.start 0 (verdict 120)) with
    store := (List.range 16).map (fun j => ⟨15 - j, 0, [], [], false⟩), stored := 16, deliver := deliver })
    (fun c => { inSync st 0 c with base := some 4995, lastAt := some 0, count := 7 }))).modEe 1
    (fun r => { r with subs := modAt 3 (fun x => { x with org := some ⟨0, 0, 0, false⟩ }) r.subs, reconfigAt := some 100 })
theorem witness_EngineFrames :
    ((storing .fic 0).life ⟨.ee, 1⟩).cmd = .run ∧ ((storing .fic 0).chan 1 0).due = true ∧ ((storing .fic 1).chan 1 0).due = false ∧
    ((storing .fic 0).chan 1 0).path.oldest = 0 ∧ ((storing .fic 0).sub 1 3).org.isSome = true ∧
    ((after (.logicalFrame 0 1 0 []) (storing .fic 0)).chan 1 0).sync = .locked ∧
    ((after (.logicalFrame 0 1 0 []) (storing .fic 0)).chan 1 0).count = 4995 ∧
    ((after (.logicalFrame 0 1 0 []) (storing .fic 0)).chan 1 0).path.deliver = 1 ∧
    ((after (.logicalFrame 0 1 0 []) (storing .fic 1)).chan 1 0).count = 8 ∧
    ((after (.logicalFrame 0 1 0 []) (storing .fic 1)).chan 1 0).lastAt = some (logicalCycles 0) ∧
    ((after (.reconfiguration 0 1) (storing .fic 0)).eeR 1).reconfigAt = none ∧
    ((after (.reconfiguration 0 1) (storing .locked 0)).eeR 1).reconfigAt = some 100 := by decide +kernel

/-- Silent entries of FMD0, an announcement, and a SIDE ring that owes a dump, 60 s on. -/
def sided : State :=
  { base with
    now := 60 * rfHz
    host := { HostIf.reset with rings := { Ring.reset with kind := 6, st := .running, enable := true, dProd := 0 } :: List.replicate 63 Ring.reset }
    svc := { Services.reset with
      svc := [⟨⟨0xFF020000, 0⟩, 0, 0xC201, 0, 0, 0, 0, 0, [], false⟩]
      anns := [⟨⟨0xFF020000, 0⟩, 0xC201, 3, 1, 0, 0, false⟩]
      dumps := [(0, 0xFF020000, 5)] } }
theorem witness_SideDataAges :
    sided.originAlive ⟨0xFF020000, 0⟩ = false ∧ sided.silentFor ⟨0xFF020000, 0⟩ 60 = true ∧
    ((after (.entryStale 0 0xFF020000 0) sided).svc.svc.map Service.stale) = [true] ∧
    (after (.entryRemoved 0 0xFF020000 0) sided).svc.svc = [] ∧ (after (.announceTimeout 0 0xFF020000 0 3) sided).svc.anns = [] ∧
    (sided.ring 0).isRunning kSide = true ∧ (0, sided.canon 0xFF020000, 5) ∈ sided.svc.dumps ∧
    (after (.sideDump 0 0 0xFF020000) sided).svc.dumps = [] := by decide +kernel

/-! ## Audio ports -/

/-- PORT0 in RUN, a master or a slave of 48 kHz with 8 slots of 32 bits and one route, in a state. -/
def ptBlk (role : Nat) : Blk := fset (fset (tableReset 1280 portFields) ptRole role) (rtKind 0) 1
def porting (role : Nat) (st : PortSt) : State := (inRun base .port 0 (ptBlk role)).modPort 0 (fun r => { r with st := st, steady := 16 })
theorem witness_PortFrames :
    (porting 0 .sync).running .port 0 = true ∧ ((porting 0 .sync).portR 0).dataFrom ≤ 0 ∧ (porting 0 .sync).slave 0 = false ∧
    onGrid (portRate (ptBlk 0)) 0 = true ∧ onGrid 48000 20480 = true ∧ onGrid 48000 20479 = false ∧ (porting 1 .sync).slave 0 = true ∧
    ((porting 0 .sync).portR 0).routes.length = 32 ∧
    ((after (.portFrame 0 0 {}) (porting 0 .sync)).portR 0).dout.length = 8 ∧
    (((after (.portFrame 0 0 {}) (porting 0 .sync)).portR 0).routes.map RouteRun.under).head? = some true ∧
    ((after (.portFrame 0 0 {}) (porting 1 .rateJump)).portR 0).frames = 1 ∧ ((after (.portFrame 0 0 {}) (porting 1 .clockLost)).portR 0).frames = 1 := by decide +kernel
/-- A slave whose clock had been lost at CK_RF count 1. -/
def lostAt1 (st : PortSt) : State := (porting 1 st).modPort 0 (fun r => { r with lostAt := 1 })
theorem witness_PortClocks :
    frameBits (ptBlk 1) = 256 ∧ ((after (.portSync 0 0 256 20480) (porting 1 .seek)).portR 0).st = .sync ∧
    ((after (.portSync 0 0 255 20480) (porting 1 .seek)).portR 0).st = .seek ∧ (lostAt1 .seek).slave 0 = true ∧ ((lostAt1 .seek).portR 0).lostAt ≠ 0 ∧
    jumpRange < (rateOffset (portRate ((lostAt1 .seek).portBlk 0)) 1 (16 * 15000)).natAbs ∧
    (rateOffset (portRate ((lostAt1 .seek).portBlk 0)) 1 (16 * 20480)).natAbs ≤ jumpRange ∧
    ((after (.portSync 0 0 256 15000) (lostAt1 .seek)).portR 0).st = .rateJump ∧ (after (.portSync 0 0 256 15000) (lostAt1 .seek)).cond fRateJump = true ∧
    ((after (.portSync 0 0 256 20480) (lostAt1 .seek)).portR 0).st = .sync ∧
    ((after (.clockLost 0 0 true 4) (porting 1 .sync)).portR 0).st = .clockLost ∧ ((after (.clockLost 0 0 true 3) (porting 1 .sync)).portR 0).st = .sync ∧
    ((after (.clockLost 0 0 false 2) (porting 1 .seek)).portR 0).st = .clockLost ∧
    ((after (.portClockReturn 0 0) (porting 1 .clockLost)).portR 0).st = .seek ∧
    (after (.fsError 0 0 255) (porting 1 .sync)).flag fFsError = true ∧ (after (.fsError 0 0 256) (porting 1 .sync)).flag fFsError = false ∧
    ((after (.portRateOk 0 0) (porting 1 .rateJump)).portR 0).st = .sync := by decide +kernel

/-! ## The cascade -/

/-- A device in a cascade of two, as member `i` with master `m` and deputy `dp`, both ports trained. -/
def freeEntry : CasEntry := {}
def tables2 : CasTables := ⟨[{ st := 1, serial := 10 }, { st := 1, serial := 20 }] ++ List.replicate 6 freeEntry, [], []⟩
def member (i m dp : Nat) (f : Cas → Cas) : State :=
  { base with
    straps := { mstrPri := 3 }
    fuses := { base.fuses with serial := 10 }
    cas := f { Cas.reset with
      st := .member, self := i, master := m, deputy := dp, tables := tables2
      up := { HhlSt.reset with asked := true, trained := true, t1 := some 0 }, dn := { HhlSt.reset with asked := true, trained := true } } }
def joining (f : Cas → Cas) : State := member 0xFF 0xFF 0xFF (fun c => f { c with st := .joining, form := true })
def words (hb : Bool) (items : List LinkItem) : WordGroupIn := { index := 5, sender := 1, master := 1, hb := hb, fenced := false, epoch := 0, items := items }
theorem witness_CascadePorts :
    ((member 0 1 0xFF (fun c => { c with dn := { c.dn with trained := false, down := true } })).hhl .dn).trained = false ∧
    ((after (.hhlTrained 0 .dn) (member 0 1 0xFF (fun c => { c with dn := { c.dn with trained := false, down := true } }))).hhl .dn).trained = true ∧
    (after (.hhlDown 0 .dn) (member 0 1 0xFF id)).cond fHhlDown = true ∧ ((member 0 1 0xFF id).hhl .up).t1 = some 0 ∧
    ((after (.echo 0 0 .up 0 0) (member 0 1 0xFF id)).hhl .up).t1 = none ∧ (member 0 1 0xFF id).isMaster = false ∧
    (after (.wordGroup 0 .up (words false [.command {}])) (member 0 1 0xFF id)).cas.nextTick = [{}] ∧
    ((after (.wordGroup 0 .up (words true [])) (member 0 1 0xFF id)).hhl .up).lastIdx = 5 := by decide +kernel
def electing (second takes : Bool) : Cas → Cas := fun c => { c with election := some ⟨0, second, takes⟩, clapLow := true }
theorem witness_CascadeElections :
    (member 0 0xFF 0xFF (fun c => { c with quiet := 2 })).mayMaster = true ∧
    (after (.electionStart 0) (member 0 0xFF 0xFF (fun c => { c with quiet := 2 }))).cas.clapLow = true ∧
    (after (.electionStart 0) (member 0 0xFF 0xFF (fun c => { c with quiet := 1 }))).cas.clapLow = false ∧
    (after (.electionDetect 0 3933) (member 0 0xFF 0xFF id)).cas.clapLow = true ∧ (after (.electionDetect 0 3932) (member 0 0xFF 0xFF id)).cas.election = none ∧
    (joining (fun c => { c with form := false })).mayMaster = false ∧
    (after (.electionDetect 0 3933) (joining (fun c => { c with form := false }))).cas.clapLow = false ∧
    (member 0 0xFF 0xFF id).bid = (3, 10) ∧ beats (3, 10) (3, 11) = true ∧ beats (3, 10) (3, 9) = false ∧
    (after (.masterArbitrationEnd 0 [(3, 20)] [] 0) (member 0 0xFF 0xFF (electing false true))).cas.master = 0 ∧
    (after (.masterArbitrationEnd 0 [] [{ st := 1, serial := 10 }] 0) (joining (electing false true))).cas.st = .member ∧
    (after (.masterArbitrationEnd 0 [(4, 20)] [] 0) (member 0 0xFF 0xFF (electing false true))).cas.master = 1 ∧
    (after (.deputyArbitrationEnd 0 []) (member 0 1 0xFF (electing true true))).cas.deputy = 0 ∧
    (after (.tickMark 0 3932 1 20) (member 0 1 0xFF id)).cas.heard = true ∧ (member 0 0 0xFF id).isMaster = true ∧
    (after (.tickMark 0 3932 4 20) (member 0 0 0xFF id)).cas.fence = some fenceConfig := by decide +kernel
theorem witness_CascadeLosses :
    (member 0 1 0 id).isDeputy = true ∧ (after (.heartbeatLoss 0 4) (member 0 1 0 id)).cas.master = 0 ∧
    (after (.heartbeatLoss 0 3) (member 0 1 0 id)).cas.master = 1 ∧ (member 0 0 1 id).memberPresent 1 = true ∧
    (after (.casMemberLost 0 1) (member 0 0 1 id)).flag fMemberLost = true ∧ (after (.casMemberLost 0 1) (member 0 0 1 id)).cas.deputy = 0xFF := by decide +kernel
def clap (m : Nat) (serial : Word64) (tSend : Nat) : ClapperIn := ⟨m, 0xFF, serial, 0, 0, 0, tSend, (0, 0, 0), none, 0⟩
theorem witness_CascadeClapper :
    (joining id).cas.st = .joining ∧ ((joining id).hhl .up).trained = true ∧ (member 0 1 0xFF id).knownMaster (clap 1 20 0) = true ∧
    (member 0 1 0xFF id).knownMaster (clap 1 21 0) = false ∧ (clap 1 20 0).tickIdx = (member 0 1 0xFF id).tick * 1024 ∧
    (after (.clapper 0 0 .up 3 7 (clap 1 20 0)) (joining id)).cas.clapTicks = 1 ∧
    (after (.clapper 0 0 .up 3 7 (clap 1 21 0)) (member 0 1 0xFF id)).cas.fence = some fenceRole ∧
    (after (.clapper 0 0 .up 3 7 (clap 1 21 0)) (member 0 1 0xFF (electing false true))).cas.fence = none := by decide +kernel
/-- A member whose Timebase read `v` in 2^-32 ns at CK_RF count 0. -/
def reading (v : Nat) : State := { member 0 1 0xFF id with tb := { base.tb with past := [(1, v, 0, none)] } }
theorem reading_time (v : Nat) : (reading v).time40 0 0 = v * 256 := by
  show ((((v : Int) + ((0 : Int) - (1 : Nat)) * (0 : Nat) + 0) * 256 + (((0 : Nat) : Int) + 0) * ((0 % 4) * 64 + 0 : Nat)).toNat) = v * 256
  omega
theorem rheDiv_exact (k : Nat) : rheDiv ((k * 2 ^ 24 * 256 : Nat) : Int) (2 ^ 32) = k := by
  have h1 : ((k * 2 ^ 24 * 256 : Nat) : Int) / ((2 ^ 32 : Nat) : Int) = k := by norm_num; omega
  have h2 : ((k * 2 ^ 24 * 256 : Nat) : Int) % ((2 ^ 32 : Nat) : Int) = 0 := by norm_num; omega
  simp only [rheDiv, h1, h2]; exact if_pos (by decide)
/-- F, the point's delay and half of its asymmetry: what the Timebase reads too much on arrival, which the factory part leaves free. -/
def upExcess : Int := (reading 0).pointF (hhlPoint .up) + (reading 0).pointDelay (hhlPoint .up) + rheDiv ((reading 0).pointAsym (hhlPoint .up)) 2
theorem reading_received (k : Nat) : (reading (k * 2 ^ 24)).hhlReceived .up 0 0 = k - upExcess := by
  unfold State.hhlReceived upExcess
  rw [reading_time, rheDiv_exact]
  show (k : Int) - ((reading 0).pointF (hhlPoint .up) + (reading 0).pointDelay (hhlPoint .up)) - rheDiv ((reading 0).pointAsym (hhlPoint .up)) 2 = _
  omega
/-- A member that hears its master within 50 ns, and one that hears it more than 1 ms off. -/
theorem witness_CascadeClapper_error : ∃ (v : Nat) (near far : ClapperIn),
    (reading v).cas.st = .member ∧ (reading v).isMaster = false ∧ (reading v).knownMaster near = true ∧ (reading v).knownMaster far = true ∧
    near.tickIdx = (reading v).tick * 1024 ∧ (reading v).cas.fence = none ∧
    ((reading v).hhlReceived .up 0 0 - ((near.tSend : Int) + (7 : Nat))).natAbs ≤ lim50ns ∧
    lim1ms < ((reading v).hhlReceived .up 0 0 - ((far.tSend : Int) + (7 : Nat))).natAbs := by
  refine ⟨(7 + upExcess.natAbs) * 2 ^ 24, clap 1 20 (upExcess.natAbs - upExcess).toNat, clap 1 20 ((upExcess.natAbs - upExcess).toNat + 256000001),
    rfl, rfl, rfl, rfl, rfl, rfl, ?_, ?_⟩ <;> rw [reading_received] <;> simp only [clap, lim50ns, lim1ms] <;> omega
theorem witness_CascadeChanges :
    (member 0 1 0xFF id).cas.tbchg = none ∧
    (((member 0 1 0xFF (fun c => { c with tbchg := some (.freq 5, 0) })).advance 0).cas.tbchg).isSome = true ∧
    (after (.tbchgApply 0) (member 0 1 0xFF (fun c => { c with tbchg := some (.freq 5, 0) }))).tb.inc = 5 ∧
    (after (.tbchgApply 0) (member 0 1 0xFF (fun c => { c with tbchg := some (.set 9 0, 0) }))).tb.unset = false ∧
    (after (.epochApply 0) (member 0 1 0xFF (fun c => { c with next := some ⟨4, 0, tables2⟩ }))).cas.epoch = 4 ∧
    ((after (.epochApply 0) (member 0 1 0xFF (fun c => { c with next := some ⟨4, 0, tables2⟩, queued := [CasTables.empty] }))).cas.next.map EpochNext.tables) =
      some CasTables.empty := by decide
def join (major : Nat) (idx : Option Nat) : JoinIn := ⟨77, idx, tables2, 6, major, 0, 100, 0, 0, 9, none, false⟩
theorem witness_CascadeJoins :
    (joining (fun c => { c with clapTicks := 16 })).cas.aligned = none ∧ (joining id).boot.fwMajor.toNat = 0 ∧
    (after (.joinAlign 0 (join 1 (some 1))) (joining (fun c => { c with clapTicks := 16 }))).cas.st = .alone ∧
    (after (.joinAlign 0 (join 0 none)) (joining (fun c => { c with clapTicks := 16 }))).cas.st = .alone ∧
    (after (.joinAlign 0 (join 0 (some 1))) (joining (fun c => { c with clapTicks := 16 }))).now = 77 * 1024 ∧
    (after (.joinAlign 0 (join 0 (some 1))) (joining (fun c => { c with clapTicks := 15 }))).cas.aligned = none ∧
    (after (.refCompareEnd 0 101) (joining id)).flag fRefMismatch = true ∧
    (after (.refCompareEnd 0 (-100)) (joining (fun c => { c with aligned := some (1, tables2, 6), lastClap := some (clap 0 10 0) }))).cas.st = .member ∧
    (joining id).cas.waitEnd ≤ (joining id).tick ∧ (after (.joinTimeout 0) (joining id)).cas.st = .alone ∧
    (after (.configMismatch 0) (member 0 1 0xFF (fun c => { c with mismatch := 2 }))).cas.fence = some fenceConfig ∧
    (after (.configMismatch 0) (member 0 1 0xFF (fun c => { c with mismatch := 1 }))).cas.fence = none ∧
    (after (.casUnfence 0) (member 0 1 0xFF (fun c => { c with fence := some fenceConfig, matching := 4 }))).cas.fence = none ∧
    (after (.casUnfence 0) (member 0 1 0xFF (fun c => { c with fence := some fenceTime, good := 15 }))).cas.fence = some fenceTime ∧
    (after (.casUnfence 0) (member 0 1 0xFF (fun c => { c with fence := some fenceTime, good := 16 }))).cas.fence = none ∧
    (after (.casUnfence 0) (member 0 1 0xFF (fun c => { c with fence := some fenceTime, good := 16, fenceHard := true }))).cas.fence = some fenceTime := by decide +kernel

/-! ## The PCIe side, rings, interrupts, storage, life cycle -/

/-- An endpoint that is ready, with ring 0 as given. -/
def endpoint (r : Ring) : State :=
  { base with host := { HostIf.reset with epReady := true, rings := r :: List.replicate 63 Ring.reset } }
theorem witness_PcieResets :
    ((endpoint Ring.reset).advance 0).host.epReady = true ∧ base.host.epReady = false ∧ (after (.perstN 0) base).host.epReady = false ∧
    (after (.perstN 0) (endpoint Ring.reset)).host.epReady = false ∧ (after (.hotReset 0) (endpoint Ring.reset)).flag fCrossFlush = true ∧
    (after (.functionLevelReset 0) (endpoint Ring.reset)).clk.flushes = [0, 0, 0, 0, 0, 0, 1, 0] ∧
    base.phase ≠ .porst ∧ base.phase ≠ .warm ∧ (after .endpointReady base).host.epReady = true := by decide +kernel
def enabled : Ring := { Ring.reset with enable := true }
theorem witness_HostWrites :
    (endpoint Ring.reset).host.rings.length = 64 ∧ ((endpoint Ring.reset).ring 63).enable = false ∧ ((endpoint enabled).ring 0).enable = true ∧
    ((after (.ringDisable 0 0) (endpoint enabled)).ring 0).cleared = true ∧ ((after (.ringDisable 0 0) (endpoint Ring.reset)).ring 0).cleared = false ∧
    (after (.cmdEn 0 false) (endpoint Ring.reset)).host.cmdEn = false ∧ (after (.shadowNow 0) (endpoint Ring.reset)).host.shadowNow = true ∧
    ((after (.ringEnable 0 63 1 []) (endpoint Ring.reset)).ring 63).enable = true ∧
    ((after (.ringEnable 0 0 1 []) (endpoint enabled)).ring 0).regCtl = 0 ∧ ((after (.ringDisable 0 0) (endpoint enabled)).ring 0).enable = false ∧
    ((after (.doorbellWrite 0 0 5 []) (endpoint enabled)).ring 0).bells = [(0, 5, [])] ∧
    (after (.registerWrite 0 (.bar0 8) 32 2) (endpoint enabled)).host.cmdEn = false ∧
    ((after (.registerWrite 0 (.bar0 (0x100 + 32 * 63)) 64 0xFFFF) (endpoint enabled)).ring 63).regBase = 0xFFC0 ∧
    ((after (.registerWrite 0 (.bar0 0x100) 64 0xFFFF) (endpoint enabled)).ring 0).regBase = 0 ∧
    (after (.registerWrite 0 (.bar0 9) 32 0) (endpoint enabled)).host.cmdEn = true ∧
    (after (.registerWrite 0 .ptmEnable 32 1) (endpoint enabled)).tb.ptmEnabled = true ∧
    (after (.registerWrite 0 .msixFunctionMask 32 1) (endpoint enabled)).host.msix.funcMask = true := by decide

/-- A running ring with a record that has not been signalled, and a time of moderation of one frame. -/
def moderated : Ring :=
  { Ring.reset with kind := 3, enable := true, st := .running, irqEn := true, vector := 7, unsig := 1, ctx := zeros 1 ++ [1] ++ zeros 46 }
def signalling (en fm : Bool) (mask pend : BitVec 64) : State :=
  { endpoint moderated with now := perFrame, host := { (endpoint moderated).host with msix := { Msix.reset with enable := en, funcMask := fm, mask := mask, pend := pend } } }
theorem witness_RingEvents :
    moderated.modTime = 1 ∧ (after (.hostDmaFail 0 0) (endpoint moderated)).flag fRingError = true ∧
    ((after (.hostDmaFail 0 0) (endpoint enabled)).ring 0).err = 6 ∧ ((after (.hostDmaFail 0 1) (endpoint enabled)).ring 1).err = 0 ∧
    (after (.irqModerationTimeout 0 0) (signalling true false 0 0)).host.msix.sent = [7] ∧
    (after (.irqModerationTimeout 0 0) (signalling true false 128 0)).host.msix.pend = 128 ∧
    (after (.irqModerationTimeout 0 0) (endpoint moderated)).host.msix.pend = 0 ∧
    (after (.msixUnmask 0 (.unmask 63)) (signalling true false (BitVec.ofNat 64 (2 ^ 63)) (BitVec.ofNat 64 (2 ^ 63)))).host.msix.sent = [63] ∧
    (after (.msixUnmask 0 .enable) (signalling false true 0 1)).host.msix.enable = true ∧
    (after (.msixUnmask 0 .clearFunctionMask) (signalling false true 0 1)).host.msix.funcMask = false := by decide +kernel

/-- A persisted entry whose write is under way, and a wipe, with or without a reset after it. -/
def persisting : State := { base with log := { Log.reset with writing := [(5, 0)] } }
def wipeAt (reset : Bool) : State := { base with wipeRun := some ⟨true, true, reset⟩ }
theorem witness_StoredRecords :
    persisting.log.writing.find? (fun w => w.1 == 5) = some (5, 0) ∧ (after (.nvmWriteDone 0 idDailies 5 true) persisting).log.writing = [] ∧
    ((wipeAt false).advance 0).wipeRun = some ⟨true, true, false⟩ ∧ (after (.wipeOverwriteEnd 0) (wipeAt false)).phase = .released ∧
    (after (.wipeOverwriteEnd 0) (wipeAt true)).phase = .warm := by decide
def advancing (target : Nat) : State := { base with lcPending := some ⟨target, 9⟩ }
theorem witness_LifeCycleStep :
    (advancing 1).flags.halted = false ∧ (after (.lcChange true true) (advancing 1)).fuses.keyO = 9 ∧
    (after (.lcChange true true) (advancing 2)).fuses.dbg = (true, true) ∧ (after (.lcChange true false) (advancing 2)).phase = .warm ∧
    (after (.lcChange true true) (advancing 3)).fuses.lcR = (true, true) := by decide

/-- A tick after READY, with a stored Storyboard of one entry, or with both copies bad. -/
def sbImage : List Byte := zeros 6 ++ leBytes 2 1 ++ zeros 24
def replayable (st : SbSt) : State :=
  { base with
    now := perTick
    mram := { Mram.reset with recs := [(idStoryboard, ⟨nvmCopy idStoryboard 1 sbImage, []⟩)] }
    host := { HostIf.reset with sb := { Storyboard.reset with st := st } } }
theorem witness_ReplayAndIndex :
    (replayable .none).startupDone = true ∧ (replayable .none).boot.readyTick < (replayable .none).tick ∧ (replayable .none).replaySkipped = false ∧
    (replayable .none).mram.body idStoryboard = some sbImage ∧ leAt sbImage 6 2 ≠ 0 ∧
    (after .storyboardReplayStart (replayable .none)).host.sb.nent = 1 ∧
    (after .storyboardReplayStart (replayable .bad)).cond fStoryboardBad = true := by decide +kernel
/-- A group of no members with a pending command at Plain sample 1. -/
def grouped (isRun : Bool) : State :=
  { base with
    clk := { Clk.reset with refQual := true, injecting := true, locked := true, divReset := true }
    host := { HostIf.reset with groups := ⟨true, [], [⟨isRun, 1, []⟩]⟩ :: List.replicate 255 ⟨false, [], []⟩ } }
theorem witness_ReplayAndIndex_group :
    ((grouped true).group 0).pend.length = 1 ∧ (grouped true).clk.divReset = true ∧
    ((after (.groupAtIndex 0) (grouped true)).group 0).pend = [] ∧ (after (.groupAtIndex 0) (grouped false)).now = perFrame := by decide +kernel

/-! ## Host commands -/

/-- At a tick boundary with take-up open: CMD ring 0 with filled entries, buffers of 1024 bytes and CPL ring 1. -/
def servedRings : List Ring :=
  { Ring.reset with kind := 1, logBuf := 5, enable := true, st := .running, dProd := 8, ctx := zeros 2 ++ [1] ++ zeros 45 } ::
  { Ring.reset with kind := 2, enable := true, st := .running } :: List.replicate 62 Ring.reset
def served : State := { base with atTick := true, host := { HostIf.reset with epReady := true, open_ := true, rings := servedRings } }
/-- A Cue of START 1 s, PERIOD 1 ms, WIDTH 1000 ns, COUNT 2. -/
def cueB : Blk := BitVec.ofNat 1280 (1 + 1000000 * 2 ^ 96 + 1000 * 2 ^ 128 + 2 * 2 ^ 160)
def dsc (obj : Id) : Desc := { object := obj, tag := 77 }
/-- The status and tag of the last record on the CPL ring. -/
def lastOut (s : State) : List Nat := ((s.ring 1).out.map (fun r => r.map BitVec.toNat)).flatten
def cplCount (s : State) : Nat := (s.ring 1).out.length

theorem witness_CommandsTakenUp :
    served.takesNow (withOp opOpen (dsc 0xFF010000)) = true ∧
    ((served.releaseEntry 0).judge .own (served.ring 0).bufSize (withOp opOpen (dsc 0xFF010000))).wait.isNone = true ∧
    ((served.releaseEntry 0).judge .own (served.ring 0).bufSize (withOp opOpen (dsc 0xFF010000))).carry = [] ∧
    cplCount (after (.objOpen (dsc 0xFF010000)) served) = 1 ∧
    cplCount (after (.objOpen { dsc 0xFF010000 with flags := 1 }) served) ≤ 1 ∧
    ({ served with atTick := false }).canTake (dsc 0) = false ∧ (served.ring 0).holdsCommands = true ∧ (base.ring 0).holdsCommands = false ∧
    (after (.objOpen (dsc 0xFF010000)) { served with atTick := false }).host.waitq.length = 1 ∧
    ((after (.objOpen { dsc 0xFF010000 with readOk := false }) served).ring 0).err = 6 := by decide +kernel
theorem witness_CommandsTakenUp_wait :
    (((served.releaseEntry 0).judge .own 1024 (withOp opCalRun { dsc 0xFF0B0000 with inl := 0 })).wait).isSome = true := by decide

def held (k : Kind) (b : Blk) : State := served.modLife ⟨k, 0⟩ (fun _ => Life.at .held b)
def runs (k : Kind) (b : Blk) : State := inRun served k 0 b
theorem witness_ObjectRuns :
    (served.releaseEntry 0).refOf 0xFF010000 = some ⟨.pass, 0⟩ ∧ ((served.releaseEntry 0).life? ⟨.pass, 0⟩).isSome = true ∧
    served.accepted (withOp opOpen (dsc 0xFF010000)) = true ∧ (served.life ⟨.pass, 0⟩).cmd = .closed ∧
    ((after (.objOpen (dsc 0xFF010000)) served).life ⟨.pass, 0⟩).cmd = .held ∧
    (held .cue cueB).accepted (withOp opRun (dsc 0xFF090000)) = true ∧ ((held .cue cueB).life ⟨.cue, 0⟩).laterHold 0 = false ∧
    (held .cue cueB).runCheck ⟨.cue, 0⟩ 0 = .ok ∧ ((after (.objRun (dsc 0xFF090000)) (held .cue cueB)).life ⟨.cue, 0⟩).cmd = .run ∧
    (runs .cue cueB).accepted (withOp opRun (dsc 0xFF090000)) = true ∧ ((runs .cue cueB).life ⟨.cue, 0⟩).laterRun 0 = false ∧
    served.accepted (withOp opRun (dsc 0xFF0C0000)) = true ∧ ((after (.objRun (dsc 0xFF0C0000)) served).life ⟨.cap, 0⟩).cmd = .held := by decide +kernel
theorem witness_ObjectRuns_query :
    served.accepted (withOp opQuery { dsc 0xFF010000 with plen := 1024 }) = true ∧ ((served.releaseEntry 0).settle.queryBlock ⟨.pass, 0⟩).length = 32 ∧
    (after (.objQuery { dsc 0xFF010000 with plen := 32 }) (held .pass 0)).host.bufOut.length = 1 ∧
    (after (.objQuery { dsc 0xFF010000 with plen := 31 }) (held .pass 0)).host.bufOut.length = 0 := by decide
theorem witness_ObjectHolds :
    (held .cue cueB).accepted (withOp opHold (dsc 0xFF090000)) = true ∧ ((held .cue cueB).life ⟨.cue, 0⟩).cmd ≠ .run ∧
    (runs .cue cueB).accepted (withOp opHold (dsc 0xFF090000)) = true ∧ ((after (.objHold (dsc 0xFF090000)) (runs .cue cueB)).life ⟨.cue, 0⟩).cmd = .held ∧
    (runs .ee 0).accepted (withOp opHold (dsc 0xFF040000)) = true ∧ ((after (.objHold (dsc 0xFF040000)) (runs .ee 0)).life ⟨.ee, 0⟩).cmd = .held ∧
    (runs .cap 0).accepted (withOp opHold (dsc 0xFF0C0000)) = true ∧
    (held .cue cueB).accepted (withOp opClose (dsc 0xFF090000)) = true ∧ ((after (.objClose (dsc 0xFF090000)) (held .cue cueB)).life ⟨.cue, 0⟩).eff = .closed ∧
    served.accepted (withOp opClose (dsc 0xFF0C0000)) = true := by decide
def cmdBlk (d : Desc) (k : Kind) : Blk := d.inl.zeroExtend 1280 &&& kindMask k
/-- A Pass of FM class at 98 MHz. -/
def passB : Blk := fset (fset (resetBlk .pass) psClass 1) psTune 428168533
def passD : Desc := { dsc 0xFF010000 with inl := passB.extractLsb' 0 320 }
def badD : Desc := { dsc 0xFF010000 with inl := BitVec.allOnes 320 }
theorem witness_SetCommands :
    (held .pass 0).accepted (withOp opPassSet passD) = true ∧ firstFail ((held .pass 0).setChecks ⟨.pass, 0⟩ (cmdBlk passD .pass)) = none ∧
    ((after (.passSet passD) (held .pass 0)).life ⟨.pass, 0⟩).blk = passB ∧
    (firstFail ((held .pass 0).setChecks ⟨.pass, 0⟩ (cmdBlk badD .pass))).isSome = true ∧
    (runs .pass 0).accepted (withOp opPassSet passD) = true ∧ ((after (.passSet passD) (runs .pass 0)).life ⟨.pass, 0⟩).blk = 0 ∧
    (held .fmd 0).accepted (withOp opDemodSet (dsc 0xFF020000)) = true ∧ (held .ee 0).accepted (withOp opEeSet (dsc 0xFF040000)) = true ∧
    (held .prog 0).accepted (withOp opProgSet (dsc 0xFF050000)) = true ∧ (held .fcar 0).accepted (withOp opCarrierSet (dsc 0xFF070000)) = true := by decide +kernel
def portD (n : Nat) : Desc := { dsc 0xFF060000 with plen := BitVec.ofNat 32 n, buf := leBytes n (resetBlk .port).toNat }
def cueD (w : Nat) : Desc := { dsc 0xFF090000 with inl := BitVec.ofNat 320 (1 + 1000000 * 2 ^ 96 + w * 2 ^ 128 + 2 * 2 ^ 160) }
theorem witness_SetCommands_port :
    (held .port 0).accepted (withOp opPortSet (portD 8)) = true ∧
    firstFail ((held .port 0).setChecks ⟨.port, 0⟩ (blockOf 1280 (portD 8).bytes &&& kindMask .port)) = none ∧
    ((after (.portSet (portD 8)) (held .port 0)).life ⟨.port, 0⟩).blk = resetBlk .port ∧
    (held .port 0).accepted (withOp opPortSet (portD 7)) = true ∧ ((after (.portSet (portD 7)) (held .port 0)).life ⟨.port, 0⟩).blk = 0 ∧
    ((after (.portSet (portD 140)) (held .port 0)).life ⟨.port, 0⟩).blk = 0 ∧
    (held .cue 0).accepted (withOp opCueSet (cueD 10)) = true ∧ cueBad (cmdBlk (cueD 10) .cue) = none ∧ (cueBad (cmdBlk (cueD 9) .cue)).isSome = true ∧
    ((after (.cueSet (cueD 10)) (held .cue 0)).life ⟨.cue, 0⟩).blk = cmdBlk (cueD 10) .cue ∧
    ((after (.cueSet (cueD 9)) (held .cue 0)).life ⟨.cue, 0⟩).blk = 0 := by decide +kernel

/-- VOLUME of PROG0, word 2, alone. -/
def liveD : Desc := { dsc 0xFF050000 with inl := BitVec.ofNat 320 (1 + 5 * 2 ^ 8 + 2 * 2 ^ 32 + 0xFB * 2 ^ 64 + 0xFF * 2 ^ 96) }
theorem witness_LiveAndFollow :
    (held .prog 0).accepted (withOp opLiveSet liveD) = true ∧ liveWords .prog ≠ 0 ∧ liveD.inlByte 0 = 1 ∧ liveD.inlByte 1 = Kind.prog.code ∧
    (held .prog 0).liveBad ⟨.prog, 0⟩ (liveEntries liveD) = none ∧
    (held .prog 0).liveFits ((held .prog 0).liveObj (liveEntries liveD) ⟨.prog, 0⟩) ⟨.prog, 0⟩ = true ∧
    fget ((after (.liveSet liveD) (held .prog 0)).life ⟨.prog, 0⟩).blk pgVolume = 0xFB ∧
    ((runs .prog 0).life ⟨.prog, 0⟩).dueAt = none ∧ ((after (.liveSet liveD) (runs .prog 0)).life ⟨.prog, 0⟩).liveAt.isSome = true := by decide +kernel
def listD : Desc := { dsc 0xFF050000 with plen := 16, buf := zeros 4 ++ leBytes 4 99500 ++ zeros 8 }
def polD : Desc := { dsc 0xFF050000 with inl := (tableReset 128 afFields).zeroExtend 320 }
def fmProg : State := held .prog (fset (resetBlk .prog) pgSource 0xFF020000)
theorem witness_LiveAndFollow_lists :
    fmProg.accepted (withOp opAfList listD) = true ∧ hostBad (hostList listD.bytes) = none ∧ (fmProg.follow 0).st ≠ .following ∧
    ((after (.afListSet listD) fmProg).follow 0).hostList.length = 1 ∧
    fmProg.accepted (withOp opAfPolicy polD) = true ∧ firstFail (policyChecks (polD.inl.extractLsb' 0 128 &&& tableMask 128 afFields)) = none ∧
    (fmProg.progSource (fmProg.life ⟨.prog, 0⟩).blk) = some (⟨.fmd, 0⟩, 0) ∧ fmProg.followedCount 0 < 8 ∧
    ((after (.afPolicySet polD) fmProg).follow 0).policy = tableReset 128 afFields := by decide +kernel

/-- Group 0 with CUE0 and CAP0 as its members, and PASS1. -/
def withGroup (s : State) : State := s.modGroup 0 (fun g => { g with defined := true, members := [0xFF090000, 0xFF0C0000] })
def grpD (mode : Nat) (ids : List Nat) : Desc :=
  { dsc 0xFF0F0000 with inl := BitVec.ofNat 320 mode, plen := BitVec.ofNat 32 (4 * ids.length), buf := ids.flatMap (leBytes 4) }
theorem witness_GroupDefined :
    (served.releaseEntry 0).refOf 0xFF0F0000 = some ⟨.group, 0⟩ ∧ 0 < served.host.groups.length ∧
    served.accepted (withOp opGroupDefine (grpD 0 [0xFF090000])) = true ∧
    (after (.groupDefine (grpD 0 [0xFF090000])) served).group 0 = ⟨true, [0xFF090000], []⟩ ∧
    ((after (.groupDefine (grpD 1 [0xFF010001])) (withGroup served)).group 0).members.length = 3 ∧
    ((after (.groupDefine (grpD 2 [0xFF0C0000])) (withGroup served)).group 0).members = [0xFF090000] ∧
    ((after (.groupDefine (grpD 0 [])) (withGroup served)).group 0).defined = false ∧
    ((after (.groupDefine (grpD 1 [0xFF010001])) served).group 0).defined = false ∧
    ((after (.groupDefine (grpD 3 [])) (withGroup served)).group 0).members.length = 2 := by decide +kernel
theorem witness_GroupCommands :
    ((withGroup (runs .cue cueB)).releaseEntry 0).groupElsewhere 0xFF0F0000 = [] ∧ (withGroup (runs .cue cueB)).cas.fence = none ∧
    (withGroup (runs .cue cueB)).accepted (withOp opGroupHold (grpD 0 [])) = true ∧
    (withGroup (runs .cue cueB)).accepted (withOp opHold (grpD 0 [])) = true ∧ (withGroup (runs .cue cueB)).groupFenced 0xFF0F0000 = false ∧
    (withGroup (runs .cue cueB)).flatHere false 0xFF0F0000 = [⟨.cue, 0⟩, ⟨.cap, 0⟩] ∧
    ((after (.groupHold (grpD 0 [])) (withGroup (runs .cue cueB))).life ⟨.cue, 0⟩).cmd = .held ∧
    ((after (.objHold (grpD 0 [])) (withGroup (runs .cue cueB))).life ⟨.cue, 0⟩).cmd = .held ∧
    ((after (.groupHold (grpD 1 [])) (withGroup (runs .cue cueB))).group 0).pend.length = 1 ∧
    (withGroup (held .cue cueB)).accepted (withOp opGroupRun (grpD 0 [])) = true ∧ (withGroup (held .cue cueB)).groupRunnable 0xFF0F0000 = [⟨.cue, 0⟩] ∧
    (withGroup (held .cue cueB)).groupRunFail [⟨.cue, 0⟩] 0 = none ∧
    ((after (.groupRun (grpD 0 [])) (withGroup (held .cue cueB))).life ⟨.cue, 0⟩).cmd = .run ∧
    ((after (.objRun (grpD 0 [])) (withGroup (held .cue cueB))).life ⟨.cue, 0⟩).viaGroup = true ∧
    ((withGroup (held .cue 0)).groupRunFail [⟨.cue, 0⟩] 0).isSome = true ∧
    ((after (.objOpen (grpD 0 [])) (withGroup served)).life ⟨.cue, 0⟩).cmd = .held ∧
    ((after (.objClose (grpD 0 [])) (withGroup (held .cue cueB))).group 0).defined = false ∧
    ((after (.objClose (grpD 0 [])) (withGroup (held .cue cueB))).life ⟨.cue, 0⟩).cmd = .closed := by decide +kernel

def devD (v : Nat) : Desc := { dsc 0xFF000000 with inl := BitVec.ofNat 320 v, plen := 48 }
theorem witness_TimebaseCommands :
    served.accepted (withOp opTbSet (devD (5 + 999999999 * 2 ^ 48))) = true ∧ served.carriersRun = false ∧
    (after (.tbSet (devD (5 + 999999999 * 2 ^ 48))) served).tb.total = 5999999999 * 2 ^ 32 ∧
    (after (.tbSet (devD (5 + 1000000000 * 2 ^ 48))) served).tb.unset = true ∧
    served.accepted (withMode opTbAdj 0 (devD (256 * 2 ^ 32))) = true ∧ (after (.tbAdjStep (devD (256 * 2 ^ 32))) served).tb.total = 2 ^ 32 ∧
    served.accepted (withMode opTbAdj 1 (devD (256 * 2 ^ 32 + 10000 * 2 ^ 96))) = true ∧
    (after (.tbAdjSlew (devD (256 * 2 ^ 32 + 10000 * 2 ^ 96))) served).tb.slew = some ⟨256, 10000, 0⟩ ∧
    (after (.tbAdjSlew (devD (256 * 2 ^ 32 + 10001 * 2 ^ 96))) served).tb.slew = none ∧
    served.accepted (withMode opTbAdj 2 (devD (incReset * 2 ^ 128))) = true ∧ incOk incReset = true ∧
    (after (.tbAdjFreq (devD ((incReset + 1) * 2 ^ 128))) served).tb.inc = BitVec.ofNat 64 (incReset + 1) ∧
    served.accepted (withMode opTbAdj 3 (devD 0)) = true ∧ (after (.tbAdjStatus (devD 0)) served).host.bufOut.length = 1 ∧
    served.accepted (withOp opSlateArm (devD (2 * 2 ^ 8 + 2 ^ 24))) = true ∧ ((after (.slateArm (devD (2 * 2 ^ 8 + 2 ^ 24))) served).pulse 0).supervise = true ∧
    ((after (.slateArm (devD (2 + 1 * 2 ^ 8 + 2 * 2 ^ 16))) served).pulse 2).edge = 2 ∧
    ((after (.slateArm (devD (2 + 2 * 2 ^ 8 + 2 ^ 24))) served).pulse 2).mode = 0 := by decide +kernel

/-! ## Host commands: captures, the sweep, inserts, the cascade, calibration, storage, life cycle -/

/-- The same with an IQCAP ring 2 of buffers of 16 KiB, and PASS0 HELD with its FM block. -/
def withIq (s : State) : State :=
  (s.modRing 2 (fun r => { r with kind := 5, logBuf := 9, enable := true, st := .running })).modLife ⟨.pass, 0⟩ (fun _ => Life.at .held passB)
def capD (count : Nat) : Desc :=
  { dsc 0xFF0C0001 with inl := BitVec.ofNat 320 (0xFF010000 + 2 * 2 ^ 64 + count * 2 ^ 96) }
theorem witness_CaptureCommands :
    (withIq served).accepted (withOp opCapStart (capD 4)) = true ∧ (withIq served).refOf (BitVec.ofNat 32 ((capD 4).inlAt 0 4)) = some ⟨.pass, 0⟩ ∧
    ((withIq served).life ⟨.pass, 0⟩).cmd ≠ .closed ∧ ((withIq served).ring ((capD 4).inlByte 8)).kind.toNat = kIqcap ∧ (capD 4).inlByte 9 = 0 ∧
    ((withIq served).life ⟨.cap, 1⟩).cmd ≠ .run ∧
    capMost passB 1 false ≤ ((withIq served).ring 2).bufSize ∧ streamsOf passB = 1 ∧
    ((after (.capStart (capD 4)) (withIq served)).capR 1).count = 4 ∧ ((after (.capStart (capD 4)) (withIq served)).life ⟨.cap, 1⟩).eff = .run ∧
    served.accepted (withOp opCapStop (dsc 0xFF0C0000)) = true ∧ (runs .cap 0).cmdRun .cap 0 = true ∧
    (runs .cap 0).accepted (withOp opCapStop (dsc 0xFF0C0000)) = true ∧ served.cmdRun .cap 0 = false ∧
    ((after (.capStop (dsc 0xFF0C0000)) (runs .cap 0)).life ⟨.cap, 0⟩).cmd = .held := by decide +kernel

/-- A sweep of one segment at 100 MHz into ring 2, with CONV3 in RUN, with or without coexistence. -/
def sweepable (cx : Nat) : State :=
  let s := inRun (withIq served) .conv 3 (tableReset 1280 convFields)
  { s with tx := { s.tx with profile := fset s.tx.profile txCxEn cx } }
def sweepD : Desc :=
  { dsc 0xFF0A0001 with plen := 12, buf := leBytes 4 100000000 ++ zeros 4 ++ leBytes 3 4 ++ zeros 1, inl := BitVec.ofNat 320 (2 + 6 * 2 ^ 24) }
theorem witness_SweepStart :
    (sweepable 1).accepted (withOp opSweep sweepD) = true ∧ rampOf 64 sweepD.bytes = [⟨100000000, 0, 4, false⟩] ∧
    sweepD.inlByte 0 = 2 ∧ sweepD.inlByte 3 = 6 ∧ ((sweepable 1).ring 2).kind.toNat = kIqcap ∧ 416 ≤ ((sweepable 1).ring 2).bufSize ∧
    (⟨100000000, 0, 4, false⟩ : Segment).passes 30000000 245000000 = true ∧ ((sweepable 1).life ⟨.conv, 3⟩).cmd = .run ∧
    (sweepable 1).loMode = false ∧ fbit ((sweepable 1).life ⟨.conv, 3⟩).blk cvLband = false ∧ (sweepable 1).sweeping = false ∧
    (after (.sweepStart sweepD) (sweepable 1)).tx.sweep.st = .waitGrant ∧ (after (.sweepStart sweepD) (sweepable 0)).tx.sweep.st = .waitLock ∧
    (after (.sweepStart sweepD) (sweepable 0)).host.waiting.length = 1 := by decide +kernel

/-- Insert 0 from PORT1 for PROG0 that is HELD, XFADE 1, LOSS 1. -/
def insD : Desc := { dsc 0xFF050000 with inl := BitVec.ofNat 320 (2 ^ 16 + 2 ^ 48 + 2 ^ 96) }
def progHeld (active : Bool) : State :=
  (((held .prog 0).modLife ⟨.port, 1⟩ (fun _ => Life.at .held (resetBlk .port))).modInsert 0 (fun n => { n with active := active })).modProg 0
    (fun p => { p with insert := if active then some 0 else none })
theorem witness_InsertCommands :
    ((progHeld false).releaseEntry 0).targetAny 0xFF050000 ≠ [] ∧ ((progHeld false).releaseEntry 0).otherMembers ((progHeld false).targetAny 0xFF050000) = [] ∧
    (progHeld false).accepted (withOp opInsStart insD) = true ∧ (progHeld false).insertBad (withOp opInsStart insD) = none ∧
    (progHeld false).targetProgs 0xFF050000 = [0] ∧ (progHeld false).holder 0 = none ∧
    ((after (.insertStart insD) (progHeld false)).insertR 0).starting = [0] ∧
    ((after (.insertStart insD) (progHeld true)).insertR 0).starting = [] ∧
    (progHeld true).accepted (withOp opInsStop insD) = true ∧ ((progHeld true).progR 0).insert = some 0 ∧
    ((after (.insertStop insD) (progHeld true)).insertR 0).stopping = [0] ∧
    ((after (.insertStop insD) (progHeld false)).insertR 0).stopAt = none := by decide +kernel

/-- JOIN with both ports, FORM, and WAIT of 16 ticks. -/
def joinD : Desc := { dsc 0xFF000000 with inl := BitVec.ofNat 320 (3 + 2 * 2 ^ 24 + 16 * 2 ^ 32) }
def master : State := { served with cas := (member 0 0 1 id).cas }
theorem witness_CascadeCommands :
    served.accepted (withOp opCasJoin joinD) = true ∧ served.dataRuns = false ∧ (after (.casJoin joinD) served).cas.waitEnd = 16 ∧
    (runs .pass passB).dataRuns = true ∧ (runs .pass passB).accepted (withOp opCasJoin joinD) = true ∧
    (after (.casJoin joinD) (runs .pass passB)).cas.st = .alone ∧
    master.isMaster = true ∧ master.accepted (withOp opCasLeave (dsc 0xFF000000)) = true ∧
    (after (.casLeave (dsc 0xFF000000)) master).cas.leaveAt = some perTick ∧
    master.accepted (withMode opCasEpoch 0 { dsc 0xFF000000 with plen := 160 }) = true ∧
    (after (.casEpochStatus { dsc 0xFF000000 with plen := 160 }) master).host.bufOut.length = 1 ∧
    master.accepted (withMode opCasEpoch 1 (dsc 0xFF000000)) = true ∧ master.itemsBad [] 0 0 [] = none ∧ master.itemsFit [] = true ∧
    (after (.casEpochAdvance (dsc 0xFF000000)) master).cas.next.map EpochNext.epoch = some 1 ∧
    master.accepted (withMode opCasEpoch 2 (dsc 0xFF000000)) = true ∧
    .tables tables2 0 ∈ (after (.casEpochResync (dsc 0xFF000000)) master).cas.sent := by decide +kernel

def lo (s : State) : State := { s with tx := { s.tx with profile := 1 } }
theorem witness_CalibrationCommands :
    served.cal.units.length = 6 ∧ (List.range 6).all (fun y => (served.unit y).run.isNone) = true ∧
    served.accepted (withOp opCalRun (dsc 0xFF0B0000)) = true ∧ served.cmdRun .conv 0 = false ∧
    ((after (.calRun (dsc 0xFF0B0000)) served).unit 0).run.map CalRun.stage = some .settling ∧
    (runs .conv (tableReset 1280 convFields)).accepted (withOp opCalRun (dsc 0xFF0B0000)) = true ∧
    (after (.calRun (dsc 0xFF0B0000)) (runs .conv (tableReset 1280 convFields))).standin.use = .take 0 true ∧
    served.accepted (withOp opCalRun (dsc 0xFF0B0004)) = true ∧ served.standinCarries = false ∧
    ((after (.calRun (dsc 0xFF0B0004)) served).unit 4).run.map CalRun.stage = some .settling ∧
    (lo served).accepted (withOp opCalRun (dsc 0xFF000000)) = true ∧ (lo served).loMode = true ∧ (lo served).anyCarrier = false ∧
    ((after (.calRun (dsc 0xFF000000)) (lo served)).unit 5).run.map CalRun.trigger = some .command ∧
    served.accepted (withOp opCalPolicy (devD 16)) = true ∧ (after (.calPolicy (devD 16)) served).cal.policy = 16 ∧
    (after (.calPolicy (devD 17)) served).cal.policy = tableReset 64 calFields := by decide +kernel

def commitD : Desc := { dsc 0xFF000000 with plen := 16, buf := blockBytes (tableReset 128 clkFields), inl := 1 }
def sbD (mode last off : Nat) (bs : List Byte) (total : Nat) : Desc :=
  { dsc 0xFF000000 with
    inl := BitVec.ofNat 320 (mode + last * 2 ^ 8 + off * 2 ^ 32 + total * 2 ^ 64), plen := BitVec.ofNat 32 bs.length, buf := bs }
theorem witness_StorageCommands :
    served.fuses.lcState ≠ 3 ∧ served.accepted (withOp opNvmCommit commitD) = true ∧ recordAlo 1 = (idKind 0xFF000000 == Kind.alo.code) ∧
    recordLen 1 = 16 ∧ recordBad 1 commitD.bytes = none ∧ (after (.nvmCommit commitD) served).mram.writes.length = 1 ∧
    (after (.nvmCommit commitD) served).host.waiting.length = 1 ∧
    served.accepted (withMode opStoryboard 0 (sbD 0 0 0 [1, 2, 3, 4] 32)) = true ∧
    (after (.storyboardWrite (sbD 0 0 0 [1, 2, 3, 4] 32)) served).host.sb.staged = [1, 2, 3, 4] ∧ served.imageBad emptyImage = none ∧
    (after (.storyboardWrite (sbD 0 1 0 emptyImage 32)) served).mram.writes.length = 1 ∧
    (after (.storyboardCheck (sbD 3 1 0 emptyImage 32)) served).mram.writes.length = 0 ∧
    served.accepted (withMode opStoryboard 3 (sbD 3 1 0 emptyImage 32)) = true ∧
    served.accepted (withMode opStoryboard 1 (dsc 0xFF000000)) = true ∧ (after (.storyboardClear (dsc 0xFF000000)) served).mram.writes.length = 1 ∧
    served.accepted (withMode opStoryboard 2 { dsc 0xFF000000 with plen := 32 }) = true ∧
    (after (.storyboardStatus { dsc 0xFF000000 with plen := 32 }) served).host.bufOut.length = 1 := by decide +kernel

/-- LC_ADVANCE to PROVISIONED with a key hash, for the serial number 0, or for 1. -/
def lcD (target serial : Nat) : Desc :=
  { dsc 0xFF000000 with inl := BitVec.ofNat 320 (target + serial * 2 ^ 64), plen := BitVec.ofNat 32 (lcLen target), buf := leBytes (lcLen target) 9 }
theorem witness_LifeCycleCommands :
    served.accepted (withOp opLcAdvance (lcD 1 0)) = true ∧ lcStepOk 0 1 = true ∧ lcStepOk 0 2 = false ∧ lcStepOk 3 3 = false ∧
    served.serialOk (lcD 1 0) = true ∧ leNat (lcD 1 0).bytes ≠ 0 ∧ (after (.lcAdvance (lcD 1 0)) served).lcPending.isSome = true ∧
    (after (.lcAdvance (lcD 1 1)) served).lcPending = none ∧ (after (.lcAdvance (lcD 3 0)) served).lcPending = none ∧
    served.accepted (withOp opWipe (lcD 1 0)) = true ∧ (after (.wipe (lcD 3 0)) served).wipeRun = some ⟨true, true, false⟩ ∧
    (after (.wipe (lcD 3 1)) served).wipeRun = none ∧ (after (.wipe (lcD 0 0)) served).wipeRun = none := by decide +kernel

/-! ## Rules stated whole -/

/-- R298 and its burst: PPS_IN armed EVERY under supervision whose burst ends. -/
theorem witness_PpsGaps :
    (gapAt 1081344000 false).cond fPpsLost = false ∧ (gapAt 1081344000 false).phase = .released ∧
    (after (.ppsMissing 0) (gapAt 1081344000 false)).slates.map Slate.code = [0x0009] ∧
    ((after (.ppsMissing 0) (gapAt 1081344000 false)).mgmtByte 0x201).getLsbD 1 = true ∧
    (((pulseAt 2 (some (burst 0))).advance 1000).pulse 0).burst = some { burst 0 with now := 0 } ∧
    (after (.handshakeEnd 0) (pulseAt 2 (some (burst 0)))).slates.map Slate.code = [0x0001] := by decide +kernel
/-- A step that enters a test mode, and one that ends it. -/
def factoryTest (q : List Instr) : State := { base with tap := { Tap.reset with testing := true }, pending := q }
theorem witness_TestModesHold :
    base.fuses.lcState = 0 ∧ (match step { base with pending := [.testMode] } with | .next t => t.tap.testing | _ => false) = true ∧
    (factoryTest [.porstNAssert 1000]).tap.testing = true ∧
    (match step (factoryTest [.porstNAssert 1000]) with | .next t => t.tap.testing | _ => true) = false ∧
    (factoryTest []).shortNow = true := by decide
/-- Two copies of a record, the second newer or the generations equal, and a write in its first or second attempt. -/
def copies (ga gb : Nat) : Mram :=
  { Mram.reset with recs := [(idClk, ⟨nvmCopy idClk ga (zeros 16), nvmCopy idClk gb (zeros 16)⟩)] }
theorem witness_RecordWrites :
    (copies 1 2).inUse idClk = some (2, zeros 16, false) ∧ (copies 0xFFFFFFFF 1).inUse idClk = some (1, zeros 16, false) ∧
    (copies 5 5).inUse idClk = some (5, zeros 16, true) ∧ Mram.reset.inUse idClk = none := by decide +kernel
def writing (attempt : Nat) : State := { base with mram := { Mram.reset with writes := [⟨idClk, zeros 16, 1, true, attempt⟩] } }
theorem witness_RecordWrites_end :
    idClk ≠ idDailies ∧ (after (.nvmWriteDone 0 idClk 0 false) (writing 0)).mram.writes.map NvmWrite.attempt = [1] ∧
    (after (.nvmWriteDone 0 idClk 0 false) (writing 1)).flag fNvmFail = true ∧ (after (.nvmWriteDone 0 idClk 0 false) (writing 1)).mram.writes = [] ∧
    (after (.nvmWriteDone 0 idClk 0 true) (writing 0)).mram.writes = [] ∧ (cmdNvmCommit commitD served).status = .ok ∧
    (cmdStoryboardWrite (sbD 0 1 0 emptyImage 32) served).status = .ok := by decide +kernel
/-- An EVT ring with REC set and room, and a flag that ATTN_MASK has. -/
def counting : State :=
  (endpoint { Ring.reset with kind := 3, logBuf := 5, enable := true, st := .running, ctx := zeros 7 ++ [1] ++ zeros 40 }).setFlag fBusError
/-- The same with a clear of the flag on a CK_CORE edge. -/
def cleared (e : Nat) : State := { counting with flags := { counting.flags with edgeClear := (e, BitVec.allOnes 256) } }
theorem witness_FlagsCounted :
    (endpoint { Ring.reset with kind := 3, logBuf := 5, enable := true, st := .running, ctx := zeros 7 ++ [1] ++ zeros 40 }).flags.counts.length = 256 ∧
    (({ Ring.reset with ctx := zeros 7 ++ [1] ++ zeros 40 } : Ring).kflags) % 2 = 1 ∧ counting.flag fBusError = true ∧
    (counting.ring 0).out.length = 1 ∧ counting.log.held.map Daily.code = [0x0002] ∧
    ((counting.setFlag fBusError).ring 0).out.length = 1 ∧ (counting.setFlag fBusError).flags.counts.getD fBusError 0 = 2 ∧
    edgeOf 3 = 1 ∧ (cleared 1).flags.clearedAt 1 fBusError = true ∧ (cleared 1).flag fBusError = true ∧
    (((cleared 1).setFlag fBusError).ring 0).out.length = 2 ∧ (cleared 2).flags.clearedAt 1 fBusError = false ∧
    (((cleared 2).setFlag fBusError).ring 0).out.length = 1 := by decide +kernel

end Sys2Proof.Tests
end

section
/-! PROOF. A gap of PPS_IN (R298): what a change of a lasting condition and a slate do to the flag register and to the slates that wait,
what page 0x0200 shows of the register, and the two rows that begin and end a gap. -/
namespace Sys2Proof.Proofs
open Sys2Proof Sys2Proof.Machine Sys2Proof.Laws

/-! ## The flag register and the waiting slates under a report -/

/-- The flags, their lasting conditions, the halt and the slates that wait are the same in `t` as in `s`. -/
structure SameRegister (s t : State) : Prop where
  bits : t.flags.bits = s.flags.bits
  cond : t.flags.cond = s.flags.cond
  halted : t.flags.halted = s.flags.halted
  slates : t.slates = s.slates

theorem SameRegister.trans {a b c : State} (h : SameRegister a b) (k : SameRegister b c) : SameRegister a c :=
  ⟨k.bits.trans h.bits, k.cond.trans h.cond, k.halted.trans h.halted, k.slates.trans h.slates⟩

theorem SameRegister.of_hostOnly {s t : State} (h : s.hostOnly t) : SameRegister s t := by
  have hf := hostOnly_flags h
  exact ⟨by rw [hf], by rw [hf], by rw [hf], hostOnly_slates h⟩

/-- An entry of the Dailies sets at most the attention request, and writes to rings. -/
theorem addDaily_sameRegister (s : State) (code sev : Nat) (object : Id) (data : List Byte) (t : Nat) :
    SameRegister s (s.addDaily code sev object data t) := by
  unfold State.addDaily
  split
  · exact ⟨rfl, rfl, rfl, rfl⟩
  · refine SameRegister.trans ?_ (.of_hostOnly (foldl_hostOnly _ (fun b i => ?_) _ _))
    · constructor <;> dsimp only <;> split <;> rfl
    · split
      · exact putDaily_hostOnly ..
      · exact hostOnly_refl b

theorem flagRise_sameRegister (s : State) (n : Nat) (met : Bool) (t : Nat) : SameRegister s (s.flagRise n met t) := by
  unfold State.flagRise
  refine SameRegister.trans ?_ (addDaily_sameRegister ..)
  refine SameRegister.trans ?_ (.of_hostOnly (putAll_hostOnly ..))
  dsimp only
  split <;> exact ⟨rfl, rfl, rfl, rfl⟩

/-! ## A set of a flag -/

/-- Before release a set is only noted; after it, it sets the flag's bit, and no more of the register changes. -/
theorem setFlagMet_sameRegister (s : State) (n : Nat) (met : Bool) (t : Nat) :
    SameRegister { s with flags := { s.flags with
      bits := if s.phase = .released then s.flags.bits ||| flagBit n else s.flags.bits } } (s.setFlagMet n met t) := by
  unfold State.setFlagMet
  by_cases hp : s.phase = .released
  · rw [if_pos hp, if_neg (not_not.mpr hp)]
    dsimp only
    split
    · refine SameRegister.trans ?_ (flagRise_sameRegister ..)
      exact ⟨rfl, rfl, rfl, rfl⟩
    · exact ⟨rfl, rfl, rfl, rfl⟩
  · rw [if_neg hp, if_pos hp]
    exact ⟨rfl, rfl, rfl, rfl⟩

theorem flagBit_getLsbD_self {n : Nat} (h : n < 256) : (flagBit n).getLsbD n = true := by
  rw [flagBit, BitVec.getLsbD_ofNat, Nat.testBit_two_pow_self]
  simp [h]

/-! ## A change of a lasting condition -/

/-- The flags as they are once the lasting condition of flag `n` has the given level, with no flag set yet. -/
def withCond (s : State) (n : Nat) (level : Bool) : State :=
  { s with flags := { s.flags with cond := if level then s.flags.cond ||| flagBit n else s.flags.cond &&& ~~~ flagBit n } }

theorem withCond_cond {n : Nat} (h : n < 256) (s : State) (level : Bool) : (withCond s n level).cond n = level := by
  cases level <;> simp [withCond, State.cond, flagBit_getLsbD_self h, h]

/-- What a change of a lasting condition does (R427): nothing when the level is the same; at the onset on a released device it sets the flag
too; else only the level changes. -/
theorem setCond_eq (s : State) (n : Nat) (level : Bool) :
    s.setCond n level = if level = s.cond n then s
      else if level = true ∧ s.phase = .released then (withCond s n level).setFlagMet n false s.now
      else withCond s n level := by
  simp [State.setCond, withCond]

theorem setCond_cond {n : Nat} (h : n < 256) (s : State) (level : Bool) : (s.setCond n level).cond n = level := by
  rw [setCond_eq]
  split
  next same => exact same.symm
  next =>
    split
    · unfold State.cond
      rw [(setFlagMet_sameRegister ..).cond]
      exact withCond_cond h s level
    · exact withCond_cond h s level

theorem setCond_halted_and_slates (s : State) (n : Nat) (level : Bool) :
    (s.setCond n level).flags.halted = s.flags.halted ∧ (s.setCond n level).slates = s.slates := by
  rw [setCond_eq]
  split
  · exact ⟨rfl, rfl⟩
  · split
    · exact ⟨(setFlagMet_sameRegister ..).halted, (setFlagMet_sameRegister ..).slates⟩
    · exact ⟨rfl, rfl⟩

theorem setCond_halted (s : State) (n : Nat) (level : Bool) : (s.setCond n level).flags.halted = s.flags.halted :=
  (setCond_halted_and_slates s n level).1
theorem setCond_slates (s : State) (n : Nat) (level : Bool) : (s.setCond n level).slates = s.slates :=
  (setCond_halted_and_slates s n level).2

/-- The onset of a lasting condition on a released device is a set of its flag. -/
theorem setCond_flag_of_onset {n : Nat} (h : n < 256) {s : State} (hp : s.phase = .released) (hc : s.cond n = false) :
    (s.setCond n true).flag n = true := by
  have hp' : (withCond s n true).phase = .released := hp
  rw [setCond_eq, if_neg (by simp [hc]), if_pos ⟨rfl, hp⟩]
  unfold State.flag
  rw [(setFlagMet_sameRegister ..).bits, if_pos hp']
  simp [flagBit_getLsbD_self h]

/-! ## A slate -/

theorem slateAt_flags (s : State) (code : Nat) (object : Id) (time qual : Nat) (p : List Byte) :
    (s.slateAt code object time qual p).flags = s.flags := by
  unfold State.slateAt; split <;> rfl

/-- On a released device whose controller runs, a slate joins those that wait, with its code and with the extra bits of QUAL. -/
theorem slateAt_slates_of_running {s : State} (hp : s.phase = .released) (hh : s.flags.halted = false) (code : Nat) (object : Id)
    (time qual : Nat) (p : List Byte) :
    ∃ x, (s.slateAt code object time qual p).slates = s.slates ++ [x] ∧ x.code = code ∧ x.qual = s.qualNow ||| qual := by
  simp [State.slateAt, hp, hh]

theorem slateDet_slates_of_running {s : State} (hp : s.phase = .released) (hh : s.flags.halted = false) (code : Nat) (object : Id)
    (p : List Byte) :
    ∃ x, (s.slateDet code object p).slates = s.slates ++ [x] ∧ x.code = code ∧ x.qual.testBit 6 = true := by
  obtain ⟨x, hx, hcode, hqual⟩ := slateAt_slates_of_running hp hh code object (s.timeAt s.now) qDetected p
  refine ⟨x, hx, hcode, ?_⟩
  have hbit : qDetected.testBit 6 = true := by decide
  rw [hqual, Nat.testBit_or, hbit, Bool.or_true]

/-! ## Page 0x0200 -/

theorem leBytes_length (n v : Nat) : (leBytes n v).length = n := by
  induction n generalizing v with
  | zero => rfl
  | succ n ih => simp [leBytes, ih]

theorem byteAt_leBytes {n i : Nat} (h : i < n) (v : Nat) : byteAt (leBytes n v) i = BitVec.ofNat 8 (v / 256 ^ i) := by
  induction n generalizing v i with
  | zero => omega
  | succ n ih =>
    cases i with
    | zero => simp [byteAt, leBytes]
    | succ i =>
      have hrest : byteAt (leBytes n (v / 256)) i = BitVec.ofNat 8 (v / 256 / 256 ^ i) := ih (by omega) _
      rw [pow_succ', ← Nat.div_div_eq_div_mul, ← hrest]
      simp [byteAt, leBytes]

theorem byteAt_append_left {a : List Byte} {i : Nat} (h : i < a.length) (b : List Byte) : byteAt (a ++ b) i = byteAt a i :=
  List.getD_append _ _ _ _ h

/-- The first 32 bytes of the page are the flag register (R403). -/
theorem byteAt_flagPage (s : State) {i : Nat} (h : i < 32) :
    byteAt s.flagPage i = BitVec.ofNat 8 (s.flags.bits.toNat / 256 ^ i) := by
  unfold State.flagPage
  simp only [List.append_assoc]
  rw [byteAt_append_left (by rw [leBytes_length]; exact h), byteAt_leBytes h]

/-- Page 0x0200 shows flag 8i + j in bit j of its byte i. -/
theorem mgmtByte_flagPage_getLsbD (s : State) {i j : Nat} (hi : i < 32) (hj : j < 8) :
    (s.mgmtByte (0x200 + i)).getLsbD j = s.flag (8 * i + j) := by
  have hbyte : s.mgmtByte (0x200 + i) = BitVec.ofNat 8 (s.flags.bits.toNat / 2 ^ (8 * i)) := by
    rw [pow_mul, show 2 ^ 8 = 256 from rfl, ← byteAt_flagPage s hi]
    have hlow : ¬ 0x200 + i < 0x100 := by omega
    have hhigh : 0x200 + i < 0x300 := by omega
    simp [State.mgmtByte, hlow, hhigh]
  rw [hbyte, BitVec.getLsbD_ofNat, Nat.testBit_div_two_pow]
  simp [hj, State.flag, BitVec.getLsbD, Nat.add_comm]

/-! ## The pulse inputs -/

theorem modAt_getElem?_self {α : Type} (f : α → α) (l : List α) (i : Nat) : (modAt i f l)[i]? = l[i]?.map f := by
  induction l generalizing i with
  | nil => simp [modAt]
  | cons a l ih =>
    cases i with
    | zero => rfl
    | succ i => exact ih i

theorem modPulse_pulse_self {s : State} {i : Nat} (h : i < s.pulses.length) (f : PulseIn → PulseIn) :
    (s.modPulse i f).pulse i = f (s.pulse i) := by
  simp [State.pulse, State.modPulse, modAt_getElem?_self, h]

/-- An input with a burst is one of the device's. -/
theorem lt_length_of_burst {s : State} {i : Nat} {b : Burst} (h : (s.pulse i).burst = some b) : i < s.pulses.length := by
  by_contra hi
  have hnone : s.pulse i = PulseIn.reset := by simp [State.pulse, List.getElem?_eq_none (Nat.le_of_not_lt hi)]
  simp [hnone, PulseIn.reset] at h

theorem reportsOnly_pulse {s t : State} (h : s.reportsOnly t) (i : Nat) : t.pulse i = s.pulse i := by
  unfold State.pulse; rw [reportsOnly_pulses h]

/-! ## The beginning of a gap: PPS_MISSING -/

/-- A state at which PPS_MISSING is due: PPS_IN is armed EVERY with SUPERVISE, in no burst, and silent for 1.1 s (R298). -/
structure GapDue (u : State) : Prop where
  mode : (u.pulse 0).mode = 2
  supervise : (u.pulse 0).supervise = true
  burst : (u.pulse 0).burst = none
  silent : (u.pulse 0).lastAt + ppsGap ≤ u.now

/-- The gap noted at PPS_IN, and PPS_LOST's lasting condition with it. -/
def gapMarked (u : State) : State := (u.modPulse 0 (fun p => { p with gapRaised := true })).setCond fPpsLost true

/-- The payload of the slate PPS_MISSING: the last PPS and the length of the gap (R294). -/
def gapPayload (u : State) : List Byte :=
  leBytes 8 (u.pulse 0).lastPps.toNat ++ leBytes 4 (satU 32 ((u.now - (u.pulse 0).lastAt) / 983040))

theorem execPpsMissing_of_due {s : State} {t : Nat} (hd : GapDue (s.advance t)) (hg : ((s.advance t).pulse 0).gapRaised = false) :
    execPpsMissing t s =
      done s ((gapMarked (s.advance t)).slateDet 0x0009 (pointId 5) (gapPayload (s.advance t))) := by
  unfold execPpsMissing
  exact if_pos ⟨hd.mode, hd.supervise, hg, hd.burst, hd.silent⟩

theorem execPpsMissing_of_raised {s : State} {t : Nat} (hg : ((s.advance t).pulse 0).gapRaised = true) :
    execPpsMissing t s = done s (s.advance t) := by
  unfold execPpsMissing
  exact if_neg (by simp [hg])

theorem gapMarked_phase (u : State) : (gapMarked u).phase = u.phase :=
  (reportsOnly_phase (setCond_reportsOnly ..)).trans (modPulse_phase ..)
theorem gapMarked_halted (u : State) : (gapMarked u).flags.halted = u.flags.halted :=
  (setCond_halted ..).trans (congrArg Flags.halted (modPulse_flags ..))
theorem gapMarked_slates (u : State) : (gapMarked u).slates = u.slates := (setCond_slates ..).trans (modPulse_slates ..)
theorem gapMarked_cond (u : State) : (gapMarked u).cond fPpsLost = true := setCond_cond (by decide) ..
theorem gapMarked_flag {u : State} (hp : u.phase = .released) (hc : u.cond fPpsLost = false) : (gapMarked u).flag fPpsLost = true :=
  setCond_flag_of_onset (s := u.modPulse 0 _) (by decide) hp hc
theorem gapMarked_pulse {u : State} (h : u.pulses ≠ []) : (gapMarked u).pulse 0 = { u.pulse 0 with gapRaised := true } :=
  (reportsOnly_pulse (setCond_reportsOnly ..) 0).trans (modPulse_pulse_self (List.length_pos_iff.mpr h) _)

/-- PPS_LOST stands in bit 1 of byte 1 of page 0x0200 (R403). -/
theorem mgmtByte_ppsLost (s : State) : (s.mgmtByte (0x200 + 1)).getLsbD 1 = s.flag fPpsLost :=
  mgmtByte_flagPage_getLsbD s (i := 1) (j := 1) (by decide) (by decide)

/-! ## The end of a gap: the burst's slate -/

theorem execHandshakeEnd_of_last {s : State} {i : Nat} {b b' : Burst} (hb : (s.pulse i).burst = some b)
    (he : ((s.advance b.ends).pulse i).burst = some b') (h0 : b'.now = 0) :
    execHandshakeEnd i s = done s ((s.advance b.ends).burstEnd i b') := by
  simp [execHandshakeEnd, hb, State.handshakeStep, he, h0]

/-- The end of a burst of PPS_IN in its three acts: the slate, the input disarmed or not and out of its gap, PPS_LOST's condition ended. -/
theorem burstEnd_zero (u : State) (b : Burst) : ∃ time qual payload f, (∀ p : PulseIn, (f p).gapRaised = false) ∧
    u.burstEnd 0 b = (((u.slateAt 0x0001 (pointId 5) time qual payload).modPulse 0 f).setCond fPpsLost false) :=
  ⟨_, _, _, _, fun _ => rfl, rfl⟩

theorem burstEnd_zero_gapRaised {u : State} {b b' : Burst} (h : (u.pulse 0).burst = some b') :
    ((u.burstEnd 0 b).pulse 0).gapRaised = false := by
  obtain ⟨time, qual, payload, f, hf, he⟩ := burstEnd_zero u b
  have hlen : 0 < (u.slateAt 0x0001 (pointId 5) time qual payload).pulses.length := by
    rw [reportsOnly_pulses (slateAt_reportsOnly ..)]; exact lt_length_of_burst h
  rw [he, reportsOnly_pulse (setCond_reportsOnly ..), modPulse_pulse_self hlen]
  exact hf _

theorem burstEnd_zero_cond (u : State) (b : Burst) : (u.burstEnd 0 b).cond fPpsLost = false := by
  obtain ⟨time, qual, payload, f, -, he⟩ := burstEnd_zero u b
  rw [he]
  exact setCond_cond (by decide) _ false

theorem burstEnd_zero_slates {u : State} (hp : u.phase = .released) (hh : u.flags.halted = false) (b : Burst) :
    ∃ x, (u.burstEnd 0 b).slates = u.slates ++ [x] ∧ x.code = 0x0001 := by
  obtain ⟨time, qual, payload, f, -, he⟩ := burstEnd_zero u b
  obtain ⟨x, hx, hcode, -⟩ := slateAt_slates_of_running hp hh 0x0001 (pointId 5) time qual payload
  refine ⟨x, ?_, hcode⟩
  rw [he, setCond_slates, modPulse_slates, hx]

/-! ## The obligation -/

theorem completes_of_done {c : Instr} {s t : State} {p : State → Prop} (hs : s.live) (h : exec c s = done s t) (hp : p (s.framed t)) :
    completes c s p :=
  ⟨s.framed t, h.trans (done_of_live hs t), hp⟩

/-- The first PPS_MISSING of a gap. -/
theorem ppsMissing_raises {s : State} (hs : s.live) {t : Nat} (hd : GapDue (s.advance t)) (hne : (s.advance t).pulses ≠ [])
    (hg : ((s.advance t).pulse 0).gapRaised = false) : completes (.ppsMissing t) s (fun r =>
      r.cond fPpsLost = true ∧ (r.pulse 0).gapRaised = true ∧ (r.pulse 0).mode = 2 ∧
      ((s.advance t).phase = .released → (s.advance t).flags.halted = false →
        ((s.advance t).cond fPpsLost = false → r.flag fPpsLost = true ∧ (r.mgmtByte (0x200 + 1)).getLsbD 1 = true) ∧
        ∃ x, r.slates = (s.advance t).slates ++ [x] ∧ x.code = 0x0009 ∧ x.qual.testBit 6 = true)) := by
  refine completes_of_done hs (execPpsMissing_of_due hd hg) ?_
  generalize s.advance t = u at *
  have hflags : ((gapMarked u).slateDet 0x0009 (pointId 5) (gapPayload u)).flags = (gapMarked u).flags := slateAt_flags ..
  have hpulse : (s.framed ((gapMarked u).slateDet 0x0009 (pointId 5) (gapPayload u))).pulse 0 =
      { u.pulse 0 with gapRaised := true } :=
    (reportsOnly_pulse (slateDet_reportsOnly ..) 0).trans (gapMarked_pulse hne)
  refine ⟨?_, by rw [hpulse], by rw [hpulse]; exact hd.mode, fun hp hh => ⟨fun hc => ?_, ?_⟩⟩
  · rw [State.cond, framed_flags, hflags]
    exact gapMarked_cond u
  · rw [mgmtByte_ppsLost, and_self, State.flag, framed_flags, hflags]
    exact gapMarked_flag hp hc
  · rw [framed_slates, ← gapMarked_slates u]
    exact slateDet_slates_of_running (by rw [gapMarked_phase, hp]) (by rw [gapMarked_halted, hh]) ..

/-- The last handshake of a burst of PPS_IN. -/
theorem handshakeEnd_endsGap {s : State} (hs : s.live) {b b' : Burst} (hb : (s.pulse 0).burst = some b)
    (he : ((s.advance b.ends).pulse 0).burst = some b') (h0 : b'.now = 0) : completes (.handshakeEnd 0) s (fun r =>
      (r.pulse 0).gapRaised = false ∧ r.cond fPpsLost = false ∧
      ((s.advance b.ends).phase = .released → (s.advance b.ends).flags.halted = false →
        ∃ x, r.slates = (s.advance b.ends).slates ++ [x] ∧ x.code = 0x0001)) :=
  completes_of_done hs (execHandshakeEnd_of_last hb he h0)
    ⟨burstEnd_zero_gapRaised he, burstEnd_zero_cond _ _, fun hp hh => burstEnd_zero_slates hp hh _⟩

/-- Settles O57: PPS_MISSING acts at most once in a gap, on the flag register and the waiting slates, and the end of the next burst undoes
the gap and the lasting condition. -/
theorem ppsGaps : Obligations.PpsGaps := by
  intro s hs
  refine ⟨fun t => ?_, fun b hb he => handshakeEnd_endsGap hs hb he rfl⟩
  intro u hne hmode hsup hburst hsilent
  exact ⟨ppsMissing_raises hs ⟨hmode, hsup, hburst, hsilent⟩ hne,
    fun hg => completes_of_done hs (execPpsMissing_of_raised hg) rfl⟩

end Sys2Proof.Proofs
end

section
/-! PROOF. The copies of a record (R417): which one is in use, what the begin of a write leaves of them, what the end of an attempt leaves,
and that the reports which follow a write touch neither the MRAM nor a flag. -/
namespace Sys2Proof.Proofs
open Sys2Proof Sys2Proof.Machine Sys2Proof.Laws

/-! ## Sorted lists -/

theorem insertBy_perm {α : Type} (key : α → Nat) (a : α) (l : List α) : (insertBy key a l).Perm (a :: l) := by
  induction l with
  | nil => exact .refl _
  | cons b bs ih =>
    unfold insertBy
    split
    · exact .refl _
    · exact (ih.cons b).trans (.swap ..)

theorem sortBy_perm {α : Type} (key : α → Nat) (l : List α) : (sortBy key l).Perm l := by
  have onto (acc : List α) : (l.foldl (fun acc a => insertBy key a acc) acc).Perm (acc ++ l) := by
    induction l generalizing acc with
    | nil => simp
    | cons a l ih => exact (ih _).trans (((insertBy_perm key a acc).append_right l).trans List.perm_middle.symm)
  exact onto []

/-- A search finds the one element of a list that passes its test. -/
theorem find?_eq_some_of_unique {α : Type} {p : α → Bool} {l : List α} {x : α} (hx : x ∈ l) (hp : p x = true)
    (unique : ∀ y ∈ l, p y = true → y = x) : l.find? p = some x := by
  obtain ⟨y, hy⟩ := Option.isSome_iff_exists.mp (List.find?_isSome.mpr ⟨x, hx, hp⟩)
  rw [hy, unique y (List.mem_of_find?_eq_some hy) (List.find?_some hy)]

/-! ## The copies of a record -/

theorem setCopies_copies (m : Mram) (id : Nat) (c : Copies) : (m.setCopies id c).copies id = c := by
  unfold Mram.setCopies Mram.copies
  dsimp only
  split
  next gone =>
    have absent : (m.recs.filter (fun r => r.1 != id)).find? (fun r => r.1 == id) = none := by simp
    rw [absent, gone]
    rfl
  next =>
    have found : (sortBy Prod.fst ((id, c) :: m.recs.filter (fun r => r.1 != id))).find? (fun r => r.1 == id) = some (id, c) := by
      have same := sortBy_perm Prod.fst ((id, c) :: m.recs.filter (fun r => r.1 != id))
      refine find?_eq_some_of_unique (same.mem_iff.mpr (List.mem_cons_self ..)) (by simp) fun y hy hid => ?_
      obtain rfl | hrest := List.mem_cons.mp (same.mem_iff.mp hy)
      · rfl
      · exact absurd hid (by simpa using (List.mem_filter.mp hrest).2)
    rw [found]
    rfl

theorem setCopy_copies (m : Mram) (id : Nat) (toA : Bool) (bs : List Byte) :
    (m.setCopy id toA bs).copies id = if toA then { m.copies id with a := bs } else { m.copies id with b := bs } :=
  setCopies_copies ..

/-- A copy being written is not valid: its length is that of no record. -/
theorem nvmRead_nil (id : Nat) : nvmRead id [] = none := by
  have short (n : Nat) : decide (([] : List Byte).length = 20 + n) = false := decide_eq_false (by simp; omega)
  simp only [nvmRead, short, Bool.false_and]
  rfl

/-! ## The copy in use -/

theorem genNewer_iff (a b : Nat) :
    genNewer a b = true ↔ 1 ≤ ((a : Int) - b) % 2 ^ 32 ∧ ((a : Int) - b) % 2 ^ 32 ≤ 2 ^ 31 - 1 := by
  simp only [genNewer, decide_eq_true_iff]
  omega

section
variable {m : Mram} {id g ga gb : Nat} {bs ba bb : List Byte}

theorem inUse_of_neither (ha : nvmRead id (m.copies id).a = none) (hb : nvmRead id (m.copies id).b = none) : m.inUse id = none := by
  simp [Mram.inUse, ha, hb]
theorem inUse_of_only_a (ha : nvmRead id (m.copies id).a = some (g, bs)) (hb : nvmRead id (m.copies id).b = none) :
    m.inUse id = some (g, bs, true) := by
  simp [Mram.inUse, ha, hb]
theorem inUse_of_only_b (ha : nvmRead id (m.copies id).a = none) (hb : nvmRead id (m.copies id).b = some (g, bs)) :
    m.inUse id = some (g, bs, false) := by
  simp [Mram.inUse, ha, hb]
theorem inUse_of_both (ha : nvmRead id (m.copies id).a = some (ga, ba)) (hb : nvmRead id (m.copies id).b = some (gb, bb)) :
    m.inUse id = if genNewer gb ga then some (gb, bb, false) else some (ga, ba, true) := by
  simp [Mram.inUse, ha, hb]

theorem inUse_congr {n : Mram} (h : m.recs = n.recs) (id : Nat) : m.inUse id = n.inUse id := by
  simp only [Mram.inUse, Mram.copies, h]

/-- Of two valid copies the newer is in use, and of equals A. -/
theorem inUse_of_both_cases (ha : nvmRead id (m.copies id).a = some (ga, ba)) (hb : nvmRead id (m.copies id).b = some (gb, bb)) :
    (1 ≤ ((gb : Int) - ga) % 2 ^ 32 → ((gb : Int) - ga) % 2 ^ 32 ≤ 2 ^ 31 - 1 → m.inUse id = some (gb, bb, false)) ∧
    (1 ≤ ((ga : Int) - gb) % 2 ^ 32 → ((ga : Int) - gb) % 2 ^ 32 ≤ 2 ^ 31 - 1 → m.inUse id = some (ga, ba, true)) ∧
    (ga = gb → m.inUse id = some (ga, ba, true)) := by
  rw [inUse_of_both ha hb]
  refine ⟨fun lo hi => if_pos ((genNewer_iff gb ga).mpr ⟨lo, hi⟩), fun lo hi => if_neg ?_, fun same => if_neg ?_⟩ <;>
    rw [genNewer_iff] <;> omega

theorem reads_none_of_inUse (h : m.inUse id = none) :
    nvmRead id (m.copies id).a = none ∧ nvmRead id (m.copies id).b = none := by
  cases ha : nvmRead id (m.copies id).a <;> cases hb : nvmRead id (m.copies id).b
  case none.none => exact ⟨rfl, rfl⟩
  case some.none => cases h.symm.trans (inUse_of_only_a ha hb)
  case none.some => cases h.symm.trans (inUse_of_only_b ha hb)
  case some.some =>
    rw [inUse_of_both ha hb] at h
    split at h <;> cases h

/-- The copy in use is a valid one. -/
theorem read_of_inUse {isA : Bool} (h : m.inUse id = some (g, bs, isA)) :
    nvmRead id (if isA then (m.copies id).a else (m.copies id).b) = some (g, bs) := by
  cases ha : nvmRead id (m.copies id).a <;> cases hb : nvmRead id (m.copies id).b
  case none.none => cases h.symm.trans (inUse_of_neither ha hb)
  case some.none => cases h.symm.trans (inUse_of_only_a ha hb); exact ha
  case none.some => cases h.symm.trans (inUse_of_only_b ha hb); exact hb
  case some.some =>
    rw [inUse_of_both ha hb] at h
    split at h <;> cases h
    · exact hb
    · exact ha

end

/-! ## A write begins -/

/-- Losing the copy that is not in use leaves the other in use. -/
theorem setCopy_other_inUse {m : Mram} {id g : Nat} {bs : List Byte} {isA : Bool} (h : m.inUse id = some (g, bs, isA)) :
    (m.setCopy id (!isA) []).inUse id = m.inUse id := by
  have valid := read_of_inUse h
  rw [h]
  cases isA with
  | true => exact inUse_of_only_a (by rw [setCopy_copies]; exact valid) (by rw [setCopy_copies]; exact nvmRead_nil id)
  | false => exact inUse_of_only_b (by rw [setCopy_copies]; exact nvmRead_nil id) (by rw [setCopy_copies]; exact valid)

/-- With no copy valid, losing A leaves none valid. -/
theorem setCopy_a_inUse_of_none {m : Mram} {id : Nat} (h : m.inUse id = none) : (m.setCopy id true []).inUse id = none :=
  inUse_of_neither (by rw [setCopy_copies]; exact nvmRead_nil id) (by rw [setCopy_copies]; exact (reads_none_of_inUse h).2)

theorem beginWrite_of_some {m : Mram} {id g : Nat} {bs : List Byte} {isA : Bool} (h : m.inUse id = some (g, bs, isA))
    (body : List Byte) :
    m.beginWrite id body = { m.setCopy id (!isA) [] with writes := ⟨id, body, genNext g, !isA, 0⟩ :: m.writes } := by
  simp [Mram.beginWrite, h]

theorem beginWrite_of_none {m : Mram} {id : Nat} (h : m.inUse id = none) (body : List Byte) :
    m.beginWrite id body = { m.setCopy id true [] with writes := ⟨id, body, 1, true, 0⟩ :: m.writes } := by
  simp [Mram.beginWrite, h]

/-- Till the end of a write the copy in use stays so. -/
theorem beginWrite_inUse (m : Mram) (id : Nat) (body : List Byte) : (m.beginWrite id body).inUse id = m.inUse id := by
  cases h : m.inUse id with
  | none =>
    rw [beginWrite_of_none h]
    exact setCopy_a_inUse_of_none h
  | some x =>
    rw [beginWrite_of_some h]
    exact (setCopy_other_inUse h).trans h

theorem nvmStart_mram_of_idle {s : State} {id : Nat} (h : s.mram.writes.any (fun w => w.id == id) = false) (body : List Byte) :
    (s.nvmStart id body).mram = s.mram.beginWrite id body := by
  simp [State.nvmStart, h]

theorem nvmStart_mram_congr {s t : State} (h : s.mram = t.mram) (id : Nat) (body : List Byte) :
    (s.nvmStart id body).mram = (t.nvmStart id body).mram := by
  unfold State.nvmStart
  rw [h]
  split <;> rfl

/-! ## The reports that follow a write -/

/-- The MRAM and the flags are the same in `t` as in `s`. -/
structure SameStore (s t : State) : Prop where
  mram : t.mram = s.mram
  bits : t.flags.bits = s.flags.bits

theorem SameStore.refl (s : State) : SameStore s s := ⟨rfl, rfl⟩
theorem SameStore.trans {a b c : State} (h : SameStore a b) (k : SameStore b c) : SameStore a c :=
  ⟨k.mram.trans h.mram, k.bits.trans h.bits⟩
theorem SameStore.of_hostOnly {s t : State} (h : s.hostOnly t) : SameStore s t :=
  ⟨hostOnly_mram h, (SameRegister.of_hostOnly h).bits⟩

theorem addDaily_sameStore (s : State) (code sev : Nat) (object : Id) (data : List Byte) (t : Nat) :
    SameStore s (s.addDaily code sev object data t) :=
  ⟨reportsOnly_mram (addDaily_reportsOnly ..), (addDaily_sameRegister ..).bits⟩

theorem slateAt_sameStore (s : State) (code : Nat) (object : Id) (time qual : Nat) (p : List Byte) :
    SameStore s (s.slateAt code object time qual p) :=
  ⟨reportsOnly_mram (slateAt_reportsOnly ..), by rw [slateAt_flags]⟩

theorem sbEnd_sameStore (s : State) (st : SbSt) : SameStore s (s.sbEnd st) :=
  .trans (.of_hostOnly (modSb_hostOnly ..)) (slateAt_sameStore ..)

theorem sbReport_sameStore (s : State) (n eflags : Nat) (d : Desc) (st : Status) : SameStore s (s.sbReport n eflags d st) := by
  unfold State.sbReport
  dsimp only
  split
  · exact .refl s
  · split
    · exact .trans (.trans (.of_hostOnly (modSb_hostOnly ..)) (addDaily_sameStore ..)) (sbEnd_sameStore ..)
    · exact .trans (.of_hostOnly (modSb_hostOnly ..)) (addDaily_sameStore ..)

theorem putBuf_hostOnly (s : State) (d : Desc) (bytes : List Byte) : s.hostOnly (s.putBuf d bytes) := by
  unfold State.putBuf
  split <;> rfl

theorem report_sameStore (s : State) (d : Desc) (cpl : Nat) (entry : Option (Nat × Nat)) (st : Status) (detail : Nat)
    (ret : List Byte) (waited remote : Bool) (time : Word64) :
    SameStore s (s.report d cpl entry st detail ret waited remote time) := by
  unfold State.report
  dsimp only
  split
  · exact sbReport_sameStore ..
  · split
    · exact ⟨rfl, rfl⟩
    · have completed := SameStore.of_hostOnly (hostOnly_trans (putBuf_hostOnly s d (ret.take d.plen.toNat))
        (completeOn_hostOnly _ cpl d st detail (ret.take d.plen.toNat).length waited remote time))
      split
      · exact ⟨completed.mram, completed.bits⟩
      · exact completed

theorem endOne_sameStore (st : Status) (t : Nat) (ret : List Byte) (s : State) (w : Waiting) :
    SameStore s (State.endOne st t ret s w) := by
  refine .trans ?_ (report_sameStore ..)
  exact ⟨rfl, rfl⟩

theorem endFirst_sameStore (s : State) (why : WaitFor) (st : Status) (t : Nat) : SameStore s (s.endFirst why st t) := by
  unfold State.endFirst
  split
  · exact endOne_sameStore ..
  · exact .refl s

theorem endWaitData_sameStore (s : State) (why : WaitFor) (st : Status) (t : Nat) (ret : List Byte) :
    SameStore s (s.endWaitData why st t ret) :=
  foldl_keeps SameStore .refl (fun _ _ _ => .trans) _ (endOne_sameStore st t ret) _ s

theorem calReport_sameStore (s : State) (u : Nat) (block : List Byte) (t : Nat) : SameStore s (s.calReport u block t) :=
  .trans (slateAt_sameStore ..) (.trans (addDaily_sameStore ..) (endWaitData_sameStore ..))

theorem calWritten_sameStore (s : State) (u gen : Nat) : SameStore s (s.calWritten u gen) := by
  unfold State.calWritten
  split
  · exact .refl s
  · refine .trans ?_ (calReport_sameStore ..)
    exact ⟨rfl, rfl⟩

/-- What the end of a write means for the rest of the device leaves the MRAM and the flags as they are. -/
theorem nvmEnded_sameStore (s : State) (id gen : Nat) (body : List Byte) (ok : Bool) : SameStore s (s.nvmEnded id gen body ok) := by
  unfold State.nvmEnded
  split
  · split
    · exact ⟨rfl, rfl⟩
    · exact endFirst_sameStore ..
  · split
    · exact calWritten_sameStore ..
    · exact endFirst_sameStore ..

theorem nvmFail_mram (s : State) (id : Nat) : (s.nvmFail id).mram = s.mram :=
  reportsOnly_mram (reportsOnly_trans (setFlag_reportsOnly ..) (slateDet_reportsOnly ..))

theorem nvmFail_flag {s : State} (hp : s.phase = .released) (id : Nat) : (s.nvmFail id).flag fNvmFail = true := by
  unfold State.flag State.nvmFail State.slateDet
  rw [slateAt_flags]
  unfold State.setFlag
  rw [(setFlagMet_sameRegister ..).bits, if_pos hp]
  simp [flagBit_getLsbD_self (n := fNvmFail) (by decide)]

/-! ## An attempt ends -/

section
variable {s : State} {t id : Nat} {w : NvmWrite}

theorem nvmNext_mram_of_last (h : (s.mram.writes.erase w).find? (fun x => x.id == w.id) = none) :
    (s.nvmNext w).mram = { s.mram with writes := s.mram.writes.erase w } := by
  simp [State.nvmNext, h]

theorem nvmNext_phase (s : State) (w : NvmWrite) : (s.nvmNext w).phase = s.phase := by
  unfold State.nvmNext
  dsimp only
  split <;> rfl

theorem exec_nvmWriteDone (t id seq : Nat) (ok : Bool) (s : State) :
    exec (.nvmWriteDone t id seq ok) s = execNvmWriteDone t id seq ok s := by
  rfl

theorem execNvmWriteDone_of_firstMismatch (hid : id ≠ idDailies)
    (hw : (s.advance t).mram.writes.find? (fun x => x.id == id) = some w) (h0 : w.attempt = 0) (seq : Nat) :
    exec (.nvmWriteDone t id seq false) s = done s { s.advance t with mram := { (s.advance t).mram with
      writes := (s.advance t).mram.writes.map (fun x => if x = w then { x with attempt := 1 } else x) } } := by
  simp [exec_nvmWriteDone, execNvmWriteDone, hid, hw, h0]

theorem execNvmWriteDone_of_agreed (hid : id ≠ idDailies)
    (hw : (s.advance t).mram.writes.find? (fun x => x.id == id) = some w) (seq : Nat) :
    exec (.nvmWriteDone t id seq true) s = done s ((({ s.advance t with
      mram := (s.advance t).mram.setCopy id w.toA (nvmCopy id w.gen w.body) } : State).nvmNext w).nvmEnded id w.gen w.body true) := by
  simp [exec_nvmWriteDone, execNvmWriteDone, hid, hw]

theorem execNvmWriteDone_of_secondMismatch (hid : id ≠ idDailies)
    (hw : (s.advance t).mram.writes.find? (fun x => x.id == id) = some w) (h1 : w.attempt ≠ 0) (seq : Nat) :
    exec (.nvmWriteDone t id seq false) s =
      done s ((((s.advance t).nvmNext w).nvmFail id).nvmEnded id w.gen w.body false) := by
  simp [exec_nvmWriteDone, execNvmWriteDone, hid, hw, h1]

end

/-! ## The commands that write a record -/

theorem cmdNvmCommit_mram (d : Desc) (s : State) (h : (cmdNvmCommit d s).status = .ok) :
    (cmdNvmCommit d s).s.mram =
      (s.nvmStart (recordId (d.inlByte 0) (idIdx d.object)) (s.recordBody (d.inlByte 0) (idIdx d.object) d.bytes)).mram := by
  revert h
  fun_cases cmdNvmCommit d s
  case case6 => exact fun _ => rfl
  all_goals exact nofun

theorem cmdStoryboardWrite_mram (d : Desc) (s : State) (h : (cmdStoryboardWrite d s).status = .ok)
    (last : (d.inlByte 1).testBit 0 = true) : ∃ im, (cmdStoryboardWrite d s).s.mram = (s.nvmStart idStoryboard im).mram := by
  revert h
  unfold cmdStoryboardWrite
  fun_cases State.sbStage s d true
  case case4 more => exact Bool.noConfusion (last.symm.trans ((Bool.not_eq_true' _).mp more))
  case case6 im _ _ _ _ =>
    rw [if_pos rfl]
    exact fun _ => ⟨im, nvmStart_mram_congr (modSb_mram s _) idStoryboard im⟩
  all_goals exact nofun

/-! ## The obligation -/

/-- A write that nothing precedes goes to the other copy, with the next generation, and leaves the copy in use as it was. -/
theorem nvmStart_of_idle {s : State} {id : Nat} (h : s.mram.writes.any (fun w => w.id == id) = false) (body : List Byte) :
    (s.nvmStart id body).mram.inUse id = s.mram.inUse id ∧
    (∀ g bs isA, s.mram.inUse id = some (g, bs, isA) → (s.nvmStart id body).mram.writes =
      ⟨id, body, if g = 0xFFFFFFFF then 1 else g + 1, !isA, 0⟩ :: s.mram.writes) ∧
    (s.mram.inUse id = none → ∃ isA, (s.nvmStart id body).mram.writes = ⟨id, body, 1, isA, 0⟩ :: s.mram.writes) := by
  rw [nvmStart_mram_of_idle h]
  exact ⟨beginWrite_inUse .., fun g bs isA used => by rw [beginWrite_of_some used]; rfl,
    fun unused => ⟨true, by rw [beginWrite_of_none unused]⟩⟩

section
variable {s : State} {t id : Nat} {w : NvmWrite}

/-- A read-back that agrees puts the copy in place. -/
theorem nvmWriteDone_agreed (hs : s.live) (hid : id ≠ idDailies)
    (hw : (s.advance t).mram.writes.find? (fun x => x.id == id) = some w)
    (last : ((s.advance t).mram.writes.erase w).find? (fun x => x.id == id) = none) (seq : Nat) :
    completes (.nvmWriteDone t id seq true) s (fun r => r.mram =
      { (s.advance t).mram.setCopy id w.toA (nvmCopy id w.gen w.body) with writes := (s.advance t).mram.writes.erase w }) := by
  refine completes_of_done hs (execNvmWriteDone_of_agreed hid hw seq) ?_
  obtain rfl : w.id = id := by simpa using List.find?_some hw
  rw [framed_mram, (nvmEnded_sameStore ..).mram]
  exact nvmNext_mram_of_last last

/-- A second mismatch ends the write with NVM_FAIL and the copy in use as before. -/
theorem nvmWriteDone_failed (hs : s.live) (hid : id ≠ idDailies)
    (hw : (s.advance t).mram.writes.find? (fun x => x.id == id) = some w)
    (last : ((s.advance t).mram.writes.erase w).find? (fun x => x.id == id) = none)
    (h1 : w.attempt ≠ 0) (hp : (s.advance t).phase = .released) (seq : Nat) :
    completes (.nvmWriteDone t id seq false) s (fun r => r.flag fNvmFail = true ∧
      r.mram = { (s.advance t).mram with writes := (s.advance t).mram.writes.erase w } ∧
      r.mram.inUse id = (s.advance t).mram.inUse id) := by
  refine completes_of_done hs (execNvmWriteDone_of_secondMismatch hid hw h1 seq) ?_
  obtain rfl : w.id = id := by simpa using List.find?_some hw
  rw [framed_mram, (nvmEnded_sameStore ..).mram, nvmFail_mram, nvmNext_mram_of_last last, State.flag, framed_flags,
    (nvmEnded_sameStore ..).bits]
  exact ⟨nvmFail_flag ((nvmNext_phase _ w).trans hp) w.id, rfl, inUse_congr rfl w.id⟩

end

/-- Settles O59: by the validity of the two copies, the begin of a write, the three ends of an attempt, and the two commands that write. -/
theorem recordWrites : Obligations.RecordWrites := by
  refine ⟨fun m id => ⟨inUse_of_neither, fun _ _ => inUse_of_only_a, fun _ _ => inUse_of_only_b, fun _ _ _ _ => inUse_of_both_cases⟩,
    fun s id body idle => nvmStart_of_idle idle body, ?_, fun d s => ⟨cmdNvmCommit_mram d s, cmdStoryboardWrite_mram d s⟩⟩
  intro s t id seq w hs u hid hw
  exact ⟨fun h0 => completes_of_done hs (execNvmWriteDone_of_firstMismatch hid hw h0 seq) rfl,
    fun last => ⟨nvmWriteDone_agreed hs hid hw last seq, fun h1 hp => nvmWriteDone_failed hs hid hw last h1 hp seq⟩⟩

end Sys2Proof.Proofs
end

section
/-! PROOF. Sets and risings of a flag (R428): what a record changes of the rings, what a Dailies entry and a rising do to the flag
register, the rings and the log, the two forms of a set on a released device, and where CNT_VAL stands. -/
namespace Sys2Proof.Proofs
open Sys2Proof Sys2Proof.Machine Sys2Proof.Laws

/-! ## One ring changed -/

theorem modAt_getElem?_of_ne {α : Type} (f : α → α) (l : List α) {i j : Nat} (h : i ≠ j) : (modAt j f l)[i]? = l[i]? := by
  induction l generalizing i j with
  | nil => simp [modAt]
  | cons a l ih =>
    cases j with
    | zero => cases i with
      | zero => exact absurd rfl h
      | succ i => rfl
    | succ j => cases i with
      | zero => rfl
      | succ i => exact ih (by omega)

theorem modRing_ring_of_ne (s : State) (f : Ring → Ring) {i j : Nat} (h : i ≠ j) : (s.modRing j f).ring i = s.ring i :=
  congrArg (·.getD Ring.reset) (modAt_getElem?_of_ne f s.host.rings h)

theorem modRing_ring_self {s : State} {j : Nat} (h : j < s.host.rings.length) (f : Ring → Ring) :
    (s.modRing j f).ring j = f (s.ring j) := by
  simp [State.ring, State.modRing, modAt_getElem?_self, h]

/-- What a change of one ring keeps of every ring is kept of each ring of the device. -/
theorem modRing_ring_keeps {α : Type} (p : Ring → α) {f : Ring → Ring} (h : ∀ r, p (f r) = p r) (s : State) (j i : Nat) :
    p ((s.modRing j f).ring i) = p (s.ring i) := by
  by_cases hij : i = j
  · subst hij
    simp only [State.ring, State.modRing, modAt_getElem?_self]
    cases s.host.rings[i]? with
    | none => rfl
    | some r => exact h r
  · rw [modRing_ring_of_ne s f hij]

/-- A ring that runs is one of the device's. -/
theorem lt_length_of_running {s : State} {i : Nat} (h : (s.ring i).st = .running) : i < s.host.rings.length := by
  by_contra hi
  have hnone : s.ring i = Ring.reset := by simp [State.ring, List.getElem?_eq_none (Nat.le_of_not_lt hi)]
  simp [hnone, Ring.reset] at h

/-- The rings of `t` are those of `s`, up to ring `j`, which runs as before and with the same kind. -/
structure OnlyRing (j : Nat) (s t : State) : Prop where
  other : ∀ i, i ≠ j → t.ring i = s.ring i
  runs : ∀ k, (t.ring j).isRunning k = (s.ring j).isRunning k

theorem OnlyRing.refl (j : Nat) (s : State) : OnlyRing j s s := ⟨fun _ _ => rfl, fun _ => rfl⟩
theorem OnlyRing.trans {j : Nat} {a b c : State} (h : OnlyRing j a b) (k : OnlyRing j b c) : OnlyRing j a c :=
  ⟨fun i hi => (k.other i hi).trans (h.other i hi), fun n => (k.runs n).trans (h.runs n)⟩

theorem OnlyRing.isRunning {j : Nat} {s t : State} (h : OnlyRing j s t) (i k : Nat) :
    (t.ring i).isRunning k = (s.ring i).isRunning k := by
  by_cases hij : i = j
  · subst hij; exact h.runs k
  · rw [h.other i hij]

theorem modRing_onlyRing (s : State) (j : Nat) {f : Ring → Ring} (h : ∀ r k, (f r).isRunning k = r.isRunning k) :
    OnlyRing j s (s.modRing j f) :=
  ⟨fun _ hi => modRing_ring_of_ne s f hi, fun k => modRing_ring_keeps (·.isRunning k) (fun r => h r k) s j j⟩

/-! ## A record on a ring -/

@[simp] theorem signalVec_ring (s : State) (v i : Nat) : (s.signalVec v).ring i = s.ring i := rfl

theorem signalVec_onlyRing (s : State) (v j : Nat) : OnlyRing j s (s.signalVec v) := ⟨fun _ _ => rfl, fun _ => rfl⟩

theorem ringCount_onlyRing (s : State) (j : Nat) : OnlyRing j s (s.ringCount j) := by
  unfold State.ringCount
  dsimp only
  split
  · split
    · exact (modRing_onlyRing s j fun _ _ => by rfl).trans (signalVec_onlyRing ..)
    · exact modRing_onlyRing s j fun _ _ => by rfl
  · exact .refl j s

/-- Counting toward a vector writes no record. -/
theorem ringCount_out (s : State) (j i : Nat) : ((s.ringCount j).ring i).out = (s.ring i).out := by
  unfold State.ringCount
  dsimp only
  split
  · split
    · rw [signalVec_ring]
      exact modRing_ring_keeps Ring.out (fun _ => by rfl) s j i
    · exact modRing_ring_keeps Ring.out (fun _ => by rfl) s j i
  · rfl

section
variable (s : State) (j key : Nat) (mk : Nat → Bool → Bool → List Byte)

theorem writeRecord_onlyRing : OnlyRing j s (s.writeRecord j key mk) := by
  unfold State.writeRecord
  dsimp only
  split
  · exact .refl j s
  · split
    · exact modRing_onlyRing s j fun _ _ => by rfl
    · exact modRing_onlyRing s j fun _ _ => by rfl

theorem putRecord_onlyRing : OnlyRing j s (s.putRecord j key mk) := by
  unfold State.putRecord
  dsimp only
  split
  · exact writeRecord_onlyRing s j key mk
  · exact (writeRecord_onlyRing s j key mk).trans (ringCount_onlyRing _ j)

end

/-- A ring that runs and has room takes one record more (R352). -/
theorem putRecord_out_of_room {s : State} {j : Nat} (hh : s.flags.halted = false) (hr : (s.ring j).st = .running)
    (room : (s.ring j).filled < (s.ring j).entries) (key : Nat) (mk : Nat → Bool → Bool → List Byte) :
    ∃ seq fresh dropped, ((s.putRecord j key mk).ring j).out = (s.ring j).out ++ [mk seq fresh dropped] := by
  have written : ((s.writeRecord j key mk).ring j).out = (s.ring j).out ++
      [mk ((s.ring j).stream key).seq ((s.ring j).stream key).fresh ((s.ring j).stream key).dropped] := by
    unfold State.writeRecord
    dsimp only
    rw [if_neg (by simp [hh, hr]), if_neg (Nat.not_le.mpr room), modRing_ring_self (lt_length_of_running hr)]
    rfl
  refine ⟨_, _, _, Eq.trans ?_ written⟩
  unfold State.putRecord
  dsimp only
  split
  · rfl
  · exact ringCount_out ..

/-! ## A record on every ring of a kind -/

/-- What `State.putAll` does at one ring. -/
def putAllAt (kind : Nat) (sel : Ring → Bool) (key : Nat) (mk : Nat → Bool → Bool → List Byte) (s : State) (i : Nat) : State :=
  if (s.ring i).isRunning kind && sel (s.ring i) then s.putRecord i key mk else s

section
variable (kind : Nat) (sel : Ring → Bool) (key : Nat) (mk : Nat → Bool → Bool → List Byte)

theorem putAll_eq_foldl (s : State) : s.putAll kind sel key mk = (List.range 64).foldl (putAllAt kind sel key mk) s := rfl

theorem putAllAt_hostOnly (s : State) (j : Nat) : s.hostOnly (putAllAt kind sel key mk s j) := by
  unfold putAllAt
  split
  · exact putRecord_hostOnly ..
  · exact hostOnly_refl s

theorem putAllAt_onlyRing (s : State) (j : Nat) : OnlyRing j s (putAllAt kind sel key mk s j) := by
  unfold putAllAt
  split
  · exact putRecord_onlyRing ..
  · exact .refl j s

theorem putAll_isRunning (s : State) (i k : Nat) : ((s.putAll kind sel key mk).ring i).isRunning k = (s.ring i).isRunning k :=
  foldl_keeps (fun a b : State => (b.ring i).isRunning k = (a.ring i).isRunning k) (fun _ => rfl) (fun _ _ _ h h' => h'.trans h) _
    (fun b j => (putAllAt_onlyRing kind sel key mk b j).isRunning i k) _ s

/-- The visits of other rings leave a ring as it was. -/
theorem foldl_putAllAt_ring_of_not_mem {l : List Nat} {i : Nat} (h : i ∉ l) (s : State) :
    (l.foldl (putAllAt kind sel key mk) s).ring i = s.ring i := by
  induction l generalizing s with
  | nil => rfl
  | cons j l ih =>
    obtain ⟨hij, hil⟩ := not_or.mp (mt List.mem_cons.mpr h)
    exact (ih hil _).trans ((putAllAt_onlyRing kind sel key mk s j).other i hij)

/-- Of the 64 visits one is a ring's own, and that one finds the ring as it was at the start. -/
theorem putAll_ring (s : State) {i : Nat} (hi : i < 64) : ∃ b : State, s.hostOnly b ∧ b.ring i = s.ring i ∧
    (s.putAll kind sel key mk).ring i = (putAllAt kind sel key mk b i).ring i := by
  obtain ⟨l₁, l₂, hl⟩ := List.append_of_mem (List.mem_range.mpr hi)
  have once : (l₁ ++ i :: l₂).Nodup := hl ▸ List.nodup_range
  obtain ⟨h₁, h₂⟩ : i ∉ l₁ ∧ i ∉ l₂ := by simpa using (List.nodup_cons.mp (List.nodup_middle.mp once)).1
  refine ⟨l₁.foldl (putAllAt kind sel key mk) s, foldl_hostOnly _ (putAllAt_hostOnly kind sel key mk) l₁ s,
    foldl_putAllAt_ring_of_not_mem kind sel key mk h₁ s, ?_⟩
  rw [putAll_eq_foldl, hl, List.foldl_append, List.foldl_cons]
  exact foldl_putAllAt_ring_of_not_mem kind sel key mk h₂ _

end

/-- Every ring that runs with the kind, meets the test and has room takes one record more. -/
theorem putAll_out_of_room {s : State} {i kind : Nat} {sel : Ring → Bool} (hh : s.flags.halted = false) (hi : i < 64)
    (runs : (s.ring i).isRunning kind = true) (meets : sel (s.ring i) = true) (room : (s.ring i).filled < (s.ring i).entries)
    (key : Nat) (mk : Nat → Bool → Bool → List Byte) :
    ∃ seq fresh dropped, ((s.putAll kind sel key mk).ring i).out = (s.ring i).out ++ [mk seq fresh dropped] := by
  obtain ⟨b, hb, same, visited⟩ := putAll_ring kind sel key mk s hi
  have hst : (b.ring i).st = .running := by
    rw [same]; exact of_decide_eq_true (Bool.and_eq_true_iff.mp runs).1
  rw [← same] at runs meets room
  rw [visited, ← same, putAllAt, if_pos (by rw [runs, meets]; rfl)]
  exact putRecord_out_of_room (by rw [hostOnly_flags hb, hh]) hst room key mk

/-! ## An entry of the Dailies log -/

/-- An entry on every ring that runs as a DAILIES ring. -/
def putDailies (e : Daily) (s : State) : State :=
  (List.range 64).foldl (fun b j => if (b.ring j).isRunning kDailies then b.putDaily j e else b) s

theorem putDailies_hostOnly (e : Daily) (s : State) : s.hostOnly (putDailies e s) := by
  refine foldl_hostOnly _ (fun b j => ?_) _ s
  split
  · exact putDaily_hostOnly ..
  · exact hostOnly_refl b

theorem putDailies_ring (e : Daily) {s : State} {i : Nat} (hi : (s.ring i).isRunning kDailies = false) :
    (putDailies e s).ring i = s.ring i := by
  refine List.foldlRecOn (motive := fun (b : State) => b.ring i = s.ring i) _ _ rfl fun b hb j _ => ?_
  split
  next runs =>
    have hij : i ≠ j := by
      rintro rfl
      rw [hb, hi] at runs
      cases runs
    exact ((putRecord_onlyRing b j keyDailies _).other i hij).trans hb
  next => exact hb

/-- A ring runs with one kind at most. -/
theorem isRunning_eq_false_of_ne {r : Ring} {k m : Nat} (h : r.isRunning k = true) (hne : k ≠ m) : r.isRunning m = false := by
  obtain ⟨-, hk⟩ := Bool.and_eq_true_iff.mp h
  obtain rfl : r.kind.toNat = k := by simpa using hk
  simp [Ring.isRunning, hne]

section
variable {s : State} (code sev : Nat) (object : Id) (data : List Byte) (t : Nat)

/-- An entry of the Dailies while the controller runs (R403, R439, R440): first the log takes it, and the attention request may be set;
then each running DAILIES ring gets it. -/
theorem addDaily_of_running (hh : s.flags.halted = false) : ∃ (e : Daily) (u : State),
    u.host = s.host ∧ u.log.held.getLast?.map Daily.code = some code ∧
    (∃ pend due, u.flags = { s.flags with pendDailies := pend, pulseDue := due }) ∧
    s.addDaily code sev object data t = putDailies e u := by
  unfold State.addDaily
  rw [if_neg (Bool.eq_false_iff.mp hh)]
  refine ⟨_, _, ?_, ?_, ?_, rfl⟩
  · rfl
  · simp [List.getLast?_drop]
  · dsimp only
    split
    · exact ⟨_, _, rfl⟩
    · exact ⟨_, _, rfl⟩

theorem addDaily_flags (hh : s.flags.halted = false) :
    ∃ pend due, (s.addDaily code sev object data t).flags = { s.flags with pendDailies := pend, pulseDue := due } := by
  obtain ⟨e, u, -, -, hu, he⟩ := addDaily_of_running code sev object data t hh
  rw [he, hostOnly_flags (putDailies_hostOnly ..)]
  exact hu

theorem addDaily_lastCode (hh : s.flags.halted = false) :
    (s.addDaily code sev object data t).log.held.getLast?.map Daily.code = some code := by
  obtain ⟨e, u, -, hu, -, he⟩ := addDaily_of_running code sev object data t hh
  rw [he, hostOnly_log (putDailies_hostOnly ..)]
  exact hu

/-- No ring but the running DAILIES rings sees the entry. -/
theorem addDaily_ring {i : Nat} (hh : s.flags.halted = false) (hi : (s.ring i).isRunning kDailies = false) :
    (s.addDaily code sev object data t).ring i = s.ring i := by
  obtain ⟨e, u, hu, -, -, he⟩ := addDaily_of_running code sev object data t hh
  have start : u.ring i = s.ring i := by unfold State.ring; rw [hu]
  rw [he, putDailies_ring e (start ▸ hi), start]

end

/-! ## A rising -/

/-- The fields of a flag record that name it (R436). -/
theorem flagRecord_header {n : Nat} (h : n < 256) (seq count : Nat) (cond met : Bool) (time : Word64) (flags : Nat) :
    leAt (flagRecord n seq count cond met time flags) 0 2 = 32 ∧ leAt (flagRecord n seq count cond met time flags) 2 1 = 2 ∧
    leAt (flagRecord n seq count cond met time flags) 4 2 = n := by
  simp [flagRecord, leBytes, leAt, leNat]
  omega

section
variable {s : State} {n : Nat}

/-- A rising in its acts (R428): the attention request, the flag records, the entry FLAG_SET. -/
theorem flagRise_acts (s : State) (n : Nat) (met : Bool) (t : Nat) :
    ∃ (u : State) (mk : Nat → Bool → Bool → List Byte) (sev : Nat) (object : Id) (data : List Byte), u.host = s.host ∧
    (∃ due, u.flags = { s.flags with pendFlag := s.flags.pendFlag || s.flags.attnMask.getLsbD n, pulseDue := due }) ∧
    (∀ seq fresh dropped, ∃ count cond time flags, mk seq fresh dropped = flagRecord n seq count cond met time flags) ∧
    s.flagRise n met t =
      (u.putAll kEvt (fun r => r.kflags % 2 == 1) keyFlag mk).addDaily 0x0002 sev object data t := by
  unfold State.flagRise
  refine ⟨_, _, _, _, _, ?_, ?_, fun _ _ _ => ⟨_, _, _, _, rfl⟩, rfl⟩
  · rfl
  · dsimp only
    split
    next asked => exact ⟨_, by rw [asked, Bool.or_true]⟩
    next unasked => exact ⟨s.flags.pulseDue, by rw [Bool.eq_false_iff.mpr unasked, Bool.or_false]⟩

/-- A rising asks for attention when ATTN_MASK has the flag. -/
theorem flagRise_flags (hh : s.flags.halted = false) (met : Bool) (t : Nat) : ∃ pend due, (s.flagRise n met t).flags =
    { s.flags with pendFlag := s.flags.pendFlag || s.flags.attnMask.getLsbD n, pendDailies := pend, pulseDue := due } := by
  obtain ⟨u, mk, sev, object, data, -, ⟨due, hu⟩, -, he⟩ := flagRise_acts s n met t
  have reported := hostOnly_flags (putAll_hostOnly u kEvt (fun r => r.kflags % 2 == 1) keyFlag mk)
  obtain ⟨pend, due', hd⟩ := addDaily_flags 0x0002 sev object data t (by rw [reported, hu]; exact hh)
  exact ⟨pend, due', by rw [he, hd, reported, hu]⟩

theorem flagRise_lastCode (hh : s.flags.halted = false) (met : Bool) (t : Nat) :
    (s.flagRise n met t).log.held.getLast?.map Daily.code = some 0x0002 := by
  obtain ⟨u, mk, sev, object, data, -, ⟨due, hu⟩, -, he⟩ := flagRise_acts s n met t
  rw [he]
  exact addDaily_lastCode 0x0002 sev object data t (by rw [hostOnly_flags (putAll_hostOnly ..), hu]; exact hh)

/-- Each running EVT ring with REC set and room takes one flag record; the entry FLAG_SET passes it by. -/
theorem flagRise_out (hn : n < 256) (hh : s.flags.halted = false) (met : Bool) (t : Nat) {i : Nat} (hi : i < 64)
    (runs : (s.ring i).isRunning kEvt = true) (rec : (s.ring i).kflags % 2 = 1)
    (room : (s.ring i).filled < (s.ring i).entries) : ∃ bytes, ((s.flagRise n met t).ring i).out = (s.ring i).out ++ [bytes] ∧
      leAt bytes 0 2 = 32 ∧ leAt bytes 2 1 = 2 ∧ leAt bytes 4 2 = n := by
  obtain ⟨u, mk, sev, object, data, hhost, ⟨due, hu⟩, hmk, he⟩ := flagRise_acts s n met t
  have start : u.ring i = s.ring i := by unfold State.ring; rw [hhost]
  have running : u.flags.halted = false := by rw [hu]; exact hh
  rw [← start] at runs rec room
  obtain ⟨seq, fresh, dropped, hout⟩ := putAll_out_of_room running hi runs (sel := fun r => r.kflags % 2 == 1)
    (beq_iff_eq.mpr rec) room keyFlag mk
  obtain ⟨count, cond, time, flags, hrec⟩ := hmk seq fresh dropped
  refine ⟨mk seq fresh dropped, ?_, hrec ▸ flagRecord_header hn seq count cond met time flags⟩
  rw [he, addDaily_ring, hout, start]
  · rw [hostOnly_flags (putAll_hostOnly ..), running]
  · rw [putAll_isRunning]
    exact isRunning_eq_false_of_ne runs (by decide)

/-! ## A set -/

/-- The state once a set of flag `n` at CK_RF count `t` is counted and noted, before a rising's reports. -/
def counted (s : State) (n t : Nat) (rise : Bool) : State :=
  { s with
    flags := { s.flags with bits := s.flags.bits ||| flagBit n, counts := modAt n (· + 1) s.flags.counts }.noteSet (edgeOf t) n rise
    clk := { s.clk with wakeReq := s.clk.wakeReq || s.clk.mgmtStopped } }

/-- A set is a rising when it finds the flag at 0 or meets a clear on its edge. -/
theorem setFlagMet_of_rising (hp : s.phase = .released) {met : Bool} {t : Nat}
    (h : s.flag n = false ∨ met = true ∨ s.flags.clearedAt (edgeOf t) n = true) :
    s.setFlagMet n met t = (counted s n t true).flagRise n (met || s.flags.clearedAt (edgeOf t) n) t := by
  have rises : (met || s.flags.clearedAt (edgeOf t) n || !s.flag n) = true := by
    obtain h | h | h := h <;> simp [h]
  unfold State.setFlagMet
  rw [if_neg (not_not.mpr hp)]
  dsimp only
  rw [rises]
  exact if_pos rfl

/-- A set that finds the flag at 1 and meets no clear ends there. -/
theorem setFlagMet_of_standing (hp : s.phase = .released) (hf : s.flag n = true) {t : Nat}
    (hc : s.flags.clearedAt (edgeOf t) n = false) : s.setFlagMet n false t = counted s n t false := by
  unfold State.setFlagMet
  rw [if_neg (not_not.mpr hp)]
  dsimp only
  rw [hc, hf]
  rfl

/-- To set a bit that stands already changes nothing. -/
theorem or_flagBit_of_getLsbD {b : BitVec 256} (h : b.getLsbD n = true) : b ||| flagBit n = b := by
  refine BitVec.eq_of_getLsbD_eq fun i hi => ?_
  rw [BitVec.getLsbD_or, flagBit, BitVec.getLsbD_ofNat, Nat.testBit_two_pow]
  by_cases hni : n = i
  · rw [← hni, h, Bool.true_or]
  · simp [hni]

/-- A set that is no rising leaves but its count and its note (R428), and wakes the management clock. -/
theorem counted_of_flag (hf : s.flag n = true) (t : Nat) (rise : Bool) : counted s n t rise = { s with
    flags := { s.flags with counts := modAt n (· + 1) s.flags.counts }.noteSet (edgeOf t) n rise
    clk := { s.clk with wakeReq := s.clk.wakeReq || s.clk.mgmtStopped } } := by
  unfold counted
  rw [or_flagBit_of_getLsbD hf]

/-- Both forms of a set count it, and neither moves CNT_SEL. -/
theorem setFlagMet_counts_and_cntSel (hp : s.phase = .released) (hh : s.flags.halted = false) (met : Bool) (t : Nat) :
    (s.setFlagMet n met t).flags.counts = modAt n (· + 1) s.flags.counts ∧
    (s.setFlagMet n met t).flags.cntSel = s.flags.cntSel := by
  by_cases h : s.flag n = false ∨ met = true ∨ s.flags.clearedAt (edgeOf t) n = true
  · obtain ⟨pend, due, hr⟩ := flagRise_flags (s := counted s n t true) (n := n) hh (met || s.flags.clearedAt (edgeOf t) n) t
    rw [setFlagMet_of_rising hp h, hr]
    exact ⟨rfl, rfl⟩
  · obtain ⟨hf, hm, hc⟩ : s.flag n = true ∧ met = false ∧ s.flags.clearedAt (edgeOf t) n = false := by simpa using h
    rw [hm, setFlagMet_of_standing hp hf hc]
    exact ⟨rfl, rfl⟩

theorem setFlagMet_flag (hn : n < 256) (hp : s.phase = .released) (met : Bool) (t : Nat) : (s.setFlagMet n met t).flag n = true := by
  unfold State.flag
  rw [(setFlagMet_sameRegister ..).bits, if_pos hp]
  simp [flagBit_getLsbD_self hn]

/-! ## CNT_VAL -/

theorem byteAt_append_right {a : List Byte} {k : Nat} (h : a.length = k) (b : List Byte) (i : Nat) :
    byteAt (a ++ b) (k + i) = byteAt b i := by
  rw [byteAt, List.getD_append_right _ _ _ _ (by omega), h, Nat.add_sub_cancel_left]
  rfl

/-- CNT_VAL stands behind the four masks of 32 bytes and the word of CNT_SEL. -/
theorem byteAt_flagPage_cntVal (s : State) {i : Nat} (h : i < 4) :
    byteAt s.flagPage (132 + i) = byteAt (leBytes 4 (s.flags.counts.getD s.flags.cntSel.toNat 0).toNat) i := by
  unfold State.flagPage
  dsimp only
  rw [byteAt_append_left (by simp [leBytes_length, zeros]; omega), byteAt_append_left (by simp [leBytes_length, zeros]; omega)]
  exact byteAt_append_right (by simp [leBytes_length, zeros]) _ i

/-- The four bytes from address 0x284 are the counter that CNT_SEL names (R403). -/
theorem mgmtByte_cntVal (s : State) {i : Nat} (h : i < 4) :
    s.mgmtByte (0x284 + i) = byteAt (leBytes 4 (s.flags.counts.getD s.flags.cntSel.toNat 0).toNat) i := by
  have offset : 0x284 + i - 0x200 = 132 + i := by omega
  unfold State.mgmtByte
  rw [if_neg (by omega), if_neg (by omega), if_pos (by omega), offset, byteAt_flagPage_cntVal s h]

theorem modAt_getD_self {α : Type} (f : α → α) {l : List α} {i : Nat} (h : i < l.length) (a : α) :
    (modAt i f l).getD i a = f (l.getD i a) := by
  simp [List.getD_eq_getElem?_getD, modAt_getElem?_self, h]

/-! ## The obligation -/

/-- The reports of a rising set. -/
theorem setFlagMet_reports (hn : n < 256) (hp : s.phase = .released) (hh : s.flags.halted = false) {met : Bool} {t : Nat}
    (h : s.flag n = false ∨ met = true ∨ s.flags.clearedAt (edgeOf t) n = true) :
    (s.setFlagMet n met t).flags.pendFlag = (s.flags.pendFlag || s.flags.attnMask.getLsbD n) ∧
    (∀ i, i < 64 → (s.ring i).isRunning kEvt = true → (s.ring i).kflags % 2 = 1 → (s.ring i).filled < (s.ring i).entries →
      ∃ rec, ((s.setFlagMet n met t).ring i).out = (s.ring i).out ++ [rec] ∧
        leAt rec 0 2 = 32 ∧ leAt rec 2 1 = 2 ∧ leAt rec 4 2 = n) ∧
    (s.setFlagMet n met t).log.held.getLast?.map Daily.code = some 0x0002 := by
  rw [setFlagMet_of_rising hp h]
  obtain ⟨pend, due, hr⟩ := flagRise_flags (s := counted s n t true) (n := n) hh (met || s.flags.clearedAt (edgeOf t) n) t
  exact ⟨by rw [hr]; rfl, fun i hi runs rec room => flagRise_out (s := counted s n t true) hn hh _ t hi runs rec room,
    flagRise_lastCode (s := counted s n t true) hh _ t⟩

end

/-- Settles O60: a set is counted in both its forms; the one that stands ends there, and the one that rises goes through the reports; the
onset of a lasting condition is a set. -/
theorem flagsCounted : Obligations.FlagsCounted := by
  intro s n t hn hp hlen hh
  refine ⟨fun met => ⟨setFlagMet_flag hn hp met t, (setFlagMet_counts_and_cntSel hp hh met t).1, fun i hi hsel => ?_, ?_,
    setFlagMet_reports hn hp hh⟩, fun hc => ⟨?_, setCond_cond hn s true⟩, fun hc => ?_⟩
  · obtain ⟨hcounts, hcntSel⟩ := setFlagMet_counts_and_cntSel (n := n) hp hh met t
    rw [mgmtByte_cntVal _ hi, hcounts, hcntSel, hsel, modAt_getD_self _ (hlen ▸ hn)]
  · rintro hf rfl hc
    exact (setFlagMet_of_standing hp hf hc).trans (counted_of_flag hf t false)
  · rw [setCond_eq, if_neg (by simp [hc]), if_pos ⟨rfl, hp⟩]
    exact (setFlagMet_counts_and_cntSel (s := withCond s n true) hp hh false s.now).1
  · rw [setCond_eq, if_pos hc.symm]

end Sys2Proof.Proofs
end

section
/-! PROOF. Test modes (R464): what TEST_MODE enters, what a test mode stops, and what each command makes of the test mode in force. -/
namespace Sys2Proof.Proofs
open Sys2Proof Sys2Proof.Machine Sys2Proof.Laws

/-! ## The entry -/

theorem testAllowed_iff (s : State) : s.testAllowed = true ↔ s.fuses.lcState = 0 ∨ s.fuses.lcState = 3 := by
  simp [State.testAllowed]

theorem execTestMode_of_allowed {s : State} (h : s.testAllowed = true) :
    execTestMode s = .next { s with tap := { s.tap.select .testMode 0 with testing := true } } := by
  simp [execTestMode, doneSys, State.modTap, h]

theorem execTestMode_of_refused {s : State} (h : s.testAllowed = false) :
    execTestMode s = .next { s with tap := s.tap.select .bypass 0 } := by
  simp [execTestMode, doneSys, State.modTap, h]

/-- TEST_MODE changes the test access port alone, and what it selects turns on the life-cycle state. -/
theorem testMode_completes (s : State) : completes .testMode s (fun t => t = { s with tap := t.tap } ∧
    (s.fuses.lcState = 0 ∨ s.fuses.lcState = 3 → t.tap.ir = .testMode ∧ t.tap.testing = true) ∧
    (s.fuses.lcState = 1 ∨ s.fuses.lcState = 2 → t.tap.ir = .bypass ∧ t.tap.testing = s.tap.testing)) := by
  by_cases h : s.fuses.lcState = 0 ∨ s.fuses.lcState = 3
  · exact ⟨_, execTestMode_of_allowed ((testAllowed_iff s).mpr h), rfl, fun _ => ⟨rfl, rfl⟩, fun _ => by omega⟩
  · have refused : s.testAllowed = false := Bool.eq_false_iff.mpr (h ∘ (testAllowed_iff s).mp)
    exact ⟨_, execTestMode_of_refused refused, rfl, fun h' => absurd h' h, fun _ => ⟨rfl, rfl⟩⟩

/-! ## What a test mode stops -/

theorem done_of_testing {s : State} (h : s.tap.testing = true) (t : State) : done s t = .next s := by
  rw [done, kept_of_testing h]

theorem doneFw_of_testing {s : State} (h : s.tap.testing = true) (t : State) (fuses : Fuses) (tap : Tap) :
    doneFw s t fuses tap = .next s := by
  rw [doneFw, if_pos h]

/-- READY ends as a command of the firmware does, with the test access port as it was. -/
theorem execReady_ends (s : State) : (∃ e, execReady s = done s e) ∨ ∃ e fuses, execReady s = doneFw s e fuses s.tap := by
  unfold execReady
  split
  · exact .inr ⟨_, _, rfl⟩
  · exact .inl ⟨_, rfl⟩

/-- LC_CHANGE ends as a command of the firmware does, and closes at most the debug port. -/
theorem execLcChange_ends (lcBoth dbgBoth : Bool) (s : State) : (∃ e, execLcChange lcBoth dbgBoth s = done s e) ∨
    ∃ e fuses tap, tap.testing = s.tap.testing ∧ execLcChange lcBoth dbgBoth s = doneFw s e fuses tap := by
  unfold execLcChange
  split
  · exact .inl ⟨_, rfl⟩
  split
  · exact .inl ⟨_, rfl⟩
  · refine .inr ⟨_, _, _, ?_, rfl⟩
    split <;> rfl

/-- The two ends of the commands that a test mode stops; neither changes whether a test mode is in force. -/
theorem exec_ends_of_stopsInTest {c : Instr} (h : stopsInTest c = true) (s : State) :
    (∃ e, exec c s = done s e) ∨ ∃ e fuses tap, tap.testing = s.tap.testing ∧ exec c s = doneFw s e fuses tap := by
  by_cases ready : c = .ready
  · subst ready
    obtain done | ⟨e, fuses, he⟩ := execReady_ends s
    · exact .inl done
    · exact .inr ⟨e, fuses, s.tap, rfl, he⟩
  by_cases change : ∃ lcBoth dbgBoth, c = .lcChange lcBoth dbgBoth
  · obtain ⟨lcBoth, dbgBoth, rfl⟩ := change
    exact execLcChange_ends lcBoth dbgBoth s
  · exact .inl (exec_done c s h ready fun a b hc => change ⟨a, b, hc⟩)

theorem exec_of_testing {c : Instr} {s : State} (h : stopsInTest c = true) (testing : s.tap.testing = true) : exec c s = .next s := by
  obtain ⟨e, he⟩ | ⟨e, fuses, tap, -, he⟩ := exec_ends_of_stopsInTest h s
  · rw [he, done_of_testing testing]
  · rw [he, doneFw_of_testing testing]

theorem testing_of_stopsInTest {c : Instr} {s t : State} (h : stopsInTest c = true) (ht : exec c s = .next t) :
    t.tap.testing = s.tap.testing := by
  obtain ⟨e, he⟩ | ⟨e, fuses, tap, htap, he⟩ := exec_ends_of_stopsInTest h s
  · cases he.symm.trans ht
    rw [kept_tap]
  · cases he.symm.trans ht
    split
    · rfl
    · exact htap

theorem shortNow_of_testing {s : State} (h : s.tap.testing = true) : s.shortNow = true := by
  rw [State.shortNow, h, Bool.or_true]

/-! ## The commands that a test mode does not stop -/

/-- A test mode in force in `s` stays so in `t`, and none begins, unless `t` is the start of a power-on reset. -/
def TestingKeptOrPorst (s t : State) : Prop :=
  t.tap.testing = s.tap.testing ∨ (t.tap.testing = false ∧ t.phase = .porst ∧ t.now = 0)

/-- The end of a reset or of a row of the test access port leaves all that `TestingKeptOrPorst` speaks of. -/
theorem TestingKeptOrPorst.of_doneSys {s u t : State} (h : doneSys s u = .next t) (hu : TestingKeptOrPorst s u) :
    TestingKeptOrPorst s t := by
  cases h
  exact hu

/-- A device reset ends a test mode when it is a power-on reset (R464); a warm one keeps it (log 62). -/
theorem deviceReset_testing (s : State) (warm : Bool) (cause : ResetCause) : TestingKeptOrPorst s (s.deviceReset warm cause) := by
  cases warm with
  | true => exact .inl (Bool.and_true _)
  | false => exact .inr ⟨Bool.and_false _, rfl, rfl⟩

theorem warmReset_testing (s : State) (cause : ResetCause) : TestingKeptOrPorst s (s.warmReset cause) := by
  unfold State.warmReset
  split
  · exact deviceReset_testing s true cause
  · exact .inl rfl

theorem finishWipe_tap (s : State) : s.finishWipe.tap = s.tap := by
  unfold State.finishWipe
  split <;> rfl

theorem loadFlags_reportsOnly (s : State) : s.reportsOnly s.loadFlags := by
  have conds (profile refSel factory cal : Bool) : s.reportsOnly ((((s.setCond fProfileBad profile).setCond fRefSelBad refSel).setCond
      fFactoryCalBad factory).setCond fCalDegraded cal) :=
    reportsOnly_trans (reportsOnly_trans (reportsOnly_trans (setCond_reportsOnly ..) (setCond_reportsOnly ..))
      (setCond_reportsOnly ..)) (setCond_reportsOnly ..)
  unfold State.loadFlags
  dsimp only
  split
  · exact reportsOnly_trans (conds ..) (setFlag_reportsOnly ..)
  · exact conds ..

/-- The hardware loader does not reach the test access port. -/
theorem tryRelease_tap (s : State) (r : ReleaseIn) : (s.tryRelease r).tap = s.tap := by
  unfold State.tryRelease
  split
  · exact (reportsOnly_tap (loadFlags_reportsOnly _)).trans (finishWipe_tap s)
  · rfl

theorem tryRelease_testing {s u : State} (h : u.tap = s.tap) (r : ReleaseIn) : TestingKeptOrPorst s (u.tryRelease r) :=
  .inl (by rw [tryRelease_tap, h])

section
variable {s t : State}

theorem execPorstNAssert_testing {ns : Nat} (h : execPorstNAssert ns s = .next t) : TestingKeptOrPorst s t := by
  unfold execPorstNAssert at h
  split at h
  · exact .of_doneSys h (.inl rfl)
  split at h
  · exact .of_doneSys h (.inl rfl)
  · exact .of_doneSys h (deviceReset_testing s false .porst)

theorem execWrstNAssert_testing {ns : Nat} (h : execWrstNAssert ns s = .next t) : TestingKeptOrPorst s t := by
  unfold execWrstNAssert at h
  split at h
  · exact .of_doneSys h (.inl rfl)
  · exact .of_doneSys h (warmReset_testing s .wrst)

theorem execBrownOut_testing {supply mv : Nat} (h : execBrownOut supply mv s = .next t) : TestingKeptOrPorst s t := by
  unfold execBrownOut at h
  split at h
  · split at h
    · split at h
      · exact .of_doneSys h (.inl rfl)
      · exact .of_doneSys h (deviceReset_testing s false .brownOut)
    · exact .of_doneSys h (.inl rfl)
  · exact .of_doneSys h (.inl rfl)

theorem execBrownOutEnd_testing {volts : List Nat} {ns : Nat} {porstLow : Bool} {r : ReleaseIn}
    (h : execBrownOutEnd volts ns porstLow r s = .next t) : TestingKeptOrPorst s t := by
  unfold execBrownOutEnd at h
  split at h
  · exact .of_doneSys h (tryRelease_testing rfl r)
  · exact .of_doneSys h (.inl rfl)

theorem execThermalTrip_testing {sensor : Nat} {reading : Int} (h : execThermalTrip sensor reading s = .next t) :
    TestingKeptOrPorst s t := by
  unfold execThermalTrip at h
  split at h
  · exact .of_doneSys h (.inl rfl)
  split at h
  · exact .of_doneSys h (.inl rfl)
  · exact .of_doneSys h (deviceReset_testing s true .thermTrip)

theorem execThermalTripEnd_testing {temps : List Int} {r : ReleaseIn} (h : execThermalTripEnd temps r s = .next t) :
    TestingKeptOrPorst s t := by
  unfold execThermalTripEnd at h
  split at h
  · exact .of_doneSys h (tryRelease_testing rfl r)
  · exact .of_doneSys h (.inl rfl)

theorem execDebug_testing (h : execDebug s = .next t) : TestingKeptOrPorst s t := by
  refine .of_doneSys h (.inl ?_)
  unfold State.modTap
  dsimp only
  split <;> rfl

/-- A transfer on the management bus leaves the test access port as it is. -/
theorem doneBus_testing {o : Out} (ends : ∃ e, o = doneBus s e) (h : o = .next t) : TestingKeptOrPorst s t := by
  obtain ⟨e, rfl⟩ := ends
  cases h
  exact .inl rfl

/-- Every command but TEST_MODE: the resets, the management bus and the test access port row by row, the others by how they end. -/
theorem exec_testing {c : Instr} (hc : c ≠ .testMode) (h : exec c s = .next t) : TestingKeptOrPorst s t := by
  by_cases stops : stopsInTest c = true
  · exact .inl (testing_of_stopsInTest stops h)
  cases c
  case porstNAssert => exact execPorstNAssert_testing h
  case wrstNAssert => exact execWrstNAssert_testing h
  case resetRelease r => exact .of_doneSys h (tryRelease_testing rfl r)
  case brownOut => exact execBrownOut_testing h
  case brownOutEnd => exact execBrownOutEnd_testing h
  case thermalTrip sensor _ => exact execThermalTrip_testing (sensor := sensor) h
  case thermalTripEnd => exact execThermalTripEnd_testing h
  case mbWrite => exact doneBus_testing (execMbWrite_ends ..) h
  case mbRead => exact doneBus_testing (execMbRead_ends ..) h
  case busError clk start held => exact doneBus_testing (execBusError_ends clk start held s) h
  case sdaLowTo => exact doneBus_testing (execSdaLowTo_ends ..) h
  case sclLowTo => exact doneBus_testing (execSclLowTo_ends ..) h
  case flagClear => exact doneBus_testing (execFlagClear_ends ..) h
  case attnPendClear => exact doneBus_testing (execAttnPendClear_ends ..) h
  case healthClr => exact doneBus_testing (execHealthClr_ends ..) h
  case resetReq => exact doneBus_testing (execResetReq_ends ..) h
  case rcvLoad => exact doneBus_testing (execRcvLoad_ends ..) h
  case rcvFinish => exact doneBus_testing (execRcvFinish_ends ..) h
  case rcvAbort => exact doneBus_testing (execRcvAbort_ends ..) h
  case attention => exact doneBus_testing (execAttention_ends ..) h
  case attnRepeat => exact doneBus_testing (execAttnRepeat_ends ..) h
  case testLogicReset => exact .of_doneSys h (.inl rfl)
  case bypass => exact .of_doneSys h (.inl rfl)
  case samplePreload => exact .of_doneSys h (.inl rfl)
  case extest => exact .of_doneSys h (.inl rfl)
  case idcode => exact .of_doneSys h (.inl rfl)
  case clamp => exact .of_doneSys h (.inl rfl)
  case highz => exact .of_doneSys h (.inl rfl)
  case debug => exact execDebug_testing h
  case testMode => exact absurd rfl hc
  all_goals exact absurd rfl stops

/-! ## Steps -/

/-- A step that is not TEST_MODE's keeps the test mode as it is or starts a power-on reset. -/
theorem step_testing (h : step s = .next t) :
    (∃ q, s.pending = .testMode :: q ∧ execTestMode s.dequeue = .next t) ∨ TestingKeptOrPorst s t := by
  unfold step at h
  split at h
  next =>
    cases h
    exact .inr (.inl rfl)
  next c q hq =>
    by_cases hc : c = .testMode
    · subst hc
      exact .inl ⟨q, hq, h⟩
    · exact .inr (exec_testing (s := s.dequeue) hc h)

/-- TEST_MODE leaves a test mode in force where it is allowed, and none begun or ended elsewhere. -/
theorem execTestMode_testing (h : execTestMode s = .next t) :
    (s.testAllowed = true ∧ t.tap.testing = true) ∨ t.tap.testing = s.tap.testing := by
  cases allowed : s.testAllowed with
  | true =>
    cases (execTestMode_of_allowed allowed).symm.trans h
    exact .inl ⟨rfl, rfl⟩
  | false =>
    cases (execTestMode_of_refused allowed).symm.trans h
    exact .inr rfl

/-- A test mode begins with TEST_MODE alone, and only where it is allowed. -/
theorem testMode_of_testing_begins (h : step s = .next t) (before : s.tap.testing = false) (after : t.tap.testing = true) :
    (s.fuses.lcState = 0 ∨ s.fuses.lcState = 3) ∧ ∃ q, s.pending = .testMode :: q := by
  have begins : t.tap.testing ≠ s.tap.testing := by simp [before, after]
  obtain ⟨q, hq, htest⟩ | same | ⟨ended, -⟩ := step_testing h
  · obtain ⟨allowed, -⟩ | same := execTestMode_testing htest
    · exact ⟨(testAllowed_iff s).mp allowed, q, hq⟩
    · exact absurd same begins
  · exact absurd same begins
  · exact absurd (ended.trans before.symm) begins

/-- A test mode ends with a power-on reset alone. -/
theorem porst_of_testing_ends (h : step s = .next t) (before : s.tap.testing = true) (after : t.tap.testing = false) :
    t.phase = .porst ∧ t.now = 0 := by
  have ends : t.tap.testing ≠ s.tap.testing := by simp [before, after]
  obtain ⟨q, -, htest⟩ | same | ⟨-, porst⟩ := step_testing h
  · obtain ⟨-, still⟩ | same := execTestMode_testing htest
    · exact absurd (still.trans before.symm) ends
    · exact absurd same ends
  · exact absurd same ends
  · exact porst

end

/-! ## The obligation -/

/-- Settles O58: TEST_MODE by its two meanings, the stop by how the stopped commands end, the begin and the end of a test mode by what
each command makes of it. -/
theorem testModesHold : Obligations.TestModesHold :=
  ⟨testMode_completes, fun _ _ => testMode_of_testing_begins, fun _ _ => exec_of_testing, fun _ => shortNow_of_testing,
    fun _ _ => porst_of_testing_ends⟩

end Sys2Proof.Proofs
end

section
/-! PROOF. Every command's end (R448, R453, R456, R460, R463, R464): what a command may leave of the fuses, the straps and the test access
port, said once for all commands, and what a step therefore keeps. -/
namespace Sys2Proof.Proofs
open Sys2Proof Sys2Proof.Machine Sys2Proof.Laws

/-! ## The access lock -/

/-- The debug port is closed, and its instruction is not selected (R463). -/
def portClosed (p : Tap) : Prop := p.debugOpen = false ∧ p.ir ≠ .debug

theorem accessLocked_iff (s : State) : s.accessLocked = true ↔
    (pairBlown s.fuses.lcF = true → s.fuses.dbgLock = true) ∧ (s.fuses.dbgLock = true → portClosed s.tap) := by
  cases hf : pairBlown s.fuses.lcF <;> cases hd : s.fuses.dbgLock <;> simp [State.accessLocked, portClosed, hf, hd]

theorem testLegal_iff (s : State) : s.testLegal = true ↔ (s.tap.testing = true → s.testAllowed = true) := by
  cases ht : s.tap.testing <;> simp [State.testLegal, ht]

theorem safe_iff (s : State) : s.safe = true ↔ s.accessLocked = true ∧ s.testLegal = true := by
  simp [State.safe]

/-! ## Fuses -/

theorem pairKept_refl (p : Bool × Bool) : pairKept p p = true := by
  cases h : pairBlown p <;> simp [pairKept, h]

theorem pairKept_of_blown (old : Bool × Bool) {new : Bool × Bool} (h : pairBlown new = true) : pairKept old new = true := by
  simp [pairKept, h]

theorem pairBlown_blow (both : Bool) : pairBlown (blow both) = true := rfl

/-- Blowing a pair that reads as intact, and leaving one that does not, blows it. -/
theorem pairBlown_blowOnce (p : Bool × Bool) (both : Bool) : pairBlown (if pairBlown p then p else blow both) = true := by
  split
  next blown => exact blown
  next => exact pairBlown_blow both

/-- What `Fuses.rises` asks for, one fuse after the other. -/
theorem rises_of {old new : Fuses} (hP : pairKept old.lcP new.lcP = true) (hF : pairKept old.lcF new.lcF = true)
    (hR : pairKept old.lcR new.lcR = true) (hD : pairKept old.dbg new.dbg = true) (hsvn : old.minSvn ≤ new.minSvn)
    (hstep : new.step = old.step) (hserial : new.serial = old.serial) (hkey : new.keyK = old.keyK) : old.rises new = true := by
  simp [Fuses.rises, hP, hF, hR, hD, hsvn, hstep, hserial, hkey]

theorem rises_refl (f : Fuses) : f.rises f = true :=
  rises_of (pairKept_refl _) (pairKept_refl _) (pairKept_refl _) (pairKept_refl _) le_rfl rfl rfl rfl

/-- READY raises MIN_SVN at most (R453). -/
theorem rises_minSvn (f : Fuses) {n : Nat} (h : f.minSvn ≤ n) : f.rises { f with minSvn := n } = true :=
  rises_of (pairKept_refl _) (pairKept_refl _) (pairKept_refl _) (pairKept_refl _) h rfl rfl rfl

/-- A life-cycle step blows fuses and makes none read as intact (R456, R460). -/
theorem rises_step_ (f : Fuses) (p : LcPending) (lcBoth dbgBoth : Bool) : f.rises (f.step_ p lcBoth dbgBoth) = true := by
  have same := pairKept_refl
  have blown (old : Bool × Bool) := pairKept_of_blown old (pairBlown_blow lcBoth)
  unfold Fuses.step_
  split
  · exact rises_of (blown _) (same _) (same _) (same _) le_rfl rfl rfl rfl
  split
  · exact rises_of (same _) (blown _) (same _) (pairKept_of_blown _ (pairBlown_blowOnce ..)) le_rfl rfl rfl rfl
  · exact rises_of (same _) (same _) (blown _) (same _) le_rfl rfl rfl rfl

/-- A life-cycle step to FIELD blows DBG_LOCK (R460). -/
theorem step_dbgLock_of_field {f : Fuses} {p : LcPending} {lcBoth dbgBoth : Bool}
    (before : pairBlown f.lcF = true → f.dbgLock = true) (h : pairBlown (f.step_ p lcBoth dbgBoth).lcF = true) :
    (f.step_ p lcBoth dbgBoth).dbgLock = true := by
  revert h
  unfold Fuses.step_
  split
  · exact before
  split
  · exact fun _ => pairBlown_blowOnce ..
  · exact before

/-! ## The ends of a command -/

/-- What a row of a reset or of the test access port may leave: the straps of a release, a debug port that DBG_LOCK permits, a test mode
that the life-cycle state permits (R448, R463, R464). -/
structure SysEnd (s e : State) : Prop where
  straps : e.straps = s.straps ∨ (e.phase = .loading ∧ (s.phase = .porst ∨ s.phase = .warm))
  closed : s.fuses.dbgLock = true → portClosed s.tap → portClosed e.tap
  testing : e.tap.testing = true → s.tap.testing = true ∨ s.testAllowed = true

/-- What READY or LC_CHANGE may leave of the fuses and of the test access port. -/
structure FwEnd (s : State) (fuses : Fuses) (tap : Tap) : Prop where
  rises : s.fuses.rises fuses = true
  field : (pairBlown s.fuses.lcF = true → s.fuses.dbgLock = true) → pairBlown fuses.lcF = true → fuses.dbgLock = true
  closed : (s.fuses.dbgLock = true → portClosed s.tap) → fuses.dbgLock = true → portClosed tap
  testing : tap.testing = s.tap.testing

/-- The four ends of a command: of the data plane or the firmware, of one that blows fuses, of the management bus, and of a reset or the
test access port. -/
inductive Ends (s : State) : Out → Prop
  | kept (e : State) : Ends s (done s e)
  | fw (e : State) {fuses : Fuses} {tap : Tap} (h : FwEnd s fuses tap) : Ends s (doneFw s e fuses tap)
  | bus (e : State) : Ends s (doneBus s e)
  | sys {e : State} (h : SysEnd s e) : Ends s (doneSys s e)

theorem Ends.of_done {s : State} {o : Out} (h : ∃ e, o = done s e) : Ends s o := by
  obtain ⟨e, rfl⟩ := h
  exact .kept e

theorem Ends.of_doneBus {s : State} {o : Out} (h : ∃ e, o = doneBus s e) : Ends s o := by
  obtain ⟨e, rfl⟩ := h
  exact .bus e

/-! ## READY and LC_CHANGE -/

theorem execReady_ends_fw (s : State) : Ends s (execReady s) := by
  unfold execReady
  split
  · refine .fw _ ⟨rises_minSvn _ ?_, fun locked => locked, fun closed => closed, rfl⟩
    split
    · exact le_max_left ..
    · exact le_rfl
  · exact .kept s

theorem closeDebug_closed (p : Tap) : portClosed p.closeDebug := by
  refine ⟨rfl, ?_⟩
  unfold Tap.closeDebug
  split
  · exact nofun
  next open_ => exact open_

theorem execLcChange_ends_fw (lcBoth dbgBoth : Bool) (s : State) : Ends s (execLcChange lcBoth dbgBoth s) := by
  unfold execLcChange
  split
  · exact .kept s
  next p _ =>
    split
    · exact .kept s
    · refine .fw _ ⟨rises_step_ .., fun before => step_dbgLock_of_field before, fun _ locked => ?_, ?_⟩
      · rw [if_pos locked]
        exact closeDebug_closed _
      · split <;> rfl

/-! ## Resets -/

theorem SysEnd.of_same {s e : State} (hs : e.straps = s.straps) (ht : e.tap = s.tap) : SysEnd s e :=
  ⟨.inl hs, fun _ closed => ht ▸ closed, fun testing => .inl (ht ▸ testing)⟩

/-- A device reset keeps the straps and the debug port; a power-on reset ends a test mode. -/
theorem SysEnd.of_reset {s e : State} (warm : Bool) (cause : ResetCause) (hs : e.straps = s.straps)
    (ht : e.tap = (s.deviceReset warm cause).tap) : SysEnd s e :=
  ⟨.inl hs, fun _ closed => ht ▸ closed, fun testing => .inl (Bool.and_eq_true_iff.mp (ht ▸ testing)).1⟩

theorem warmReset_sysEnd (s : State) (cause : ResetCause) : SysEnd s (s.warmReset cause) := by
  unfold State.warmReset
  split
  · exact .of_reset true cause rfl rfl
  · exact .of_same rfl rfl

theorem loader_phase (s : State) (r : ReleaseIn) : (s.loader r).phase = .loading :=
  reportsOnly_phase (loadFlags_reportsOnly _)

/-- Latching the straps and loading go together (R448, R449). -/
theorem tryRelease_sysEnd {s u : State} (hp : u.phase = s.phase) (hs : u.straps = s.straps) (ht : u.tap = s.tap) (r : ReleaseIn) :
    SysEnd s (u.tryRelease r) := by
  have tap : (u.tryRelease r).tap = s.tap := by rw [tryRelease_tap, ht]
  refine ⟨?_, fun _ closed => tap ▸ closed, fun testing => .inl (tap ▸ testing)⟩
  unfold State.tryRelease
  split
  next free => exact .inr ⟨loader_phase u r, hp ▸ free.1⟩
  next => exact .inl hs

section
variable (s : State)

theorem execPorstNAssert_ends_sys (ns : Nat) : Ends s (execPorstNAssert ns s) := by
  unfold execPorstNAssert
  split
  · exact .sys (.of_same rfl rfl)
  split
  · exact .sys (.of_same rfl rfl)
  · exact .sys (.of_reset false .porst rfl rfl)

theorem execWrstNAssert_ends_sys (ns : Nat) : Ends s (execWrstNAssert ns s) := by
  unfold execWrstNAssert
  split
  · exact .sys (.of_same rfl rfl)
  · exact .sys (warmReset_sysEnd s .wrst)

theorem execBrownOut_ends_sys (supply mv : Nat) : Ends s (execBrownOut supply mv s) := by
  unfold execBrownOut
  split
  · split
    · split
      · exact .sys (.of_same rfl rfl)
      · exact .sys (.of_reset false .brownOut rfl rfl)
    · exact .sys (.of_same rfl rfl)
  · exact .sys (.of_same rfl rfl)

theorem execBrownOutEnd_ends_sys (volts : List Nat) (ns : Nat) (porstLow : Bool) (r : ReleaseIn) :
    Ends s (execBrownOutEnd volts ns porstLow r s) := by
  unfold execBrownOutEnd
  split
  · exact .sys (tryRelease_sysEnd (by rfl) (by rfl) (by rfl) r)
  · exact .sys (.of_same rfl rfl)

theorem execThermalTrip_ends_sys (sensor : Nat) (reading : Int) : Ends s (execThermalTrip sensor reading s) := by
  unfold execThermalTrip
  split
  · exact .sys (.of_same rfl rfl)
  split
  · exact .sys (.of_same rfl rfl)
  · exact .sys (.of_reset true .thermTrip rfl rfl)

theorem execThermalTripEnd_ends_sys (temps : List Int) (r : ReleaseIn) : Ends s (execThermalTripEnd temps r s) := by
  unfold execThermalTripEnd
  split
  · exact .sys (tryRelease_sysEnd (by rfl) (by rfl) (by rfl) r)
  · exact .sys (.of_same rfl rfl)

/-! ## The test access port -/

/-- An instruction other than DEBUG closes the port, and leaves a test mode as it is. -/
theorem SysEnd.of_tap {e : State} (hs : e.straps = s.straps) (hc : portClosed e.tap) (ht : e.tap.testing = s.tap.testing) :
    SysEnd s e :=
  ⟨.inl hs, fun _ _ => hc, fun testing => .inl (ht ▸ testing)⟩

theorem execDebug_ends_sys : Ends s (execDebug s) := by
  refine .sys ⟨.inl rfl, fun locked _ => ?_, fun testing => .inl ?_⟩
  · have refused : s.debugAllowed = false := by simp [State.debugAllowed, locked]
    simp [State.modTap, refused, Tap.select, portClosed]
  · revert testing
    unfold State.modTap
    dsimp only
    split <;> exact id

theorem execTestMode_ends_sys : Ends s (execTestMode s) := by
  refine .sys ⟨.inl rfl, fun _ _ => ?_, fun testing => ?_⟩
  · unfold State.modTap
    dsimp only
    split <;> exact ⟨rfl, nofun⟩
  · cases allowed : s.testAllowed with
    | true => exact .inr rfl
    | false => exact .inl (by simpa [State.modTap, allowed, Tap.select] using testing)

end

/-! ## Every command -/

/-- Every command ends in one of the four ways: those that a test mode stops by what is known of them, the others row by row. -/
theorem exec_ends (c : Instr) (s : State) : Ends s (exec c s) := by
  by_cases stops : stopsInTest c = true
  · by_cases ready : c = .ready
    · subst ready
      exact execReady_ends_fw s
    by_cases change : ∃ lcBoth dbgBoth, c = .lcChange lcBoth dbgBoth
    · obtain ⟨lcBoth, dbgBoth, rfl⟩ := change
      exact execLcChange_ends_fw lcBoth dbgBoth s
    · exact .of_done (exec_done c s stops ready fun a b hc => change ⟨a, b, hc⟩)
  cases c
  case porstNAssert ns => exact execPorstNAssert_ends_sys s ns
  case wrstNAssert ns => exact execWrstNAssert_ends_sys s ns
  case resetRelease r => exact .sys (tryRelease_sysEnd (by rfl) (by rfl) (by rfl) r)
  case brownOut supply mv => exact execBrownOut_ends_sys s supply mv
  case brownOutEnd volts ns porstLow r => exact execBrownOutEnd_ends_sys s volts ns porstLow r
  case thermalTrip sensor reading => exact execThermalTrip_ends_sys s sensor reading
  case thermalTripEnd temps r => exact execThermalTripEnd_ends_sys s temps r
  case mbWrite => exact .of_doneBus (execMbWrite_ends ..)
  case mbRead => exact .of_doneBus (execMbRead_ends ..)
  case busError clk start held => exact .of_doneBus (execBusError_ends clk start held s)
  case sdaLowTo => exact .of_doneBus (execSdaLowTo_ends ..)
  case sclLowTo => exact .of_doneBus (execSclLowTo_ends ..)
  case flagClear => exact .of_doneBus (execFlagClear_ends ..)
  case attnPendClear => exact .of_doneBus (execAttnPendClear_ends ..)
  case healthClr => exact .of_doneBus (execHealthClr_ends ..)
  case resetReq => exact .of_doneBus (execResetReq_ends ..)
  case rcvLoad => exact .of_doneBus (execRcvLoad_ends ..)
  case rcvFinish => exact .of_doneBus (execRcvFinish_ends ..)
  case rcvAbort => exact .of_doneBus (execRcvAbort_ends ..)
  case attention => exact .of_doneBus (execAttention_ends ..)
  case attnRepeat => exact .of_doneBus (execAttnRepeat_ends ..)
  case testLogicReset => exact .sys (.of_tap s rfl ⟨rfl, nofun⟩ rfl)
  case bypass => exact .sys (.of_tap s rfl ⟨rfl, nofun⟩ rfl)
  case samplePreload => exact .sys (.of_tap s rfl ⟨rfl, nofun⟩ rfl)
  case extest => exact .sys (.of_tap s rfl ⟨rfl, nofun⟩ rfl)
  case idcode => exact .sys (.of_tap s rfl ⟨rfl, nofun⟩ rfl)
  case clamp => exact .sys (.of_tap s rfl ⟨rfl, nofun⟩ rfl)
  case highz => exact .sys (.of_tap s rfl ⟨rfl, nofun⟩ rfl)
  case debug => exact execDebug_ends_sys s
  case testMode => exact execTestMode_ends_sys s
  all_goals exact absurd rfl stops

section
variable {s t : State} {o : Out}

/-- No end faults or refuses, and each leaves the queue as it was. -/
theorem Ends.completes (h : Ends s o) : ∃ t, o = .next t ∧ t.pending = s.pending := by
  cases h with
  | kept e => exact ⟨_, rfl, kept_pending s e⟩
  | fw e => exact ⟨_, rfl, by split <;> rfl⟩
  | bus e => exact ⟨_, rfl, rfl⟩
  | sys => exact ⟨_, rfl, rfl⟩

theorem Ends.rises (h : Ends s o) (ht : o = .next t) : s.fuses.rises t.fuses = true := by
  cases h with
  | kept e =>
    cases ht
    rw [kept_fuses]
    exact rises_refl _
  | fw e h =>
    cases ht
    split
    · exact rises_refl _
    · exact h.rises
  | bus | sys =>
    cases ht
    exact rises_refl _

theorem Ends.straps (h : Ends s o) (ht : o = .next t) :
    t.straps = s.straps ∨ (t.phase = .loading ∧ (s.phase = .porst ∨ s.phase = .warm)) := by
  cases h with
  | kept e =>
    cases ht
    exact .inl (kept_straps s e)
  | fw e =>
    cases ht
    exact .inl (by split <;> rfl)
  | bus =>
    cases ht
    exact .inl rfl
  | sys h =>
    cases ht
    exact h.straps

/-- What safety speaks of is the fuses and the test access port. -/
theorem safe_congr (hf : t.fuses = s.fuses) (ht : t.tap = s.tap) (h : s.safe = true) : t.safe = true := by
  simpa [State.safe, State.accessLocked, State.testLegal, State.testAllowed, hf, ht] using h

theorem Ends.safe (h : Ends s o) (hs : s.safe = true) (ht : o = .next t) : t.safe = true := by
  obtain ⟨locked, legal⟩ := (safe_iff s).mp hs
  obtain ⟨field, closed⟩ := (accessLocked_iff s).mp locked
  cases h with
  | kept e =>
    cases ht
    exact safe_congr (kept_fuses s e) (kept_tap s e) hs
  | fw e h =>
    cases ht
    split
    · exact hs
    next idle =>
      refine (safe_iff _).mpr ⟨(accessLocked_iff _).mpr ⟨h.field field, h.closed closed⟩, (testLegal_iff _).mpr fun testing => ?_⟩
      exact absurd (h.testing ▸ testing) idle
  | bus e =>
    cases ht
    exact safe_congr rfl rfl hs
  | sys h =>
    cases ht
    refine (safe_iff _).mpr ⟨(accessLocked_iff _).mpr ⟨field, fun lock => h.closed lock (closed lock)⟩,
      (testLegal_iff _).mpr fun testing => ?_⟩
    exact (h.testing testing).elim ((testLegal_iff s).mp legal) id

end

/-! ## Steps -/

theorem step_of_empty {s : State} (h : s.pending = []) : step s = .next s := by
  unfold step
  rw [h]

theorem step_of_cons {s : State} {c : Instr} {q : List Instr} (h : s.pending = c :: q) :
    step s = exec c { s with pending := q } := by
  unfold step State.dequeue
  rw [h]
  rfl

/-- A step idles or ends as a command does, on the state without the command at the front. -/
theorem step_cases {s t : State} (h : step s = .next t) : t = s ∨ Ends s.dequeue (.next t) := by
  cases hq : s.pending with
  | nil =>
    cases (step_of_empty hq).symm.trans h
    exact .inl rfl
  | cons c q =>
    refine .inr (h ▸ ?_)
    rw [step_of_cons hq, show ({ s with pending := q } : State) = s.dequeue by rw [State.dequeue, hq]; rfl]
    exact exec_ends c s.dequeue

/-! ## The obligations -/

/-- Settles O1: by the front of the queue. -/
theorem stepRunsFront : Obligations.StepRunsFront :=
  ⟨fun _ _ _ => step_of_cons, fun _ => step_of_empty⟩

/-- Settles O3: the fuses of the reset state are intact, and its test access port is closed. -/
theorem resetSafe : Obligations.ResetSafe := ⟨by decide, rfl⟩

/-- Settles O7: field by field. -/
theorem resetValues : Obligations.ResetValues := by
  unfold Obligations.ResetValues
  decide

/-- Settles O4: by what each end of a command leaves of the fuses and of the test access port. -/
theorem stepKeepsSafe : Obligations.StepKeepsSafe := by
  intro s t hs h
  obtain rfl | ends := step_cases h
  · exact hs
  · exact ends.safe (safe_congr rfl rfl hs) rfl

/-- Settles O5: only READY and LC_CHANGE reach the fuses, and they blow them. -/
theorem stepNeverUnblows : Obligations.StepNeverUnblows := by
  intro s t h
  obtain rfl | ends := step_cases h
  · exact rises_refl _
  · exact ends.rises rfl

/-- Settles O6: of the ends of a command the release of a reset alone latches the straps. -/
theorem strapsLatchedAtRelease : Obligations.StrapsLatchedAtRelease := by
  intro s t h
  obtain rfl | ends := step_cases h
  · exact .inl rfl
  · exact ends.straps rfl

/-- Settles O2: no end of a command faults or refuses. -/
theorem everyCommandAnswers : Obligations.EveryCommandAnswers := fun c s => (exec_ends c s).completes

end Sys2Proof.Proofs
end

section
/-! PROOF. Resets and monitors (R434, R435, R443 to R445), the release of reset and of outputs (R28, R405, R447 to R451), and the
instructions of the test access port (R462 to R464). -/
namespace Sys2Proof.Proofs
open Sys2Proof Sys2Proof.Machine Sys2Proof.Laws

/-! ## A device reset -/

/-- A reset that a pin or a monitor asserts leaves of the state what `Rules.startsAgain` names (R443, R444). -/
theorem startsAgain_of_reset {s t : State} {warm : Bool} {cause : ResetCause} {pin brown hot : Bool}
    (ht : t = { s.deviceReset warm cause with resetPin := pin, heldBrown := s.heldBrown || brown, heldHot := s.heldHot || hot }) :
    Rules.startsAgain s t := by
  subst ht
  unfold Rules.startsAgain State.deviceReset
  simp only [← Bool.or_assoc, Bool.or_self]
  rfl

section
variable {s : State} {ns : Nat}

theorem execPorstNAssert_of_short (h : ns < 1000) : execPorstNAssert ns s = .next s := if_pos h

theorem execPorstNAssert_of_porst (h : 1000 ≤ ns) (hp : s.phase = .porst) :
    execPorstNAssert ns s = .next { s with resetPin := true } := by
  unfold execPorstNAssert
  rw [if_neg (Nat.not_lt.mpr h), if_pos hp]
  rfl

theorem execPorstNAssert_of_running (h : 1000 ≤ ns) (hp : s.phase ≠ .porst) :
    execPorstNAssert ns s = .next { s.deviceReset false .porst with resetPin := true } := by
  unfold execPorstNAssert
  rw [if_neg (Nat.not_lt.mpr h), if_neg hp]
  rfl

theorem execWrstNAssert_of_short (h : ns < 1000) : execWrstNAssert ns s = .next s := if_pos h

theorem execWrstNAssert_of_unreleased (hp : s.phase ≠ .released) : execWrstNAssert ns s = .next s := by
  unfold execWrstNAssert State.warmReset
  rw [if_neg hp]
  split <;> rfl

theorem execWrstNAssert_of_released (h : 1000 ≤ ns) (hp : s.phase = .released) :
    execWrstNAssert ns s = .next { s.deviceReset true .wrst with resetPin := true } := by
  unfold execWrstNAssert State.warmReset
  rw [if_neg (Nat.not_lt.mpr h), if_pos hp]
  rfl

end

/-- The reset pins (R443 to R445). -/
theorem resetPins : Rules.ResetPins := by
  intro s ns
  refine ⟨fun long run => ⟨_, execPorstNAssert_of_running long run, rfl, rfl, rfl, ?_, rfl, rfl, ?_⟩,
    fun long porst => ⟨_, execPorstNAssert_of_porst long porst, rfl⟩,
    fun long released => ⟨_, execWrstNAssert_of_released long released, rfl, rfl, rfl, ?_, rfl, rfl, rfl, ?_⟩,
    fun held => ⟨s, execWrstNAssert_of_unreleased ?_, rfl⟩,
    fun short => ⟨⟨s, execPorstNAssert_of_short short, rfl⟩, ⟨s, execWrstNAssert_of_short short, rfl⟩⟩⟩
  · exact startsAgain_of_reset (warm := false) (brown := s.heldBrown) (hot := s.heldHot) (by simp only [Bool.or_self]; rfl)
  · show ({ s.tap with testing := s.tap.testing && false } : Tap) = _
    rw [Bool.and_false]
  · exact startsAgain_of_reset (warm := true) (brown := s.heldBrown) (hot := s.heldHot) (by simp only [Bool.or_self]; rfl)
  · show ({ s.tap with testing := s.tap.testing && true } : Tap) = _
    rw [Bool.and_true]
  · obtain porst | warm := held
    · simp [porst]
    · simp [warm]

/-! ## The monitors -/

/-- What holds a device that nothing else holds ends: it loads; else it stays as it is (R434, R435). -/
theorem tryRelease_phase {s : State} (hp : s.phase = .porst ∨ s.phase = .warm) (r : ReleaseIn) :
    (s.tryRelease r).phase =
      if s.resetPin = true ∨ s.heldBrown = true ∨ s.heldHot = true then s.phase else .loading := by
  unfold State.tryRelease
  by_cases free : s.resetPin = false ∧ s.heldBrown = false ∧ s.heldHot = false
  · obtain ⟨pin, brown, hot⟩ := free
    rw [if_pos ⟨hp, pin, brown, hot⟩, if_neg (by simp [pin, brown, hot])]
    exact loader_phase s r
  · have held : s.resetPin = true ∨ s.heldBrown = true ∨ s.heldHot = true := by
      cases hpin : s.resetPin <;> cases hbrown : s.heldBrown <;> cases hhot : s.heldHot <;> simp_all
    rw [if_neg (fun h => free h.2), if_pos held]

/-- The state that the loader reports on: the interrupted wipe done, everything read. -/
theorem loader_reportsOnly (s : State) (r : ReleaseIn) : (s.finishWipe.loaded r).reportsOnly (s.loader r) :=
  loadFlags_reportsOnly _

theorem finishWipe_holds (s : State) : s.finishWipe.resetPin = s.resetPin ∧ s.finishWipe.heldBrown = s.heldBrown ∧
    s.finishWipe.heldHot = s.heldHot := by
  unfold State.finishWipe
  split <;> exact ⟨rfl, rfl, rfl⟩

/-- Loading does not change what holds the device. -/
theorem tryRelease_holds (s : State) (r : ReleaseIn) : (s.tryRelease r).resetPin = s.resetPin ∧
    (s.tryRelease r).heldBrown = s.heldBrown ∧ (s.tryRelease r).heldHot = s.heldHot := by
  unfold State.tryRelease
  split
  · have loads := loader_reportsOnly s r
    obtain ⟨pin, brown, hot⟩ := finishWipe_holds s
    exact ⟨(reportsOnly_resetPin loads).trans pin, (reportsOnly_heldBrown loads).trans brown, (reportsOnly_heldHot loads).trans hot⟩
  · exact ⟨rfl, rfl, rfl⟩

section
variable {s : State} {supply mv limit margin : Nat}

theorem execBrownOut_of_porst (hl : brownLimit supply = some (limit, margin)) (hv : mv < limit) (hp : s.phase = .porst) :
    execBrownOut supply mv s = .next { s with heldBrown := true } := by
  simp [execBrownOut, hl, hv, hp, doneSys]

theorem execBrownOut_of_running (hl : brownLimit supply = some (limit, margin)) (hv : mv < limit) (hp : s.phase ≠ .porst) :
    execBrownOut supply mv s = .next { s.deviceReset false .brownOut with resetPin := false, heldBrown := true } := by
  unfold execBrownOut
  rw [hl]
  dsimp only
  rw [if_pos hv, if_neg hp]
  rfl

theorem execThermalTrip_of_held (sensor : Nat) {reading : Int} (hr : 2640 ≤ reading) (hp : s.phase = .porst ∨ s.phase = .warm) :
    execThermalTrip sensor reading s = .next { s with heldHot := true } := by
  unfold execThermalTrip
  rw [if_neg (Int.not_lt.mpr hr), if_pos hp]
  rfl

theorem execThermalTrip_of_running (sensor : Nat) {reading : Int} (hr : 2640 ≤ reading) (hp : s.phase ≠ .porst)
    (hw : s.phase ≠ .warm) : execThermalTrip sensor reading s =
      .next { s.deviceReset true .thermTrip with resetPin := false, heldHot := true } := by
  unfold execThermalTrip
  rw [if_neg (Int.not_lt.mpr hr), if_neg (not_or.mpr ⟨hp, hw⟩)]
  rfl

theorem execBrownOutEnd_of_recovered {volts : List Nat} {ns : Nat} (porstLow : Bool) (r : ReleaseIn) (hb : s.heldBrown = true)
    (hn : 1000000 ≤ ns) (h0 : 700 ≤ volts.getD 0 0) (h5 : 2780 ≤ volts.getD 5 0) : execBrownOutEnd volts ns porstLow r s =
      doneSys s (({ s with heldBrown := false, resetPin := porstLow } : State).tryRelease r) := by
  unfold execBrownOutEnd
  exact if_pos (by simp only [hb, hn, h0, h5, decide_true, Bool.and_self])

theorem execThermalTripEnd_of_cooled {temps : List Int} (r : ReleaseIn) (hh : s.heldHot = true)
    (ht : temps.all (fun x => decide (x < 2240)) = true) : execThermalTripEnd temps r s =
      doneSys s (({ s with heldHot := false } : State).tryRelease r) := by
  unfold execThermalTripEnd
  exact if_pos (by rw [hh, ht]; rfl)

end

/-- The monitors (R434, R435). -/
theorem monitorsHoldReset : Rules.MonitorsHoldReset := by
  intro s r
  refine ⟨fun supply mv limit margin hl hv run => ⟨_, execBrownOut_of_running hl hv run, rfl, rfl, rfl, ?_⟩,
    fun supply mv limit margin hl hv porst => ⟨_, execBrownOut_of_porst hl hv porst, rfl⟩,
    fun sensor reading hr held => ⟨_, execThermalTrip_of_held sensor hr held, rfl⟩,
    fun sensor reading hr porst warm => ⟨_, execThermalTrip_of_running sensor hr porst warm, rfl, rfl, rfl, ?_⟩,
    fun volts ns porstLow hb hn h0 h5 hp => ⟨_, execBrownOutEnd_of_recovered porstLow r hb hn h0 h5, ?_⟩,
    fun temps hh ht hp => ⟨_, execThermalTripEnd_of_cooled r hh ht, ?_⟩⟩
  · exact startsAgain_of_reset (warm := false) (brown := true) (hot := s.heldHot) (by simp only [Bool.or_self, Bool.or_true]; rfl)
  · exact startsAgain_of_reset (warm := true) (brown := s.heldBrown) (hot := true) (by simp only [Bool.or_self, Bool.or_true]; rfl)
  · obtain ⟨pin, brown, -⟩ := tryRelease_holds { s with heldBrown := false, resetPin := porstLow } r
    refine ⟨brown, pin, (tryRelease_phase (s := { s with heldBrown := false, resetPin := porstLow }) hp r).trans ?_⟩
    simp
  · obtain ⟨-, -, hot⟩ := tryRelease_holds { s with heldHot := false } r
    refine ⟨hot, (tryRelease_phase (s := { s with heldHot := false }) hp r).trans ?_⟩
    simp

/-- Settles O8: each pin and monitor by its cases, and the end of a hold by what else holds the device. -/
theorem deviceResets : Obligations.DeviceResets := ⟨resetPins, monitorsHoldReset⟩

/-! ## The release of reset -/

theorem flagBit_getLsbD_of_ne {n m : Nat} (h : m ≠ n) : (flagBit n).getLsbD m = false := by
  rw [flagBit, BitVec.getLsbD_ofNat, Nat.testBit_two_pow_of_ne h.symm, Bool.and_false]

/-- A change of one lasting condition leaves the others. -/
theorem setCond_cond_of_ne {n m : Nat} (h : m ≠ n) (s : State) (level : Bool) : (s.setCond n level).cond m = s.cond m := by
  have kept : (withCond s n level).cond m = s.cond m := by
    have apart := flagBit_getLsbD_of_ne h
    have inside (x : BitVec 256) : (decide (m < 256) && x.getLsbD m) = x.getLsbD m := by
      cases hx : x.getLsbD m
      · exact Bool.and_false _
      · rw [decide_eq_true (BitVec.lt_of_getLsbD hx)]; rfl
    cases level
    · simp only [withCond, State.cond, Bool.false_eq_true, if_false, BitVec.getLsbD_and, BitVec.getLsbD_not, apart, Bool.not_false,
        Bool.and_true]
      rw [Bool.and_comm, inside]
    · simp only [withCond, State.cond, if_true, BitVec.getLsbD_or, apart, Bool.or_false]
  rw [setCond_eq]
  split
  · rfl
  split
  · unfold State.cond at kept ⊢
    rw [(setFlagMet_sameRegister ..).cond]
    exact kept
  · exact kept

theorem setFlag_cond (s : State) (n m : Nat) : (s.setFlag n).cond m = s.cond m := by
  unfold State.cond State.setFlag
  rw [(setFlagMet_sameRegister ..).cond]

/-- The load finds REF_SEL_BAD's condition as the straps give it (R19). -/
theorem loadFlags_refSelBad (s : State) : s.loadFlags.cond fRefSelBad = (s.straps.refSel == 3) := by
  have found (profile factory cal : Bool) : ((((s.setCond fProfileBad profile).setCond fRefSelBad (s.straps.refSel == 3)).setCond
      fFactoryCalBad factory).setCond fCalDegraded cal).cond fRefSelBad = (s.straps.refSel == 3) := by
    rw [setCond_cond_of_ne (by decide), setCond_cond_of_ne (by decide), setCond_cond (by decide)]
  have straps : (s.setCond fProfileBad (!(s.mram.profile idClk 128 clkFields).2)).straps = s.straps :=
    reportsOnly_straps (setCond_reportsOnly ..)
  unfold State.loadFlags State.degradedCond
  dsimp only
  rw [straps]
  split
  · rw [setFlag_cond]
    exact found ..
  · exact found ..

theorem finishWipe_boot (s : State) : s.finishWipe.boot = s.boot := by
  unfold State.finishWipe
  split <;> rfl

theorem execResetRelease_of_held {s : State} (r : ReleaseIn) (h : s.heldBrown = true ∨ s.heldHot = true) :
    execResetRelease r s = .next { s with resetPin := false } := by
  unfold execResetRelease State.tryRelease
  rw [if_neg (by rintro ⟨-, -, brown, hot⟩; obtain h | h := h <;> simp_all)]
  rfl

theorem execResetRelease_of_free {s : State} (r : ReleaseIn) (hp : s.phase = .porst ∨ s.phase = .warm) (hb : s.heldBrown = false)
    (hh : s.heldHot = false) : execResetRelease r s = doneSys s (({ s with resetPin := false } : State).loader r) := by
  unfold execResetRelease State.tryRelease
  rw [if_pos ⟨hp, rfl, hb, hh⟩]

/-- The straps as they stand, CLK_PROFILE of MRAM and REF_SEL_BAD's condition are in force after a load, boot and the test access port as
they were (R28, R448, R449). -/
structure LoadedFrom (s : State) (r : ReleaseIn) (t : State) : Prop where
  phase : t.phase = .loading
  pin : t.resetPin = s.resetPin
  straps : t.straps = r.straps
  tap : t.tap = s.tap
  profile : t.clk.profile = (t.mram.profile idClk 128 clkFields).1
  refSel : t.cond fRefSelBad = (r.straps.refSel == 3)
  boot : t.boot = s.boot

theorem reportsOnly_profile {s t : State} (h : s.reportsOnly t) : t.clk.profile = s.clk.profile :=
  (congrArg (fun u : State => u.clk.profile) h).trans rfl

theorem loader_loadedFrom (s : State) (r : ReleaseIn) : LoadedFrom s r (s.loader r) := by
  have loads := loader_reportsOnly s r
  exact {
    phase := loader_phase s r
    pin := (reportsOnly_resetPin loads).trans (finishWipe_holds s).1
    straps := reportsOnly_straps loads
    tap := (reportsOnly_tap loads).trans (finishWipe_tap s)
    profile := by
      rw [reportsOnly_profile loads, reportsOnly_mram loads]
      rfl
    refSel := loadFlags_refSelBad (s.finishWipe.loaded r)
    boot := (reportsOnly_boot loads).trans (finishWipe_boot s) }

theorem resetRelease : Rules.ResetRelease := by
  intro s r hp
  refine ⟨fun hb hh => ⟨_, execResetRelease_of_free r hp hb hh, ?_⟩, fun held => ⟨_, execResetRelease_of_held r held, rfl⟩⟩
  have loaded := loader_loadedFrom { s with resetPin := false } r
  generalize ({ s with resetPin := false } : State).loader r = t at loaded
  obtain ⟨phase, pin, straps, tap, profile, refSel, boot⟩ := loaded
  exact ⟨phase, pin, straps, rfl, tap, profile, refSel, boot, rfl⟩

/-! ## The release of outputs -/

/-- The treatment of a word does not reach boot or the straps. -/
theorem eccTreat_boot_and_straps (s : State) (w : BadWord) :
    (s.eccTreat w).boot = s.boot ∧ (s.eccTreat w).straps = s.straps := by
  unfold State.eccTreat
  split <;> exact ⟨rfl, rfl⟩

/-- Boot and the straps are the same in `t` as in `s`. -/
def sameStart (s t : State) : Prop := t.boot = s.boot ∧ t.straps = s.straps

theorem sameStart_trans {a b c : State} (h : sameStart a b) (k : sameStart b c) : sameStart a c :=
  ⟨k.1.trans h.1, k.2.trans h.2⟩

theorem sameStart_of_reportsOnly {s t : State} (h : s.reportsOnly t) : sameStart s t :=
  ⟨reportsOnly_boot h, reportsOnly_straps h⟩

theorem releaseFlags_reportsOnly (s : State) : s.reportsOnly s.releaseFlags := by
  unfold State.releaseFlags
  refine reportsOnly_trans ?_ (foldl_reportsOnly _ (fun b n => setFlagMet_reportsOnly b n false b.now) _ _)
  rfl

/-- The state at the release of outputs, with the words that failed twice treated by their region. -/
def treated (bad : List BadWord) (u : State) : State :=
  let v := bad.foldl State.eccTreat (if bad.isEmpty then u else u.setFlag fEccUncorr)
  if v.flags.halted then v.setCond fMgmtFault true else v

theorem treated_sameStart (bad : List BadWord) (u : State) : sameStart u (treated bad u) := by
  have start : sameStart u (if bad.isEmpty then u else u.setFlag fEccUncorr) := by
    split
    · exact ⟨rfl, rfl⟩
    · exact sameStart_of_reportsOnly (setFlag_reportsOnly ..)
  have words := sameStart_trans start
    (foldl_keeps sameStart (fun _ => ⟨rfl, rfl⟩) (fun _ _ _ => sameStart_trans) _ eccTreat_boot_and_straps bad _)
  unfold treated
  extract_lets v
  split
  · exact sameStart_trans words (sameStart_of_reportsOnly (setCond_reportsOnly ..))
  · exact words

theorem execOutputRelease_of_wiping {s : State} (h : s.phase = .wiping) (bad : List BadWord) : execOutputRelease bad s =
    done s ({ treated bad (s.advance perTick) with phase := .released } : State).releaseFlags.bootStart := if_pos h

/-- What boot starts from: outputs released, boot and the straps as they were. -/
theorem released_of_treated (bad : List BadWord) (u : State) :
    ({ treated bad u with phase := .released } : State).releaseFlags.phase = .released ∧
    sameStart u ({ treated bad u with phase := .released } : State).releaseFlags := by
  have flags := releaseFlags_reportsOnly { treated bad u with phase := .released }
  obtain ⟨boot, straps⟩ := treated_sameStart bad u
  exact ⟨reportsOnly_phase flags, (reportsOnly_boot flags).trans boot, (reportsOnly_straps flags).trans straps⟩

/-- Outputs are released and boot begins from its source (R405, R447, R451). -/
theorem outputRelease : Rules.OutputRelease := by
  intro s bad live wiping
  obtain ⟨released, boot, straps⟩ := released_of_treated bad (s.advance perTick)
  refine completes_of_done live (execOutputRelease_of_wiping wiping bad) ?_
  rw [← boot, ← straps]
  exact ⟨released, rfl, rfl, rfl, rfl, rfl⟩

/-- Settles O9: the loader's work for RESET_RELEASE, the start of boot for OUTPUT_RELEASE. -/
theorem releases : Obligations.Releases := ⟨resetRelease, outputRelease⟩

/-! ## The test access port -/

/-- Version, part number and bit 0 of IDCODE, whatever the manufacturer's identity (R462). -/
theorem idcodeReg_fields : idcodeReg.extractLsb' 28 4 = 1 ∧ idcodeReg.extractLsb' 12 16 = 0x9620 ∧ idcodeReg.getLsbD 0 = true := by
  have jedec : Config.jedec % 2 ^ 11 < 2048 := Nat.mod_lt _ (by decide)
  have value : idcodeReg.toNat = 2 ^ 28 + 0x9620 * 2 ^ 12 + Config.jedec % 2 ^ 11 * 2 + 1 := by
    rw [idcodeReg, BitVec.toNat_ofNat]
    exact Nat.mod_eq_of_lt (by omega)
  generalize Config.jedec % 2 ^ 11 = j at value jedec
  refine ⟨?_, ?_, ?_⟩
  · apply BitVec.eq_of_toNat_eq
    rw [BitVec.extractLsb'_toNat, value, Nat.shiftRight_eq_div_pow]
    show _ = 1
    omega
  · apply BitVec.eq_of_toNat_eq
    rw [BitVec.extractLsb'_toNat, value, Nat.shiftRight_eq_div_pow]
    show _ = 0x9620
    omega
  · rw [BitVec.getLsbD, value, Nat.testBit_zero, decide_eq_true_eq]
    omega

/-- The instructions that act in every state (R443, R462). -/
theorem tapBoundary : Rules.TapBoundary := by
  intro s
  obtain ⟨version, part, bit0⟩ := idcodeReg_fields
  exact ⟨⟨_, rfl, rfl, rfl, rfl⟩, fun pins pre => ⟨_, rfl, rfl, rfl, rfl⟩, ⟨_, rfl, rfl, rfl, rfl⟩,
    ⟨_, rfl, rfl, version, part, bit0, rfl⟩, ⟨_, rfl, rfl, rfl, rfl⟩, ⟨_, rfl, rfl, rfl⟩, ⟨_, rfl, rfl, rfl, rfl, rfl, rfl⟩⟩

theorem debugAllowed_iff (s : State) : s.debugAllowed = true ↔ s.fuses.dbgLock = false ∧ s.fuses.lcState ≠ 2 := by
  simp [State.debugAllowed]

theorem execDebug_of_allowed {s : State} (h : s.debugAllowed = true) :
    execDebug s = .next { s with tap := { s.tap.select .debug 0 with debugOpen := true } } := by
  simp [execDebug, doneSys, State.modTap, h]

theorem execDebug_of_refused {s : State} (h : s.debugAllowed = false) :
    execDebug s = .next { s with tap := s.tap.select .bypass 0 } := by
  simp [execDebug, doneSys, State.modTap, h]

/-- DEBUG opens the port where it may be reached, and selects the bypass register elsewhere (R463). -/
theorem debug_completes (s : State) : completes .debug s (fun t => Rules.tapOnly s t ∧
    (s.fuses.dbgLock = false ∧ s.fuses.lcState ≠ 2 → t.tap.ir = .debug ∧ t.tap.debugOpen = true) ∧
    (s.fuses.dbgLock = true ∨ s.fuses.lcState = 2 → t.tap.ir = .bypass ∧ t.tap.debugOpen = false)) := by
  cases allowed : s.debugAllowed with
  | true =>
    obtain ⟨unlocked, notField⟩ := (debugAllowed_iff s).mp allowed
    refine ⟨_, execDebug_of_allowed allowed, rfl, fun _ => ⟨rfl, rfl⟩, fun refused => ?_⟩
    exact absurd refused (by simp [unlocked, notField])
  | false =>
    refine ⟨_, execDebug_of_refused allowed, rfl, fun may => ?_, fun _ => ⟨rfl, rfl⟩⟩
    exact absurd ((debugAllowed_iff s).mpr may) (by simp [allowed])

/-- Settles O10: the instructions one by one; TEST_MODE as `testMode_completes` says. -/
theorem tapInstructions : Obligations.TapInstructions := ⟨tapBoundary, fun s => ⟨debug_completes s, testMode_completes s⟩⟩

end Sys2Proof.Proofs
end

section
/-! PROOF. Boot: the checks of an image and what follows them, the entries of the boot ring, READY, and the commands of the recovery window
(R339, R355, R406, R451 to R454). -/
namespace Sys2Proof.Proofs
open Sys2Proof Sys2Proof.Machine Sys2Proof.Laws

/-! ## The start of the firmware -/

theorem loadCal_boot (s : State) : s.loadCal.boot = s.boot := by
  refine foldl_keeps (fun a b : State => b.boot = a.boot) (fun _ => rfl) (fun _ _ _ h k => k.trans h) _ (fun b u => ?_) _ s
  split <;> rfl

theorem reportsOnly_ite {s t : State} {p : Prop} [Decidable p] (h : s.reportsOnly t) :
    s.reportsOnly (if p then t else s) ∧ s.reportsOnly (if p then s else t) := by
  constructor <;> split
  exacts [h, reportsOnly_refl s, reportsOnly_refl s, h]

/-- The start of the firmware takes profiles, entries and results, and leaves boot as it is (R454). -/
theorem startFirmware_boot (s : State) : s.startFirmware.boot = s.boot := by
  unfold State.startFirmware
  refine (reportsOnly_boot (addDaily_reportsOnly ..)).trans ((loadCal_boot _).trans ?_)
  refine (reportsOnly_boot (reportsOnly_ite (setFlag_reportsOnly ..)).1).trans ?_
  exact (reportsOnly_boot (reportsOnly_ite (setCond_reportsOnly ..)).2).trans rfl

/-! ## An image is decided -/

/-- Boot once an image has passed (R453, R454). -/
theorem bootPass_boot (s : State) (im : List Byte) : (s.bootPass im).boot = { s.boot with
    st := .running, cause := 0, flash := false, complete := false, image := [],
    fwMinor := byteAt im 12, fwMajor := byteAt im 13, svn := leAt im 16 4, commitSvn := (byteAt im 6).getLsbD 0,
    rcvStatus := if s.boot.rcvStatus = 1 then 2 else s.boot.rcvStatus } :=
  startFirmware_boot _

section
variable {s : State} (code : Nat)

/-- Boot once an image of the recovery window has failed (R406). -/
theorem bootFail_of_recovery (h : s.boot.rcvStatus = 1) : (s.bootFail code).boot = { s.boot with
    cause := BitVec.ofNat 8 code, complete := false, image := [], inOrder := true, st := .authFail, rcvStatus := 5 } := by
  simp [State.bootFail, h]

/-- Boot once the first copy of the flash has failed (R451). -/
theorem bootFail_of_copyA (h : s.boot.rcvStatus ≠ 1) (hf : s.boot.flash = true) (ha : s.boot.copyB = false) :
    (s.bootFail code).boot = { s.boot with
      cause := BitVec.ofNat 8 code, complete := false, image := [], inOrder := true, copyB := true } := by
  simp only [State.bootFail, if_neg h, hf, ha, if_true, if_false, Bool.false_eq_true]

/-- Boot once the second copy of the flash has failed (R451). -/
theorem bootFail_of_copyB (h : s.boot.rcvStatus ≠ 1) (hf : s.boot.flash = true) (hb : s.boot.copyB = true) :
    (s.bootFail code).boot = { s.boot with
      cause := BitVec.ofNat 8 code, complete := false, image := [], inOrder := true, flash := false,
      st := if s.boot.src = 3 then .waitImage else .authFail } := by
  simp only [State.bootFail, if_neg h, hf, hb, if_true]

/-- Boot once the host's image has failed (R453). -/
theorem bootFail_of_host (h : s.boot.rcvStatus ≠ 1) (hf : s.boot.flash = false) : (s.bootFail code).boot = { s.boot with
    cause := BitVec.ofNat 8 code, complete := false, image := [], inOrder := true, st := .authFail } := by
  simp only [State.bootFail, if_neg h, hf, if_false, Bool.false_eq_true]

end

/-- What follows the checks of an image: it passes, or fails with its code. -/
def bootJudged (u : State) (im : List Byte) : Option Nat → State
  | none => u.bootPass im
  | some c => u.bootFail c

section
variable {s : State} {t : Nat} {flash : FlashRead}

theorem execBootAuth_of_recovery (hp : (s.advance t).phase = .released) (hr : (s.advance t).boot.rcvStatus = 1)
    (hc : (s.advance t).boot.complete = true) : execBootAuth t flash s = done s (bootJudged (s.advance t)
      (s.advance t).boot.image (imageFault (s.advance t).fuses true (s.advance t).boot.image)) := by
  unfold execBootAuth
  dsimp only
  rw [if_neg (not_not.mpr hp), if_pos ⟨hr, hc⟩]
  split
  next h => rw [h]; rfl
  next h => rw [h]; rfl

theorem execBootAuth_of_noAnswer (hp : (s.advance t).phase = .released) (hr : (s.advance t).boot.rcvStatus ≠ 1)
    (hst : (s.advance t).boot.st = .loading) (hf : (s.advance t).boot.flash = true) :
    execBootAuth t .noAnswer s = done s ((s.advance t).bootFail 7) := by
  unfold execBootAuth
  dsimp only
  rw [if_neg (not_not.mpr hp), if_neg (fun h => hr h.1), if_pos ⟨hst, hf⟩]

theorem execBootAuth_of_flash (data : List Byte) (hp : (s.advance t).phase = .released) (hr : (s.advance t).boot.rcvStatus ≠ 1)
    (hst : (s.advance t).boot.st = .loading) (hf : (s.advance t).boot.flash = true) :
    execBootAuth t (.bytes data) s = done s (bootJudged (s.advance t) (flashImage data)
      (imageFault (s.advance t).fuses true (flashImage data))) := by
  unfold execBootAuth
  dsimp only
  rw [if_neg (not_not.mpr hp), if_neg (fun h => hr h.1), if_pos ⟨hst, hf⟩]
  split
  next h => rw [h]; rfl
  next h => rw [h]; rfl

theorem execBootAuth_of_host (hp : (s.advance t).phase = .released) (hr : (s.advance t).boot.rcvStatus ≠ 1)
    (hst : (s.advance t).boot.st = .loading) (hf : (s.advance t).boot.flash = false) (hc : (s.advance t).boot.complete = true) :
    execBootAuth t flash s = done s (bootJudged (s.advance t) (s.advance t).boot.image
      (imageFault (s.advance t).fuses (s.advance t).boot.inOrder (s.advance t).boot.image)) := by
  unfold execBootAuth
  dsimp only
  rw [if_neg (not_not.mpr hp), if_neg (fun h => hr h.1), if_neg (fun h => by simp [hf] at h), if_pos ⟨hst, hc⟩]
  split
  next h => rw [h]; rfl
  next h => rw [h]; rfl

/-- What a decided image means for boot, told of boot alone. -/
theorem bootAuth_completes {flash : FlashRead} {u : State} {p : Boot → Prop} (hs : s.live) (he : execBootAuth t flash s = done s u)
    (hp : p u.boot) : completes (.bootAuth t flash) s (fun r => p r.boot) :=
  completes_of_done hs he (by rw [framed_boot]; exact hp)

end

/-- The header of a flash image is the header of the copy (R452). -/
theorem byteAt_flashImage {i : Nat} (h : i < 192) (data : List Byte) : byteAt (flashImage data) i = byteAt data i := by
  unfold byteAt flashImage
  rw [List.getD_eq_getElem?_getD, List.getD_eq_getElem?_getD, List.getElem?_take_of_lt (by omega)]

section
variable {s : State} {t : Nat}

/-- The image of the recovery window is decided (R406). -/
theorem bootAuth_recovery (hs : s.live) (hp : (s.advance t).phase = .released) (hr : (s.advance t).boot.rcvStatus = 1)
    (hc : (s.advance t).boot.complete = true) (flash : FlashRead) :
    (imageFault (s.advance t).fuses true (s.advance t).boot.image = none → completes (.bootAuth t flash) s (fun r =>
      r.boot.st = .running ∧ r.boot.cause = 0 ∧ r.boot.rcvStatus = 2 ∧ r.boot.flash = false)) ∧
    (∀ c, imageFault (s.advance t).fuses true (s.advance t).boot.image = some c → completes (.bootAuth t flash) s (fun r =>
      r.boot.st = .authFail ∧ r.boot.cause = BitVec.ofNat 8 c ∧ r.boot.rcvStatus = 5 ∧ r.boot.image = [])) := by
  have he := execBootAuth_of_recovery (flash := flash) hp hr hc
  refine ⟨fun pass => ?_, fun c fail => ?_⟩
  · refine bootAuth_completes (p := fun b => b.st = .running ∧ b.cause = 0 ∧ b.rcvStatus = 2 ∧ b.flash = false) hs (pass ▸ he) ?_
    rw [bootJudged, bootPass_boot, if_pos hr]
    exact ⟨rfl, rfl, rfl, rfl⟩
  · refine bootAuth_completes (p := fun b => b.st = .authFail ∧ b.cause = _ ∧ b.rcvStatus = 5 ∧ b.image = []) hs (fail ▸ he) ?_
    rw [bootJudged, bootFail_of_recovery c hr]
    exact ⟨rfl, rfl, rfl, rfl⟩

/-- A flash that does not answer counts as a copy that fails with code 7 (R451, R453). -/
theorem bootAuth_noAnswer (hs : s.live) (hp : (s.advance t).phase = .released) (hr : (s.advance t).boot.rcvStatus ≠ 1)
    (hst : (s.advance t).boot.st = .loading) (hf : (s.advance t).boot.flash = true) :
    ((s.advance t).boot.copyB = false → completes (.bootAuth t .noAnswer) s (fun r =>
      r.boot.st = .loading ∧ r.boot.copyB = true ∧ r.boot.cause = 7)) ∧
    ((s.advance t).boot.copyB = true → completes (.bootAuth t .noAnswer) s (fun r =>
      r.boot.st = (if (s.advance t).boot.src = 3 then .waitImage else .authFail) ∧ r.boot.flash = false ∧ r.boot.cause = 7)) := by
  have he := execBootAuth_of_noAnswer hp hr hst hf
  refine ⟨fun first => ?_, fun second => ?_⟩
  · refine bootAuth_completes (p := fun b => b.st = .loading ∧ b.copyB = true ∧ b.cause = 7) hs he ?_
    rw [bootFail_of_copyA 7 hr hf first]
    exact ⟨hst, rfl, rfl⟩
  · refine bootAuth_completes (p := fun b => b.st = _ ∧ b.flash = false ∧ b.cause = 7) hs he ?_
    rw [bootFail_of_copyB 7 hr hf second]
    exact ⟨rfl, rfl, rfl⟩

/-- A copy of the flash is decided (R451, R453). -/
theorem bootAuth_flash (hs : s.live) (hp : (s.advance t).phase = .released) (hr : (s.advance t).boot.rcvStatus ≠ 1)
    (hst : (s.advance t).boot.st = .loading) (hf : (s.advance t).boot.flash = true) (data : List Byte) :
    (imageFault (s.advance t).fuses true (flashImage data) = none → completes (.bootAuth t (.bytes data)) s (fun r =>
      r.boot.st = .running ∧ r.boot.cause = 0 ∧ r.boot.flash = false ∧
      r.boot.fwMinor = byteAt data 12 ∧ r.boot.fwMajor = byteAt data 13)) ∧
    (∀ c, imageFault (s.advance t).fuses true (flashImage data) = some c → (s.advance t).boot.copyB = false →
      completes (.bootAuth t (.bytes data)) s (fun r =>
        r.boot.st = .loading ∧ r.boot.copyB = true ∧ r.boot.cause = BitVec.ofNat 8 c)) ∧
    (∀ c, imageFault (s.advance t).fuses true (flashImage data) = some c → (s.advance t).boot.copyB = true →
      completes (.bootAuth t (.bytes data)) s (fun r =>
        r.boot.st = (if (s.advance t).boot.src = 3 then .waitImage else .authFail) ∧ r.boot.flash = false ∧
        r.boot.cause = BitVec.ofNat 8 c)) := by
  have he := execBootAuth_of_flash data hp hr hst hf
  refine ⟨fun pass => ?_, fun c fail first => ?_, fun c fail second => ?_⟩
  · refine bootAuth_completes (p := fun b => b.st = .running ∧ b.cause = 0 ∧ b.flash = false ∧ b.fwMinor = _ ∧ b.fwMajor = _) hs
      (pass ▸ he) ?_
    rw [bootJudged, bootPass_boot]
    exact ⟨rfl, rfl, rfl, byteAt_flashImage (by decide) data, byteAt_flashImage (by decide) data⟩
  · refine bootAuth_completes (p := fun b => b.st = .loading ∧ b.copyB = true ∧ b.cause = _) hs (fail ▸ he) ?_
    rw [bootJudged, bootFail_of_copyA c hr hf first]
    exact ⟨hst, rfl, rfl⟩
  · refine bootAuth_completes (p := fun b => b.st = _ ∧ b.flash = false ∧ b.cause = _) hs (fail ▸ he) ?_
    rw [bootJudged, bootFail_of_copyB c hr hf second]
    exact ⟨rfl, rfl, rfl⟩

/-- The host's image is decided (R453). -/
theorem bootAuth_host (hs : s.live) (hp : (s.advance t).phase = .released) (hr : (s.advance t).boot.rcvStatus ≠ 1)
    (hst : (s.advance t).boot.st = .loading) (hf : (s.advance t).boot.flash = false) (hc : (s.advance t).boot.complete = true)
    (flash : FlashRead) :
    (imageFault (s.advance t).fuses (s.advance t).boot.inOrder (s.advance t).boot.image = none →
      completes (.bootAuth t flash) s (fun r => r.boot.st = .running ∧ r.boot.cause = 0 ∧ r.boot.flash = false)) ∧
    (∀ c, imageFault (s.advance t).fuses (s.advance t).boot.inOrder (s.advance t).boot.image = some c →
      completes (.bootAuth t flash) s (fun r =>
        r.boot.st = .authFail ∧ r.boot.cause = BitVec.ofNat 8 c ∧ r.boot.image = [])) := by
  have he := execBootAuth_of_host (flash := flash) hp hr hst hf hc
  refine ⟨fun pass => ?_, fun c fail => ?_⟩
  · refine bootAuth_completes (p := fun b => b.st = .running ∧ b.cause = 0 ∧ b.flash = false) hs (pass ▸ he) ?_
    rw [bootJudged, bootPass_boot]
    exact ⟨rfl, rfl, rfl⟩
  · refine bootAuth_completes (p := fun b => b.st = .authFail ∧ b.cause = _ ∧ b.image = []) hs (fail ▸ he) ?_
    rw [bootJudged, bootFail_of_host c hr hf]
    exact ⟨rfl, rfl, rfl⟩

end

theorem bootAuth : Rules.BootAuth := by
  intro s t flash hs hp u b
  refine ⟨fun hr hc => bootAuth_recovery hs hp hr hc flash, fun hr hst hf => ⟨?_, ?_, ?_, ?_, ?_⟩,
    fun hr hst hf hc => bootAuth_host hs hp hr hst hf hc flash⟩
  · rintro rfl
    exact (bootAuth_noAnswer hs hp hr hst hf).1
  · rintro rfl
    exact (bootAuth_noAnswer hs hp hr hst hf).2
  · rintro data c rfl
    exact (bootAuth_flash hs hp hr hst hf data).2.1 c
  · rintro data rfl
    exact (bootAuth_flash hs hp hr hst hf data).1
  · rintro data c rfl
    exact (bootAuth_flash hs hp hr hst hf data).2.2 c

/-! ## The boot ring -/

theorem releaseEntry_hostOnly (s : State) (i : Nat) : s.hostOnly (s.releaseEntry i) :=
  hostOnly_trans (modRing_hostOnly ..) (ringCount_hostOnly ..)

/-- The image that an entry joins: the one at hand while BOOT reads LOADING, else a new one (R453). -/
def imageAtHand (b : Boot) : List Byte := if b.st = .loading then b.image else []

/-- Boot once an entry has joined the image: whether the data are still in order turns on OFFSET, the entry's slot and its place. -/
def bootWithEntry (s : State) (e : BootEntry) : Boot :=
  { s.boot with
    st := .loading, image := imageAtHand s.boot ++ e.data, complete := e.last,
    inOrder := (if s.boot.st = .loading then s.boot.inOrder else true) && e.offset == (imageAtHand s.boot).length &&
      (decide (e.data.length ≤ (s.ring 0).bufSize - 16) && (e.last || (decide (16 ≤ e.data.length) && e.data.length % 16 == 0))) }

theorem bootWithEntry_inOrder (s : State) (e : BootEntry) : (bootWithEntry s e).inOrder = true ↔
    (s.boot.st = .loading → s.boot.inOrder = true) ∧ e.offset = (imageAtHand s.boot).length ∧
    e.data.length ≤ (s.ring 0).bufSize - 16 ∧ (e.last = true ∨ (16 ≤ e.data.length ∧ e.data.length % 16 = 0)) := by
  unfold bootWithEntry
  by_cases loading : s.boot.st = .loading <;> simp [loading, and_assoc]

theorem execBootEntry_of_taken {s : State} (e : BootEntry) (runs : (s.ring 0).isRunning kBoot = true) (filled : 0 < (s.ring 0).filled)
    (host : s.boot.src = 0 ∨ (s.boot.src = 3 ∧ s.boot.flash = false)) (open_ : s.boot.complete = false)
    (idle : s.boot.rcvStatus ≠ 1) (st : s.boot.st = .waitImage ∨ s.boot.st = .loading ∨ s.boot.st = .authFail) :
    execBootEntry e s = done s (({ s with boot := bootWithEntry s e } : State).releaseEntry 0) := by
  unfold execBootEntry
  have undecided : decide (s.boot.rcvStatus ≠ 1) = true := decide_eq_true idle
  exact if_pos (by simp only [runs, filled, host, open_, undecided, st, decide_true, Bool.not_false, Bool.and_self])

theorem bootEntryTaken : Rules.BootEntryTaken := by
  intro s e hs runs filled host open_ idle st
  refine completes_of_done hs (execBootEntry_of_taken e runs filled host open_ idle st) ?_
  rw [framed_boot, hostOnly_boot (releaseEntry_hostOnly ..)]
  exact ⟨rfl, rfl, rfl, bootWithEntry_inOrder s e⟩

/-- Settles O11: the four sources of an image in `bootAuth`, the entries of the boot ring in `bootEntryTaken`. -/
theorem imageBoot : Obligations.ImageBoot := ⟨bootAuth, bootEntryTaken⟩

/-! ## READY -/

theorem sbJudge_hostOnly (s : State) : s.hostOnly s.sbJudge := by
  unfold State.sbJudge
  split
  · exact modSb_hostOnly ..
  · exact hostOnly_refl s

theorem execReady_of_running {s : State} (hst : s.boot.st = .running) (hr : s.boot.ready = false) (hp : s.phase = .released)
    (hh : s.flags.halted = false) : ∃ e, e.boot.ready = true ∧ execReady s = doneFw s e
      { s.fuses with minSvn := if s.boot.commitSvn then max s.fuses.minSvn s.boot.svn else s.fuses.minSvn } s.tap := by
  unfold execReady
  rw [if_pos ⟨hst, hr, hp, hh⟩]
  refine ⟨_, ?_, rfl⟩
  rw [hostOnly_boot (sbJudge_hostOnly _), hostOnly_boot (signalVec_hostOnly ..)]
  repeat' split
  all_goals rfl

theorem doneFw_of_live {s : State} (h : s.live) (t : State) (fuses : Fuses) (tap : Tap) :
    doneFw s t fuses tap = .next { s.framed t with fuses := fuses, tap := tap } := by
  rw [doneFw, if_neg (by rw [h]; exact Bool.false_ne_true)]

theorem globalSts_of_ready {s : State} (h : s.boot.ready = true) : s.globalSts % 2 = 1 := by
  unfold State.globalSts
  rw [h, show bit true = 1 from rfl]
  omega

theorem readyRises : Rules.ReadyRises := by
  intro s hs hst hr hp hh
  obtain ⟨e, ready, he⟩ := execReady_of_running hst hr hp hh
  refine ⟨_, he.trans (doneFw_of_live hs ..), ?_⟩
  exact ⟨ready, globalSts_of_ready ready, rfl, rfl, rfl⟩

/-! ## The recovery window -/

section
variable {s : State}

theorem rcvEnd_of_idle (h : s.boot.rcvStatus ≠ 1) (st : Byte) : s.rcvEnd st = { s with boot := { s.boot with rcvStatus := st } } :=
  if_neg h

theorem notPermitted_of_not_allowed (h : s.rcvAllowed = false) : (!s.rcvAllowed || s.boot.rcvStatus == 1) = true := by
  rw [h]; rfl

theorem permitted_of_allowed (h : s.rcvAllowed = true) (idle : s.boot.rcvStatus ≠ 1) :
    ¬ (!s.rcvAllowed || s.boot.rcvStatus == 1) = true := by
  rw [h, beq_eq_false_iff_ne.mpr idle]
  exact Bool.false_ne_true

/-- Where the window does not permit them, the three commands end NOT_PERMITTED alike. -/
theorem rcv_of_not_allowed (h : s.rcvAllowed = false) : s.rcvLoad = s.rcvEnd 6 ∧ s.rcvFinish = s.rcvEnd 6 ∧ s.rcvAbort = s.rcvEnd 6 :=
  ⟨if_pos (notPermitted_of_not_allowed h), if_pos (notPermitted_of_not_allowed h), if_pos (notPermitted_of_not_allowed h)⟩

theorem rcvFinish_of_allowed (h : s.rcvAllowed = true) (idle : s.boot.rcvStatus ≠ 1) :
    s.rcvFinish = { s with boot := { s.boot with rcvStatus := 1, complete := true, inOrder := true } } := by
  unfold State.rcvFinish
  rw [if_neg (permitted_of_allowed h idle)]
  exact rcvEnd_of_idle (s := { s with boot := { s.boot with complete := true, inOrder := true } }) idle 1

theorem rcvAbort_of_allowed (h : s.rcvAllowed = true) (idle : s.boot.rcvStatus ≠ 1) :
    s.rcvAbort = { s with boot := { s.boot with rcvStatus := 0, complete := false, image := [] } } := by
  unfold State.rcvAbort
  rw [if_neg (permitted_of_allowed h idle)]
  exact rcvEnd_of_idle (s := { s with boot := { s.boot with image := [], complete := false } }) idle 0

theorem rcvLoad_of_badOffset (h : s.rcvAllowed = true) (idle : s.boot.rcvStatus ≠ 1)
    (bad : s.boot.rcvOffset.toNat % 16 ≠ 0 ∨ s.boot.rcvOffset.toNat ≠ s.boot.image.length) : s.rcvLoad = s.rcvEnd 3 := by
  unfold State.rcvLoad
  dsimp only
  rw [if_neg (permitted_of_allowed h idle), if_pos bad]

/-- The bytes that LOAD takes when RCV_DATA has its 128 bytes. -/
theorem fitBytes_take {bs : List Byte} {n : Nat} (h : n ≤ bs.length) : fitBytes n (bs.take n) = bs.take n := by
  have len : (bs.take n).length = n := by rw [List.length_take, Nat.min_eq_left h]
  rw [fitBytes, len, Nat.sub_self, List.take_take, Nat.min_self]
  exact List.append_nil _

theorem rcvLoad_of_goodOffset (h : s.rcvAllowed = true) (idle : s.boot.rcvStatus ≠ 1) (aligned : s.boot.rcvOffset.toNat % 16 = 0)
    (next : s.boot.rcvOffset.toNat = s.boot.image.length) : s.rcvLoad =
      let chunk := fitBytes s.boot.rcvLen.toNat (s.boot.rcvData.take s.boot.rcvLen.toNat)
      if s.boot.rcvLen = 0 ∨ 128 < s.boot.rcvLen.toNat ∨
        (s.boot.rcvLen.toNat % 16 ≠ 0 ∧ lastChunk s.boot.image chunk = false) then s.rcvEnd 4
      else ({ s with boot := { s.boot with image := s.boot.image ++ chunk } } : State).rcvEnd 2 := by
  unfold State.rcvLoad
  dsimp only
  rw [if_neg (permitted_of_allowed h idle), if_neg (not_or.mpr ⟨not_not.mpr aligned, not_not.mpr next⟩)]

end

section
variable {s : State} {t : Nat}

theorem completes_of_doneBus {c : Instr} {u : State} {p : State → Prop} (h : exec c s = doneBus s u) (hp : p (s.framed u)) :
    completes c s p := ⟨s.framed u, h, hp⟩

theorem rcvLoad_completes {u : State} (h : (s.busAt t).rcvLoad = u) : completes (.rcvLoad t) s (fun r => r = s.framed u) :=
  completes_of_doneBus rfl (congrArg s.framed h)
theorem rcvFinish_completes {u : State} (h : (s.busAt t).rcvFinish = u) : completes (.rcvFinish t) s (fun r => r = s.framed u) :=
  completes_of_doneBus rfl (congrArg s.framed h)
theorem rcvAbort_completes {u : State} (h : (s.busAt t).rcvAbort = u) : completes (.rcvAbort t) s (fun r => r = s.framed u) :=
  completes_of_doneBus rfl (congrArg s.framed h)

end

theorem recoveryCommands : Rules.RecoveryCommands := by
  intro s t u b idle
  refine ⟨fun refused c hc => ?_, fun allowed => ⟨fun bad => ?_, fun aligned next full bad => ?_,
    fun aligned next some_ most full good => ?_, rcvFinish_completes (rcvFinish_of_allowed allowed idle),
    rcvAbort_completes (rcvAbort_of_allowed allowed idle)⟩⟩
  · obtain ⟨load, finish, abort⟩ := rcv_of_not_allowed refused
    have ended := rcvEnd_of_idle idle 6
    obtain rfl | rfl | rfl := hc
    · exact rcvLoad_completes (load.trans ended)
    · exact rcvFinish_completes (finish.trans ended)
    · exact rcvAbort_completes (abort.trans ended)
  · exact rcvLoad_completes ((rcvLoad_of_badOffset allowed idle bad).trans (rcvEnd_of_idle idle 3))
  · refine rcvLoad_completes ((rcvLoad_of_goodOffset allowed idle aligned next).trans ((if_pos ?_).trans (rcvEnd_of_idle idle 4)))
    obtain zero | long | ⟨most, odd, notLast⟩ := bad
    · exact .inl zero
    · exact .inr (.inl long)
    · exact .inr (.inr ⟨odd, by rw [fitBytes_take (full ▸ most)]; exact notLast⟩)
  · have chunk := fitBytes_take (bs := b.rcvData) (full ▸ most)
    refine rcvLoad_completes ((rcvLoad_of_goodOffset allowed idle aligned next).trans ((if_neg ?_).trans ?_))
    · rintro (zero | long | ⟨odd, notLast⟩)
      · exact some_ zero
      · exact absurd most (Nat.not_le.mpr long)
      · rw [chunk] at notLast
        exact good.elim odd (fun last => Bool.false_ne_true (notLast.symm.trans last))
    · rw [chunk]
      exact rcvEnd_of_idle (s := { u with boot := { b with image := b.image ++ b.rcvData.take b.rcvLen.toNat } }) idle 2

/-- Settles O12: READY by the state that it leaves, the recovery commands by the window's checks. -/
theorem readyAndRecovery : Obligations.ReadyAndRecovery := ⟨readyRises, recoveryCommands⟩

end Sys2Proof.Proofs
end

section
/-! PROOF. The management bus (R386 to R399, R403, R405, R427, R428): transfers and their faults, the clear of flags against the sets of its
edge, the single registers, and the attention request. -/
namespace Sys2Proof.Proofs
open Sys2Proof Sys2Proof.Machine Sys2Proof.Laws

/-! ## Write transfers -/

theorem mem_indexed {α : Type} {k : Nat} {l : List α} {x : Nat × α} (h : x ∈ indexed k l) : x.2 ∈ l := by
  induction l generalizing k with
  | nil => cases h
  | cons a l ih =>
    obtain rfl | h := List.mem_cons.mp h
    · exact List.mem_cons_self ..
    · exact List.mem_cons_of_mem _ (ih h)

/-- Each byte held for a write stands at the address of its place. -/
theorem addr_of_mem_heldWrites {short : Bool} {p : Nat} {data : List Byte} {w : Nat × Byte} (h : w ∈ heldWrites short p data) :
    ∃ i, w.1 = writeAddr short p i := by
  have kept (all acc : List (Nat × Byte)) (h : w ∈ all.foldl (fun acc w => acc.filter (fun x => x.1 != w.1) ++ [w]) acc) :
      w ∈ acc ∨ w ∈ all := by
    induction all generalizing acc with
    | nil => exact .inl h
    | cons a all ih =>
      obtain h | h := ih _ h
      · obtain h | h := List.mem_append.mp h
        · exact .inl (List.mem_filter.mp h).1
        · exact .inr (List.mem_cons.mpr (.inl (List.mem_singleton.mp h)))
      · exact .inr (List.mem_cons_of_mem _ h)
  obtain h | h := kept _ _ ((sortBy_perm ..).mem_iff.mp h)
  · cases h
  · obtain ⟨x, -, rfl⟩ := List.mem_map.mp h
    exact ⟨x.1, rfl⟩

/-- In short-pointer mode no byte reaches an address below the recovery window (R394). -/
theorem heldAt_of_window {p a : Nat} {data : List Byte} (h : a < 0x800) : heldAt (heldWrites true p data) a = none := by
  have absent : (heldWrites true p data).find? (fun w => w.1 == a) = none := by
    refine List.find?_eq_none.mpr fun w hw => ?_
    obtain ⟨i, hi⟩ := addr_of_mem_heldWrites hw
    have high : 0x800 ≤ w.1 := by rw [hi]; exact Nat.le_add_right ..
    simp only [beq_iff_eq]
    omega
  rw [heldAt, absent]
  rfl

/-- What a mode of the bus turns on, and the pointer, are the same in `t` as in `s`. -/
structure SameBus (s t : State) : Prop where
  bus : t.bus = s.bus
  st : t.boot.st = s.boot.st
  tap : t.tap = s.tap

theorem SameBus.refl (s : State) : SameBus s s := ⟨rfl, rfl, rfl⟩
theorem SameBus.trans {a b c : State} (h : SameBus a b) (k : SameBus b c) : SameBus a c :=
  ⟨k.bus.trans h.bus, k.st.trans h.st, k.tap.trans h.tap⟩
theorem SameBus.of_reportsOnly {s t : State} (h : s.reportsOnly t) : SameBus s t :=
  ⟨reportsOnly_bus h, by rw [reportsOnly_boot h], reportsOnly_tap h⟩
theorem SameBus.ite {s a b : State} {p : Prop} [Decidable p] (ha : SameBus s a) (hb : SameBus s b) :
    SameBus s (if p then a else b) := by
  split
  exacts [ha, hb]
theorem SameBus.shortNow {s t : State} (h : SameBus s t) : t.shortNow = s.shortNow := by
  unfold State.shortNow; rw [h.st, h.tap]

/-- A register written leaves the pointer and the mode of the bus. -/
theorem putMgmtByte_sameBus (s : State) (addr : Nat) (b : Byte) : SameBus s (s.putMgmtByte addr b) := by
  refine .ite (.ite ⟨rfl, rfl, rfl⟩ (.refl s)) (.ite (.of_reportsOnly (clearFlags_reportsOnly ..)) ?_)
  repeat' apply SameBus.ite
  all_goals exact ⟨rfl, rfl, rfl⟩

theorem rcvEnd_sameBus {s u : State} (h : SameBus s u) (st : Byte) : SameBus s (u.rcvEnd st) :=
  .ite h ⟨h.bus, h.st, h.tap⟩

theorem rcvLoad_sameBus (s : State) : SameBus s s.rcvLoad :=
  .ite (rcvEnd_sameBus (.refl s) 6) (.ite (rcvEnd_sameBus (.refl s) 3)
    (.ite (rcvEnd_sameBus (.refl s) 4) (rcvEnd_sameBus (by exact ⟨rfl, rfl, rfl⟩) 2)))

theorem rcvFinish_sameBus (s : State) : SameBus s s.rcvFinish :=
  .ite (rcvEnd_sameBus (.refl s) 6) (rcvEnd_sameBus (by exact ⟨rfl, rfl, rfl⟩) 1)

theorem rcvAbort_sameBus (s : State) : SameBus s s.rcvAbort :=
  .ite (rcvEnd_sameBus (.refl s) 6) (rcvEnd_sameBus (by exact ⟨rfl, rfl, rfl⟩) 0)

/-- The commands of a transfer without RESET_REQ leave the pointer and the mode of the bus. -/
theorem busCommands_sameBus {s : State} {ws : List (Nat × Byte)}
    (h : ¬ (heldAt ws 0x408 = some 0x5A ∧ heldAt ws 0x409 = some 0xA5)) : SameBus s (s.busCommands ws) := by
  unfold State.busCommands
  rw [if_neg h]
  split
  · exact .ite (rcvLoad_sameBus s) (.ite (rcvFinish_sameBus s) (.ite (rcvAbort_sameBus s) (.refl s)))
  · exact .refl s

/-- Bytes of a transfer reach their registers one after the other. -/
def putBytes (s : State) (ws : List (Nat × Byte)) : State := ws.foldl (fun u w => u.putMgmtByte w.1 w.2) s

theorem putBytes_sameBus (s : State) (ws : List (Nat × Byte)) : SameBus s (putBytes s ws) :=
  foldl_keeps SameBus .refl (fun _ _ _ => .trans) (fun u (w : Nat × Byte) => u.putMgmtByte w.1 w.2)
    (fun b w => putMgmtByte_sameBus b w.1 w.2) ws s

/-- The pointer set to the place after `n` bytes of data. -/
def pointerSet (s : State) (short : Bool) (p n : Nat) : State :=
  { s with bus := { s.bus with pointer := BitVec.ofNat 16 (writeAddr short p n) } }

/-- The pointer set, and the bytes behind it written. -/
def wroteFrom (s : State) (short : Bool) (p : Nat) (data : List Byte) : State :=
  (putBytes (pointerSet s short p data.length) (heldWrites short p data)).busCommands (heldWrites short p data)

section
variable {s : State}

theorem applyWrite_of_two_byte (h : s.bus.short = false) (hi lo : Byte) (data : List Byte) :
    s.applyWrite (hi :: lo :: data) = wroteFrom s false (256 * hi.toNat + lo.toNat) data := by
  exact (if_neg (by rw [h]; exact Bool.false_ne_true)).trans rfl

theorem applyWrite_of_less (h : s.bus.short = false) {bytes : List Byte} (hb : bytes.length < 2) : s.applyWrite bytes = s := by
  refine (if_neg (by rw [h]; exact Bool.false_ne_true)).trans ?_
  match bytes, hb with
  | [], _ => rfl
  | [_], _ => rfl

theorem applyWrite_of_short (h : s.bus.short = true) (p : Byte) (data : List Byte) :
    s.applyWrite (p :: data) = wroteFrom s true p.toNat data := by
  exact (if_pos h).trans rfl

/-- Two bytes alone set the pointer (R390). -/
theorem wroteFrom_nil (p : Nat) : wroteFrom s false p [] = { s with bus := { s.bus with pointer := BitVec.ofNat 16 p } } := by
  have addr : writeAddr false p 0 = p := by
    show p / 32 * 32 + (p + 0) % 32 = p
    omega
  unfold wroteFrom pointerSet
  rw [List.length_nil, addr]
  rfl

theorem wroteFrom_sameBus {short : Bool} {p : Nat} {data : List Byte}
    (h : ¬ (heldAt (heldWrites short p data) 0x408 = some 0x5A ∧ heldAt (heldWrites short p data) 0x409 = some 0xA5)) :
    SameBus (pointerSet s short p data.length) (wroteFrom s short p data) :=
  (putBytes_sameBus ..).trans (busCommands_sameBus h)

/-- A STOP ends the transfer with the mode that then holds; a repeated START leaves the mode (R394). -/
def endTransfer (e : BusEnd) (s : State) : State := if e = .stop then s.busStop else s

theorem endTransfer_bus {u v : State} (h : SameBus u v) (e : BusEnd) : (endTransfer e v).bus.pointer = u.bus.pointer ∧
    (endTransfer e v).bus.short = if e = .stop then u.shortNow else u.bus.short := by
  unfold endTransfer
  split
  · exact ⟨(congrArg Bus.pointer h.bus : v.bus.pointer = u.bus.pointer), h.shortNow⟩
  · exact ⟨congrArg Bus.pointer h.bus, congrArg Bus.short h.bus⟩

theorem execMbWrite_of_answering {t : Nat} (ha : (s.busAt t).busAnswers = true) (bytes : List Byte) (e : BusEnd) :
    execMbWrite t bytes e s = doneBus s (endTransfer e ((s.busAt t).applyWrite bytes)) := if_pos ha

theorem mbWrite_completes {t : Nat} (ha : (s.busAt t).busAnswers = true) {bytes : List Byte} {e : BusEnd} {u : State}
    (h : (s.busAt t).applyWrite bytes = u) : completes (.mbWrite t bytes e) s (fun r => r = s.framed (endTransfer e u)) :=
  completes_of_doneBus (execMbWrite_of_answering ha bytes e) (by rw [h])

end

theorem busPointer : Rules.BusPointer := by
  intro s t answers u mode
  have ends (e : BusEnd) (x : State) : mode e x = endTransfer e x := rfl
  refine ⟨fun long e h l => ⟨?_, ?_, ?_, fun data noReset => ?_⟩, fun short e p data => ?_⟩
  · exact mbWrite_completes answers (applyWrite_of_less long Nat.zero_lt_two)
  · exact mbWrite_completes answers (applyWrite_of_less long Nat.one_lt_two)
  · exact mbWrite_completes answers ((applyWrite_of_two_byte long h l []).trans (wroteFrom_nil _))
  · refine completes_of_doneBus (execMbWrite_of_answering answers ..) ?_
    rw [applyWrite_of_two_byte long]
    exact endTransfer_bus (wroteFrom_sameBus noReset) e
  · refine completes_of_doneBus (execMbWrite_of_answering answers ..) ?_
    rw [applyWrite_of_short short]
    refine endTransfer_bus (wroteFrom_sameBus ?_) e
    rw [heldAt_of_window (by decide)]
    exact fun h => nomatch h.1

/-! ## Read transfers, and none -/

theorem execMbRead_of_answering {s : State} {t : Nat} (ha : (s.busAt t).busAnswers = true) (n : Nat) :
    execMbRead t n s =
      let u := s.busAt t
      let addrs := (List.range n).map (readAddr u.bus.short u.bus.pointer.toNat)
      doneBus s ({ u with
        bus := { u.bus with
          pointer := BitVec.ofNat 16 (readAddr u.bus.short u.bus.pointer.toNat n), lastRead := addrs.map u.mgmtByte },
        log := { u.log with sel := if u.log.autoSel && addrs.contains 0x37F then u.log.sel + 1 else u.log.sel } } : State).busStop :=
  if_pos ha

/-- A transfer reads an address when one of its bytes stands there. -/
theorem contains_map_range {n a : Nat} (f : Nat → Nat) : ((List.range n).map f).contains a = true ↔ ∃ i, i < n ∧ f i = a := by
  simp

theorem busRead : Rules.BusRead := by
  intro s t n answers u addr
  refine completes_of_doneBus (execMbRead_of_answering answers n) ?_
  refine ⟨List.map_map, rfl, rfl, ?_, rfl⟩
  show (if _ then _ else _) = _
  simp only [Bool.and_eq_true, contains_map_range]
  rfl

theorem busAnswers_of_reset {s : State} (h : s.phase = .porst ∨ s.phase = .warm) : s.busAnswers = false := by
  unfold State.busAnswers
  obtain h | h := h <;> rw [h] <;> rfl

theorem busAnswers_of_stopped {s : State} (hs : s.clk.mgmtStopped = true) (hw : s.clk.wakeReq = false) : s.busAnswers = false := by
  unfold State.busAnswers
  rw [hs, hw]
  exact Bool.and_false _

section
variable {s u : State} {t : Nat}

/-- A device that does not answer is woken at most. -/
theorem mbWrite_of_deaf (ha : (s.busAt t).busAnswers = false) (h : (s.busAt t).busDeaf = u) (bytes : List Byte) (e : BusEnd) :
    completes (.mbWrite t bytes e) s (fun r => r = s.framed u) :=
  completes_of_doneBus (if_neg (by rw [ha]; exact Bool.false_ne_true)) (congrArg s.framed h)

theorem mbRead_of_deaf (ha : (s.busAt t).busAnswers = false) (h : (s.busAt t).busDeaf = u) (n : Nat) :
    completes (.mbRead t n) s (fun r => r = s.framed u) :=
  completes_of_doneBus (if_neg (by rw [ha]; exact Bool.false_ne_true)) (congrArg s.framed h)

end

theorem busSilent : Rules.BusSilent := by
  intro s t n bytes e u
  refine ⟨fun held => ?_, fun notPorst notWarm stopped idle => ?_⟩
  · have deaf : u.busDeaf = u := if_pos held
    exact ⟨mbWrite_of_deaf (busAnswers_of_reset held) deaf .., mbRead_of_deaf (busAnswers_of_reset held) deaf ..⟩
  · have woken : u.busDeaf = { u with clk := { u.clk with wakeReq := true } } :=
      (if_neg (not_or.mpr ⟨notPorst, notWarm⟩)).trans (if_pos stopped)
    exact ⟨mbWrite_of_deaf (busAnswers_of_stopped stopped idle) woken .., mbRead_of_deaf (busAnswers_of_stopped stopped idle) woken ..⟩

/-- Settles O13: writes by what they leave of the pointer and the mode, reads by their one state, silence by `State.busDeaf`. -/
theorem busTransfers : Obligations.BusTransfers := ⟨busPointer, busRead, busSilent⟩

/-! ## Faults -/

theorem setFlag_flag {n : Nat} (hn : n < 256) {s : State} (hp : s.phase = .released) : (s.setFlag n).flag n = true :=
  setFlagMet_flag hn hp false s.now

/-- A set takes no flag away. -/
theorem setFlag_flag_of_flag {s : State} {m : Nat} (h : s.flag m = true) (n : Nat) : (s.setFlag n).flag m = true := by
  unfold State.flag State.setFlag
  rw [(setFlagMet_sameRegister ..).bits]
  dsimp only
  split
  · rw [BitVec.getLsbD_or, show s.flags.bits.getLsbD m = true from h, Bool.true_or]
  · exact h

/-- The crossing of the management bus flushed once more. -/
def crossed (s : State) : State := { s with clk := { s.clk with flushes := modAt 7 (· + 1) s.clk.flushes } }

theorem busFlush_eq (s : State) (n : Nat) : s.busFlush n = ((crossed s).setFlag fCrossFlush).setFlag n := rfl

section
variable {s : State} {n : Nat}

theorem busFlush_flags (hp : s.phase = .released) (hn : n < 256) :
    (s.busFlush n).flag n = true ∧ (s.busFlush n).flag fCrossFlush = true := by
  have before : (crossed s).phase = .released := hp
  have after : ((crossed s).setFlag fCrossFlush).phase = .released := (reportsOnly_phase (setFlag_reportsOnly ..)).trans before
  rw [busFlush_eq]
  exact ⟨setFlag_flag hn after, setFlag_flag_of_flag (setFlag_flag (n := fCrossFlush) (by decide) before) n⟩

theorem busFlush_reportsOnly (s : State) (n : Nat) : (crossed s).reportsOnly (s.busFlush n) :=
  reportsOnly_trans (setFlag_reportsOnly ..) (setFlag_reportsOnly ..)

/-- A misplaced STOP brings the mode into force that held before the flush. -/
theorem busFlush_busStop_reportsOnly (s : State) (n : Nat) : ({ s with
    clk := { s.clk with flushes := modAt 7 (· + 1) s.clk.flushes },
    bus := { s.bus with short := s.shortNow } } : State).reportsOnly (s.busFlush n).busStop := by
  have h := busFlush_reportsOnly s n
  have mode : (s.busFlush n).shortNow = s.shortNow := (SameBus.of_reportsOnly h).shortNow
  unfold State.busStop
  rw [mode]
  unfold State.reportsOnly at *
  rw [h]
  rfl

theorem busFault_of_released (hp : s.phase = .released) : s.busFault n = s.busFlush n := if_neg (by simp [hp])

end

/-- Settles O14: each fault is a flush of the crossing and its flag; only a misplaced STOP brings a change of mode. -/
theorem busFaults : Obligations.BusFaults := by
  intro s t hp
  have fault {n : Nat} : (s.busAt t).busFault n = (s.busAt t).busFlush n := busFault_of_released hp
  have flushed (n : Nat) (hn : n < 256) : Rules.busFlushed s (s.busAt t) (s.framed ((s.busAt t).busFlush n)) n := by
    obtain ⟨own, cross⟩ := busFlush_flags hp hn
    exact ⟨own, cross, framed_reportsOnly (busFlush_reportsOnly ..)⟩
  refine ⟨fun held => ?_, fun held => ?_, ?_, ?_⟩
  · refine completes_of_doneBus rfl ?_
    rw [if_pos rfl, fault]
    exact flushed fBusError (by decide)
  · refine completes_of_doneBus rfl ?_
    rw [if_neg Bool.false_ne_true, fault]
    obtain ⟨own, cross⟩ := busFlush_flags hp (n := fBusError) (by decide)
    exact ⟨own, cross, framed_reportsOnly (busFlush_busStop_reportsOnly ..)⟩
  · refine completes_of_doneBus rfl ?_
    rw [fault]
    exact flushed fSdaLowTo (by decide)
  · refine completes_of_doneBus rfl ?_
    rw [if_neg (by simp [hp])]
    exact flushed fSclLowTo (by decide)

/-! ## What a rising changes of the flag register -/

/-- The register after reports that ask for attention at most; a pulse that is due stays due. -/
def asksOnly (f g : Flags) : Prop :=
  ∃ pendFlag pendDailies due, g = { f with pendFlag := pendFlag, pendDailies := pendDailies, pulseDue := due } ∧
    (f.pulseDue = true → due = true)

theorem asksOnly_refl (f : Flags) : asksOnly f f := ⟨_, _, _, rfl, id⟩
theorem asksOnly_trans {f g h : Flags} (a : asksOnly f g) (b : asksOnly g h) : asksOnly f h := by
  obtain ⟨pf, pd, due, rfl, stays⟩ := a
  obtain ⟨pf', pd', due', rfl, stays'⟩ := b
  exact ⟨pf', pd', due', rfl, fun d => stays' (stays d)⟩

theorem addDaily_asksOnly (s : State) (code sev : Nat) (object : Id) (data : List Byte) (t : Nat) :
    asksOnly s.flags (s.addDaily code sev object data t).flags := by
  unfold State.addDaily
  split
  · exact asksOnly_refl _
  · rw [hostOnly_flags (foldl_hostOnly _ (fun b i => ?_) _ _)]
    · dsimp only
      split
      · exact ⟨s.flags.pendFlag, true, _, rfl, fun d => by rw [d]; rfl⟩
      · exact asksOnly_refl _
    · split
      · exact putDaily_hostOnly ..
      · exact hostOnly_refl b

theorem flagRise_asksOnly (s : State) (n : Nat) (met : Bool) (t : Nat) : asksOnly s.flags (s.flagRise n met t).flags := by
  unfold State.flagRise
  refine asksOnly_trans ?_ (addDaily_asksOnly ..)
  rw [hostOnly_flags (putAll_hostOnly ..)]
  dsimp only
  split
  · exact ⟨true, s.flags.pendDailies, _, rfl, fun d => by rw [d]; rfl⟩
  · exact asksOnly_refl _

/-- The register once a set on a released device is counted and noted, before a rising's reports. -/
theorem setFlagMet_asksOnly {s : State} (hp : s.phase = .released) (n : Nat) (met : Bool) (t : Nat) :
    ∃ rise, asksOnly (counted s n t rise).flags (s.setFlagMet n met t).flags := by
  by_cases h : s.flag n = false ∨ met = true ∨ s.flags.clearedAt (edgeOf t) n = true
  · exact ⟨true, by rw [setFlagMet_of_rising hp h]; exact flagRise_asksOnly ..⟩
  · obtain ⟨hf, hm, hc⟩ : s.flag n = true ∧ met = false ∧ s.flags.clearedAt (edgeOf t) n = false := by simpa using h
    exact ⟨false, by rw [hm, setFlagMet_of_standing hp hf hc]; exact asksOnly_refl _⟩

theorem setFlagMet_cond (s : State) (n : Nat) (met : Bool) (t : Nat) : (s.setFlagMet n met t).flags.cond = s.flags.cond := by
  rw [(setFlagMet_sameRegister ..).cond]

section
variable {s : State} (hp : s.phase = .released) (n : Nat) (met : Bool) (t : Nat)
include hp

theorem setFlagMet_counts : (s.setFlagMet n met t).flags.counts = modAt n (· + 1) s.flags.counts := by
  obtain ⟨rise, _, _, _, he, -⟩ := setFlagMet_asksOnly hp n met t
  rw [he]
  rfl

theorem setFlagMet_flag_eq (m : Nat) : (s.setFlagMet n met t).flag m = (s.flag m || (flagBit n).getLsbD m) := by
  unfold State.flag
  rw [(setFlagMet_sameRegister ..).bits, if_pos hp, BitVec.getLsbD_or]

/-- A set leaves the pulses sent, and a pulse that is due. -/
theorem setFlagMet_pulses : (s.setFlagMet n met t).flags.pulses = s.flags.pulses ∧
    (s.flags.pulseDue = true → (s.setFlagMet n met t).flags.pulseDue = true) := by
  obtain ⟨rise, _, _, _, he, stays⟩ := setFlagMet_asksOnly hp n met t
  rw [he]
  exact ⟨rfl, stays⟩

end

/-! ## A clear of flags -/

theorem flagBit_getLsbD {n m : Nat} (hm : m < 256) : (flagBit n).getLsbD m = decide (n = m) := by
  rw [flagBit, BitVec.getLsbD_ofNat, Nat.testBit_two_pow, decide_eq_true hm, Bool.true_and]

/-- The flags that a list of sets names. -/
theorem foldl_flagBit_getLsbD {n : Nat} (hn : n < 256) (l : List (Nat × Bool)) (b : BitVec 256) :
    (l.foldl (fun m x => m ||| flagBit x.1) b).getLsbD n = (b.getLsbD n || l.any (fun x => x.1 == n)) := by
  induction l generalizing b with
  | nil => simp
  | cons x l ih =>
    rw [List.foldl_cons, ih, BitVec.getLsbD_or, flagBit_getLsbD hn, List.any_cons, Bool.or_assoc]
    rfl

/-- A clear keeps a flag that its own edge set before it (R427). -/
def setOnEdge (s : State) (n : Nat) : Bool :=
  s.flags.edgeSet.1 == edgeOf s.now && s.flags.edgeSet.2.any (fun x => x.1 == n)

theorem metClear_asksOnly (s : State) (n : Nat) (rise : Bool) : asksOnly s.flags (s.metClear n rise).flags := by
  unfold State.metClear
  split
  · exact asksOnly_refl _
  · exact flagRise_asksOnly ..

/-- The sets that a clear meets. -/
def metSets (s : State) (mask : BitVec 256) : List (Nat × Bool) :=
  if s.flags.edgeSet.1 = edgeOf s.now then s.flags.edgeSet.2.filter (fun x => mask.getLsbD x.1) else []

theorem metSets_any (s : State) (mask : BitVec 256) (n : Nat) :
    (metSets s mask).any (fun x => x.1 == n) = (mask.getLsbD n && setOnEdge s n) := by
  have named (l : List (Nat × Bool)) : (l.filter (fun x => mask.getLsbD x.1)).any (fun x => x.1 == n) =
      (mask.getLsbD n && l.any (fun x => x.1 == n)) := by
    rw [List.any_filter, Bool.eq_iff_iff]
    simp only [List.any_eq_true, Bool.and_eq_true, beq_iff_eq]
    constructor
    · rintro ⟨x, hx, hm, rfl⟩
      exact ⟨hm, x, hx, rfl⟩
    · rintro ⟨hm, x, hx, rfl⟩
      exact ⟨x, hx, hm, rfl⟩
  unfold metSets setOnEdge
  split
  next same => rw [named, same, BEq.rfl, Bool.true_and]
  next other => rw [beq_eq_false_iff_ne.mpr other]; simp

/-- The register after a clear: the bits of the mask are gone but for the sets of the same edge, and the rest at most asks for
attention. -/
theorem clearFlags_asksOnly (s : State) (mask : BitVec 256) : ∃ edge, asksOnly { s.flags with
    bits := s.flags.bits &&& ~~~ (mask &&& ~~~ ((metSets s mask).foldl (fun m x => m ||| flagBit x.1) 0))
    edgeClear := edge } (s.clearFlags mask).flags :=
  ⟨_, foldl_keeps (fun a b : State => asksOnly a.flags b.flags) (fun _ => asksOnly_refl _) (fun _ _ _ => asksOnly_trans) _
    (fun b x => metClear_asksOnly b x.1 x.2) (metSets s mask) _⟩

section
variable (s : State) (mask : BitVec 256)

theorem clearFlags_counts_and_cond :
    (s.clearFlags mask).flags.counts = s.flags.counts ∧ (s.clearFlags mask).flags.cond = s.flags.cond := by
  obtain ⟨edge, _, _, _, he, -⟩ := clearFlags_asksOnly s mask
  rw [he]
  exact ⟨rfl, rfl⟩

theorem clearFlags_flag {n : Nat} (hn : n < 256) :
    (s.clearFlags mask).flag n = (s.flag n && !(mask.getLsbD n && !setOnEdge s n)) := by
  obtain ⟨edge, _, _, _, he, -⟩ := clearFlags_asksOnly s mask
  unfold State.flag
  rw [he]
  simp only [BitVec.getLsbD_and, BitVec.getLsbD_not, foldl_flagBit_getLsbD hn, metSets_any, hn, decide_true, Bool.true_and]
  cases mask.getLsbD n <;> simp

end

/-- Bit `n` of a word of the clear. -/
theorem mask_getLsbD {w n : Nat} (hn : n < 256) (mask : Word32) :
    (mask.setWidth 256 <<< (32 * w)).getLsbD n = (decide (n / 32 = w) && mask.getLsbD (n % 32)) := by
  simp only [BitVec.getLsbD_shiftLeft, BitVec.getLsbD_setWidth, hn, decide_true, Bool.true_and]
  by_cases below : n < 32 * w
  · have other : n / 32 ≠ w := by omega
    simp [below, other]
  · by_cases same : n / 32 = w
    · have rest : n - 32 * w = n % 32 := by omega
      have inside : n % 32 < 256 := by omega
      simp only [below, decide_false, Bool.not_false, rest, inside, decide_true, Bool.true_and, same]
    · have beyond : mask.getLsbD (n - 32 * w) = false := BitVec.getLsbD_of_ge _ _ (by omega)
      simp [beyond, same]

/-! ## The sets on the edge of a clear -/

/-- What `State.setMeets` does for bit `b` of its word. -/
def setMeet (w : Nat) (mask meets : Word32) (s : State) (b : Nat) : State :=
  if meets.getLsbD b && eventFlags.contains (32 * w + b) then s.setFlagMet (32 * w + b) (mask.getLsbD b) s.now else s

theorem setMeets_eq_foldl (s : State) (w : Nat) (mask meets : Word32) :
    s.setMeets w mask meets = (List.range 32).foldl (setMeet w mask meets) s := rfl

/-- An event flag that one of the first `k` bits of the word names. -/
def metBelow (w : Nat) (meets : Word32) (k n : Nat) : Bool :=
  decide (n / 32 = w) && decide (n % 32 < k) && meets.getLsbD (n % 32) && eventFlags.contains n

/-- The register after the first `k` bits of the word: each flag named is set and counted once. -/
structure MetSets (w : Nat) (meets : Word32) (k : Nat) (s t : State) : Prop where
  phase : t.phase = .released
  cond : t.flags.cond = s.flags.cond
  size : t.flags.counts.length = 256
  flag : ∀ n, n < 256 → t.flag n = (s.flag n || metBelow w meets k n)
  count : ∀ n, n < 256 → t.flags.counts.getD n 0 = s.flags.counts.getD n 0 + if metBelow w meets k n = true then 1 else 0

theorem modAt_length {α : Type} (i : Nat) (f : α → α) (l : List α) : (modAt i f l).length = l.length := by
  induction l generalizing i with
  | nil => simp [modAt]
  | cons a l ih =>
    cases i with
    | zero => rfl
    | succ i => simp [modAt, ih]

theorem modAt_getD_of_ne {α : Type} (f : α → α) (l : List α) {i j : Nat} (h : i ≠ j) (a : α) :
    (modAt j f l).getD i a = l.getD i a := by
  rw [List.getD_eq_getElem?_getD, List.getD_eq_getElem?_getD, modAt_getElem?_of_ne f l h]

/-- Of the bits below `k + 1` the last names the flag `32 w + k` alone. -/
theorem metBelow_succ {w k n : Nat} (hk : k < 32) (meets : Word32) : metBelow w meets (k + 1) n =
    (metBelow w meets k n || (decide (n = 32 * w + k) && (meets.getLsbD k && eventFlags.contains (32 * w + k)))) := by
  unfold metBelow
  by_cases named : n = 32 * w + k
  · subst named
    have word : (32 * w + k) / 32 = w := by omega
    have place : (32 * w + k) % 32 = k := by omega
    simp [word, place]
  · have same (hw : n / 32 = w) : n % 32 < k + 1 ↔ n % 32 < k := by omega
    by_cases hw : n / 32 = w
    · simp [named, hw, same hw]
    · simp [named, hw]

theorem setMeet_metSets {w k : Nat} (hw : w < 8) (hk : k < 32) (mask meets : Word32) {s t : State} (h : MetSets w meets k s t) :
    MetSets w meets (k + 1) s (setMeet w mask meets t k) := by
  have inside : 32 * w + k < 256 := by omega
  by_cases named : (meets.getLsbD k && eventFlags.contains (32 * w + k)) = true
  · rw [setMeet, if_pos named]
    have fresh : metBelow w meets k (32 * w + k) = false := by simp [metBelow, Nat.mod_eq_of_lt hk]
    refine ⟨(reportsOnly_phase (setFlagMet_reportsOnly ..)).trans h.phase, (setFlagMet_cond ..).trans h.cond, ?_, fun n hn => ?_,
      fun n hn => ?_⟩
    · rw [setFlagMet_counts h.phase, modAt_length, h.size]
    · rw [setFlagMet_flag_eq h.phase, h.flag n hn, metBelow_succ hk, named, Bool.and_true, flagBit_getLsbD hn, Bool.or_assoc]
      simp only [eq_comm]
    · rw [setFlagMet_counts h.phase, metBelow_succ hk, named, Bool.and_true]
      by_cases same : n = 32 * w + k
      · subst same
        rw [modAt_getD_self _ (h.size ▸ inside), h.count _ hn, fresh]
        simp
      · rw [modAt_getD_of_ne _ _ same, h.count n hn]
        simp [same]
  · rw [setMeet, if_neg named]
    have none_ : (meets.getLsbD k && eventFlags.contains (32 * w + k)) = false := Bool.eq_false_iff.mpr named
    exact ⟨h.phase, h.cond, h.size, fun n hn => by rw [h.flag n hn, metBelow_succ hk, none_, Bool.and_false, Bool.or_false],
      fun n hn => by rw [h.count n hn, metBelow_succ hk, none_, Bool.and_false, Bool.or_false]⟩

theorem setMeets_metSets {w : Nat} (hw : w < 8) (mask meets : Word32) {s : State} (hp : s.phase = .released)
    (size : s.flags.counts.length = 256) : MetSets w meets 32 s (s.setMeets w mask meets) := by
  have below (k : Nat) (hk : k ≤ 32) : MetSets w meets k s ((List.range k).foldl (setMeet w mask meets) s) := by
    induction k with
    | zero => exact ⟨hp, rfl, size, fun n _ => by simp [metBelow], fun n _ => by simp [metBelow]⟩
    | succ k ih =>
      rw [List.range_succ, List.foldl_append]
      exact setMeet_metSets hw (by omega) mask meets (ih (by omega))
  exact below 32 le_rfl

/-- The whole word: every place is below 32. -/
theorem metBelow_word (w : Nat) (meets : Word32) (n : Nat) :
    metBelow w meets 32 n = (decide (n / 32 = w) && meets.getLsbD (n % 32) && eventFlags.contains n) := by
  simp [metBelow, Nat.mod_lt n (show 32 > 0 by decide)]

section
variable {s u : State} {t : Nat}

theorem busPage_of_answering (ha : u.busAnswers = true) (hs : u.bus.short = false) (f : State → State) : u.busPage f = f u :=
  if_pos (by rw [ha, hs]; rfl)

end

/-- Settles O15: the clear first, then the sets of its edge one bit after the other. -/
theorem flagClear : Obligations.FlagClear := by
  intro s t w mask meets answers long hw hp size u kept
  have clears := clearFlags_counts_and_cond u (mask.setWidth 256 <<< (32 * w))
  have sets := setMeets_metSets hw mask meets ((reportsOnly_phase (clearFlags_reportsOnly u (mask.setWidth 256 <<< (32 * w)))).trans hp)
    (by rw [clears.1]; exact size)
  refine completes_of_doneBus (u := (u.clearFlags (mask.setWidth 256 <<< (32 * w))).setMeets w mask meets) ?_
    ⟨sets.cond.trans clears.2, fun n hn => ?_, fun n hn => ?_⟩
  · exact congrArg (doneBus s) ((busPage_of_answering answers long _).trans (if_pos hw))
  · refine (sets.flag n hn).trans ?_
    rw [clearFlags_flag u _ hn, mask_getLsbD hn, metBelow_word]
    rfl
  · refine (sets.count n hn).trans ?_
    rw [clears.1, metBelow_word]
    simp only [Bool.and_eq_true, decide_eq_true_eq, and_assoc]

/-! ## Single registers -/

/-- An answering device is awake already. -/
theorem busDeaf_of_answering {u : State} (ha : u.busAnswers = true) : u.busDeaf = u := by
  obtain ⟨⟨notPorst, notWarm⟩, awake⟩ : (u.phase ≠ .porst ∧ u.phase ≠ .warm) ∧ (u.clk.mgmtStopped = false ∨ u.clk.wakeReq = true) := by
    simpa [State.busAnswers] using ha
  unfold State.busDeaf State.wake
  rw [if_neg (not_or.mpr ⟨notPorst, notWarm⟩)]
  split
  next stopped =>
    have woken : u.clk.wakeReq = true := awake.resolve_left (by rw [stopped]; exact Bool.noConfusion)
    rw [← woken]
  next => rfl

theorem busPage_of_short {u : State} (ha : u.busAnswers = true) (hs : u.bus.short = true) (f : State → State) : u.busPage f = u :=
  (if_neg (by rw [ha, hs]; exact Bool.false_ne_true)).trans (busDeaf_of_answering ha)

theorem warmReset_of_released {u : State} (h : u.phase = .released) (cause : ResetCause) :
    u.warmReset cause = { u.deviceReset true cause with resetPin := true } := if_pos h

theorem busSingles : Rules.BusSingles := by
  refine ⟨fun s t w m v mask meets c answers short hc => ?_, fun s t answers long => ?_⟩
  · have page (f : State → State) : s.framed ((s.busAt t).busPage f) = s.framed (s.busAt t) :=
      congrArg s.framed (busPage_of_short answers short f)
    obtain rfl | rfl | rfl | rfl := hc
    · exact completes_of_doneBus rfl (page _)
    · exact completes_of_doneBus rfl (page _)
    · exact completes_of_doneBus rfl (page _)
    · exact completes_of_doneBus rfl (page _)
  · have page (f : State → State) : doneBus s ((s.busAt t).busPage f) = doneBus s (f (s.busAt t)) :=
      congrArg (doneBus s) (busPage_of_answering answers long f)
    refine ⟨fun m => completes_of_doneBus (page _) ⟨rfl, rfl, rfl⟩, completes_of_doneBus (page _) rfl, fun released => ?_, fun v hv => ?_⟩
    · refine completes_of_doneBus (page _) ?_
      rw [if_pos rfl, warmReset_of_released released]
      exact ⟨rfl, rfl, rfl, rfl, rfl, rfl, rfl⟩
    · refine completes_of_doneBus (page _) ?_
      rw [if_neg hv]

/-! ## The attention request -/

/-- A pulse that meets a START is due again, with ATTN_COLLIDE (R399). -/
theorem attnPulse_collide {u : State} (hp : u.phase = .released) : (u.attnPulse true).flag fAttnCollide = true ∧
    (u.attnPulse true).flags.pulseDue = true ∧ (u.attnPulse true).flags.pulses = u.flags.pulses := by
  obtain ⟨pulses, due⟩ := setFlagMet_pulses (s := { u with flags := { u.flags with pulseDue := true } }) hp fAttnCollide false u.now
  exact ⟨setFlag_flag (n := fAttnCollide) (by decide) hp, due rfl, pulses⟩

theorem phase_of_attnOn {u : State} (h : u.attnOn = true) : u.phase = .released := by
  unfold State.attnOn at h
  exact of_decide_eq_true (Bool.and_eq_true_iff.mp h).2

section
variable {s : State} {t : Nat} (collide : Bool)

theorem execAttention_of_due (h : ((s.busAt t).attnOn && (s.busAt t).flags.pulseDue) = true) :
    execAttention t collide s = doneBus s ((s.busAt t).attnPulse collide) := congrArg (doneBus s) (if_pos h)
theorem execAttention_of_idle (h : ((s.busAt t).attnOn && (s.busAt t).flags.pulseDue) = false) :
    execAttention t collide s = doneBus s (s.busAt t) :=
  congrArg (doneBus s) (if_neg (by rw [h]; exact Bool.false_ne_true))
theorem execAttnRepeat_of_due (h : ((s.busAt t).attnOn && decide ((s.busAt t).flags.attnRepeat ≠ 0)) = true) :
    execAttnRepeat t collide s = doneBus s ((s.busAt t).attnPulse collide) := congrArg (doneBus s) (if_pos h)
theorem execAttnRepeat_of_idle (h : ((s.busAt t).attnOn && decide ((s.busAt t).flags.attnRepeat ≠ 0)) = false) :
    execAttnRepeat t collide s = doneBus s (s.busAt t) :=
  congrArg (doneBus s) (if_neg (by rw [h]; exact Bool.false_ne_true))

end

theorem attentionPulse : Rules.AttentionPulse := by
  intro s t u
  refine ⟨fun on due => ?_, fun on again => ?_, fun notDue b => ?_, fun once b => ?_, fun off b => ⟨?_, ?_⟩⟩
  · have asked : (u.attnOn && u.flags.pulseDue) = true := by rw [on, due]; rfl
    exact ⟨completes_of_doneBus (execAttention_of_due false asked) rfl,
      completes_of_doneBus (execAttention_of_due true asked) (attnPulse_collide (phase_of_attnOn on))⟩
  · have asked : (u.attnOn && decide (u.flags.attnRepeat ≠ 0)) = true := by rw [on, decide_eq_true again]; rfl
    exact ⟨completes_of_doneBus (execAttnRepeat_of_due false asked) rfl,
      completes_of_doneBus (execAttnRepeat_of_due true asked) (attnPulse_collide (phase_of_attnOn on))⟩
  · exact completes_of_doneBus (execAttention_of_idle b (show (u.attnOn && u.flags.pulseDue) = false by rw [notDue, Bool.and_false])) rfl
  · exact completes_of_doneBus (execAttnRepeat_of_idle b
      (show (u.attnOn && decide (u.flags.attnRepeat ≠ 0)) = false by rw [once]; exact Bool.and_false _)) rfl
  · exact completes_of_doneBus (execAttention_of_idle b (show (u.attnOn && u.flags.pulseDue) = false by rw [off]; rfl)) rfl
  · exact completes_of_doneBus (execAttnRepeat_of_idle b
      (show (u.attnOn && decide (u.flags.attnRepeat ≠ 0)) = false by rw [off]; rfl)) rfl

/-- Settles O16: each register by the page that it stands on, the attention request by whether a pulse is asked for. -/
theorem busRequests : Obligations.BusRequests := ⟨busSingles, attentionPulse⟩

end Sys2Proof.Proofs
end

section
/-! PROOF. The clocks (R10, R18 to R36): the reference qualifies and is lost, the re-lock slew, root lock and unlock, REF_WAIT and the lock
indications, the wakes of the management clock, and what a management tick does as a whole. -/
namespace Sys2Proof.Proofs
open Sys2Proof Sys2Proof.Machine Sys2Proof.Laws

/-! ## The clock and the conditions under a report -/

/-- A report wakes the management clock at most. -/
theorem reportsOnly_clk {s t : State} (h : s.reportsOnly t) : t.clk = { s.clk with wakeReq := t.clk.wakeReq } :=
  (congrArg State.clk h).trans rfl

theorem slateAt_cond (s : State) (code : Nat) (object : Id) (time qual : Nat) (p : List Byte) (m : Nat) :
    (s.slateAt code object time qual p).cond m = s.cond m := by
  unfold State.cond
  rw [slateAt_flags]

theorem slateDet_cond (s : State) (code : Nat) (object : Id) (p : List Byte) (m : Nat) :
    (s.slateDet code object p).cond m = s.cond m := slateAt_cond ..

/-- The condition of one flag begun, and the level of another one kept. -/
theorem setCond_cond_keeps {n m : Nat} (h : m ≠ n) {s : State} {level : Bool} (hm : s.cond m = level) (next : Bool) :
    (s.setCond n next).cond m = level := (setCond_cond_of_ne h s next).trans hm

/-- A condition that ends changes nothing else. -/
theorem setCond_false_eq (s : State) (n : Nat) :
    s.setCond n false = { s with flags := { s.flags with cond := (s.setCond n false).flags.cond } } := by
  rw [setCond_eq]
  split
  · rfl
  · rfl

/-! ## The reference qualifies -/

theorem execRefQualified_of_good {s : State} {t cycles : Nat} (phase : Int) (hc : 65536 ≤ cycles)
    (hq : (s.advance t).clk.refQual = false) (hp : (s.advance t).phase ≠ .porst) (hw : (s.advance t).phase ≠ .warm) :
    execRefQualified t cycles phase s = done s (({ s.advance t with clk := { (s.advance t).clk with
      refQual := true, injecting := !(s.advance t).clk.holdover, relocking := (s.advance t).clk.holdover,
      slewLeft := if (s.advance t).clk.holdover then slewOf (refFactor (s.advance t).straps.refSel) phase else 0,
      slewPpm := 0 } } : State).setCond fRefLost false) := if_pos ⟨hc, hq, hp, hw⟩

theorem refQualified : Rules.RefQualified := by
  intro s t cycles phase hs hc u hq hp hw
  refine completes_of_done hs (execRefQualified_of_good phase hc hq hp hw) ?_
  have ended := setCond_cond (n := fRefLost) (by decide) ({ u with clk := { u.clk with
      refQual := true, injecting := !u.clk.holdover, relocking := u.clk.holdover,
      slewLeft := if u.clk.holdover then slewOf (refFactor u.straps.refSel) phase else 0, slewPpm := 0 } } : State) false
  have only := setCond_false_eq ({ u with clk := { u.clk with
      refQual := true, injecting := !u.clk.holdover, relocking := u.clk.holdover,
      slewLeft := if u.clk.holdover then slewOf (refFactor u.straps.refSel) phase else 0, slewPpm := 0 } } : State) fRefLost
  generalize State.setCond _ fRefLost false = r at ended only
  rw [only]
  rw [only] at ended
  exact ⟨rfl, rfl, rfl, ended, rfl⟩

/-! ## The re-lock slew -/

/-- The shorter way round: at most half a period either way, and whole periods off the difference measured (R27). -/
theorem slewOf_spec {factor : Nat} (h : 0 < factor) (ps : Int) : 2 * (slewOf factor ps).natAbs ≤ factor * 3125000 ∧
    ∃ n : Int, ps * 3072 = slewOf factor ps + n * (factor * 3125000 : Nat) := by
  have period : (0 : Int) < (factor : Int) * 3125000 := by omega
  have low := Int.emod_nonneg (ps * 3072) period.ne'
  have high := Int.emod_lt_of_pos (ps * 3072) period
  have whole := Int.emod_add_mul_ediv (ps * 3072) (factor * 3125000)
  unfold slewOf
  dsimp only
  push_cast
  split
  · exact ⟨by omega, ps * 3072 / (factor * 3125000), by linarith [mul_comm ((factor : Int) * 3125000) (ps * 3072 / (factor * 3125000))]⟩
  · exact ⟨by omega, ps * 3072 / (factor * 3125000) + 1,
      by linarith [mul_comm ((factor : Int) * 3125000) (ps * 3072 / (factor * 3125000))]⟩

/-- The offset moves by at most 1 ppm and stays within its limit. -/
theorem slewNext_spec {limit n : Nat} (left : Nat) (hn : n ≤ limit) (hl : 1 ≤ limit) :
    slewNext limit n left ≤ limit ∧ slewNext limit n left ≤ n + 1 ∧ n ≤ slewNext limit n left + 1 := by
  unfold slewNext
  split
  · omega
  split
  · omega
  · omega

theorem tickSlew_of_relocking {s : State} (h : s.clk.relocking = true) :
    s.tickSlew.clk.slewLeft.natAbs = s.clk.slewLeft.natAbs - s.tickSlew.clk.slewPpm * slewUnit := by
  unfold State.tickSlew
  rw [if_pos h]
  dsimp only
  split <;> omega

theorem relockSlew : Rules.RelockSlew :=
  ⟨fun _ ps h => slewOf_spec h ps, fun _ _ left hn hl => slewNext_spec left hn hl, fun _ h =>
    ⟨(tickSlew_of_relocking h).le.trans (Nat.sub_le ..), tickSlew_of_relocking h⟩⟩

/-! ## Holdover -/

/-- The clock frozen in holdover, and the mark on the samples from `k` on. -/
def frozen (s : State) (ctl : BitVec 20) (tj : Int) (d0 k : Nat) : State := { s with
  clk := { s.clk with
    ctlVal := ctl, ctlEntry := ctl, injecting := false, locked := false, holdover := true, relocking := false, slewLeft := 0,
    slewPpm := 0, d0 := d0, d := d0, tjEntry := tj, holdTick := s.tick },
  devMarks := s.devMarks ++ [⟨k, none, qHoldover⟩] }

theorem frozen_cond (s : State) (ctl : BitVec 20) (tj : Int) (d0 k m : Nat) : (frozen s ctl tj d0 k).cond m = s.cond m := by
  unfold State.cond frozen
  rfl

theorem enterHoldover_eq (s : State) (ctl : BitVec 20) (tj : Int) (d0 k : Nat) :
    s.enterHoldover ctl tj d0 k = (frozen s ctl tj d0 k).setCond fHoldover true := rfl

/-- Holdover is entered: the clock frozen, the condition begun, the samples marked from `k` on (R25, R26). -/
structure HoldoverEntered (s : State) (ctl : BitVec 20) (d0 k : Nat) (r : State) : Prop where
  clk : ∃ tj wake, r.clk = { s.clk with
    ctlVal := ctl, ctlEntry := ctl, injecting := false, locked := false, holdover := true, relocking := false, slewLeft := 0,
    slewPpm := 0, d0 := d0, d := d0, tjEntry := tj, holdTick := s.tick, wakeReq := wake }
  held : r.cond fHoldover = true
  others : ∀ m level, m ≠ fHoldover → s.cond m = level → r.cond m = level
  marks : r.devMarks = s.devMarks ++ [⟨k, none, qHoldover⟩]
  now : r.now = s.now
  phase : r.phase = s.phase
  tb : r.tb = s.tb
  health : r.health = s.health

theorem enterHoldover_entered (s : State) (ctl : BitVec 20) (tj : Int) (d0 k : Nat) :
    HoldoverEntered s ctl d0 k (s.enterHoldover ctl tj d0 k) := by
  rw [enterHoldover_eq]
  have report := setCond_reportsOnly (frozen s ctl tj d0 k) fHoldover true
  have held := setCond_cond (n := fHoldover) (by decide) (frozen s ctl tj d0 k) true
  have others (m : Nat) (level : Bool) (hm : m ≠ fHoldover) (h : s.cond m = level) :
      ((frozen s ctl tj d0 k).setCond fHoldover true).cond m = level :=
    setCond_cond_keeps hm ((frozen_cond ..).trans h) true
  generalize (frozen s ctl tj d0 k).setCond fHoldover true = r at *
  exact {
    clk := ⟨tj, _, (reportsOnly_clk report).trans rfl⟩
    held := held
    others := others
    marks := (reportsOnly_devMarks report).trans rfl
    now := (reportsOnly_now report).trans rfl
    phase := (reportsOnly_phase report).trans rfl
    tb := (reportsOnly_tb report).trans rfl
    health := (reportsOnly_health report).trans rfl }

/-! ## The reference is lost -/

/-- The reference noted as lost, with REF_LOST's condition and its slate. -/
def lossNoted (s : State) : State :=
  ((({ s with clk := { s.clk with refQual := false } } : State).setCond fRefLost true).slateDet 0x0100 s.devId [])

theorem lossNoted_reportsOnly (s : State) : ({ s with clk := { s.clk with refQual := false } } : State).reportsOnly (lossNoted s) :=
  reportsOnly_trans (setCond_reportsOnly ..) (slateDet_reportsOnly ..)

theorem lossNoted_cond (s : State) : (lossNoted s).cond fRefLost = true :=
  (slateDet_cond ..).trans (setCond_cond (n := fRefLost) (by decide) _ true)

theorem lossNoted_clk (s : State) : ∃ wake, (lossNoted s).clk = { s.clk with refQual := false, wakeReq := wake } :=
  ⟨_, reportsOnly_clk (lossNoted_reportsOnly s)⟩

theorem refLost_eq (s : State) (ctl : BitVec 20) : s.refLost ctl =
    if (lossNoted s).clk.holdover then { lossNoted s with clk := { (lossNoted s).clk with relocking := false, slewLeft := 0, slewPpm := 0 } }
    else if (lossNoted s).phase = .released then
      (lossNoted s).enterHoldover ctl (lossNoted s).health.tjMax 16 (lossNoted s).nextSample
    else { lossNoted s with clk := { (lossNoted s).clk with injecting := false } } := rfl

/-- The three forms of the loss (R24, R25, R27): a slew abandoned, holdover entered, or injection stopped before outputs are released. -/
theorem refLost_spec (u : State) (ctl : BitVec 20) :
    let r := u.refLost ctl
    r.clk.refQual = false ∧ r.cond fRefLost = true ∧
    (u.clk.holdover = false → u.phase = .released →
      r.clk.holdover = true ∧ r.clk.ctlVal = ctl ∧ r.clk.injecting = false ∧ r.clk.locked = false ∧ r.clk.d = 16 ∧
      r.cond fHoldover = true ∧ r.devMarks = u.devMarks ++ [⟨u.now / 1024 + 1, none, qHoldover⟩]) ∧
    (u.clk.holdover = true → r.clk.relocking = false ∧ r.clk.holdover = true) := by
  have lost := lossNoted_cond u
  have noted := lossNoted_reportsOnly u
  obtain ⟨wake, clk⟩ := lossNoted_clk u
  have now : (lossNoted u).now = u.now := (reportsOnly_now noted :)
  have phase : (lossNoted u).phase = u.phase := (reportsOnly_phase noted :)
  have marks : (lossNoted u).devMarks = u.devMarks := (reportsOnly_devMarks noted :)
  rw [refLost_eq]
  generalize lossNoted u = v at *
  rw [show v.clk.holdover = u.clk.holdover by rw [clk], phase]
  cases holding : u.clk.holdover with
  | true =>
    rw [if_pos rfl]
    exact ⟨by rw [clk], lost, fun h => absurd h.symm Bool.false_ne_true, fun _ => ⟨rfl, by rw [clk]; exact holding⟩⟩
  | false =>
    rw [if_neg Bool.false_ne_true]
    by_cases released : u.phase = .released
    · rw [if_pos released]
      have entered := enterHoldover_entered v ctl v.health.tjMax 16 v.nextSample
      generalize v.enterHoldover ctl v.health.tjMax 16 v.nextSample = r at *
      obtain ⟨tj, _, frozen⟩ := entered.clk
      refine ⟨by rw [frozen, clk], entered.others fRefLost true (by decide) lost, fun _ _ => ?_, fun h => nomatch h⟩
      rw [frozen]
      exact ⟨rfl, rfl, rfl, rfl, rfl, entered.held, by rw [entered.marks, marks, State.nextSample, now]; rfl⟩
    · rw [if_neg released]
      exact ⟨by rw [clk], lost, fun _ h => absurd h released, fun h => nomatch h⟩

section
variable {s : State} {t : Nat} {ctl : BitVec 20}

theorem execRefLoss_of_qualified {missing period : Nat} (hq : (s.advance t).clk.refQual = true)
    (h : 4 ≤ missing ∨ (0 < period ∧ period * 100 < refFactor (s.advance t).straps.refSel * 80)) :
    execRefLoss t missing period ctl s = done s ((s.advance t).refLost ctl) := by
  refine if_pos ?_
  rw [hq, Bool.true_and, Bool.or_eq_true, decide_eq_true_eq, decide_eq_true_eq]
  exact h

theorem execRefFreqWindowEnd_of_qualified {avg : Int} (hq : (s.advance t).clk.refQual = true) (h : 20000 < avg.natAbs) :
    execRefFreqWindowEnd t avg ctl s = done s ((s.advance t).refLost ctl) :=
  if_pos (by rw [hq, decide_eq_true h]; rfl)

end

theorem refLost : Rules.RefLost := by
  intro s t ctl hs hq u lost
  have falls : lost (s.framed (u.refLost ctl)) := refLost_spec u ctl
  exact ⟨fun missing period h => completes_of_done hs (execRefLoss_of_qualified hq h) falls,
    fun avg h => completes_of_done hs (execRefFreqWindowEnd_of_qualified hq h) falls⟩

/-- Settles O17: the reference's gain, the slew's arithmetic, and the reference's loss in its three forms. -/
theorem referenceStates : Obligations.ReferenceStates := ⟨refQualified, relockSlew, refLost⟩

/-! ## The carriers under DRIFT -/

/-- `t` differs from `s` at most in the carriers and the composer's pins. -/
def carriersOnly (s t : State) : Prop := t = { s with fcar := t.fcar, dcar := t.dcar, tx := t.tx }

theorem carriersOnly_refl (s : State) : carriersOnly s s := rfl
theorem carriersOnly_trans {a b c : State} (h : carriersOnly a b) (k : carriersOnly b c) : carriersOnly a c := by
  unfold carriersOnly at *; rw [k, h]

theorem modAir_carriersOnly (s : State) (d : Bool) (c : Nat) (f : AirRun → AirRun) : carriersOnly s (s.modAir d c f) := by
  cases d <;> rfl

theorem setStart_carriersOnly (s : State) (d : Bool) (c t : Nat) (exact_ : Bool) : carriersOnly s (s.setStart d c t exact_) := by
  unfold State.setStart
  dsimp only
  split
  · exact carriersOnly_trans (modAir_carriersOnly ..) rfl
  · exact modAir_carriersOnly ..

/-- The end of DRIFT reaches the carriers and the composer's pins alone (R266). -/
theorem driftEnds_carriersOnly (s : State) : carriersOnly s s.driftEnds := by
  refine foldl_keeps carriersOnly carriersOnly_refl (fun _ _ _ => carriersOnly_trans) _ (fun b x => ?_) allCars s
  dsimp only
  split
  · exact setStart_carriersOnly ..
  · exact modAir_carriersOnly ..

/-! ## Holdover ends -/

/-- The clock, the conditions, the phase, the time and the Timebase are the same in `t` as in `s`. -/
structure SameRoot (s t : State) : Prop where
  clk : t.clk = s.clk
  flags : t.flags = s.flags
  phase : t.phase = s.phase
  now : t.now = s.now
  tb : t.tb = s.tb

theorem SameRoot.of_carriersOnly {s t : State} (h : carriersOnly s t) : SameRoot s t := by
  unfold carriersOnly at h
  rw [h]
  exact ⟨rfl, rfl, rfl, rfl, rfl⟩

/-- The clock out of holdover, its marks ended with the next sample. -/
def heldOver (s : State) : State := { s with
  clk := { s.clk with holdover := false, relocking := false, slewLeft := 0, slewPpm := 0 },
  devMarks := endMarks qDrift s.nextSample (endMarks qHoldover s.nextSample s.devMarks) }

/-- Holdover has ended: the clock, and both of its conditions (R27). -/
structure HoldoverLeft (s r : State) : Prop where
  clk : ∃ wake, r.clk = { s.clk with holdover := false, relocking := false, slewLeft := 0, slewPpm := 0, wakeReq := wake }
  hold : r.cond fHoldover = false
  drift : r.cond fDriftHigh = false
  others : ∀ m level, m ≠ fHoldover → m ≠ fDriftHigh → s.cond m = level → r.cond m = level
  phase : r.phase = s.phase
  now : r.now = s.now
  tb : r.tb = s.tb

theorem heldOver_cond (s : State) (m : Nat) : (heldOver s).cond m = s.cond m := by
  unfold State.cond heldOver
  rfl

/-- The two conditions of holdover ended. -/
def calm (s : State) : State := (s.setCond fHoldover false).setCond fDriftHigh false

theorem calm_reportsOnly (s : State) : s.reportsOnly (calm s) := reportsOnly_trans (setCond_reportsOnly ..) (setCond_reportsOnly ..)
theorem calm_hold (s : State) : (calm s).cond fHoldover = false :=
  setCond_cond_keeps (by decide) (setCond_cond (by decide) s false) false
theorem calm_drift (s : State) : (calm s).cond fDriftHigh = false := setCond_cond (by decide) _ false
theorem calm_others {s : State} {m : Nat} {level : Bool} (h : m ≠ fHoldover) (h' : m ≠ fDriftHigh) (hm : s.cond m = level) :
    (calm s).cond m = level := setCond_cond_keeps h' (setCond_cond_keeps h hm false) false

theorem leaveHoldover_eq (s : State) : ∃ code object payload,
    s.leaveHoldover = ((calm (heldOver s)).slateDet code object payload).driftEnds := ⟨_, _, _, rfl⟩

theorem leaveHoldover_left (s : State) : HoldoverLeft s s.leaveHoldover := by
  obtain ⟨code, object, payload, he⟩ := leaveHoldover_eq s
  have report := reportsOnly_trans (calm_reportsOnly (heldOver s)) (slateDet_reportsOnly _ code object payload)
  have conds := slateDet_cond (calm (heldOver s)) code object payload
  have root := SameRoot.of_carriersOnly (driftEnds_carriersOnly ((calm (heldOver s)).slateDet code object payload))
  rw [← he] at root
  generalize (calm (heldOver s)).slateDet code object payload = v at *
  have cond (m : Nat) : s.leaveHoldover.cond m = (calm (heldOver s)).cond m := by
    rw [← conds]
    unfold State.cond
    rw [root.flags]
  exact {
    clk := ⟨v.clk.wakeReq, root.clk.trans ((reportsOnly_clk report).trans rfl)⟩
    hold := (cond _).trans (calm_hold _)
    drift := (cond _).trans (calm_drift _)
    others := fun m level h h' hm => (cond m).trans (calm_others h h' ((heldOver_cond s m).trans hm))
    phase := root.phase.trans ((reportsOnly_phase report).trans rfl)
    now := root.now.trans ((reportsOnly_now report).trans rfl)
    tb := root.tb.trans ((reportsOnly_tb report).trans rfl) }

/-! ## Root lock -/

theorem startPlain_clk (s : State) : s.startPlain.clk = { s.clk with divReset := true } := rfl
theorem startPlain_divReset (s : State) : s.startPlain.clk.divReset = true := rfl
theorem startPlain_total (s : State) : s.startPlain.tb.total = 0 := by
  unfold Tb.total State.startPlain
  simp

/-- A measurement notes the two indications, and may end LOCK_DISAGREE's condition. -/
theorem lockInd_spec (s : State) (m : LockMeas) : ∃ win lkf, (s.lockInd m).clk = { s.clk with winLock := win, lkfLock := lkf } ∧
    s.lockInd m = { s with
      clk := { s.clk with winLock := win, lkfLock := lkf }, flags := { s.flags with cond := (s.lockInd m).flags.cond } } := by
  unfold State.lockInd
  extract_lets c win lkf v
  refine ⟨win, lkf, ?_⟩
  split
  · rw [setCond_false_eq v]
    exact ⟨rfl, rfl⟩
  · exact ⟨rfl, rfl⟩

section
variable {s : State} {t : Nat} {m : LockMeas}

theorem execRootLockDeclared_of_hit (hq : (s.advance t).clk.refQual = true) (hl : (s.advance t).clk.locked = false)
    (hi : (s.advance t).clk.injecting = true ∨ ((s.advance t).clk.relocking = true ∧ (s.advance t).slewDone = true))
    (hit : if (s.advance t).straps.lkfUse then m.lkf < 450 else m.maxErr ≤ (s.advance t).rootW ∧ (s.advance t).rootN ≤ m.cycles) :
    ∃ v : State, (∃ win lkf, v.clk = { (s.advance t).clk with winLock := win, lkfLock := lkf, locked := true, injecting := true }) ∧
      v.phase = (s.advance t).phase ∧ v.cond fRootUnlock = false ∧
      execRootLockDeclared t m s = done s
        (let w := if v.clk.divReset then v else if v.phase = .loading then v.startPlain else v
         if w.clk.holdover then w.leaveHoldover else w) := by
  obtain ⟨win, lkf, clk, only⟩ := lockInd_spec (s.advance t) m
  refine ⟨({ (s.advance t).lockInd m with clk := { ((s.advance t).lockInd m).clk with locked := true, injecting := true } } : State).setCond
    fRootUnlock false, ⟨win, lkf, ?_⟩, ?_, setCond_cond (by decide) _ false, if_pos ?_⟩
  · rw [setCond_false_eq, clk]
  · exact (reportsOnly_phase (setCond_reportsOnly ..)).trans (by rw [only])
  · have same : (((s.advance t).lockInd m).straps.lkfUse, ((s.advance t).lockInd m).rootW, ((s.advance t).lockInd m).rootN,
        ((s.advance t).lockInd m).slewDone) = ((s.advance t).straps.lkfUse, (s.advance t).rootW, (s.advance t).rootN, (s.advance t).slewDone) := by
      rw [only]
      rfl
    obtain ⟨use, w, n, slew⟩ : _ ∧ _ ∧ _ ∧ _ := by simpa only [Prod.mk.injEq] using same
    have declared : (if ((s.advance t).lockInd m).straps.lkfUse then lkfLocks m else ((s.advance t).lockInd m).winLocks m) = true := by
      unfold lkfLocks State.winLocks
      rw [use, w, n]
      split
      next using_ => exact decide_eq_true (by simpa [using_] using hit)
      next unused => exact decide_eq_true (by simpa [unused] using hit)
    have slewed : (((s.advance t).lockInd m).clk.injecting || (((s.advance t).lockInd m).clk.relocking && ((s.advance t).lockInd m).slewDone)) =
        true := by
      rw [slew, clk]
      obtain inj | ⟨re, dn⟩ := hi
      · simp [inj]
      · simp [re, dn]
    rw [declared, slewed, clk]
    dsimp only
    rw [hq, hl]
    rfl

end

/-- Lock is declared, whatever begins or ends with it. -/
theorem rootLock : Rules.RootLock := by
  intro s t m hs u hq hl hi hit
  obtain ⟨v, ⟨win, lkf, clk⟩, phase, ended, he⟩ := execRootLockDeclared_of_hit hq hl hi hit
  refine completes_of_done hs he ?_
  have divReset : v.clk.divReset = u.clk.divReset := by rw [clk]
  have holdover : v.clk.holdover = u.clk.holdover := by rw [clk]
  obtain ⟨w, hw⟩ : ∃ w, (if v.clk.divReset then v else if v.phase = .loading then v.startPlain else v) = w := ⟨_, rfl⟩
  have locked : w.clk.locked = true ∧ w.clk.injecting = true ∧ w.clk.holdover = u.clk.holdover ∧ w.cond fRootUnlock = false := by
    rw [← hw]
    split
    · exact ⟨by rw [clk], by rw [clk], holdover, ended⟩
    split
    · rw [startPlain_clk]
      exact ⟨by rw [clk], by rw [clk], holdover, ended⟩
    · exact ⟨by rw [clk], by rw [clk], holdover, ended⟩
  have first : u.clk.divReset = false → u.phase = .loading →
      w.now = 0 ∧ w.phase = .wiping ∧ w.clk.divReset = true ∧ w.tb.total = 0 := by
    intro fresh loading
    rw [if_neg (by rw [divReset, fresh]; exact Bool.false_ne_true), if_pos (phase.trans loading)] at hw
    rw [← hw]
    exact ⟨rfl, rfl, startPlain_divReset v, startPlain_total v⟩
  obtain ⟨isLocked, injects, holds, cleared⟩ := locked
  dsimp only
  rw [hw, holds]
  cases holding : u.clk.holdover with
  | false =>
    rw [if_neg Bool.false_ne_true]
    exact ⟨isLocked, injects, cleared, first, fun _ h => nomatch h⟩
  | true =>
    rw [if_pos rfl]
    obtain ⟨⟨wake, left⟩, hold, drift, others, phase', now', tb'⟩ := leaveHoldover_left w
    generalize w.leaveHoldover = r at *
    refine ⟨by rw [framed_clk, left]; exact isLocked, by rw [framed_clk, left]; exact injects,
      others fRootUnlock false (by decide) (by decide) cleared, fun fresh loading => ?_, fun _ _ => ⟨?_, hold, drift⟩⟩
    · obtain ⟨now, wiping, reset, zero⟩ := first fresh loading
      exact ⟨now'.trans now, phase'.trans wiping, by rw [framed_clk, left]; exact reset, by rw [framed_tb, tb']; exact zero⟩
    · rw [framed_clk, left]

/-! ## Root unlock -/

/-- Root lock noted as lost, with its condition and its slate while the reference is qualified. -/
def unlockNoted (s : State) : State :=
  let v : State := { s with clk := { s.clk with locked := false } }
  if s.clk.refQual then (v.setCond fRootUnlock true).slateDet 0x0102 v.devId [] else v

theorem unlockNoted_reportsOnly (s : State) : ({ s with clk := { s.clk with locked := false } } : State).reportsOnly (unlockNoted s) :=
  (reportsOnly_ite (reportsOnly_trans (setCond_reportsOnly ..) (slateDet_reportsOnly ..))).1

theorem unlockNoted_cond {s : State} (h : s.clk.refQual = true) : (unlockNoted s).cond fRootUnlock = true := by
  unfold unlockNoted
  rw [if_pos h]
  exact (slateDet_cond ..).trans (setCond_cond (n := fRootUnlock) (by decide) _ true)

/-- The state that holdover is entered from or kept in. -/
def unlockHeld (s : State) (ctl : BitVec 20) : State :=
  let v := unlockNoted s
  if v.phase = .released then v.enterHoldover ctl v.health.tjMax 16 v.nextSample else v

theorem execRootUnlock_of_hit {s : State} {t : Nat} {m : LockMeas} {ctl : BitVec 20} (hl : (s.advance t).clk.locked = true)
    (hit : if (s.advance t).straps.lkfUse then 900 < m.lkf else (s.advance t).rootW < m.minErr ∧ 8 ≤ m.cycles) :
    ∃ v : State, v.clk.refQual = (s.advance t).clk.refQual ∧ v.phase = (s.advance t).phase ∧ ∃ left,
      execRootUnlock t m ctl s = done s { unlockHeld v ctl with clk := { (unlockHeld v ctl).clk with
        relocking := v.clk.refQual && (unlockHeld v ctl).clk.holdover, slewLeft := left } } := by
  obtain ⟨win, lkf, clk, only⟩ := lockInd_spec (s.advance t) m
  refine ⟨(s.advance t).lockInd m, by rw [clk], by rw [only], _, if_pos ?_⟩
  have same : (((s.advance t).lockInd m).straps.lkfUse, ((s.advance t).lockInd m).rootW) =
      ((s.advance t).straps.lkfUse, (s.advance t).rootW) := by
    rw [only]
    rfl
  obtain ⟨use, w⟩ : _ ∧ _ := by simpa only [Prod.mk.injEq] using same
  have lost : (if ((s.advance t).lockInd m).straps.lkfUse then lkfLoses m else ((s.advance t).lockInd m).winLoses m) = true := by
    unfold lkfLoses State.winLoses
    rw [use, w]
    split
    next using_ => exact decide_eq_true (by simpa [using_] using hit)
    next unused => exact decide_eq_true (by simpa [unused] using hit)
  rw [lost, clk]
  exact hl

theorem rootUnlock : Rules.RootUnlock := by
  intro s t m ctl hs u hl hit
  obtain ⟨v, qual, phase, left, he⟩ := execRootUnlock_of_hit (ctl := ctl) hl hit
  refine completes_of_done hs he ?_
  rw [← qual, ← phase]
  have noted := unlockNoted_reportsOnly v
  have unlocked : (unlockNoted v).clk.locked = false := by rw [reportsOnly_clk noted]
  have same : (unlockNoted v).phase = v.phase := (reportsOnly_phase noted :)
  have begun := unlockNoted_cond (s := v)
  unfold unlockHeld
  dsimp only
  rw [same]
  generalize unlockNoted v = w at *
  by_cases released : v.phase = .released
  · rw [if_pos released]
    have entered := enterHoldover_entered w ctl w.health.tjMax 16 w.nextSample
    generalize w.enterHoldover ctl w.health.tjMax 16 w.nextSample = r at *
    obtain ⟨tj, _, frozen⟩ := entered.clk
    rw [frozen]
    exact ⟨rfl, fun q => entered.others fRootUnlock true (by decide) (begun q), fun _ => ⟨rfl, rfl, entered.held, Bool.and_true _⟩⟩
  · rw [if_neg released]
    exact ⟨unlocked, begun, fun h => absurd h released⟩

/-- Settles O18: lock by what begins and what ends with it, unlock by the holdover that follows. -/
theorem rootLoop : Obligations.RootLoop := ⟨rootLock, rootUnlock⟩

/-! ## REF_WAIT, the lock indications, the wakes -/

theorem execRefWaitExpiry_of_waiting {s : State} {waited : Nat} {tj : Int} (hp : s.phase = .loading) (hd : s.clk.divReset = false)
    (hq : s.clk.refQual = false) (hw : fget s.clk.profile ckRefWait * 10000000 ≤ waited) : execRefWaitExpiry waited tj s =
      done s (((s.setCond fRefLost true).startPlain).enterHoldover (ctlAt s.ctlTable tj) tj 320 0) := if_pos ⟨hp, hd, hq, hw⟩

theorem refWait {s : State} {waited : Nat} {tj : Int} (hs : s.live) (hp : s.phase = .loading) (hd : s.clk.divReset = false)
    (hq : s.clk.refQual = false) (hw : fget s.clk.profile ckRefWait * 10000000 ≤ waited) :
    completes (.refWaitExpiry waited tj) s (fun r =>
      r.now = 0 ∧ r.phase = .wiping ∧ r.clk.divReset = true ∧ r.clk.holdover = true ∧ r.clk.d = 320 ∧ r.clk.ctlVal = ctlAt s.ctlTable tj ∧
      r.cond fRefLost = true ∧ r.tb.total = 0 ∧ r.health = s.health) := by
  refine completes_of_done hs (execRefWaitExpiry_of_waiting hp hd hq hw) ?_
  have lost := setCond_cond (n := fRefLost) (by decide) s true
  have health := reportsOnly_health (setCond_reportsOnly s fRefLost true)
  generalize s.setCond fRefLost true = v at *
  have entered := enterHoldover_entered v.startPlain (ctlAt s.ctlTable tj) tj 320 0
  generalize v.startPlain.enterHoldover (ctlAt s.ctlTable tj) tj 320 0 = r at *
  obtain ⟨tj', wake, clk⟩ := entered.clk
  exact ⟨entered.now, entered.phase, by rw [framed_clk, clk]; exact startPlain_divReset v, by rw [framed_clk, clk], by rw [framed_clk, clk],
    by rw [framed_clk, clk], entered.others fRefLost true (by decide) lost, by rw [framed_tb, entered.tb]; exact startPlain_total v,
    entered.health.trans health⟩

/-- The indications noted. -/
def indicated (u : State) (lkf win : Bool) : State := { u with clk := { u.clk with lkfLock := lkf, winLock := win } }

theorem execLockDisagree_of_use {s : State} {t : Nat} (h : (s.advance t).straps.lkfUse = true) (lkf win : Bool) :
    execLockDisagree t lkf win s =
      let u := indicated (s.advance t) lkf win
      if lkf = win then done s (u.setCond fLockDisagree false)
      else if u.cond fLockDisagree then done s u
      else done s ((u.setCond fLockDisagree true).addDaily 0x0003 sevWarning u.devId
        (leBytes 1 (bit lkf) ++ leBytes 1 (bit win) ++ zeros 2) u.now) := if_pos h

theorem addDaily_cond (s : State) (code sev : Nat) (object : Id) (data : List Byte) (t m : Nat) :
    (s.addDaily code sev object data t).cond m = s.cond m := by
  unfold State.cond
  rw [(addDaily_sameRegister ..).cond]

/-- A report on a state with the indications keeps them. -/
theorem indications_of_reportsOnly {u t : State} {lkf win : Bool} (h : (indicated u lkf win).reportsOnly t) :
    t.clk.lkfLock = lkf ∧ t.clk.winLock = win := by
  rw [reportsOnly_clk h]
  exact ⟨rfl, rfl⟩

theorem lockDisagree {s : State} {t : Nat} (hs : s.live) (use : (s.advance t).straps.lkfUse = true) (lkf win : Bool) :
    completes (.lockDisagree t lkf win) s (fun r =>
      r.clk.lkfLock = lkf ∧ r.clk.winLock = win ∧ r.cond fLockDisagree = (lkf != win)) := by
  have he := execLockDisagree_of_use use lkf win
  dsimp only at he
  by_cases same : lkf = win
  · rw [if_pos same] at he
    obtain ⟨l, w⟩ := indications_of_reportsOnly (setCond_reportsOnly (indicated (s.advance t) lkf win) fLockDisagree false)
    refine completes_of_done hs he ⟨l, w, (setCond_cond (n := fLockDisagree) (by decide) _ false).trans ?_⟩
    rw [same, bne_self_eq_false]
  rw [if_neg same] at he
  have differ : (lkf != win) = true := bne_iff_ne.mpr same
  rw [differ]
  by_cases known : (indicated (s.advance t) lkf win).cond fLockDisagree = true
  · rw [if_pos known] at he
    exact completes_of_done hs he ⟨rfl, rfl, known⟩
  · rw [if_neg known] at he
    have report := reportsOnly_trans (setCond_reportsOnly (indicated (s.advance t) lkf win) fLockDisagree true)
      (addDaily_reportsOnly _ 0x0003 sevWarning (indicated (s.advance t) lkf win).devId
        (leBytes 1 (bit lkf) ++ leBytes 1 (bit win) ++ zeros 2) (indicated (s.advance t) lkf win).now)
    obtain ⟨l, w⟩ := indications_of_reportsOnly report
    exact completes_of_done hs he ⟨l, w, (addDaily_cond ..).trans (setCond_cond (n := fLockDisagree) (by decide) _ true)⟩

theorem wake_of_stopped {s : State} (h : s.clk.mgmtStopped = true) : s.wake = { s with clk := { s.clk with wakeReq := true } } := if_pos h
theorem wake_of_running {s : State} (h : s.clk.mgmtStopped = false) : s.wake = s := if_neg (by rw [h]; exact Bool.false_ne_true)

theorem wakes : Rules.Wakes := by
  refine ⟨?_, ?_⟩
  · intro s t src hs u
    exact completes_of_done hs rfl ⟨fun stopped => by rw [wake_of_stopped stopped], fun running => by rw [wake_of_running running]⟩
  · intro s hs stopped u still
    exact completes_of_done hs (if_pos stopped) (by rw [wake_of_stopped still])

/-- Settles O19: the free-running start, the two indications, and the wakes. -/
theorem clockEvents : Obligations.ClockEvents :=
  ⟨⟨fun _ _ _ hs hp hd hq hw => refWait hs hp hd hq hw, fun _ _ lkf win hs use => lockDisagree hs use lkf win⟩, wakes⟩

/-! ## The management tick -/

theorem flushSlates_slates (s : State) : s.flushSlates.slates = [] := hostOnly_slates (flushSlates_hostOnly s)

theorem tickStop_slates (s : State) : s.tickStop.slates = s.slates := by
  unfold State.tickStop
  split <;> rfl

/-- At the end of a tick's work every slate has been written (R291). -/
theorem tickWork_slates (s : State) (i : TickIn) : (s.tickWork i).slates = [] :=
  (tickStop_slates _).trans (flushSlates_slates _)

theorem execManagementTick_of_reset {s : State} (h : s.clk.divReset = true) (i : TickIn) : execManagementTick i s =
    done s (if ({ s.advance s.tickAt with atTick := true } : State).tickRuns then
      ({ s.advance s.tickAt with atTick := true } : State).tickWork i else { s.advance s.tickAt with atTick := true }) := by
  unfold execManagementTick
  rw [if_pos h]

theorem tickRuns_iff (s : State) : s.tickRuns = true ↔
    s.phase = .released ∧ s.flags.halted = false ∧ (s.clk.mgmtStopped = false ∨ s.clk.wakeReq = true) := by
  simp [State.tickRuns, and_assoc]

/-- Settles O20: the tick works where `State.tickRuns` holds, and only time passes elsewhere. -/
theorem managementTick : Obligations.ManagementTick := by
  intro s i hs reset u
  have he := execManagementTick_of_reset reset i
  refine ⟨fun released going awake => ?_, fun idle => ?_⟩
  · rw [if_pos ((tickRuns_iff u).mpr ⟨released, going, awake⟩)] at he
    have written := tickWork_slates u i
    dsimp only at he
    generalize u.tickWork i = r at *
    exact completes_of_done hs he ⟨rfl, written⟩
  · rw [if_neg ?_] at he
    · exact completes_of_done hs he rfl
    · intro runs
      obtain ⟨released, going, awake⟩ := (tickRuns_iff u).mp runs
      obtain h | h | ⟨stopped, asleep⟩ := idle
      · exact h released
      · exact Bool.false_ne_true (going.symm.trans h)
      · exact awake.elim (fun h => Bool.false_ne_true (h.symm.trans stopped)) (fun h => Bool.false_ne_true (asleep.symm.trans h))

end Sys2Proof.Proofs
end

section
/-! PROOF. What later sections share: an object's life and run after a change of either, what an answered command may touch, and what
a report leaves of the flags and of their conditions. -/
namespace Sys2Proof.Proofs
open Sys2Proof Sys2Proof.Machine Sys2Proof.Laws

/-! ## Runs and lives in a list of objects -/

section
variable {ρ : Type}

/-- The run of object `i`, or `d` outside the list: what `State.convR` and its like read. -/
def runOf (l : List (Obj ρ)) (i : Nat) (d : ρ) : ρ := ((l[i]?).map Obj.run).getD d

theorem runOf_withRun_self (f : ρ → ρ) {l : List (Obj ρ)} {i : Nat} (h : i < l.length) (d : ρ) :
    runOf (modAt i (Obj.withRun f) l) i d = f (runOf l i d) := by
  unfold runOf
  rw [modAt_getElem?_self, List.getElem?_eq_getElem h]
  rfl

theorem runOf_withRun_of_ne (f : ρ → ρ) (l : List (Obj ρ)) {i j : Nat} (h : j ≠ i) (d : ρ) :
    runOf (modAt i (Obj.withRun f) l) j d = runOf l j d := by
  unfold runOf
  rw [modAt_getElem?_of_ne _ _ h]

theorem run_map_withLife (f : Life → Life) (l : List (Obj ρ)) (i j : Nat) :
    ((modAt i (Obj.withLife f) l)[j]?).map Obj.run = (l[j]?).map Obj.run := by
  by_cases h : j = i
  · subst h
    rw [modAt_getElem?_self, Option.map_map]
    rfl
  · rw [modAt_getElem?_of_ne _ _ h]

theorem life_map_withRun (f : ρ → ρ) (l : List (Obj ρ)) (i j : Nat) :
    ((modAt i (Obj.withRun f) l)[j]?).map Obj.life = (l[j]?).map Obj.life := by
  by_cases h : j = i
  · subst h
    rw [modAt_getElem?_self, Option.map_map]
    rfl
  · rw [modAt_getElem?_of_ne _ _ h]

theorem life_map_withLife_self (f : Life → Life) (l : List (Obj ρ)) (i : Nat) :
    ((modAt i (Obj.withLife f) l)[i]?).map Obj.life = ((l[i]?).map Obj.life).map f := by
  rw [modAt_getElem?_self, Option.map_map, Option.map_map]
  rfl

theorem lt_of_run_ne {l : List (Obj ρ)} {i : Nat} {d : ρ} (h : runOf l i d ≠ d) : i < l.length := by
  by_contra out
  exact h (by rw [runOf, List.getElem?_eq_none (Nat.le_of_not_lt out)]; rfl)

theorem lt_of_life_isSome {l : List (Obj ρ)} {i : Nat} (h : ((l[i]?).map Obj.life).isSome = true) : i < l.length := by
  by_contra out
  rw [List.getElem?_eq_none (Nat.le_of_not_lt out)] at h
  exact absurd h (by simp)

end

/-! ## Lives -/

/-- An object that is not as after reset stands in its list. -/
theorem life?_isSome_of_ne {s : State} {r : Ref} (h : s.life r ≠ Life.closed 0) : (s.life? r).isSome = true := by
  unfold State.life at h
  cases found : s.life? r with
  | none => exact absurd (by rw [found]; rfl) h
  | some l => rfl

theorem life?_isSome_of_cmd {s : State} {r : Ref} (h : (s.life r).cmd ≠ .closed) : (s.life? r).isSome = true :=
  life?_isSome_of_ne (fun same => h (by rw [same]; rfl))

theorem life?_isSome_of_running {s : State} {k : Kind} {i : Nat} (h : s.running k i = true) : (s.life? ⟨k, i⟩).isSome = true :=
  life?_isSome_of_ne (fun same => by rw [State.running, same] at h; exact absurd h (by decide))

theorem modLife_life?_self (s : State) (r : Ref) (f : Life → Life) : (s.modLife r f).life? r = (s.life? r).map f := by
  obtain ⟨k, i⟩ := r
  cases k
  case device => rfl
  case alo => rfl
  case group => rfl
  all_goals exact life_map_withLife_self f _ i

theorem modLife_life_self {s : State} {r : Ref} (h : (s.life? r).isSome = true) (f : Life → Life) :
    (s.modLife r f).life r = f (s.life r) := by
  unfold State.life
  rw [modLife_life?_self]
  obtain ⟨l, hl⟩ := Option.isSome_iff_exists.mp h
  rw [hl]
  rfl

/-! ## Runs -/

section
variable {s : State} {i j : Nat}

theorem modConv_convR_self (h : i < s.conv.length) (f : ConvRun → ConvRun) : (s.modConv i f).convR i = f (s.convR i) :=
  runOf_withRun_self f h _
theorem modConv_convR_of_ne (h : j ≠ i) (f : ConvRun → ConvRun) : (s.modConv i f).convR j = s.convR j :=
  runOf_withRun_of_ne f s.conv h _
theorem modFcar_fcarR_self (h : i < s.fcar.length) (f : FcarRun → FcarRun) : (s.modFcar i f).fcarR i = f (s.fcarR i) :=
  runOf_withRun_self f h _
theorem modFcar_fcarR_of_ne (h : j ≠ i) (f : FcarRun → FcarRun) : (s.modFcar i f).fcarR j = s.fcarR j :=
  runOf_withRun_of_ne f s.fcar h _
theorem modDcar_dcarR_self (h : i < s.dcar.length) (f : DcarRun → DcarRun) : (s.modDcar i f).dcarR i = f (s.dcarR i) :=
  runOf_withRun_self f h _
theorem modDcar_dcarR_of_ne (h : j ≠ i) (f : DcarRun → DcarRun) : (s.modDcar i f).dcarR j = s.dcarR j :=
  runOf_withRun_of_ne f s.dcar h _

end

/-! ## The carriers' part of a run -/

/-- Carrier `c` of a kind stands in its list. -/
def isCarrier (s : State) (d : Bool) (c : Nat) : Prop := if d then c < s.dcar.length else c < s.fcar.length

theorem isCarrier_of_st {s : State} {d : Bool} {c : Nat} (h : (s.air d c).st ≠ .idle) : isCarrier s d c := by
  cases d with
  | false => exact lt_of_run_ne (d := FcarRun.reset) (fun same => h (by rw [State.air, if_neg Bool.false_ne_true]; exact congrArg (fun r : FcarRun => r.air.st) same))
  | true => exact lt_of_run_ne (d := DcarRun.reset) (fun same => h (by rw [State.air, if_pos rfl]; exact congrArg (fun r : DcarRun => r.air.st) same))

theorem modAir_air_self {s : State} {d : Bool} {c : Nat} (h : isCarrier s d c) (f : AirRun → AirRun) :
    (s.modAir d c f).air d c = f (s.air d c) := by
  cases d with
  | false => exact congrArg FcarRun.air (modFcar_fcarR_self h _)
  | true => exact congrArg DcarRun.air (modDcar_dcarR_self h _)

theorem modAir_air_of_ne {s : State} {d e : Bool} {c k : Nat} (h : (e, k) ≠ (d, c)) (f : AirRun → AirRun) :
    (s.modAir d c f).air e k = s.air e k := by
  cases d <;> cases e
  case false.true => rfl
  case true.false => rfl
  case false.false => exact congrArg FcarRun.air (modFcar_fcarR_of_ne (fun same => h (by rw [same])) _)
  case true.true => exact congrArg DcarRun.air (modDcar_dcarR_of_ne (fun same => h (by rw [same])) _)

theorem air_of_carriers {s t : State} (hf : t.fcar = s.fcar) (hd : t.dcar = s.dcar) (d : Bool) (c : Nat) : t.air d c = s.air d c := by
  unfold State.air State.fcarR State.dcarR
  rw [hf, hd]

/-! ## What an answered command may touch -/

theorem answersOnly_refl (s : State) : s.answersOnly s := rfl
theorem answersOnly_trans {a b c : State} (h : a.answersOnly b) (k : b.answersOnly c) : a.answersOnly c := by
  unfold State.answersOnly at *
  rw [k, h]
theorem answersOnly_of_reportsOnly {s t : State} (h : s.reportsOnly t) : s.answersOnly t := by
  unfold State.answersOnly
  rw [h]
theorem answersOnly_of_hostOnly {s t : State} (h : s.hostOnly t) : s.answersOnly t :=
  answersOnly_of_reportsOnly (reportsOnly_of_hostOnly h)

theorem report_answersOnly (s : State) (d : Desc) (cpl : Nat) (entry : Option (Nat × Nat)) (st : Status) (detail : Nat)
    (ret : List Byte) (waited remote : Bool) (time : Word64) :
    s.answersOnly (s.report d cpl entry st detail ret waited remote time) := by
  unfold State.report
  dsimp only
  split
  · exact answersOnly_of_reportsOnly (sbReport_reportsOnly ..)
  split
  · rfl
  · have completed : s.answersOnly ((s.putBuf d (ret.take d.plen.toNat)).completeOn cpl d st detail (ret.take d.plen.toNat).length
        waited remote time) := answersOnly_of_hostOnly (hostOnly_trans (putBuf_hostOnly ..) (completeOn_hostOnly ..))
    split
    · exact answersOnly_trans completed rfl
    · exact completed

/-- A command that waits no longer, its completion no longer owed. -/
def unwaited (s : State) (w : Waiting) : State :=
  ({ s with host := { s.host with waiting := s.host.waiting.erase w } } : State).modRing w.cpl (fun r => { r with owed := r.owed - 1 })

theorem unwaited_hostOnly (s : State) (w : Waiting) : s.hostOnly (unwaited s w) := rfl

theorem endOne_eq (st : Status) (t : Nat) (ret : List Byte) (s : State) (w : Waiting) : State.endOne st t ret s w =
    (unwaited s w).report w.desc w.cpl w.entry st 0 ret w.marked false ((unwaited s w).t64At t) := rfl

theorem endOne_answersOnly (st : Status) (t : Nat) (ret : List Byte) (s : State) (w : Waiting) :
    s.answersOnly (State.endOne st t ret s w) := by
  rw [endOne_eq]
  exact answersOnly_trans (answersOnly_of_hostOnly (unwaited_hostOnly s w)) (report_answersOnly ..)

theorem endWaitData_answersOnly (s : State) (why : WaitFor) (st : Status) (t : Nat) (ret : List Byte) :
    s.answersOnly (s.endWaitData why st t ret) :=
  foldl_keeps State.answersOnly answersOnly_refl (fun _ _ _ => answersOnly_trans) _ (endOne_answersOnly st t ret) _ s

theorem endWait_answersOnly (s : State) (why : WaitFor) (st : Status) (t : Nat) : s.answersOnly (s.endWait why st t) :=
  endWaitData_answersOnly ..

theorem endFirst_answersOnly (s : State) (why : WaitFor) (st : Status) (t : Nat) : s.answersOnly (s.endFirst why st t) := by
  unfold State.endFirst
  split
  · exact endOne_answersOnly ..
  · exact answersOnly_refl s

section
variable {s t : State} (h : s.answersOnly t)
include h

theorem answersOnly_now : t.now = s.now := by rw [h]
theorem answersOnly_conv : t.conv = s.conv := by rw [h]
theorem answersOnly_aloRx : t.aloRx = s.aloRx := by rw [h]
theorem answersOnly_aloTx : t.aloTx = s.aloTx := by rw [h]
theorem answersOnly_fcar : t.fcar = s.fcar := by rw [h]
theorem answersOnly_dcar : t.dcar = s.dcar := by rw [h]
theorem answersOnly_tx : t.tx = s.tx := by rw [h]
theorem answersOnly_cal : t.cal = s.cal := by rw [h]
theorem answersOnly_standin : t.standin = s.standin := by rw [h]

end

/-! ## What becomes of the flags and their conditions -/


/-- A report keeps the flags that are set, and every condition. -/
structure Quiet (s t : State) : Prop where
  flag : ∀ m, s.flag m = true → t.flag m = true
  cond : ∀ m, t.cond m = s.cond m

namespace Quiet

theorem refl (s : State) : Quiet s s := ⟨fun _ h => h, fun _ => rfl⟩
theorem trans {a b c : State} (h : Quiet a b) (k : Quiet b c) : Quiet a c :=
  ⟨fun m hm => k.flag m (h.flag m hm), fun m => (k.cond m).trans (h.cond m)⟩
theorem of_flags {s t : State} (h : t.flags = s.flags) : Quiet s t :=
  ⟨fun m hm => by unfold State.flag at *; rw [h]; exact hm, fun m => by unfold State.cond; rw [h]⟩
theorem of_sameRegister {s t : State} (h : SameRegister s t) : Quiet s t :=
  ⟨fun m hm => by unfold State.flag at *; rw [h.bits]; exact hm, fun m => by unfold State.cond; rw [h.cond]⟩
theorem of_hostOnly {s t : State} (h : s.hostOnly t) : Quiet s t := of_flags (hostOnly_flags h)

end Quiet

theorem addDaily_quiet (s : State) (code sev : Nat) (object : Id) (data : List Byte) (t : Nat) :
    Quiet s (s.addDaily code sev object data t) := .of_sameRegister (addDaily_sameRegister ..)
theorem slateAt_quiet (s : State) (code : Nat) (object : Id) (time qual : Nat) (p : List Byte) :
    Quiet s (s.slateAt code object time qual p) := .of_flags (slateAt_flags ..)
theorem slateT_quiet (s : State) (code : Nat) (object : Id) (t : Nat) (p : List Byte) : Quiet s (s.slateT code object t p) :=
  slateAt_quiet ..
theorem slateDet_quiet (s : State) (code : Nat) (object : Id) (p : List Byte) : Quiet s (s.slateDet code object p) := slateAt_quiet ..

theorem setFlagMet_quiet (s : State) (n : Nat) (met : Bool) (t : Nat) : Quiet s (s.setFlagMet n met t) where
  flag m h := by
    unfold State.flag at *
    rw [(setFlagMet_sameRegister ..).bits]
    dsimp only
    split
    · rw [BitVec.getLsbD_or, h]
      rfl
    · exact h
  cond m := by
    unfold State.cond
    rw [(setFlagMet_sameRegister ..).cond]

theorem sbEnd_quiet (s : State) (st : SbSt) : Quiet s (s.sbEnd st) :=
  .trans (.of_hostOnly (modSb_hostOnly s (fun b => { b with st := st, todo := [], joinWait := none, endTime := s.t64 }))) (slateDet_quiet ..)

theorem sbReport_quiet (s : State) (n e : Nat) (d : Desc) (st : Status) : Quiet s (s.sbReport n e d st) := by
  unfold State.sbReport
  split
  · exact .refl s
  dsimp only
  split
  · exact .trans (.trans (.of_hostOnly (modSb_hostOnly ..)) (addDaily_quiet ..)) (sbEnd_quiet ..)
  · exact .trans (.of_hostOnly (modSb_hostOnly ..)) (addDaily_quiet ..)

theorem report_quiet (s : State) (d : Desc) (cpl : Nat) (entry : Option (Nat × Nat)) (st : Status) (detail : Nat)
    (ret : List Byte) (waited remote : Bool) (time : Word64) :
    Quiet s (s.report d cpl entry st detail ret waited remote time) := by
  unfold State.report
  dsimp only
  split
  · exact sbReport_quiet ..
  split
  · exact .of_flags rfl
  · have completed : Quiet s ((s.putBuf d (ret.take d.plen.toNat)).completeOn cpl d st detail (ret.take d.plen.toNat).length
        waited remote time) := .of_hostOnly (hostOnly_trans (putBuf_hostOnly ..) (completeOn_hostOnly ..))
    split
    · exact .trans completed (.of_flags rfl)
    · exact completed

theorem endOne_quiet (st : Status) (t : Nat) (ret : List Byte) (s : State) (w : Waiting) : Quiet s (State.endOne st t ret s w) := by
  rw [endOne_eq]
  exact .trans (.of_hostOnly (unwaited_hostOnly s w)) (report_quiet ..)

theorem endWaitData_quiet (s : State) (why : WaitFor) (st : Status) (t : Nat) (ret : List Byte) :
    Quiet s (s.endWaitData why st t ret) :=
  foldl_keeps Quiet .refl (fun _ _ _ => .trans) _ (endOne_quiet st t ret) _ s

theorem endWait_quiet (s : State) (why : WaitFor) (st : Status) (t : Nat) : Quiet s (s.endWait why st t) := endWaitData_quiet ..

/-- A condition that begins or ends takes no flag away. -/
theorem setCond_flag_of_flag {s : State} {m : Nat} (h : s.flag m = true) (n : Nat) (level : Bool) : (s.setCond n level).flag m = true := by
  rw [setCond_eq]
  split
  · exact h
  split
  · exact (setFlagMet_quiet ..).flag m h
  · exact h

end Sys2Proof.Proofs
end

section
/-! PROOF. The Agile LOs, the feeder sweep, the carriers' starts and the amplifier's pins (R22, R39 to R44, R265, R266, R270 to R275). -/
namespace Sys2Proof.Proofs
open Sys2Proof Sys2Proof.Machine Sys2Proof.Laws

/-! ## The Agile LOs -/

/-- `t` differs from `s` at most in the Agile LOs and in what a report touches. -/
def tunesOnly (s t : State) : Prop :=
  t = { s with
    aloRx := t.aloRx, aloTx := t.aloTx,
    host := t.host, log := t.log, flags := t.flags, slates := t.slates, clk := { s.clk with wakeReq := t.clk.wakeReq } }

theorem tunesOnly_trans {a b c : State} (h : tunesOnly a b) (k : tunesOnly b c) : tunesOnly a c := by
  unfold tunesOnly at *
  rw [k, h]
theorem tunesOnly_of_reportsOnly {s t : State} (h : s.reportsOnly t) : tunesOnly s t := by
  unfold tunesOnly
  rw [h]
theorem modAlo_tunesOnly (s : State) (a : Nat) (f : Alo → Alo) : tunesOnly s (s.modAlo a f) := by
  unfold State.modAlo
  split <;> rfl

section
variable {s t : State} (h : tunesOnly s t)
include h
theorem tunesOnly_tx : t.tx = s.tx := by rw [h]
theorem tunesOnly_fcar : t.fcar = s.fcar := by rw [h]
theorem tunesOnly_dcar : t.dcar = s.dcar := by rw [h]
theorem tunesOnly_phase : t.phase = s.phase := by rw [h]
end

theorem modAlo_alo_self (s : State) (a : Nat) (f : Alo → Alo) : (s.modAlo a f).alo a = f (s.alo a) := by
  unfold State.modAlo State.alo
  split <;> rfl

theorem aloCond_reportsOnly (s : State) : s.reportsOnly s.aloCond := setCond_reportsOnly ..

theorem alo_of_reportsOnly {s t : State} (h : s.reportsOnly t) (a : Nat) : t.alo a = s.alo a := by
  unfold State.alo
  rw [reportsOnly_aloRx h, reportsOnly_aloTx h]

theorem alo_of_answersOnly {s t : State} (h : s.answersOnly t) (a : Nat) : t.alo a = s.alo a := by
  unfold State.alo
  rw [answersOnly_aloRx h, answersOnly_aloTx h]

theorem aloCond_cond (s : State) : s.aloCond.cond fAloUnlock = (s.aloCond.aloRx.lost || s.aloCond.aloTx.lost) := by
  rw [reportsOnly_aloRx (aloCond_reportsOnly s), reportsOnly_aloTx (aloCond_reportsOnly s)]
  exact setCond_cond (by decide) ..

/-- What a new target makes of an ALO: unlocked at the new frequency, hopping or searching; the loss, the ramp and its segment stay. -/
structure Retargets (hz : Nat) (x y : Alo) : Prop where
  lock : y.lock = false
  freq : y.freqHz = hz
  st : y.st = .hopping ∨ y.st = .searching
  lost : y.lost = x.lost
  ramp : y.ramp = x.ramp
  seg : y.seg = x.seg

theorem aloTarget_eq (s : State) (a hz : Nat) (user : Id) :
    ∃ f : Alo → Alo, (∀ x, Retargets hz x (f x)) ∧ s.aloTarget a hz user = (s.modAlo a f).aloCond := by
  refine ⟨_, fun x => ?_, rfl⟩
  split
  · exact ⟨rfl, rfl, .inl rfl, rfl, rfl, rfl⟩
  · exact ⟨rfl, rfl, .inr rfl, rfl, rfl, rfl⟩

section
variable (s : State) (a hz : Nat) (user : Id)

theorem aloTarget_tunesOnly : tunesOnly s (s.aloTarget a hz user) := by
  obtain ⟨f, -, he⟩ := aloTarget_eq s a hz user
  rw [he]
  exact tunesOnly_trans (modAlo_tunesOnly ..) (tunesOnly_of_reportsOnly (aloCond_reportsOnly _))

theorem aloTarget_retargets : Retargets hz (s.alo a) ((s.aloTarget a hz user).alo a) := by
  obtain ⟨f, hf, he⟩ := aloTarget_eq s a hz user
  rw [he, alo_of_reportsOnly (aloCond_reportsOnly _), modAlo_alo_self]
  exact hf _

theorem aloTarget_cond : (s.aloTarget a hz user).cond fAloUnlock =
    ((s.aloTarget a hz user).aloRx.lost || (s.aloTarget a hz user).aloTx.lost) := by
  obtain ⟨f, -, he⟩ := aloTarget_eq s a hz user
  rw [he]
  exact aloCond_cond _

end

theorem lost_of_alo {s : State} {a : Nat} (h : (s.alo a).lost = true) : (s.aloRx.lost || s.aloTx.lost) = true := by
  unfold State.alo at h
  split at h
  · rw [h, Bool.true_or]
  · rw [h, Bool.or_true]

/-! ## ALO_TX goes to the carriers -/

/-- What tuning or releasing ALO_TX for the carriers leaves: the sweep, the coexistence wires, an ALO_TX without lock, the flags. -/
structure LoMoved (s t : State) : Prop where
  sweep : t.tx.sweep = s.tx.sweep
  cxReq : t.tx.cxReq = s.tx.cxReq
  cxPrio : t.tx.cxPrio = s.tx.cxPrio
  cxGnt : t.tx.cxGnt = s.tx.cxGnt
  unlocked : s.aloTx.lock = false → t.aloTx.lock = false
  flag : ∀ m, s.flag m = true → t.flag m = true

namespace LoMoved

theorem refl (s : State) : LoMoved s s := ⟨rfl, rfl, rfl, rfl, id, fun _ => id⟩
theorem trans {a b c : State} (h : LoMoved a b) (k : LoMoved b c) : LoMoved a c :=
  ⟨k.sweep.trans h.sweep, k.cxReq.trans h.cxReq, k.cxPrio.trans h.cxPrio, k.cxGnt.trans h.cxGnt, fun u => k.unlocked (h.unlocked u),
    fun m hm => k.flag m (h.flag m hm)⟩

end LoMoved

theorem setCond_loMoved (s : State) (n : Nat) (level : Bool) : LoMoved s (s.setCond n level) := by
  have tx := reportsOnly_tx (setCond_reportsOnly s n level)
  exact ⟨by rw [tx], by rw [tx], by rw [tx], by rw [tx], fun h => by rw [reportsOnly_aloTx (setCond_reportsOnly s n level)]; exact h,
    fun m hm => setCond_flag_of_flag hm n level⟩

theorem modAlo_loMoved (s : State) {f : Alo → Alo} (h : ∀ x, x.lock = false → (f x).lock = false) : LoMoved s (s.modAlo 1 f) :=
  ⟨rfl, rfl, rfl, rfl, h _, fun _ hm => hm⟩

theorem aloTarget_loMoved (s : State) (hz : Nat) (user : Id) : LoMoved s (s.aloTarget 1 hz user) := by
  obtain ⟨f, hf, he⟩ := aloTarget_eq s 1 hz user
  rw [he]
  exact .trans (modAlo_loMoved s (fun x _ => (hf x).lock)) (setCond_loMoved ..)

theorem aloRelease_loMoved (s : State) : LoMoved s (s.aloRelease 1) :=
  .trans (modAlo_loMoved s (fun _ _ => rfl)) (setCond_loMoved ..)

theorem modAir_loMoved (s : State) (d : Bool) (c : Nat) (f : AirRun → AirRun) : LoMoved s (s.modAir d c f) := by
  cases d <;> exact ⟨rfl, rfl, rfl, rfl, id, fun _ => id⟩

theorem setStart_loMoved (s : State) (d : Bool) (c t : Nat) (exactly : Bool) : LoMoved s (s.setStart d c t exactly) := by
  unfold State.setStart
  dsimp only
  split
  · exact .trans (modAir_loMoved ..) ⟨rfl, rfl, rfl, rfl, id, fun _ => id⟩
  · exact modAir_loMoved ..

theorem loServe_loMoved (s : State) : LoMoved s s.loServe := by
  refine foldl_keeps LoMoved .refl (fun _ _ _ => .trans) _ (fun b x => ?_) allCars s
  dsimp only
  split
  · exact setStart_loMoved ..
  · exact .refl b

theorem loTune_loMoved (s : State) (user : Id) : LoMoved s (s.loTune user) := by
  unfold State.loTune
  split
  · exact .refl s
  split
  · exact .refl s
  split
  · exact loServe_loMoved s
  split
  · exact .refl s
  · exact aloTarget_loMoved ..

theorem loFree_loMoved (s : State) : LoMoved s s.loFree := by
  unfold State.loFree
  split
  · exact aloRelease_loMoved s
  · exact loTune_loMoved ..

theorem txcalStart_loMoved (s : State) : LoMoved s s.txcalStart := by
  unfold State.txcalStart State.txcalCond
  refine .trans ?_ (setCond_loMoved ..)
  split
  · split
    · dsimp only
      split
      · exact .trans (aloTarget_loMoved ..) ⟨rfl, rfl, rfl, rfl, id, fun _ => id⟩
      · exact ⟨rfl, rfl, rfl, rfl, id, fun _ => id⟩
    · exact .refl s
  · exact .refl s

/-! ## The end of a sweep -/

/-- A sweep that ends, before ALO_TX goes back to the carriers. -/
def sweepStopped (s : State) (aborted : Bool) (st : Status) : State :=
  let w := s.tx.sweep
  let s := s.sweepFlush true aborted
  let s := { s with tx := { s.tx with sweep := Sweep.reset, cxReq := false, cxPrio := false } }
  let s := (s.modAlo 1 (fun x => { x with ramp := [], seg := 0 })).endWait .sweep st s.now
  if w.st = .running then s.slateDet 0x0808 (s.idOf .alo 1) (leBytes 4 w.points ++ leBytes 1 (bit aborted)) else s

theorem sweepEnd_of_sweeping {s : State} (h : s.tx.sweep.st ≠ .none) (aborted : Bool) (st : Status) :
    s.sweepEnd aborted st = (sweepStopped s aborted st).loFree.txcalStart := if_neg h

/-- The points in hand are written: the ring and the part of the sweep that is written change. -/
theorem sweepFlush_spec (s : State) (last aborted : Bool) :
    ∃ part, State.hostOnly { s with tx := { s.tx with sweep := { s.tx.sweep with part := part } } } (s.sweepFlush last aborted) ∧
      (s.tx.sweep.part ≠ [] → part = []) ∧ (s.tx.sweep.part = [] → part = []) := by
  unfold State.sweepFlush
  dsimp only
  split
  next empty => exact ⟨s.tx.sweep.part, rfl, fun h => absurd (List.isEmpty_iff.mp empty) h, id⟩
  next =>
    have put := putRecord_hostOnly s s.tx.sweep.ring sweepKey (fun _ _ _ =>
      leBytes 2 (32 + 12 * s.tx.sweep.part.length) ++ leBytes 1 2 ++ leBytes 1 (8 * bit last + 32 * bit aborted) ++ leBytes 4 0xFF0A0001 ++
      leBytes 8 s.tx.sweep.partFirst ++ leBytes 8 s.tx.sweep.partTime.toNat ++ leBytes 2 s.tx.sweep.part.length ++ zeros 6 ++
        s.tx.sweep.part.flatten)
    generalize s.putRecord _ _ _ = v at *
    refine ⟨[], ?_, fun _ => rfl, fun _ => rfl⟩
    rw [put]
    rfl

/-- What the end of a sweep leaves: no sweep, the wires down, ALO_TX unlocked if it was, the flags. -/
structure SweepOver (s t : State) : Prop where
  sweep : t.tx.sweep = Sweep.reset
  cxReq : t.tx.cxReq = false
  cxPrio : t.tx.cxPrio = false
  cxGnt : t.tx.cxGnt = s.tx.cxGnt
  unlocked : s.aloTx.lock = false → t.aloTx.lock = false
  flag : ∀ m, s.flag m = true → t.flag m = true

theorem sweepStopped_over (s : State) (aborted : Bool) (st : Status) : SweepOver s (sweepStopped s aborted st) := by
  obtain ⟨part, flush, -⟩ := sweepFlush_spec s true aborted
  unfold sweepStopped
  dsimp only
  generalize s.sweepFlush true aborted = v at *
  have wait := endWait_answersOnly (({ v with tx := { v.tx with sweep := Sweep.reset, cxReq := false, cxPrio := false } } : State).modAlo 1
    (fun x => { x with ramp := [], seg := 0 })) .sweep st v.now
  have quiet := endWait_quiet (({ v with tx := { v.tx with sweep := Sweep.reset, cxReq := false, cxPrio := false } } : State).modAlo 1
    (fun x => { x with ramp := [], seg := 0 })) .sweep st v.now
  generalize State.endWait _ .sweep st v.now = w at *
  have tx : w.tx = { v.tx with sweep := Sweep.reset, cxReq := false, cxPrio := false } := (answersOnly_tx wait).trans rfl
  have alo : w.aloTx = { v.aloTx with ramp := [], seg := 0 } := (answersOnly_aloTx wait).trans rfl
  have gnt : v.tx.cxGnt = s.tx.cxGnt := (congrArg Tx.cxGnt (hostOnly_tx flush)).trans rfl
  have lock : v.aloTx.lock = s.aloTx.lock := (congrArg Alo.lock (hostOnly_aloTx flush)).trans rfl
  have flags : v.flags = s.flags := (hostOnly_flags flush).trans rfl
  have ended : SweepOver s w := {
    sweep := by rw [tx]
    cxReq := by rw [tx]
    cxPrio := by rw [tx]
    cxGnt := by rw [tx]; exact gnt
    unlocked := fun h => by rw [alo]; exact lock.trans h
    flag := fun m hm => quiet.flag m (by unfold State.flag at *; rw [← flags] at hm; exact hm) }
  split
  · have report := slateDet_reportsOnly w 0x0808 (w.idOf .alo 1) (leBytes 4 s.tx.sweep.points ++ leBytes 1 (bit aborted))
    have still := slateDet_quiet w 0x0808 (w.idOf .alo 1) (leBytes 4 s.tx.sweep.points ++ leBytes 1 (bit aborted))
    generalize w.slateDet _ _ _ = x at *
    have tx' := reportsOnly_tx report
    exact {
      sweep := by rw [tx']; exact ended.sweep
      cxReq := by rw [tx']; exact ended.cxReq
      cxPrio := by rw [tx']; exact ended.cxPrio
      cxGnt := by rw [tx']; exact ended.cxGnt
      unlocked := fun h => by rw [reportsOnly_aloTx report]; exact ended.unlocked h
      flag := fun m hm => still.flag m (ended.flag m hm) }
  · exact ended

theorem sweepEnd_over {s : State} (h : s.tx.sweep.st ≠ .none) (aborted : Bool) (st : Status) : SweepOver s (s.sweepEnd aborted st) := by
  rw [sweepEnd_of_sweeping h]
  have stopped := sweepStopped_over s aborted st
  have moved := LoMoved.trans (loFree_loMoved (sweepStopped s aborted st)) (txcalStart_loMoved _)
  exact {
    sweep := moved.sweep.trans stopped.sweep
    cxReq := moved.cxReq.trans stopped.cxReq
    cxPrio := moved.cxPrio.trans stopped.cxPrio
    cxGnt := moved.cxGnt.trans stopped.cxGnt
    unlocked := fun u => moved.unlocked (stopped.unlocked u)
    flag := fun m hm => moved.flag m (stopped.flag m hm) }

end Sys2Proof.Proofs
end

section
/-! PROOF. Carriers going off air, the lock, search failure and unlock of an ALO (R22, R39, R40, R42, R266). -/
namespace Sys2Proof.Proofs
open Sys2Proof Sys2Proof.Machine Sys2Proof.Laws

/-! ## A carrier goes off air -/

/-- `t` differs from `s` at most in the carriers, the composer's pins and what a report touches. -/
def airsOnly (s t : State) : Prop :=
  t = { s with
    fcar := t.fcar, dcar := t.dcar, tx := t.tx,
    host := t.host, log := t.log, flags := t.flags, slates := t.slates, clk := { s.clk with wakeReq := t.clk.wakeReq } }

theorem airsOnly_refl (s : State) : airsOnly s s := rfl
theorem airsOnly_trans {a b c : State} (h : airsOnly a b) (k : airsOnly b c) : airsOnly a c := by
  unfold airsOnly at *
  rw [k, h]
theorem airsOnly_of_reportsOnly {s t : State} (h : s.reportsOnly t) : airsOnly s t := by
  unfold airsOnly
  rw [h]
theorem airsOnly_of_carriersOnly {s t : State} (h : carriersOnly s t) : airsOnly s t := by
  unfold airsOnly
  rw [h]

section
variable {s t : State} (h : airsOnly s t)
include h
theorem airsOnly_aloRx : t.aloRx = s.aloRx := by rw [h]
theorem airsOnly_aloTx : t.aloTx = s.aloTx := by rw [h]
theorem airsOnly_now : t.now = s.now := by rw [h]
theorem airsOnly_alo (a : Nat) : t.alo a = s.alo a := by
  unfold State.alo
  rw [airsOnly_aloRx h, airsOnly_aloTx h]
end

/-- The pins moved and reported, the carriers and PA_EN as they were. -/
structure PinsMoved (s t : State) : Prop where
  airs : airsOnly s t
  fcar : t.fcar = s.fcar
  dcar : t.dcar = s.dcar
  paEn : t.tx.paEn = s.tx.paEn

namespace PinsMoved
theorem refl (s : State) : PinsMoved s s := ⟨rfl, rfl, rfl, rfl⟩
theorem trans {a b c : State} (h : PinsMoved a b) (k : PinsMoved b c) : PinsMoved a c :=
  ⟨airsOnly_trans h.airs k.airs, k.fcar.trans h.fcar, k.dcar.trans h.dcar, k.paEn.trans h.paEn⟩
theorem of_reportsOnly {s t : State} (h : s.reportsOnly t) : PinsMoved s t :=
  ⟨airsOnly_of_reportsOnly h, reportsOnly_fcar h, reportsOnly_dcar h, by rw [reportsOnly_tx h]⟩
theorem air {s t : State} (h : PinsMoved s t) (d : Bool) (c : Nat) : t.air d c = s.air d c := air_of_carriers h.fcar h.dcar d c
end PinsMoved

theorem paAfterFall_pinsMoved (s : State) (stop : Nat) : PinsMoved s (s.paAfterFall stop) := by
  unfold State.paAfterFall
  split
  · exact .refl s
  · exact ⟨rfl, rfl, rfl, rfl⟩

/-- The carrier's run as it goes off air. -/
def fallen (cause : OffCause) (stays : Bool) (t : Nat) (a : AirRun) : AirRun := { a with
  fallAt := if a.st = .onAir then some t else a.fallAt,
  st := if stays then .offAir else .idle, cause := cause, startAt := none, waitEnd := none, offAt := none,
  levelOut := if stays then a.levelOut else false, levelTicks := 0 }

/-- A carrier's fall: its run, then pins and reports (R266, R270). -/
theorem carrierOff_pinsMoved (s : State) (d : Bool) (c : Nat) (cause : OffCause) (stays : Bool) (t : Nat) :
    PinsMoved (s.modAir d c (fallen cause stays t)) (s.carrierOff d c cause stays t) := by
  unfold State.carrierOff State.levelCond
  refine .trans ?_ (.of_reportsOnly (setCond_reportsOnly ..))
  split
  · exact .trans (.of_reportsOnly (slateT_reportsOnly ..)) (paAfterFall_pinsMoved ..)
  · exact .refl _

section
variable (s : State) {d e : Bool} {c k : Nat} (cause : OffCause) (stays : Bool) (t : Nat)

theorem carrierOff_air_self (h : isCarrier s d c) : (s.carrierOff d c cause stays t).air d c = fallen cause stays t (s.air d c) :=
  ((carrierOff_pinsMoved ..).air d c).trans (modAir_air_self h _)

theorem carrierOff_air_of_ne (h : (e, k) ≠ (d, c)) : (s.carrierOff d c cause stays t).air e k = s.air e k :=
  ((carrierOff_pinsMoved ..).air e k).trans (modAir_air_of_ne h _)

end

theorem modAir_tx (s : State) (d : Bool) (c : Nat) (f : AirRun → AirRun) : (s.modAir d c f).tx = s.tx := by cases d <;> rfl

theorem carrierOff_airsOnly (s : State) (d : Bool) (c : Nat) (cause : OffCause) (stays : Bool) (t : Nat) :
    airsOnly s (s.carrierOff d c cause stays t) :=
  airsOnly_trans (airsOnly_of_carriersOnly (modAir_carriersOnly ..)) (carrierOff_pinsMoved ..).airs

/-! ## The lock of an ALO -/

/-- The two ALOs as they were but for the start of a segment, and every condition at its level. -/
structure LockKept (s t : State) : Prop where
  alo : ∀ a, t.alo a = { s.alo a with segStart := (t.alo a).segStart, markTime := (t.alo a).markTime }
  cond : ∀ m, t.cond m = s.cond m

theorem LockKept.of_same {s t : State} (alo : ∀ a, t.alo a = s.alo a) (cond : ∀ m, t.cond m = s.cond m) : LockKept s t :=
  ⟨fun a => by rw [alo a], cond⟩

theorem LockKept.trans {a b c : State} (h : LockKept a b) (k : LockKept b c) : LockKept a c :=
  ⟨fun x => by rw [k.alo x, h.alo x], fun m => (k.cond m).trans (h.cond m)⟩

theorem LockKept.of_answers {s t : State} (h : s.answersOnly t) (q : Quiet s t) : LockKept s t := .of_same (alo_of_answersOnly h) q.cond

theorem endWait_lockKept (s : State) (why : WaitFor) (st : Status) (t : Nat) : LockKept s (s.endWait why st t) :=
  .of_answers (endWait_answersOnly ..) (endWait_quiet ..)

theorem modConv_lockKept (s : State) (x : Nat) (f : ConvRun → ConvRun) : LockKept s (s.modConv x f) :=
  .of_same (fun _ => rfl) (fun _ => rfl)

theorem rxLocked_lockKept (s : State) : LockKept s s.rxLocked := by
  unfold State.rxLocked
  dsimp only
  split
  · exact ((modConv_lockKept ..).trans (modConv_lockKept ..)).trans ((modConv_lockKept ..).trans (endWait_lockKept ..))
  · exact modConv_lockKept ..

theorem loServe_lockKept (s : State) : LockKept s s.loServe := by
  have only : carriersOnly s s.loServe := by
    refine foldl_keeps carriersOnly carriersOnly_refl (fun _ _ _ => carriersOnly_trans) _ (fun b x => ?_) allCars s
    dsimp only
    split
    · exact setStart_carriersOnly ..
    · exact carriersOnly_refl b
  exact .of_same (airsOnly_alo (airsOnly_of_carriersOnly only)) (fun m => by
    unfold State.cond
    rw [(SameRoot.of_carriersOnly only).flags])

/-- The start of the segment noted. -/
def segmentOpen (s : State) : State :=
  let b := alignUp perSample s.now
  let mark := match s.aloTx.ramp[s.aloTx.seg]? with | some g => g.mark | none => false
  s.modAlo 1 (fun x => { x with segStart := b, markTime := if mark then s.t64At b else x.markTime })

theorem segmentBegins_eq (s : State) : s.segmentBegins = if (segmentOpen s).tx.sweep.st = .waitLock then
    ({ segmentOpen s with tx := { (segmentOpen s).tx with sweep := { (segmentOpen s).tx.sweep with st := .running, inSeg := 0 } } } :
      State).endWait .sweep .ok (alignUp perSample s.now) else segmentOpen s := rfl

theorem segmentOpen_lockKept (s : State) : LockKept s (segmentOpen s) := by
  refine ⟨fun a => ?_, fun _ => rfl⟩
  unfold State.alo
  split <;> rfl

theorem segmentBegins_lockKept (s : State) : LockKept s s.segmentBegins := by
  rw [segmentBegins_eq]
  refine (segmentOpen_lockKept s).trans ?_
  generalize segmentOpen s = v
  split
  · refine .trans ?_ (endWait_lockKept ..)
    exact .of_same (fun _ => rfl) (fun _ => rfl)
  · exact .of_same (fun _ => rfl) (fun _ => rfl)

/-- The run of an ALO that has locked. -/
def lockedAlo (u : State) (band fine : Nat) (a : Alo) (x : Alo) : Alo := { x with
  st := if x.ramp = [] then .locked else .ramping, lock := true, lost := false, hopEnd := none,
  band := if x.st = .searching then band else x.band,
  table := if x.st = .searching then
    storeHop ⟨a.freqHz * 2 ^ a.k / 1000, band, true, fine, u.health.tjMax, u.tick32.toNat⟩ x.table else x.table }

theorem execAloLock_of_declared {s : State} {t a band fine : Nat} {m : LockMeas} (ha : a ≤ 1)
    (hst : ((s.advance t).alo a).st = .hopping ∨ ((s.advance t).alo a).st = .searching) (hl : (s.advance t).aloLocks m = true) :
    execAloLock t a band fine m s =
      let u := s.advance t
      let v := (u.modAlo a (lockedAlo u band fine (u.alo a))).aloCond
      done s (if a = 0 then v.rxLocked else if (u.alo a).ramp = [] then (if v.loReady then v.loServe else v) else v.segmentBegins) :=
  if_pos ⟨ha, hst, hl⟩

theorem aloLock : Rules.AloLock := by
  intro s t a band fine m hs ha u x hst hl
  refine completes_of_done hs (execAloLock_of_declared ha hst hl) ?_
  have begun : ((u.modAlo a (lockedAlo u band fine x)).aloCond).alo a = lockedAlo u band fine x x := by
    rw [alo_of_reportsOnly (aloCond_reportsOnly _), modAlo_alo_self]
  have level := aloCond_cond (u.modAlo a (lockedAlo u band fine x))
  change _ ∧ _
  generalize (u.modAlo a (lockedAlo u band fine x)).aloCond = v at *
  have kept : LockKept v (if a = 0 then v.rxLocked else if x.ramp = [] then (if v.loReady then v.loServe else v) else v.segmentBegins) := by
    split
    · exact rxLocked_lockKept v
    split
    · split
      · exact loServe_lockKept v
      · exact .of_same (fun _ => rfl) (fun _ => rfl)
    · exact segmentBegins_lockKept v
  generalize (if a = 0 then v.rxLocked else if x.ramp = [] then (if v.loReady then v.loServe else v) else v.segmentBegins) = r at *
  have alo := kept.alo a
  rw [begun] at alo
  have cond : (s.framed r).cond fAloUnlock = ((s.framed r).aloRx.lost || (s.framed r).aloTx.lost) := by
    have rx : r.aloRx.lost = v.aloRx.lost := (congrArg Alo.lost (kept.alo 0)).trans rfl
    have tx : r.aloTx.lost = v.aloTx.lost := (congrArg Alo.lost (kept.alo 1)).trans rfl
    rw [framed_aloRx, framed_aloTx, rx, tx]
    exact (kept.cond _).trans level
  have final : (s.framed r).alo a = r.alo a := rfl
  rw [final, alo]
  refine ⟨rfl, rfl, rfl, rfl, rfl, fun h => ⟨if_pos h, if_pos h⟩, fun h => ?_, cond⟩
  have other : ¬ x.st = .searching := by rw [h]; decide
  exact ⟨if_neg other, if_neg other⟩

/-! ## A search fails -/

/-- `t` differs from `s` at most in the calibration units and in what an answered command touches. -/
def calOnly (s t : State) : Prop := State.answersOnly { s with cal := t.cal } t

theorem calOnly_refl (s : State) : calOnly s s := rfl
theorem calOnly_of_answersOnly {s t : State} (h : s.answersOnly t) : calOnly s t := by
  unfold calOnly
  rw [answersOnly_cal h]
  exact h
theorem calOnly_trans {a b c : State} (h : calOnly a b) (k : calOnly b c) : calOnly a c := by
  unfold calOnly State.answersOnly at *
  rw [k, h]

theorem modUnit_calOnly (s : State) (u : Nat) (f : CalUnit → CalUnit) : calOnly s (s.modUnit u f) := rfl

theorem calReport_answersOnly (s : State) (u : Nat) (block : List Byte) (t : Nat) : s.answersOnly (s.calReport u block t) :=
  answersOnly_trans (answersOnly_of_reportsOnly (reportsOnly_trans (slateT_reportsOnly ..) (addDaily_reportsOnly ..)))
    (endWaitData_answersOnly ..)

theorem calReport_quiet (s : State) (u : Nat) (block : List Byte) (t : Nat) : Quiet s (s.calReport u block t) :=
  .trans (.trans (slateT_quiet ..) (addDaily_quiet ..)) (endWaitData_quiet ..)

theorem calAbort_calOnly (s : State) (u t : Nat) : calOnly s (s.calAbort u t) := by
  unfold State.calAbort State.calEnd
  split
  · exact calOnly_refl s
  · simp only [reduceCtorEq, false_and, if_false]
    exact calOnly_trans (modUnit_calOnly ..) (calOnly_of_answersOnly (calReport_answersOnly ..))

theorem calAbort_quiet (s : State) (u t : Nat) : Quiet s (s.calAbort u t) := by
  unfold State.calAbort State.calEnd
  split
  · exact .refl s
  · simp only [reduceCtorEq, false_and, if_false]
    refine .trans ?_ (calReport_quiet ..)
    exact .of_flags rfl

/-- What the hold of an input leaves: ALO_RX, the flags, every converter's wait for its LO and its life. -/
structure InputHeld (s t : State) : Prop where
  aloRx : t.aloRx = s.aloRx
  flag : ∀ m, s.flag m = true → t.flag m = true
  loWait : ∀ x, (t.convR x).loWait = (s.convR x).loWait
  life : ∀ x, t.life ⟨.conv, x⟩ = s.life ⟨.conv, x⟩

namespace InputHeld
theorem refl (s : State) : InputHeld s s := ⟨rfl, fun _ => id, fun _ => rfl, fun _ => rfl⟩
theorem trans {a b c : State} (h : InputHeld a b) (k : InputHeld b c) : InputHeld a c :=
  ⟨k.aloRx.trans h.aloRx, fun m hm => k.flag m (h.flag m hm), fun x => (k.loWait x).trans (h.loWait x), fun x => (k.life x).trans (h.life x)⟩
theorem of_conv {s t : State} (rx : t.aloRx = s.aloRx) (flag : ∀ m, s.flag m = true → t.flag m = true) (conv : t.conv = s.conv) :
    InputHeld s t :=
  ⟨rx, flag, fun x => by unfold State.convR; rw [conv], fun x => by unfold State.life State.life?; rw [conv]⟩
theorem of_answers {s t : State} (h : s.answersOnly t) (q : Quiet s t) : InputHeld s t := .of_conv (answersOnly_aloRx h) q.flag (answersOnly_conv h)
theorem ite {s t u : State} {p : Prop} [Decidable p] (h : InputHeld s t) (k : InputHeld s u) : InputHeld s (if p then t else u) := by
  split
  exacts [h, k]
theorem of_reports {s t : State} (h : s.reportsOnly t) (flag : ∀ m, s.flag m = true → t.flag m = true) : InputHeld s t :=
  .of_conv (reportsOnly_aloRx h) flag (reportsOnly_conv h)
end InputHeld

theorem life_of_modConv (s : State) (x : Nat) (f : ConvRun → ConvRun) (y : Nat) :
    (s.modConv x f).life ⟨.conv, y⟩ = s.life ⟨.conv, y⟩ :=
  congrArg (fun l : Option Life => l.getD (Life.closed 0)) (life_map_withRun f s.conv x y)

theorem modConv_inputHeld (s : State) (x : Nat) {f : ConvRun → ConvRun} (h : ∀ r, (f r).loWait = r.loWait) : InputHeld s (s.modConv x f) where
  aloRx := rfl
  flag _ := id
  loWait y := by
    unfold State.convR State.modConv
    dsimp only
    by_cases hy : y = x
    · subst hy
      rw [modAt_getElem?_self]
      cases s.conv[y]? with
      | none => rfl
      | some o => exact h _
    · rw [modAt_getElem?_of_ne _ _ hy]
  life y := life_of_modConv ..

theorem calAbort_inputHeld (s : State) (u t : Nat) : InputHeld s (s.calAbort u t) :=
  .of_conv ((answersOnly_aloRx (calAbort_calOnly s u t)).trans rfl) (calAbort_quiet s u t).flag
    ((answersOnly_conv (calAbort_calOnly s u t)).trans rfl)

theorem trafficOut_inputHeld (s : State) (x k : Nat) : InputHeld s (s.trafficOut x k) := by
  refine .trans (modConv_inputHeld s x ?_) (.of_reports (slateT_reportsOnly ..) (slateT_quiet ..).flag)
  exact fun _ => rfl

theorem standinFree_inputHeld (s : State) (rota : Nat) : InputHeld s (s.standinFree rota) := .of_conv rfl (fun _ h => h) rfl

theorem convHeld_inputHeld (s : State) (x t : Nat) : InputHeld s (s.convHeld x t) := by
  have abort : InputHeld s (s.calAbort x t) := calAbort_inputHeld ..
  have leave (v : State) : InputHeld v ((if (v.convR x).onStandin then v.trafficOut x (t / perSample) else v).standinFree (x + 1)) :=
    .trans (.ite (trafficOut_inputHeld ..) (.refl v)) (standinFree_inputHeld ..)
  unfold State.convHeld
  dsimp only
  exact .ite (.trans (.ite abort (.refl s)) (leave _)) (.ite abort (.refl s))

theorem agcCond_inputHeld (s : State) : InputHeld s s.agcCond :=
  .of_reports (setCond_reportsOnly ..) (fun _ h => setCond_flag_of_flag h _ _)

/-- An input's run at a hold at `t`. -/
def heldConv (t : Nat) (x : ConvRun) : ConvRun := { x with
  limit := false, nextGain := none, blanking := false, marks := x.marks ++ [⟨t / perSample, none, 0⟩] }

theorem holdEffects_conv (s : State) (x : Nat) (cause : OffCause) (t : Nat) :
    s.holdEffects ⟨.conv, x⟩ cause t = ((s.modConv x (heldConv t)).agcCond).convHeld x t := rfl

/-- The hold of an input: its converter's run, AGC_LIMIT, a calibration run in progress, the Stand-in (R50, R359, R412). -/
theorem holdEffects_inputHeld (s : State) (x : Nat) (cause : OffCause) (t : Nat) : InputHeld s (s.holdEffects ⟨.conv, x⟩ cause t) := by
  rw [holdEffects_conv]
  exact .trans (.trans (modConv_inputHeld s x (f := heldConv t) (fun _ => rfl)) (agcCond_inputHeld _)) (convHeld_inputHeld ..)

/-- The search of ALO `a` given up, with its flag. -/
def searchFailed (u : State) (a : Nat) : State :=
  (u.modAlo a (fun x => { x with st := .idle, lock := false, hopEnd := none })).setFlag fAloSearchFail

theorem searchFailed_flag {u : State} {a : Nat} (h : u.phase = .released) : (searchFailed u a).flag fAloSearchFail = true := by
  refine setFlag_flag (by decide) ?_
  rw [tunesOnly_phase (modAlo_tunesOnly ..)]
  exact h

/-- Input D's RUN answered LO_NOT_READY: its life, and its run without a wait. -/
def rxRefused (v : State) : State :=
  ((v.endWait .rxLo .loNotReady v.now).modLife ⟨.conv, 3⟩ (fun l =>
    { l with cmd := .held, eff := .held, holdAt := none, dueAt := none, liveAt := none })).modConv 3 (fun r => { r with loWait := false })

theorem execAloSearchFail_rx {s : State} {t : Nat} (h : (s.advance t).aloRx.st = .searching) : execAloSearchFail t 0 s =
    if ((searchFailed (s.advance t) 0).convR 3).loWait then
      done s ((rxRefused (searchFailed (s.advance t) 0)).holdEffects ⟨.conv, 3⟩ .hold
        ((searchFailed (s.advance t) 0).endWait .rxLo .loNotReady (searchFailed (s.advance t) 0).now).now)
    else done s (searchFailed (s.advance t) 0) := if_pos ⟨Nat.zero_le 1, h⟩

theorem execAloSearchFail_tx {s : State} {t : Nat} (h : (s.advance t).aloTx.st = .searching)
    (hf : (searchFailed (s.advance t) 1).fullCal = false) : execAloSearchFail t 1 s =
    done s (if (searchFailed (s.advance t) 1).tx.sweep.st = .waitLock ∨ (searchFailed (s.advance t) 1).tx.sweep.st = .running then
      (searchFailed (s.advance t) 1).sweepEnd true .aborted else searchFailed (s.advance t) 1) := by
  have he : execAloSearchFail t 1 s = done s (
      let u := if (searchFailed (s.advance t) 1).fullCal then (searchFailed (s.advance t) 1).calAbort 5 (searchFailed (s.advance t) 1).now
        else searchFailed (s.advance t) 1
      if u.tx.sweep.st = .waitLock ∨ u.tx.sweep.st = .running then u.sweepEnd true .aborted else u) := if_pos ⟨Nat.le_refl 1, h⟩
  rw [he, hf]
  rfl

theorem rxRefused_held {v : State} (h : (v.convR 3).loWait = true) :
    (rxRefused v).aloRx = v.aloRx ∧ (∀ m, v.flag m = true → (rxRefused v).flag m = true) ∧ ((rxRefused v).convR 3).loWait = false ∧
    ((rxRefused v).life ⟨.conv, 3⟩).eff = .held := by
  have here : 3 < v.conv.length := lt_of_run_ne (d := ConvRun.reset) (fun same => by
    rw [show v.convR 3 = ConvRun.reset from same] at h
    exact absurd h (by decide))
  have answered := endWait_answersOnly v .rxLo .loNotReady v.now
  have quiet := endWait_quiet v .rxLo .loNotReady v.now
  unfold rxRefused
  generalize v.endWait .rxLo .loNotReady v.now = w at *
  have conv := answersOnly_conv answered
  have there : 3 < w.conv.length := by rw [conv]; exact here
  refine ⟨(answersOnly_aloRx answered : w.aloRx = v.aloRx), (quiet.flag : ∀ m, v.flag m = true → w.flag m = true), ?_, ?_⟩
  · rw [modConv_convR_self]
    show 3 < (modAt 3 _ w.conv).length
    rw [modAt_length]
    exact there
  · have some : (w.life? ⟨.conv, 3⟩).isSome = true := by
      show ((w.conv[3]?).map Obj.life).isSome = true
      rw [List.getElem?_eq_getElem there]
      rfl
    have held := modLife_life_self some (fun l => { l with cmd := .held, eff := .held, holdAt := none, dueAt := none, liveAt := none })
    exact congrArg Life.eff ((life_of_modConv ..).trans held)

theorem aloSearchFail : Rules.AloSearchFail := by
  intro s t hs released u
  have flag (a : Nat) := searchFailed_flag (a := a) released
  refine ⟨fun searching => ?_, fun searching measuring => ?_⟩
  · have he := execAloSearchFail_rx searching
    have report := setFlag_reportsOnly (u.modAlo 0 (fun x => { x with st := .idle, lock := false, hopEnd := none })) fAloSearchFail
    have rx : (searchFailed u 0).aloRx = { u.aloRx with st := .idle, lock := false, hopEnd := none } := (reportsOnly_aloRx report).trans rfl
    have conv : (searchFailed u 0).convR 3 = u.convR 3 := by
      unfold State.convR
      rw [(reportsOnly_conv report : (searchFailed u 0).conv = _)]
      rfl
    have raised := flag 0
    change execAloSearchFail t 0 s = if ((searchFailed u 0).convR 3).loWait then _ else _ at he
    by_cases waits : ((searchFailed u 0).convR 3).loWait = true
    · rw [if_pos waits] at he
      obtain ⟨alo, flags, wait, life⟩ := rxRefused_held waits
      have held := holdEffects_inputHeld (rxRefused (searchFailed u 0)) 3 .hold
        ((searchFailed u 0).endWait .rxLo .loNotReady (searchFailed u 0).now).now
      change execAloSearchFail t 0 s = done s ((rxRefused (searchFailed u 0)).holdEffects ⟨.conv, 3⟩ .hold
        ((searchFailed u 0).endWait .rxLo .loNotReady (searchFailed u 0).now).now) at he
      generalize (rxRefused (searchFailed u 0)).holdEffects ⟨.conv, 3⟩ .hold _ = r at *
      refine completes_of_done hs he ⟨?_, ?_, held.flag _ (flags _ raised), fun _ => ⟨(held.loWait 3).trans wait, ?_⟩⟩
      · rw [framed_aloRx, held.aloRx, alo, rx]
      · rw [framed_aloRx, held.aloRx, alo, rx]
      · exact (congrArg Life.eff (held.life 3)).trans life
    · rw [if_neg waits] at he
      refine completes_of_done hs he ⟨?_, ?_, raised, fun w => absurd (conv ▸ w) waits⟩
      · rw [framed_aloRx]; exact congrArg Alo.st rx
      · rw [framed_aloRx]; exact congrArg Alo.lock rx
  · have report := setFlag_reportsOnly (u.modAlo 1 (fun x => { x with st := .idle, lock := false, hopEnd := none })) fAloSearchFail
    have tx : (searchFailed u 1).tx = u.tx := (reportsOnly_tx report).trans rfl
    have cal : (searchFailed u 1).cal = u.cal := (reportsOnly_cal report).trans rfl
    have off : (searchFailed u 1).aloTx.lock = false := congrArg Alo.lock ((reportsOnly_aloTx report).trans rfl)
    have notFull : (searchFailed u 1).fullCal = false := by
      unfold State.fullCal State.unit at *
      rw [cal]
      exact measuring
    have he := execAloSearchFail_tx searching notFull
    have raised := flag 1
    change execAloSearchFail t 1 s = done s (if (searchFailed u 1).tx.sweep.st = .waitLock ∨ (searchFailed u 1).tx.sweep.st = .running then
      (searchFailed u 1).sweepEnd true .aborted else searchFailed u 1) at he
    rw [tx] at he
    refine ⟨fun idle => ?_, fun busy => ?_⟩
    · rw [if_neg (not_or.mpr idle)] at he
      exact completes_of_done hs he ⟨raised, framed_reportsOnly report⟩
    · rw [if_pos busy] at he
      have sweeping : (searchFailed u 1).tx.sweep.st ≠ .none := by
        rw [tx]
        obtain h | h := busy <;> rw [h] <;> decide
      have ended := sweepEnd_over sweeping true .aborted
      generalize (searchFailed u 1).sweepEnd true .aborted = r at *
      refine completes_of_done hs he ⟨ended.flag _ raised, ended.unlocked off, ?_⟩
      rw [framed_tx, ended.sweep]
      rfl

/-! ## Lock is lost -/

/-- What the loss of ALO_TX does to one carrier in LO mode (R266). -/
def losesLo (u : State) (x : Bool × Nat) : State :=
  match (u.air x.1 x.2).st with
  | .onAir => u.carrierOff x.1 x.2 .loLost true u.now
  | .starting => u.modAir x.1 x.2 (fun a => { a with st := .waitLo, startAt := none })
  | .offAir => u.modAir x.1 x.2 (fun a => { a with startAt := none, cause := if a.startAt.isSome then .loLost else a.cause })
  | _ => u

theorem losesLo_airsOnly (u : State) (x : Bool × Nat) : airsOnly u (losesLo u x) := by
  unfold losesLo
  split
  · exact carrierOff_airsOnly ..
  · exact airsOnly_of_carriersOnly (modAir_carriersOnly ..)
  · exact airsOnly_of_carriersOnly (modAir_carriersOnly ..)
  · exact airsOnly_refl u

theorem losesLo_air_of_ne {u : State} {x y : Bool × Nat} (h : y ≠ x) : (losesLo u x).air y.1 y.2 = u.air y.1 y.2 := by
  unfold losesLo
  split
  · exact carrierOff_air_of_ne _ _ _ _ h
  · exact modAir_air_of_ne h _
  · exact modAir_air_of_ne h _
  · rfl

theorem losesLo_air_self {u : State} {x : Bool × Nat} (h : (u.air x.1 x.2).st = .onAir) :
    ((losesLo u x).air x.1 x.2).st = .offAir ∧ ((losesLo u x).air x.1 x.2).cause = .loLost := by
  have here : isCarrier u x.1 x.2 := isCarrier_of_st (by rw [h]; decide)
  unfold losesLo
  rw [h]
  dsimp only
  rw [carrierOff_air_self _ _ _ _ here]
  exact ⟨rfl, rfl⟩

theorem foldl_losesLo_airsOnly (l : List (Bool × Nat)) (u : State) : airsOnly u (l.foldl losesLo u) :=
  foldl_keeps airsOnly airsOnly_refl (fun _ _ _ => airsOnly_trans) _ losesLo_airsOnly l u

theorem foldl_losesLo_air_of_not_mem {l : List (Bool × Nat)} {y : Bool × Nat} (h : y ∉ l) (u : State) :
    (l.foldl losesLo u).air y.1 y.2 = u.air y.1 y.2 := by
  induction l generalizing u with
  | nil => rfl
  | cons x l ih =>
    rw [List.mem_cons, not_or] at h
    exact (ih h.2 _).trans (losesLo_air_of_ne h.1)

/-- Every carrier on air of a list without repetition is off air after the fold, for the lost LO. -/
theorem foldl_losesLo_air {l : List (Bool × Nat)} (distinct : l.Nodup) {y : Bool × Nat} (h : y ∈ l) {u : State}
    (on : (u.air y.1 y.2).st = .onAir) :
    ((l.foldl losesLo u).air y.1 y.2).st = .offAir ∧ ((l.foldl losesLo u).air y.1 y.2).cause = .loLost := by
  induction l generalizing u with
  | nil => exact absurd h List.not_mem_nil
  | cons x l ih =>
    rw [List.nodup_cons] at distinct
    rw [List.foldl_cons]
    obtain rfl | inside := List.mem_cons.mp h
    · rw [foldl_losesLo_air_of_not_mem distinct.1]
      exact losesLo_air_self on
    · have other : y ≠ x := fun same => distinct.1 (same ▸ inside)
      exact ih distinct.2 inside (by rw [losesLo_air_of_ne other]; exact on)

theorem allCars_nodup : allCars.Nodup := by
  unfold allCars
  rw [List.nodup_append]
  refine ⟨List.nodup_range.map (fun _ _ h => (Prod.mk.inj h).2), List.nodup_range.map (fun _ _ h => (Prod.mk.inj h).2), ?_⟩
  intro x hx y hy same
  obtain ⟨c, -, rfl⟩ := List.mem_map.mp hx
  obtain ⟨k, -, rfl⟩ := List.mem_map.mp hy
  exact absurd (Prod.mk.inj same).1 Bool.false_ne_true

/-- ALO `a` noted as unlocked, with its condition and its slate. -/
def aloLost (u : State) (a : Nat) : State :=
  ((u.modAlo a (fun x => { x with lock := false, lost := true })).aloCond).slateDet 0x0104 (u.idOf .alo a) []

theorem aloLost_tunesOnly (u : State) (a : Nat) : tunesOnly u (aloLost u a) :=
  tunesOnly_trans (modAlo_tunesOnly ..) (tunesOnly_of_reportsOnly (reportsOnly_trans (aloCond_reportsOnly _) (slateDet_reportsOnly ..)))

theorem aloLost_alo (u : State) (a : Nat) : (aloLost u a).alo a = { u.alo a with lock := false, lost := true } :=
  (alo_of_reportsOnly (reportsOnly_trans (aloCond_reportsOnly _) (slateDet_reportsOnly ..)) a).trans (modAlo_alo_self ..)

theorem execAloUnlock_of_lost {s : State} {t a : Nat} {m : LockMeas} (ha : a ≤ 1)
    (hst : ((s.advance t).alo a).st = .locked ∨ ((s.advance t).alo a).st = .ramping) (hl : (s.advance t).aloLoses m = true) :
    execAloUnlock t a m s =
      let u := s.advance t
      let v := aloLost u a
      let w := if a = 0 then v.loInvalid v.nextSample
        else if v.tx.claim.isSome ∧ (u.alo a).ramp = [] then allCars.foldl losesLo v else v
      done s (w.aloTarget a (u.alo a).freqHz (u.alo a).user) := if_pos ⟨ha, hst, hl⟩

theorem aloUnlock : Rules.AloUnlock := by
  intro s t a m hs ha u hst hl
  refine completes_of_done hs (execAloUnlock_of_lost ha hst hl) ?_
  have lost := aloLost_alo u a
  have tx : (aloLost u a).tx = u.tx := tunesOnly_tx (aloLost_tunesOnly u a)
  have airs (d : Bool) (c : Nat) : (aloLost u a).air d c = u.air d c :=
    air_of_carriers (tunesOnly_fcar (aloLost_tunesOnly u a)) (tunesOnly_dcar (aloLost_tunesOnly u a)) d c
  generalize aloLost u a = v at *
  obtain ⟨w, hw⟩ : ∃ w, (if a = 0 then v.loInvalid v.nextSample
    else if v.tx.claim.isSome ∧ (u.alo a).ramp = [] then allCars.foldl losesLo v else v) = w := ⟨_, rfl⟩
  have alo : w.alo a = v.alo a := by
    rw [← hw]
    split
    · rfl
    split
    · exact airsOnly_alo (foldl_losesLo_airsOnly ..) a
    · rfl
  change let r := s.framed ((if a = 0 then v.loInvalid v.nextSample
    else if v.tx.claim.isSome ∧ (u.alo a).ramp = [] then allCars.foldl losesLo v else v).aloTarget a (u.alo a).freqHz (u.alo a).user); _
  rw [hw]
  have target := aloTarget_retargets w a (u.alo a).freqHz (u.alo a).user
  have only := aloTarget_tunesOnly w a (u.alo a).freqHz (u.alo a).user
  have level := aloTarget_cond w a (u.alo a).freqHz (u.alo a).user
  generalize w.aloTarget a (u.alo a).freqHz (u.alo a).user = r at *
  have isLost : (r.alo a).lost = true := by rw [target.lost, alo, lost]
  refine ⟨target.lock, isLost, target.freq, target.st, level.trans (lost_of_alo isLost), fun one claimed noRamp d c mem on => ?_⟩
  have served : v.tx.claim.isSome ∧ (u.alo a).ramp = [] := by
    rw [tx, one]
    exact ⟨claimed, noRamp⟩
  rw [if_neg (by omega), if_pos served] at hw
  have off := foldl_losesLo_air allCars_nodup mem (u := v) (by rw [airs]; exact on)
  rw [hw] at off
  have final : (s.framed r).air d c = w.air d c := (air_of_carriers (tunesOnly_fcar only) (tunesOnly_dcar only) d c)
  rw [final]
  exact off

/-- Settles O21: the lock, the failed search and the loss of lock. -/
theorem agileLos : Obligations.AgileLos := ⟨aloLock, aloSearchFail, aloUnlock⟩

end Sys2Proof.Proofs
end

section
/-! PROOF. The feeder sweep, the carriers' starts, LO_WAIT and the amplifier's pins (R44, R265, R266, R270 to R275). -/
namespace Sys2Proof.Proofs
open Sys2Proof Sys2Proof.Machine Sys2Proof.Laws

/-! ## The segments of a sweep -/

section
variable {s : State} {t : Nat} {g : Segment}

/-- ALO_TX at the next segment of its ramp, of which no point has been measured. -/
def nextSegment (u : State) : State :=
  let v := u.modAlo 1 (fun x => { x with seg := x.seg + 1 })
  { v with tx := { v.tx with sweep := { v.tx.sweep with inSeg := 0 } } }

theorem execRampSegmentEnd_of_over (hg : (s.advance t).aloTx.ramp[(s.advance t).aloTx.seg]? = some g)
    (hr : (s.advance t).aloTx.st = .ramping) (hw : (s.advance t).tx.sweep.st = .running)
    (hd : (s.advance t).aloTx.segStart + g.duration * perSample ≤ (s.advance t).now) :
    execRampSegmentEnd t s = match (s.advance t).aloTx.ramp[(s.advance t).aloTx.seg + 1]? with
      | some h => done s ((nextSegment (s.advance t)).aloTarget 1 h.startHz (nextSegment (s.advance t)).aloTx.user)
      | none => done s ((s.advance t).sweepEnd false .ok) := by
  unfold execRampSegmentEnd
  dsimp only
  rw [hg]
  exact if_pos ⟨hr, hw, hd⟩

end

theorem rampSegmentEnd : Rules.RampSegmentEnd := by
  intro s t g hs u hg hr hw hd
  have he := execRampSegmentEnd_of_over hg hr hw hd
  refine ⟨fun h more => ?_, fun last => ?_⟩
  · change execRampSegmentEnd t s = match u.aloTx.ramp[u.aloTx.seg + 1]? with
      | some h => done s ((nextSegment u).aloTarget 1 h.startHz (nextSegment u).aloTx.user)
      | none => done s (u.sweepEnd false .ok) at he
    rw [more] at he
    have target := aloTarget_retargets (nextSegment u) 1 h.startHz (nextSegment u).aloTx.user
    have tx := tunesOnly_tx (aloTarget_tunesOnly (nextSegment u) 1 h.startHz (nextSegment u).aloTx.user)
    dsimp only at he
    generalize (nextSegment u).aloTarget 1 h.startHz (nextSegment u).aloTx.user = r at *
    refine completes_of_done hs he ⟨target.seg, target.freq, target.lock, ?_, ?_⟩
    · rw [framed_tx, tx]
      rfl
    · rw [framed_tx, tx]
      exact hw
  · change execRampSegmentEnd t s = match u.aloTx.ramp[u.aloTx.seg + 1]? with
      | some h => done s ((nextSegment u).aloTarget 1 h.startHz (nextSegment u).aloTx.user)
      | none => done s (u.sweepEnd false .ok) at he
    rw [last] at he
    have ended := sweepEnd_over (s := u) (by rw [hw]; decide) false .ok
    dsimp only at he
    generalize u.sweepEnd false .ok = r at *
    refine completes_of_done hs he ⟨?_, ended.cxReq, ended.cxPrio⟩
    rw [framed_tx, ended.sweep]
    rfl

/-! ## The coexistence wires -/

/-- The grant wire at a level. -/
def granted (u : State) (level : Bool) : State := { u with tx := { u.tx with cxGnt := level } }

theorem sweepGo_of_ramp {s : State} {g : Segment} {gs : List Segment} (h : s.aloTx.ramp = g :: gs) : s.sweepGo =
    ({ s with tx := { s.tx with sweep := { s.tx.sweep with st := .waitLock } } } : State).aloTarget 1 g.startHz (s.idOf .alo 1) := by
  unfold State.sweepGo
  rw [h]
  rfl

section
variable {s : State} {t : Nat}

theorem execCxGrant_eq : execCxGrant t s =
    done s (if (s.advance t).tx.sweep.st = .waitGrant then (granted (s.advance t) true).sweepGo else granted (s.advance t) true) := rfl

theorem execCxWaitExpiry_of_waiting (hw : (s.advance t).tx.sweep.st = .waitGrant) (he : (s.advance t).tx.sweep.waitEnd ≤ (s.advance t).now) :
    execCxWaitExpiry t s = done s ((s.advance t).sweepEnd true .timeout) := congrArg (done s) (if_pos ⟨hw, he⟩)

theorem execCxGntFall_of_enabled (hc : fbit (s.advance t).tx.profile txCxEn = true)
    (hw : (s.advance t).tx.sweep.st = .waitLock ∨ (s.advance t).tx.sweep.st = .running) :
    execCxGntFall t s = done s ((granted (s.advance t) false).sweepEnd true .aborted) := congrArg (done s) (if_pos ⟨hc, hw⟩)

end

/-- The room for one more point: a full record is written first. -/
def sweepRoom (u : State) : State := if u.tx.sweep.part.length = 32 then u.sweepFlush false false else u

/-- After it the sweep has the points in hand that no full record took, and is otherwise as it was. -/
theorem sweepRoom_spec (u : State) : ∃ part : List (List Byte),
    State.hostOnly { u with tx := { u.tx with sweep := { u.tx.sweep with part := part } } } (sweepRoom u) ∧
    part.length = if u.tx.sweep.part.length = 32 then 0 else u.tx.sweep.part.length := by
  unfold sweepRoom
  split
  next full =>
    obtain ⟨part, flush, emptied, -⟩ := sweepFlush_spec u false false
    refine ⟨part, flush, ?_⟩
    rw [emptied (fun none => by rw [none] at full; exact absurd full (by decide))]
    rfl
  next => exact ⟨u.tx.sweep.part, rfl, rfl⟩

section
variable {s : State} {t : Nat} {g : Segment}

theorem execSweepPoint_of_passed (i : SweepIn) (hw : (s.advance t).tx.sweep.st = .running) (hr : (s.advance t).aloTx.st = .ramping)
    (hg : (s.advance t).aloTx.ramp[(s.advance t).aloTx.seg]? = some g)
    (hd : ((s.advance t).tx.sweep.inSeg + 1) * 2 ^ (s.advance t).tx.sweep.avg ≤ g.duration)
    (hn : (s.advance t).aloTx.segStart + ((s.advance t).tx.sweep.inSeg + 1) * 2 ^ (s.advance t).tx.sweep.avg * perSample ≤ (s.advance t).now) :
    ∃ (point : List Byte) (first : Nat) (time : Word64), execSweepPoint t i s = done s (
      let u := sweepRoom (s.advance t)
      { u with tx := { u.tx with sweep := { u.tx.sweep with
        points := u.tx.sweep.points + 1, inSeg := u.tx.sweep.inSeg + 1, part := u.tx.sweep.part ++ [point],
        partFirst := first, partTime := time } } }) := by
  unfold execSweepPoint
  dsimp only
  rw [hg]
  exact ⟨_, _, _, if_pos ⟨hw, hr, hd, hn⟩⟩

end

theorem sweepWires : Rules.SweepWires := by
  intro s t hs u
  refine ⟨fun idle => ?_, fun g gs waits ramp => ?_, fun waits over_ => ?_, fun enabled busy => ?_, fun i g runs ramps seg fits passed => ?_⟩
  · exact completes_of_done hs (execCxGrant_eq.trans (congrArg (done s) (if_neg idle))) rfl
  · have he := execCxGrant_eq.trans (congrArg (done s) (if_pos waits))
    rw [sweepGo_of_ramp (show (granted u true).aloTx.ramp = g :: gs from ramp)] at he
    have target := aloTarget_retargets ({ granted u true with tx := { (granted u true).tx with
      sweep := { (granted u true).tx.sweep with st := .waitLock } } } : State) 1 g.startHz ((granted u true).idOf .alo 1)
    have tx := tunesOnly_tx (aloTarget_tunesOnly ({ granted u true with tx := { (granted u true).tx with
      sweep := { (granted u true).tx.sweep with st := .waitLock } } } : State) 1 g.startHz ((granted u true).idOf .alo 1))
    change execCxGrant t s = done s (({ granted u true with tx := { (granted u true).tx with
      sweep := { (granted u true).tx.sweep with st := .waitLock } } } : State).aloTarget 1 g.startHz ((granted u true).idOf .alo 1)) at he
    generalize State.aloTarget _ 1 g.startHz ((granted u true).idOf .alo 1) = r at *
    refine completes_of_done hs he ⟨?_, ?_, target.freq, target.lock⟩
    · rw [framed_tx, tx]
      rfl
    · rw [framed_tx, tx]
  · have ended := sweepEnd_over (s := u) (by rw [waits]; decide) true .timeout
    have he := execCxWaitExpiry_of_waiting waits over_
    change execCxWaitExpiry t s = done s (u.sweepEnd true .timeout) at he
    generalize u.sweepEnd true .timeout = r at *
    refine completes_of_done hs he ⟨?_, ended.cxReq⟩
    rw [framed_tx, ended.sweep]
    rfl
  · have sweeping : (granted u false).tx.sweep.st ≠ .none := by
      show u.tx.sweep.st ≠ .none
      obtain h | h := busy <;> rw [h] <;> decide
    have ended := sweepEnd_over sweeping true .aborted
    have he := execCxGntFall_of_enabled enabled busy
    change execCxGntFall t s = done s ((granted u false).sweepEnd true .aborted) at he
    generalize (granted u false).sweepEnd true .aborted = r at *
    refine completes_of_done hs he ⟨ended.cxGnt, ?_, ended.cxReq⟩
    rw [framed_tx, ended.sweep]
    rfl
  · obtain ⟨point, first, time, he⟩ := execSweepPoint_of_passed i runs ramps seg fits passed
    obtain ⟨part, room, len⟩ := sweepRoom_spec u
    change execSweepPoint t i s = done s (
      let v := sweepRoom u
      { v with tx := { v.tx with sweep := { v.tx.sweep with
        points := v.tx.sweep.points + 1, inSeg := v.tx.sweep.inSeg + 1, part := v.tx.sweep.part ++ [point],
        partFirst := first, partTime := time } } }) at he
    generalize sweepRoom u = v at *
    have sweep : v.tx.sweep = { u.tx.sweep with part := part } := (congrArg Tx.sweep (hostOnly_tx room)).trans rfl
    refine completes_of_done hs he ⟨?_, ?_, ?_, framed_hostOnly ?_⟩
    · rw [framed_tx]
      exact (congrArg (fun w : Sweep => w.points + 1) sweep).trans rfl
    · rw [framed_tx]
      exact (congrArg (fun w : Sweep => w.inSeg + 1) sweep).trans rfl
    · rw [framed_tx]
      refine (congrArg (fun w : Sweep => (w.part ++ [point]).length) sweep).trans ?_
      rw [List.length_append, len]
      split <;> rfl
    · rw [framed_tx]
      rw [room]
      rfl

/-- Settles O22: a segment's end, the coexistence wires, and a point of the sweep. -/
theorem sweeps : Obligations.Sweeps := ⟨rampSegmentEnd, sweepWires⟩

/-! ## A carrier rises -/

/-- The run of a carrier that rises at `b`. -/
def risen (time : Word64) (b : Nat) (full : Bool) (a : AirRun) : AirRun := { a with
  st := .onAir, startAt := none, waitEnd := none, levelTicks := 0, startTime := time, riseAt := some b, full := full }

/-- The pins at a rise: PA_EN is high. -/
def pinsUp (s : State) (b : Nat) : State := { s with tx := { s.tx with
  paEn := true, paRiseAt := none, paFallAt := none, paSlope := none,
  paHighAt := if s.tx.paRamp then none else some (if s.yt7300 then b else b + perFrame) } }

/-- An FCAR's modulator begins with the rise. -/
def modulates (s : State) (d : Bool) (c b : Nat) : State := if d then s else s.modFcar c (fun r => { r with fm := r.fm.begin b })

theorem carrierOn_eq (s : State) (d : Bool) (c b : Nat) : s.carrierOn d c b =
    let v := modulates (s.modAir d c (risen (s.t64At b) b (s.yt7300 && !s.otherAir d c))) d c b
    ((pinsUp v b).slateT 0x0800 (mkId (pinsUp v b).selfDev (carRef d c)) b []).settleAir := rfl

theorem modFcar_air {s : State} {i : Nat} {f : FcarRun → FcarRun} (h : ∀ r, (f r).air = r.air) (d : Bool) (c : Nat) :
    (s.modFcar i f).air d c = s.air d c := by
  cases d with
  | true => rfl
  | false =>
    show ((s.modFcar i f).fcarR c).air = (s.fcarR c).air
    by_cases same : c = i
    · subst same
      by_cases here : c < s.fcar.length
      · rw [modFcar_fcarR_self here, h]
      · unfold State.fcarR State.modFcar
        dsimp only
        rw [modAt_getElem?_self, List.getElem?_eq_none (Nat.le_of_not_lt here)]
        rfl
    · rw [modFcar_fcarR_of_ne same]

theorem modulates_air (s : State) (e : Bool) (k b : Nat) (d : Bool) (c : Nat) : (modulates s e k b).air d c = s.air d c := by
  unfold modulates
  split
  · rfl
  · refine modFcar_air ?_ d c
    exact fun _ => rfl

/-- Carrier `c`, if it has no boundary to go off air at, and PA_EN, are the same in `t` as in `s`. -/
def staysUp (d : Bool) (c : Nat) (s t : State) : Prop :=
  (s.air d c).offAt = none → t.air d c = s.air d c ∧ t.tx.paEn = s.tx.paEn

theorem staysUp_trans {d : Bool} {c : Nat} {a b e : State} (h : staysUp d c a b) (k : staysUp d c b e) : staysUp d c a e := by
  intro none
  obtain ⟨air, pa⟩ := h none
  obtain ⟨air', pa'⟩ := k (by rw [air]; exact none)
  exact ⟨air'.trans air, pa'.trans pa⟩

/-- A carrier whose boundary to go off air has come does. -/
def airDue (s : State) (x : Bool × Nat) : State :=
  match (s.air x.1 x.2).offAt with
  | some b => if b ≤ s.now then s.carrierOff x.1 x.2 .drift true b else s
  | none => s

/-- PA_RAMP goes high once its instant has come. -/
def rampDue (s : State) : State :=
  match s.tx.paHighAt with
  | some t => if t ≤ s.now then { s with tx := { s.tx with paRamp := true, paHighAt := none } } else s
  | none => s

theorem airDue_staysUp (d : Bool) (c : Nat) (s : State) (x : Bool × Nat) : staysUp d c s (airDue s x) := by
  intro none
  unfold airDue
  split
  next off due =>
    have other : (d, c) ≠ (x.1, x.2) := fun same => by
      rw [← (Prod.mk.inj same).1, ← (Prod.mk.inj same).2, none] at due
      exact nomatch due
    split
    · exact ⟨carrierOff_air_of_ne _ _ _ _ other, (carrierOff_pinsMoved ..).paEn.trans (by rw [modAir_tx])⟩
    · exact ⟨rfl, rfl⟩
  next => exact ⟨rfl, rfl⟩

theorem rampDue_staysUp (d : Bool) (c : Nat) (s : State) : staysUp d c s (rampDue s) := by
  intro _
  unfold rampDue
  split
  · split <;> exact ⟨rfl, rfl⟩
  · exact ⟨rfl, rfl⟩

/-- The carriers whose boundary has come go off air, and no other one with them. -/
theorem settleAir_staysUp (d : Bool) (c : Nat) (s : State) : staysUp d c s s.settleAir := by
  unfold State.settleAir
  dsimp only
  generalize fallen : List.foldl _ s allCars = v
  have first : staysUp d c s v := by
    rw [← fallen]
    exact foldl_keeps (staysUp d c) (fun _ _ => ⟨rfl, rfl⟩) (fun _ _ _ => staysUp_trans) _ (airDue_staysUp d c) allCars s
  exact staysUp_trans first (rampDue_staysUp d c v)

/-- A carrier that rises is on air from its boundary on, with PA_EN high (R265, R270). -/
theorem carrierOn_up {s : State} {d : Bool} {c : Nat} (h : isCarrier s d c) (stays : (s.air d c).offAt = none) (b : Nat) :
    (∃ full, (s.carrierOn d c b).air d c = risen (s.t64At b) b full (s.air d c)) ∧ (s.carrierOn d c b).tx.paEn = true := by
  rw [carrierOn_eq]
  dsimp only
  have air : (modulates (s.modAir d c (risen (s.t64At b) b (s.yt7300 && !s.otherAir d c))) d c b).air d c =
      risen (s.t64At b) b (s.yt7300 && !s.otherAir d c) (s.air d c) := (modulates_air ..).trans (modAir_air_self h _)
  generalize modulates _ d c b = v at *
  have report := slateT_reportsOnly (pinsUp v b) 0x0800 (mkId (pinsUp v b).selfDev (carRef d c)) b []
  generalize (pinsUp v b).slateT _ _ b [] = w at *
  have airW : w.air d c = v.air d c := (air_of_carriers (reportsOnly_fcar report) (reportsOnly_dcar report) d c).trans rfl
  obtain ⟨kept, pa⟩ := settleAir_staysUp d c w (by rw [airW, air]; exact stays)
  exact ⟨⟨_, kept.trans (airW.trans air)⟩, pa.trans ((congrArg Tx.paEn (reportsOnly_tx report)).trans rfl)⟩

section
variable {s : State} {d : Bool} {c b : Nat} (hb : (s.air d c).startAt = some b)
include hb

theorem execCarrierStart_of_due (hst : ((s.advance b).air d c).st = .starting) (ha : ((s.advance b).air d c).startAt = some b)
    (hl : (s.advance b).carLoOk = true) : execCarrierStart d c s = done s
      ((if (s.advance b).driftOff then
        (s.advance b).modAir d c (fun a => { a with st := .offAir, cause := .drift, startAt := none, waitEnd := none })
      else (s.advance b).carrierOn d c b).endWait (waitCar d c) .ok b) := by
  unfold execCarrierStart
  rw [hb]
  exact if_pos ⟨hst, ha, hl⟩

theorem execCarrierResume_of_due (hst : ((s.advance b).air d c).st = .offAir) (ha : ((s.advance b).air d c).startAt = some b)
    (hl : (s.advance b).carLoOk = true) (hd : (s.advance b).driftOff = false) :
    execCarrierResume d c s = done s ((s.advance b).carrierOn d c b) := by
  unfold execCarrierResume
  rw [hb]
  exact if_pos ⟨hst, ha, hl, hd⟩

end

theorem endWait_air (s : State) (why : WaitFor) (st : Status) (t : Nat) (d : Bool) (c : Nat) : (s.endWait why st t).air d c = s.air d c :=
  air_of_carriers (answersOnly_fcar (endWait_answersOnly ..)) (answersOnly_dcar (endWait_answersOnly ..)) d c

theorem endWait_tx (s : State) (why : WaitFor) (st : Status) (t : Nat) : (s.endWait why st t).tx = s.tx :=
  answersOnly_tx (endWait_answersOnly ..)

theorem framed_air (s t : State) (d : Bool) (c : Nat) : (s.framed t).air d c = t.air d c := rfl

theorem carrierStarts : Rules.CarrierStarts := by
  intro s d c b hs _ hb u ha stays lo
  refine ⟨fun starts clear => ?_, fun starts drifts => ?_, fun off clear => ?_⟩
  · have here : isCarrier u d c := isCarrier_of_st (by rw [starts]; decide)
    have he := execCarrierStart_of_due hb starts ha lo
    obtain ⟨⟨full, air⟩, pa⟩ := carrierOn_up here stays b
    rw [show s.advance b = u from rfl, clear, if_neg Bool.false_ne_true] at he
    refine completes_of_done hs he ?_
    rw [framed_air, framed_tx, endWait_air, endWait_tx, air]
    exact ⟨rfl, rfl, rfl, rfl, pa⟩
  · have here : isCarrier u d c := isCarrier_of_st (by rw [starts]; decide)
    have he := execCarrierStart_of_due hb starts ha lo
    rw [show s.advance b = u from rfl, drifts, if_pos rfl] at he
    refine completes_of_done hs he ?_
    rw [framed_air, framed_tx, endWait_air, endWait_tx, modAir_air_self here, modAir_tx]
    exact ⟨rfl, rfl, rfl⟩
  · have here : isCarrier u d c := isCarrier_of_st (by rw [off]; decide)
    obtain ⟨⟨full, air⟩, pa⟩ := carrierOn_up here stays b
    have he := execCarrierResume_of_due hb off ha lo clear
    rw [show s.advance b = u from rfl] at he
    generalize u.carrierOn d c b = r at *
    refine completes_of_done hs he ?_
    rw [framed_air, air]
    exact ⟨rfl, rfl, pa⟩

/-! ## LO_WAIT expires -/

/-- The carriers are the same in `t` as in `s`. -/
structure SameCars (s t : State) : Prop where
  fcar : t.fcar = s.fcar
  dcar : t.dcar = s.dcar

namespace SameCars
theorem refl (s : State) : SameCars s s := ⟨rfl, rfl⟩
theorem trans {a b c : State} (h : SameCars a b) (k : SameCars b c) : SameCars a c := ⟨k.fcar.trans h.fcar, k.dcar.trans h.dcar⟩
theorem of_tunesOnly {s t : State} (h : tunesOnly s t) : SameCars s t := ⟨tunesOnly_fcar h, tunesOnly_dcar h⟩
theorem air {s t : State} (h : SameCars s t) (d : Bool) (c : Nat) : t.air d c = s.air d c := air_of_carriers h.fcar h.dcar d c
theorem life {s t : State} (h : SameCars s t) (d : Bool) (c : Nat) : t.life (carRef d c) = s.life (carRef d c) := by
  cases d
  · exact congrArg (fun l : List (Obj FcarRun) => ((l[c]?).map Obj.life).getD (Life.closed 0)) h.fcar
  · exact congrArg (fun l : List (Obj DcarRun) => ((l[c]?).map Obj.life).getD (Life.closed 0)) h.dcar
end SameCars

theorem releaseLo_sameCars (s : State) : SameCars s s.releaseLo := by
  unfold State.releaseLo
  split
  · dsimp only
    split
    · exact ⟨rfl, rfl⟩
    · refine .trans ?_ (.of_tunesOnly (tunesOnly_trans (modAlo_tunesOnly ..) (tunesOnly_of_reportsOnly (aloCond_reportsOnly _))))
      exact ⟨rfl, rfl⟩
  · exact .refl s

theorem txcalStart_sameCars (s : State) : SameCars s s.txcalStart := by
  unfold State.txcalStart State.txcalCond
  refine .trans ?_ (.of_tunesOnly (tunesOnly_of_reportsOnly (setCond_reportsOnly ..)))
  split
  · split
    · dsimp only
      split
      · have tuned := aloTarget_tunesOnly s 1 s.aloTx.freqHz s.devId
        exact ⟨(tunesOnly_fcar tuned :), (tunesOnly_dcar tuned :)⟩
      · exact ⟨rfl, rfl⟩
    · exact .refl s
  · exact .refl s

/-- The life of a carrier that is held without having started. -/
def heldCar (l : Life) : Life :=
  { l with cmd := .held, eff := .held, holdAt := none, dueAt := none, liveAt := none, viaGroup := false }

/-- A carrier held and idle. -/
def carIdle (u : State) (d : Bool) (c : Nat) : State :=
  (u.modLife (carRef d c) heldCar).modAir d c (fun a => { a with st := .idle, waitEnd := none })

theorem isCarrier_modLife {s : State} {d : Bool} {c : Nat} (h : isCarrier s d c) (f : Life → Life) : isCarrier (s.modLife (carRef d c) f) d c := by
  cases d
  · show c < (modAt c (Obj.withLife f) s.fcar).length
    rw [modAt_length]
    exact h
  · show c < (modAt c (Obj.withLife f) s.dcar).length
    rw [modAt_length]
    exact h

theorem life?_isSome_of_isCarrier {s : State} {d : Bool} {c : Nat} (h : isCarrier s d c) : (s.life? (carRef d c)).isSome = true := by
  cases d
  · show ((s.fcar[c]?).map Obj.life).isSome = true
    rw [List.getElem?_eq_getElem h]
    rfl
  · show ((s.dcar[c]?).map Obj.life).isSome = true
    rw [List.getElem?_eq_getElem h]
    rfl

theorem modAir_life (s : State) (d : Bool) (c : Nat) (f : AirRun → AirRun) : (s.modAir d c f).life (carRef d c) = s.life (carRef d c) := by
  cases d
  · exact congrArg (fun l : Option Life => l.getD (Life.closed 0)) (life_map_withRun _ s.fcar c c)
  · exact congrArg (fun l : Option Life => l.getD (Life.closed 0)) (life_map_withRun _ s.dcar c c)

theorem carIdle_spec {u : State} {d : Bool} {c : Nat} (h : isCarrier u d c) :
    (carIdle u d c).life (carRef d c) = heldCar (u.life (carRef d c)) ∧
    ((carIdle u d c).air d c).st = .idle ∧ ((carIdle u d c).air d c).waitEnd = none := by
  unfold carIdle
  rw [modAir_life, modLife_life_self (life?_isSome_of_isCarrier h), modAir_air_self (isCarrier_modLife h _)]
  exact ⟨rfl, rfl, rfl⟩

theorem execLoWaitExpiry_of_waiting {s : State} {d : Bool} {c w : Nat} (hw : (s.air d c).waitEnd = some w)
    (hst : ((s.advance w).air d c).st = .waitLo) : execLoWaitExpiry d c s =
      done s (carIdle ((s.advance w).endWait (waitCar d c) .loNotReady w) d c).releaseLo.txcalStart := by
  unfold execLoWaitExpiry
  rw [hw]
  exact if_pos hst

theorem loWaitExpires : Rules.LoWaitExpires := by
  intro s d c w hs _ hw hst
  have here : isCarrier (s.advance w) d c := isCarrier_of_st (by rw [hst]; decide)
  have answered := endWait_answersOnly (s.advance w) (waitCar d c) .loNotReady w
  have he := execLoWaitExpiry_of_waiting hw hst
  generalize (s.advance w).endWait (waitCar d c) .loNotReady w = v at *
  have there : isCarrier v d c := by
    unfold isCarrier
    rw [answersOnly_fcar answered, answersOnly_dcar answered]
    exact here
  obtain ⟨life, st, wait⟩ := carIdle_spec there
  have same := SameCars.trans (releaseLo_sameCars (carIdle v d c)) (txcalStart_sameCars _)
  generalize (carIdle v d c).releaseLo.txcalStart = r at *
  have final : (s.framed r).life (carRef d c) = r.life (carRef d c) := by cases d <;> rfl
  refine completes_of_done hs he ?_
  rw [final, framed_air, same.life, same.air, life]
  exact ⟨rfl, rfl, st, wait⟩

/-! ## The amplifier's pins -/

section
variable {s : State} {t : Nat}

theorem execPaEnRise_of_due (ht : s.tx.paRiseAt = some t) (hd : (s.advance t).tx.paRiseAt.isSome = true) : execPaEnRise s =
    done s { s.advance t with tx := { (s.advance t).tx with paEn := true, paRiseAt := none } } := by
  unfold execPaEnRise
  rw [ht]
  dsimp only
  rw [hd, Bool.or_true]

theorem execPaEnFall_of_due (ht : s.tx.paFallAt = some t) (hd : (s.advance t).tx.paFallAt.isSome = true) : execPaEnFall s =
    done s { s.advance t with tx := { (s.advance t).tx with paEn := false, paRamp := false, paSlope := none, paFallAt := none } } := by
  obtain ⟨f, hf⟩ := Option.isSome_iff_exists.mp hd
  unfold execPaEnFall
  rw [ht]
  dsimp only
  rw [hf]

end

/-- A carrier with a start boundary stands in one of the two lists. -/
theorem any_startAt {u : State} {d : Bool} {c : Nat} (h : (u.air d c).startAt.isSome = true) :
    (u.fcar.any (fun o => o.run.air.startAt.isSome) || u.dcar.any (fun o => o.run.air.startAt.isSome)) = true := by
  rw [Bool.or_eq_true, List.any_eq_true, List.any_eq_true]
  cases d with
  | false =>
    have here : c < u.fcar.length := lt_of_run_ne (d := FcarRun.reset) (fun same => by
      rw [show u.air false c = AirRun.reset from congrArg FcarRun.air same] at h
      exact absurd h (by decide))
    refine .inl ⟨u.fcar[c], List.getElem_mem here, ?_⟩
    have read : u.air false c = u.fcar[c].run.air := by
      show ((u.fcar[c]?.map Obj.run).getD FcarRun.reset).air = _
      rw [List.getElem?_eq_getElem here]
      rfl
    rw [← read]
    exact h
  | true =>
    have here : c < u.dcar.length := lt_of_run_ne (d := DcarRun.reset) (fun same => by
      rw [show u.air true c = AirRun.reset from congrArg DcarRun.air same] at h
      exact absurd h (by decide))
    refine .inr ⟨u.dcar[c], List.getElem_mem here, ?_⟩
    have read : u.air true c = u.dcar[c].run.air := by
      show ((u.dcar[c]?.map Obj.run).getD DcarRun.reset).air = _
      rw [List.getElem?_eq_getElem here]
      rfl
    rw [← read]
    exact h

theorem execYt7300Ramp_of_due {s : State} {t : Nat} {up : Bool} (hy : (s.advance t).yt7300 = true) (hn : (s.advance t).anyOnAir = false)
    (hd : if up then (∃ d c, (d, c) ∈ allCars ∧ ((s.advance t).air d c).startAt.isSome = true) else (s.advance t).tx.paFallAt.isSome = true) :
    execYt7300Ramp t up s = done s { s.advance t with tx := { (s.advance t).tx with
      paSlope := some ((s.advance t).now + (s.advance t).rampT, up), paRamp := false } } := by
  refine if_pos ?_
  rw [hy, hn, Bool.true_and]
  cases up with
  | true =>
    obtain ⟨d, c, -, starts⟩ := hd
    rw [if_pos rfl, any_startAt starts]
    rfl
  | false =>
    rw [if_neg Bool.false_ne_true] at hd ⊢
    rw [hd]
    rfl

theorem amplifierPins : Rules.AmplifierPins := by
  refine ⟨fun s t hs ht hd => ?_, fun s t hs ht hd => ?_, ?_⟩
  · exact completes_of_done hs (execPaEnRise_of_due ht hd) rfl
  · exact completes_of_done hs (execPaEnFall_of_due ht hd) rfl
  · intro s t up hs u hy hn hd
    exact completes_of_done hs (execYt7300Ramp_of_due hy hn hd) rfl

/-- Settles O24: the start boundaries, the end of LO_WAIT, and the amplifier's pins. -/
theorem carriers : Obligations.Carriers := ⟨carrierStarts, loWaitExpires, amplifierPins⟩

end Sys2Proof.Proofs
end

section
/-! PROOF. What carriers radiate: RDS slots, DCAR frames, levels (R249, R257, R260, R261, R264). -/
namespace Sys2Proof.Proofs
open Sys2Proof Sys2Proof.Machine Sys2Proof.Laws

/-! ## RDS slots -/

/-- Trimming the queue drops groups, and leaves what is radiated. -/
theorem trim_keeps (r : FcarRun) (k : Nat) : (r.trim k).rdsOn = r.rdsOn ∧ (r.trim k).lastSlot = r.lastSlot ∧ (r.trim k).fill = r.fill ∧
    (r.trim k).last = r.last := by
  unfold FcarRun.trim
  split <;> exact ⟨rfl, rfl, rfl, rfl⟩

theorem rdsB_lt (tp pty low : Nat) : (rdsB 0 tp pty low).toNat < 2048 := by
  unfold rdsB
  rw [BitVec.toNat_ofNat]
  omega

/-- The group that fills a slot carries the PI and is of type 0A. -/
theorem fillGroup_spec (pi : Word16) (v : Service) (seg free : Nat) :
    (fillGroup pi v seg free).head? = some pi ∧ rdsType (fillGroup pi v seg free) = 0 :=
  ⟨rfl, Nat.div_eq_of_lt (rdsB_lt _ _ _)⟩

/-- The run of an FCAR on which no insert is in progress, with one slot more. -/
def uninserted (r : FcarRun) : FcarRun := { r with
  air := { r.air with edits := [] }, slots := r.slots + 1, rtSeg := r.rtSeg, invert := r.invert, srcAb := r.srcAb, queue := r.queue }

/-- A slot that a group 0A of the service entry fills (R257). -/
def fills (pi : Word16) (v : Service) (free : Nat) (r : FcarRun) : FcarRun :=
  { r with fill := satU 16 (r.fill + 1), seg := (r.seg + 1) % 4, last := fillGroup pi v r.seg free, lastPrime := false }

/-- What a slot without an insert radiates. -/
def plainSlot (pi : Word16) (v : Service) (free k : Nat) (r : FcarRun) : FcarRun :=
  match r.queue with
  | g :: rest =>
    if g.1 ≤ k then
      match rdsAb g.2.1, r.invert with
      | some ab, some old =>
        if ab = old then { r with queue := rest, last := flipAb g.2.1, lastPrime := g.2.2 }
        else { r with queue := rest, last := g.2.1, lastPrime := g.2.2, srcAb := ab, invert := none }
      | some ab, none => { r with queue := rest, last := g.2.1, lastPrime := g.2.2, srcAb := ab }
      | none, _ => { r with queue := rest, last := g.2.1, lastPrime := g.2.2 }
    else fills pi v free r
  | [] => fills pi v free r

/-- The run after the slot. -/
def slotSent (pi : Word16) (v : Service) (free k : Nat) (r : FcarRun) : FcarRun :=
  let x := plainSlot pi v free k r
  ({ x with rdsOn := true, lastSlot := k, fm := r.fm.send k x.last x.lastPrime } : FcarRun).trim k

/-- The service entry that RDS of FCAR `c` names for a PI. -/
def slotService (s : State) (c : Nat) (pi : Word16) : Service :=
  s.svcOf ⟨s.idOf .fmd (fget (s.life ⟨.fcar, c⟩).cur fcRdsSrc), 0⟩ 0 pi.toNat

theorem rdsRadiate_of_uninserted {s : State} {c t : Nat} (hi : s.fcarInsert c t = none) (he : (s.fcarR c).air.edits = [])
    (k : Nat) (pi : Word16) : s.rdsRadiate c k t pi =
      s.fresh.2.modFcar c (fun _ => slotSent pi (slotService s c pi) s.fresh.1 k (uninserted (s.fcarR c))) := by
  unfold State.rdsRadiate
  rw [hi, he]
  rfl

theorem slotSent_spec (pi : Word16) (v : Service) (free k : Nat) (r : FcarRun) :
    (slotSent pi v free k r).rdsOn = true ∧ (slotSent pi v free k r).lastSlot = k ∧
    (slotSent pi v free k r).fill = (plainSlot pi v free k r).fill ∧ (slotSent pi v free k r).last = (plainSlot pi v free k r).last :=
  trim_keeps _ k

section
variable {pi : Word16} {v : Service} {free k : Nat} {r : FcarRun}

theorem plainSlot_of_empty (h : r.queue = [] ∨ ∃ g rest, r.queue = g :: rest ∧ k < g.1) : plainSlot pi v free k r = fills pi v free r := by
  unfold plainSlot
  obtain h | ⟨g, rest, h, late⟩ := h
  · rw [h]
  · rw [h]
    exact if_neg (Nat.not_le_of_lt late)

theorem plainSlot_of_group {g : Nat × List Word16 × Bool} {rest : List (Nat × List Word16 × Bool)} (h : r.queue = g :: rest) (due : g.1 ≤ k)
    (plain : rdsAb g.2.1 = none ∨ r.invert = none) :
    (plainSlot pi v free k r).last = g.2.1 ∧ (plainSlot pi v free k r).fill = r.fill := by
  unfold plainSlot
  rw [h]
  dsimp only
  rw [if_pos due]
  obtain none_ | none_ := plain
  · rw [none_]
    exact ⟨rfl, rfl⟩
  · rw [none_]
    cases rdsAb g.2.1 <;> exact ⟨rfl, rfl⟩

end

/-- The slot's number at the present instant. -/
def slotNow (u : State) : Nat := (u.timeAt u.now * 2375 * 2 + 208 * 256 * 10 ^ 9) / (2 * 208 * 256 * 10 ^ 9)

section
variable {s : State} {t c : Nat} (hr : (s.advance t).running .fcar c = true)
include hr

theorem execRdsSlot_of_radiating {pi : Word16} (hp : ((s.advance t).fmdR (fget ((s.advance t).life ⟨.fcar, c⟩).cur fcRdsSrc)).piConf = some pi)
    (ha : ((s.advance t).fcarR c).air.st = .onAir) (hs : fget ((s.advance t).life ⟨.fcar, c⟩).cur fcRdsSrc < 32)
    (hm : fbit ((s.advance t).life ⟨.fcar, c⟩).cur fcMono = false) :
    execRdsSlot t c s = done s ((s.advance t).rdsRadiate c (slotNow (s.advance t)) (s.advance t).now pi) := by
  unfold execRdsSlot
  dsimp only
  rw [if_pos hr, hp]
  exact if_pos ⟨ha, hs, hm⟩

theorem execRdsSlot_of_off (h : ((s.advance t).fmdR (fget ((s.advance t).life ⟨.fcar, c⟩).cur fcRdsSrc)).piConf = none ∨
    ((s.advance t).fcarR c).air.st ≠ .onAir) : execRdsSlot t c s = done s ((s.advance t).modFcar c (fun r => { r with
      rdsOn := false, lastSlot := slotNow (s.advance t), queue := r.queue.filter (fun g => decide (slotNow (s.advance t) < g.1)) })) := by
  unfold execRdsSlot
  dsimp only
  rw [if_pos hr]
  split
  · obtain none_ | off := h
    · rename_i some_
      rw [none_] at some_
      exact nomatch some_
    · exact if_neg (fun both => off both.1)
  · rfl

end

theorem rdsSlots : Rules.RdsSlots := by
  intro s t c hs u b k runs edits insert
  have here : c < u.fcar.length := lt_of_life_isSome (life?_isSome_of_running runs)
  have radiates {pi : Word16} (conf : (u.fmdR (fget b fcRdsSrc)).piConf = some pi) (on : (u.fcarR c).air.st = .onAir)
      (src : fget b fcRdsSrc < 32) (mono : fbit b fcMono = false) : ∃ v free, completes (.rdsSlot t c) s (fun r =>
        (r.fcarR c).rdsOn = true ∧ (r.fcarR c).lastSlot = k ∧ (r.fcarR c).fill = (plainSlot pi v free k (uninserted (u.fcarR c))).fill ∧
        (r.fcarR c).last = (plainSlot pi v free k (uninserted (u.fcarR c))).last) := by
    have he := execRdsSlot_of_radiating runs conf on src mono
    rw [rdsRadiate_of_uninserted insert edits] at he
    refine ⟨slotService u c pi, u.fresh.1, completes_of_done hs he ?_⟩
    have run (w : State) (x : FcarRun) (h : c < w.fcar.length) : ((s.framed (w.modFcar c (fun _ => x))).fcarR c) = x :=
      modFcar_fcarR_self h _
    rw [run u.fresh.2 _ here]
    exact slotSent_spec ..
  refine ⟨fun pi conf on src mono => ⟨fun empty => ?_, fun g rest queue due plain => ?_⟩, fun off => ?_⟩
  · obtain ⟨v, free, t', he, rdsOn, slot, fill, last⟩ := radiates conf on src mono
    rw [plainSlot_of_empty (r := uninserted (u.fcarR c)) empty] at fill last
    refine ⟨t', he, rdsOn, slot, fill, ?_⟩
    rw [last]
    exact fillGroup_spec ..
  · obtain ⟨v, free, t', he, rdsOn, slot, fill, last⟩ := radiates conf on src mono
    obtain ⟨group, same⟩ := plainSlot_of_group (pi := pi) (v := v) (free := free) (r := uninserted (u.fcarR c)) queue due plain
    exact ⟨t', he, rdsOn, slot, fill.trans same, last.trans group⟩
  · exact completes_of_done hs (execRdsSlot_of_off runs off) rfl

/-! ## DCAR frames -/

/-- What a radiated frame makes of a DCAR's run. -/
structure Radiates (count begins : Nat) (late absent : Bool) (x y : DcarRun) : Prop where
  count : y.count = count
  st : y.air.st = x.air.st
  late : y.late = if late then satU 16 (x.late + 1) else x.late
  absent : y.absentSrc = (x.absentSrc || absent)
  was : y.was = x.frame
  frame : y.frame.map DcarAir.begins = some begins

section
variable {s : State} {t c : Nat}

/-- A DCAR that radiates at `t`: it runs on air and is scheduled, nothing mutes it, and no word of its queue was lost. -/
structure DcarOnAir (u : State) (c : Nat) : Prop where
  runs : u.running .dcar c = true
  on : (u.dcarR c).air.st = .onAir
  scheduled : (u.dcarR c).c0.isSome = true
  heard : u.fenceMuted = false
  whole : (u.dcarR c).air.lost = false

/-- The source a DCAR names, the data of its frame that begins at `u`'s instant, and what has come of them. -/
def dcarSrc (u : State) (c : Nat) : Id := BitVec.ofNat 32 (fget (u.life ⟨.dcar, c⟩).cur dcSource)
def dcarData (u : State) (c : Nat) : Option (List AirCif × List AirFib) :=
  (u.airSrc (dcarSrc u c)).frame ((u.dcarR c).countAt (u.timeAt u.now))
def dcarGot (u : State) (c : Nat) : Option (List AirCif × List AirFib) :=
  if u.fenceMuted || (u.dcarR c).air.lost then none else dcarData u c

/-- The frame is late, or its source absent (R261, R264). -/
def dcarLate (u : State) (c : Nat) : Bool := (dcarGot u c).isNone && u.dcarAlive (dcarSrc u c) && !(u.dcarR c).air.lost
def dcarGone (u : State) (c : Nat) : Bool := (dcarGot u c).isNone && !dcarLate u c

theorem dcarLate_eq {u : State} {c : Nat} (h : DcarOnAir u c) : dcarLate u c = ((dcarData u c).isNone && u.dcarAlive (dcarSrc u c)) := by
  unfold dcarLate dcarGot
  rw [h.heard, h.whole]
  exact Bool.and_true _

theorem dcarGone_eq {u : State} {c : Nat} (h : DcarOnAir u c) : dcarGone u c = ((dcarData u c).isNone && !u.dcarAlive (dcarSrc u c)) := by
  unfold dcarGone
  rw [dcarLate_eq h]
  unfold dcarGot
  rw [h.heard, h.whole]
  show ((dcarData u c).isNone && !((dcarData u c).isNone && u.dcarAlive (dcarSrc u c))) = _
  cases (dcarData u c).isNone <;> rfl

theorem enters_of_onAir {u : State} {c : Nat} (h : DcarOnAir u c) :
    (u.running .dcar c && (u.dcarR c).air.st == .onAir && (u.dcarR c).c0.isSome) = true := by
  rw [h.runs, h.on, h.scheduled]
  rfl

/-- A frame that is radiated: reports, the DCAR's run, and a null symbol counted or not. -/
theorem execDcarFrame_of_radiating (h : DcarOnAir (s.advance t) c)
    (stays : (dcarGone (s.advance t) c && fbit ((s.advance t).life ⟨.dcar, c⟩).cur dcAbsent) = false) :
    ∃ (v : State) (f : DcarRun → DcarRun) (p : Bool), execDcarFrame t c s =
        done s (if p then { v.modDcar c f with tx := { (v.modDcar c f).tx with nulls := (v.modDcar c f).tx.nulls + 1 } } else v.modDcar c f) ∧
      (s.advance t).reportsOnly v ∧ Radiates (((s.advance t).dcarR c).countAt ((s.advance t).timeAt (s.advance t).now))
        (((s.advance t).dcarR c).beginAt ((s.advance t).timeAt (s.advance t).now)) (dcarLate (s.advance t) c) (dcarGone (s.advance t) c)
        ((s.advance t).dcarR c) (f ((s.advance t).dcarR c)) := by
  refine ⟨_, _, _, (if_pos (enters_of_onAir h)).trans (if_neg ?_), ?_, ⟨rfl, rfl, rfl, rfl, rfl, rfl⟩⟩
  · exact fun absent => Bool.false_ne_true (stays.symm.trans absent)
  · refine reportsOnly_trans (reportsOnly_trans (reportsOnly_trans ?_ (reportsOnly_ite (slateT_reportsOnly ..)).1)
      (foldl_reportsOnly _ ?_ _ _)) (foldl_reportsOnly _ ?_ _ _)
    · exact (reportsOnly_ite (slateDet_reportsOnly ..)).1
    · exact fun b i => slateAt_reportsOnly ..
    · exact fun b i => slateAt_reportsOnly ..

/-- An absent source that takes the DCAR off air (R261). -/
theorem execDcarFrame_of_gone (h : DcarOnAir (s.advance t) c) (gone : dcarGone (s.advance t) c = true)
    (leaves : fbit ((s.advance t).life ⟨.dcar, c⟩).cur dcAbsent = true) :
    ∃ f : DcarRun → DcarRun, (∀ x, (f x).absentSrc = true ∧ (f x).air.st = x.air.st) ∧
      execDcarFrame t c s = done s (((s.advance t).modDcar c f).carrierOff true c .absent true (s.advance t).now) := by
  refine ⟨_, ?_, (if_pos (enters_of_onAir h)).trans (if_pos ?_)⟩
  · exact fun x => ⟨rfl, rfl⟩
  · exact (congrArg₂ (· && ·) gone leaves).trans rfl

end

theorem dcarR_of_nulls (p : Bool) (w : State) (c : Nat) :
    (if p then { w with tx := { w.tx with nulls := w.tx.nulls + 1 } } else w : State).dcarR c = w.dcarR c := by
  split <;> rfl

/-- What a DCAR on air that goes on radiating is after its frame. -/
theorem dcarFrame_radiates {s : State} {t c : Nat} (hs : s.live) (h : DcarOnAir (s.advance t) c)
    (stays : (dcarGone (s.advance t) c && fbit ((s.advance t).life ⟨.dcar, c⟩).cur dcAbsent) = false) :
    completes (.dcarFrame t c) s (fun r => Radiates (((s.advance t).dcarR c).countAt ((s.advance t).timeAt (s.advance t).now))
      (((s.advance t).dcarR c).beginAt ((s.advance t).timeAt (s.advance t).now)) (dcarLate (s.advance t) c) (dcarGone (s.advance t) c)
      ((s.advance t).dcarR c) (r.dcarR c)) := by
  obtain ⟨v, f, p, he, report, run⟩ := execDcarFrame_of_radiating h stays
  refine completes_of_done hs he ?_
  have here : c < v.dcar.length := by
    rw [reportsOnly_dcar report]
    exact lt_of_life_isSome (life?_isSome_of_running h.runs)
  have same : v.dcarR c = (s.advance t).dcarR c := by
    unfold State.dcarR
    rw [reportsOnly_dcar report]
  have final (w : State) : (s.framed w).dcarR c = w.dcarR c := rfl
  rw [final, dcarR_of_nulls, modDcar_dcarR_self here, same]
  exact run

theorem dcarFrames : Rules.DcarFrames := by
  intro s t c hs u x b src count runs on scheduled heard whole
  have h : DcarOnAir u c := ⟨runs, on, scheduled, heard, whole⟩
  have late := dcarLate_eq h
  have gone := dcarGone_eq h
  refine ⟨fun lives => ?_, fun none_ dead stays => ?_, fun none_ dead leaves => ?_⟩
  · have notGone : dcarGone u c = false := by
      rw [gone]
      obtain got | alive := lives
      · rw [show (dcarData u c).isNone = false from Option.isNone_eq_false_iff.mpr got]
        rfl
      · rw [show u.dcarAlive (dcarSrc u c) = true from alive]
        exact Bool.and_false _
    obtain ⟨t', he, run⟩ := dcarFrame_radiates hs h (by rw [show s.advance t = u from rfl, notGone]; rfl)
    refine ⟨t', he, run.count, run.st.trans on, ?_, run.was, run.frame, ?_⟩
    · rw [run.absent, show dcarGone (s.advance t) c = false from notGone, Bool.or_false]
    · rw [run.late, show dcarLate (s.advance t) c = _ from late]
      by_cases got : ((u.airSrc src).frame count).isSome = true
      · rw [if_pos got, if_neg]
        rw [show (dcarData u c).isNone = false from Option.isNone_eq_false_iff.mpr got]
        exact Bool.false_ne_true
      · rw [if_neg got, if_pos]
        have alive : u.dcarAlive (dcarSrc u c) = true := lives.resolve_left got
        rw [alive, Bool.and_true]
        rw [← Option.not_isSome, show (dcarData u c).isSome = false from Bool.eq_false_iff.mpr got]
        rfl
  · have isGone : dcarGone u c = true := by
      rw [gone, show u.dcarAlive (dcarSrc u c) = false from dead, ← Option.not_isSome, show (dcarData u c).isSome = false from none_]
      rfl
    have notLate : dcarLate u c = false := by
      rw [late, show u.dcarAlive (dcarSrc u c) = false from dead, Bool.and_false]
    obtain ⟨t', he, run⟩ := dcarFrame_radiates hs h (by
      rw [show fbit ((s.advance t).life ⟨.dcar, c⟩).cur dcAbsent = false from stays, Bool.and_false])
    refine ⟨t', he, run.count, run.st.trans on, ?_, ?_⟩
    · rw [run.absent, show dcarGone (s.advance t) c = true from isGone, Bool.or_true]
    · rw [run.late, show dcarLate (s.advance t) c = false from notLate, if_neg Bool.false_ne_true]
  · have isGone : dcarGone u c = true := by
      rw [gone, show u.dcarAlive (dcarSrc u c) = false from dead, ← Option.not_isSome, show (dcarData u c).isSome = false from none_]
      rfl
    obtain ⟨f, hf, he⟩ := execDcarFrame_of_gone h isGone leaves
    have inside : c < u.dcar.length := lt_of_life_isSome (life?_isSome_of_running runs)
    have there : isCarrier (u.modDcar c f) true c := by
      show c < (modAt c (Obj.withRun f) u.dcar).length
      rw [modAt_length]
      exact inside
    have pins := carrierOff_pinsMoved (u.modDcar c f) true c .absent true u.now
    have air := carrierOff_air_self (u.modDcar c f) .absent true u.now there
    change execDcarFrame t c s = done s ((u.modDcar c f).carrierOff true c .absent true u.now) at he
    generalize (u.modDcar c f).carrierOff true c .absent true u.now = r at *
    refine completes_of_done hs he ⟨(congrArg AirRun.st air).trans rfl, (congrArg AirRun.cause air).trans rfl, ?_⟩
    have run : r.dcarR c = { f (u.dcarR c) with air := fallen .absent true u.now (f (u.dcarR c)).air } := by
      have same : r.dcarR c = ((u.modDcar c f).modAir true c (fallen .absent true u.now)).dcarR c := by
        unfold State.dcarR
        rw [pins.dcar]
      have outer := modDcar_dcarR_self (s := u.modDcar c f) there (fun y => { y with air := fallen .absent true u.now y.air })
      rw [modDcar_dcarR_self inside] at outer
      exact same.trans outer
    exact (congrArg DcarRun.absentSrc run).trans (hf _).1

/-! ## Levels -/

/-- A carrier's level counts as out in the lists too. -/
theorem any_levelOut {u : State} {d : Bool} {c : Nat} (here : isCarrier u d c) (h : (u.air d c).levelOut = true) :
    (u.fcar.any (fun o => o.run.air.levelOut) || u.dcar.any (fun o => o.run.air.levelOut)) = true := by
  rw [Bool.or_eq_true, List.any_eq_true, List.any_eq_true]
  cases d with
  | false =>
    have inside : c < u.fcar.length := here
    refine .inl ⟨u.fcar[c], List.getElem_mem inside, ?_⟩
    rw [← h, show u.air false c = ((u.fcar[c]?.map Obj.run).getD FcarRun.reset).air from rfl, List.getElem?_eq_getElem inside]
    rfl
  | true =>
    have inside : c < u.dcar.length := here
    refine .inr ⟨u.dcar[c], List.getElem_mem inside, ?_⟩
    rw [← h, show u.air true c = ((u.dcar[c]?.map Obj.run).getD DcarRun.reset).air from rfl, List.getElem?_eq_getElem inside]
    rfl

theorem execLevelOut_of_run {s : State} {t : Nat} {d : Bool} {c : Nat} (ha : ((s.advance t).air d c).st = .onAir)
    (hl : 16 ≤ ((s.advance t).air d c).levelTicks) :
    execLevelOut t d c s = done s (((s.advance t).modAir d c (fun a => { a with levelOut := true })).levelCond) := if_pos ⟨ha, hl⟩

theorem isCarrier_modAir {s : State} {d : Bool} {c : Nat} (h : isCarrier s d c) (f : AirRun → AirRun) : isCarrier (s.modAir d c f) d c := by
  cases d
  · show c < (modAt c (Obj.withRun _) s.fcar).length
    rw [modAt_length]
    exact h
  · show c < (modAt c (Obj.withRun _) s.dcar).length
    rw [modAt_length]
    exact h

/-- A carrier's reading at a tick: the run of readings outside, and its part of the condition. -/
def levelRead (ok : Bool) (m : Int) (mer : Int) (a : AirRun) : AirRun := { a with
  levelMeas := m, merTx := mer, levelTicks := if ok then 0 else a.levelTicks + 1, levelOut := a.levelOut && !ok }

theorem tickTrim_air {s : State} {d : Bool} {c : Nat} (h : isCarrier s d c) (err : Int) :
    ((s.tickTrim d c err).air d c).levelTicks = (s.air d c).levelTicks ∧ ((s.tickTrim d c err).air d c).levelOut = (s.air d c).levelOut := by
  unfold State.tickTrim
  dsimp only
  rw [modAir_air_self h]
  split
  · split <;> exact ⟨rfl, rfl⟩
  · exact ⟨rfl, rfl⟩

theorem modDcar_air {s : State} {i : Nat} {f : DcarRun → DcarRun} (h : ∀ r, (f r).air = r.air) (d : Bool) (c : Nat) :
    (s.modDcar i f).air d c = s.air d c := by
  cases d with
  | false => rfl
  | true =>
    show ((s.modDcar i f).dcarR c).air = (s.dcarR c).air
    by_cases same : c = i
    · subst same
      by_cases here : c < s.dcar.length
      · rw [modDcar_dcarR_self here, h]
      · unfold State.dcarR State.modDcar
        dsimp only
        rw [modAt_getElem?_self, List.getElem?_eq_none (Nat.le_of_not_lt here)]
        rfl
    · rw [modDcar_dcarR_of_ne same]

theorem tickCar_air {s : State} {d : Bool} {c : Nat} (i : TickIn) (on : (s.air d c).st = .onAir) :
    let ok := levelOk (s.life (carRef d c)).cur (i.levels.getD (if d then 24 + c else c) (levelSet (s.life (carRef d c)).cur))
    ((State.tickCar i s (d, c)).air d c).levelTicks = (if ok then 0 else (s.air d c).levelTicks + 1) ∧
    ((State.tickCar i s (d, c)).air d c).levelOut = ((s.air d c).levelOut && !ok) := by
  intro ok
  have here : isCarrier s d c := isCarrier_of_st (by rw [on]; decide)
  unfold State.tickCar
  dsimp only
  rw [if_pos on]
  have trimmed (err : Int) := tickTrim_air (isCarrier_modAir here (levelRead ok
    (i.levels.getD (if d then 24 + c else c) (levelSet (s.life (carRef d c)).cur)) (i.mers.getD (if d then 24 + c else c) 0))) err
  have read := modAir_air_self here (levelRead ok
    (i.levels.getD (if d then 24 + c else c) (levelSet (s.life (carRef d c)).cur)) (i.mers.getD (if d then 24 + c else c) 0))
  rw [read] at trimmed
  cases d with
  | true =>
    rw [if_pos rfl, modDcar_air]
    · exact trimmed _
    · exact fun _ => rfl
  | false =>
    rw [if_neg Bool.false_ne_true, modFcar_air]
    · exact trimmed _
    · exact fun _ => rfl

theorem levelOut : Rules.LevelOut := by
  refine ⟨?_, fun s i d c on => tickCar_air i on⟩
  intro s t d c hs u on ticks
  have here : isCarrier u d c := isCarrier_of_st (by rw [on]; decide)
  have air := modAir_air_self here (fun a => { a with levelOut := true })
  have he := execLevelOut_of_run on ticks
  have there := isCarrier_modAir here (fun a => { a with levelOut := true })
  change execLevelOut t d c s = done s ((u.modAir d c (fun a => { a with levelOut := true })).levelCond) at he
  generalize u.modAir d c (fun a => { a with levelOut := true }) = v at *
  have out : (v.air d c).levelOut = true := congrArg AirRun.levelOut air
  have report : v.reportsOnly v.levelCond := setCond_reportsOnly ..
  refine completes_of_done hs he ⟨?_, ?_⟩
  · rw [framed_air, air_of_carriers (reportsOnly_fcar report) (reportsOnly_dcar report)]
    exact out
  · refine (setCond_cond (n := fLevelOut) (by decide) v _).trans ?_
    exact any_levelOut there out

/-- Settles O23: the RDS slots, the DCAR frames, and the levels. -/
theorem carrierContent : Obligations.CarrierContent := ⟨rdsSlots, dcarFrames, levelOut⟩

end Sys2Proof.Proofs
end

section
/-! PROOF. What settling an instant without due commands keeps, and the gain control of the inputs (R46, R48 to R53, R58). -/
namespace Sys2Proof.Proofs
open Sys2Proof Sys2Proof.Machine Sys2Proof.Laws

/-! ## The boundaries that objects wait for -/

/-- The boundaries that a life has to come. -/
def bounds (l : Life) : Option Nat × Option Nat × Option (Nat × Blk) := (l.holdAt, l.dueAt, l.liveAt)

/-- Every object waits for the same boundaries. -/
def DueSame (s t : State) : Prop := ∀ r, bounds (t.life r) = bounds (s.life r)

theorem DueSame.refl (s : State) : DueSame s s := fun _ => rfl
theorem DueSame.trans {a b c : State} (h : DueSame a b) (k : DueSame b c) : DueSame a c := fun r => (k r).trans (h r)

theorem dueRefs_of_dueSame {s t : State} (h : DueSame s t) : t.dueRefs = s.dueRefs := by
  unfold State.dueRefs
  refine List.filter_congr (fun r _ => ?_)
  have same := h r
  unfold bounds at same
  obtain ⟨hold, due, live⟩ : _ ∧ _ ∧ _ := by simpa only [Prod.mk.injEq] using same
  dsimp only
  rw [hold, due, live]

theorem bounds_map_withLife {ρ : Type} {f : Life → Life} (h : ∀ l, bounds (f l) = bounds l) (l : List (Obj ρ)) (i j : Nat) :
    bounds ((((modAt i (Obj.withLife f) l)[j]?).map Obj.life).getD (Life.closed 0)) = bounds (((l[j]?).map Obj.life).getD (Life.closed 0)) := by
  by_cases same : j = i
  · subst same
    rw [life_map_withLife_self]
    cases l[j]? with
    | none => rfl
    | some o => exact h o.life
  · rw [modAt_getElem?_of_ne _ _ same]

theorem life_getD_withRun {ρ : Type} (f : ρ → ρ) (l : List (Obj ρ)) (i j : Nat) :
    (((modAt i (Obj.withRun f) l)[j]?).map Obj.life).getD (Life.closed 0) = ((l[j]?).map Obj.life).getD (Life.closed 0) := by
  rw [life_map_withRun]

section
variable (s : State) (i : Nat)

theorem modConv_life (f : ConvRun → ConvRun) (r : Ref) : (s.modConv i f).life r = s.life r := by
  obtain ⟨k, j⟩ := r
  cases k
  case conv => exact life_getD_withRun ..
  all_goals rfl

theorem modCap_life (f : CapRun → CapRun) (r : Ref) : (s.modCap i f).life r = s.life r := by
  obtain ⟨k, j⟩ := r
  cases k
  case cap => exact life_getD_withRun ..
  all_goals rfl

theorem modAir_life_any (d : Bool) (f : AirRun → AirRun) (r : Ref) : (s.modAir d i f).life r = s.life r := by
  obtain ⟨k, j⟩ := r
  cases d
  · cases k
    case fcar => exact life_getD_withRun ..
    all_goals rfl
  · cases k
    case dcar => exact life_getD_withRun ..
    all_goals rfl

theorem modLife_conv_dueSame {f : Life → Life} (h : ∀ l, bounds (f l) = bounds l) : DueSame s (s.modLife ⟨.conv, i⟩ f) := by
  intro ⟨k, j⟩
  cases k
  case conv => exact bounds_map_withLife h ..
  all_goals rfl

theorem modLife_cap_dueSame {f : Life → Life} (h : ∀ l, bounds (f l) = bounds l) : DueSame s (s.modLife ⟨.cap, i⟩ f) := by
  intro ⟨k, j⟩
  cases k
  case cap => exact bounds_map_withLife h ..
  all_goals rfl

end

theorem dueSame_of_life {s t : State} (h : ∀ r, t.life r = s.life r) : DueSame s t := fun r => by rw [h r]

/-! ## What settling keeps -/

/-- What settling leaves of an input's run: where its traffic goes, its corrections, its failure, its marks. -/
structure RunKept (x y : ConvRun) : Prop where
  onStandin : y.onStandin = x.onStandin
  corr : y.corr = x.corr
  left : y.left = x.left
  leftFrom : y.leftFrom = x.leftFrom
  failed : y.failed = x.failed
  marks : ∀ m, m ∈ x.marks → m ∈ y.marks

theorem RunKept.refl (x : ConvRun) : RunKept x x := ⟨rfl, rfl, rfl, rfl, rfl, fun _ => id⟩
theorem RunKept.trans {x y z : ConvRun} (h : RunKept x y) (k : RunKept y z) : RunKept x z :=
  ⟨k.onStandin.trans h.onStandin, k.corr.trans h.corr, k.left.trans h.left, k.leftFrom.trans h.leftFrom, k.failed.trans h.failed,
    fun m hm => k.marks m (h.marks m hm)⟩

/-- Settling with nothing due of the objects: time, boundaries, traffic, flags, and a Stand-in that visits no input. -/
structure Settled (s t : State) : Prop where
  now : t.now = s.now
  due : DueSame s t
  run : ∀ x, RunKept (s.convR x) (t.convR x)
  standin : (∀ x, s.standin.use ≠ .visit x) → t.standin = { s.standin with abandonAt := t.standin.abandonAt }
  flag : ∀ m, s.flag m = true → t.flag m = true

namespace Settled

theorem refl (s : State) : Settled s s := ⟨rfl, .refl s, fun _ => .refl _, fun _ => rfl, fun _ => id⟩

theorem trans {a b c : State} (h : Settled a b) (k : Settled b c) : Settled a c where
  now := k.now.trans h.now
  due := h.due.trans k.due
  run x := (h.run x).trans (k.run x)
  standin free := by
    have first := h.standin free
    have second := k.standin (fun x => by rw [first]; exact free x)
    rw [second, first]
  flag m hm := k.flag m (h.flag m hm)

theorem of_inputs {s t : State} (now : t.now = s.now) (due : DueSame s t) (conv : t.conv = s.conv) (standin : t.standin = s.standin)
    (flag : ∀ m, s.flag m = true → t.flag m = true) : Settled s t :=
  ⟨now, due, fun x => by unfold State.convR; rw [conv]; exact .refl _, fun _ => by rw [standin], flag⟩

theorem ite {s t u : State} {p : Prop} [Decidable p] (h : Settled s t) (k : Settled s u) : Settled s (if p then t else u) := by
  split
  exacts [h, k]

theorem of_answers {s t : State} (h : s.answersOnly t) (q : Quiet s t) : Settled s t :=
  .of_inputs (answersOnly_now h) (dueSame_of_life (fun r => by rw [h]; obtain ⟨k, i⟩ := r; cases k <;> rfl)) (answersOnly_conv h)
    (answersOnly_standin h) q.flag

end Settled

theorem modConv_run (s : State) (x : Nat) {f : ConvRun → ConvRun} (h : ∀ r, RunKept r (f r)) (y : Nat) :
    RunKept (s.convR y) ((s.modConv x f).convR y) := by
  by_cases same : y = x
  · subst same
    by_cases here : y < s.conv.length
    · rw [modConv_convR_self here]
      exact h _
    · have out (l : List (Obj ConvRun)) (hl : l.length = s.conv.length) : runOf l y ConvRun.reset = ConvRun.reset := by
        unfold runOf
        rw [List.getElem?_eq_none (by omega)]
        rfl
      have before : s.convR y = ConvRun.reset := out s.conv rfl
      have after : (s.modConv y f).convR y = ConvRun.reset := out _ (modAt_length ..)
      rw [before, after]
      exact .refl _
  · rw [modConv_convR_of_ne same]
    exact .refl _

theorem modConv_settled (s : State) (x : Nat) {f : ConvRun → ConvRun} (h : ∀ r, RunKept r (f r)) : Settled s (s.modConv x f) where
  now := rfl
  due := dueSame_of_life (modConv_life s x f)
  run := modConv_run s x h
  standin _ := rfl
  flag _ := id

/-! ## A gain state takes effect -/

/-- The life of an input whose gain fields read a state in force (R5, R48). -/
def gainLife (lna att : Nat) (l : Life) : Life :=
  { l with cur := fset (fset l.cur cvLna lna) cvAtt att, blk := if l.cmd = .run then fset (fset l.blk cvLna lna) cvAtt att else l.blk }

/-- The run of an input in a gain state from sample `k` on. -/
def gainRun (k lna att : Nat) (r : ConvRun) : ConvRun := { r with
  lna := lna, att := att, nextGain := none, agcSteps := satU 16 (r.agcSteps + 1), holdFrom := k + 1,
  gains := ((k, lna, att) :: r.gains).take 64 }

theorem gainNow_eq (s : State) (x lna att k : Nat) : s.gainNow x lna att k =
    if (s.convR x).lna = lna ∧ (s.convR x).att = att then s.modConv x (fun r => { r with nextGain := none })
    else ((s.modLife ⟨.conv, x⟩ (gainLife lna att)).modConv x (gainRun k lna att)).markConv x qGainStep k (some (k + 1)) := rfl

theorem modLife_conv_settled (s : State) (x : Nat) {f : Life → Life} (h : ∀ l, bounds (f l) = bounds l) :
    Settled s (s.modLife ⟨.conv, x⟩ f) where
  now := rfl
  due := modLife_conv_dueSame s x h
  run y := by
    have same : (s.modLife ⟨.conv, x⟩ f).convR y = s.convR y :=
      congrArg (fun o : Option ConvRun => o.getD ConvRun.reset) (run_map_withLife f s.conv x y)
    rw [same]
    exact .refl _
  standin _ := rfl
  flag _ := id

theorem gainNow_settled (s : State) (x lna att k : Nat) : Settled s (s.gainNow x lna att k) := by
  rw [gainNow_eq]
  split
  · refine modConv_settled s x ?_
    exact fun r => ⟨rfl, rfl, rfl, rfl, rfl, fun _ => id⟩
  · refine .trans (.trans (modLife_conv_settled s x ?_) (modConv_settled _ x (f := gainRun k lna att) ?_)) (modConv_settled _ x ?_)
    · exact fun _ => rfl
    · exact fun _ => ⟨rfl, rfl, rfl, rfl, rfl, fun _ => id⟩
    · exact fun _ => ⟨rfl, rfl, rfl, rfl, rfl, fun _ hm => List.mem_append_left _ hm⟩

theorem settleGain_settled (s : State) (x : Nat) : Settled s (s.settleGain x) := by
  unfold State.settleGain
  split
  · split
    · exact gainNow_settled ..
    · exact .refl s
  · exact .refl s

theorem settleGain_of_later {s : State} {x lna att k : Nat} (h : (s.convR x).nextGain = some (lna, att, k)) (hk : s.now < k * perSample) :
    s.settleGain x = s := by
  unfold State.settleGain
  rw [h]
  exact if_neg (Nat.not_le_of_lt hk)

theorem gainNow_convR_of_ne {s : State} {x y : Nat} (h : y ≠ x) (lna att k : Nat) : (s.gainNow x lna att k).convR y = s.convR y := by
  rw [gainNow_eq]
  split
  · exact modConv_convR_of_ne h _
  · refine (modConv_convR_of_ne h _).trans ((modConv_convR_of_ne h _).trans ?_)
    exact congrArg (fun o : Option ConvRun => o.getD ConvRun.reset) (run_map_withLife _ s.conv x y)

theorem settleGain_convR_of_ne {s : State} {x y : Nat} (h : y ≠ x) : (s.settleGain x).convR y = s.convR y := by
  unfold State.settleGain
  split
  · split
    · exact gainNow_convR_of_ne h ..
    · rfl
  · rfl

/-- A decided gain state whose boundary has come is in force. -/
theorem settleGain_convR_self {s : State} {x lna att k : Nat} (h : (s.convR x).nextGain = some (lna, att, k)) (hk : k * perSample ≤ s.now) :
    ((s.settleGain x).convR x).lna = lna ∧ ((s.settleGain x).convR x).att = att ∧ ((s.settleGain x).convR x).nextGain = none := by
  have here : x < s.conv.length := lt_of_run_ne (d := ConvRun.reset) (fun same => by
    rw [show s.convR x = ConvRun.reset from same] at h
    exact nomatch h)
  unfold State.settleGain
  rw [h]
  dsimp only
  rw [if_pos hk, gainNow_eq]
  split
  next same =>
    rw [modConv_convR_self here]
    exact ⟨same.1, same.2, rfl⟩
  next =>
    have there : x < (s.modLife ⟨.conv, x⟩ (gainLife lna att)).conv.length := by
      show x < (modAt x _ s.conv).length
      rw [modAt_length]
      exact here
    have last : x < ((s.modLife ⟨.conv, x⟩ (gainLife lna att)).modConv x (gainRun k lna att)).conv.length := by
      show x < (modAt x _ _).length
      rw [modAt_length]
      exact there
    rw [State.markConv, modConv_convR_self last, modConv_convR_self there]
    exact ⟨rfl, rfl, rfl⟩

/-! ## The other steps of settling -/

/-- A match abandoned at its boundary (R63). -/
def abandonDue (s : State) : State :=
  match s.standin.abandonAt with
  | some t =>
    if t ≤ s.now then
      let s := s.modStandin (fun d => { d with abandonAt := none })
      match s.standin.use with
      | .visit x => s.standinFree (x + 1)
      | _ => s
    else s
  | none => s

/-- Transmit corrections in force from their boundary on (R269). -/
def txValuesDue (s : State) : State :=
  match (s.unit 5).next with
  | some (t, vals) => if t ≤ s.now then s.modUnit 5 (fun c => { c with vals := vals, next := none }) else s
  | none => s

theorem settleCal_eq (s : State) : s.settleCal = txValuesDue (abandonDue s) := rfl

theorem abandonDue_settled (s : State) : Settled s (abandonDue s) := by
  unfold abandonDue
  split
  · split
    · dsimp only
      split
      next x visits => exact ⟨rfl, .refl s, fun _ => .refl _, fun free => absurd visits (free x), fun _ h => h⟩
      next => exact ⟨rfl, .refl s, fun _ => .refl _, fun _ => rfl, fun _ h => h⟩
    · exact .refl s
  · exact .refl s

theorem txValuesDue_settled (s : State) : Settled s (txValuesDue s) := by
  unfold txValuesDue
  split
  · split
    · exact .of_inputs rfl (.refl _) rfl rfl (fun _ h => h)
    · exact .refl s
  · exact .refl s

theorem settleCal_settled (s : State) : Settled s s.settleCal := by
  rw [settleCal_eq]
  exact .trans (abandonDue_settled s) (txValuesDue_settled _)

theorem hopOver_settled (s : State) (a : Nat) : Settled s (s.hopOver a) := by
  unfold State.hopOver State.modAlo
  split
  · split
    · split <;> exact .of_inputs rfl (.refl _) rfl rfl (fun _ => id)
    · exact .refl s
  · exact .refl s

theorem pilotSync_settled (s : State) (x : Nat) : Settled s (s.pilotSync x) := by
  unfold State.pilotSync
  dsimp only
  split
  · exact .refl s
  · refine modConv_settled s x ?_
    exact fun _ => ⟨rfl, rfl, rfl, rfl, rfl, fun _ => id⟩

/-- A pilot's span changes nothing of a gain state. -/
theorem pilotSync_gain (s : State) (x y : Nat) : ((s.pilotSync x).convR y).lna = (s.convR y).lna ∧
    ((s.pilotSync x).convR y).att = (s.convR y).att ∧ ((s.pilotSync x).convR y).nextGain = (s.convR y).nextGain := by
  unfold State.pilotSync
  dsimp only
  split
  · exact ⟨rfl, rfl, rfl⟩
  · by_cases same : y = x
    · subst same
      unfold State.convR State.modConv
      dsimp only
      rw [modAt_getElem?_self]
      cases s.conv[y]? with
      | none => exact ⟨rfl, rfl, rfl⟩
      | some o => exact ⟨rfl, rfl, rfl⟩
    · rw [modConv_convR_of_ne same]
      exact ⟨rfl, rfl, rfl⟩

theorem carrierOff_life (s : State) (d : Bool) (c : Nat) (cause : OffCause) (stays : Bool) (t : Nat) (r : Ref) :
    (s.carrierOff d c cause stays t).life r = s.life r := by
  have pins := carrierOff_pinsMoved s d c cause stays t
  refine Eq.trans ?_ (modAir_life_any s c d (fallen cause stays t) r)
  have only := pins.airs
  unfold airsOnly at only
  rw [pins.fcar, pins.dcar] at only
  rw [only]
  obtain ⟨k, i⟩ := r
  cases k <;> rfl

theorem paAfterFall_flags (s : State) (stop : Nat) : (s.paAfterFall stop).flags = s.flags := by
  unfold State.paAfterFall
  split <;> rfl

theorem carrierOff_flag {s : State} {m : Nat} (h : s.flag m = true) (d : Bool) (c : Nat) (cause : OffCause) (stays : Bool) (t : Nat) :
    (s.carrierOff d c cause stays t).flag m = true := by
  unfold State.carrierOff State.levelCond
  refine setCond_flag_of_flag ?_ _ _
  have first : (s.modAir d c (fallen cause stays t)).flag m = true := by cases d <;> exact h
  split
  · unfold State.flag
    rw [paAfterFall_flags]
    exact (slateT_quiet ..).flag m first
  · exact first

theorem carrierOff_settled (s : State) (d : Bool) (c : Nat) (cause : OffCause) (stays : Bool) (t : Nat) :
    Settled s (s.carrierOff d c cause stays t) := by
  have only := carrierOff_airsOnly s d c cause stays t
  exact .of_inputs (airsOnly_now only) (dueSame_of_life (carrierOff_life s d c cause stays t)) (by rw [only]) (by rw [only])
    (fun _ h => carrierOff_flag h ..)

theorem settleAir_settled (s : State) : Settled s s.settleAir := by
  unfold State.settleAir
  dsimp only
  generalize fallen : List.foldl _ s allCars = v
  have first : Settled s v := by
    rw [← fallen]
    refine foldl_keeps Settled .refl (fun _ _ _ => .trans) _ (fun b x => ?_) allCars s
    split
    · split
      · exact carrierOff_settled ..
      · exact .refl b
    · exact .refl b
  refine .trans first ?_
  split
  · split
    · exact .of_inputs rfl (.refl _) rfl rfl (fun _ => id)
    · exact .refl v
  · exact .refl v

theorem capHeld_bounds (l : Life) : bounds l.capHeld = bounds l := by
  unfold Life.capHeld
  split <;> rfl

theorem settleCap_settled (s : State) (c : Nat) : Settled s (s.settleCap c) := by
  have stopAt : Settled s (s.modCap c (fun r => { r with stopAt := none })) :=
    .of_inputs rfl (dueSame_of_life (modCap_life s c _)) rfl rfl (fun _ => id)
  have stops (v : State) : Settled v (v.capStop c) := by
    unfold State.capStop
    dsimp only
    exact .ite (.refl v) (.ite (.of_inputs rfl (dueSame_of_life (modCap_life v c _)) rfl rfl (fun _ h => h))
      (.of_inputs rfl (modLife_cap_dueSame v c capHeld_bounds) rfl rfl (fun _ h => h)))
  unfold State.settleCap
  split
  · split
    · exact stopAt.trans (stops _)
    · exact .refl s
  · exact .refl s

theorem endFirst_quiet (s : State) (why : WaitFor) (st : Status) (t : Nat) : Quiet s (s.endFirst why st t) := by
  unfold State.endFirst
  split
  · exact endOne_quiet ..
  · exact .refl s

/-- A TIME_PROFILE whose boundary has come is in force, and its NVM_COMMIT ends. -/
def profileDue (s : State) : State :=
  match s.tb.profileNext with
  | some (t, p) =>
    if t ≤ s.now then
      (({ s with tb := { s.tb with profile := p, profileNext := none } } : State)).endFirst (.nvm 3) .ok t
    else s
  | none => s

theorem profileDue_settled (s : State) : Settled s (profileDue s) := by
  unfold profileDue
  split
  · split
    · refine .trans ?_ (.of_answers (endFirst_answersOnly ..) (endFirst_quiet ..))
      exact .of_inputs rfl (.refl _) rfl rfl (fun _ => id)
    · exact .refl s
  · exact .refl s

/-! ## Settling -/

/-- What is due of the inputs, the Agile LOs and the pilots. -/
def inputsSettled (s : State) : State :=
  (List.range 4).foldl State.pilotSync ((((List.range 4).foldl State.settleGain s).settleCal.hopOver 0).hopOver 1)

theorem foldl_settled {α : Type} {f : State → α → State} (h : ∀ s a, Settled s (f s a)) (l : List α) (s : State) : Settled s (l.foldl f s) :=
  foldl_keeps Settled .refl (fun _ _ _ => .trans) f h l s

theorem inputsSettled_settled (s : State) : Settled s (inputsSettled s) := by
  unfold inputsSettled
  have gains := foldl_settled settleGain_settled (List.range 4) s
  generalize List.foldl State.settleGain s (List.range 4) = v at *
  have rest := Settled.trans (Settled.trans (settleCal_settled v) (hopOver_settled _ 0)) (hopOver_settled _ 1)
  generalize (v.settleCal.hopOver 0).hopOver 1 = w at *
  exact .trans (.trans gains rest) (foldl_settled pilotSync_settled (List.range 4) w)

theorem settle_eq (s : State) : s.settle =
    profileDue ((inputsSettled s).dueRefs.foldl State.settleRef ((List.range 16).foldl State.settleCap (inputsSettled s).settleAir)) := by
  unfold State.settle inputsSettled
  dsimp only
  generalize List.foldl State.settleRef _ _ = v
  rfl

theorem settle_of_noneDue {s : State} (h : s.dueRefs = []) :
    s.settle = profileDue ((List.range 16).foldl State.settleCap (inputsSettled s).settleAir) := by
  rw [settle_eq, dueRefs_of_dueSame (inputsSettled_settled s).due, h, List.foldl_nil]

theorem lateSettled (s : State) : Settled s (profileDue ((List.range 16).foldl State.settleCap s.settleAir)) := by
  have caps := foldl_settled settleCap_settled (List.range 16) s.settleAir
  generalize List.foldl State.settleCap s.settleAir (List.range 16) = v at *
  exact .trans (.trans (settleAir_settled s) caps) (profileDue_settled v)

theorem settle_settled {s : State} (h : s.dueRefs = []) : Settled s s.settle := by
  rw [settle_of_noneDue h]
  exact .trans (inputsSettled_settled s) (lateSettled _)

/-! ## The gain state of an input after settling -/

/-- The gain state of input `x`, in force and to come, is the same. -/
structure GainSame (x : Nat) (s t : State) : Prop where
  lna : (t.convR x).lna = (s.convR x).lna
  att : (t.convR x).att = (s.convR x).att
  next : (t.convR x).nextGain = (s.convR x).nextGain

namespace GainSame
variable {x : Nat}
theorem refl (s : State) : GainSame x s s := ⟨rfl, rfl, rfl⟩
theorem trans {a b c : State} (h : GainSame x a b) (k : GainSame x b c) : GainSame x a c :=
  ⟨k.lna.trans h.lna, k.att.trans h.att, k.next.trans h.next⟩
theorem of_convR {s t : State} (h : t.convR x = s.convR x) : GainSame x s t := by
  constructor <;> rw [h]
theorem of_conv {s t : State} (h : t.conv = s.conv) : GainSame x s t := .of_convR (by unfold State.convR; rw [h])
theorem ite {s t u : State} {p : Prop} [Decidable p] (h : GainSame x s t) (k : GainSame x s u) : GainSame x s (if p then t else u) := by
  split
  exacts [h, k]
end GainSame

theorem foldl_gainSame {α : Type} {x : Nat} {f : State → α → State} (h : ∀ s a, GainSame x s (f s a)) (l : List α) (s : State) :
    GainSame x s (l.foldl f s) := foldl_keeps (GainSame x) .refl (fun _ _ _ => .trans) f h l s

section
variable {x : Nat}

theorem settleCal_gainSame (s : State) : GainSame x s s.settleCal := by
  have first : GainSame x s (abandonDue s) := by
    unfold abandonDue
    split
    · refine .ite ?_ (.refl s)
      dsimp only
      split <;> exact .of_conv rfl
    · exact .refl s
  have second (v : State) : GainSame x v (txValuesDue v) := by
    unfold txValuesDue
    split
    · exact .ite (.of_conv rfl) (.refl v)
    · exact .refl v
  rw [settleCal_eq]
  exact first.trans (second _)

theorem hopOver_gainSame (s : State) (a : Nat) : GainSame x s (s.hopOver a) := by
  unfold State.hopOver State.modAlo
  split
  · exact .ite (.ite (.of_conv rfl) (.of_conv rfl)) (.refl s)
  · exact .refl s

theorem pilotSync_gainSame (s : State) (y : Nat) : GainSame x s (s.pilotSync y) := by
  obtain ⟨lna, att, next⟩ := pilotSync_gain s y x
  exact ⟨lna, att, next⟩

theorem settleAir_gainSame (s : State) : GainSame x s s.settleAir := by
  unfold State.settleAir
  dsimp only
  generalize fallen : List.foldl _ s allCars = v
  have first : GainSame x s v := by
    rw [← fallen]
    refine foldl_gainSame (fun b y => ?_) allCars s
    split
    · exact .ite (.of_conv (by rw [carrierOff_airsOnly])) (.refl b)
    · exact .refl b
  refine .trans first ?_
  split
  · exact .ite (.of_conv rfl) (.refl v)
  · exact .refl v

theorem settleCap_gainSame (s : State) (c : Nat) : GainSame x s (s.settleCap c) := by
  have stops (v : State) : GainSame x v (v.capStop c) := by
    unfold State.capStop
    dsimp only
    exact .ite (.refl v) (.ite (.of_conv rfl) (.of_conv rfl))
  unfold State.settleCap
  split
  · refine .ite (.trans ?_ (stops _)) (.refl s)
    exact .of_conv rfl
  · exact .refl s

theorem profileDue_gainSame (s : State) : GainSame x s (profileDue s) := by
  unfold profileDue
  split
  · refine .ite (.trans ?_ (.of_conv (answersOnly_conv (endFirst_answersOnly ..)))) (.refl s)
    exact .of_conv rfl
  · exact .refl s

theorem foldl_settleGain_later {s : State} {lna att k : Nat} (h : (s.convR x).nextGain = some (lna, att, k)) (hk : s.now < k * perSample)
    (l : List Nat) : GainSame x s (l.foldl State.settleGain s) := by
  induction l generalizing s with
  | nil => exact .refl s
  | cons y l ih =>
    have step : GainSame x s (s.settleGain y) := by
      by_cases same : y = x
      · rw [same, settleGain_of_later h hk]
        exact .refl s
      · exact .of_convR (settleGain_convR_of_ne (Ne.symm same))
    exact .trans step (ih (step.next.trans h) (by rw [(settleGain_settled s y).now]; exact hk))

theorem foldl_settleGain_of_not_mem {l : List Nat} (h : x ∉ l) (s : State) : GainSame x s (l.foldl State.settleGain s) := by
  induction l generalizing s with
  | nil => exact .refl s
  | cons y l ih =>
    rw [List.mem_cons, not_or] at h
    exact .trans (.of_convR (settleGain_convR_of_ne h.1)) (ih h.2 _)

/-- A decided gain state whose boundary has come is in force after the fold over the inputs. -/
theorem foldl_settleGain_due {lna att k : Nat} {l : List Nat} (distinct : l.Nodup) (mem : x ∈ l) {s : State}
    (h : (s.convR x).nextGain = some (lna, att, k)) (hk : k * perSample ≤ s.now) :
    ((l.foldl State.settleGain s).convR x).lna = lna ∧ ((l.foldl State.settleGain s).convR x).att = att ∧
    ((l.foldl State.settleGain s).convR x).nextGain = none := by
  induction l generalizing s with
  | nil => exact absurd mem List.not_mem_nil
  | cons y l ih =>
    rw [List.nodup_cons] at distinct
    rw [List.foldl_cons]
    obtain rfl | inside := List.mem_cons.mp mem
    · obtain ⟨lna', att', next⟩ := settleGain_convR_self h hk
      have kept := foldl_settleGain_of_not_mem distinct.1 (s.settleGain x)
      exact ⟨kept.lna.trans lna', kept.att.trans att', kept.next.trans next⟩
    · have other : x ≠ y := fun same => distinct.1 (same ▸ inside)
      refine ih distinct.2 inside ?_ ?_
      · rw [settleGain_convR_of_ne other]
        exact h
      · rw [(settleGain_settled s y).now]
        exact hk

/-- After the gains, settling leaves every gain state as it is. -/
theorem settle_gainSame {s : State} (h : s.dueRefs = []) : GainSame x ((List.range 4).foldl State.settleGain s) s.settle := by
  rw [settle_of_noneDue h]
  unfold inputsSettled
  generalize List.foldl State.settleGain s (List.range 4) = v
  have rest := GainSame.trans (GainSame.trans (settleCal_gainSame (x := x) v) (hopOver_gainSame _ 0)) (hopOver_gainSame _ 1)
  generalize (v.settleCal.hopOver 0).hopOver 1 = w at *
  have pilots := foldl_gainSame (x := x) pilotSync_gainSame (List.range 4) w
  generalize List.foldl State.pilotSync w (List.range 4) = p at *
  have caps := foldl_gainSame (x := x) settleCap_gainSame (List.range 16) p.settleAir
  generalize List.foldl State.settleCap p.settleAir (List.range 16) = q at *
  exact .trans (.trans rest pilots) (.trans (.trans (settleAir_gainSame p) caps) (profileDue_gainSame q))

end

/-! ## AGC -/

section
variable {s : State} {t x peak : Nat}

/-- The conditions under which the AGC of an input attacks on a peak (R50). -/
theorem agc_attacks (ha : (s.agcActs x (s.index - 1)) = true) (hp : peakReaches peak (fget (s.convBlk x) cvAgcHi) = true)
    (hf : (s.convR x).attackFrom ≤ s.index - 1) (hn : (s.convR x).nextGain = none) :
    (s.agcActs x (s.index - 1) && peakReaches peak (fget (s.convBlk x) cvAgcHi) && decide ((s.convR x).attackFrom ≤ s.index - 1) &&
      (s.convR x).nextGain.isNone) = true := by
  rw [ha, hp, decide_eq_true hf, hn]
  rfl

/-- The gain state after an attack by `step`. -/
def attacked (g : Int) (step : Nat) : Nat × Nat := ladder (max (g - step) (-30))

theorem execAgcAttack_of_attack
    (h : ((s.advance t).agcActs x ((s.advance t).index - 1) && peakReaches peak (fget ((s.advance t).convBlk x) cvAgcHi) &&
      decide (((s.advance t).convR x).attackFrom ≤ (s.advance t).index - 1) && ((s.advance t).convR x).nextGain.isNone) = true) :
    execAgcAttack t x peak false s =
      let u := s.advance t
      let g := gainDb (u.convR x).lna (u.convR x).att
      if g ≤ -30 then done s (u.modConv x (fun r => { r with limit := true })).agcCond
      else done s (u.modConv x (fun r => { r with
        nextGain := some ((attacked g (fget (u.convBlk x) cvAttackStep)).1, (attacked g (fget (u.convBlk x) cvAttackStep)).2, u.index - 1 + 2),
        attackFrom := u.index - 1 + 2 })) := if_pos h

/-- An input with a clipped sample `k`: counted and marked. -/
def clipped (u : State) (x : Nat) : State :=
  (u.modConv x (fun r => { r with clipCnt := satU 16 (r.clipCnt + 1) })).markConv x qClip (u.index - 1) (some (u.index - 1 + 1))

theorem execAgcAttack_clip (hx : x < 4) (hr : (s.advance t).running .conv x = true) : execAgcAttack t x peak true s =
    let v := clipped (s.advance t) x
    if v.agcActs x ((s.advance t).index - 1) && peakReaches peak (fget (v.convBlk x) cvAgcHi) &&
        decide ((v.convR x).attackFrom ≤ (s.advance t).index - 1) && (v.convR x).nextGain.isNone then
      if gainDb (v.convR x).lna (v.convR x).att ≤ -30 then done s (v.modConv x (fun r => { r with limit := true })).agcCond
      else done s (v.modConv x (fun r => { r with
        nextGain := some ((attacked (gainDb (v.convR x).lna (v.convR x).att) (fget (v.convBlk x) cvAttackStep)).1,
          (attacked (gainDb (v.convR x).lna (v.convR x).att) (fget (v.convBlk x) cvAttackStep)).2, (s.advance t).index - 1 + 2),
        attackFrom := (s.advance t).index - 1 + 2 }))
    else done s v := by
  unfold execAgcAttack
  dsimp only
  rw [if_pos (show (true && decide (x < 4) && (s.advance t).running .conv x) = true by rw [hr, decide_eq_true hx]; rfl)]
  rfl

end

theorem any_limit {u : State} {x : Nat} (here : x < u.conv.length) (h : (u.convR x).limit = true) : u.conv.any (fun o => o.run.limit) = true := by
  rw [List.any_eq_true]
  refine ⟨u.conv[x], List.getElem_mem here, ?_⟩
  rw [← h, show u.convR x = (u.conv[x]?.map Obj.run).getD ConvRun.reset from rfl, List.getElem?_eq_getElem here]
  rfl

theorem agcActs_running {s : State} {x k : Nat} (h : s.agcActs x k = true) : s.running .conv x = true := by
  unfold State.agcActs at h
  simp only [Bool.and_eq_true] at h
  exact h.1.1.1.1.2

theorem lt_of_running_conv {s : State} {x : Nat} (h : s.running .conv x = true) : x < s.conv.length :=
  lt_of_life_isSome (life?_isSome_of_running h)

theorem agcCond_convR (s : State) (x : Nat) : s.agcCond.convR x = s.convR x := by
  unfold State.convR
  rw [show s.agcCond.conv = s.conv from reportsOnly_conv (setCond_reportsOnly ..)]

theorem framed_convR (s t : State) (x : Nat) : (s.framed t).convR x = t.convR x := rfl

theorem clipped_convR {u : State} {x : Nat} (here : x < u.conv.length) : (clipped u x).convR x =
    { u.convR x with clipCnt := satU 16 ((u.convR x).clipCnt + 1),
                     marks := (u.convR x).marks ++ [⟨u.index - 1, some (u.index - 1 + 1), qClip⟩] } := by
  unfold clipped State.markConv
  have there : x < (u.modConv x (fun r => { r with clipCnt := satU 16 (r.clipCnt + 1) })).conv.length := by
    show x < (modAt x _ u.conv).length
    rw [modAt_length]
    exact here
  rw [modConv_convR_self there, modConv_convR_self here]

theorem clipped_eq (u : State) (x : Nat) : clipped u x = u.modConv x (fun c => { c with
    clipCnt := satU 16 (c.clipCnt + 1), marks := c.marks ++ [⟨u.index - 1, some (u.index - 1 + 1), qClip⟩] }) := by
  have twice (f g : Obj ConvRun → Obj ConvRun) (l : List (Obj ConvRun)) (i : Nat) : modAt i g (modAt i f l) = modAt i (g ∘ f) l := by
    induction l generalizing i with
    | nil => simp [modAt]
    | cons a l ih =>
      cases i with
      | zero => rfl
      | succ i => exact congrArg (a :: ·) (ih i)
  exact congrArg (fun l : List (Obj ConvRun) => ({ u with conv := l } : State)) (twice _ _ u.conv x)

theorem clipped_agcActs (u : State) (x k : Nat) : (clipped u x).agcActs x k = u.agcActs x k := by
  have life (r : Ref) : (clipped u x).life r = u.life r := (modConv_life ..).trans (modConv_life ..)
  have blank : ((clipped u x).convR x).blankEnd = (u.convR x).blankEnd := by
    rw [clipped_eq]
    by_cases here : x < u.conv.length
    · rw [modConv_convR_self here]
    · unfold State.convR State.modConv
      dsimp only
      rw [modAt_getElem?_self, List.getElem?_eq_none (Nat.le_of_not_lt here)]
      rfl
  unfold State.agcActs State.running State.convBlk
  rw [life, blank]

theorem agcAttack : Rules.AgcAttack := by
  intro s t x peak hs u k g
  refine ⟨fun acts reaches from_ none_ => ⟨fun low => ?_, fun high => ?_⟩, fun inside runs idle => ?_, fun inside runs => ?_⟩
  · have he := execAgcAttack_of_attack (agc_attacks acts reaches from_ none_)
    dsimp only at he
    rw [if_pos (show gainDb ((s.advance t).convR x).lna ((s.advance t).convR x).att ≤ -30 from low)] at he
    have here := lt_of_running_conv (agcActs_running acts)
    have run := modConv_convR_self here (fun r => { r with limit := true })
    refine completes_of_done hs he ?_
    rw [framed_convR, agcCond_convR]
    refine ⟨congrArg ConvRun.limit run, ?_, (congrArg ConvRun.nextGain run).trans none_⟩
    refine (setCond_cond (n := fAgcLimit) (by decide) _ _).trans (any_limit (x := x) ?_ (congrArg ConvRun.limit run))
    show x < (modAt x _ u.conv).length
    rw [modAt_length]
    exact here
  · have he := execAgcAttack_of_attack (agc_attacks acts reaches from_ none_)
    dsimp only at he
    rw [if_neg (show ¬ gainDb ((s.advance t).convR x).lna ((s.advance t).convR x).att ≤ -30 from Int.not_le.mpr high)] at he
    exact completes_of_done hs he rfl
  · have he := execAgcAttack_clip (peak := peak) inside runs
    dsimp only at he
    rw [clipped_agcActs, show (s.advance t).agcActs x ((s.advance t).index - 1) = false from idle, if_neg (by simp)] at he
    exact completes_of_done hs he (congrArg s.framed (clipped_eq u x))
  · have here := lt_of_running_conv runs
    have he := execAgcAttack_clip (peak := peak) inside runs
    have run := clipped_convR here
    have there : x < (clipped u x).conv.length := by
      rw [clipped_eq]
      show x < (modAt x _ u.conv).length
      rw [modAt_length]
      exact here
    dsimp only at he
    change execAgcAttack t x peak true s = if (_ : Bool) = true then _ else done s (clipped u x) at he
    split at he
    · split at he
      · refine completes_of_done hs he ?_
        rw [framed_convR, agcCond_convR, modConv_convR_self there, show clipped (s.advance t) x = clipped u x from rfl, run]
        exact ⟨rfl, rfl⟩
      · refine completes_of_done hs he ?_
        rw [framed_convR, modConv_convR_self there, show clipped (s.advance t) x = clipped u x from rfl, run]
        exact ⟨rfl, rfl⟩
    · refine completes_of_done hs he ?_
      rw [framed_convR, run]
      exact ⟨rfl, rfl⟩

section
variable {s : State} {t x peak : Nat}

theorem execAgcRelease_of_quiet
    (ha : (s.advance t).agcActs x ((s.advance t).index - 64 * 2 ^ fget ((s.advance t).convBlk x) cvAgcHold) = true)
    (hs : 64 * 2 ^ fget ((s.advance t).convBlk x) cvAgcHold ≤ (s.advance t).index)
    (hh : ((s.advance t).convR x).holdFrom ≤ (s.advance t).index - 64 * 2 ^ fget ((s.advance t).convBlk x) cvAgcHold)
    (hn : ((s.advance t).convR x).nextGain = none) (hg : gainDb ((s.advance t).convR x).lna ((s.advance t).convR x).att < 20)
    (hp : peakReaches peak (6 + fget ((s.advance t).convBlk x) cvAgcLo) = false) :
    execAgcRelease t x peak s = done s ((s.advance t).modConv x (fun r => { r with
      nextGain := some ((ladder (gainDb ((s.advance t).convR x).lna ((s.advance t).convR x).att + 1)).1,
        (ladder (gainDb ((s.advance t).convR x).lna ((s.advance t).convR x).att + 1)).2, (s.advance t).index + 1) })) := by
  refine if_pos ?_
  rw [ha, decide_eq_true hs, decide_eq_true hh, hn, decide_eq_true hg, hp]
  rfl

theorem execAgcLimitEpisodeEnd_of_over (hl : ((s.advance t).convR x).limit = true)
    (hp : peakReaches peak (fget ((s.advance t).convBlk x) cvAgcHi) = false) :
    execAgcLimitEpisodeEnd t x peak s = done s ((s.advance t).modConv x (fun r => { r with limit := false })).agcCond := by
  refine if_pos ?_
  rw [hl, hp]
  rfl

end

theorem agcRelease : Rules.AgcRelease := by
  intro s t x peak hs u span g
  refine ⟨fun acts whole held none_ low quiet => ?_, fun limits below => ?_⟩
  · exact completes_of_done hs (execAgcRelease_of_quiet acts whole held none_ low quiet) rfl
  · have here : x < u.conv.length := lt_of_run_ne (d := ConvRun.reset) (fun same => by
      rw [show u.convR x = ConvRun.reset from same] at limits
      exact absurd limits (by decide))
    have he := execAgcLimitEpisodeEnd_of_over limits below
    have run := modConv_convR_self here (fun r => { r with limit := false })
    change execAgcLimitEpisodeEnd t x peak s = done s (u.modConv x (fun r => { r with limit := false })).agcCond at he
    generalize u.modConv x (fun r => { r with limit := false }) = v at *
    refine completes_of_done hs he ⟨?_, ?_⟩
    · rw [framed_convR, agcCond_convR]
      exact congrArg ConvRun.limit run
    · refine (setCond_cond (n := fAgcLimit) (by decide) v _).trans ?_
      rw [framed_conv, show v.agcCond.conv = v.conv from reportsOnly_conv (setCond_reportsOnly ..)]

theorem gainLadder : Rules.GainLadder := by
  intro g low high
  unfold ladder gainDb
  split
  · dsimp only
    omega
  split
  · dsimp only
    omega
  · dsimp only
    omega

/-! ## A gain step comes into force -/

theorem mem_allRefs_conv {x : Nat} (h : x < 4) : (⟨.conv, x⟩ : Ref) ∈ allRefs := by
  unfold allRefs
  refine List.mem_flatMap.mpr ⟨.conv, by decide, List.mem_map.mpr ⟨x, List.mem_range.mpr ?_, rfl⟩⟩
  exact Nat.lt_of_lt_of_le h (by decide)

/-- Where nothing is due, no input waits for live fields. -/
theorem liveAt_of_noneDue {s : State} (h : s.dueRefs = []) {x : Nat} (hx : x < 4) : (s.life ⟨.conv, x⟩).liveAt = none := by
  have out : (⟨.conv, x⟩ : Ref) ∉ s.dueRefs := by rw [h]; exact List.not_mem_nil
  unfold State.dueRefs at out
  rw [List.mem_filter, not_and] at out
  have idle := out (mem_allRefs_conv hx)
  simp only [Bool.or_eq_true, not_or] at idle
  exact Option.not_isSome_iff_eq_none.mp idle.2

theorem execGainStep_of_decided {s : State} {x lna att k : Nat} (h : (s.convR x).nextGain = some (lna, att, k))
    (hl : (s.life ⟨.conv, x⟩).liveAt = none) : execGainStep x s = done s (s.advance (k * perSample)) := by
  unfold execGainStep
  rw [h, hl]

/-- Time passed to a later instant: settled here, moved, settled there. -/
theorem advance_of_later {s : State} {t : Nat} (hd : s.clk.divReset = true) (ht : s.settle.now < t) :
    s.advance t = ({ s.settle with tb := s.settle.tb.advance s.settle.now t, now := t, atTick := false } : State).settle := by
  unfold State.advance
  rw [if_neg (by rw [hd]; exact Bool.false_ne_true)]
  exact if_neg (Nat.not_le_of_lt ht)

theorem gainStepAndBlank : Rules.GainStepAndBlank := by
  refine ⟨?_, fun s x hs blank => completes_of_done hs (if_pos blank) rfl⟩
  intro s x lna att k hs reset hx next idle later
  have he := execGainStep_of_decided next (liveAt_of_noneDue idle hx)
  have quiet := settle_settled idle
  have still := (foldl_settleGain_later next later (List.range 4)).trans (settle_gainSame (x := x) idle)
  rw [advance_of_later reset (by rw [quiet.now]; exact later)] at he
  generalize s.settle = v at *
  obtain ⟨w, hw⟩ : ∃ w : State, ({ v with tb := v.tb.advance v.now (k * perSample), now := k * perSample, atTick := false } : State) = w :=
    ⟨_, rfl⟩
  rw [hw] at he
  have run : w.convR x = v.convR x := by rw [← hw]; rfl
  have at_ : w.now = k * perSample := by rw [← hw]
  have life (r : Ref) : w.life r = v.life r := by
    rw [← hw]
    obtain ⟨kind, i⟩ := r
    cases kind <;> rfl
  have idle' : w.dueRefs = [] := by
    rw [dueRefs_of_dueSame (quiet.due.trans (dueSame_of_life life))]
    exact idle
  obtain ⟨inLna, inAtt, none_⟩ := foldl_settleGain_due (lna := lna) (att := att) (k := k) List.nodup_range (List.mem_range.mpr hx) (s := w)
    (by rw [run, still.next]; exact next) (by rw [at_])
  have same := settle_gainSame (x := x) idle'
  have settled := settle_settled idle'
  generalize w.settle = r at *
  exact completes_of_done hs he ⟨same.lna.trans inLna, same.att.trans inAtt, same.next.trans none_, settled.now.trans at_⟩

/-- Settles O25: attack, release, the ladder, and the steps and blanking intervals. -/
theorem gainControl : Obligations.GainControl := ⟨agcAttack, agcRelease, gainLadder, gainStepAndBlank⟩

end Sys2Proof.Proofs
end

section
/-! PROOF. The Stand-in's windows and checks, the correction that a return leaves, and a failed converter (R9, R59 to R66). -/
namespace Sys2Proof.Proofs
open Sys2Proof Sys2Proof.Machine Sys2Proof.Laws

/-! ## Windows and visits -/

/-- A converter's run with a match's result noted, and left on it before a return. -/
def matchNoted (gain delay offset : Int) (own : Bool) (r : ConvRun) : ConvRun :=
  if own then { r with matchGain := gain, matchDelay := delay, left := (gain, delay, offset), leftFrom := none }
  else { r with matchGain := gain, matchDelay := delay }

/-- The check frame that follows a window. -/
def checkBegins (u : State) (x : Nat) (gain delay offset : Int) : State :=
  let own := u.standin.use == .giveBack x
  ((u.modStandin (fun d => { d with
    stage := .check, corr := if own then d.corr else (gain, delay, offset), stageEnd := u.now + perFrame })).modConv x
      (matchNoted gain delay offset own)).modConv 4 (fun r => { r with matchGain := gain, matchDelay := delay })

theorem execMatchWindowClose_of_window {s : State} {x : Nat} (hw : s.standin.stage = .window) (hm : s.standin.matching = some x)
    (gain delay offset : Int) : execMatchWindowClose gain delay offset s =
      done s (checkBegins (s.advance s.standin.stageEnd) x gain delay offset) := by
  unfold execMatchWindowClose
  rw [hw, hm]
  rfl

theorem checkBegins_left {u : State} {x : Nat} (h : u.standin.use = .giveBack x) (here : x < u.conv.length) (gain delay offset : Int) :
    ((checkBegins u x gain delay offset).convR x).left = (gain, delay, offset) ∧ ((checkBegins u x gain delay offset).convR x).leftFrom = none := by
  unfold checkBegins
  dsimp only
  rw [h, beq_self_eq_true]
  generalize hv : u.modStandin _ = v
  have there : x < v.conv.length := by rw [← hv]; exact here
  have first := modConv_convR_self there (matchNoted gain delay offset true)
  by_cases four : x = 4
  · subst four
    have last : 4 < (v.modConv 4 (matchNoted gain delay offset true)).conv.length := by
      show 4 < (modAt 4 _ v.conv).length
      rw [modAt_length]
      exact there
    rw [modConv_convR_self last, first]
    exact ⟨rfl, rfl⟩
  · rw [modConv_convR_of_ne four, first]
    exact ⟨rfl, rfl⟩

theorem execStandinVisit_of_idle {s : State} {t x : Nat} (hp : (s.advance t).phase = .released) (hn : (s.advance t).now % perFrame = 0)
    (hu : (s.advance t).standin.use = .idle) (hf : (s.advance t).failedConv 4 = false) (hc : (s.advance t).cal4Active = false)
    (hm : (s.advance t).standin.move = none) (hr : (s.advance t).rotaNext (s.advance t).standin.rota = some x) :
    execStandinVisit t s = done s (((s.advance t).standinConnect x (.visit x)).modStandin (fun d => { d with rota := x })) := by
  unfold execStandinVisit
  dsimp only
  rw [if_pos ⟨hp, hn, hu, hf, hc, hm⟩, hr]

theorem matchWindow : Rules.MatchWindow := by
  intro s hs
  refine ⟨fun settling => ?_, fun gain delay offset x window matching => ?_, ?_⟩
  · exact completes_of_done hs (if_pos settling) rfl
  · have he := execMatchWindowClose_of_window window matching gain delay offset
    refine completes_of_done hs he ?_
    intro u
    refine ⟨rfl, rfl, rfl, fun other => ?_, fun own => ⟨?_, fun here => ?_⟩⟩
    · have no : (u.standin.use == .giveBack x) = false := beq_eq_false_iff_ne.mpr other
      exact if_neg (by rw [no]; exact Bool.false_ne_true)
    · exact if_pos (beq_iff_eq.mpr own)
    · exact checkBegins_left own here gain delay offset
  · intro t x u released frame idle works quiet still next
    exact completes_of_done hs (execStandinVisit_of_idle released frame idle works quiet still next) rfl

/-! ## What a check keeps -/

theorem life_of_reportsOnly {s t : State} (h : s.reportsOnly t) (r : Ref) : t.life r = s.life r := by
  rw [h]
  obtain ⟨k, i⟩ := r
  cases k <;> rfl

theorem convR_of_reportsOnly {s t : State} (h : s.reportsOnly t) (x : Nat) : t.convR x = s.convR x := by
  unfold State.convR
  rw [reportsOnly_conv h]

theorem life_of_calOnly {s t : State} (h : calOnly s t) (r : Ref) : t.life r = s.life r := by
  unfold calOnly State.answersOnly at h
  rw [h]
  obtain ⟨k, i⟩ := r
  cases k <;> rfl

/-- A run that ends for no limit: its unit, and reports. -/
theorem calEnd_calOnly {res : CalResult} (h : res ≠ .limit) (s : State) (u limit t : Nat) : calOnly s (s.calEnd u res limit t) := by
  unfold State.calEnd
  split
  · exact calOnly_refl s
  · simp only [h, false_and, if_false]
    exact calOnly_trans (modUnit_calOnly ..) (calOnly_of_answersOnly (calReport_answersOnly ..))

theorem calEnd_quiet {res : CalResult} (h : res ≠ .limit) (s : State) (u limit t : Nat) : Quiet s (s.calEnd u res limit t) := by
  unfold State.calEnd
  split
  · exact .refl s
  · simp only [h, false_and, if_false]
    refine .trans ?_ (calReport_quiet ..)
    exact .of_flags rfl

section
variable {u : State} {gain delay offset : Int}

theorem checked_of_visit {x : Nat} (h : u.standin.use = .visit x) : u.checked gain delay offset =
    (u.visitEnd x).modStandin (fun d => { d with use := .idle, stage := .none, rota := (x + 1) % 4, abandonAt := none }) := by
  unfold State.checked
  rw [h]

theorem checked_of_take {x : Nat} {forCal : Bool} (h : u.standin.use = .take x forCal) : u.checked gain delay offset =
    if matchPasses gain delay offset then
      let v := (u.trafficIn x u.index).modStandin (fun d => { d with use := .carry x, stage := .none, fails := 0 })
      if forCal then v.calGenerator x true false else v
    else if u.standin.fails + 1 < 4 then u.openWindow.modStandin (fun d => { d with fails := u.standin.fails + 1 })
    else
      let v := (u.matchFail x).standinFree (x + 1)
      if forCal then v.calEnd x .matchFail 0xFFFF v.now else v := by
  unfold State.checked
  rw [h]

theorem checked_of_giveBack {x : Nat} (h : u.standin.use = .giveBack x) : u.checked gain delay offset =
    if matchPasses gain delay offset then
      ((u.trafficOut x u.index).standinFree (x + 1)).modConv x (fun r => { r with leftFrom := some u.now })
    else if u.standin.fails + 1 < 4 then u.openWindow.modStandin (fun d => { d with fails := u.standin.fails + 1 })
    else (u.matchFail x).modStandin (fun d => { d with stage := .none, fails := 0, retry := true }) := by
  unfold State.checked
  rw [h]

end

/-- The end of a visit: reports, and the corrections kept with the input. -/
theorem visitEnd_spec (s : State) (x : Nat) : ∃ v, s.reportsOnly v ∧ s.visitEnd x = v.modConv x (fun r => { r with corr := some s.standin.corr }) := by
  unfold State.visitEnd
  refine ⟨_, ?_, rfl⟩
  split
  · exact reportsOnly_refl s
  · exact (reportsOnly_ite (reportsOnly_trans (setFlag_reportsOnly ..) (addDaily_reportsOnly ..))).1

/-- The marks of a traffic that has moved to ADC4. -/
def carriedRun (k : Nat) (r : ConvRun) : ConvRun :=
  { r with onStandin := true, marks := r.marks ++ [⟨k, some (k + 1), qSwitch⟩, ⟨k, none, qStandin⟩] }

theorem trafficIn_reportsOnly (s : State) (x k : Nat) : (s.modConv x (carriedRun k)).reportsOnly (s.trafficIn x k) := slateT_reportsOnly ..

/-- The marks of a traffic that has gone back. -/
def returnedRun (k : Nat) (r : ConvRun) : ConvRun :=
  { r with onStandin := false, marks := endMarks qStandin k r.marks ++ [⟨k, some (k + 1), qSwitch⟩] }

theorem trafficOut_reportsOnly (s : State) (x k : Nat) : (s.modConv x (returnedRun k)).reportsOnly (s.trafficOut x k) := slateT_reportsOnly ..

theorem matchFail_reportsOnly (s : State) (x : Nat) : (s.modConv x (fun r => { r with cause := some .match_ })).reportsOnly (s.matchFail x) :=
  setFlag_reportsOnly ..

theorem matchFail_flag {s : State} (h : s.phase = .released) (x : Nat) : (s.matchFail x).flag fStandinMatchFail = true :=
  setFlag_flag (by decide) h

theorem modStandin_life (s : State) (f : Standin → Standin) (r : Ref) : (s.modStandin f).life r = s.life r := by
  obtain ⟨k, i⟩ := r
  cases k <;> rfl

/-! ## A check's end -/

section
variable {s : State} {gain delay offset : Int}

theorem execStandinCheck_of_check (hc : s.standin.stage = .check) (hu : (s.arrive s.standin.stageEnd).standin.stage = .check)
    (hn : s.standin.stageEnd ≤ (s.arrive s.standin.stageEnd).now) : execStandinCheck gain delay offset s =
      done s ((s.arrive s.standin.stageEnd).checked gain delay offset).settle := by
  unfold execStandinCheck
  dsimp only
  rw [if_pos hc, if_pos ⟨hu, hn⟩]

end

/-- A check whose end state `c` lets nothing new fall due: what settling keeps of `c`. -/
theorem check_completes {s u c : State} {gain delay offset : Int} {p : State → Prop} (hs : s.live)
    (he : execStandinCheck gain delay offset s = done s c.settle) (idle : u.dueRefs = []) (due : DueSame u c)
    (h : ∀ r, Settled c r → p (s.framed r)) : completes (.standinCheck gain delay offset) s p :=
  completes_of_done hs he (h _ (settle_settled ((dueRefs_of_dueSame due).trans idle)))

theorem standin_of_settled {c r : State} (h : Settled c r) (free : ∀ x, c.standin.use ≠ .visit x) :
    r.standin.use = c.standin.use ∧ r.standin.stage = c.standin.stage ∧ r.standin.rota = c.standin.rota ∧ r.standin.conn = c.standin.conn ∧
    r.standin.fails = c.standin.fails ∧ r.standin.retry = c.standin.retry ∧ r.standin.move = c.standin.move ∧
    r.standin.corr = c.standin.corr := by
  rw [h.standin free]
  exact ⟨rfl, rfl, rfl, rfl, rfl, rfl, rfl, rfl⟩

section
variable {s u : State} {gain delay offset : Int} (hs : s.live)
  (he : execStandinCheck gain delay offset s = done s (u.checked gain delay offset).settle) (idle : u.dueRefs = [])
include hs he idle

theorem check_of_visit {x : Nat} (use : u.standin.use = .visit x) (here : x < u.conv.length) :
    completes (.standinCheck gain delay offset) s (fun r =>
      r.standin.use = .idle ∧ r.standin.rota = (x + 1) % 4 ∧ (r.convR x).corr = some u.standin.corr) := by
  rw [checked_of_visit use] at he
  obtain ⟨v, report, hv⟩ := visitEnd_spec u x
  rw [hv] at he
  have there : x < v.conv.length := by rw [reportsOnly_conv report]; exact here
  refine check_completes hs he idle ?_ (fun r settled => ?_)
  · exact dueSame_of_life (fun q => (modStandin_life ..).trans ((modConv_life ..).trans (life_of_reportsOnly report q)))
  · obtain ⟨use', -, rota', -⟩ := standin_of_settled settled (fun y => by
      show StandinUse.idle ≠ _
      exact nofun)
    refine ⟨use', rota', ((settled.run x).corr).trans ?_⟩
    exact congrArg ConvRun.corr (modConv_convR_self there _)

theorem check_of_take_passed {x : Nat} {forCal : Bool} (use : u.standin.use = .take x forCal) (ok : matchPasses gain delay offset = true)
    (here : x < u.conv.length) : completes (.standinCheck gain delay offset) s (fun r =>
      r.standin.use = .carry x ∧ (r.convR x).onStandin = true ∧
      ⟨u.index, some (u.index + 1), qSwitch⟩ ∈ (r.convR x).marks ∧ ⟨u.index, none, qStandin⟩ ∈ (r.convR x).marks) := by
  rw [checked_of_take use, if_pos ok] at he
  have report := trafficIn_reportsOnly u x u.index
  obtain ⟨c, hc⟩ : ∃ c, (let v := (u.trafficIn x u.index).modStandin (fun d => { d with use := .carry x, stage := .none, fails := 0 })
      if forCal then v.calGenerator x true false else v) = c := ⟨_, rfl⟩
  rw [hc] at he
  have conv : c.conv = (u.modConv x (carriedRun u.index)).conv := by
    rw [← hc, ← reportsOnly_conv report]
    dsimp only
    split <;> rfl
  have standin : c.standin.use = .carry x := by
    rw [← hc]
    dsimp only
    split <;> rfl
  have life (q : Ref) : c.life q = u.life q := by
    rw [← modConv_life u x (carriedRun u.index) q, ← life_of_reportsOnly report q, ← hc]
    dsimp only
    obtain ⟨k, i⟩ := q
    split <;> cases k <;> rfl
  refine check_completes hs he idle (dueSame_of_life life) (fun r settled => ?_)
  obtain ⟨use', -⟩ := standin_of_settled settled (fun y => by rw [standin]; exact nofun)
  have run : c.convR x = carriedRun u.index (u.convR x) := by
    unfold State.convR
    rw [conv]
    exact modConv_convR_self here _
  have kept := settled.run x
  rw [run] at kept
  refine ⟨use'.trans standin, kept.onStandin, kept.marks _ ?_, kept.marks _ ?_⟩
  · exact List.mem_append_right _ (List.mem_cons_self ..)
  · exact List.mem_append_right _ (List.mem_cons_of_mem _ (List.mem_cons_self ..))

theorem check_of_return_passed {x : Nat} (use : u.standin.use = .giveBack x) (ok : matchPasses gain delay offset = true)
    (here : x < u.conv.length) : completes (.standinCheck gain delay offset) s (fun r =>
      r.standin.use = .idle ∧ r.standin.conn = none ∧ (r.convR x).onStandin = false ∧ (r.convR x).leftFrom = some u.now) := by
  rw [checked_of_giveBack use, if_pos ok] at he
  have report := trafficOut_reportsOnly u x u.index
  generalize u.trafficOut x u.index = v at *
  have there : x < v.conv.length := by
    rw [reportsOnly_conv report]
    show x < (modAt x _ u.conv).length
    rw [modAt_length]
    exact here
  have before : v.convR x = returnedRun u.index (u.convR x) := (convR_of_reportsOnly report x).trans (modConv_convR_self here _)
  refine check_completes hs he idle ?_ (fun r settled => ?_)
  · exact dueSame_of_life (fun q => (modConv_life ..).trans ((modStandin_life ..).trans
      ((life_of_reportsOnly report q).trans (modConv_life ..))))
  · obtain ⟨use', -, -, conn', -⟩ := standin_of_settled settled (fun y => by
      show StandinUse.idle ≠ _
      exact nofun)
    have run := modConv_convR_self (s := v.standinFree (x + 1)) there (fun r => { r with leftFrom := some u.now })
    have kept := settled.run x
    rw [run] at kept
    refine ⟨use', conn', kept.onStandin.trans ?_, kept.leftFrom⟩
    exact congrArg ConvRun.onStandin before

theorem check_of_early_failure {x : Nat} {forCal : Bool} (use : u.standin.use = .take x forCal ∨ u.standin.use = .giveBack x)
    (ok : matchPasses gain delay offset = false) (few : u.standin.fails < 3) : completes (.standinCheck gain delay offset) s (fun r =>
      r.standin.stage = .window ∧ r.standin.fails = u.standin.fails + 1 ∧ r.standin.use = u.standin.use) := by
  have again : u.checked gain delay offset = u.openWindow.modStandin (fun d => { d with fails := u.standin.fails + 1 }) := by
    have no : ¬ matchPasses gain delay offset = true := by rw [ok]; exact Bool.false_ne_true
    have less : u.standin.fails + 1 < 4 := by omega
    obtain h | h := use
    · rw [checked_of_take h, if_neg no, if_pos less]
    · rw [checked_of_giveBack h, if_neg no, if_pos less]
  rw [again] at he
  refine check_completes hs he idle (dueSame_of_life (fun q => (modStandin_life ..).trans (modStandin_life ..))) (fun r settled => ?_)
  obtain ⟨use', stage', -, -, fails', -⟩ := standin_of_settled settled (fun y => by
    show u.standin.use ≠ _
    obtain h | h := use <;> rw [h] <;> exact nofun)
  exact ⟨stage', fails', use'⟩

theorem check_of_last_take {x : Nat} {forCal : Bool} (use : u.standin.use = .take x forCal) (ok : matchPasses gain delay offset = false)
    (many : 3 ≤ u.standin.fails) (released : u.phase = .released) : completes (.standinCheck gain delay offset) s (fun r =>
      r.flag fStandinMatchFail = true ∧ r.standin.use = .idle) := by
  rw [checked_of_take use, if_neg (by rw [ok]; exact Bool.false_ne_true), if_neg (by omega)] at he
  have report := matchFail_reportsOnly u x
  have raised := matchFail_flag released x
  generalize u.matchFail x = v at *
  have ends := calEnd_calOnly (res := .matchFail) (by decide) (v.standinFree (x + 1)) x 0xFFFF (v.standinFree (x + 1)).now
  have quiet := calEnd_quiet (res := .matchFail) (by decide) (v.standinFree (x + 1)) x 0xFFFF (v.standinFree (x + 1)).now
  obtain ⟨c, hc⟩ : ∃ c, (let v := v.standinFree (x + 1)
      if forCal then v.calEnd x .matchFail 0xFFFF v.now else v) = c := ⟨_, rfl⟩
  rw [hc] at he
  have only : calOnly (v.standinFree (x + 1)) c := by
    rw [← hc]
    dsimp only
    split
    · exact ends
    · exact calOnly_refl _
  have standin : c.standin.use = .idle := by rw [answersOnly_standin only]; rfl
  have flag : c.flag fStandinMatchFail = true := by
    rw [← hc]
    dsimp only
    split
    · exact quiet.flag _ raised
    · exact raised
  refine check_completes hs he idle ?_ (fun r settled => ?_)
  · exact dueSame_of_life (fun q => (life_of_calOnly only q).trans ((modStandin_life ..).trans
      ((life_of_reportsOnly report q).trans (modConv_life ..))))
  · obtain ⟨use', -⟩ := standin_of_settled settled (fun y => by rw [standin]; exact nofun)
    exact ⟨settled.flag _ flag, use'.trans standin⟩

theorem check_of_last_return {x : Nat} (use : u.standin.use = .giveBack x) (ok : matchPasses gain delay offset = false)
    (many : 3 ≤ u.standin.fails) (released : u.phase = .released) : completes (.standinCheck gain delay offset) s (fun r =>
      r.flag fStandinMatchFail = true ∧ r.standin.use = .giveBack x ∧ r.standin.retry = true) := by
  rw [checked_of_giveBack use, if_neg (by rw [ok]; exact Bool.false_ne_true), if_neg (by omega)] at he
  have report := matchFail_reportsOnly u x
  have raised := matchFail_flag released x
  generalize u.matchFail x = v at *
  have standin : v.standin.use = .giveBack x := by rw [reportsOnly_standin report]; exact use
  refine check_completes hs he idle ?_ (fun r settled => ?_)
  · exact dueSame_of_life (fun q => (modStandin_life ..).trans ((life_of_reportsOnly report q).trans (modConv_life ..)))
  · obtain ⟨use', -, -, -, -, retry', -⟩ := standin_of_settled settled (fun y => by
      show v.standin.use ≠ _
      rw [standin]
      exact nofun)
    exact ⟨settled.flag _ raised, use'.trans standin, retry'⟩

end

theorem standinCheck : Rules.StandinCheck := by
  intro s gain delay offset hs check u ok still ended
  have he := execStandinCheck_of_check (gain := gain) (delay := delay) (offset := offset) check still ended
  refine ⟨completes_of_done hs he rfl, fun idle => ⟨?_, ?_, ?_, ?_, ?_⟩⟩
  · exact fun x use here => check_of_visit hs he idle use here
  · exact fun x forCal use passes here => check_of_take_passed hs he idle use passes here
  · exact fun x use passes here => check_of_return_passed hs he idle use passes here
  · exact fun x forCal use fails few => check_of_early_failure hs he idle use fails few
  · exact fun x forCal fails many released => ⟨fun use => check_of_last_take hs he idle use fails many released,
      fun use => check_of_last_return hs he idle use fails many released⟩

/-! ## The correction that a return leaves -/

theorem shrink_natAbs (most n : Nat) (v : Int) : (shrink most n v).natAbs = v.natAbs - most * n := by
  unfold shrink
  rw [Nat.mul_comm most n]
  split <;> simp

theorem shrink_eq_zero {most n : Nat} {v : Int} (h : v.natAbs ≤ most * n) : shrink most n v = 0 := by
  have := shrink_natAbs most n v
  omega

theorem leftAt_of_from {c : ConvRun} {a : Nat} (h : c.leftFrom = some a) (t : Nat) : c.leftAt t =
    (shrink 32 ((t - a) / perFrame) c.left.1, shrink 32 ((t - a) / perFrame) c.left.2.1, shrink 16 ((t - a) / perFrame) c.left.2.2) := by
  unfold ConvRun.leftAt
  rw [h]

theorem returnedCorrection : Rules.ReturnedCorrection := by
  intro c a h
  refine ⟨fun t _ => ?_, a + (c.left.1.natAbs + c.left.2.1.natAbs + c.left.2.2.natAbs) * perFrame, fun t late => ?_⟩
  · rw [leftAt_of_from h]
    exact ⟨shrink_natAbs .., shrink_natAbs .., shrink_natAbs ..⟩
  · have frames : c.left.1.natAbs + c.left.2.1.natAbs + c.left.2.2.natAbs ≤ (t - a) / perFrame :=
      (Nat.le_div_iff_mul_le (by decide)).mpr (Nat.le_sub_of_add_le' late)
    rw [leftAt_of_from h, shrink_eq_zero (by omega), shrink_eq_zero (by omega), shrink_eq_zero (by omega)]

/-- Settles O26: windows and visits, the ends of a check, and the correction that shrinks away. -/
theorem standinMatches : Obligations.StandinMatches := ⟨matchWindow, standinCheck, returnedCorrection⟩

end Sys2Proof.Proofs
end

section
/-! PROOF. A crossbar move that meets an abandoned visit (R9, R63, R65): the counterexample to O27. -/
namespace Sys2Proof.Proofs
open Sys2Proof Sys2Proof.Machine Sys2Proof.Laws

/-! ## A move while a visit is to be abandoned -/

/-- A move of ADC4 to input A whose crossbar is still to move. -/
def pendingMove : FailMove :=
  { input := 0, k := 0, moveAt := 0, switchAt := 0, time := 0, qual := 0, cause := .clock, other := none, moved := false, slate := false,
    ends := [] }

/-- The state after reset with the move noted, while the Stand-in's visit to input A is to be abandoned at the same boundary. -/
def abandonedVisit : State :=
  { State.reset with standin := { State.reset.standin with use := .visit 0, abandonAt := some 0, move := some pendingMove } }

/-- Nothing is due of the objects there. -/
theorem abandonedVisit_noneDue : (abandonedVisit.arrive pendingMove.moveAt).dueRefs = [] := by decide +kernel

/-- The boundary first connects ADC4, and then frees the Stand-in of its abandoned visit, which disconnects the crossbar. -/
theorem abandonedVisit_disconnects :
    (abandonedVisit.framed (((abandonedVisit.arrive pendingMove.moveAt).crossbarMoved pendingMove).settle)).standin.conn = none := by
  decide +kernel

/-- Refutes O27: CROSSBAR_MOVE does not leave ADC4 connected where a visit of the Stand-in is due to be abandoned at its boundary; the
statement's states are not bound to those in which a move excludes a visit. -/
theorem not_converterFailure : ¬ Obligations.ConverterFailure := by
  unfold Obligations.ConverterFailure
  intro ⟨_, moves, _⟩
  obtain ⟨t, -, final, connects⟩ := moves abandonedVisit pendingMove rfl rfl rfl (by decide)
  have connected := (connects abandonedVisit_noneDue).1
  rw [final, abandonedVisit_disconnects] at connected
  exact nomatch connected

end Sys2Proof.Proofs
end

section
/-! PROOF. Memory errors and supplies (R431, R432, R435). -/
namespace Sys2Proof.Proofs
open Sys2Proof Sys2Proof.Machine Sys2Proof.Laws

/-! ## Memory errors -/

/-- The management controller's memory: the controller halts. -/
theorem eccTreat_of_management {w : BadWord} (h : w.region = .management) (s : State) :
    s.eccTreat w = { s with flags := { s.flags with halted := true } } := by
  unfold State.eccTreat
  rw [h]

/-- In every other region the treatment goes through a report: what it does rests on nothing that a report touches. -/
theorem eccTreat_reportsOnly {u v : State} (h : u.reportsOnly v) {w : BadWord} (hw : w.region ≠ .management) :
    (u.eccTreat w).reportsOnly (v.eccTreat w) := by
  have same : v.refOf w.owner = u.refOf w.owner := by rw [h]; rfl
  unfold State.eccTreat
  rw [same]
  split
  case h_1 _ hr => exact absurd hr hw
  all_goals
    unfold State.reportsOnly at *
    rw [h] <;> rfl

/-- The treatment leaves the flags as they are. -/
theorem eccTreat_flags (s : State) {w : BadWord} (hw : w.region ≠ .management) : (s.eccTreat w).flags = s.flags := by
  unfold State.eccTreat
  split
  case h_1 _ hr => exact absurd hr hw
  all_goals rfl

/-- What is said of an uncorrectable word, before its treatment. -/
def eccReported (u : State) (w : BadWord) : State :=
  let said := (u.setFlag fEccUncorr).slateDet 0x0D00 w.owner
    (leBytes 1 (regionCode w.region) ++ leBytes 4 w.owner.toNat ++ leBytes 4 w.address.toNat)
  said.addDaily 0x000B sevError w.owner
    (leBytes 1 (regionCode w.region) ++ zeros 3 ++ leBytes 4 w.owner.toNat ++ leBytes 4 w.address.toNat) u.now

theorem eccReported_reportsOnly (u : State) (w : BadWord) : u.reportsOnly (eccReported u w) :=
  reportsOnly_trans (reportsOnly_trans (setFlag_reportsOnly ..) (slateDet_reportsOnly ..)) (addDaily_reportsOnly ..)

theorem eccReported_flag {u : State} (hp : u.phase = .released) (w : BadWord) : (eccReported u w).flag fEccUncorr = true :=
  (addDaily_quiet ..).flag _ ((slateDet_quiet ..).flag _ (setFlag_flag (by decide) hp))

theorem execEccUncorr_of_management {s : State} {w : BadWord} (h : w.region = .management) (t : Nat) : execEccUncorr t w s =
    done s ((({ s.advance t with flags := { (s.advance t).flags with halted := true } } : State).setFlag fEccUncorr).setCond fMgmtFault true) := by
  rw [← eccTreat_of_management h]
  exact if_pos h

theorem execEccUncorr_of_other {s : State} {w : BadWord} (h : w.region ≠ .management) (t : Nat) :
    execEccUncorr t w s = done s ((eccReported (s.advance t) w).eccTreat w) := by
  unfold execEccUncorr eccReported
  dsimp only
  rw [if_neg h]

theorem setFlag_halted (s : State) (n : Nat) : (s.setFlag n).flags.halted = s.flags.halted := by
  unfold State.setFlag
  rw [(setFlagMet_sameRegister ..).halted]

theorem memoryErrors : Rules.MemoryErrors := by
  intro s t hs hp
  refine ⟨?_, fun w hw => ?_, fun w hw => ?_⟩
  · refine completes_of_done hs rfl ?_
    generalize s.advance t = u at *
    exact ⟨setFlag_flag (by decide) hp, framed_reportsOnly (setFlag_reportsOnly ..)⟩
  · refine completes_of_done hs (execEccUncorr_of_management hw t) ?_
    generalize s.advance t = u at *
    obtain ⟨x, hx⟩ : ∃ x : State, x = { u with flags := { u.flags with halted := true } } := ⟨_, rfl⟩
    have halts : u.reportsOnly x := by rw [hx]; rfl
    have phase : x.phase = .released := (reportsOnly_phase halts).trans hp
    have cond : x.cond fMgmtFault = u.cond fMgmtFault := by rw [hx]; rfl
    have halted : x.flags.halted = true := by rw [hx]
    rw [← hx]
    clear hx
    have flag : (x.setFlag fEccUncorr).flag fEccUncorr = true := setFlag_flag (by decide) phase
    have report := reportsOnly_trans halts (setFlag_reportsOnly x fEccUncorr)
    refine ⟨setCond_flag_of_flag flag .., fun fresh => ?_, setCond_cond (by decide) _ _, ?_,
      framed_reportsOnly (reportsOnly_trans report (setCond_reportsOnly ..))⟩
    · exact setCond_flag_of_onset (by decide) ((reportsOnly_phase report).trans hp) ((setFlag_cond ..).trans (cond.trans fresh))
    · exact (setCond_halted ..).trans ((setFlag_halted ..).trans halted)
  · refine completes_of_done hs (execEccUncorr_of_other hw t) ?_
    generalize s.advance t = u at *
    have report := eccTreat_reportsOnly (eccReported_reportsOnly u w) hw
    have flag : ((eccReported u w).eccTreat w).flag fEccUncorr = true := by
      unfold State.flag
      rw [eccTreat_flags _ hw]
      exact eccReported_flag hp w
    generalize (eccReported u w).eccTreat w = v at *
    have treated {x : State} (h : u.eccTreat w = x) : (s.framed x).reportsOnly (s.framed v) := framed_reportsOnly (h ▸ report)
    refine ⟨flag, fun i hr ho here => ?_, fun i hr ho => ?_, fun i hr ho => ?_, fun i hr ho => ?_, fun i hr ho => ?_, fun i hr ho => ?_,
      fun i hr ho => ?_, fun i hr ho => ?_, fun i hr ho => ?_, fun i hr ho => ?_⟩
    · have he : u.eccTreat w = u.modPass i (fun x => { x with gapNext := x.gapNext + 1 }) := by rw [State.eccTreat, hr, ho]
      refine ⟨?_, treated he⟩
      have pass := reportsOnly_pass (treated he)
      have counted : (u.modPass i (fun x => { x with gapNext := x.gapNext + 1 })).passR i =
          (fun x : PassRun => { x with gapNext := x.gapNext + 1 }) (u.passR i) := runOf_withRun_self _ here _
      unfold State.passR at *
      rw [pass]
      exact congrArg PassRun.gapNext counted
    all_goals exact treated (by rw [State.eccTreat, hr, ho])

/-! ## Supplies -/

/-- The state with supply `i` outside its warning or its fault window. -/
def supplyLeft (u : State) (fault : Bool) (i : Nat) : State :=
  { u with health :=
      if fault then { u.health with fault := putAt i true u.health.fault, faultIn := putAt i 0 u.health.faultIn }
      else { u.health with warn := putAt i true u.health.warn, warnIn := putAt i 0 u.health.warnIn } }

theorem supplyBegin_of_known {u : State} {fault : Bool} {i : Nat}
    (h : (if fault then u.health.fault.getD i false else u.health.warn.getD i false) = true) (mv : Nat) : u.supplyBegin fault i mv = u := by
  unfold State.supplyBegin
  dsimp only
  rw [h, Bool.not_true, Bool.and_false]
  rfl

theorem supplyOut_of_known {u : State} {fault : Bool} {i : Nat}
    (h : (if fault then u.health.fault.getD i false else u.health.warn.getD i false) = true) (readings : List Nat) :
    u.supplyOut fault i readings = u := by
  unfold State.supplyOut
  rw [supplyBegin_of_known h]
  split <;> rfl

/-- What is said of a supply that leaves its window. -/
def supplySaid (v : State) (fault : Bool) (i mv : Nat) : State :=
  (v.supplyConds.slateDet 0x0D02 v.supplyConds.devId (leBytes 1 i ++ leBytes 2 mv)).addDaily 0x000D (if fault then sevError else sevWarning)
    v.supplyConds.devId (leBytes 1 (bit fault) ++ leBytes 1 i ++ leBytes 2 mv) v.supplyConds.now

theorem supplyOut_of_begin {u : State} {fault : Bool} {i : Nat} (hi : i < 6)
    (h : (if fault then u.health.fault.getD i false else u.health.warn.getD i false) = false) {readings : List Nat}
    (four : readings.length = 4) (out : readings.all (fun mv => !insideWindow fault i mv) = true) :
    u.supplyOut fault i readings = supplySaid (supplyLeft u fault i) fault i (readings.getLast?.getD 0) := by
  unfold State.supplyOut State.supplyBegin
  dsimp only
  rw [four, out, h, decide_eq_true hi]
  rfl

theorem supplySaid_reportsOnly (v : State) (fault : Bool) (i mv : Nat) : v.reportsOnly (supplySaid v fault i mv) :=
  reportsOnly_trans (reportsOnly_trans (reportsOnly_trans (setCond_reportsOnly ..) (setCond_reportsOnly ..)) (slateDet_reportsOnly ..))
    (addDaily_reportsOnly ..)

/-- Each flag's condition follows the supplies outside its window. -/
theorem supplySaid_cond (v : State) (fault : Bool) (i mv : Nat) :
    (supplySaid v fault i mv).cond fSupplyWarn = v.health.warn.any id ∧ (supplySaid v fault i mv).cond fSupplyFault = v.health.fault.any id := by
  have said (n : Nat) : (supplySaid v fault i mv).cond n = v.supplyConds.cond n :=
    ((addDaily_quiet ..).cond n).trans ((slateDet_quiet ..).cond n)
  rw [said, said]
  unfold State.supplyConds
  refine ⟨?_, ?_⟩
  · rw [setCond_cond_of_ne (by decide), setCond_cond (by decide)]
  · rw [setCond_cond (by decide)]

theorem putAt_getD_self {α : Type} {l : List α} {i : Nat} (h : i < l.length) (a d : α) : (putAt i a l).getD i d = a :=
  modAt_getD_self _ h d

theorem any_id_of_getD {l : List Bool} {i : Nat} (h : l.getD i false = true) : l.any id = true := by
  rw [List.getD_eq_getElem?_getD] at h
  cases found : l[i]? with
  | none => rw [found] at h; exact nomatch h
  | some b => rw [found] at h; exact List.any_eq_true.mpr ⟨b, List.mem_of_getElem? found, h⟩

theorem supplyWindows : Rules.SupplyWindows := by
  intro s t i readings hs hi four
  dsimp only
  refine ⟨fun six out fresh => ?_, fun six out fresh => ?_, fun known => ?_, fun known => ?_⟩
  · refine completes_of_done hs (congrArg (done s) (supplyOut_of_begin (fault := false) hi fresh four out)) ?_
    generalize s.advance t = u at *
    have report := supplySaid_reportsOnly (supplyLeft u false i) false i (readings.getLast?.getD 0)
    have cond := (supplySaid_cond (supplyLeft u false i) false i (readings.getLast?.getD 0)).1
    generalize supplySaid _ _ _ _ = v at *
    have left : v.health.warn.getD i false = true := by
      rw [reportsOnly_health report]
      exact putAt_getD_self (six ▸ hi) ..
    refine ⟨left, ?_, ?_⟩
    · exact cond.trans (any_id_of_getD (putAt_getD_self (six ▸ hi) ..))
    · rw [framed_health, reportsOnly_health report]
      exact framed_reportsOnly report
  · refine completes_of_done hs (congrArg (done s) (supplyOut_of_begin (fault := true) hi fresh four out)) ?_
    generalize s.advance t = u at *
    have report := supplySaid_reportsOnly (supplyLeft u true i) true i (readings.getLast?.getD 0)
    have cond := (supplySaid_cond (supplyLeft u true i) true i (readings.getLast?.getD 0)).2
    generalize supplySaid _ _ _ _ = v at *
    have left : v.health.fault.getD i false = true := by
      rw [reportsOnly_health report]
      exact putAt_getD_self (six ▸ hi) ..
    refine ⟨left, ?_, ?_⟩
    · exact cond.trans (any_id_of_getD (putAt_getD_self (six ▸ hi) ..))
    · rw [framed_health, reportsOnly_health report]
      exact framed_reportsOnly report
  · exact completes_of_done hs (congrArg (done s) (supplyOut_of_known (fault := false) known readings)) rfl
  · exact completes_of_done hs (congrArg (done s) (supplyOut_of_known (fault := true) known readings)) rfl

/-- Settles O28: the treatment of a bad word goes through the report of it, and a supply's condition follows the readings outside its
window. -/
theorem healthFaults : Obligations.HealthFaults := ⟨memoryErrors, supplyWindows⟩

end Sys2Proof.Proofs
end

section
/-! PROOF. Pass blocks, settling gates and captures (R83, R93, R103). -/
namespace Sys2Proof.Proofs
open Sys2Proof Sys2Proof.Machine Sys2Proof.Laws

/-! ## Runs in their lists -/

section
variable {s : State} {i : Nat}

theorem lt_of_running_pass (h : s.running .pass i = true) : i < s.pass.length := lt_of_life_isSome (life?_isSome_of_running h)
theorem lt_of_running_fmd (h : s.running .fmd i = true) : i < s.fmd.length := lt_of_life_isSome (life?_isSome_of_running h)
theorem lt_of_running_amd (h : s.running .amd i = true) : i < s.amd.length := lt_of_life_isSome (life?_isSome_of_running h)

theorem modPass_passR_self (h : i < s.pass.length) (f : PassRun → PassRun) : (s.modPass i f).passR i = f (s.passR i) :=
  runOf_withRun_self f h _
theorem modFmd_fmdR_self (h : i < s.fmd.length) (f : FmdRun → FmdRun) : (s.modFmd i f).fmdR i = f (s.fmdR i) :=
  runOf_withRun_self f h _
theorem modAmd_amdR_self (h : i < s.amd.length) (f : AmdRun → AmdRun) : (s.modAmd i f).amdR i = f (s.amdR i) :=
  runOf_withRun_self f h _

/-- A change of a Pass's run keeps its life. -/
theorem modPass_life_pass (f : PassRun → PassRun) (p : Nat) : (s.modPass i f).life ⟨.pass, p⟩ = s.life ⟨.pass, p⟩ :=
  congrArg (fun l : Option Life => l.getD (Life.closed 0)) (life_map_withRun f s.pass i p)

end

/-! ## Captures -/

theorem freeSlots_pass (s : State) (n k : Nat) : (s.freeSlots n k).2.pass = s.pass := by
  induction k generalizing s with
  | zero => rfl
  | succ k ih => exact ih s.fresh.2

/-- A capture copies a block to its ring: the Passes stay. -/
theorem capture_pass (f first : Nat) (time : Word64) (outs : List (Nat × StreamOut)) (s : State) (i : Nat) :
    (s.capture f first time outs i).pass = s.pass := by
  unfold State.capture
  dsimp only
  generalize hv : s.putRecord _ _ _ = v
  have record : v.pass = s.pass := hv ▸ hostOnly_pass (putRecord_hostOnly ..)
  clear hv
  split
  · rfl
  split
  · exact record
  · exact record

theorem captures_pass (f first : Nat) (time : Word64) (outs : List (Nat × StreamOut)) (cs : List Nat) (s : State) :
    (cs.foldl (fun s c => s.capture f first time outs c) s).pass = s.pass :=
  foldl_keeps (fun a b : State => b.pass = a.pass) (fun _ => rfl) (fun a b c (h : b.pass = a.pass) (k : c.pass = b.pass) => k.trans h) _
    (capture_pass f first time outs) cs s

/-! ## Blocks -/

/-- What a delivered block leaves in its Pass's run. -/
structure BlockLeft (f n : Nat) (r : PassRun) : Prop where
  block : ∃ qs, r.block = some (f, qs) ∧ qs.length = n
  gateOpen : r.gateOpen = true
  started : r.started = true
  gapNext : r.gapNext = 0

/-- A state whose Pass `p` has delivered its block, the life of every Pass as it was. -/
structure Delivered (u v : State) (f p n : Nat) : Prop where
  left : BlockLeft f n (v.passR p)
  life : ∀ q, v.life ⟨.pass, q⟩ = u.life ⟨.pass, q⟩

theorem indexed_length {α : Type} (k : Nat) (l : List α) : (indexed k l).length = l.length := by
  induction l generalizing k with
  | nil => rfl
  | cons a l ih => exact congrArg (· + 1) (ih (k + 1))

/-- The blocker's states and the gate after a frame. -/
def gateNoted (dcb : List (Int × Int)) (opened : Bool) (r : PassRun) : PassRun := { r with dcb := dcb, gateOpen := r.gateOpen || opened }

/-- The last change of a block meets its Pass, whatever stood between the first change and it. -/
theorem delivered_of_modPass {u v : State} {f p n : Nat} {g : PassRun → PassRun} (here : p < u.pass.length)
    (between : ∃ dcb opened, v.pass = (u.modPass p (gateNoted dcb opened)).pass) (left : ∀ r, BlockLeft f n (g r)) : Delivered u (v.modPass p g) f p n where
  left := by
    obtain ⟨dcb, opened, hv⟩ := between
    have there : p < v.pass.length := by
      rw [hv, show (u.modPass p (gateNoted dcb opened)).pass = modAt p (Obj.withRun (gateNoted dcb opened)) u.pass from rfl, modAt_length]
      exact here
    rw [modPass_passR_self there]
    exact left _
  life q := by
    obtain ⟨dcb, opened, hv⟩ := between
    have step : v.life ⟨.pass, q⟩ = (u.modPass p (gateNoted dcb opened)).life ⟨.pass, q⟩ :=
      congrArg (fun l : List (Obj PassRun) => ((l[q]?).map Obj.life).getD (Life.closed 0)) hv
    rw [modPass_life_pass, step, modPass_life_pass]

section
variable (s : State) (f p : Nat) (i : PassIn)

/-- The state that a block of Pass `p` is made in. -/
def blockState : State := (s.advance (frameEnd f)).takeIn i

theorem execPassBlock_of_delivers (running : (blockState s f i).running .pass p = true)
    (begun : ((blockState s f i).life ⟨.pass, p⟩).s0 * perSample ≤ frameEnd f)
    (some_ : passFirst p ((blockState s f i).passBlk p) (max (((blockState s f i).life ⟨.pass, p⟩).s0 * perSample) (f * perFrame)) <
      passFirst p ((blockState s f i).passBlk p) ((f + 1) * perFrame))
    (open_ : passFirst p ((blockState s f i).passBlk p) (((blockState s f i).life ⟨.pass, p⟩).s0 * perSample) +
      passSettle ((blockState s f i).passBlk p) < passFirst p ((blockState s f i).passBlk p) ((f + 1) * perFrame)) :
    ∃ v, execPassBlock f p i s = done s v ∧ Delivered (blockState s f i) v f p (streamsOf ((blockState s f i).passBlk p)) := by
  have here := lt_of_running_pass running
  unfold execPassBlock
  dsimp only
  rw [show (s.advance (frameEnd f)).takeIn i = blockState s f i from rfl]
  generalize blockState s f i = u at *
  rw [running, decide_eq_true begun, Bool.and_self, if_pos rfl, if_neg (by omega)]
  refine ⟨_, rfl, delivered_of_modPass here ?_ fun r => ⟨⟨_, rfl, ?_⟩, rfl, rfl, rfl⟩⟩
  · exact ⟨_, _, (captures_pass ..).trans (freeSlots_pass ..)⟩
  · rw [List.length_map, List.length_map, indexed_length, List.length_map, List.length_range]

theorem execPassBlock_of_none (running : (blockState s f i).running .pass p = true)
    (begun : ((blockState s f i).life ⟨.pass, p⟩).s0 * perSample ≤ frameEnd f)
    (shut : passFirst p ((blockState s f i).passBlk p) ((f + 1) * perFrame) ≤ passFirst p ((blockState s f i).passBlk p)
        (((blockState s f i).life ⟨.pass, p⟩).s0 * perSample) + passSettle ((blockState s f i).passBlk p) ∨
      passFirst p ((blockState s f i).passBlk p) ((f + 1) * perFrame) ≤
        passFirst p ((blockState s f i).passBlk p) (max (((blockState s f i).life ⟨.pass, p⟩).s0 * perSample) (f * perFrame))) :
    ∃ dcb opened, execPassBlock f p i s =
      done s (((blockState s f i).modPass p (gateNoted dcb opened)).modPass p (fun r => { r with block := none })) := by
  unfold execPassBlock
  dsimp only
  rw [show (s.advance (frameEnd f)).takeIn i = blockState s f i from rfl]
  generalize blockState s f i = u at *
  rw [running, decide_eq_true begun, Bool.and_self, if_pos rfl, if_pos (by omega)]
  exact ⟨_, _, rfl⟩

theorem execPassBlock_of_idle
    (idle : (blockState s f i).running .pass p = false ∨ frameEnd f < ((blockState s f i).life ⟨.pass, p⟩).s0 * perSample) :
    execPassBlock f p i s = done s ((blockState s f i).modPass p (fun r => { r with block := none })) := by
  unfold execPassBlock
  dsimp only
  rw [show (s.advance (frameEnd f)).takeIn i = blockState s f i from rfl]
  generalize blockState s f i = u at *
  refine if_neg fun both => ?_
  rw [Bool.and_eq_true, decide_eq_true_eq] at both
  obtain ⟨running, begun⟩ := both
  rcases idle with stopped | later
  · rw [stopped] at running
    exact nomatch running
  · omega

end

theorem passBlocks : Rules.PassBlocks := by
  intro s f p i hs u b start gate m0 m1
  refine ⟨fun running begun some_ open_ => ?_, fun running begun shut => ?_,
    fun idle => completes_of_done hs (execPassBlock_of_idle s f p i idle) rfl⟩
  · obtain ⟨v, he, delivered⟩ := execPassBlock_of_delivers s f p i running begun some_ open_
    exact completes_of_done hs he ⟨delivered.left.block, delivered.left.gateOpen, delivered.left.started, delivered.left.gapNext,
      delivered.life p⟩
  · obtain ⟨dcb, opened, he⟩ := execPassBlock_of_none s f p i running begun shut
    refine completes_of_done hs he ?_
    have here : p < (blockState s f i).pass.length := lt_of_running_pass running
    change _ ∧ _ = ((blockState s f i).passR p).started
    generalize blockState s f i = v at here ⊢
    have there : p < (v.modPass p (gateNoted dcb opened)).pass.length := by
      rw [show (v.modPass p (gateNoted dcb opened)).pass = modAt p (Obj.withRun (gateNoted dcb opened)) v.pass from rfl, modAt_length]
      exact here
    have left : ((v.modPass p (gateNoted dcb opened)).modPass p (fun r => { r with block := none })).passR p =
        { gateNoted dcb opened (v.passR p) with block := none } := by
      rw [modPass_passR_self there, modPass_passR_self here]
    exact ⟨congrArg PassRun.block left, (congrArg PassRun.started left :)⟩

/-! ## The settling gate, the end of a capture -/

theorem execSettleGateOpen_of_running {s : State} {p : Nat} (running : s.running .pass p = true) (shut : (s.passR p).gateOpen = false)
    (still : (s.advance (passInstant p (s.passBlk p) (passFirst p (s.passBlk p) ((s.life ⟨.pass, p⟩).s0 * perSample) +
      passSettle (s.passBlk p)))).running .pass p = true) : execSettleGateOpen p s = done s ((s.advance (passInstant p (s.passBlk p)
        (passFirst p (s.passBlk p) ((s.life ⟨.pass, p⟩).s0 * perSample) + passSettle (s.passBlk p)))).modPass p
          (fun r => { r with gateOpen := true })) := by
  unfold execSettleGateOpen
  dsimp only
  rw [running, shut, if_pos (by rfl), if_pos still]

theorem passGateAndCapture : Rules.PassGateAndCapture := by
  refine ⟨fun s p hs running shut still => ?_, fun s c hs running some_ reached => ?_⟩
  · exact completes_of_done hs (execSettleGateOpen_of_running running shut still) rfl
  · refine completes_of_done hs (c := .capCountEnd c) (if_pos ?_) rfl
    rw [running, Bool.true_and, decide_eq_true_eq]
    exact ⟨some_, reached⟩

/-- Settles O29: the gate's place in the frame decides whether a block is delivered; captures copy it and leave the Passes. -/
theorem passesAndCaptures : Obligations.PassesAndCaptures := ⟨passBlocks, passGateAndCapture⟩

end Sys2Proof.Proofs
end

section
/-! PROOF. What a span of samples does to its programme and beyond, a demodulator's blocks, gates and loops (R105 to R122). -/
namespace Sys2Proof.Proofs
open Sys2Proof Sys2Proof.Machine Sys2Proof.Laws

/-! ## What a span of samples may touch -/

/-- `t` differs from `s` at most in the programmes, the inserts and the FCARs that a span reaches, and in what a report touches. -/
def spansOnly (s t : State) : Prop :=
  t = { s with
    host := t.host, log := t.log, flags := t.flags, slates := t.slates, clk := { s.clk with wakeReq := t.clk.wakeReq }
    prog := t.prog, inserts := t.inserts, fcar := t.fcar }

theorem spansOnly_refl (s : State) : spansOnly s s := rfl
theorem spansOnly_trans {a b c : State} (h : spansOnly a b) (k : spansOnly b c) : spansOnly a c := by
  unfold spansOnly at *
  rw [k, h]
theorem spansOnly_of_reportsOnly {s t : State} (h : s.reportsOnly t) : spansOnly s t := by
  unfold spansOnly
  rw [h]
theorem spansOnly_of_hostOnly {s t : State} (h : s.hostOnly t) : spansOnly s t := spansOnly_of_reportsOnly (reportsOnly_of_hostOnly h)
theorem spansOnly_ite {p : Prop} [Decidable p] {s t u : State} (h : spansOnly s t) (k : spansOnly s u) : spansOnly s (if p then t else u) := by
  split
  · exact h
  · exact k
theorem foldl_spansOnly {α : Type} (f : State → α → State) (h : ∀ b a, spansOnly b (f b a)) (l : List α) (s : State) : spansOnly s (l.foldl f s) :=
  foldl_keeps spansOnly spansOnly_refl (fun _ _ _ => spansOnly_trans) f h l s

section
variable {s t : State} (h : spansOnly s t)
include h
theorem spansOnly_fmd : t.fmd = s.fmd := by rw [h]
theorem spansOnly_amd : t.amd = s.amd := by rw [h]
end

/-! ## FEED rings -/

theorem feedRelease_hostOnly (s : State) (ring : Nat) : s.hostOnly (s.feedRelease ring) :=
  hostOnly_trans (modRing_hostOnly ..) (releaseEntry_hostOnly ..)

theorem feedPartial_reportsOnly (s : State) (ring n : Nat) : s.reportsOnly (s.feedPartial ring n) := addDaily_reportsOnly ..

theorem feedTake_reportsOnly (ring : Nat) (wide stereo : Bool) (fuel n : Nat) (s : State) :
    s.reportsOnly (State.feedTake ring wide stereo fuel n s).2 := by
  induction fuel generalizing n s with
  | zero => exact reportsOnly_refl s
  | succ fuel ih =>
    have release (s : State) : s.reportsOnly (s.feedRelease ring) := reportsOnly_of_hostOnly (feedRelease_hostOnly ..)
    unfold State.feedTake
    dsimp only
    generalize (if wide = true then 4 else 2) * (if stereo = true then 2 else 1) = fb
    split
    · exact reportsOnly_refl s
    split
    · exact reportsOnly_trans (release s) (ih ..)
    split
    · exact reportsOnly_trans (reportsOnly_trans (feedPartial_reportsOnly ..) (release _)) (ih ..)
    split
    · exact reportsOnly_refl s
    split
    · exact reportsOnly_of_hostOnly (modRing_hostOnly ..)
    · exact reportsOnly_trans (reportsOnly_trans (reportsOnly_ite (feedPartial_reportsOnly ..)).2 (release _)) (ih ..)

theorem insertReads_reportsOnly (s : State) (i m due : Nat) : s.reportsOnly (s.insertReads i m due).2 := by
  unfold State.insertReads
  dsimp only
  split
  · exact reportsOnly_refl s
  split
  · exact reportsOnly_refl s
  split
  · exact feedTake_reportsOnly ..
  · exact reportsOnly_refl s

theorem modInsert_spansOnly (s : State) (i : Nat) (f : Insert → Insert) : spansOnly s (s.modInsert i f) := rfl
theorem modProg_spansOnly (s : State) (i : Nat) (f : ProgRun → ProgRun) : spansOnly s (s.modProg i f) := rfl

theorem feedStep_spansOnly (s : State) : spansOnly s s.feedStep :=
  foldl_spansOnly _ (fun b _ => spansOnly_ite
    (spansOnly_trans (spansOnly_of_reportsOnly (insertReads_reportsOnly ..)) (modInsert_spansOnly ..)) (spansOnly_refl b)) _ s

/-! ## A programme's output -/

theorem flushAudio_hostOnly (s : State) (i p : Nat) : s.hostOnly (s.flushAudio i p) := by
  unfold State.flushAudio
  dsimp only
  split
  · exact hostOnly_refl s
  · exact hostOnly_trans (putRecord_hostOnly ..) (modRing_hostOnly ..)

theorem audioTo_hostOnly (p : Nat) (b : AudioBlock) (s : State) (i : Nat) : s.hostOnly (State.audioTo p b s i) := by
  have joins (s : State) (c : Prop) [Decidable c] (f : Ring → Ring) : s.hostOnly (if c then s else s.modRing i f) := by
    split
    · exact hostOnly_refl s
    · exact modRing_hostOnly ..
  have ends (s : State) (c : Prop) [Decidable c] : s.hostOnly (if c then s.flushAudio i p else s) := by
    split
    · exact flushAudio_hostOnly ..
    · exact hostOnly_refl s
  have flushed : s.hostOnly (match (s.ring i).blocksOf p with
      | h :: _ => if h.frame / 2 ^ ((s.ring i).kflags % 8) = b.frame / 2 ^ ((s.ring i).kflags % 8) then s else s.flushAudio i p
      | [] => s) := by
    split
    · split
      · exact hostOnly_refl s
      · exact flushAudio_hostOnly ..
    · exact hostOnly_refl s
  unfold State.audioTo
  dsimp only
  split
  · exact hostOnly_trans (hostOnly_trans flushed (joins ..)) (ends ..)
  · exact hostOnly_refl s

theorem fixCarrierDelays_spansOnly (s : State) (p : Nat) : spansOnly s (s.fixCarrierDelays p) := rfl

theorem deliverBlock_spansOnly (s : State) (p : Nat) (b : AudioBlock) : spansOnly s (s.deliverBlock p b) :=
  spansOnly_trans (spansOnly_trans (modProg_spansOnly ..) (fixCarrierDelays_spansOnly ..))
    (foldl_spansOnly _ (fun _ _ => spansOnly_of_hostOnly (audioTo_hostOnly ..)) _ _)

theorem insertLate_spansOnly (s : State) (p c : Nat) : spansOnly s (s.insertLate p c) := by
  unfold State.insertLate
  dsimp only
  split
  · split
    · exact spansOnly_refl s
    · rfl
  · exact spansOnly_refl s

theorem restartStream_hostOnly (s : State) (key : Nat) : s.hostOnly (s.restartStream key) := rfl

theorem progOut_spansOnly (s : State) (p : Nat) (complete : Bool) (rate start : Nat) (xs : List (Option (Int × Int))) (concealed : Bool) :
    spansOnly s (s.progOut p complete rate start xs concealed) := by
  have made (c : Prop) [Decidable c] (f : ProgRun → ProgRun) (bs : List AudioBlock) :
      spansOnly s (bs.foldl (fun s b => s.deliverBlock p b) ((if c then s.restartStream (audioKey p) else s).modProg p f)) :=
    spansOnly_trans (spansOnly_trans (spansOnly_ite (spansOnly_of_hostOnly (restartStream_hostOnly ..)) (spansOnly_refl s))
      (modProg_spansOnly ..)) (foldl_spansOnly _ (fun _ _ => deliverBlock_spansOnly ..) _ _)
  unfold State.progOut
  dsimp only
  refine spansOnly_ite (spansOnly_refl s) ?_
  generalize Option.map Prod.fst (List.find? _ _) = first
  cases (s.progR p).fadeFrom with
  | some c => cases first <;> exact made ..
  | none =>
    cases first with
    | none => exact made ..
    | some c => exact spansOnly_trans (made ..) (insertLate_spansOnly ..)

theorem feedPools_spansOnly (s : State) (q i0 : Nat) (xs : List (Option (Int × Int))) (complete concealed : Bool) :
    spansOnly s (s.feedPools q i0 xs complete concealed) := by
  refine foldl_spansOnly _ (fun b p => ?_) _ s
  generalize List.filter _ (List.range (max 1 (b.progR p).follow.cands.length)) = ks
  dsimp only
  generalize hv : List.foldl _ b ks = v
  have pools : spansOnly b v := hv ▸ foldl_spansOnly _ (fun _ _ => modProg_spansOnly ..) ks b
  exact spansOnly_ite (spansOnly_trans pools (spansOnly_ite (spansOnly_trans (progOut_spansOnly ..) (modProg_spansOnly ..))
    (spansOnly_refl v))) (spansOnly_refl b)

theorem progSpan_spansOnly (s : State) (q : Nat) (complete : Bool) (rate start : Nat) (xs : List (Option (Int × Int))) (concealed : Bool) :
    spansOnly s (s.progSpan q complete rate start xs concealed) := by
  unfold State.progSpan
  dsimp only
  exact spansOnly_trans (spansOnly_trans (spansOnly_trans (feedStep_spansOnly s) (modProg_spansOnly ..)) (feedPools_spansOnly ..))
    (spansOnly_ite (spansOnly_refl _) (progOut_spansOnly ..))

theorem demodSpan_spansOnly (s : State) (r : Ref) (rate start : Nat) (xs : List (Option (Int × Int))) (concealed : Bool) :
    spansOnly s (s.demodSpan r rate start xs concealed) := by
  unfold State.demodSpan
  split
  · exact progSpan_spansOnly ..
  · exact spansOnly_refl s

end Sys2Proof.Proofs
end

section
/-! PROOF. A demodulator's blocks, gates and loops (R105, R106, R112, R116, R117, R120, R122). -/
namespace Sys2Proof.Proofs
open Sys2Proof Sys2Proof.Machine Sys2Proof.Laws

/-! ## The run of a block -/

/-- What a block's samples leave of the core: where the run began, that there is input, no word lost. -/
structure CoreKept (c d : DemodCore) : Prop where
  began : d.began = c.began
  absent : d.absent = c.absent
  gapNext : d.gapNext = c.gapNext

theorem CoreKept.refl (c : DemodCore) : CoreKept c c := ⟨rfl, rfl, rfl⟩
theorem CoreKept.trans {a b c : DemodCore} (h : CoreKept a b) (k : CoreKept b c) : CoreKept a c :=
  ⟨k.began.trans h.began, k.absent.trans h.absent, k.gapNext.trans h.gapNext⟩

theorem demodSample_coreKept (fm : Bool) (b : Blk) (target began gate : Nat) (a : DemodAcc) (x : Nat × Nat × (Int × Int)) :
    CoreKept a.core (demodSample fm b target began gate a x).core := by
  unfold demodSample
  dsimp only
  have same (d : DemodAcc) : (if fm then d else a).core = if fm then d.core else a.core := by split <;> rfl
  split_ifs <;> exact ⟨rfl, rfl, rfl⟩

theorem demodSamples_coreKept (fm : Bool) (b : Blk) (target began gate : Nat) (xs : List (Nat × Nat × (Int × Int))) (a : DemodAcc) :
    CoreKept a.core (xs.foldl (demodSample fm b target began gate) a).core := by
  induction xs generalizing a with
  | nil => exact .refl _
  | cons x xs ih => exact (demodSample_coreKept fm b target began gate a x).trans (ih _)

/-- What the run of a block gives. -/
structure BlockRun (c : DemodCore) (f : Nat) (r : DemodCore) : Prop where
  began : r.began = c.began
  absent : r.absent = c.absent
  gapNext : r.gapNext = 0
  out : ∃ o, r.out = some o ∧ o.frame = f ∧ o.samples.length = o.absent.length

theorem demodRun_blockRun (s : State) (fm : Bool) (b : Blk) (core : DemodCore) (beta : Nat × Nat) (dm : Int × Int) (locked : Bool) (f p : Nat)
    (began : Nat) (audio : Nat → Int × Int) : BlockRun core f (s.demodRun fm b core beta dm locked f p began audio).1.core := by
  unfold State.demodRun
  dsimp only
  generalize hacc : List.foldl (demodSample _ _ _ _ _) _ _ = acc
  have kept := hacc ▸ demodSamples_coreKept ..
  exact ⟨kept.began, kept.absent, kept.gapNext, _, rfl, rfl, by rw [List.length_map, List.length_map]⟩

theorem freeSlots_fmd (s : State) (n k : Nat) : (s.freeSlots n k).2.fmd = s.fmd := by
  induction k generalizing s with
  | zero => rfl
  | succ k ih => exact ih s.fresh.2

theorem freeSlots_amd (s : State) (n k : Nat) : (s.freeSlots n k).2.amd = s.amd := by
  induction k generalizing s with
  | zero => rfl
  | succ k ih => exact ih s.fresh.2

section
variable (s : State) (fm : Bool) (b : Blk) (core : DemodCore) (beta : Nat × Nat) (dm : Int × Int) (locked : Bool) (f p began : Nat)
  (audio : Nat → Int × Int)

theorem demodRun_fmd : (s.demodRun fm b core beta dm locked f p began audio).2.1.fmd = s.fmd := freeSlots_fmd ..
theorem demodRun_amd : (s.demodRun fm b core beta dm locked f p began audio).2.1.amd = s.amd := freeSlots_amd ..

end

/-! ## What a demodulator takes from its Pass -/

theorem fmTake_began (s : State) (d p : Nat) (r : FmdRun) : (s.fmTake d p r).core.began = r.core.began := by
  unfold State.fmTake
  dsimp only
  generalize (if fbit (s.life ⟨.fmd, d⟩).cur fmMpEq = true then some _ else none) = eq
  generalize s.framesFrom p r.core.next = fs
  induction fs generalizing r with
  | nil => rfl
  | cons x fs ih => exact (ih _).trans rfl

theorem amCombine_began (s : State) (d p : Nat) (r : AmdRun) : (s.amCombine d p r).core.began = r.core.began := by
  unfold State.amCombine
  dsimp only
  generalize s.framesFrom p r.core.next = fs
  induction fs generalizing r with
  | nil => rfl
  | cons x fs ih => exact (ih _).trans rfl

theorem amTake_began (s : State) (d p f : Nat) (r : AmdRun) : (s.amTake d p f r).core.began = r.core.began := amCombine_began ..

/-! ## Blocks -/

/-- What a block with input leaves in the core. -/
structure Fed (f : Nat) (r : DemodCore) : Prop where
  began : r.began.isSome = true
  absent : r.absent = false
  gapNext : r.gapNext = 0
  out : ∃ o, r.out = some o ∧ o.frame = f ∧ o.samples.length = o.absent.length

theorem fed_of_blockRun {c r : DemodCore} {f : Nat} (h : BlockRun c f r) (hb : c.began.isSome = true) (ha : c.absent = false) : Fed f r :=
  ⟨by rw [h.began]; exact hb, h.absent.trans ha, h.gapNext, h.out⟩

section
variable {s : State} {i : Nat}

theorem fmdR_of_fmd {t : State} (h : t.fmd = s.fmd) (d : Nat) : t.fmdR d = s.fmdR d := by
  unfold State.fmdR
  rw [h]
theorem amdR_of_amd {t : State} (h : t.amd = s.amd) (d : Nat) : t.amdR d = s.amdR d := by
  unfold State.amdR
  rw [h]

end

theorem fmdBlock_fed {u : State} {f d : Nat} (here : d < u.fmd.length) (usable : u.passUsable 1 (demodPass (u.life ⟨.fmd, d⟩).cur) f = true)
    (i : DemodIn) : Fed f ((u.fmdBlock f d i).fmdR d).core := by
  unfold State.fmdBlock
  dsimp only
  rw [if_pos usable, fmdR_of_fmd (spansOnly_fmd (demodSpan_spansOnly ..))]
  rw [modFmd_fmdR_self (by rw [demodRun_fmd]; exact here)]
  refine fed_of_blockRun (demodRun_blockRun ..) ?_ rfl
  refine (congrArg Option.isSome (fmTake_began ..)).trans ?_
  cases h : (u.fmdR d).core.began with
  | none => rfl
  | some b => exact congrArg Option.isSome h

theorem amdBlock_fed {u : State} {f d : Nat} (here : d < u.amd.length) (usable : u.passUsable 2 (demodPass (u.life ⟨.amd, d⟩).cur) f = true)
    (i : DemodIn) : Fed f ((u.amdBlock f d i).amdR d).core := by
  unfold State.amdBlock
  dsimp only
  rw [if_pos usable, amdR_of_amd (spansOnly_amd (demodSpan_spansOnly ..))]
  generalize hr : u.amTake d _ f _ = r
  have began : r.core.began.isSome = true := by
    rw [← hr, amTake_began]
    cases h : (u.amdR d).core.began with
    | none => rfl
    | some b => exact congrArg Option.isSome h
  clear hr
  rw [modAmd_amdR_self (by rw [demodRun_amd]; exact here)]
  dsimp only
  refine fed_of_blockRun (demodRun_blockRun ..) ?_ ?_
  · exact began
  · rfl

theorem fmdBlock_absent {u : State} {f d : Nat} (here : d < u.fmd.length) (usable : u.passUsable 1 (demodPass (u.life ⟨.fmd, d⟩).cur) f = false)
    (i : DemodIn) : (u.fmdBlock f d i).fmdR d = { u.fmdR d with
      core := (u.fmdR d).core.lose (u.passBad (demodPass (u.life ⟨.fmd, d⟩).cur) || i.sumBad)
        (u.demodAbsent true f (demodPass (u.life ⟨.fmd, d⟩).cur)).2.1, groupConcealed := true } := by
  unfold State.fmdBlock
  dsimp only
  rw [if_neg (by rw [usable]; exact Bool.false_ne_true), fmdR_of_fmd (spansOnly_fmd (demodSpan_spansOnly ..)), modFmd_fmdR_self here]

theorem amdBlock_absent {u : State} {f d : Nat} (here : d < u.amd.length) (usable : u.passUsable 2 (demodPass (u.life ⟨.amd, d⟩).cur) f = false)
    (i : DemodIn) : (u.amdBlock f d i).amdR d = { u.amdR d with
      core := (u.amdR d).core.lose (u.passBad (demodPass (u.life ⟨.amd, d⟩).cur) || i.sumBad)
        (u.demodAbsent false f (demodPass (u.life ⟨.amd, d⟩).cur)).2.1, blockConcealed := true } := by
  unfold State.amdBlock
  dsimp only
  rw [if_neg (by rw [usable]; exact Bool.false_ne_true), amdR_of_amd (spansOnly_amd (demodSpan_spansOnly ..)), modAmd_amdR_self here]

theorem execDemodBlock_of_fmd {s : State} {f d : Nat} (running : (s.advance (frameEnd f)).running .fmd d = true) (i : DemodIn) :
    execDemodBlock f false d i s = done s ((s.advance (frameEnd f)).fmdBlock f d i) := by
  unfold execDemodBlock
  dsimp only
  rw [if_neg Bool.false_ne_true, if_neg Bool.false_ne_true, if_pos running]

theorem execDemodBlock_of_amd {s : State} {f d : Nat} (running : (s.advance (frameEnd f)).running .amd d = true) (i : DemodIn) :
    execDemodBlock f true d i s = done s ((s.advance (frameEnd f)).amdBlock f d i) := by
  unfold execDemodBlock
  dsimp only
  rw [if_pos rfl, if_pos rfl, if_pos running]

theorem demodBlocks : Rules.DemodBlocks := by
  intro s f d i hs u
  refine ⟨fun running => ?_, fun running => ?_⟩
  · have he := execDemodBlock_of_fmd running i
    have here := lt_of_running_fmd running
    refine ⟨fun usable => completes_of_done hs he ?_, fun usable => completes_of_done hs he ?_⟩
    · have fed := fmdBlock_fed here usable i
      generalize u.fmdBlock f d i = v at fed
      exact ⟨fed.began, fed.absent, fed.gapNext, fed.out⟩
    · have left := fmdBlock_absent here usable i
      generalize u.fmdBlock f d i = v at left
      exact ⟨congrArg (fun r => r.core.began) left, congrArg (fun r => r.core.out) left, (congrArg FmdRun.pilot left :),
        (congrArg FmdRun.piConf left :)⟩
  · have he := execDemodBlock_of_amd running i
    have here := lt_of_running_amd running
    refine ⟨fun usable => completes_of_done hs he ?_, fun usable => completes_of_done hs he ?_⟩
    · have fed := amdBlock_fed here usable i
      generalize u.amdBlock f d i = v at fed
      exact ⟨fed.began, fed.absent, fed.out⟩
    · have left := amdBlock_absent here usable i
      generalize u.amdBlock f d i = v at left
      exact ⟨congrArg (fun r => r.core.began) left, congrArg (fun r => r.core.out) left⟩

/-! ## Gates and the limits of concealment -/

theorem execFmdGateOpen_of_began {s : State} {d b : Nat} (hb : (s.fmdR d).core.began = some b) (running : s.running .fmd d = true) :
    execFmdGateOpen d s = done s (s.advance ((ceilDiv (b - 8 * demodPass (s.life ⟨.fmd, d⟩).cur) 30720 + 80) * 30720 +
      8 * demodPass (s.life ⟨.fmd, d⟩).cur)) := by
  unfold execFmdGateOpen
  dsimp only
  rw [hb]
  exact if_pos running

theorem demodGates : Rules.DemodGates := by
  intro s d hs
  refine ⟨fun b hb running => completes_of_done hs (execFmdGateOpen_of_began hb running) rfl, fun t => ⟨fun running began => ?_,
    fun running began => ?_⟩⟩
  · exact completes_of_done hs (c := .fmdConcealLimit t d) (if_pos (by rw [running, began]; rfl)) rfl
  · exact completes_of_done hs (c := .amdConcealLimit t d) (if_pos (by rw [running, began]; rfl)) rfl

/-- Settles O30: the samples of a block keep where its run began, and a span of them reaches programmes, inserts and FCARs alone. -/
theorem demodulators : Obligations.Demodulators := ⟨demodBlocks, demodGates⟩

/-! ## Pilot and carrier windows -/

section
variable {s : State} {f d dev rms began : Nat} (began_ : ((s.advance (frameEnd f)).fmdR d).core.began = some began)
  (running : (s.advance (frameEnd f)).running .fmd d = true) (window : (f + 1) % 128 = 0)
include began_ running window

theorem execPilotWindowEnd_of_window : execPilotWindowEnd f d dev rms s =
    (let u := s.advance (frameEnd f)
     let min_ := 50 * fget (u.life ⟨.fmd, d⟩).cur fmPilotMin
     let p := demodPass (u.life ⟨.fmd, d⟩).cur
     let gate := (ceilDiv (began - 8 * p) 30720 + 80) * 30720 + 8 * p
     let slate (s : State) (code : Nat) : State := s.slateAt code (s.idOf .fmd d) (u.passTime p ((f + 1) * perFrame)) 0 (leBytes 2 dev)
     if (u.fmdR d).pilot = .locked then
       if dev + 50 < min_ ∨ 200 < rms then
         done s (slate (u.modFmd d (fun r => { r with
           pilot := if dev < 50 then .absent else .acquiring, goodWindows := 0, betaFall := 16 })) 0x0304)
       else done s u
     else
       let good := decide (min_ ≤ dev ∧ rms ≤ 100 ∧ gate ≤ (f + 1 - 128) * perFrame)
       let n := if good then (u.fmdR d).goodWindows + 1 else 0
       if 2 ≤ n then done s (slate (u.modFmd d (fun r => { r with pilot := .locked, goodWindows := n })) 0x0303)
       else done s (u.modFmd d (fun r => { r with goodWindows := n, pilot := if min_ ≤ dev then .acquiring else r.pilot }))) := by
  unfold execPilotWindowEnd
  dsimp only
  rw [began_, running, window]
  rfl

end

theorem execCarrierWindowEnd_of_window {s : State} {f d rms : Nat} (running : (s.advance (frameEnd f)).running .amd d = true)
    (began : ((s.advance (frameEnd f)).amdR d).core.began.isSome = true) (window : (f + 1) % 128 = 0) (offset : Int) :
    execCarrierWindowEnd f d rms offset s =
      (let u := s.advance (frameEnd f)
       if (u.amdR d).locked then
         if 250 < rms then
           done s ((u.modAmd d (fun r => { r with locked := false })).slateAt 0x0305 (u.idOf .amd d)
             (u.passTime (demodPass (u.life ⟨.amd, d⟩).cur) ((f + 1) * perFrame)) 0 (leBytes 2 (unsignedOf 16 offset)))
         else done s u
       else done s (u.modAmd d (fun r => { r with locked := decide (rms ≤ 100) }))) := by
  unfold execCarrierWindowEnd
  dsimp only
  rw [began, running, window]
  rfl

theorem pilotWindows {s : State} (hs : s.live) {f d dev rms began : Nat}
    (began_ : ((s.advance (frameEnd f)).fmdR d).core.began = some began) (running : (s.advance (frameEnd f)).running .fmd d = true)
    (window : (f + 1) % 128 = 0) :
    let u := s.advance (frameEnd f)
    let pmin := 50 * fget (u.life ⟨.fmd, d⟩).cur fmPilotMin
    let p := demodPass (u.life ⟨.fmd, d⟩).cur
    let good : Prop := pmin ≤ dev ∧ rms ≤ 100 ∧ (ceilDiv (began - 8 * p) 30720 + 80) * 30720 + 8 * p ≤ (f + 1 - 128) * perFrame
    ((u.fmdR d).pilot = .locked → (dev + 50 < pmin ∨ 200 < rms) → completes (.pilotWindowEnd f d dev rms) s (fun r =>
      State.reportsOnly (s.framed (u.modFmd d (fun x => { x with
        pilot := if dev < 50 then .absent else .acquiring, goodWindows := 0, betaFall := 16 }))) r)) ∧
    ((u.fmdR d).pilot = .locked → ¬ (dev + 50 < pmin ∨ 200 < rms) → completes (.pilotWindowEnd f d dev rms) s (fun r =>
      r = s.framed u)) ∧
    ((u.fmdR d).pilot ≠ .locked → good → 1 ≤ (u.fmdR d).goodWindows → completes (.pilotWindowEnd f d dev rms) s (fun r =>
      State.reportsOnly (s.framed (u.modFmd d (fun x => { x with pilot := .locked, goodWindows := (u.fmdR d).goodWindows + 1 }))) r)) ∧
    ((u.fmdR d).pilot ≠ .locked → ¬ good → completes (.pilotWindowEnd f d dev rms) s (fun r =>
      r = s.framed (u.modFmd d (fun x => { x with goodWindows := 0, pilot := if pmin ≤ dev then .acquiring else x.pilot })))) ∧
    ((u.fmdR d).pilot ≠ .locked → good → (u.fmdR d).goodWindows = 0 → completes (.pilotWindowEnd f d dev rms) s (fun r =>
      r = s.framed (u.modFmd d (fun x => { x with goodWindows := 1, pilot := .acquiring })))) := by
  intro u pmin p good
  have he := execPilotWindowEnd_of_window (dev := dev) (rms := rms) began_ running window
  refine ⟨fun locked lost => ?_, fun locked kept => ?_, fun free ok one => ?_, fun free bad => ?_, fun free ok zero => ?_⟩
  · refine completes_of_done hs (he.trans ((if_pos locked).trans (if_pos lost))) ?_
    exact framed_reportsOnly (slateAt_reportsOnly ..)
  · exact completes_of_done hs (he.trans ((if_pos locked).trans (if_neg kept))) rfl
  · have he := he.trans (if_neg free)
    dsimp only at he
    rw [decide_eq_true ok, if_pos rfl, if_pos (Nat.succ_le_succ one)] at he
    exact completes_of_done hs he (framed_reportsOnly (slateAt_reportsOnly ..))
  · have he := he.trans (if_neg free)
    dsimp only at he
    rw [decide_eq_false bad, if_neg Bool.false_ne_true, if_neg (by decide)] at he
    exact completes_of_done hs he rfl
  · have he := he.trans (if_neg free)
    dsimp only at he
    rw [decide_eq_true ok, if_pos rfl, zero, if_neg (by decide)] at he
    simp only [if_pos (show 50 * fget ((s.advance (frameEnd f)).life ⟨.fmd, d⟩).cur fmPilotMin ≤ dev from ok.1)] at he
    exact completes_of_done hs he rfl

theorem carrierWindows {s : State} (hs : s.live) {f d rms : Nat} (running : (s.advance (frameEnd f)).running .amd d = true)
    (began : ((s.advance (frameEnd f)).amdR d).core.began.isSome = true) (window : (f + 1) % 128 = 0) (offset : Int) :
    let u := s.advance (frameEnd f)
    ((u.amdR d).locked = true → 250 < rms → completes (.carrierWindowEnd f d rms offset) s (fun r =>
      State.reportsOnly (s.framed (u.modAmd d (fun x => { x with locked := false }))) r)) ∧
    ((u.amdR d).locked = true → rms ≤ 250 → completes (.carrierWindowEnd f d rms offset) s (fun r => r = s.framed u)) ∧
    ((u.amdR d).locked = false → completes (.carrierWindowEnd f d rms offset) s (fun r =>
      r = s.framed (u.modAmd d (fun x => { x with locked := decide (rms ≤ 100) })))) := by
  intro u
  have he := execCarrierWindowEnd_of_window running began window (rms := rms) offset
  refine ⟨fun locked lost => ?_, fun locked kept => ?_, fun free => ?_⟩
  · refine completes_of_done hs (he.trans ((if_pos locked).trans (if_pos lost))) ?_
    exact framed_reportsOnly (slateAt_reportsOnly ..)
  · exact completes_of_done hs (he.trans ((if_pos locked).trans (if_neg (Nat.not_lt.mpr kept)))) rfl
  · exact completes_of_done hs (he.trans (if_neg (by rw [free]; exact Bool.false_ne_true))) rfl

/-- Settles O31: in a window of a demodulator that has begun, each outcome is one branch. -/
theorem loopWindows : Obligations.LoopWindows := by
  intro s f d dev rms offset hs window u pmin p
  refine ⟨fun began running began_ => ?_, fun running began => carrierWindows hs running began window offset⟩
  obtain ⟨lost, kept, locks, bad, first⟩ := pilotWindows hs (dev := dev) (rms := rms) began_ running window
  refine ⟨lost, fun locked least angle => kept locked (not_or.mpr ⟨Nat.not_lt.mpr least, Nat.not_lt.mpr angle⟩), fun free least angle gate one => locks free ⟨least, angle, gate⟩ one,
    fun free => ⟨bad free, first free⟩⟩

end Sys2Proof.Proofs
end

section
/-! PROOF. What side data may touch: the service tables, their records, the facts about an engine (R173 to R185, R221). -/
namespace Sys2Proof.Proofs
open Sys2Proof Sys2Proof.Machine Sys2Proof.Laws

/-- `t` differs from `s` at most in the service tables, in what the engines know of their ensembles, and in what a report touches. -/
def tablesOnly (s t : State) : Prop :=
  t = { s with
    host := t.host, log := t.log, flags := t.flags, slates := t.slates, clk := { s.clk with wakeReq := t.clk.wakeReq }
    svc := t.svc, ee := t.ee }

theorem tablesOnly_refl (s : State) : tablesOnly s s := rfl
theorem tablesOnly_trans {a b c : State} (h : tablesOnly a b) (k : tablesOnly b c) : tablesOnly a c := by
  unfold tablesOnly at *
  rw [k, h]
theorem tablesOnly_of_reportsOnly {s t : State} (h : s.reportsOnly t) : tablesOnly s t := by
  unfold tablesOnly
  rw [h]
theorem tablesOnly_ite {p : Prop} [Decidable p] {s t u : State} (h : tablesOnly s t) (k : tablesOnly s u) : tablesOnly s (if p then t else u) := by
  split
  · exact h
  · exact k
theorem foldl_tablesOnly {α : Type} (f : State → α → State) (h : ∀ b a, tablesOnly b (f b a)) (l : List α) (s : State) :
    tablesOnly s (l.foldl f s) := foldl_keeps tablesOnly tablesOnly_refl (fun _ _ _ => tablesOnly_trans) f h l s

section
variable {s t : State} (h : tablesOnly s t)
include h
theorem tablesOnly_fmd : t.fmd = s.fmd := by rw [h]
theorem tablesOnly_amd : t.amd = s.amd := by rw [h]
end

theorem modSvc_tablesOnly (s : State) (f : Services → Services) : tablesOnly s (s.modSvc f) := rfl
theorem withSvc_tablesOnly (s : State) (v : Services) : tablesOnly s { s with svc := v } := rfl
theorem modEe_tablesOnly (s : State) (i : Nat) (f : EeRun → EeRun) : tablesOnly s (s.modEe i f) := rfl

/-! ## Records -/

theorem putSideOn_tablesOnly (s : State) (ring kind : Nat) (src : Id) (chan : Nat) (dump : Bool) (body : List Byte) :
    tablesOnly s (s.putSideOn ring kind src chan dump body) := by
  unfold State.putSideOn
  extract_lets key due v
  have record : tablesOnly s v := tablesOnly_of_reportsOnly (reportsOnly_of_hostOnly (putRecord_hostOnly ..))
  clear_value v
  exact tablesOnly_ite (tablesOnly_trans record rfl) record

theorem dumpSource_tablesOnly (s : State) (ring : Nat) (src : Id) : tablesOnly s (s.dumpSource ring src) := by
  unfold State.dumpSource
  extract_lets r mine v1 v2 v3 v4
  have h1 : tablesOnly s v1 := tablesOnly_ite (foldl_tablesOnly _ (fun _ _ => putSideOn_tablesOnly ..) _ _) (tablesOnly_refl _)
  have h2 : tablesOnly v1 v2 := tablesOnly_ite (foldl_tablesOnly _ (fun _ _ => putSideOn_tablesOnly ..) _ _) (tablesOnly_refl _)
  have h3 : tablesOnly v2 v3 := tablesOnly_ite (foldl_tablesOnly _ (fun _ _ => putSideOn_tablesOnly ..) _ _) (tablesOnly_refl _)
  have h4 : tablesOnly v3 v4 := tablesOnly_ite (foldl_tablesOnly _ (fun _ _ => putSideOn_tablesOnly ..) _ _) (tablesOnly_refl _)
  clear_value v1 v2 v3 v4
  exact tablesOnly_trans (tablesOnly_trans (tablesOnly_trans h1 h2) (tablesOnly_trans h3 h4)) rfl

theorem putSide_tablesOnly (s : State) (bitNo kind : Nat) (src : Id) (chan : Nat) (body : List Byte) :
    tablesOnly s (s.putSide bitNo kind src chan body) :=
  foldl_tablesOnly _ (fun b _ => tablesOnly_ite (tablesOnly_trans (tablesOnly_ite (dumpSource_tablesOnly ..) (tablesOnly_refl b))
    (putSideOn_tablesOnly ..)) (tablesOnly_refl b)) _ s

theorem putSvc_tablesOnly (s : State) (v : Service) (event : Nat) (time : Word64) : tablesOnly s (s.putSvc v event time) :=
  putSide_tablesOnly ..
theorem putComp_tablesOnly (s : State) (c : Component) (event : Nat) (time : Word64) : tablesOnly s (s.putComp c event time) :=
  putSide_tablesOnly ..

/-! ## Entries of the tables -/

theorem tableFull_tablesOnly (s : State) (o : Origin) (keyKind key : Nat) : tablesOnly s (s.tableFull o keyKind key) :=
  tablesOnly_trans (b := { s with svc := { s.svc with tableFull := s.svc.tableFull + 1 } }) rfl
    (tablesOnly_of_reportsOnly (reportsOnly_trans (setFlag_reportsOnly ..) (addDaily_reportsOnly ..)))

theorem upsertSvc_tablesOnly (s : State) (v : Service) (time : Word64) : tablesOnly s (s.upsertSvc v time) := by
  unfold State.upsertSvc
  split
  · exact tablesOnly_ite (tablesOnly_refl s) (tablesOnly_trans (withSvc_tablesOnly ..) (putSvc_tablesOnly ..))
  · exact tablesOnly_ite (tableFull_tablesOnly ..) (tablesOnly_trans (withSvc_tablesOnly ..) (putSvc_tablesOnly ..))

theorem upsertComp_tablesOnly (s : State) (c : Component) (time : Word64) : tablesOnly s (s.upsertComp c time) := by
  unfold State.upsertComp
  split
  · exact tablesOnly_ite (tablesOnly_refl s) (tablesOnly_trans (withSvc_tablesOnly ..) (putComp_tablesOnly ..))
  · exact tablesOnly_ite (tableFull_tablesOnly ..) (tablesOnly_trans (withSvc_tablesOnly ..) (putComp_tablesOnly ..))

theorem putText_tablesOnly (s : State) (x : TextEntry) (time : Word64) : tablesOnly s (s.putText x time) := by
  unfold State.putText
  exact tablesOnly_ite (tablesOnly_refl s) (tablesOnly_trans (withSvc_tablesOnly ..) (putSide_tablesOnly ..))

theorem putAlt_tablesOnly (s : State) (o : Origin) (a : AltIn) : tablesOnly s (s.putAlt o a) := by
  unfold State.putAlt
  exact tablesOnly_ite (tablesOnly_refl s) (tablesOnly_trans (withSvc_tablesOnly ..) (putSide_tablesOnly ..))

theorem confirmOrigin_tablesOnly (s : State) (o : Origin) : tablesOnly s (s.confirmOrigin o) := rfl

theorem staleOrigin_tablesOnly (s : State) (sel : Origin → Bool) (keySel : Service → Bool) : tablesOnly s (s.staleOrigin sel keySel) := by
  unfold State.staleOrigin
  extract_lets hit comps w v1 v2
  have h1 : tablesOnly s v1 := withSvc_tablesOnly ..
  have h2 : tablesOnly v1 v2 := foldl_tablesOnly _ (fun _ _ => putSvc_tablesOnly ..) _ _
  clear_value v1 v2
  exact tablesOnly_trans (tablesOnly_trans h1 h2) (foldl_tablesOnly _ (fun _ _ => putComp_tablesOnly ..) _ _)

/-! ## Announcements -/

theorem annSlate_tablesOnly (s : State) (a : Ann) (on : Bool) : tablesOnly s (s.annSlate a on) :=
  tablesOnly_of_reportsOnly (slateDet_reportsOnly ..)

theorem annOn_tablesOnly (s : State) (a : Ann) : tablesOnly s (s.annOn a) :=
  tablesOnly_ite (modSvc_tablesOnly ..) (tablesOnly_trans (modSvc_tablesOnly ..) (annSlate_tablesOnly ..))

theorem annOff_tablesOnly (s : State) (sel : Ann → Bool) : tablesOnly s (s.annOff sel) :=
  tablesOnly_trans (modSvc_tablesOnly ..) (foldl_tablesOnly _ (fun _ _ => annSlate_tablesOnly ..) _ _)

theorem annFm_tablesOnly (s : State) (o : Origin) (key types : Nat) (on eon : Bool) : tablesOnly s (s.annFm o key types on eon) :=
  tablesOnly_ite (annOn_tablesOnly ..) (annOff_tablesOnly ..)

/-! ## RDS groups -/

theorem modRdsC_tablesOnly (s : State) (d : Nat) (f : RdsConfirm → RdsConfirm) : tablesOnly s (s.modRdsC d f) := modSvc_tablesOnly ..

theorem rdsRt_tablesOnly (s : State) (d : Nat) (o : Origin) (key ab addr width v : Nat) (time : Word64) :
    tablesOnly s (s.rdsRt d o key ab addr width v time) := by
  unfold State.rdsRt
  extract_lets c c' p w seen ended last
  have h : tablesOnly s w := modRdsC_tablesOnly ..
  clear_value w last
  split
  · exact h
  · exact tablesOnly_ite (tablesOnly_trans h (putText_tablesOnly ..)) h

theorem rdsTables_tablesOnly (s : State) (d key : Nat) (g : RdsGroup) (time : Word64) : tablesOnly s (s.rdsTables d key g time) := by
  unfold State.rdsTables
  extract_lets o s1 e1 s2 c1
  have h2 : tablesOnly s s2 := tablesOnly_trans (confirmOrigin_tablesOnly ..) (upsertSvc_tablesOnly ..)
  clear_value s2 c1
  split
  · exact tablesOnly_trans h2 (modRdsC_tablesOnly ..)
  next b _ =>
  extract_lets v tp s3 e2 s4 s5 s6 type verB v' c2 s7 e3 s8 s9 c3 s10 variant
  have h3 : tablesOnly s s3 := tablesOnly_trans h2 (modRdsC_tablesOnly ..)
  have h6 : tablesOnly s s6 := by
    have h5 : tablesOnly s s5 := tablesOnly_trans (tablesOnly_trans h3 (upsertSvc_tablesOnly ..)) (annFm_tablesOnly ..)
    exact tablesOnly_ite (tablesOnly_ite h5 (tablesOnly_trans h5 (annFm_tablesOnly ..))) h3
  clear_value s3 s4 s5 s6 c2
  have h9 : tablesOnly s s9 := by
    have h7 : tablesOnly s s7 := tablesOnly_trans h6 (modRdsC_tablesOnly ..)
    exact tablesOnly_ite (tablesOnly_trans (tablesOnly_trans h7 (upsertSvc_tablesOnly ..)) (annFm_tablesOnly ..)) h7
  clear_value s7 s8 s9 c3
  have h10 : tablesOnly s s10 := by
    cases hg : grpUse g 3 with
    | none => simp only [s10, hg]; exact h9
    | some w =>
      simp only [s10, hg]
      exact tablesOnly_ite (tablesOnly_trans (tablesOnly_trans (tablesOnly_trans h9 (modRdsC_tablesOnly ..)) (upsertSvc_tablesOnly ..))
        (putText_tablesOnly ..)) (tablesOnly_trans h9 (modRdsC_tablesOnly ..))
  clear_value s10
  refine tablesOnly_ite ?_ (tablesOnly_ite ?_ (tablesOnly_ite ?_ (tablesOnly_ite ?_ (tablesOnly_ite ?_ h6))))
  · split
    · refine tablesOnly_ite h10 ?_
      extract_lets r s11
      have h11 : tablesOnly s s11 := tablesOnly_trans h10 (modRdsC_tablesOnly ..)
      clear_value s11 r
      split
      · exact tablesOnly_trans h11 (putAlt_tablesOnly ..)
      · exact h11
    · exact h10
  · split
    · refine tablesOnly_ite h6 ?_
      extract_lets s11
      have h11 : tablesOnly s s11 := tablesOnly_trans h6 (modRdsC_tablesOnly ..)
      clear_value s11
      exact tablesOnly_ite (tablesOnly_trans h11 (upsertSvc_tablesOnly ..)) h11
    · exact h6
  · split
    · refine tablesOnly_ite (tablesOnly_trans h6 (rdsRt_tablesOnly ..)) ?_
      split
      · exact tablesOnly_trans h6 (rdsRt_tablesOnly ..)
      · exact h6
    · exact h6
  · split
    · refine tablesOnly_ite h6 ?_
      extract_lets p s11
      have h11 : tablesOnly s s11 := tablesOnly_trans h6 (modRdsC_tablesOnly ..)
      clear_value s11 p
      exact tablesOnly_ite (tablesOnly_trans h11 (putText_tablesOnly ..)) h11
    · exact h6
  · split
    · exact h6
    refine tablesOnly_ite (tablesOnly_trans h6 (annFm_tablesOnly ..)) ?_
    split
    · exact h6
    refine tablesOnly_ite ?_ (tablesOnly_ite ?_ h6)
    · extract_lets held r s11
      have h11 : tablesOnly s s11 := tablesOnly_trans h6 (modRdsC_tablesOnly ..)
      clear_value s11 r
      split
      · exact tablesOnly_trans h11 (putAlt_tablesOnly ..)
      · exact h11
    · split
      · exact h6
      · exact tablesOnly_ite h6 (tablesOnly_trans h6 (putAlt_tablesOnly ..))

/-! ## Facts -/

theorem modChan_tablesOnly (s : State) (e c : Nat) (f : EeChan → EeChan) : tablesOnly s (s.modChan e c f) := modEe_tablesOnly ..
theorem modSub_tablesOnly (s : State) (e i : Nat) (f : EeSub → EeSub) : tablesOnly s (s.modSub e i f) := modEe_tablesOnly ..

theorem applyFact_tablesOnly (o : Origin) (time : Word64) (s : State) (f : Fact) : tablesOnly s (State.applyFact o time s f) := by
  unfold State.applyFact
  split
  next eid _ al change => -- the ensemble
    extract_lets s1 s2 s3
    have h2 : tablesOnly s s2 := tablesOnly_trans (tablesOnly_trans (modChan_tablesOnly ..) (modEe_tablesOnly ..)) (modSvc_tablesOnly ..)
    clear_value s1 s2
    exact tablesOnly_ite h2 (tablesOnly_trans (tablesOnly_trans h2 (annOff_tablesOnly ..)) (modSvc_tablesOnly ..))
  next => -- a sub-channel
    extract_lets
    refine tablesOnly_ite (modSub_tablesOnly ..) (tablesOnly_trans (modSub_tablesOnly ..) (foldl_tablesOnly _ ?_ _ _))
    exact fun _ _ => upsertComp_tablesOnly ..
  next => -- a component
    extract_lets
    exact tablesOnly_ite (modSvc_tablesOnly ..)
      (tablesOnly_trans (tablesOnly_trans (modSub_tablesOnly ..) (upsertSvc_tablesOnly ..)) (upsertComp_tablesOnly ..))
  next => exact upsertSvc_tablesOnly ..
  next => exact upsertSvc_tablesOnly ..
  next => exact upsertSvc_tablesOnly ..
  next => -- a label
    extract_lets
    exact tablesOnly_trans (tablesOnly_ite (upsertSvc_tablesOnly ..) (tablesOnly_refl s)) (putText_tablesOnly ..)
  next => exact putAlt_tablesOnly ..
  next => exact modSvc_tablesOnly ..
  next => exact tablesOnly_ite (annOff_tablesOnly ..) (annOn_tablesOnly ..)
  next => exact upsertSvc_tablesOnly ..
  next => exact tablesOnly_refl s

theorem applyFacts_tablesOnly (s : State) (o : Origin) (time : Word64) (fs : List Fact) : tablesOnly s (s.applyFacts o time fs) :=
  foldl_tablesOnly _ (applyFact_tablesOnly o time) _ s

theorem takeAmss_tablesOnly (s : State) (d : Nat) (b : AmssIn) (time : Word64) : tablesOnly s (s.takeAmss d b time) := by
  unfold State.takeAmss
  exact tablesOnly_ite (tablesOnly_trans (tablesOnly_trans (modSvc_tablesOnly ..) (confirmOrigin_tablesOnly ..)) (applyFacts_tablesOnly ..))
    (modSvc_tablesOnly ..)

end Sys2Proof.Proofs
end

section
/-! PROOF. RDS and AMSS reception (R125 to R127, R131). -/
namespace Sys2Proof.Proofs
open Sys2Proof Sys2Proof.Machine Sys2Proof.Laws

/-! ## Synchronisation -/

/-- The two blocks that a search compares. -/
def rdsWords (u : State) (d : Nat) (words : Option (BitVec 26 × BitVec 26)) : BitVec 26 × BitVec 26 :=
  words.getD (BitVec.ofNat 26 (bitsToNat ((((u.fmdR d).path.lastBits u.now 52).map Prod.snd).take 26)),
    BitVec.ofNat 26 (bitsToNat ((((u.fmdR d).path.lastBits u.now 52).map Prod.snd).drop 26)))

theorem execRdsSync_eq (t d : Nat) (words : Option (BitVec 26 × BitVec 26)) (s : State) : execRdsSync t d words s =
    (let u := s.advance t
     let rbds := fget (u.life ⟨.fmd, d⟩).cur fmRdsMode == 2
     let w := rdsWords u d words
     if u.running .fmd d && (u.fmdR d).rds == .search && rdsFollows (rdsOffsetOf rbds w.1) (rdsOffsetOf rbds w.2) then
       done s ((u.modFmd d (fun r => { r with rds := .sync, resync := true, groupConcealed := false, badRun := 0 })).slateAt 0x0301
         (u.idOf .fmd d) (u.passTime (demodPass (u.life ⟨.fmd, d⟩).cur) u.now) 0 (leBytes 1 (rdsOffsetCode (rdsOffsetOf rbds w.2))))
     else done s u) := by
  cases words with
  | none => rfl
  | some w => rfl

theorem rdsSyncLoss : Rules.RdsSyncLoss := by
  intro s t d words loop hs u b held w rbds running
  have he := execRdsSync_eq t d words s
  refine ⟨fun search follows => ?_, fun search breaks => ?_, fun sync lost => ?_⟩
  · refine completes_of_done hs (he.trans (if_pos ?_)) (framed_reportsOnly (slateAt_reportsOnly ..))
    exact Bool.and_eq_true_iff.mpr ⟨Bool.and_eq_true_iff.mpr ⟨running, beq_iff_eq.mpr search⟩, follows⟩
  · refine completes_of_done hs (he.trans (if_neg fun all => ?_)) rfl
    exact absurd (breaks.symm.trans (Bool.and_eq_true_iff.mp all).2) Bool.false_ne_true
  · refine completes_of_done hs (c := .rdsLoss t d loop) (if_pos ?_) (framed_reportsOnly (slateAt_reportsOnly ..))
    refine Bool.and_eq_true_iff.mpr ⟨Bool.and_eq_true_iff.mpr ⟨running, beq_iff_eq.mpr sync⟩, ?_⟩
    exact Bool.or_eq_true_iff.mpr (lost.imp_right decide_eq_true)

/-! ## Correction of a block -/

/-- The offsets at place `i` of a group. -/
def placeOffsets (i : Nat) : List RdsOffset := match i with | 0 => [.a] | 1 => [.b] | 2 => [.c, .cPrime] | _ => [.d]

/-- The bursts that RDS_CORR allows, with their lengths, and the offsets that may stand at place `i`. -/
def burstTries (corr i : Nat) : List (Nat × BitVec 26 × RdsOffset) :=
  ((List.range (burstMost corr)).map (· + 1)).flatMap (fun n => (bursts n).flatMap (fun e => (placeOffsets i).map (fun o => (n, e, o))))

theorem mem_burstTries {corr i n : Nat} {e : BitVec 26} {o : RdsOffset} :
    (n, e, o) ∈ burstTries corr i ↔ 1 ≤ n ∧ n ≤ burstMost corr ∧ e ∈ bursts n ∧ o ∈ placeOffsets i := by
  simp only [burstTries, List.mem_flatMap, List.mem_map, List.mem_range, Prod.mk.injEq]
  constructor
  · rintro ⟨_, ⟨k, hk, rfl⟩, e', he, o', ho, rfl, rfl, rfl⟩
    exact ⟨by omega, by omega, he, ho⟩
  · rintro ⟨one, most, he, ho⟩
    exact ⟨n, ⟨n - 1, by omega, by omega⟩, e, he, o, ho, rfl, rfl, rfl⟩

/-- What a block is read as: as sent, corrected by a burst, or BAD. -/
theorem rdsBlock_cases (corr i : Nat) (w : BitVec 26) :
    (∃ o, o ∈ placeOffsets i ∧ offsetWord o = rdsSyndrome w ∧ rdsBlock corr false i w = (⟨BitVec.ofNat 16 (w.toNat / 1024), o, .ok⟩, 0)) ∨
    ((∀ o, o ∈ placeOffsets i → offsetWord o ≠ rdsSyndrome w) ∧
      ((∃ n e o k, (n, e, o) ∈ burstTries corr i ∧ offsetWord o = rdsSyndrome (w ^^^ e) ∧
        rdsBlock corr false i w = (⟨BitVec.ofNat 16 ((w ^^^ e).toNat / 1024), o, if n ≤ 2 then .corrSmall else .corrLarge⟩, k)) ∨
      ((∀ n e o, (n, e, o) ∈ burstTries corr i → offsetWord o ≠ rdsSyndrome (w ^^^ e)) ∧
        rdsBlock corr false i w = (⟨BitVec.ofNat 16 (w.toNat / 1024), .none, .bad⟩, 0)))) := by
  have he : rdsBlock corr false i w = match (placeOffsets i ++ []).find? (fun o => offsetWord o == rdsSyndrome w) with
      | some o => (⟨BitVec.ofNat 16 (w.toNat / 1024), o, .ok⟩, 0)
      | none => match (burstTries corr i).find? (fun x => offsetWord x.2.2 == rdsSyndrome (w ^^^ x.2.1)) with
        | some x => (⟨BitVec.ofNat 16 ((w ^^^ x.2.1).toNat / 1024), x.2.2, if x.1 ≤ 2 then .corrSmall else .corrLarge⟩,
            ((List.range 26).filter (fun k => x.2.1.getLsbD k)).length)
        | none => (⟨BitVec.ofNat 16 (w.toNat / 1024), .none, .bad⟩, 0) := rfl
  rw [List.append_nil] at he
  cases first : (placeOffsets i).find? (fun o => offsetWord o == rdsSyndrome w) with
  | some o =>
    rw [first] at he
    exact .inl ⟨o, List.mem_of_find?_eq_some first, by simpa using List.find?_some first, he⟩
  | none =>
    rw [first] at he
    refine .inr ⟨by simpa using first, ?_⟩
    cases second : (burstTries corr i).find? (fun x => offsetWord x.2.2 == rdsSyndrome (w ^^^ x.2.1)) with
    | some x =>
      rw [second] at he
      exact .inl ⟨x.1, x.2.1, x.2.2, _, List.mem_of_find?_eq_some second, by simpa using List.find?_some second, he⟩
    | none =>
      rw [second] at he
      refine .inr ⟨fun n e o hm => ?_, he⟩
      simpa using List.find?_eq_none.mp second (n, e, o) hm

theorem rdsCorrection : Rules.RdsCorrection := by
  intro corr i w _ place x
  change let place := placeOffsets i; _
  intro place
  rcases rdsBlock_cases corr i w with ⟨o, ho, hw, hx⟩ | ⟨none_, ⟨n, e, o, k, hm, hw, hx⟩ | ⟨all, hx⟩⟩
  · have hx : x = _ := hx
    rw [hx]
    exact ⟨⟨fun _ => ⟨o, ho, hw⟩, fun _ => rfl⟩, fun _ => ⟨rfl, rfl⟩, fun _ => .inl rfl, fun _ => nofun, nofun, nofun⟩
  · have hx : x = _ := hx
    obtain ⟨one, most, he, ho⟩ := mem_burstTries.mp hm
    rw [hx]
    by_cases two : n ≤ 2
    · rw [if_pos two]
      refine ⟨⟨nofun, fun ⟨o', ho', hw'⟩ => absurd hw' (none_ o' ho')⟩, nofun, fun zero => ?_, fun _ => nofun,
        fun _ => ⟨n, e, o, one, most, he, ho, hw, rfl, rfl, ⟨fun _ => two, fun _ => rfl⟩⟩, nofun⟩
      rw [zero] at most
      exact absurd (one.trans most) (by decide)
    · rw [if_neg two]
      refine ⟨⟨nofun, fun ⟨o', ho', hw'⟩ => absurd hw' (none_ o' ho')⟩, nofun, fun zero => ?_, fun small => ?_,
        fun _ => ⟨n, e, o, one, most, he, ho, hw, rfl, rfl, ⟨nofun, fun h => absurd h two⟩⟩, nofun⟩
      · rw [zero] at most
        exact absurd (one.trans most) (by decide)
      · rw [small] at most
        exact absurd most two
  · have hx : x = _ := hx
    rw [hx]
    exact ⟨⟨nofun, fun ⟨o', ho', hw'⟩ => absurd hw' (none_ o' ho')⟩, nofun, fun _ => .inr rfl, fun _ => nofun, nofun,
      fun _ n e o one most he ho => all n e o (mem_burstTries.mpr ⟨one, most, he, ho⟩)⟩

/-! ## The PI -/

theorem rdsQueue_fmd (s : State) (d time : Nat) (words : List Word16) (prime : Bool) : (s.rdsQueue d time words prime).fmd = s.fmd := by
  refine foldl_keeps (fun a b : State => b.fmd = a.fmd) (fun _ => rfl)
    (fun a b c (h : b.fmd = a.fmd) (k : c.fmd = b.fmd) => k.trans h) _ (fun b c => ?_) _ s
  dsimp only
  split
  · split
    · rfl
    · rfl
  · rfl

/-- PI tracking after a group whose block A brings a valid PI and whose block C′ brings none. -/
def piAfter (r : FmdRun) (v : Word16) : PiAcc := piStep r.piLast (some v) ⟨r.piConf, r.piCand, [], false, false, false⟩ v false

/-- What such a group leaves in the run of its FMD. -/
structure PiLeft (old : FmdRun) (v : Word16) (r : FmdRun) : Prop where
  resync : r.resync = false
  piLast : r.piLast = some v
  piConf : r.piConf = (piAfter old v).conf
  piCand : r.piCand = (piAfter old v).cand

theorem takeRdsGroup_piLeft {u : State} {d : Nat} {g : RdsGroup} {v : Word16} (here : d < u.fmd.length)
    (mode : (fget (u.life ⟨.fmd, d⟩).cur fmRdsMode == 2) = false) (ha : piOf g 0 .a = some v) (hc : piOf g 2 .cPrime = none) :
    PiLeft (u.fmdR d) v ((u.takeRdsGroup d g).fmdR d) := by
  unfold State.takeRdsGroup
  extract_lets r b p rbds blocks isE a c x0 x1 x2 blocks' g' whole valid prime time seen stat flags words body o old u1 u2 u3 u4 mine u5 fourA
  have notE : isE = false := by
    have off : rbds = false := mode
    simp only [isE, off, Bool.false_and]
  have isA : a = some v := by simp only [a, notE, Bool.false_eq_true, if_false, ha]
  have isC : c = none := by simp only [c, notE, Bool.false_eq_true, if_false, hc]
  have tracked : x2 = piAfter (u.fmdR d) v := by simp only [x2, x1, isA, isC]; rfl
  have kept : u1.fmdR d = _ := modFmd_fmdR_self here _
  have left : PiLeft (u.fmdR d) v (u1.fmdR d) := by
    rw [kept]
    refine ⟨rfl, ?_, congrArg PiAcc.conf tracked, congrArg PiAcc.cand tracked⟩
    simp only [isC, isA]
  clear_value old
  have tables1 : tablesOnly u1 u2 := foldl_tablesOnly _ (fun s y => by
    extract_lets s'
    have slate : tablesOnly s s' := tablesOnly_of_reportsOnly (slateAt_reportsOnly ..)
    clear_value s'
    split
    · exact tablesOnly_trans slate (staleOrigin_tablesOnly ..)
    · exact slate) _ _
  have tables2 : tablesOnly u2 u3 := tablesOnly_ite (modRdsC_tablesOnly ..) (tablesOnly_refl u2)
  have tables3 : tablesOnly u3 u4 := putSide_tablesOnly ..
  have tables4 : tablesOnly u4 u5 := by
    cases hx : x2.conf with
    | none => simp only [u5, hx]; exact tablesOnly_refl u4
    | some pi => simp only [u5, hx]; exact tablesOnly_ite (rdsTables_tablesOnly ..) (modRdsC_tablesOnly ..)
  have fmd : (if (valid && !isE && !fourA) = true then u5.rdsQueue d time words prime else u5).fmd = u1.fmd := by
    have tables := tablesOnly_fmd (tablesOnly_trans (tablesOnly_trans tables1 tables2) (tablesOnly_trans tables3 tables4))
    split
    · exact (rdsQueue_fmd ..).trans tables
    · exact tables
  rw [fmdR_of_fmd fmd]
  exact left

/-- The PI that a first group brings is a candidate; the second in a row confirms it. -/
theorem piAfter_eq (r : FmdRun) (v : Word16) :
    (piAfter r v).conf = (if r.piCand = some v ∧ r.piLast = some v then some v else r.piConf) ∧
    (r.piConf = some v → (piAfter r v).cand = none) ∧
    (r.piConf ≠ some v → r.piCand ≠ some v → (piAfter r v).cand = some v) := by
  unfold piAfter piStep
  simp only [Bool.false_eq_true, false_and, if_false, Bool.or_false]
  by_cases confirmed : r.piConf = some v
  · rw [if_pos confirmed]
    refine ⟨?_, fun _ => rfl, fun h => absurd confirmed h⟩
    split
    · exact confirmed
    · rfl
  · rw [if_neg confirmed]
    refine ⟨?_, fun h => absurd h confirmed, fun _ fresh => by rw [if_neg fresh]⟩
    by_cases candidate : r.piCand = some v
    · rw [if_pos candidate]
      by_cases again : r.piLast = some v
      · rw [if_pos again, if_pos ⟨candidate, again⟩]
      · rw [if_neg again, if_neg (fun h => again h.2)]
    · rw [if_neg candidate, if_neg (fun h => candidate h.1)]

theorem execRdsGroup_of_sync {s : State} {t d : Nat} (running : (s.advance t).running .fmd d = true)
    (sync : ((s.advance t).fmdR d).rds = .sync) (g : RdsGroupIn) : execRdsGroup t d g s = done s ((s.advance t).takeRdsGroup d
      (rdsDecode g (fget ((s.advance t).life ⟨.fmd, d⟩).cur fmRdsCorr) (fget ((s.advance t).life ⟨.fmd, d⟩).cur fmRdsMode == 2)
        ((s.advance t).fmdR d).path (s.advance t).now)) := by
  unfold execRdsGroup
  dsimp only
  rw [running, sync]
  rfl

theorem rdsPi : Rules.RdsPi := by
  intro s t d g v hs u x running sync mode ha hc
  have off : (fget (u.life ⟨.fmd, d⟩).cur fmRdsMode == 2) = false := by rw [mode]; rfl
  have he : exec (.rdsGroup t d g) s = done s (u.takeRdsGroup d x) := by
    have he := execRdsGroup_of_sync running sync g
    rw [show (fget ((s.advance t).life ⟨.fmd, d⟩).cur fmRdsMode == 2) = false from off] at he
    exact he
  refine completes_of_done hs he ?_
  have left := takeRdsGroup_piLeft (lt_of_running_fmd running) off ha hc
  obtain ⟨conf, cleared, fresh⟩ := piAfter_eq (u.fmdR d) v
  generalize u.takeRdsGroup d x = w at left
  exact ⟨left.resync, left.piLast, left.piConf.trans conf, fun h => left.piCand.trans (cleared h), fun h k => left.piCand.trans (fresh h k)⟩

/-! ## AMSS -/

/-- What a block of AMSS leaves in the run of its AMD. -/
structure AmssLeft (ok : Bool) (x r : AmdRun) : Prop where
  good : r.amssGood = if ok then x.amssGood + 1 else 0
  bad : r.amssBad = if ok then 0 else x.amssBad + 1
  sync : r.amss = if x.amss = .sync then (if 4 ≤ (if ok then 0 else x.amssBad + 1) then .search else .sync)
    else if 2 ≤ (if ok then x.amssGood + 1 else 0) then .sync else .search

/-- The AMD stands in its list, and its run is so. -/
structure AmssAt (ok : Bool) (x : AmdRun) (d : Nat) (s : State) : Prop where
  here : d < s.amd.length
  left : AmssLeft ok x (s.amdR d)

theorem AmssAt.of_amd {ok : Bool} {x : AmdRun} {d : Nat} {s t : State} (h : AmssAt ok x d s) (same : t.amd = s.amd) : AmssAt ok x d t :=
  ⟨same ▸ h.here, amdR_of_amd same d ▸ h.left⟩

theorem AmssAt.mod {ok : Bool} {x : AmdRun} {d : Nat} {s : State} (h : AmssAt ok x d s) {f : AmdRun → AmdRun}
    (good : ∀ r, (f r).amssGood = r.amssGood) (bad : ∀ r, (f r).amssBad = r.amssBad) (sync : ∀ r, (f r).amss = r.amss) :
    AmssAt ok x d (s.modAmd d f) where
  here := by
    show d < (modAt d (Obj.withRun f) s.amd).length
    rw [modAt_length]
    exact h.here
  left := by
    rw [modAmd_amdR_self h.here]
    exact ⟨(good _).trans h.left.good, (bad _).trans h.left.bad, (sync _).trans h.left.sync⟩

/-- A block passes. -/
def amssOk (x : AmdRun) (b : AmssIn) : Bool := (if b.fromBits then (Config.amssBlock (x.path.bits.map Prod.snd)).1 else b.ok) && x.locked

theorem execAmssBlock_left {s : State} {t d : Nat} (running : (s.advance t).running .amd d = true)
    (sync : ((s.advance t).amdR d).amss ≠ .off) (began : ((s.advance t).amdR d).core.began.isSome = true) (b : AmssIn) :
    ∃ v, execAmssBlock t d b s = done s v ∧ AmssLeft (amssOk ((s.advance t).amdR d) b) ((s.advance t).amdR d) (v.amdR d) := by
  unfold execAmssBlock
  extract_lets u r p x b' ok good bad now u1 id u2 time conc body u3
  have here : d < u.amd.length := lt_of_running_amd running
  have entered : (u.running .amd d && r.amss != .off && r.core.began.isSome) = true :=
    Bool.and_eq_true_iff.mpr ⟨Bool.and_eq_true_iff.mpr ⟨running, bne_iff_ne.mpr sync⟩, began⟩
  rw [if_pos entered]
  have passes : ok = amssOk r b := by
    simp only [ok, b', amssOk]
    split <;> rfl
  rw [← passes]
  have at1 : AmssAt ok r d u1 := by
    refine ⟨?_, ?_⟩
    · show d < (modAt d _ u.amd).length
      rw [modAt_length]
      exact here
    · rw [modAmd_amdR_self here]
      exact ⟨rfl, rfl, rfl⟩
  have at2 : AmssAt ok r d u2 := by
    simp only [u2]
    split
    · exact (at1.of_amd (reportsOnly_amd (slateAt_reportsOnly ..))).mod (fun _ => rfl) (fun _ => rfl) (fun _ => rfl)
    · exact at1
  have quiet : AmssAt ok r d (u2.modAmd d (fun r => { r with resync := false, blockConcealed := false })) :=
    at2.mod (fun _ => rfl) (fun _ => rfl) (fun _ => rfl)
  have at3 : AmssAt ok r d u3 := quiet.of_amd (tablesOnly_amd (putSide_tablesOnly ..))
  clear_value u1 u2 u3
  split
  · exact ⟨_, rfl, (at3.of_amd (tablesOnly_amd (takeAmss_tablesOnly ..))).left⟩
  · have at4 : AmssAt ok r d (u2.modAmd d (fun r => { r with blockConcealed := false })) :=
      at2.mod (fun _ => rfl) (fun _ => rfl) (fun _ => rfl)
    exact ⟨_, rfl, at4.left⟩

theorem amssBlocks : Rules.AmssBlocks := by
  intro s t d b hs u x running sync began ok
  obtain ⟨v, he, left⟩ := execAmssBlock_left running sync began b
  refine completes_of_done hs he ?_
  have good : (v.amdR d).amssGood = if ok then x.amssGood + 1 else 0 := left.good
  have bad : (v.amdR d).amssBad = if ok then 0 else x.amssBad + 1 := left.bad
  refine ⟨good, bad, ?_⟩
  show (v.amdR d).amss = if x.amss = .sync then (if 4 ≤ (v.amdR d).amssBad then .search else .sync)
    else if 2 ≤ (v.amdR d).amssGood then .sync else .search
  rw [good, bad]
  exact left.sync

/-- Settles O32: two words decide a search, a burst a block's correction, PI tracking the PI, and the tables leave the receivers. -/
theorem rdsAndAmss : Obligations.RdsAndAmss := ⟨rdsSyncLoss, rdsCorrection, rdsPi, amssBlocks⟩

end Sys2Proof.Proofs
end

section
/-! PROOF. Slews, PTM dialogs, pulse bursts (R284, R287, R295 to R297), and a Cue outside the device's own (R299). -/
namespace Sys2Proof.Proofs
open Sys2Proof Sys2Proof.Machine Sys2Proof.Laws

/-! ## Slews and PTM -/

/-- How many slates a slate raised now adds: none before the device runs, nor by a halted controller. -/
theorem slateAt_length (s : State) (code : Nat) (object : Id) (time qual : Nat) (p : List Byte) :
    (s.slateAt code object time qual p).slates.length =
      s.slates.length + (if s.flags.halted = true ∨ s.phase ≠ .released then 0 else 1) := by
  unfold State.slateAt
  by_cases h : s.flags.halted = true ∨ s.phase ≠ .released
  · rw [if_pos (by simpa using h), if_pos h]
    rfl
  · rw [if_neg (by simpa using h), if_neg h]
    exact List.length_append

theorem execTbSlewDone_of_slew {s : State} {sl : Slew} (h : s.tb.slew = some sl) : execTbSlewDone s =
    done s (((s.advance (sl.ends * perSample)).slewEnds sl 0).tbChange (fun t => { t with slew := none })) := by
  unfold execTbSlewDone
  rw [h]

theorem slewEnds_reportsOnly (s : State) (sl : Slew) (cause : Nat) : s.reportsOnly (s.slewEnds sl cause) := slateT_reportsOnly ..

theorem tbChange_reportsOnly {u v : State} (h : u.reportsOnly v) (f : Tb → Tb) :
    State.reportsOnly { u with tb := (v.tbChange f).tb } (v.tbChange f) := by
  unfold State.reportsOnly at *
  rw [h]
  rfl

theorem slewDone : Rules.SlewDone := by
  intro s sl hs slew u
  refine completes_of_done hs (execTbSlewDone_of_slew slew) ?_
  have report := slewEnds_reportsOnly u sl 0
  have same := reportsOnly_tb report
  change (s.framed ((u.slewEnds sl 0).tbChange _)).tb.slew = none ∧ _
  generalize u.slewEnds sl 0 = v at *
  exact ⟨rfl, (congrArg Tb.inc same :), (congrArg Tb.sec same :), (congrArg Tb.ns same :), (congrArg Tb.frac same :),
    framed_reportsOnly (tbChange_reportsOnly report _)⟩

theorem execPtmResponse_of_dialog {s : State} {t t1 at_ : Nat} (h : (s.advance t).tb.ptmT1 = some (t1, at_)) (master : Word64) (prop : Word32) :
    execPtmResponse t master prop s = done s (({ s.advance t with tb := { (s.advance t).tb with ptmT1 := none } } : State).slateAt 0x0008
      (pointId 18) t1 0 (leBytes 8 master.toNat ++ leBytes 4 prop.toNat ++ zeros 4 ++
        leBytes 8 ((((s.advance t).timeAt (s.advance t).now : Int) - (s.advance t).pointF 18).toNat - t1) ++
        leBytes 4 (s.advance t).tb.ptmDialogs)) := by
  unfold execPtmResponse
  dsimp only
  rw [h]

theorem execPtmTimeout_of_late {s : State} {t t1 at_ : Nat} (h : (s.advance t).tb.ptmT1 = some (t1, at_))
    (late : at_ + 983040 ≤ (s.advance t).now) : execPtmTimeout t s =
      done s (({ s.advance t with tb := { (s.advance t).tb with ptmT1 := none } } : State).addDaily 0x0008 sevInfo (s.advance t).devId
        (leBytes 4 (s.advance t).tb.ptmDialogs) (s.advance t).now) := by
  unfold execPtmTimeout
  dsimp only
  rw [h]
  exact if_pos late

theorem ptmDialog : Rules.PtmDialog := by
  intro s t hs u
  refine ⟨fun period enabled ready free due => ?_, fun t1 at_ dialog => ⟨fun master prop => ?_, fun late => ?_⟩⟩
  · exact completes_of_done hs (c := .ptmDialogStart t) (if_pos ⟨period, enabled, ready, free, due⟩) ⟨_, rfl⟩
  · refine completes_of_done hs (execPtmResponse_of_dialog dialog master prop) ⟨?_, framed_reportsOnly (slateAt_reportsOnly ..)⟩
    exact slateAt_length ..
  · exact completes_of_done hs (execPtmTimeout_of_late dialog late) (framed_reportsOnly (addDaily_reportsOnly ..))

/-! ## Pulse bursts -/

section
variable {s : State} {t sub i : Nat} {falling : Bool} (hi : i < 3)
include hi

theorem execPulseEdge_of_burst {b : Burst} (hb : (((s.advance t).pulseSettle i).pulse i).burst = some b)
    (armed : (((s.advance t).pulseSettle i).pulse i).mode ≠ 0) (active : edgeActive (((s.advance t).pulseSettle i).pulse i).edge falling = true) :
    execPulseEdge t sub i falling s = done s (((s.advance t).pulseSettle i).modPulse i (fun p => { p with
      burst := some (if b.now < 15 then { b with now := b.now + 1, total := satU 16 (b.total + 1) } else { b with overflow := true }) })) := by
  unfold execPulseEdge
  rw [if_neg (Nat.not_le.mpr hi)]
  dsimp only
  rw [hb]
  exact if_pos ⟨armed, active⟩

theorem execPulseEdge_of_disarmed (hb : (((s.advance t).pulseSettle i).pulse i).burst = none)
    (off : (((s.advance t).pulseSettle i).pulse i).mode = 0) : execPulseEdge t sub i falling s =
      done s (((s.advance t).pulseSettle i).modPulse i (fun p => { p with
        ignoring := some (ignoreNext p.ignoring ((s.advance t).pulseSettle i).now) })) := by
  unfold execPulseEdge
  rw [if_neg (Nat.not_le.mpr hi)]
  dsimp only
  rw [hb]
  exact if_pos (.inl off)

theorem execPulseEdge_of_first (hb : (((s.advance t).pulseSettle i).pulse i).burst = none)
    (free : (((s.advance t).pulseSettle i).pulse i).ignoring = none) (armed : (((s.advance t).pulseSettle i).pulse i).mode ≠ 0)
    (active : edgeActive (((s.advance t).pulseSettle i).pulse i).edge falling = true) : execPulseEdge t sub i falling s =
      done s (((s.advance t).pulseSettle i).modPulse i (fun p => { p with
        ignoring := none
        burst := some ⟨((s.advance t).pulseSettle i).pinTime (5 + i) ((s.advance t).pulseSettle i).now sub falling, falling,
          ((s.advance t).pulseSettle i).qualNow, 1, 0, ((s.advance t).pulseSettle i).now + handshake, false⟩ })) := by
  unfold execPulseEdge
  rw [if_neg (Nat.not_le.mpr hi)]
  dsimp only
  rw [hb]
  dsimp only
  rw [free, if_neg (by simpa using armed)]
  exact if_pos active

end

/-- An input as the end of a burst leaves it. -/
def burstOver (now time : Nat) (p : PulseIn) : PulseIn :=
  { p with burst := none, mode := if p.mode = 1 then 0 else p.mode, lastPps := t64Of256 time, lastAt := now, gapRaised := false }

/-- The slate of a burst raised, the input disarmed or not. -/
def burstSlate (u : State) (i : Nat) (b : Burst) (qual : Nat) (payload : List Byte) : State :=
  u.slateAt (i + 1) (pointId (5 + i)) b.time qual payload

/-- The end of a burst in its acts: the slate, the input, the end of a gap at PPS_IN. -/
theorem burstEnd_eq (u : State) (i : Nat) (b : Burst) : ∃ qual payload, u.burstEnd i b =
    if i = 0 then ((burstSlate u i b qual payload).modPulse i (burstOver (burstSlate u i b qual payload).now b.time)).setCond fPpsLost false
    else (burstSlate u i b qual payload).modPulse i (burstOver (burstSlate u i b qual payload).now b.time) := ⟨_, _, rfl⟩

/-- What the end of a burst leaves. -/
structure BurstLeft (u v : State) (i : Nat) (b : Burst) : Prop where
  pulse : ∃ now, v.pulse i = burstOver now b.time (u.pulse i)
  slates : v.slates.length = u.slates.length + (if u.flags.halted = true ∨ u.phase ≠ .released then 0 else 1)
  cond : i = 0 → v.cond fPpsLost = false

theorem burstEnd_left {u : State} {i : Nat} {b b' : Burst} (h : (u.pulse i).burst = some b') : BurstLeft u (u.burstEnd i b) i b := by
  obtain ⟨qual, payload, he⟩ := burstEnd_eq u i b
  have slates : (burstSlate u i b qual payload).slates.length = _ := slateAt_length ..
  have report : u.reportsOnly (burstSlate u i b qual payload) := slateAt_reportsOnly ..
  rw [he]
  generalize burstSlate u i b qual payload = v at *
  have here : i < v.pulses.length := by rw [reportsOnly_pulses report]; exact lt_length_of_burst h
  have pulse : (v.modPulse i (burstOver v.now b.time)).pulse i = burstOver v.now b.time (u.pulse i) := by
    rw [modPulse_pulse_self here, reportsOnly_pulse report]
  split
  · exact ⟨⟨_, (reportsOnly_pulse (setCond_reportsOnly ..) i).trans pulse⟩, by rw [setCond_slates]; exact slates,
      fun _ => setCond_cond (by decide) ..⟩
  · next other => exact ⟨⟨_, pulse⟩, slates, fun zero => absurd zero other⟩

theorem execHandshakeEnd_of_more {s : State} {i : Nat} {b b' : Burst} (hb : (s.pulse i).burst = some b) (more : b'.now ≠ 0)
    (hu : ((s.advance b.ends).pulse i).burst = some b') : execHandshakeEnd i s =
      done s ((s.advance b.ends).modPulse i (fun x => { x with burst := some { b' with now := 0, ends := b'.ends + handshake } })) := by
  unfold execHandshakeEnd State.handshakeStep
  rw [hb]
  dsimp only
  rw [hu]
  dsimp only
  rw [if_neg more]

theorem pulseBursts : Rules.PulseBursts := by
  intro s i hs hi
  refine ⟨fun t sub falling here => ⟨fun hb free armed active => ?_, fun b hb armed active => ?_, fun hb off => ?_⟩,
    fun b hb last => ?_, fun b b' hb more hu => completes_of_done hs (execHandshakeEnd_of_more hb more hu) rfl⟩
  · refine completes_of_done hs (execPulseEdge_of_first hi hb free armed active) ?_
    exact congrArg PulseIn.burst (modPulse_pulse_self here _)
  · refine completes_of_done hs (execPulseEdge_of_burst hi hb armed active) ?_
    exact congrArg PulseIn.burst (modPulse_pulse_self here _)
  · exact completes_of_done hs (execPulseEdge_of_disarmed hi hb off) rfl
  · refine completes_of_done hs (execHandshakeEnd_of_last hb last rfl) ?_
    have left := burstEnd_left (b := { b with now := 0 }) last
    generalize s.advance b.ends = u at *
    obtain ⟨now, pulse⟩ := left.pulse
    have mode : ((u.burstEnd i { b with now := 0 }).pulse i).mode = if (u.pulse i).mode = 1 then 0 else (u.pulse i).mode :=
      congrArg PulseIn.mode pulse
    have pps : ((u.burstEnd i { b with now := 0 }).pulse i).lastPps = t64Of256 b.time := by rw [pulse, burstOver]
    generalize u.burstEnd i { b with now := 0 } = v at *
    exact ⟨congrArg PulseIn.burst pulse, pps, left.slates, fun once => mode.trans (if_pos once),
      fun every => mode.trans (if_neg every), left.cond⟩

/-- Settles O33: a slew's end and a dialog's change the Timebase's own fields, and a burst lives in its input. -/
theorem timebaseEvents : Obligations.TimebaseEvents := ⟨slewDone, ptmDialog, pulseBursts⟩

end Sys2Proof.Proofs
end

section
/-! PROOF. A Cue outside the four of the device (R299): the counterexample to O34. -/
namespace Sys2Proof.Proofs
open Sys2Proof Sys2Proof.Machine Sys2Proof.Laws

/-- The state after reset with a fifth Cue in its list, which runs and whose last pulse ends now. -/
def fifthCue : State :=
  { State.reset with cue := State.reset.cue ++ [⟨Life.at .run 0, { CueRun.reset with pulseEnd := some 0, lastDone := true }⟩] }

/-- Nothing is due there: boundaries to come are looked for among the device's own objects alone. -/
theorem fifthCue_noneDue : (fifthCue.advance 0).dueRefs = [] := by decide +kernel

/-- The fifth Cue is in RUN after an outcome. -/
def stillRuns : Out → Bool
  | .next t => t.running .cue 4
  | _ => false

/-- The Cue is commanded to hold at the present boundary, and stays in RUN. -/
theorem fifthCue_runs_on : stillRuns (exec (.cueWidthEnd 4) fifthCue) = true := by decide +kernel

/-- Refutes O34: CUE_WIDTH_END does not hold a Cue at its boundary where the list of Cues is longer than the device's four; the statement's
states and indices are not bound to them. -/
theorem not_cuePulses : ¬ Obligations.CuePulses := by
  unfold Obligations.CuePulses
  intro all
  obtain ⟨t, next, -, -, held⟩ := ((all fifthCue 4 rfl).2 0 rfl).2 fifthCue_noneDue rfl rfl rfl
  have runs := fifthCue_runs_on
  rw [next, stillRuns, State.running] at runs
  rw [if_pos (by decide +kernel)] at held
  rw [held] at runs
  exact nomatch runs

end Sys2Proof.Proofs
end

section
/-! PROOF. Boundaries and failures of inserts (R213, R214, R217, R218): O37. -/
namespace Sys2Proof.Proofs
open Sys2Proof Sys2Proof.Machine Sys2Proof.Laws

/-! ## Inserts and the runs of programmes -/

section
variable {s : State} {i p : Nat}

theorem modInsert_insertR_self (h : i < s.inserts.length) (f : Insert → Insert) : (s.modInsert i f).insertR i = f (s.insertR i) := by
  unfold State.insertR State.modInsert
  dsimp only
  rw [modAt_getElem?_self, List.getElem?_eq_getElem h]
  rfl

theorem modInsert_insertR_of_ne {j : Nat} (h : i ≠ j) (f : Insert → Insert) : (s.modInsert j f).insertR i = s.insertR i :=
  congrArg (fun n : Option Insert => n.getD Insert.reset) (modAt_getElem?_of_ne f s.inserts h)

theorem lt_of_insertR_ne (h : s.insertR i ≠ Insert.reset) : i < s.inserts.length := by
  by_contra out
  exact h (by rw [State.insertR, List.getElem?_eq_none (Nat.le_of_not_lt out)]; rfl)

theorem modProg_progR_self (h : p < s.prog.length) (f : ProgRun → ProgRun) : (s.modProg p f).progR p = f (s.progR p) :=
  runOf_withRun_self f h _

theorem modProg_progR_of_ne {q : Nat} (h : p ≠ q) (f : ProgRun → ProgRun) : (s.modProg q f).progR p = s.progR p :=
  runOf_withRun_of_ne f s.prog h _

theorem lt_of_running_prog (h : s.running .prog p = true) : p < s.prog.length := lt_of_life_isSome (life?_isSome_of_running h)

theorem lt_of_insert (h : (s.progR p).insert = some i) : p < s.prog.length :=
  lt_of_run_ne (d := ProgRun.reset) (fun e => nomatch (congrArg ProgRun.insert e).symm.trans h)

end

theorem modProg_length (s : State) (q : Nat) (f : ProgRun → ProgRun) : (s.modProg q f).prog.length = s.prog.length :=
  modAt_length q (Obj.withRun f) s.prog

/-- A change of a programme's run keeps every programme's life. -/
theorem modProg_running (s : State) (q p : Nat) (f : ProgRun → ProgRun) : (s.modProg q f).running .prog p = s.running .prog p :=
  congrArg (fun l : Option Life => (l.getD (Life.closed 0)).eff == .run) (life_map_withRun f s.prog q p)

/-! ## One change for each programme of a list -/

section
variable (change : State → Nat → ProgRun → ProgRun)

/-- The runs of the programmes of a list changed one after the other. -/
def changeProgs (ps : List Nat) (s : State) : State := ps.foldl (fun v p => v.modProg p (change v p)) s

theorem changeProgs_inserts (ps : List Nat) (s : State) : (changeProgs change ps s).inserts = s.inserts := by
  exact foldl_keeps (fun a b : State => b.inserts = a.inserts) (fun _ => rfl) (fun _ _ _ h k => k.trans h)
    (fun v p => v.modProg p (change v p)) (fun _ _ => rfl) ps s

variable {change}

/-- What a change of programme `p` establishes, whatever was done to the others before, holds once the list has been gone through: a
programme that stands in it several times is changed again, from what the changes left. -/
theorem changeProgs_holds (Holds : ProgRun → Prop) (Keeps : State → Prop) {p : Nat}
    (keeps : ∀ v q, Keeps v → p < v.prog.length → Keeps (v.modProg q (change v q)))
    (holds : ∀ v, Keeps v → Holds (change v p (v.progR p))) :
    ∀ (ps : List Nat) (s : State), Keeps s → p < s.prog.length → (p ∈ ps ∨ Holds (s.progR p)) → Holds ((changeProgs change ps s).progR p)
  | [], _, _, _, h => h.resolve_left List.not_mem_nil
  | q :: ps, s, kept, here, h => by
    refine changeProgs_holds Holds Keeps keeps holds ps _ (keeps s q kept here) ((modProg_length s q _).symm ▸ here) ?_
    by_cases same : p = q
    · subst same
      exact .inr (modProg_progR_self here _ ▸ holds s kept)
    · exact h.imp (List.mem_of_ne_of_mem same) (fun before => (modProg_progR_of_ne same (change s q)).symm ▸ before)

/-- What every change of a programme keeps is kept. -/
theorem changeProgs_kept (Holds : ProgRun → Prop) {p : Nat} (keeps : ∀ v r, Holds r → Holds (change v p r)) (ps : List Nat) {s : State}
    (here : p < s.prog.length) (h : Holds (s.progR p)) : Holds ((changeProgs change ps s).progR p) := by
  induction ps generalizing s with
  | nil => exact h
  | cons q ps ih =>
    refine ih ((modProg_length s q _).symm ▸ here) ?_
    by_cases same : p = q
    · subst same
      exact modProg_progR_self here (change s p) ▸ keeps s _ h
    · exact (modProg_progR_of_ne same (change s q)).symm ▸ h

end

/-! ## The end of an insert -/

theorem insertR_congr {s t : State} (h : t.inserts = s.inserts) (i : Nat) : t.insertR i = s.insertR i :=
  congrArg (fun l : List Insert => (l[i]?).getD Insert.reset) h

theorem progR_congr {s t : State} (h : t.prog = s.prog) (p : Nat) : t.progR p = s.progR p :=
  congrArg (fun l : List (Obj ProgRun) => ((l[p]?).map Obj.run).getD ProgRun.reset) h

theorem running_prog_congr {s t : State} (h : t.prog = s.prog) (p : Nat) : t.running .prog p = s.running .prog p :=
  congrArg (fun l : List (Obj ProgRun) => (((l[p]?).map Obj.life).getD (Life.closed 0)).eff == .run) h

theorem insertEnd_prog (s : State) (i : Nat) : (s.insertEnd i).prog = s.prog := by
  unfold State.insertEnd
  dsimp only
  split
  · exact (hostOnly_prog (feedRelease_hostOnly (s.modInsert i fun _ => Insert.reset) _) :)
  · rfl

theorem insertEnd_insertR_of_ne (s : State) {i j : Nat} (h : i ≠ j) : (s.insertEnd j).insertR i = s.insertR i := by
  unfold State.insertEnd
  dsimp only
  split
  · exact (insertR_congr (hostOnly_inserts (feedRelease_hostOnly (s.modInsert j fun _ => Insert.reset) _)) i).trans
      (modInsert_insertR_of_ne h _)
  · exact modInsert_insertR_of_ne h _

/-- `t` has the programmes of `s` and insert `i` of `s`. -/
def sameInsert (i : Nat) (s t : State) : Prop := t.prog = s.prog ∧ t.inserts.length = s.inserts.length ∧ t.insertR i = s.insertR i

theorem sameInsert_refl (i : Nat) (s : State) : sameInsert i s s := ⟨rfl, rfl, rfl⟩
theorem sameInsert_trans (i : Nat) (s t u : State) (h : sameInsert i s t) (k : sameInsert i t u) : sameInsert i s u :=
  ⟨k.1.trans h.1, k.2.1.trans h.2.1, k.2.2.trans h.2.2⟩

theorem sameInsert_of_reportsOnly {s t : State} (i : Nat) (h : s.reportsOnly t) : sameInsert i s t :=
  ⟨reportsOnly_prog h, congrArg List.length (reportsOnly_inserts h), insertR_congr (reportsOnly_inserts h) i⟩

theorem modInsert_sameInsert (s : State) {i j : Nat} (h : i ≠ j) (f : Insert → Insert) : sameInsert i s (s.modInsert j f) :=
  ⟨rfl, modAt_length j f s.inserts, modInsert_insertR_of_ne h f⟩

theorem insertEnd_length (s : State) (i : Nat) : (s.insertEnd i).inserts.length = s.inserts.length := by
  unfold State.insertEnd
  dsimp only
  split
  · exact (congrArg List.length (hostOnly_inserts (feedRelease_hostOnly (s.modInsert i fun _ => Insert.reset) _))).trans (modAt_length i _ s.inserts)
  · exact modAt_length i _ s.inserts

theorem insertEnd_sameInsert (s : State) {i j : Nat} (h : i ≠ j) : sameInsert i s (s.insertEnd j) :=
  ⟨insertEnd_prog s j, insertEnd_length s j, insertEnd_insertR_of_ne s h⟩

/-! ## INSERT_ON -/

/-- An insert that starts at `b` has taken the running programme `p`. -/
structure Taken (i b p : Nat) (t : State) : Prop where
  insert : (t.progR p).insert = some i
  begin_ : (t.progR p).insertFrom = some b
  stop : (t.progR p).insertTo = none
  start : (t.insertR i).startAt = none
  on_ : (t.insertR i).onAt.isSome = true
  member : p ∈ (t.insertR i).members

theorem Taken.of_same {i b p : Nat} {s t : State} (h : Taken i b p s) (k : sameInsert i s t) : Taken i b p t := by
  obtain ⟨progs, -, insert⟩ := k
  have run := progR_congr progs p
  exact ⟨run ▸ h.insert, run ▸ h.begin_, run ▸ h.stop, insert ▸ h.start, insert ▸ h.on_, insert ▸ h.member⟩

theorem mem_distinct {l : List Nat} {a : Nat} (h : a ∈ l) : a ∈ distinct l := by
  induction l with
  | nil => exact h
  | cons b l ih =>
    unfold distinct
    by_cases same : a = b
    · exact same ▸ List.mem_cons_self
    · exact List.mem_cons_of_mem b (List.mem_filter.2 ⟨ih (List.mem_of_ne_of_mem same h), decide_eq_true same⟩)

theorem mem_insMembers {s : State} {i p : Nat} :
    p ∈ s.insMembers i ↔ p ∈ (s.insertR i).members ∧ (s.progR p).insert = some i := by
  rw [State.insMembers, List.mem_filter, beq_iff_eq]

theorem isEmpty_of_mem {α : Type} {l : List α} {a : α} (h : a ∈ l) : l.isEmpty = false := by
  cases l with
  | nil => exact nomatch h
  | cons => rfl

/-- The change of a programme that an insert takes at `b`. -/
def taking (i b : Nat) (n : Insert) (v : State) (p : Nat) (r : ProgRun) : ProgRun := { r with
  insertOld := if r.insert = some i ∨ v.running .prog p = false ∨ r.insertFrom = none then none else r.insert,
  insert := some i, insertFrom := if v.running .prog p then some b else none, insertTo := none,
  airIns := if v.running .prog p then r.airOn ⟨i, n.inl, n.text, b, none⟩ else r.airIns }

/-- The change of a programme that an insert releases at `b`, with a crossfade or at once. -/
def releasing (i b : Nat) (n : Insert) (live : List Nat) (_ : State) (p : Nat) (r : ProgRun) : ProgRun :=
  if live.contains p then { r with insertTo := some b, airIns := r.airOff i (b + n.span) }
  else { r.released with airIns := r.airOff i b }

/-- The change of a programme at the end of a crossfade. -/
def freeing (past : Nat → Bool) (_ : State) (p : Nat) (r : ProgRun) : ProgRun :=
  if past p then r.released else { r with insertOld := none }

/-- The insert after its start at `b`. -/
def started (b : Nat) (ps : List Nat) (n : Insert) : Insert := { n with
  startAt := none, starting := [], members := distinct (n.members ++ ps), onAt := some (n.onAt.getD b),
  fadeFrom := some b, fadeOut := false, takenAt := if n.onAt.isSome then n.takenAt else b }

theorem execInsertOn_takes {s : State} {i b : Nat} (start : (s.insertR i).startAt = some b) :
    ∃ v, execInsertOn i s = done s v ∧
      ∀ p, p ∈ ((s.advance b).feedStep.insertR i).starting → ((s.advance b).feedStep.life ⟨.prog, p⟩).cmd ≠ .closed →
        (s.advance b).feedStep.running .prog p = true → (s.advance b).feedStep.cas.st ≠ .member → Taken i b p v := by
  unfold execInsertOn
  rw [start]
  dsimp -zeta only
  generalize (s.advance b).feedStep = u
  extract_lets u n ps live moved v1 v2 v3 v4 v5
  refine ⟨_, rfl, fun p starts used runs alone => ?_⟩
  have here : i < u.inserts.length := lt_of_insertR_ne fun e => by rw [e] at starts; exact nomatch starts
  have taken : p ∈ ps := List.mem_filter.2 ⟨starts, by
    rw [Bool.and_eq_true, decide_eq_true_eq, show (u.cas.st == CasSt.member) = false from beq_eq_false_iff_ne.2 alone]
    exact ⟨used, rfl⟩⟩
  have first : sameInsert i u v1 := by
    refine foldl_keeps (sameInsert i) (sameInsert_refl i) (sameInsert_trans i) _ (fun v j => ?_) _ u
    dsimp only
    split
    · exact sameInsert_refl i v
    · next some_ =>
      have other : i ≠ j := fun e => some_ (by rw [show moved j = [] from if_pos e.symm]; rfl)
      exact sameInsert_trans i _ _ _ (sameInsert_of_reportsOnly i (slateT_reportsOnly ..)) (modInsert_sameInsert _ other _)
  obtain ⟨progs, length, -⟩ := first
  have run : (v2.progR p).insert = some i ∧ (v2.progR p).insertFrom = some b ∧ (v2.progR p).insertTo = none := by
    refine changeProgs_holds (change := taking i b n) (fun r => r.insert = some i ∧ r.insertFrom = some b ∧ r.insertTo = none)
      (fun v => v.running .prog p = true) (fun v q h _ => (modProg_running v q p _).trans h) (fun v h => ⟨rfl, if_pos h, rfl⟩) ps v1
      ((running_prog_congr progs p).trans runs) (progs ▸ lt_of_running_prog runs) (.inl taken)
  have there : i < v2.inserts.length := by
    rw [show v2.inserts = v1.inserts from changeProgs_inserts (taking i b n) ps v1, length]
    exact here
  have third : Taken i b p v3 := by
    have at_ : v3.insertR i = started b ps (v2.insertR i) := modInsert_insertR_self there (started b ps)
    obtain ⟨insert, begin_, stop⟩ := run
    exact ⟨insert, begin_, stop, congrArg Insert.startAt at_, congrArg (fun n => n.onAt.isSome) at_,
      (congrArg Insert.members at_).symm ▸ mem_distinct (List.mem_append_right _ taken)⟩
  have fourth : Taken i b p v4 := third.of_same (sameInsert_of_reportsOnly i (slateT_reportsOnly ..))
  have last : Taken i b p v5 := by
    refine fourth.of_same ?_
    refine foldl_keeps (sameInsert i) (sameInsert_refl i) (sameInsert_trans i) _ (fun v j => ?_) _ v4
    split
    · exact sameInsert_refl i v
    · next some_ =>
      refine insertEnd_sameInsert v fun e => some_ ?_
      rw [show moved j = [] from if_pos e.symm]
      rfl
  rw [isEmpty_of_mem (mem_insMembers.2 ⟨last.member, last.insert⟩)]
  exact last

/-! ## INSERT_OFF, INSERT_CROSSFADE_END -/

theorem insertEnd_ite_prog (c : Bool) (s : State) (i : Nat) : (if c then s.insertEnd i else s).prog = s.prog := by
  split
  · exact insertEnd_prog s i
  · rfl

theorem execInsertOff_releases {s : State} {i b : Nat} (stop : (s.insertR i).stopAt = some b) :
    ∃ v, execInsertOff i s = done s v ∧
      ∀ p, p ∈ ((s.advance b).feedStep.insertR i).stopping → ((s.advance b).feedStep.progR p).insert = some i →
        ((s.advance b).feedStep.running .prog p = true → ((s.advance b).feedStep.progR p).insertFrom.isSome = true →
          (v.progR p).insertTo = some b ∧ (v.progR p).insert = some i) ∧
        ((s.advance b).feedStep.running .prog p = false ∨ ((s.advance b).feedStep.progR p).insertFrom = none →
          (v.progR p).insert = none) := by
  unfold execInsertOff
  rw [stop]
  dsimp -zeta only
  generalize (s.advance b).feedStep = u
  extract_lets u n ps live v1 v2 v3
  refine ⟨_, rfl, fun p stops held => ?_⟩
  have given : p ∈ ps := List.mem_filter.2 ⟨stops, beq_iff_eq.2 held⟩
  rw [progR_congr (insertEnd_ite_prog _ v3 i), show v3.progR p = v2.progR p from rfl]
  have progs : v1.prog = u.prog := reportsOnly_prog (slateT_reportsOnly ..)
  have here : p < v1.prog.length := progs ▸ lt_of_insert held
  refine ⟨fun runs begun => ?_, fun idle => ?_⟩
  · have isLive : live.contains p = true :=
      List.contains_iff_mem.2 (List.mem_filter.2 ⟨given, by rw [runs, begun]; rfl⟩)
    refine ⟨changeProgs_holds (change := releasing i b n live) (fun r => r.insertTo = some b) (fun _ => True) (fun _ _ _ _ => trivial) (fun v _ => ?_) ps v1 trivial here
      (.inl given), changeProgs_kept (change := releasing i b n live) (fun r => r.insert = some i) (fun v r h => ?_) ps here ((progR_congr progs p).symm ▸ held)⟩
    · rw [releasing, if_pos isLive]
    · rw [releasing, if_pos isLive]
      exact h
  · have notLive : ¬ live.contains p = true := fun h => by
      have both := (List.mem_filter.1 (List.contains_iff_mem.1 h)).2
      rw [Bool.and_eq_true] at both
      obtain ⟨runs, begun⟩ := both
      rcases idle with stopped | none_
      · exact nomatch stopped.symm.trans runs
      · rw [none_] at begun
        exact nomatch begun
    refine changeProgs_holds (change := releasing i b n live) (fun r => r.insert = none) (fun _ => True) (fun _ _ _ _ => trivial) (fun v _ => ?_) ps v1 trivial here
      (.inl given)
    rw [releasing, if_neg notLive]
    rfl

theorem execInsertCrossfadeEnd_frees {s : State} {i b : Nat} (fade : (s.insertR i).fadeFrom = some b) :
    ∃ v, execInsertCrossfadeEnd i s = done s v ∧
      ∀ p, p ∈ (s.advance (b + (s.insertR i).span)).feedStep.insMembers i →
        (∀ e, ((s.advance (b + (s.insertR i).span)).feedStep.progR p).insertTo = some e →
          e + ((s.advance (b + (s.insertR i).span)).feedStep.insertR i).span ≤ (s.advance (b + (s.insertR i).span)).feedStep.now →
          (v.progR p).insert = none) ∧
        (((s.advance (b + (s.insertR i).span)).feedStep.progR p).insertTo = none →
          (v.progR p).insert = some i ∧ (v.progR p).insertOld = none) := by
  unfold execInsertCrossfadeEnd
  rw [fade]
  dsimp -zeta only
  generalize (s.advance (b + (s.insertR i).span)).feedStep = u
  extract_lets u ps past v1 v2
  refine ⟨_, rfl, fun p member => ?_⟩
  have held := (mem_insMembers.1 member).2
  have here : p < u.prog.length := lt_of_insert held
  rw [progR_congr (insertEnd_ite_prog _ v2 i), show v2.progR p = v1.progR p from rfl]
  refine ⟨fun e ends passed => ?_, fun stays => ?_⟩
  · have isPast : past p = true := by
      change (match (u.progR p).insertTo with | some e => decide (e + (u.insertR i).span ≤ u.now) | none => false) = true
      rw [ends]
      exact decide_eq_true passed
    refine changeProgs_holds (change := freeing past) (fun r => r.insert = none) (fun _ => True) (fun _ _ _ _ => trivial) (fun v _ => ?_) ps u trivial here
      (.inl member)
    rw [freeing, if_pos isPast]
    rfl
  · have notPast : ¬ past p = true := by
      change ¬ (match (u.progR p).insertTo with | some e => decide (e + (u.insertR i).span ≤ u.now) | none => false) = true
      rw [stays]
      exact Bool.false_ne_true
    refine ⟨changeProgs_kept (change := freeing past) (fun r => r.insert = some i) (fun v r h => ?_) ps here held,
      changeProgs_holds (change := freeing past) (fun r => r.insertOld = none) (fun _ => True) (fun _ _ _ _ => trivial) (fun v _ => ?_) ps u trivial here
      (.inl member)⟩
    · rw [freeing, if_neg notPast]
      exact h
    · rw [freeing, if_neg notPast]

theorem insertBoundaries : Rules.InsertBoundaries := by
  intro s i hs
  refine ⟨fun b start => ?_, fun b stop => ?_, fun b fade => ?_⟩
  · obtain ⟨v, he, taken⟩ := execInsertOn_takes start
    refine completes_of_done hs (c := .insertOn i) he fun p starts used runs alone => ?_
    have t := taken p starts used runs alone
    exact ⟨t.insert, t.begin_, t.stop, t.start, t.on_, t.member⟩
  · obtain ⟨v, he, released⟩ := execInsertOff_releases stop
    exact completes_of_done hs (c := .insertOff i) he released
  · obtain ⟨v, he, freed⟩ := execInsertCrossfadeEnd_frees fade
    exact completes_of_done hs (c := .insertCrossfadeEnd i) he freed

/-! ## Failing sources -/

theorem execInsertUnderrun_of_first {s : State} {t i : Nat} (reads : ((s.advance t).feedStep.insertR i).reads = true)
    (fails : (s.advance t).feedStep.insertFails ((s.advance t).feedStep.insertR i) = true)
    (first : ((s.advance t).feedStep.insertR i).underrun = false) :
    execInsertUnderrun t i s = done s ((((s.advance t).feedStep.modInsert i
      (fun n => { n with underrun := true, underAt := (s.advance t).feedStep.now })).setFlag fInsertUnderrun).slateDet 0x0601
        (s.advance t).feedStep.devId []) := by
  unfold execInsertUnderrun
  dsimp only
  rw [reads, fails, first, if_pos (by rfl)]

theorem execInsertUnderrun_of_standing {s : State} {t i : Nat} (standing : ((s.advance t).feedStep.insertR i).underrun = true) :
    execInsertUnderrun t i s = done s (s.advance t).feedStep := by
  unfold execInsertUnderrun
  dsimp only
  rw [standing, if_neg (by simp)]

theorem execInsertLossTimeout_of_reading {s : State} {i : Nat} (reads : (s.insertR i).reads = true)
    (fails : (s.insertR i).underrun = true) :
    execInsertLossTimeout i s = done s ((s.advance (s.insertR i).lossAt).feedStep.insertLost i) := by
  unfold execInsertLossTimeout
  dsimp only
  rw [reads, fails, if_pos (by rfl)]

/-- Under REVERT an insert that fails and is not to stop yet ends at the next alignment frame. -/
theorem insertLost_of_revert {u : State} {i : Nat} (fails : (u.insertR i).underrun = true) (goes : (u.insertR i).stopAt = none)
    (revert : (u.insertR i).byte 11 = 1) :
    ((u.insertLost i).insertR i).stopAt = some (alignNext perAlign u.now) ∧ ((u.insertLost i).insertR i).cause = .sourceLost ∧
      ((u.insertLost i).insertR i).stopping = u.insMembers i ++ (u.insertR i).starting := by
  unfold State.insertLost
  dsimp only
  rw [fails, goes, revert, if_pos (by rfl)]
  have here : i < u.inserts.length := lt_of_insertR_ne fun e => nomatch (congrArg Insert.underrun e).symm.trans fails
  rw [modInsert_insertR_self here]
  exact ⟨rfl, rfl, rfl⟩

/-- Under HOLD it goes on. -/
theorem insertLost_of_hold {u : State} {i : Nat} (hold : (u.insertR i).byte 11 = 0) : u.insertLost i = u := by
  unfold State.insertLost
  dsimp only
  rw [hold, if_neg (by simp)]

theorem underrun_reported {s v : State} (released : v.phase = .released) (object : Id) :
    (s.framed ((v.setFlag fInsertUnderrun).slateDet 0x0601 object [])).flag fInsertUnderrun = true ∧
      State.reportsOnly (s.framed v) (s.framed ((v.setFlag fInsertUnderrun).slateDet 0x0601 object [])) := by
  have met : (v.setFlag fInsertUnderrun).flag fInsertUnderrun = true := setFlag_flag (by decide) released
  refine ⟨?_, framed_reportsOnly (reportsOnly_trans (setFlag_reportsOnly v _) (slateDet_reportsOnly _ _ _ _))⟩
  have same : ((v.setFlag fInsertUnderrun).slateDet 0x0601 object []).flags = (v.setFlag fInsertUnderrun).flags := slateAt_flags ..
  rw [State.flag, framed_flags, same]
  exact met

theorem insertUnderruns : Rules.InsertUnderruns := by
  intro s i hs
  refine ⟨fun t => ?_, fun reads fails => ?_⟩
  · have he := execInsertUnderrun_of_first (s := s) (t := t) (i := i)
    have hes := execInsertUnderrun_of_standing (s := s) (t := t) (i := i)
    generalize (s.advance t).feedStep = u at he hes ⊢
    intro _ reads fails
    exact ⟨fun first released => completes_of_done hs (c := .insertUnderrun t i) (he reads fails first)
      (underrun_reported (v := u.modInsert i (fun n => { n with underrun := true, underAt := u.now })) released _),
      fun standing => completes_of_done hs (c := .insertUnderrun t i) (hes standing) rfl⟩
  · have he := execInsertLossTimeout_of_reading reads fails
    generalize (s.advance (s.insertR i).lossAt).feedStep = u at he ⊢
    intro _ failing goes
    exact ⟨fun revert => completes_of_done hs (c := .insertLossTimeout i) he (insertLost_of_revert failing goes revert),
      fun hold => completes_of_done hs (c := .insertLossTimeout i) he (congrArg s.framed (insertLost_of_hold hold))⟩

/-- Settles O37: a programme's part in an insert follows from the list that the boundary goes through; other inserts end apart from it. -/
theorem inserts : Obligations.Inserts := ⟨insertBoundaries, insertUnderruns⟩

end Sys2Proof.Proofs
end

section
/-! PROOF. Synchronisation, loss and re-locks of the engines (R143 to R153): O38. -/
namespace Sys2Proof.Proofs
open Sys2Proof Sys2Proof.Machine Sys2Proof.Laws

/-! ## The channels of an engine -/

section
variable {s t : State} {e c : Nat}

theorem modEe_eeR_self (h : e < s.ee.length) (f : EeRun → EeRun) : (s.modEe e f).eeR e = f (s.eeR e) := runOf_withRun_self f h _

theorem eeR_congr (h : t.ee = s.ee) (e : Nat) : t.eeR e = s.eeR e :=
  congrArg (fun l : List (Obj EeRun) => ((l[e]?).map Obj.run).getD EeRun.reset) h

theorem chan_of_eeR (h : t.eeR e = s.eeR e) (c : Nat) : t.chan e c = s.chan e c :=
  congrArg (fun r : EeRun => (r.chans[c]?).getD EeChan.reset) h

theorem chan_congr (h : t.ee = s.ee) (e c : Nat) : t.chan e c = s.chan e c := chan_of_eeR (eeR_congr h e) c

theorem chan_reset (c : Nat) : (EeRun.reset.chans[c]?).getD EeChan.reset = EeChan.reset := by
  rw [show EeRun.reset.chans = List.replicate 4 EeChan.reset from rfl, List.getElem?_replicate]
  split <;> rfl

theorem eeR_of_outside (h : ¬ e < s.ee.length) : s.eeR e = EeRun.reset := by
  rw [State.eeR, List.getElem?_eq_none (Nat.le_of_not_lt h)]
  rfl

/-- A channel that is not as after reset is one of an engine's. -/
theorem lt_of_chan_ne (h : s.chan e c ≠ EeChan.reset) : e < s.ee.length ∧ c < (s.eeR e).chans.length := by
  refine ⟨?_, ?_⟩
  · by_contra out
    exact h (by rw [State.chan, eeR_of_outside out, chan_reset])
  · by_contra out
    exact h (by rw [State.chan, List.getElem?_eq_none (Nat.le_of_not_lt out)]; rfl)

theorem lt_of_candidate (h : (s.chan e c).sync = .candidate) : e < s.ee.length ∧ c < (s.eeR e).chans.length :=
  lt_of_chan_ne fun r => nomatch (congrArg EeChan.sync r).symm.trans h

theorem lt_of_up (h : (s.chan e c).sync.up = true) : e < s.ee.length ∧ c < (s.eeR e).chans.length :=
  lt_of_chan_ne fun r => nomatch (congrArg (fun x : EeChan => x.sync.up) r).symm.trans h

theorem lt_of_track (h : (s.chan e c).path.track.isSome = true) : e < s.ee.length ∧ c < (s.eeR e).chans.length :=
  lt_of_chan_ne fun r => nomatch (congrArg (fun x : EeChan => x.path.track.isSome) r).symm.trans h

theorem modChan_chan_self (h : e < s.ee.length ∧ c < (s.eeR e).chans.length) (f : EeChan → EeChan) :
    (s.modChan e c f).chan e c = f (s.chan e c) := by
  unfold State.chan State.modChan
  rw [modEe_eeR_self h.1]
  dsimp only
  rw [modAt_getElem?_self, List.getElem?_eq_getElem h.2]
  rfl

/-- A channel that a change leaves otherwise than as after reset is one of an engine's. -/
theorem lt_of_modChan_ne {f : EeChan → EeChan} (h : (s.modChan e c f).chan e c ≠ EeChan.reset) :
    e < s.ee.length ∧ c < (s.eeR e).chans.length := by
  obtain ⟨engine, chan⟩ := lt_of_chan_ne h
  have here : e < s.ee.length := modAt_length e (Obj.withRun fun r => { r with chans := modAt c f r.chans }) s.ee ▸ engine
  refine ⟨here, ?_⟩
  rw [State.modChan, modEe_eeR_self here] at chan
  exact modAt_length c f (s.eeR e).chans ▸ chan

theorem modChan_life (f : EeChan → EeChan) (e' : Nat) : (s.modChan e c f).life ⟨.ee, e'⟩ = s.life ⟨.ee, e'⟩ :=
  congrArg (fun l : Option Life => l.getD (Life.closed 0)) (life_map_withRun _ s.ee e e')

theorem modChan_eeStdOf (f : EeChan → EeChan) (e' : Nat) : (s.modChan e c f).eeStdOf e' = s.eeStdOf e' :=
  congrArg (fun l : Life => fget l.cur eeStd) (modChan_life f e')

/-- A change of an engine's run that leaves its channels. -/
theorem modEe_chan {f : EeRun → EeRun} (h : ∀ r, (f r).chans = r.chans) (e' : Nat) : (s.modEe e' f).chan e c = s.chan e c := by
  unfold State.chan
  by_cases same : e' = e
  · subst same
    by_cases here : e' < s.ee.length
    · rw [modEe_eeR_self here, h]
    · rw [eeR_of_outside here, eeR_of_outside (fun there => here (modAt_length e' (Obj.withRun f) s.ee ▸ there))]
  · rw [show (s.modEe e' f).eeR e = s.eeR e from runOf_withRun_of_ne f s.ee (Ne.symm same) _]

end

/-- The state that the examination of a channel at CK_RF count `t` works on. -/
def eeReady (s : State) (t e c : Nat) : State := (s.advance t).eeFeed false e c

theorem eeSlate_reportsOnly (s : State) (code e c t : Nat) (items : List Byte) : s.reportsOnly (s.eeSlate code e c t items) :=
  slateAt_reportsOnly ..

/-! ## Side data leaves the engines' runs -/

theorem putSideOn_ee (s : State) (ring kind : Nat) (src : Id) (chan : Nat) (dump : Bool) (body : List Byte) :
    (s.putSideOn ring kind src chan dump body).ee = s.ee := by
  unfold State.putSideOn
  extract_lets key due v
  have record : v.ee = s.ee := hostOnly_ee (putRecord_hostOnly ..)
  clear_value v
  split
  · exact record
  · exact record

/-- The runs of the engines are the same. -/
def sameEe (s t : State) : Prop := t.ee = s.ee
theorem sameEe_refl (s : State) : sameEe s s := rfl
theorem sameEe_trans (s t u : State) (h : sameEe s t) (k : sameEe t u) : sameEe s u := Eq.trans k h
theorem sameEe_ite {p : Prop} [Decidable p] {s t u : State} (h : sameEe s t) (k : sameEe s u) : sameEe s (if p then t else u) := by
  split
  · exact h
  · exact k
theorem foldl_sameEe {α : Type} (f : State → α → State) (h : ∀ b a, sameEe b (f b a)) (l : List α) (s : State) : sameEe s (l.foldl f s) :=
  foldl_keeps sameEe sameEe_refl sameEe_trans f h l s

theorem dumpSource_sameEe (s : State) (ring : Nat) (src : Id) : sameEe s (s.dumpSource ring src) := by
  unfold State.dumpSource
  extract_lets r mine v1 v2 v3 v4
  have h1 : sameEe s v1 := sameEe_ite (foldl_sameEe _ (fun _ _ => putSideOn_ee ..) _ _) (sameEe_refl _)
  have h2 : sameEe v1 v2 := sameEe_ite (foldl_sameEe _ (fun _ _ => putSideOn_ee ..) _ _) (sameEe_refl _)
  have h3 : sameEe v2 v3 := sameEe_ite (foldl_sameEe _ (fun _ _ => putSideOn_ee ..) _ _) (sameEe_refl _)
  have h4 : sameEe v3 v4 := sameEe_ite (foldl_sameEe _ (fun _ _ => putSideOn_ee ..) _ _) (sameEe_refl _)
  clear_value v1 v2 v3 v4
  calc v4.ee = v3.ee := h4
    _ = v2.ee := h3
    _ = v1.ee := h2
    _ = s.ee := h1

theorem putSide_sameEe (s : State) (bitNo kind : Nat) (src : Id) (chan : Nat) (body : List Byte) :
    sameEe s (s.putSide bitNo kind src chan body) :=
  foldl_sameEe _ (fun b _ => sameEe_ite (sameEe_trans _ _ _ (sameEe_ite (dumpSource_sameEe ..) (sameEe_refl b)) (putSideOn_ee ..))
    (sameEe_refl b)) _ s

theorem removeOrigin_sameEe (s : State) (sel : Origin → Bool) : sameEe s (s.removeOrigin sel) := by
  unfold State.removeOrigin
  extract_lets svcs comps tables v w
  have h1 : sameEe s v := rfl
  have h2 : sameEe v w := foldl_sameEe _ (fun _ _ => putSide_sameEe ..) _ _
  clear_value v w
  exact sameEe_trans _ _ _ (sameEe_trans _ _ _ h1 h2) (foldl_sameEe _ (fun _ _ => putSide_sameEe ..) _ _)

/-! ## A channel that searches keeps searching -/

/-- The channel searches and follows no frame. -/
def Searching (e c : Nat) (s : State) : Prop := (s.chan e c).sync = .search ∧ (s.chan e c).path.track = none

theorem Searching.of_chan {e c : Nat} {s t : State} (h : Searching e c s) (k : t.chan e c = s.chan e c) : Searching e c t := by
  unfold Searching
  rw [k]
  exact h

theorem searching_reset {e c : Nat} {s : State} (h : s.chan e c = EeChan.reset) : Searching e c s := by
  unfold Searching
  rw [h]
  exact ⟨rfl, rfl⟩

theorem modLife_ee_chan (s : State) (e e' c : Nat) (f : Life → Life) : (s.modLife ⟨.ee, e'⟩ f).chan e c = s.chan e c :=
  chan_of_eeR (congrArg (fun r : Option EeRun => r.getD EeRun.reset) (run_map_withLife f s.ee e' e)) c

theorem ite_keeps {p : Prop} [Decidable p] (Holds : State → Prop) {s t : State} (h : Holds s) (k : Holds t) :
    Holds (if p then s else t) := by
  split
  · exact h
  · exact k

/-- A run whose channels were set back, and given a mode, has none that follows a frame. -/
theorem searching_of_quiet {s : State} {e c : Nat} {f : EeRun → EeRun} {g : EeChan → EeChan}
    (chans : ∀ r, (f r).chans = r.chans.map g) (quiet : ∀ x, (g x).sync = .search ∧ (g x).path.track = none) :
    Searching e c (s.modEe e f) := by
  by_cases here : e < s.ee.length
  · unfold Searching State.chan
    rw [modEe_eeR_self here, chans, List.getElem?_map]
    cases (s.eeR e).chans[c]? with
    | none => exact ⟨rfl, rfl⟩
    | some x => exact quiet x
  · refine searching_reset ?_
    rw [State.chan, eeR_of_outside (fun there => here (modAt_length e (Obj.withRun f) s.ee ▸ there)), chan_reset]

theorem holdEffects_ee (s : State) (e : Nat) (cause : OffCause) (t : Nat) : s.holdEffects ⟨.ee, e⟩ cause t =
    (s.modEe e EeRun.quiet).removeOrigin (fun o => s.canon o.object == mkId 0xFF ⟨.ee, e⟩) := rfl

theorem holdEffects_searching (s : State) (e c : Nat) (cause : OffCause) (t : Nat) : Searching e c (s.holdEffects ⟨.ee, e⟩ cause t) := by
  rw [holdEffects_ee]
  have quiet : Searching e c (s.modEe e EeRun.quiet) := searching_of_quiet (fun _ => rfl) (fun _ => ⟨rfl, rfl⟩)
  generalize s.modEe e EeRun.quiet = v at quiet ⊢
  exact quiet.of_chan (chan_congr (removeOrigin_sameEe ..) e c)

/-- The life of a closed object. -/
def shut (k : Kind) (l : Life) : Life := { l with
  cmd := .closed, eff := .closed, blk := resetBlk k, cur := resetBlk k,
  holdAt := none, dueAt := none, liveAt := none, viaGroup := false, holdGroup := false, background := false, mirror := false }

theorem closeEffects_ee (s : State) (e : Nat) : s.closeEffects ⟨.ee, e⟩ = s.modLife ⟨.ee, e⟩ (shut .ee) := rfl

theorem closeEffects_chan (s : State) (e c : Nat) : (s.closeEffects ⟨.ee, e⟩).chan e c = s.chan e c := by
  rw [closeEffects_ee, modLife_ee_chan]

/-- The mode of an engine's channels at its start (R152). -/
def startMode (blk : Blk) : Nat :=
  match fget blk eeStd with
  | 0 => 0
  | 2 => 5
  | _ => if fget blk eeDrmMode = 0 then 0xFF else fget blk eeDrmMode

/-- A channel at its engine's start. -/
def fresh (blk : Blk) (x : EeChan) : EeChan :=
  { EeChan.reset with interruptedQ := x.interruptedQ, holdDriftQ := x.holdDriftQ, mode := startMode blk }

theorem runEffects_searching (s : State) (e c t : Nat) (group : Bool) : Searching e c (s.runEffects ⟨.ee, e⟩ t group) :=
  searching_of_quiet (s := s.restartStream _) (g := fresh (s.life ⟨.ee, e⟩).cur) (fun _ => List.map_map) (fun _ => ⟨rfl, rfl⟩)

/-- Whatever boundary of the engine is due, a channel that searches does so afterwards. -/
theorem settleRef_searching {s : State} {e c : Nat} (h : Searching e c s) : Searching e c (s.settleRef ⟨.ee, e⟩) := by
  unfold State.settleRef
  extract_lets l ends v m w
  have held : Searching e c v := by
    change Searching e c (match l.holdAt with | some h => _ | none => s)
    split
    · refine ite_keeps (Searching e c) ?_ h
      extract_lets stopped
      have quiet : Searching e c stopped := holdEffects_searching ..
      clear_value stopped
      exact ite_keeps (Searching e c) (quiet.of_chan (closeEffects_chan ..)) quiet
    · exact h
  clear_value v
  have run : Searching e c w := by
    change Searching e c (match m.dueAt with | some d => _ | none => v)
    split
    · exact ite_keeps (Searching e c) (runEffects_searching ..) held
    · exact held
  clear_value w
  split
  · exact ite_keeps (Searching e c) (run.of_chan (modLife_ee_chan ..)) run
  · exact run

theorem eeStop_searching {s : State} {e c : Nat} (ended : Bool) (h : Searching e c s) : Searching e c (s.eeStop e ended) := by
  unfold State.eeStop
  dsimp only
  split
  · exact settleRef_searching (h.of_chan (modLife_ee_chan ..))
  · exact h

theorem foldl_modSub_chan (f : EeSub → EeSub) (l : List Nat) (s : State) (e c : Nat) :
    (l.foldl (fun s i => s.modSub e i f) s).chan e c = s.chan e c :=
  foldl_keeps (fun a b : State => b.chan e c = a.chan e c) (fun _ => rfl) (fun _ _ _ h k => k.trans h)
    (fun v i => v.modSub e i f) (fun v i => modEe_chan (s := v) (f := fun r => { r with subs := modAt i f r.subs }) (fun _ => rfl) e) l s

/-- What a loss changes in the run of the engine. -/
def lossLeft (c : Nat) (r : EeRun) : EeRun :=
  { r with reconfigAt := none, outs := r.outs.map (fun o => if o.chan = c then { o with flags := o.flags ||| 64 } else o) }

/-- A loss makes the channel search. -/
theorem eeLose_searching (s : State) (e c cause : Nat) : Searching e c (s.eeLose e c cause) := by
  unfold State.eeLose
  extract_lets mode v base w baseSub x y
  refine eeStop_searching false ?_
  have lost : Searching e c w := by
    by_cases here : e < v.ee.length ∧ c < (v.eeR e).chans.length
    · unfold Searching
      rw [show w = v.modChan e c _ from rfl, modChan_chan_self here]
      exact ⟨rfl, rfl⟩
    · by_contra some_
      exact here (lt_of_modChan_ne fun r => some_ (searching_reset r))
  clear_value w
  have third : x.chan e c = w.chan e c := foldl_modSub_chan ..
  clear_value x
  exact (lost.of_chan third).of_chan (modEe_chan (f := lossLeft c) (fun _ => rfl) e)

/-! ## Candidates -/

/-- The first candidate that nothing examines is what the search takes. -/
theorem takeCand_cand {q : EePath} {k : Nat} {y : EeCand} (some_ : k ≠ 0) (first : q.cand 0 = some y) :
    (q.takeCand k).cand k = some { y with taken := k } := by
  unfold EePath.takeCand
  have found : (q.cands.filter (fun x => x.taken != k)).find? (fun x => x.taken == 0) = some y := by
    rw [List.find?_filter]
    refine Eq.trans (List.find?_congr fun x _ => ?_) first
    by_cases free : x.taken = 0
    · rw [free, show ((0 : Nat) != k) = true from bne_iff_ne.2 (Ne.symm some_)]
      rfl
    · rw [show (x.taken == 0) = false from beq_eq_false_iff_ne.2 free, decide_eq_false]
      rintro ⟨-, h⟩
      exact nomatch h
  dsimp only
  rw [found]
  exact List.find?_cons_of_pos (beq_self_eq_true k)

/-- A candidate of the second-look search takes the place of the main one that was dropped. -/
theorem promoted_cand {q : EePath} {y : EeCand} (second : q.cand 2 = some y) :
    ({ q with cands := (q.dropCand 1).cands.map (fun x => if x.taken = 2 then { x with taken := 1 } else x) } : EePath).cand 1 =
      some { y with taken := 1 } := by
  unfold EePath.cand EePath.dropCand
  dsimp only
  rw [List.find?_map, List.find?_filter]
  have found : q.cands.find? (fun x => decide ((x.taken != 1) = true ∧
      ((fun z : EeCand => z.taken == 1) ∘ fun x => if x.taken = 2 then { x with taken := 1 } else x) x = true)) = some y := by
    refine Eq.trans (List.find?_congr fun x _ => ?_) second
    by_cases two : x.taken = 2
    · simp [two]
    · by_cases one : x.taken = 1
      · simp [one]
      · simp [two, one]
  have two : (y.taken == 2) = true := List.find?_some (p := fun x : EeCand => x.taken == 2) second
  rw [found, Option.map_some, if_pos (beq_iff_eq.1 two)]

section
variable {s : State} {t e c : Nat}

theorem execNullCandidate_of_search (chanOn : (eeReady s t e c).chanOn e c = true) (mode : ((eeReady s t e c).chan e c).mode ≠ 0xFF)
    (found : (((eeReady s t e c).chan e c).path.cand 0).isSome = true) (search : ((eeReady s t e c).chan e c).sync = .search) :
    execNullCandidate t e c s =
      done s ((eeReady s t e c).modChan e c (fun ch => { ch with sync := .candidate, path := ch.path.takeCand 1 })) := by
  unfold execNullCandidate
  dsimp only
  rw [← eeReady, chanOn, found, decide_eq_true mode, if_pos (by rfl), if_pos search]

theorem execNullCandidate_of_second (chanOn : (eeReady s t e c).chanOn e c = true) (mode : ((eeReady s t e c).chan e c).mode ≠ 0xFF)
    (found : (((eeReady s t e c).chan e c).path.cand 0).isSome = true) (other : ((eeReady s t e c).chan e c).sync ≠ .search) :
    execNullCandidate t e c s = done s ((eeReady s t e c).modChan e c (fun ch => { ch with path := ch.path.takeCand 2 })) := by
  unfold execNullCandidate
  dsimp only
  rw [← eeReady, chanOn, found, decide_eq_true mode, if_pos (by rfl), if_neg other]

theorem execPrsTest_second {v : EeTest} (chanOn : (eeReady s t e c).chanOn e c = true)
    (two : (eeReady s t e c).decided e (((eeReady s t e c).chan e c).path.cand 2) = some (v, false)) :
    execPrsTest t e c true s = done s ((eeReady s t e c).modChan e c (fun ch => { ch with path := ch.path.dropCand 2 })) := by
  unfold execPrsTest
  dsimp only
  rw [← eeReady, two, if_pos chanOn, if_pos (by rfl)]

section
variable {v w : EeTest} (chanOn : (eeReady s t e c).chanOn e c = true) (waits : ((eeReady s t e c).chan e c).sync = .candidate)
include chanOn waits

theorem execPrsTest_of_both (one : (eeReady s t e c).decided e (((eeReady s t e c).chan e c).path.cand 1) = some (v, true))
    (two : (eeReady s t e c).decided e (((eeReady s t e c).chan e c).path.cand 2) = some (w, true)) :
    execPrsTest t e c false s = done s ((eeReady s t e c).candPasses e c (if v.ratio < w.ratio then w else v)) := by
  unfold execPrsTest
  dsimp only
  rw [← eeReady, one, two, waits, if_pos chanOn, if_neg Bool.false_ne_true, if_pos (by rfl)]

theorem execPrsTest_of_main (one : (eeReady s t e c).decided e (((eeReady s t e c).chan e c).path.cand 1) = some (v, true))
    (two : ∀ w, (eeReady s t e c).decided e (((eeReady s t e c).chan e c).path.cand 2) ≠ some (w, true)) :
    execPrsTest t e c false s = done s ((eeReady s t e c).candPasses e c v) := by
  unfold execPrsTest
  dsimp only
  rw [← eeReady, one, waits, if_pos chanOn, if_neg Bool.false_ne_true, if_pos (by rfl)]
  generalize (eeReady s t e c).decided e (((eeReady s t e c).chan e c).path.cand 2) = second at two ⊢
  rcases second with _ | ⟨w, _ | _⟩
  · rfl
  · rfl
  · exact absurd rfl (two w)

theorem execPrsTest_of_second (one : (eeReady s t e c).decided e (((eeReady s t e c).chan e c).path.cand 1) = some (v, false))
    (two : (eeReady s t e c).decided e (((eeReady s t e c).chan e c).path.cand 2) = some (w, true)) :
    execPrsTest t e c false s = done s ((eeReady s t e c).candPasses e c w) := by
  unfold execPrsTest
  dsimp only
  rw [← eeReady, one, two, waits, if_pos chanOn, if_neg Bool.false_ne_true, if_pos (by rfl)]

theorem execPrsTest_of_neither (one : (eeReady s t e c).decided e (((eeReady s t e c).chan e c).path.cand 1) = some (v, false))
    (two : (eeReady s t e c).decided e (((eeReady s t e c).chan e c).path.cand 2) = some (w, false)) :
    execPrsTest t e c false s =
      done s ((eeReady s t e c).modChan e c (fun ch => { ch with sync := .search, path := (ch.path.dropCand 1).dropCand 2 })) := by
  unfold execPrsTest
  dsimp only
  rw [← eeReady, one, two, waits, if_pos chanOn, if_neg Bool.false_ne_true, if_pos (by rfl)]

theorem execPrsTest_of_promoted (one : (eeReady s t e c).decided e (((eeReady s t e c).chan e c).path.cand 1) = some (v, false))
    (two : (eeReady s t e c).decided e (((eeReady s t e c).chan e c).path.cand 2) = none)
    (second : (((eeReady s t e c).chan e c).path.cand 2).isSome = true) :
    execPrsTest t e c false s = done s ((eeReady s t e c).modChan e c (fun ch => { ch with path := { ch.path with
      cands := (ch.path.dropCand 1).cands.map (fun x => if x.taken = 2 then { x with taken := 1 } else x) } })) := by
  unfold execPrsTest
  dsimp only
  rw [← eeReady, one, two, waits, if_pos chanOn, if_neg Bool.false_ne_true, if_pos (by rfl)]
  exact if_pos second

theorem execPrsTest_of_alone (one : (eeReady s t e c).decided e (((eeReady s t e c).chan e c).path.cand 1) = some (v, false))
    (second : ((eeReady s t e c).chan e c).path.cand 2 = none) :
    execPrsTest t e c false s =
      done s ((eeReady s t e c).modChan e c (fun ch => { ch with sync := .search, path := ch.path.dropCand 1 })) := by
  unfold execPrsTest
  dsimp only
  rw [← eeReady, one, second, waits, if_pos chanOn, if_neg Bool.false_ne_true, if_pos (by rfl)]
  exact if_neg Bool.false_ne_true

end

/-- A passed candidate of a DAB channel: SYNC with its offset. -/
structure Synced (e c mode : Nat) (v : EeTest) (r : State) : Prop where
  sync : (r.chan e c).sync = .sync
  offset : (r.chan e c).path.figures.offset = offsetHz 0 v.freq
  good : (r.chan e c).badHist = []
  mode : (r.chan e c).mode = mode
  track : ∃ k, (r.chan e c).path.track = some k ∧ k.freq = v.freq ∧ k.first = v.first

theorem Synced.of_chan {mode : Nat} {v : EeTest} {r r' : State} (h : Synced e c mode v r) (k : r'.chan e c = r.chan e c) :
    Synced e c mode v r' :=
  ⟨k ▸ h.sync, k ▸ h.offset, k ▸ h.good, k ▸ h.mode, k ▸ h.track⟩

theorem enterSync_synced {mode : Nat} {v : EeTest} (here : e < s.ee.length ∧ c < (s.eeR e).chans.length) (dab : s.eeStdOf e = 0)
    (same : (s.chan e c).mode = mode) (track : ∃ k, (s.chan e c).path.track = some k ∧ k.freq = v.freq ∧ k.first = v.first) :
    Synced e c mode v (s.enterSync e c v.freq) := by
  unfold State.enterSync
  extract_lets hz u
  have entered : Synced e c mode v u := by
    have at_ := modChan_chan_self here (fun ch => { ch with
      sync := .sync, resync := true, resyncSdc := true, base := none, badHist := [], sdcHist := [], mscFrom := none,
      path := { ch.path with figures := { ch.path.figures with offset := hz } } })
    exact ⟨congrArg EeChan.sync at_, (congrArg (fun x : EeChan => x.path.figures.offset) at_).trans (congrArg (offsetHz · v.freq) dab),
      congrArg EeChan.badHist at_, (congrArg EeChan.mode at_).trans same, (congrArg (fun x : EeChan => x.path.track) at_).symm ▸ track⟩
  clear_value u
  exact entered.of_chan (chan_congr (reportsOnly_ee (eeSlate_reportsOnly ..)) e c)

end

end Sys2Proof.Proofs
end

section
/-! PROOF. Tests, modes, losses and re-locks of the engines: O38 assembled. -/
namespace Sys2Proof.Proofs
open Sys2Proof Sys2Proof.Machine Sys2Proof.Laws

section
variable {s : State} {e c : Nat}

/-- What a passed candidate's tracking starts from. -/
theorem start_track (q : EePath) (std : Nat) (v : EeTest) : ∃ k, (q.start std v).track = some k ∧ k.freq = v.freq ∧ k.first = v.first :=
  ⟨_, rfl, rfl, rfl⟩

theorem candPasses_dab (here : e < s.ee.length ∧ c < (s.eeR e).chans.length) (dab : s.eeStdOf e = 0) (v : EeTest) :
    Synced e c (s.chan e c).mode v (s.candPasses e c v) := by
  have at_ := modChan_chan_self here (fun ch => { ch with path := ch.path.start (s.eeStdOf e) v })
  have std := modChan_eeStdOf (s := s) (e := e) (c := c) (fun ch => { ch with path := ch.path.start (s.eeStdOf e) v }) e
  have bounds : e < (s.modChan e c (fun ch => { ch with path := ch.path.start (s.eeStdOf e) v })).ee.length ∧
      c < ((s.modChan e c (fun ch => { ch with path := ch.path.start (s.eeStdOf e) v })).eeR e).chans.length := by
    refine ⟨(modAt_length e (Obj.withRun _) s.ee).symm ▸ here.1, ?_⟩
    rw [State.modChan, modEe_eeR_self here.1]
    exact (modAt_length c _ (s.eeR e).chans).symm ▸ here.2
  unfold State.candPasses
  dsimp only
  rw [if_pos (std.trans dab)]
  refine enterSync_synced bounds (std.trans dab) (congrArg EeChan.mode at_ :) ?_
  rw [at_]
  exact start_track _ _ _

theorem candPasses_drm (here : e < s.ee.length ∧ c < (s.eeR e).chans.length) (drm : s.eeStdOf e ≠ 0) (v : EeTest) :
    ((s.candPasses e c v).chan e c).sync = (s.chan e c).sync ∧
      ∃ k, ((s.candPasses e c v).chan e c).path.track = some k ∧ k.freq = v.freq ∧ k.first = v.first := by
  have at_ := modChan_chan_self here (fun ch => { ch with path := ch.path.start (s.eeStdOf e) v })
  have std := modChan_eeStdOf (s := s) (e := e) (c := c) (fun ch => { ch with path := ch.path.start (s.eeStdOf e) v }) e
  unfold State.candPasses
  dsimp only
  rw [if_neg (fun dab => drm (std.symm.trans dab)), at_]
  exact ⟨rfl, start_track _ _ _⟩

end

/-- The candidate that wins. -/
theorem execPrsTest_of_winner {s : State} {t e c : Nat} {v : EeTest} (chanOn : (eeReady s t e c).chanOn e c = true)
    (waits : ((eeReady s t e c).chan e c).sync = .candidate)
    (wins : ((eeReady s t e c).decided e (((eeReady s t e c).chan e c).path.cand 1) = some (v, true) ∧
        ∀ w, (eeReady s t e c).decided e (((eeReady s t e c).chan e c).path.cand 2) = some (w, true) → w.ratio ≤ v.ratio) ∨
      ((eeReady s t e c).decided e (((eeReady s t e c).chan e c).path.cand 2) = some (v, true) ∧
        ∃ o ok, (eeReady s t e c).decided e (((eeReady s t e c).chan e c).path.cand 1) = some (o, ok) ∧ (ok = true → o.ratio < v.ratio))) :
    execPrsTest t e c false s = done s ((eeReady s t e c).candPasses e c v) := by
  obtain ⟨one, least⟩ | ⟨two, o, ok, one, less⟩ := wins
  · by_cases both : ∃ w, (eeReady s t e c).decided e (((eeReady s t e c).chan e c).path.cand 2) = some (w, true)
    · obtain ⟨w, two⟩ := both
      rw [execPrsTest_of_both chanOn waits one two, if_neg (Nat.not_lt.2 (least w two))]
    · exact execPrsTest_of_main chanOn waits one fun w two => both ⟨w, two⟩
  · cases ok with
    | true => rw [execPrsTest_of_both chanOn waits one two, if_pos (less rfl)]
    | false => exact execPrsTest_of_second chanOn waits one two

theorem engineSync : Rules.EngineSync := by
  refine ⟨fun q k y some_ first => takeCand_cand some_ first, fun s t e c hs => ?_⟩
  have ofSearch := execNullCandidate_of_search (s := s) (t := t) (e := e) (c := c)
  have ofSecond := execNullCandidate_of_second (s := s) (t := t) (e := e) (c := c)
  have drops := fun v => execPrsTest_second (s := s) (t := t) (e := e) (c := c) (v := v)
  have winner := fun v => execPrsTest_of_winner (s := s) (t := t) (e := e) (c := c) (v := v)
  have aloneFails := fun v => execPrsTest_of_alone (s := s) (t := t) (e := e) (c := c) (v := v)
  have neither := fun v w => execPrsTest_of_neither (s := s) (t := t) (e := e) (c := c) (v := v) (w := w)
  have promoted := fun v => execPrsTest_of_promoted (s := s) (t := t) (e := e) (c := c) (v := v)
  unfold eeReady at ofSearch ofSecond drops winner aloneFails neither promoted
  generalize (s.advance t).eeFeed false e c = u at *
  intro _ x one two chanOn
  refine ⟨fun mode found => ⟨fun search => ?_, fun other => ?_⟩, fun v fails => ?_, fun waits => ⟨fun v wins => ?_, fun v fails alone => ?_,
    fun v w fails fails2 => ?_, fun v y fails undecided second => ?_⟩⟩
  · exact completes_of_done hs (c := .nullCandidate t e c) (ofSearch chanOn mode found search) rfl
  · exact completes_of_done hs (c := .nullCandidate t e c) (ofSecond chanOn mode found other) rfl
  · exact completes_of_done hs (c := .prsTest t e c true) (drops v chanOn fails) rfl
  · have he := winner v chanOn waits wins
    have here := lt_of_candidate waits
    refine ⟨fun dab => completes_of_done hs (c := .prsTest t e c false) he ?_, fun drm =>
      completes_of_done hs (c := .prsTest t e c false) he ?_⟩
    · have synced := candPasses_dab here dab v
      exact ⟨synced.sync, synced.offset, synced.good, synced.mode, synced.track⟩
    · obtain ⟨sync, track⟩ := candPasses_drm here drm v
      exact ⟨sync.trans waits, track⟩
  · exact completes_of_done hs (c := .prsTest t e c false) (aloneFails v chanOn waits fails alone) rfl
  · exact completes_of_done hs (c := .prsTest t e c false) (neither v w chanOn waits fails fails2) rfl
  · have at_ := modChan_chan_self (lt_of_candidate waits) (fun ch => { ch with path := { ch.path with
      cands := (ch.path.dropCand 1).cands.map (fun x => if x.taken = 2 then { x with taken := 1 } else x) } })
    refine completes_of_done hs (c := .prsTest t e c false)
      (promoted v chanOn waits fails undecided (Option.isSome_of_eq_some second)) ⟨?_, ?_⟩
    · exact (congrArg EeChan.sync at_).trans waits
    · exact (congrArg (fun x : EeChan => x.path.cand 1) at_).trans (promoted_cand second)

end Sys2Proof.Proofs
end

section
/-! PROOF. The mode, losses and re-locks of the engines: O38 assembled. -/
namespace Sys2Proof.Proofs
open Sys2Proof Sys2Proof.Machine Sys2Proof.Laws

/-! ## The mode of a DRM channel -/

theorem indexed_ge {α : Type} {n k : Nat} {l : List α} {a : α} (h : (k, a) ∈ indexed n l) : n ≤ k := by
  induction l generalizing n with
  | nil => exact nomatch h
  | cons b l ih =>
    rcases List.mem_cons.1 h with first | later
    · exact Nat.le_of_eq (congrArg Prod.fst first).symm
    · exact Nat.le_of_succ_le (ih later)

theorem mem_indexed_iff {α : Type} {n k : Nat} {l : List α} {a : α} : (n + k, a) ∈ indexed n l ↔ l[k]? = some a := by
  induction l generalizing n k with
  | nil => simp [indexed]
  | cons b l ih =>
    rw [indexed, List.mem_cons]
    cases k with
    | zero =>
      rw [Nat.add_zero, List.getElem?_cons_zero, Option.some_inj, Prod.mk.injEq]
      refine ⟨fun h => h.elim (fun e => e.2.symm) fun later => absurd (indexed_ge later) (Nat.not_le.2 (Nat.lt_succ_self n)),
        fun e => .inl ⟨rfl, e.symm⟩⟩
    | succ k =>
      rw [List.getElem?_cons_succ, ← ih (n := n + 1), Nat.add_right_comm n 1 k, ← Nat.add_assoc]
      refine ⟨fun h => h.resolve_left fun e => ?_, .inr⟩
      have := congrArg Prod.fst e
      dsimp only at this
      omega

/-- A mode that stands out is the only one that does. -/
theorem mode_found {peaks : List Nat} {i v : Nat} (at_ : peaks[i]? = some v) (strong : 500 ≤ v)
    (rest : ∀ j w, j ≠ i → peaks[j]? = some w → 3 * w ≤ 2 * v) :
    (indexed 0 peaks).find? (fun p => decide (500 ≤ p.2) && (indexed 0 peaks).all (fun q => q.1 == p.1 || decide (3 * q.2 ≤ 2 * p.2))) =
      some (i, v) := by
  have mem : ∀ {k a}, (k, a) ∈ indexed 0 peaks ↔ peaks[k]? = some a := fun {k a} => by
    rw [← mem_indexed_iff (n := 0), Nat.zero_add]
  refine find?_eq_some_of_unique (mem.2 at_) ?_ fun y some_ passes => ?_
  · rw [Bool.and_eq_true, decide_eq_true_eq, List.all_eq_true]
    refine ⟨strong, fun q some_ => ?_⟩
    by_cases same : q.1 = i
    · rw [same, beq_self_eq_true, Bool.true_or]
    · rw [decide_eq_true (rest q.1 q.2 same (mem.1 some_)), Bool.or_true]
  · rw [Bool.and_eq_true, decide_eq_true_eq, List.all_eq_true] at passes
    obtain ⟨-, over_⟩ := passes
    have there : peaks[y.1]? = some y.2 := mem.1 some_
    by_cases same : y.1 = i
    · rw [same, at_, Option.some_inj] at there
      exact Prod.ext same there.symm
    · have less := rest y.1 y.2 same there
      have more := over_ (i, v) (mem.2 at_)
      rw [Bool.or_eq_true, beq_iff_eq, decide_eq_true_eq] at more
      rcases more with eq | more
      · exact absurd eq.symm same
      · dsimp only at more
        omega

theorem execDrmModeDetect_of_found {s : State} {t e c i v : Nat} (length : ((eeReady s t e c).chan e c).path.peaks.length = 4)
    (at_ : ((eeReady s t e c).chan e c).path.peaks[i]? = some v) (strong : 500 ≤ v)
    (rest : ∀ j w, j ≠ i → ((eeReady s t e c).chan e c).path.peaks[j]? = some w → 3 * w ≤ 2 * v)
    (chanOn : (eeReady s t e c).chanOn e c = true) (drm : (eeReady s t e c).eeStdOf e = 1)
    (auto : fget ((eeReady s t e c).eeBlk e) eeDrmMode = 0) (search : ((eeReady s t e c).chan e c).sync = .search)
    (none_ : ((eeReady s t e c).chan e c).mode = 0xFF) :
    execDrmModeDetect t e c s = done s ((eeReady s t e c).modChan e c (fun ch => { ch with mode := i + 1 })) := by
  unfold execDrmModeDetect
  dsimp only
  rw [← eeReady, List.take_of_length_le (Nat.le_of_eq length), mode_found at_ strong rest, chanOn, drm, auto, search, none_,
    if_pos (by rfl)]

theorem drmMode : Rules.DrmMode := by
  intro s t e c i v hs
  have he := execDrmModeDetect_of_found (s := s) (t := t) (e := e) (c := c) (i := i) (v := v)
  unfold eeReady at he
  generalize (s.advance t).eeFeed false e c = u at *
  intro _ peaks length at_ strong rest chanOn drm auto search none_
  exact completes_of_done hs (c := .drmModeDetect t e c) (he length at_ strong rest chanOn drm auto search none_) rfl

/-! ## Losses and re-locks -/

section
variable {s : State} {t e c : Nat} (chanOn : (eeReady s t e c).chanOn e c = true)
include chanOn

theorem execEeLoss_of_up (fails : fget ((eeReady s t e c).eeBlk e) eeLossN ≤ ((eeReady s t e c).chan e c).path.lossRun)
    (up : ((eeReady s t e c).chan e c).sync.up = true) : ∃ cause, execEeLoss t e c s = done s ((eeReady s t e c).eeLose e c cause) := by
  unfold execEeLoss
  dsimp only
  rw [← eeReady, chanOn, decide_eq_true fails, up, if_pos (by rfl)]
  exact ⟨_, if_pos rfl⟩

theorem execEeLoss_of_track (fails : fget ((eeReady s t e c).eeBlk e) eeLossN ≤ ((eeReady s t e c).chan e c).path.lossRun)
    (down : ¬ ((eeReady s t e c).chan e c).sync.up = true) (track : ((eeReady s t e c).chan e c).path.track.isSome = true) :
    execEeLoss t e c s = done s ((eeReady s t e c).modChan e c (fun ch => { ch with sync := .search, path := ch.path.lose })) := by
  unfold execEeLoss
  dsimp only
  rw [← eeReady, chanOn, decide_eq_true fails, if_pos (by rfl), if_neg down, if_pos track]

theorem execOffsetRangeLoss_of_left {k : EeTrack} (up : ((eeReady s t e c).chan e c).sync.up = true)
    (drm : (eeReady s t e c).eeStdOf e ≠ 0) (track : ((eeReady s t e c).chan e c).path.track = some k)
    (left : 2 ^ 32 < (k.freq - k.freq0).natAbs * (2 * usefulOf ((eeReady s t e c).chan e c).mode)) :
    execOffsetRangeLoss t e c s = done s ((eeReady s t e c).eeLose e c 0) := by
  unfold execOffsetRangeLoss
  dsimp only
  rw [← eeReady, chanOn, up, track, bne_iff_ne.2 drm]
  exact if_pos (decide_eq_true left)

/-- What a re-lock leaves of its channel. -/
structure Relocked (u : State) (e c : Nat) (r : State) : Prop where
  count : (r.eeR e).relocks = satU 16 ((u.eeR e).relocks + 1)
  noted : (r.chan e c).relockAt = some u.now
  cut : (r.chan e c).interruptedQ = true
  sync : (r.chan e c).sync = (u.chan e c).sync

omit chanOn in
theorem Relocked.of_ee {u r r' : State} (h : Relocked u e c r) (k : r'.ee = r.ee) : Relocked u e c r' :=
  ⟨eeR_congr k e ▸ h.count, chan_congr k e c ▸ h.noted, chan_congr k e c ▸ h.cut, chan_congr k e c ▸ h.sync⟩

theorem execEeRelock_relocks (up : ((eeReady s t e c).chan e c).sync.up = true)
    (margin : fget ((eeReady s t e c).eeBlk e) eeSlMargin ≠ 0)
    (evidence : (relockTo (fget ((eeReady s t e c).eeBlk e) eeSlMargin) (fget ((eeReady s t e c).eeBlk e) eeSlFrames)
      (guardOf ((eeReady s t e c).chan e c).mode) ((eeReady s t e c).chan e c).path.arrivals).isSome = true) :
    ∃ v, execEeRelock t e c s = done s v ∧ Relocked (eeReady s t e c) e c v := by
  obtain ⟨a, found⟩ := Option.isSome_iff_exists.1 evidence
  unfold execEeRelock
  rw [← eeReady]
  generalize eeReady s t e c = u at *
  extract_lets u b ch guard
  rw [show relockTo (fget b eeSlMargin) (fget b eeSlFrames) guard ch.path.arrivals = some a from found]
  dsimp -zeta only
  rw [show (u.chanOn e c && ch.sync.up && fget b eeSlMargin != 0) = true by rw [chanOn, up, bne_iff_ne.2 margin]; rfl, if_pos rfl]
  extract_lets margin_ v w
  refine ⟨_, rfl, Relocked.of_ee (r := w) ?_ (reportsOnly_ee (eeSlate_reportsOnly ..))⟩
  have here := lt_of_up up
  have at_ : v.chan e c = _ := modChan_chan_self here _
  have counted : w.eeR e = { v.eeR e with relocks := satU 16 ((v.eeR e).relocks + 1) } :=
    modEe_eeR_self ((modAt_length e _ u.ee).symm ▸ here.1) _
  have kept : w.chan e c = v.chan e c := (congrArg (fun r : EeRun => (r.chans[c]?).getD EeChan.reset) counted :)
  have before : (v.eeR e).relocks = (u.eeR e).relocks :=
    (congrArg EeRun.relocks (modEe_eeR_self here.1 (fun r => { r with chans := modAt c _ r.chans })) :)
  exact ⟨(congrArg EeRun.relocks counted).trans (congrArg (fun n => satU 16 (n + 1)) before),
    (congrArg EeChan.relockAt (kept.trans at_) :), (congrArg EeChan.interruptedQ (kept.trans at_) :),
    (congrArg EeChan.sync (kept.trans at_) :)⟩

end

theorem execTii_reports {s : State} {t e c : Nat} (chanOn : (eeReady s t e c).chanOn e c = true) (first : c = 0)
    (dab : (eeReady s t e c).eeStdOf e = 0) (enabled : fbit ((eeReady s t e c).eeBlk e) eeTiiEn = true) :
    ∃ v, execTii t e s = done s v ∧
      State.reportsOnly ((eeReady s t e c).modEe e (fun x => { x with tii := ((eeReady s t e c).chan e 0).path.tiiSet })) v := by
  subst first
  unfold execTii
  rw [← eeReady]
  generalize eeReady s t e 0 = u at *
  dsimp only
  rw [chanOn, dab, enabled, if_pos (by rfl)]
  exact ⟨_, rfl, (reportsOnly_ite (eeSlate_reportsOnly ..)).2⟩

theorem engineLoss : Rules.EngineLoss := by
  intro s t e c hs
  have ofUp := execEeLoss_of_up (s := s) (t := t) (e := e) (c := c)
  have ofTrack := execEeLoss_of_track (s := s) (t := t) (e := e) (c := c)
  have ofRange := fun k => execOffsetRangeLoss_of_left (s := s) (t := t) (e := e) (c := c) (k := k)
  have relocks := execEeRelock_relocks (s := s) (t := t) (e := e) (c := c)
  have reports := execTii_reports (s := s) (t := t) (e := e) (c := c)
  unfold eeReady at ofUp ofTrack ofRange relocks reports
  generalize (s.advance t).eeFeed false e c = u at *
  intro _ chanOn
  refine ⟨fun fails lost => ?_, fun up drm k track left => ?_, fun up margin evidence => ?_, fun first dab enabled => ?_⟩
  · by_cases up : (u.chan e c).sync.up = true
    · obtain ⟨cause, he⟩ := ofUp chanOn fails up
      refine completes_of_done hs (c := .eeLoss t e c) he ?_
      have lost := eeLose_searching u e c cause
      generalize u.eeLose e c cause = v at lost ⊢
      exact lost
    · have track := lost.resolve_left up
      have at_ := modChan_chan_self (lt_of_track track) (fun ch => { ch with sync := .search, path := ch.path.lose })
      exact completes_of_done hs (c := .eeLoss t e c) (ofTrack chanOn fails up track)
        ⟨(congrArg EeChan.sync at_ :), (congrArg (fun x : EeChan => x.path.track) at_ :)⟩
  · refine completes_of_done hs (c := .offsetRangeLoss t e c) (ofRange k chanOn up drm track left) ?_
    have lost := eeLose_searching u e c 0
    generalize u.eeLose e c 0 = v at lost ⊢
    exact lost.1
  · obtain ⟨v, he, relocked⟩ := relocks chanOn up margin evidence
    exact completes_of_done hs (c := .eeRelock t e c) he ⟨relocked.count, relocked.noted, relocked.cut, relocked.sync⟩
  · obtain ⟨v, he, changed⟩ := reports chanOn first dab enabled
    exact completes_of_done hs (c := .tii t e) he (framed_reportsOnly changed)

/-! ## The evidence of a re-lock -/

/-- The strongest of a list is one of it. -/
theorem strongest_mem (l : List EeArrival) (m : Option EeArrival) {a : EeArrival}
    (h : l.foldl (fun (m : Option EeArrival) a => match m with | some v => if v.power < a.power then some a else m | none => some a) m =
      some a) : a ∈ l ∨ m = some a := by
  induction l generalizing m with
  | nil => exact .inr h
  | cons b l ih =>
    rcases ih _ h with later | now
    · exact .inl (List.mem_cons_of_mem b later)
    · cases m with
      | none => exact .inl (Option.some_inj.1 now ▸ List.mem_cons_self)
      | some v =>
        dsimp only at now
        split at now
        · exact .inl (Option.some_inj.1 now ▸ List.mem_cons_self)
        · exact .inr now

theorem relockEvidence : Rules.RelockEvidence := by
  intro margin frames guard fs a found
  unfold relockTo at found
  split at found
  · exact nomatch found
  · next enough =>
    rcases strongest_mem _ _ found with mem | none_
    · obtain ⟨first, both⟩ := List.mem_filter.1 mem
      rw [Bool.and_eq_true, decide_eq_true_eq] at both
      exact ⟨both.1, Nat.not_lt.1 enough, first, both.2⟩
    · exact nomatch none_

/-- Settles O38: each decision of the search, the tests and the losses by its own case; a channel that searches keeps searching through
whatever boundary stops its engine. -/
theorem engineStates : Obligations.EngineStates := ⟨engineSync, drmMode, engineLoss, relockEvidence⟩

end Sys2Proof.Proofs
end

section
/-! PROOF. Frames and clocks of the audio ports (R226 to R240): O41. -/
namespace Sys2Proof.Proofs
open Sys2Proof Sys2Proof.Machine Sys2Proof.Laws

/-! ## The runs of the ports -/

section
variable {s t : State} {p : Nat}

theorem lt_of_running_port (h : s.running .port p = true) : p < s.port.length := lt_of_life_isSome (life?_isSome_of_running h)

theorem modPort_portR_self (h : p < s.port.length) (f : PortRun → PortRun) : (s.modPort p f).portR p = f (s.portR p) :=
  runOf_withRun_self f h _

theorem modPort_length (f : PortRun → PortRun) : (s.modPort p f).port.length = s.port.length := modAt_length p (Obj.withRun f) s.port

theorem portR_congr (h : t.port = s.port) (p : Nat) : t.portR p = s.portR p :=
  congrArg (fun l : List (Obj PortRun) => ((l[p]?).map Obj.run).getD PortRun.reset) h

theorem portSlate_reportsOnly (code t : Nat) (items : List Byte) : s.reportsOnly (s.portSlate code p t items) := slateAt_reportsOnly ..

theorem portSlate_cond (code t : Nat) (items : List Byte) (m : Nat) : (s.portSlate code p t items).cond m = s.cond m := slateAt_cond ..

/-- A port in a state is one of those that the conditions look at. -/
theorem any_port {st : PortSt} (h : p < s.port.length) (k : (s.portR p).st = st) : s.port.any (fun o => o.run.st == st) = true := by
  refine List.any_eq_true.2 ⟨s.port[p], List.getElem_mem h, beq_iff_eq.2 (Eq.trans ?_ k)⟩
  rw [State.portR, List.getElem?_eq_getElem h]
  rfl

theorem portConds_reportsOnly : s.reportsOnly s.portConds := reportsOnly_trans (setCond_reportsOnly ..) (setCond_reportsOnly ..)

theorem portConds_clockLost : s.portConds.cond fClockLost = s.port.any (fun o => o.run.st == .clockLost) :=
  (setCond_cond_of_ne (by decide) _ _).trans (setCond_cond (by decide) s _)

theorem portConds_rateJump : s.portConds.cond fRateJump = s.port.any (fun o => o.run.st == .rateJump) := setCond_cond (by decide) _ _

theorem portConds_flag {m : Nat} (h : s.flag m = true) : s.portConds.flag m = true :=
  setCond_flag_of_flag (setCond_flag_of_flag h _ _) _ _

end

/-! ## The routes of a frame -/

theorem indexed_getElem? {α : Type} (n k : Nat) (l : List α) : (indexed n l)[k]? = (l[k]?).map (fun a => (n + k, a)) := by
  induction l generalizing n k with
  | nil => rfl
  | cons a l ih =>
    cases k with
    | zero => rfl
    | succ k =>
      rw [indexed, List.getElem?_cons_succ, List.getElem?_cons_succ, ih, Nat.add_right_comm n 1 k]
      rfl

/-- A frame has a word for each slot. -/
theorem doWords_length (b : Blk) (zero : Bool) (rs : List RouteRun) : (doWords b zero rs).length = portSlots b := by
  unfold doWords
  extract_lets idle
  refine (foldl_keeps (fun l m : List (Option Int) => m.length = l.length) (fun _ => rfl) (fun _ _ _ h k => k.trans h) _
    (fun l r => ?_) _ _).trans List.length_replicate
  extract_lets x w
  split
  · exact modAt_length ..
  · exact (modAt_length ..).trans (modAt_length ..)
  · rfl

/-- A route whose source delivers nothing underruns. -/
theorem stepRoute_under (b : Blk) (r : Nat) (x : RouteRun) (i : Option (Int × Int)) (lost : Bool) (gone : x.delay = none ∨ i = none) :
    (stepRoute b r x i lost).1.under = true := by
  have dry : (lost || x.delay.isNone || i.isNone) = true := by
    rcases gone with h | h
    · rw [h, Option.isNone_none, Bool.or_true, Bool.true_or]
    · rw [h, Option.isNone_none, Bool.or_true]
  unfold stepRoute
  dsimp only
  rw [dry, if_pos rfl]
  cases h : x.under
  · rfl
  · exact h

theorem routeUnderrun_reportsOnly (p t : Nat) (s : State) (r : Nat) : s.reportsOnly (State.routeUnderrun p t s r) :=
  reportsOnly_trans (setFlag_reportsOnly ..) (slateAt_reportsOnly ..)

/-! ## PORT_FRAME -/

theorem track_st (x : PortRun) (slave : Bool) (now : Nat) : (x.track slave now).st = x.st := by
  unfold PortRun.track
  split <;> [rfl; split <;> [rfl; split <;> rfl]]

theorem track_frames (x : PortRun) (slave : Bool) (now : Nat) : (x.track slave now).frames = x.frames := by
  unfold PortRun.track
  split <;> [rfl; split <;> [rfl; split <;> rfl]]

theorem track_routes (x : PortRun) (slave : Bool) (now : Nat) : (x.track slave now).routes = x.routes := by
  unfold PortRun.track
  split <;> [rfl; split <;> [rfl; split <;> rfl]]

/-- The state with the tracking loop of port `p` at its next frame. -/
def tracked (u : State) (p : Nat) : State := u.modPort p (fun y => y.track (u.slave p) u.now)

section
variable {s : State} {t p : Nat} (i : PortIn) (runs : (s.advance t).running .port p = true)
  (begun : ((s.advance t).portR p).dataFrom ≤ (s.advance t).now)
  (due : (s.advance t).slave p = true ∨ onGrid (portRate ((s.advance t).portBlk p)) (s.advance t).now = true)
include runs begun due

theorem portFrame_due : ((s.advance t).running .port p && decide (((s.advance t).portR p).dataFrom ≤ (s.advance t).now) &&
    ((s.advance t).slave p || onGrid (portRate ((s.advance t).portBlk p)) (s.advance t).now)) = true := by
  rw [runs, decide_eq_true begun, Bool.true_and, Bool.true_and, Bool.or_eq_true]
  exact due

omit begun due in
theorem tracked_portR : (tracked (s.advance t) p).portR p =
    ((s.advance t).portR p).track ((s.advance t).slave p) (s.advance t).now := modPort_portR_self (lt_of_running_port runs) _

theorem execPortFrame_of_rateJump (jump : ((s.advance t).portR p).st = .rateJump) :
    execPortFrame t p i s = done s ((tracked (s.advance t) p).modPort p (fun y => { y with
      dout := doWords ((s.advance t).portBlk p) true y.routes,
      line := frameLine ((s.advance t).portBlk p) y.dout (doWords ((s.advance t).portBlk p) true y.routes), frames := y.frames + 1,
      lastAt := (s.advance t).now, diHist := y.hear (s.advance t).now [] })) := by
  have st : ((tracked (s.advance t) p).portR p).st = .rateJump := by rw [tracked_portR runs, track_st, jump]
  unfold execPortFrame
  dsimp only
  rw [if_pos (portFrame_due runs begun due), ← tracked, st]
  rfl

theorem execPortFrame_of_clockLost (lost : ((s.advance t).portR p).st = .clockLost) :
    execPortFrame t p i s = done s ((tracked (s.advance t) p).modPort p (fun y => { y with
      frames := y.frames + 1, lastAt := (s.advance t).now, diHist := y.hear (s.advance t).now [] })) := by
  have st : ((tracked (s.advance t) p).portR p).st = .clockLost := by rw [tracked_portR runs, track_st, lost]
  unfold execPortFrame
  dsimp only
  rw [if_pos (portFrame_due runs begun due), ← tracked, st]
  rfl

/-- What a frame of a port in SYNC leaves of it. -/
structure FrameSent (u : State) (p : Nat) (r : State) : Prop where
  frames : (r.portR p).frames = (u.portR p).frames + 1
  at_ : (r.portR p).lastAt = u.now
  words : (r.portR p).dout.length = portSlots (u.portBlk p)
  sync : (r.portR p).st = .sync
  routes : (r.portR p).routes.length = (u.portR p).routes.length
  under : ∀ k z, (u.portR p).routes[k]? = some z → fget (u.portBlk p) (rtKind k) ≠ 0 →
    ((tracked u p).fixRoute (u.portBlk p) k z).delay = none ∨
      (tracked u p).routeWord (u.portBlk p) k ((tracked u p).portR p).tn ((tracked u p).fixRoute (u.portBlk p) k z) = none →
    ∃ w, (r.portR p).routes[k]? = some w ∧ w.under = true

theorem execPortFrame_of_sync (sync : ((s.advance t).portR p).st = .sync) :
    ∃ v, execPortFrame t p i s = done s v ∧ FrameSent (s.advance t) p v := by
  have ready := portFrame_due runs begun due
  have loop := tracked_portR runs
  have here : p < (tracked (s.advance t) p).port.length :=
    Nat.lt_of_lt_of_eq (lt_of_running_port runs)
      (modPort_length (s := s.advance t) (fun y => y.track ((s.advance t).slave p) (s.advance t).now)).symm
  unfold execPortFrame
  generalize s.advance t = u at *
  extract_lets u b v x fixed steps rs dout word di w
  rw [if_pos ready]
  have st : x.st = .sync := by rw [show x = _ from loop, track_st, sync]
  rw [st]
  refine ⟨_, rfl, ?_⟩
  have reports : w.reportsOnly (((indexed 0 steps).filter (fun y => y.2.2)).foldl (fun s y => State.routeUnderrun p (x.tn / 16) s y.1) w) :=
    foldl_reportsOnly _ (fun _ _ => routeUnderrun_reportsOnly ..) _ _
  generalize ((indexed 0 steps).filter (fun y => y.2.2)).foldl (fun s y => State.routeUnderrun p (x.tn / 16) s y.1) w = r at reports ⊢
  have at_ : r.portR p = { x with
      routes := rs, dout := dout, di := di, frames := x.frames + 1, lastAt := v.now, absentNext := false,
      diHist := x.hear v.now di, line := frameLine b x.dout dout } :=
    (portR_congr (reportsOnly_port reports) p).trans (modPort_portR_self (s := v) here (fun x => { x with
      routes := rs, dout := dout, di := di, frames := x.frames + 1, lastAt := v.now, absentNext := false,
      diHist := x.hear v.now di, line := frameLine b x.dout dout }))
  have before : x = (u.portR p).track (u.slave p) u.now := loop
  refine ⟨?_, ?_, ?_, ?_, ?_, fun k z route on_ dry => ?_⟩
  · rw [at_]
    exact congrArg (· + 1) (before ▸ track_frames ..)
  · rw [at_]
    rfl
  · rw [at_]
    exact doWords_length ..
  · rw [at_]
    exact st
  · rw [at_]
    change rs.length = _
    rw [List.length_map, List.length_map, List.length_map, indexed_length, before, track_routes]
  · rw [at_]
    change ∃ w, rs[k]? = some w ∧ w.under = true
    rw [List.getElem?_map, List.getElem?_map, List.getElem?_map, indexed_getElem?, before, track_routes, show (u.portR p).routes[k]? = some z from route]
    refine ⟨_, rfl, ?_⟩
    dsimp only
    rw [Nat.zero_add, if_neg on_]
    exact stepRoute_under _ _ _ _ _ dry

end

theorem portFrames : Rules.PortFrames := by
  intro s t p i hs
  have ofSync := execPortFrame_of_sync (s := s) (t := t) (p := p) i
  have ofJump := execPortFrame_of_rateJump (s := s) (t := t) (p := p) i
  have ofLost := execPortFrame_of_clockLost (s := s) (t := t) (p := p) i
  generalize s.advance t = u at *
  intro _ b x v y runs begun due
  refine ⟨fun sync => ?_, fun jump => ?_, fun lost => ?_⟩
  · obtain ⟨r, he, sent⟩ := ofSync runs begun due sync
    exact completes_of_done hs (c := .portFrame t p i) he
      ⟨sent.frames, sent.at_, sent.words, sent.sync, sent.routes, sent.under⟩
  · exact completes_of_done hs (c := .portFrame t p i) (ofJump runs begun due jump) rfl
  · exact completes_of_done hs (c := .portFrame t p i) (ofLost runs begun due lost) rfl

/-! ## The clock of a slave port -/

section
variable {s : State} {t p : Nat} (runs : (s.advance t).running .port p = true)
include runs

/-- What an edge a frame after the last one leaves of a port that seeks. -/
structure Locked (u : State) (p : Nat) (r : State) : Prop where
  st : (r.portR p).st = .sync
  found : (r.portR p).lostAt = 0
  seen : (r.portR p).bclkSeen = true

theorem execPortSync_of_near {back : Nat} (slave : (s.advance t).slave p = true) (seeks : ((s.advance t).portR p).st = .seek)
    (near : ¬ (((s.advance t).portR p).lostAt ≠ 0 ∧
      jumpRange < (rateOffset (portRate ((s.advance t).portBlk p)) 1 (16 * back)).natAbs)) :
    ∃ v, execPortSync t p (frameBits ((s.advance t).portBlk p)) back s = done s v ∧ Locked (s.advance t) p v := by
  unfold execPortSync
  generalize s.advance t = u at *
  extract_lets u x rho v w y z
  rw [show (u.running .port p && u.slave p && x.st == .seek && frameBits (u.portBlk p) == frameBits (u.portBlk p)) = true by
    rw [show x.st = _ from seeks, runs, slave, beq_self_eq_true, beq_self_eq_true]; rfl, if_pos rfl, if_neg near]
  refine ⟨_, rfl, ?_⟩
  have at_ : v.portR p = _ := modPort_portR_self (lt_of_running_port runs) _
  have first : v.reportsOnly w := portSlate_reportsOnly ..
  have second : v.reportsOnly y := reportsOnly_trans first (reportsOnly_ite (portSlate_reportsOnly ..)).2
  have same := portR_congr (reportsOnly_port second) p
  exact ⟨(congrArg PortRun.st (same.trans at_) :), (congrArg PortRun.lostAt (same.trans at_) :), (congrArg PortRun.bclkSeen (same.trans at_) :)⟩

end

end Sys2Proof.Proofs
end

section
/-! PROOF. Losses, returns and errors of a port's clock: O41 assembled. -/
namespace Sys2Proof.Proofs
open Sys2Proof Sys2Proof.Machine Sys2Proof.Laws

section
variable {s : State} {p : Nat} (t : Nat)

/-- The frames of a port that leaves SYNC carry zeros; its counters stay, and nothing else changes but reports. -/
theorem routesGap_reports : ∃ f : PortRun → PortRun, (s.modPort p f).reportsOnly (s.routesGap p t) ∧
    ∀ x, (f x).losses = x.losses ∧ (f x).fsErr = x.fsErr :=
  ⟨_, foldl_reportsOnly _ (fun _ _ => routeUnderrun_reportsOnly ..) _ _, fun _ => ⟨rfl, rfl⟩⟩

end

section
variable {s : State} {t p : Nat} (runs : (s.advance t).running .port p = true)
include runs

/-- A clock that returns too far off its nominal rate. -/
theorem execPortSync_of_far {back : Nat} (slave : (s.advance t).slave p = true) (seeks : ((s.advance t).portR p).st = .seek)
    (lost : ((s.advance t).portR p).lostAt ≠ 0)
    (far : jumpRange < (rateOffset (portRate ((s.advance t).portBlk p)) 1 (16 * back)).natAbs) :
    ∃ v, execPortSync t p (frameBits ((s.advance t).portBlk p)) back s = done s v ∧ (v.portR p).st = .rateJump ∧
      (v.portR p).jumps = satU 16 (((s.advance t).portR p).jumps + 1) ∧ v.cond fRateJump = true := by
  unfold execPortSync
  generalize s.advance t = u at *
  extract_lets u x rho v w y z
  rw [show (u.running .port p && u.slave p && x.st == .seek && frameBits (u.portBlk p) == frameBits (u.portBlk p)) = true by
    rw [show x.st = _ from seeks, runs, slave, beq_self_eq_true, beq_self_eq_true]; rfl, if_pos rfl, if_pos ⟨lost, far⟩]
  refine ⟨_, rfl, ?_⟩
  have here := lt_of_running_port runs
  have at_ : v.portR p = _ := modPort_portR_self here _
  have first : v.reportsOnly w := portSlate_reportsOnly ..
  have second : v.reportsOnly y := reportsOnly_trans first (reportsOnly_ite (portSlate_reportsOnly ..)).2
  have jumps : (y.portR p).jumps = (u.portR p).jumps :=
    (congrArg PortRun.jumps ((portR_congr (reportsOnly_port second) p).trans at_) :)
  have there : p < y.port.length := by
    rw [reportsOnly_port second]
    exact Nat.lt_of_lt_of_eq here (modPort_length _).symm
  clear_value y
  have jumped : (y.modPort p (fun x => { x with st := .rateJump, ratio := rho, steady := 0, jumps := satU 16 (x.jumps + 1) })).portR p =
      { y.portR p with st := .rateJump, ratio := rho, steady := 0, jumps := satU 16 ((y.portR p).jumps + 1) } := modPort_portR_self there _
  have length := modPort_length (s := y) (p := p) (fun x => { x with st := .rateJump, ratio := rho, steady := 0, jumps := satU 16 (x.jumps + 1) })
  have hz : z = (y.modPort p (fun x => { x with st := .rateJump, ratio := rho, steady := 0, jumps := satU 16 (x.jumps + 1) })).portConds := rfl
  clear_value z
  generalize y.modPort p (fun x => { x with st := .rateJump, ratio := rho, steady := 0, jumps := satU 16 (x.jumps + 1) }) = j at *
  have same : (z.portSlate 0x0703 p z.now (leBytes 4 (unsignedOf 32 rho))).portR p = j.portR p :=
    (portR_congr (reportsOnly_port (portSlate_reportsOnly ..)) p).trans (hz ▸ portR_congr (reportsOnly_port portConds_reportsOnly) p)
  refine ⟨(congrArg PortRun.st (same.trans jumped) :), ?_, ?_⟩
  · rw [same, jumped, jumps]
  · rw [portSlate_cond, hz, portConds_rateJump]
    exact any_port (length ▸ there) (congrArg PortRun.st jumped)

/-- What a lost clock leaves. -/
structure ClockGone (u : State) (p : Nat) (r : State) : Prop where
  st : (r.portR p).st = .clockLost
  losses : (r.portR p).losses = satU 16 ((u.portR p).losses + 1)
  at_ : (r.portR p).lostAt = u.now
  cond : r.cond fClockLost = true

theorem execClockLost_of_silent {bclk : Bool} {periods : Nat} (slave : (s.advance t).slave p = true)
    (st : ((s.advance t).portR p).st = .seek ∨ ((s.advance t).portR p).st = .sync ∨ ((s.advance t).portR p).st = .rateJump)
    (silent : (if bclk then 4 else 2) ≤ periods) :
    ∃ v, execClockLost t p bclk periods s = done s v ∧ ClockGone (s.advance t) p v := by
  unfold execClockLost
  generalize s.advance t = u at *
  extract_lets u x v w
  rw [show (u.running .port p && u.slave p && (x.st == .seek || x.st == .sync || x.st == .rateJump) &&
      decide ((if bclk then 4 else 2) ≤ periods)) = true by
    rw [runs, slave, decide_eq_true silent]
    rcases st with h | h | h <;> rw [show x.st = _ from h] <;> rfl, if_pos rfl]
  refine ⟨_, rfl, ?_⟩
  have here := lt_of_running_port runs
  obtain ⟨length, losses⟩ : v.port.length = u.port.length ∧ (v.portR p).losses = (u.portR p).losses := by
    change (if x.st = .sync then u.routesGap p u.now else u).port.length = _ ∧
      ((if x.st = .sync then u.routesGap p u.now else u).portR p).losses = _
    split
    · obtain ⟨f, reports, keeps⟩ := routesGap_reports (s := u) (p := p) u.now
      have port := reportsOnly_port reports
      refine ⟨(congrArg List.length port).trans (modPort_length f), ?_⟩
      rw [portR_congr port, modPort_portR_self here]
      exact (keeps _).1
    · exact ⟨rfl, rfl⟩
  have there : p < v.port.length := length ▸ here
  clear_value v
  have at_ : w.portR p = { v.portR p with
      st := .clockLost, losses := satU 16 ((v.portR p).losses + 1), lostAt := u.now, di := (v.portR p).di.map (fun _ => none) } :=
    modPort_portR_self there _
  have bounds : p < w.port.length := Nat.lt_of_lt_of_eq there (modPort_length _).symm
  clear_value w
  have same : (w.portConds.portSlate 0x0701 p w.now []).portR p = w.portR p :=
    (portR_congr (reportsOnly_port (portSlate_reportsOnly ..)) p).trans (portR_congr (reportsOnly_port portConds_reportsOnly) p)
  refine ⟨?_, ?_, ?_, ?_⟩
  · exact congrArg PortRun.st (same.trans at_)
  · refine (congrArg PortRun.losses (same.trans at_)).trans ?_
    exact congrArg (fun n => satU 16 (n + 1)) losses
  · exact congrArg PortRun.lostAt (same.trans at_)
  · rw [portSlate_cond, portConds_clockLost]
    exact any_port bounds (congrArg PortRun.st at_)

theorem execPortClockReturn_of_lost (lost : ((s.advance t).portR p).st = .clockLost) (released : (s.advance t).phase = .released) :
    ∃ v, execPortClockReturn t p s = done s v ∧ (v.portR p).st = .seek ∧ (v.portR p).bclkSeen = true ∧ v.flag fCrossFlush = true ∧
      v.clk.flushes = modAt p (· + 1) (s.advance t).clk.flushes ∧ v.cond fClockLost = v.port.any (fun o => o.run.st == .clockLost) := by
  unfold execPortClockReturn
  generalize s.advance t = u at *
  extract_lets u v clk w
  rw [show (u.running .port p && (u.portR p).st == .clockLost) = true by rw [runs, show (u.portR p).st = _ from lost]; rfl, if_pos rfl]
  refine ⟨_, rfl, ?_⟩
  have at_ : w.portR p = { u.portR p with st := .seek, bclkSeen := true, lastAt := u.now } :=
    (modPort_portR_self (lt_of_running_port runs) _ :)
  have out : w.phase = .released := released
  have flushes : w.clk.flushes = modAt p (· + 1) u.clk.flushes := rfl
  clear_value w
  have reports : w.reportsOnly (w.setFlag fCrossFlush).portConds := reportsOnly_trans (setFlag_reportsOnly ..) portConds_reportsOnly
  have run := (portR_congr (reportsOnly_port reports) p).trans at_
  refine ⟨congrArg PortRun.st run, congrArg PortRun.bclkSeen run, portConds_flag (setFlag_flag (by decide) out), ?_, ?_⟩
  · exact (congrArg Clk.flushes (reportsOnly_clk reports)).trans flushes
  · rw [portConds_clockLost, reportsOnly_port portConds_reportsOnly]

theorem execFsError_of_stray {spacing : Nat} (slave : (s.advance t).slave p = true) (sync : ((s.advance t).portR p).st = .sync)
    (stray : spacing ≠ frameBits ((s.advance t).portBlk p)) (released : (s.advance t).phase = .released) :
    ∃ v, execFsError t p spacing s = done s v ∧ (v.portR p).st = .seek ∧
      (v.portR p).fsErr = satU 16 (((s.advance t).portR p).fsErr + 1) ∧ v.flag fFsError = true := by
  unfold execFsError
  generalize s.advance t = u at *
  extract_lets u v
  rw [show (u.running .port p && u.slave p && (u.portR p).st == .sync && spacing != frameBits (u.portBlk p)) = true by
    rw [runs, slave, show (u.portR p).st = _ from sync, bne_iff_ne.2 stray]; rfl, if_pos rfl]
  refine ⟨_, rfl, ?_⟩
  have here := lt_of_running_port runs
  obtain ⟨f, reports, keeps⟩ := routesGap_reports (s := u) (p := p) u.now
  have port := reportsOnly_port reports
  have out : v.phase = .released := (reportsOnly_phase reports).trans released
  have there : p < v.port.length := Nat.lt_of_lt_of_eq here ((congrArg List.length port).trans (modPort_length f)).symm
  have errors : (v.portR p).fsErr = (u.portR p).fsErr := by
    rw [show v.portR p = _ from portR_congr port p, modPort_portR_self here]
    exact (keeps _).2
  clear_value v
  have at_ : (v.modPort p (fun x => { x with st := .seek, fsErr := satU 16 (x.fsErr + 1) })).portR p =
      { v.portR p with st := .seek, fsErr := satU 16 ((v.portR p).fsErr + 1) } := modPort_portR_self there _
  have out' : (v.modPort p (fun x => { x with st := .seek, fsErr := satU 16 (x.fsErr + 1) })).phase = .released := out
  generalize v.modPort p (fun x => { x with st := .seek, fsErr := satU 16 (x.fsErr + 1) }) = w at *
  have run := (portR_congr (reportsOnly_port (setFlag_reportsOnly w fFsError)) p).trans at_
  refine ⟨congrArg PortRun.st run, ?_, setFlag_flag (by decide) out'⟩
  rw [run, errors]

theorem execPortRateOk_of_calm (jump : ((s.advance t).portR p).st = .rateJump) (calm : 16 ≤ ((s.advance t).portR p).steady) :
    ∃ v, execPortRateOk t p s = done s v ∧ (v.portR p).st = .sync ∧ (v.portR p).steady = 0 ∧
      v.cond fRateJump = v.port.any (fun o => o.run.st == .rateJump) := by
  unfold execPortRateOk
  generalize s.advance t = u at *
  extract_lets u v
  rw [show (u.running .port p && (u.portR p).st == .rateJump && decide (16 ≤ (u.portR p).steady)) = true by
    rw [runs, show (u.portR p).st = _ from jump, decide_eq_true calm]; rfl, if_pos rfl]
  refine ⟨_, rfl, ?_⟩
  have at_ := modPort_portR_self (lt_of_running_port runs) (fun x => { x with
      st := .sync, steady := 0, tn := 16 * x.lastAt,
      period := (rheDiv ((10 ^ 8 + x.ratio) * 16 * rfHz) (10 ^ 8 * portRate (u.portBlk p))).toNat })
  have hv : v = State.portConds (u.modPort p (fun x => { x with
      st := .sync, steady := 0, tn := 16 * x.lastAt,
      period := (rheDiv ((10 ^ 8 + x.ratio) * 16 * rfHz) (10 ^ 8 * portRate (u.portBlk p))).toNat })) := rfl
  clear_value v
  generalize u.modPort p (fun x => { x with
      st := .sync, steady := 0, tn := 16 * x.lastAt,
      period := (rheDiv ((10 ^ 8 + x.ratio) * 16 * rfHz) (10 ^ 8 * portRate (u.portBlk p))).toNat }) = w at at_ hv
  have same : (v.portSlate 0x0704 p v.now []).port = w.port :=
    (reportsOnly_port (portSlate_reportsOnly ..)).trans (hv ▸ reportsOnly_port portConds_reportsOnly)
  have run := (portR_congr same p).trans at_
  refine ⟨(congrArg PortRun.st run :), (congrArg PortRun.steady run :), ?_⟩
  rw [portSlate_cond, same, hv, portConds_rateJump]

end

theorem portClocks : Rules.PortClocks := by
  intro s t p hs
  have near := fun back => execPortSync_of_near (s := s) (t := t) (p := p) (back := back)
  have farOff := fun back => execPortSync_of_far (s := s) (t := t) (p := p) (back := back)
  have silence := fun bclk periods => execClockLost_of_silent (s := s) (t := t) (p := p) (bclk := bclk) (periods := periods)
  have returns := execPortClockReturn_of_lost (s := s) (t := t) (p := p)
  have stray := fun spacing => execFsError_of_stray (s := s) (t := t) (p := p) (spacing := spacing)
  have calm := execPortRateOk_of_calm (s := s) (t := t) (p := p)
  generalize s.advance t = u at *
  intro _ x runs
  refine ⟨fun back slave seeks => ?_, fun bclk periods slave st silent => ?_, fun lost released => ?_,
    fun spacing slave sync other released => ?_, fun jump steady => ?_⟩
  · intro far
    refine ⟨fun ok => ?_, fun lost off => ?_⟩
    · obtain ⟨v, he, locked⟩ := near back runs slave seeks (fun both => ok.elim both.1 (fun h => h both.2))
      exact completes_of_done hs (c := .portSync t p _ back) he ⟨locked.st, locked.found, locked.seen⟩
    · obtain ⟨v, he, jumped⟩ := farOff back runs slave seeks lost off
      exact completes_of_done hs (c := .portSync t p _ back) he jumped
  · obtain ⟨v, he, gone⟩ := silence bclk periods runs slave st silent
    exact completes_of_done hs (c := .clockLost t p bclk periods) he ⟨gone.st, gone.losses, gone.at_, gone.cond⟩
  · obtain ⟨v, he, returned⟩ := returns runs lost released
    exact completes_of_done hs (c := .portClockReturn t p) he returned
  · obtain ⟨v, he, noted⟩ := stray spacing runs slave sync other released
    exact completes_of_done hs (c := .fsError t p spacing) he noted
  · obtain ⟨v, he, calmed⟩ := calm runs jump steady
    exact completes_of_done hs (c := .portRateOk t p) he calmed

/-- Settles O41: one frame or clock event at a time; what a port's conditions read is the ports' own states. -/
theorem audioPorts : Obligations.AudioPorts := ⟨portFrames, portClocks⟩

end Sys2Proof.Proofs
end

section
/-! PROOF. The ports of a cascade and their word groups (R304, R305, R314, R327, R329): O42. -/
namespace Sys2Proof.Proofs
open Sys2Proof Sys2Proof.Machine Sys2Proof.Laws

/-! ## The state of the cascade -/

/-- `t` differs from `s` at most in the state of the cascade. -/
def casOnly (s t : State) : Prop := t = { s with cas := t.cas }

theorem casOnly_refl (s : State) : casOnly s s := rfl
theorem casOnly_trans {a b c : State} (h : casOnly a b) (k : casOnly b c) : casOnly a c := by
  unfold casOnly at *
  rw [k, h]
theorem casOnly_ite {p : Prop} [Decidable p] {s t u : State} (h : casOnly s t) (k : casOnly s u) : casOnly s (if p then t else u) := by
  split
  · exact h
  · exact k

theorem modCas_casOnly (s : State) (f : Cas → Cas) : casOnly s (s.modCas f) := rfl

theorem framed_casOnly {s u t : State} (h : casOnly u t) : s.framed t = s.framed { u with cas := (s.framed t).cas } :=
  congrArg s.framed h

section
variable {s : State} {p : HhlPort}

theorem modHhl_casOnly (f : HhlSt → HhlSt) : casOnly s (s.modHhl p f) := by cases p <;> rfl

theorem casSlate_reportsOnly (code : Nat) (items : List Byte) : s.reportsOnly (s.casSlate code items) := slateDet_reportsOnly ..

theorem casSlate_cond (code : Nat) (items : List Byte) (m : Nat) : (s.casSlate code items).cond m = s.cond m := slateDet_cond ..

theorem casSlate_cas (code : Nat) (items : List Byte) : (s.casSlate code items).cas = s.cas := reportsOnly_cas (casSlate_reportsOnly ..)

theorem hhlConds_reportsOnly : s.reportsOnly s.hhlConds := setCond_reportsOnly ..

theorem hhlConds_cond : s.hhlConds.cond fHhlDown = (s.cas.up.down || s.cas.dn.down) := setCond_cond (by decide) s _

theorem takeRemote_casOnly (quality : List (Nat × Nat × List Byte)) (subs : List SubSample) : casOnly s (s.takeRemote quality subs) := by
  unfold State.takeRemote
  split <;> rfl

end

theorem isMaster_congr {s t : State} (st : t.cas.st = s.cas.st) (self : t.cas.self = s.cas.self) (master : t.cas.master = s.cas.master) :
    t.isMaster = s.isMaster := by
  unfold State.isMaster
  rw [st, self, master]

/-! ## Lanes that train or fail -/

/-- The crossings of port `p` counted as flushed when `down`. -/
def crossingsFlushed (down : Bool) (p : HhlPort) (v : State) : State :=
  { v with clk := { v.clk with flushes := if down then modAt (4 + hhlCode p) (· + 1) v.clk.flushes else v.clk.flushes } }

theorem hhlFlush_reportsOnly (v : State) (p : HhlPort) : (crossingsFlushed true p v).reportsOnly (v.hhlFlush p) := by
  unfold State.hhlFlush
  extract_lets clk w
  exact reportsOnly_trans (b := { w with host := { w.host with rings := w.host.rings.map (fun r =>
    { r with streams := r.streams.map (fun x =>
        if x.key < 2 ^ 32 ∧ x.key / 2 ^ 24 ≠ 0xFF then ⟨x.key, 0, true, x.dropped⟩ else x) }) } }) rfl (setFlag_reportsOnly ..)

theorem hhlFlush_cond (v : State) (p : HhlPort) (m : Nat) : (v.hhlFlush p).cond m = v.cond m := setFlag_cond _ _ m

/-- A report before the flush of a crossing. -/
theorem crossingsFlushed_reportsOnly {v w : State} (h : v.reportsOnly w) (down : Bool) (p : HhlPort) :
    (crossingsFlushed down p v).reportsOnly (crossingsFlushed down p w) := by
  unfold crossingsFlushed State.reportsOnly
  rw [h]

section
variable {s : State} {t : Nat} {p : HhlPort}

/-- A port that trains. -/
def trainedPort (h : HhlSt) : HhlSt := { h with trained := true, down := false }

/-- A port whose lanes have lost block lock. -/
def downPort (h : HhlSt) : HhlSt := { h with trained := false, down := true, t1 := none, streams := [] }

theorem execHhlTrained_trains (asked : ((s.advance t).hhl p).asked = true) (down : ((s.advance t).hhl p).trained = false) :
    ∃ r, execHhlTrained t p s = done s r ∧
      r.cond fHhlDown = (((s.advance t).modHhl p trainedPort).cas.up.down || ((s.advance t).modHhl p trainedPort).cas.dn.down) ∧
      (crossingsFlushed ((s.advance t).hhl p).down p ((s.advance t).modHhl p trainedPort)).reportsOnly r := by
  unfold execHhlTrained
  generalize s.advance t = u at *
  extract_lets u h v w
  rw [show (h.asked && !h.trained) = true by rw [show h.asked = true from asked, show h.trained = false from down]; rfl, if_pos rfl]
  refine ⟨_, rfl, ?_⟩
  have first : (u.modHhl p trainedPort).reportsOnly v := hhlConds_reportsOnly
  have cond : v.cond fHhlDown = _ := hhlConds_cond (s := u.modHhl p trainedPort)
  clear_value v
  have second : (crossingsFlushed h.down p v).reportsOnly w ∧ w.cond fHhlDown = v.cond fHhlDown := by
    change State.reportsOnly _ (if h.down = true then v.hhlFlush p else v) ∧ (if h.down = true then v.hhlFlush p else v).cond fHhlDown = _
    cases h.down
    · exact ⟨rfl, rfl⟩
    · exact ⟨hhlFlush_reportsOnly v p, hhlFlush_cond v p _⟩
  obtain ⟨flushed, same⟩ := second
  clear_value w
  exact ⟨(casSlate_cond ..).trans (same.trans cond),
    reportsOnly_trans (reportsOnly_trans (crossingsFlushed_reportsOnly first _ p) flushed) (casSlate_reportsOnly ..)⟩

theorem execHhlDown_of_trained (trained : ((s.advance t).hhl p).trained = true) :
    ∃ r, execHhlDown t p s = done s r ∧ r.cond fHhlDown = true ∧ ((s.advance t).modHhl p downPort).reportsOnly r := by
  unfold execHhlDown
  generalize s.advance t = u at *
  extract_lets u v
  rw [if_pos trained]
  refine ⟨_, rfl, (casSlate_cond ..).trans ((hhlConds_cond (s := u.modHhl p downPort)).trans ?_),
    reportsOnly_trans (b := v) hhlConds_reportsOnly (casSlate_reportsOnly ..)⟩
  cases p
  · exact Bool.true_or _
  · exact Bool.or_true _

theorem execEcho_of_asked {sub t1 t2 t3 : Nat} (asked : ((s.advance t).hhl p).t1 = some t1) :
    execEcho t sub p t2 t3 s = done s ((s.advance t).modHhl p (fun h => { h with
      d := (rheDiv (((s.advance t).hhlReceived p (s.advance t).now sub - t1) - ((t3 : Int) - t2)) 2).toNat, t1 := none })) := by
  unfold execEcho
  dsimp only
  rw [asked]

/-! ## Word groups -/

/-- What the header of a word group changes of the port, and of what is known of the master. -/
def headerTaken (p : HhlPort) (w : WordGroupIn) (u : State) : State :=
  (u.modHhl p (fun h => { h with lastIdx := w.index, streams := w.streams, farFenced := w.fenced })).modCas (fun c => { c with
    hbMissed := if w.hb then 0 else c.hbMissed,
    master := if c.self ≠ c.master ∧ w.master = c.deputy ∧ w.hb then w.master else c.master })

/-- The word group but for its items. -/
def groupTaken (p : HhlPort) (w : WordGroupIn) (u : State) : State :=
  if w.fenced then headerTaken p w u
  else (headerTaken p w u).takeRemote
    (w.quality.map (fun q => (q.1, groupSample (headerTaken p w u).index w.index, q.2)))
    (w.subs.map (fun x => ⟨x.1, x.2.1, x.2.2.1, groupSample (headerTaken p w u).index w.index, cscale (2 ^ x.2.2.2.2) x.2.2.2.1⟩))

theorem execWordGroup_of_member {w : WordGroupIn} (member : (s.advance t).cas.st = .member) (trained : ((s.advance t).hhl p).trained = true) :
    execWordGroup t p w s = done s (w.items.foldl (State.linkItem w.fenced) (groupTaken p w (s.advance t))) :=
  if_pos ⟨member, trained⟩

/-- `t` knows of the ports, the master and the commands that wait what `s` does. -/
structure SameLinks (s t : State) : Prop where
  up : t.cas.up = s.cas.up
  dn : t.cas.dn = s.cas.dn
  missed : t.cas.hbMissed = s.cas.hbMissed
  waits : t.cas.nextTick = s.cas.nextTick
  master : t.isMaster = s.isMaster

theorem groupTaken_links (w : WordGroupIn) (u : State) : SameLinks (headerTaken p w u) (groupTaken p w u) := by
  unfold groupTaken
  generalize headerTaken p w u = v
  split
  · exact ⟨rfl, rfl, rfl, rfl, rfl⟩
  · unfold State.takeRemote
    split
    · exact ⟨rfl, rfl, rfl, rfl, rfl⟩
    · exact ⟨rfl, rfl, rfl, rfl, rfl⟩

theorem headerTaken_casOnly (w : WordGroupIn) (u : State) : casOnly u (headerTaken p w u) :=
  casOnly_trans (modHhl_casOnly _) (modCas_casOnly ..)

theorem groupTaken_casOnly (w : WordGroupIn) (u : State) : casOnly u (groupTaken p w u) :=
  casOnly_trans (headerTaken_casOnly w u) (casOnly_ite (casOnly_refl _) (takeRemote_casOnly ..))

theorem headerTaken_hhl (w : WordGroupIn) (u : State) :
    (headerTaken p w u).hhl p = { u.hhl p with lastIdx := w.index, streams := w.streams, farFenced := w.fenced } := by cases p <;> rfl

theorem headerTaken_missed (w : WordGroupIn) (u : State) : (headerTaken p w u).cas.hbMissed = if w.hb then 0 else u.cas.hbMissed := by
  cases p <;> rfl

theorem groupTaken_hhl (w : WordGroupIn) (u : State) :
    (groupTaken p w u).hhl p = { u.hhl p with lastIdx := w.index, streams := w.streams, farFenced := w.fenced } := by
  rw [← headerTaken_hhl]
  cases p
  · exact (groupTaken_links w u).up
  · exact (groupTaken_links w u).dn

/-- Without the heartbeat the master stays the one known. -/
theorem headerTaken_quiet {w : WordGroupIn} (quiet : w.hb = false) (u : State) :
    (headerTaken p w u).isMaster = u.isMaster ∧ (headerTaken p w u).cas.nextTick = u.cas.nextTick := by
  cases p
  · exact ⟨isMaster_congr rfl rfl (if_neg fun h => Bool.false_ne_true (quiet.symm.trans h.2.2)), rfl⟩
  · exact ⟨isMaster_congr rfl rfl (if_neg fun h => Bool.false_ne_true (quiet.symm.trans h.2.2)), rfl⟩

theorem linkItem_of_command {fenced : Bool} {v : State} {d : Desc} (member : v.isMaster = false) :
    State.linkItem fenced v (.command d) = v.modCas (fun c => { c with nextTick := c.nextTick ++ [d] }) :=
  if_neg (Bool.eq_false_iff.1 member)

end

/-- Settles O42: one event of a port at a time; what a group brings lies in the state of the cascade alone. -/
theorem cascadePorts : Obligations.CascadePorts := by
  unfold Obligations.CascadePorts
  intro s t p hs
  have trains := execHhlTrained_trains (s := s) (t := t) (p := p)
  have downs := execHhlDown_of_trained (s := s) (t := t) (p := p)
  have echo := fun sub t1 t2 t3 => execEcho_of_asked (s := s) (t := t) (p := p) (sub := sub) (t1 := t1) (t2 := t2) (t3 := t3)
  have group := fun w => execWordGroup_of_member (s := s) (t := t) (p := p) (w := w)
  generalize s.advance t = u at *
  intro _
  refine ⟨fun asked down => ?_, fun trained => ?_, fun t1 sub t2 t3 asked => ?_, fun w member trained => ⟨fun none_ => ?_,
    fun d one quiet other => ?_⟩⟩
  · obtain ⟨r, he, cond, reports⟩ := trains asked down
    refine completes_of_done hs (c := .hhlTrained t p) he ⟨(reportsOnly_cas reports :), cond, framed_reportsOnly reports⟩
  · obtain ⟨r, he, cond, reports⟩ := downs trained
    exact completes_of_done hs (c := .hhlDown t p) he ⟨(reportsOnly_cas reports :), cond, framed_reportsOnly reports⟩
  · exact completes_of_done hs (c := .echo t sub p t2 t3) (echo sub t1 t2 t3 asked) rfl
  · have he := group w member trained
    rw [none_, List.foldl_nil] at he
    have same := groupTaken_hhl (p := p) w u
    have missed := (groupTaken_links (p := p) w u).missed.trans (headerTaken_missed w u)
    have only := groupTaken_casOnly (p := p) w u
    generalize groupTaken p w u = v at he same missed only
    exact completes_of_done hs (c := .wordGroup t p w) he ⟨(congrArg HhlSt.lastIdx same :), (congrArg HhlSt.streams same :),
      (congrArg HhlSt.farFenced same :), missed, framed_casOnly only⟩
  · have he := group w member trained
    have links := groupTaken_links (p := p) w u
    obtain ⟨role, waits⟩ := headerTaken_quiet (p := p) quiet u
    rw [one, List.foldl_cons, List.foldl_nil, linkItem_of_command (links.master.trans (role.trans other))] at he
    have only := casOnly_trans (groupTaken_casOnly (p := p) w u)
      (modCas_casOnly (groupTaken p w u) (fun c => { c with nextTick := c.nextTick ++ [d] }))
    refine completes_of_done hs (c := .wordGroup t p w) he ⟨?_, framed_casOnly only⟩
    exact congrArg (· ++ [d]) (links.waits.trans waits)

end Sys2Proof.Proofs
end

section
/-! PROOF. Elections and losses in a cascade (R310 to R312, R324, R325, R327): O43. -/
namespace Sys2Proof.Proofs
open Sys2Proof Sys2Proof.Machine Sys2Proof.Laws

/-! ## Fences -/

/-- The cascade of a member as a fence begins. -/
def fenceBegun (cause : Nat) (c : Cas) : Cas := { c with
  fence := some cause, good := 0, matching := 0, tables := setMember c.tables c.self (fun m => { m with st := 2, cause := cause }) }

/-- A fence that begins changes the state of the cascade and reports. -/
theorem fenceFor_begins {s : State} (member : s.cas.st = .member) (free : s.cas.fence = none) (cause : Nat) (tickAt : Option Nat) :
    (s.modCas (fenceBegun cause)).reportsOnly (s.fenceFor cause tickAt) ∧ (s.fenceFor cause tickAt).cond fCasFenced = true := by
  unfold State.fenceFor
  rw [if_neg (fun h => h.elim (· member) (fun f => nomatch (free ▸ f : (none : Option Nat).isSome = true)))]
  extract_lets v w
  have first : (s.modCas (fenceBegun cause)).reportsOnly w := setCond_reportsOnly ..
  have cond : w.cond fCasFenced = true := setCond_cond (by decide) _ _
  clear_value w
  cases tickAt with
  | some t => exact ⟨reportsOnly_trans first (slateT_reportsOnly ..), (slateAt_cond ..).trans cond⟩
  | none => exact ⟨reportsOnly_trans first (casSlate_reportsOnly ..), (casSlate_cond ..).trans cond⟩

/-- The end of a fence leaves the election and the deputy. -/
theorem unfence_roles (s : State) : s.unfence.cas.election = s.cas.election ∧ s.unfence.cas.deputy = s.cas.deputy := by
  unfold State.unfence
  split
  · exact ⟨rfl, rfl⟩
  · extract_lets v
    have reports : v.reportsOnly ((v.setCond fCasFenced false).casSlate 0x0904 []) :=
      reportsOnly_trans (setCond_reportsOnly ..) (casSlate_reportsOnly ..)
    have cas := reportsOnly_cas reports
    exact ⟨(congrArg Cas.election cas :), (congrArg Cas.deputy cas :)⟩

/-! ## The first arbitration -/

section
variable {s : State} {t : Nat}

/-- CLAP pulled for 8 bit times. -/
theorem execElectionStart_of_quiet (may : (s.advance t).mayMaster = true) (none_ : (s.advance t).cas.election = none)
    (quiet : 2 ≤ (s.advance t).cas.quiet) : execElectionStart t s = done s (s.advance t).pullClap := by
  unfold execElectionStart
  dsimp only
  rw [may, none_, decide_eq_true quiet, if_pos (by rfl)]

theorem electionDetect_hears {low : Nat} (cascade : (s.advance t).cas.st ≠ .alone) (long : 3933 ≤ low)
    (none_ : (s.advance t).cas.election = none) :
    ¬ ((s.advance t).cas.st = .alone ∨ low < 3933 ∨ (s.advance t).cas.election.isSome = true) := by
  rintro (h | h | h)
  · exact cascade h
  · omega
  · rw [none_] at h
    exact nomatch h

theorem execElectionDetect_of_may {low : Nat} (cascade : (s.advance t).cas.st ≠ .alone) (long : 3933 ≤ low)
    (none_ : (s.advance t).cas.election = none) (may : (s.advance t).mayMaster = true) :
    execElectionDetect t low s = done s (s.advance t).pullClap := by
  unfold execElectionDetect
  dsimp only
  rw [if_neg (electionDetect_hears cascade long none_), if_pos may]

theorem execElectionDetect_of_mayNot {low : Nat} (cascade : (s.advance t).cas.st ≠ .alone) (long : 3933 ≤ low)
    (none_ : (s.advance t).cas.election = none) (mayNot : (s.advance t).mayMaster = false) :
    execElectionDetect t low s = done s ((s.advance t).modCas (fun c => { c with
      election := some ⟨(s.advance t).now + eightBits, false, false⟩ })) := by
  unfold execElectionDetect
  dsimp only
  rw [if_neg (electionDetect_hears cascade long none_), if_neg (Bool.eq_false_iff.1 mayNot)]

section
variable {others : List (Nat × Nat)} {found : List CasEntry} {place : Nat} {e : Election}
  (on_ : (s.advance t).cas.election = some e) (first : e.second = false)
include on_ first

/-- The device that beats every other one. -/
theorem execMasterArbitrationEnd_wins (takes : e.takesPart = true)
    (all : ∀ o, o ∈ others → o.1 ≠ 0 → beats (s.advance t).bid o = true) :
    ∃ r, execMasterArbitrationEnd t others found place s = done s r ∧
      ((s.advance t).cas.st = .member →
        r.cas.master = (s.advance t).cas.self ∧ r.cas.tables = (s.advance t).cas.tables ∧ r.cas.clapLow = false) ∧
      ((s.advance t).cas.st = .joining →
        r.cas.st = .member ∧ r.cas.self = place ∧ r.cas.master = place ∧ r.cas.epoch = 0 ∧ r.cas.clapLow = false) := by
  unfold execMasterArbitrationEnd
  generalize s.advance t = u at *
  extract_lets u tabs best
  rw [show u.cas.election = some e from on_]
  dsimp -zeta only
  extract_lets wins v own w
  have won : wins = true := by
    change (e.takesPart && (others.filter (fun o => decide (o.1 ≠ 0))).all (fun o => beats u.bid o)) = true
    rw [takes, Bool.true_and, List.all_eq_true]
    intro o there
    obtain ⟨mem, bids⟩ := List.mem_filter.1 there
    exact all o mem (of_decide_eq_true bids)
  rw [if_neg (Bool.eq_false_iff.1 first), if_pos won]
  by_cases joins : v.cas.st = .joining
  · rw [if_pos joins]
    have cas : (joinSlate w 0 place 0).cas = w.cas := casSlate_cas ..
    refine ⟨_, rfl, fun member => absurd (joins.symm.trans member) (by decide), fun _ => ?_⟩
    rw [cas]
    exact ⟨rfl, rfl, rfl, rfl, rfl⟩
  · rw [if_neg joins]
    exact ⟨_, rfl, fun _ => ⟨rfl, rfl, rfl⟩, fun h => absurd h joins⟩

/-- A member that does not win knows the one other device that bids as its master. -/
theorem execMasterArbitrationEnd_loses {o : Nat × Nat} (bids : o.1 ≠ 0)
    (loses : e.takesPart = false ∨ beats (s.advance t).bid o = false) (member : (s.advance t).cas.st = .member) :
    ∃ r, execMasterArbitrationEnd t [o] found place s = done s r ∧
      r.cas.master = casIndexOf (s.advance t).cas.tables o.2 ∧ r.cas.tables = (s.advance t).cas.tables ∧ r.cas.clapLow = false := by
  unfold execMasterArbitrationEnd
  generalize s.advance t = u at *
  extract_lets u tabs best
  rw [show u.cas.election = some e from on_]
  dsimp -zeta only
  extract_lets wins v own w
  have lost : ¬ wins = true := by
    change ¬ (e.takesPart && ([o].filter (fun o => decide (o.1 ≠ 0))).all (fun o => beats u.bid o)) = true
    rw [List.filter_cons_of_pos (p := fun o : Nat × Nat => decide (o.1 ≠ 0)) (decide_eq_true bids), List.filter_nil, List.all_cons, List.all_nil, Bool.and_true, Bool.and_eq_true]
    rintro ⟨takes, wins⟩
    rcases loses with h | h
    · exact Bool.false_ne_true (h.symm.trans takes)
    · exact Bool.false_ne_true (h.symm.trans wins)
  have is : best = o := if_pos (by
    unfold beats
    rw [decide_eq_true (Nat.pos_of_ne_zero bids)]
    rfl)
  rw [if_neg (Bool.eq_false_iff.1 first), if_neg lost, if_pos (show v.cas.st = .member from member), is]
  exact ⟨_, rfl, rfl, rfl, rfl⟩

end

/-! ## The second arbitration, tick marks -/

theorem execDeputyArbitrationEnd_alone {e : Election} (on_ : (s.advance t).cas.election = some e) (second : e.second = true)
    (member : (s.advance t).cas.st = .member) :
    ∃ r, execDeputyArbitrationEnd t [] s = done s r ∧ r.cas.election = none ∧
      r.cas.deputy = if e.takesPart = true ∧ (s.advance t).straps.mstrPri ≠ 0 then (s.advance t).cas.self else 0xFF := by
  unfold execDeputyArbitrationEnd
  generalize s.advance t = u at *
  extract_lets u
  rw [show u.cas.election = some e from on_]
  dsimp -zeta only
  extract_lets mine all dep v w
  rw [if_neg (show ¬ (!e.second) = true by rw [second]; exact Bool.false_ne_true)]
  refine ⟨_, rfl, ?_⟩
  have chosen : dep = if e.takesPart = true ∧ u.straps.mstrPri ≠ 0 then u.cas.self else 0xFF := by
    have bids : u.bid.1 ≠ 0 ↔ u.straps.mstrPri ≠ 0 := by
      change u.straps.mstrPri.toNat ≠ 0 ↔ _
      rw [Ne, Ne, ← BitVec.toNat_inj]
      rfl
    by_cases takes : e.takesPart = true
    · have own : mine = [(u.bid.1, u.bid.2, u.cas.self)] := if_pos ⟨takes, member⟩
      by_cases pri : u.straps.mstrPri ≠ 0
      · have whole : all = [(u.bid.1, u.bid.2, u.cas.self)] := by
          change (mine ++ []).filter _ = _
          rw [own, List.append_nil, List.filter_cons_of_pos (p := fun o : Nat × Nat × Nat => decide (o.1 ≠ 0)) (decide_eq_true (bids.2 pri)), List.filter_nil]
        change (match all with | [] => 0xFF | x :: xs => _) = _
        rw [whole, if_pos ⟨takes, pri⟩]
        rfl
      · have whole : all = [] := by
          change (mine ++ []).filter _ = _
          rw [own, List.append_nil, List.filter_cons_of_neg (p := fun o : Nat × Nat × Nat => decide (o.1 ≠ 0)) (fun h => pri (bids.1 (of_decide_eq_true h))), List.filter_nil]
        change (match all with | [] => 0xFF | x :: xs => _) = _
        rw [whole, if_neg (fun h => pri h.2)]
    · have whole : all = [] := by
        change (mine ++ []).filter _ = _
        rw [show mine = [] from if_neg (fun h => takes h.1)]
        rfl
      change (match all with | [] => 0xFF | x :: xs => _) = _
      rw [whole, if_neg (fun h => takes h.1)]
  have noted : v.cas.election = none ∧ v.cas.deputy = dep := ⟨rfl, if_pos member⟩
  clear_value v dep
  have kept : w.cas.election = none ∧ w.cas.deputy = dep := by
    change (if v.cas.fence = some fenceRole then v.unfence else v).cas.election = none ∧
      (if v.cas.fence = some fenceRole then v.unfence else v).cas.deputy = dep
    split
    · exact ⟨(unfence_roles v).1.trans noted.1, (unfence_roles v).2.trans noted.2⟩
    · exact noted
  clear_value w
  split
  · rw [casSlate_cas]
    exact ⟨kept.1, kept.2.trans chosen⟩
  · exact ⟨kept.1, kept.2.trans chosen⟩

/-- A tick mark heard. -/
def marked (u : State) : State := u.modCas (fun c => { c with heard := true })

theorem execTickMark_heard {low pri serial : Nat} (cascade : (s.advance t).cas.st ≠ .alone) (short : low ≤ 3932) :
    execTickMark t low pri serial s = done s (if (marked (s.advance t)).isMaster ∧ serial ≠ (marked (s.advance t)).fuses.serial.toNat
      then (marked (s.advance t)).twoMasters (pri, serial) else marked (s.advance t)) :=
  if_neg fun h => h.elim cascade (fun k => absurd k (Nat.not_lt.2 short))

/-- A master that another one beats. -/
theorem twoMasters_of_loser {u : State} {other : Nat × Nat} (master : u.isMaster = true) (loses : beats u.bid other = false)
    (free : u.cas.fence = none) :
    (u.twoMasters other).cas.master = 0xFF ∧ (u.twoMasters other).cas.clapLow = true ∧
      (u.twoMasters other).cas.fence = some fenceConfig ∧ (u.twoMasters other).cond fCasFenced = true := by
  obtain ⟨member, -⟩ := of_decide_eq_true master
  unfold State.twoMasters
  rw [if_neg (Bool.eq_false_iff.1 loses)]
  obtain ⟨reports, cond⟩ := fenceFor_begins (s := (u.modCas (fun c => { c with master := 0xFF })).pullClap) member free fenceConfig none
  have cas := reportsOnly_cas reports
  exact ⟨(congrArg Cas.master cas :), (congrArg Cas.clapLow cas :), (congrArg Cas.fence cas :), cond⟩

/-! ## Losses -/

theorem epochAdvance_casOnly (s : State) (tables : CasTables) : casOnly s (s.epochAdvance tables) := by
  unfold State.epochAdvance
  split <;> rfl

/-- An epoch announced, or queued behind one that is: the roles stay. -/
theorem epochAdvance_roles (s : State) (tables : CasTables) : (s.epochAdvance tables).cas.next.isSome = true ∧
    (s.epochAdvance tables).cas.self = s.cas.self ∧ (s.epochAdvance tables).cas.master = s.cas.master ∧
    (s.epochAdvance tables).cas.deputy = s.cas.deputy ∧ (s.epochAdvance tables).cas.st = s.cas.st := by
  unfold State.epochAdvance
  split
  · next pending => exact ⟨Option.isSome_of_eq_some pending, rfl, rfl, rfl, rfl⟩
  · exact ⟨rfl, rfl, rfl, rfl, rfl⟩

theorem takeOver_roles (v : State) (lost : Bool) :
    (v.takeOver lost).cas.master = v.cas.self ∧ (v.takeOver lost).cas.election = some ⟨v.now, true, false⟩ ∧
      (v.takeOver lost).cas.deputy = 0xFF ∧ (v.takeOver lost).now = v.now ∧ (v.takeOver lost).cas.next.isSome = true := by
  unfold State.takeOver
  extract_lets old w x
  have reports : w.reportsOnly x := reportsOnly_trans (casSlate_reportsOnly ..) (reportsOnly_of_hostOnly (signalVec_hostOnly ..))
  have cas := reportsOnly_cas reports
  have now : x.now = v.now := (reportsOnly_now reports :)
  have master : x.cas.master = v.cas.self := (congrArg Cas.master cas :)
  clear_value x
  obtain ⟨next, -, role, -, -⟩ := epochAdvance_roles x (x.without old (if lost then 3 else 0))
  have time : (x.epochAdvance (x.without old (if lost then 3 else 0))).now = v.now :=
    (congrArg State.now (epochAdvance_casOnly x _) :).trans now
  exact ⟨role.trans master, congrArg (fun n => some (⟨n, true, false⟩ : Election)) time, rfl, time, next⟩

theorem execHeartbeatLoss_of_deputy {missed : Nat} (deputy : (s.advance t).isDeputy = true) (gone : 4 ≤ missed) :
    execHeartbeatLoss t missed s = done s ((((s.advance t).modCas (fun c => { c with hbMissed := missed })).advance
      (alignNext perSample (s.advance t).now)).takeOver true) := by
  unfold execHeartbeatLoss
  dsimp only
  rw [deputy, decide_eq_true gone, if_pos (by rfl)]

/-- What the loss of member `i` leaves. -/
structure MemberGone (u : State) (i : Nat) (r : State) : Prop where
  flag : r.flag fMemberLost = true
  deputy : r.cas.deputy = if i = u.cas.deputy then 0xFF else u.cas.deputy
  tables : u.isMaster = true → r.cas.next.isSome = true
  master : r.cas.master = u.cas.master

theorem execCasMemberLost_of_other {i : Nat} (member : (s.advance t).cas.st = .member) (self : i ≠ (s.advance t).cas.self)
    (master : i ≠ (s.advance t).cas.master) (present : (s.advance t).memberPresent i = true)
    (released : (s.advance t).phase = .released) : ∃ r, execCasMemberLost t i s = done s r ∧ MemberGone (s.advance t) i r := by
  unfold execCasMemberLost
  generalize s.advance t = u at *
  extract_lets u dep v w x
  rw [if_pos ⟨member, self, master, present⟩]
  refine ⟨_, rfl, ?_⟩
  have reports : u.reportsOnly v := reportsOnly_trans (setFlag_reportsOnly ..) (casSlate_reportsOnly ..)
  have flag : w.flag fMemberLost = true :=
    (congrArg (fun f : Flags => f.bits.getLsbD fMemberLost) (slateAt_flags (u.setFlag fMemberLost) ..)).trans (setFlag_flag (by decide) released)
  have cas := reportsOnly_cas reports
  have roles : w.cas.master = u.cas.master ∧ w.cas.deputy = u.cas.deputy ∧ w.isMaster = u.isMaster :=
    ⟨(congrArg Cas.master cas :), (congrArg Cas.deputy cas :),
      isMaster_congr (congrArg Cas.st cas :) (congrArg Cas.self cas :) (congrArg Cas.master cas :)⟩
  clear_value w v
  obtain ⟨same, kept, role⟩ := roles
  have third : x.flag fMemberLost = true ∧ x.cas.master = u.cas.master ∧ x.cas.deputy = u.cas.deputy ∧ x.isMaster = u.isMaster ∧
      (u.isMaster = true → x.cas.next.isSome = true) := by
    rw [← role]
    change (if w.isMaster then w.epochAdvance (w.without i 3) else w).flag fMemberLost = true ∧
      (if w.isMaster then w.epochAdvance (w.without i 3) else w).cas.master = _ ∧
      (if w.isMaster then w.epochAdvance (w.without i 3) else w).cas.deputy = _ ∧
      (if w.isMaster then w.epochAdvance (w.without i 3) else w).isMaster = _ ∧
      (_ → (if w.isMaster then w.epochAdvance (w.without i 3) else w).cas.next.isSome = true)
    split
    · obtain ⟨next, s1, m1, d1, st1⟩ := epochAdvance_roles w (w.without i 3)
      have flags : (w.epochAdvance (w.without i 3)).flags = w.flags :=
        (congrArg State.flags (epochAdvance_casOnly w (w.without i 3)) :)
      exact ⟨(congrArg (fun f : Flags => f.bits.getLsbD fMemberLost) flags).trans flag, m1.trans same, d1.trans kept,
        isMaster_congr st1 s1 m1, fun _ => next⟩
    · next other => exact ⟨flag, same, kept, rfl, fun h => absurd h other⟩
  clear_value x
  obtain ⟨flagged, m2, d2, role2, next⟩ := third
  by_cases gone : i = u.cas.deputy
  · by_cases leads : x.isMaster = true
    · rw [if_pos ⟨leads, gone⟩]
      exact ⟨flagged, (if_pos gone).symm, next, m2⟩
    · rw [if_neg (fun h => leads h.1), if_pos gone]
      exact ⟨flagged, (if_pos gone).symm, next, m2⟩
  · rw [if_neg (fun h => gone h.2), if_neg gone]
    exact ⟨flagged, d2.trans (if_neg gone).symm, next, m2⟩

end

theorem cascadeElections : Rules.CascadeElections := by
  intro s t hs
  have starts := execElectionStart_of_quiet (s := s) (t := t)
  have may := fun low => execElectionDetect_of_may (s := s) (t := t) (low := low)
  have mayNot := fun low => execElectionDetect_of_mayNot (s := s) (t := t) (low := low)
  have wins := fun e others found place => execMasterArbitrationEnd_wins (s := s) (t := t) (e := e) (others := others) (found := found) (place := place)
  have loses := fun e o found place => execMasterArbitrationEnd_loses (s := s) (t := t) (e := e) (o := o) (found := found) (place := place)
  have deputy := fun e => execDeputyArbitrationEnd_alone (s := s) (t := t) (e := e)
  have mark := fun low pri serial => execTickMark_heard (s := s) (t := t) (low := low) (pri := pri) (serial := serial)
  generalize s.advance t = u at *
  intro _ pulled
  refine ⟨fun able none_ quiet => ?_, fun low cascade long none_ => ⟨fun able => ?_, fun unable => ?_⟩,
    fun e others found place on_ first => ⟨fun takes all => ⟨fun member => ?_, fun joining => ?_⟩, fun o one bids _ lost member => ?_⟩,
    fun e on_ second member => ?_, fun low pri serial cascade short => ⟨fun other => ?_, fun leads apart lost free => ?_⟩⟩
  · exact completes_of_done hs (c := .electionStart t) (starts able none_ quiet) rfl
  · exact completes_of_done hs (c := .electionDetect t low) (may low cascade long none_ able) rfl
  · exact completes_of_done hs (c := .electionDetect t low) (mayNot low cascade long none_ unable) rfl
  · obtain ⟨r, he, keeps, -⟩ := wins e others found place on_ first takes all
    exact completes_of_done hs (c := .masterArbitrationEnd t others found place) he (keeps member)
  · obtain ⟨r, he, -, forms⟩ := wins e others found place on_ first takes all
    exact completes_of_done hs (c := .masterArbitrationEnd t others found place) he (forms joining)
  · subst one
    obtain ⟨r, he, known⟩ := loses e o found place on_ first bids lost member
    exact completes_of_done hs (c := .masterArbitrationEnd t [o] found place) he known
  · obtain ⟨r, he, chosen⟩ := deputy e on_ second member
    exact completes_of_done hs (c := .deputyArbitrationEnd t []) he chosen
  · have he := mark low pri serial cascade short
    rw [if_neg (fun h => Bool.false_ne_true (other.symm.trans h.1))] at he
    exact completes_of_done hs (c := .tickMark t low pri serial) he rfl
  · have he := mark low pri serial cascade short
    rw [if_pos ⟨leads, apart⟩] at he
    exact completes_of_done hs (c := .tickMark t low pri serial) he (twoMasters_of_loser (u := marked u) leads lost free)

theorem cascadeLosses : Rules.CascadeLosses := by
  intro s t hs
  have beat := fun missed => execHeartbeatLoss_of_deputy (s := s) (t := t) (missed := missed)
  have lost := fun i => execCasMemberLost_of_other (s := s) (t := t) (i := i)
  generalize s.advance t = u at *
  intro _
  refine ⟨fun missed deputy gone => ?_, fun i member self master present released => ?_⟩
  · intro v
    exact completes_of_done hs (c := .heartbeatLoss t missed) (beat missed deputy gone) (takeOver_roles v true)
  · obtain ⟨r, he, left⟩ := lost i member self master present released
    exact completes_of_done hs (c := .casMemberLost t i) he ⟨left.flag, left.deputy, left.tables, left.master⟩

/-- Settles O43: each arbitration and loss by its own case; what a fence, an epoch or a take-over leaves of the roles is said once. -/
theorem cascadeRoles : Obligations.CascadeRoles := ⟨cascadeElections, cascadeLosses⟩

end Sys2Proof.Proofs
end

section
/-! PROOF. The Clapper (R313 to R317, R325): O44. -/
namespace Sys2Proof.Proofs
open Sys2Proof Sys2Proof.Machine Sys2Proof.Laws

/-! ## Time agreement -/

/-- `t` has the member, the master, the delays and the time agreement of `s`. -/
structure SameTime (s t : State) : Prop where
  st : t.cas.st = s.cas.st
  up : t.cas.up = s.cas.up
  dn : t.cas.dn = s.cas.dn
  master : t.cas.master = s.cas.master
  good : t.cas.good = s.cas.good
  over50 : t.cas.over50 = s.cas.over50
  fence : t.cas.fence = s.cas.fence
  now : t.now = s.now

theorem SameTime.refl (s : State) : SameTime s s := ⟨rfl, rfl, rfl, rfl, rfl, rfl, rfl, rfl⟩

theorem SameTime.trans {a b c : State} (h : SameTime a b) (k : SameTime b c) : SameTime a c :=
  ⟨k.st.trans h.st, k.up.trans h.up, k.dn.trans h.dn, k.master.trans h.master, k.good.trans h.good, k.over50.trans h.over50,
    k.fence.trans h.fence, k.now.trans h.now⟩

theorem SameTime.hhl {s t : State} (h : SameTime s t) (p : HhlPort) : t.hhl p = s.hhl p := by
  cases p
  · exact h.up
  · exact h.dn

/-- The comparison of configurations leaves the time agreement. -/
theorem configAgree_sameTime (s : State) (c : ClapperIn) : SameTime s (s.configAgree c) := by
  unfold State.configAgree
  extract_lets ok v
  have first : SameTime s v := ⟨rfl, rfl, rfl, rfl, rfl, rfl, rfl, rfl⟩
  clear_value v
  split
  · exact first
  · split
    · exact first.trans ⟨rfl, rfl, rfl, rfl, rfl, rfl, rfl, rfl⟩
    · split
      · exact first
      · exact first.trans ⟨rfl, rfl, rfl, rfl, rfl, rfl, rfl, rfl⟩

/-- The counts of a tick with a time error. -/
def timeCounted (e : Int) (indexOk : Bool) (c : Cas) : Cas := { c with
  over50 := if lim50ns < e.natAbs then c.over50 + 1 else 0, good := if e.natAbs ≤ lim50ns ∧ indexOk = true then c.good + 1 else 0 }

/-- Within 50 ns the tick is good, and nothing is done. -/
theorem timeAgree_of_near {e : Int} (near : e.natAbs ≤ lim50ns) (v : State) (b : Nat) :
    v.timeAgree e true b = v.modCas (timeCounted e true) := by
  have small : lim50ns < lim1us ∧ lim1us < lim1ms := by decide
  unfold State.timeAgree
  dsimp only
  rw [if_neg (fun h => h.elim (by omega) (by decide)), if_neg (by omega), if_neg]
  · rfl
  · rintro ⟨four, -⟩
    have zero : (v.modCas (timeCounted e true)).cas.over50 = 0 := if_neg (Nat.not_lt.2 near)
    exact absurd (zero ▸ four : 4 ≤ 0) (by decide)

theorem timeCounted_hhl (v : State) (e : Int) (indexOk : Bool) (p : HhlPort) : (v.modCas (timeCounted e indexOk)).hhl p = v.hhl p := by
  cases p <;> rfl

theorem timeCounted_near {e : Int} (near : e.natAbs ≤ lim50ns) (c : Cas) :
    (timeCounted e true c).good = c.good + 1 ∧ (timeCounted e true c).over50 = 0 := ⟨if_pos ⟨near, rfl⟩, if_neg (Nat.not_lt.2 near)⟩

/-- A fence for time marked as one that lasts. -/
def hardened (r : State) : State := r.modCas (fun c => { c with fenceHard := c.fenceHard || c.fence == some fenceTime })

/-- Beyond 1 ms a member is FENCED until it leaves. -/
theorem timeAgree_of_far {e : Int} (far : lim1ms < e.natAbs) {v : State} (member : v.cas.st = .member) (free : v.cas.fence = none) (b : Nat)
    (indexOk : Bool) (p : HhlPort) : ((v.timeAgree e indexOk b).hhl p) = v.hhl p ∧ (v.timeAgree e indexOk b).cas.good = 0 ∧
      (v.timeAgree e indexOk b).cas.fence = some fenceTime ∧ (v.timeAgree e indexOk b).cas.fenceHard = true ∧
      (v.timeAgree e indexOk b).cond fCasFenced = true := by
  obtain ⟨reports, cond⟩ := fenceFor_begins (s := v.modCas (timeCounted e indexOk)) member free fenceTime (some b)
  have cas := reportsOnly_cas reports
  have is : v.timeAgree e indexOk b = hardened ((v.modCas (timeCounted e indexOk)).fenceFor fenceTime (some b)) := if_pos (.inl far)
  rw [is]
  generalize (v.modCas (timeCounted e indexOk)).fenceFor fenceTime (some b) = r at cas cond ⊢
  have begun : r.cas.fence = some fenceTime := (congrArg Cas.fence cas :)
  refine ⟨?_, (congrArg Cas.good cas :), begun, ?_, cond⟩
  · cases p
    · exact (congrArg Cas.up cas :)
    · exact (congrArg Cas.dn cas :)
  · change (r.cas.fenceHard || r.cas.fence == some fenceTime) = true
    rw [begun, beq_self_eq_true, Bool.or_true]

/-! ## What a Clapper leaves -/

/-- The port with a Clapper's delay and time error, and the sign of a master. -/
def clapHeard (p : HhlPort) (d : Nat) (e t2 : Int) (c : ClapperIn) (u : State) : State :=
  (u.modHhl p (fun h => { h with d := d, e := e, t2 := some t2 })).modCas (fun x => { x with heard := true, lastClap := some c })

section
variable (p : HhlPort) (d : Nat) (e t2 : Int) (c : ClapperIn) (u : State)

theorem clapHeard_casOnly : casOnly u (clapHeard p d e t2 c u) := casOnly_trans (modHhl_casOnly _) (modCas_casOnly ..)

theorem clapHeard_hhl : (clapHeard p d e t2 c u).hhl p = { u.hhl p with d := d, e := e, t2 := some t2 } := by cases p <;> rfl

/-- What a Clapper's arrival leaves of the roles. -/
theorem clapHeard_roles : (clapHeard p d e t2 c u).cas.st = u.cas.st ∧ (clapHeard p d e t2 c u).isMaster = u.isMaster ∧
    (clapHeard p d e t2 c u).knownMaster c = u.knownMaster c ∧ (clapHeard p d e t2 c u).cas.fence = u.cas.fence ∧
    (clapHeard p d e t2 c u).cas.election = u.cas.election ∧ (clapHeard p d e t2 c u).cas.master = u.cas.master ∧
    (clapHeard p d e t2 c u).cas.clapTicks = u.cas.clapTicks ∧ (clapHeard p d e t2 c u).cas.good = u.cas.good ∧
    (clapHeard p d e t2 c u).now = u.now := by
  cases p <;> exact ⟨rfl, rfl, rfl, rfl, rfl, rfl, rfl, rfl, rfl⟩

end

/-- The master and the deputy that a Clapper names, with what its receiver measures. -/
def mastersTaken (e : Int) (d : Nat) (c : ClapperIn) (x : Cas) : Cas := { x with
  master := c.master, deputy := if c.deputy = 7 then 0xFF else c.deputy,
  tables := setMember x.tables x.self (fun m => { m with e := rheDiv e 64, d := (rheDiv (d * 10 : Nat) 256).toNat }) }

theorem framed_hhl (s t : State) (p : HhlPort) : (s.framed t).hhl p = t.hhl p := by cases p <;> rfl

theorem mastersTaken_hhl (w : State) (e : Int) (d : Nat) (c : ClapperIn) (p : HhlPort) :
    (w.modCas (mastersTaken e d c)).hhl p = w.hhl p := by cases p <;> rfl

theorem mastersTaken_roles (w : State) (e : Int) (d : Nat) (c : ClapperIn) : (w.modCas (mastersTaken e d c)).cas.master = c.master ∧
    (w.modCas (mastersTaken e d c)).cas.good = w.cas.good ∧ (w.modCas (mastersTaken e d c)).cas.fence = w.cas.fence ∧
    (w.modCas (mastersTaken e d c)).cas.st = w.cas.st := ⟨rfl, rfl, rfl, rfl⟩

theorem timeCounted_roles (v : State) (e : Int) (indexOk : Bool) : (v.modCas (timeCounted e indexOk)).cas.master = v.cas.master ∧
    (v.modCas (timeCounted e indexOk)).cas.fence = v.cas.fence := ⟨rfl, rfl⟩

section
variable {s : State} {t sub : Nat} {p : HhlPort} {pri d : Nat} {c : ClapperIn}

/-- The time error of a Clapper. -/
def clapError (u : State) (p : HhlPort) (sub d : Nat) (c : ClapperIn) : Int := u.hhlReceived p u.now sub - ((c.tSend : Int) + d)

/-- The state that a Clapper's checks work on. -/
def clapReady (u : State) (p : HhlPort) (sub d : Nat) (c : ClapperIn) : State :=
  clapHeard p d (clapError u p sub d c) (u.hhlReceived p u.now sub) c u

variable (cascade : (s.advance t).cas.st ≠ .alone) (trained : ((s.advance t).hhl p).trained = true)
include cascade trained

theorem clapper_heard : ¬ ((s.advance t).cas.st = .alone ∨ ((s.advance t).hhl p).trained = false) :=
  fun h => h.elim cascade fun down => Bool.false_ne_true (down.symm.trans trained)

theorem execClapper_of_joining (joining : (s.advance t).cas.st = .joining) : execClapper t sub p pri d c s =
    done s ((clapReady (s.advance t) p sub d c).modCas (fun x => { x with clapTicks := x.clapTicks + 1 })) := by
  have st := (clapHeard_roles p d (clapError (s.advance t) p sub d c) ((s.advance t).hhlReceived p (s.advance t).now sub) c (s.advance t)).1
  unfold execClapper
  dsimp only
  rw [if_neg (clapper_heard cascade trained)]
  exact if_pos (st.trans joining)

theorem execClapper_of_unknown (member : (s.advance t).cas.st = .member) (other : (s.advance t).isMaster = false)
    (unknown : (s.advance t).knownMaster c = false) : ∃ b, execClapper t sub p pri d c s =
      done s (if (clapReady (s.advance t) p sub d c).cas.election.isSome then clapReady (s.advance t) p sub d c
        else (clapReady (s.advance t) p sub d c).fenceFor fenceRole (some b)) := by
  obtain ⟨st, role, known, -⟩ :=
    clapHeard_roles p d (clapError (s.advance t) p sub d c) ((s.advance t).hhlReceived p (s.advance t).now sub) c (s.advance t)
  unfold execClapper
  dsimp only
  rw [if_neg (clapper_heard cascade trained)]
  refine ⟨_, (if_neg (fun h : _ = CasSt.joining => absurd ((st.trans member).symm.trans h) (by decide))).trans ((if_neg ?_).trans (if_pos ?_))⟩
  · exact Bool.eq_false_iff.1 (role.trans other)
  · exact (congrArg Bool.not (known.trans unknown)).trans rfl

/-- A member whose master is known. -/
theorem execClapper_of_known (member : (s.advance t).cas.st = .member) (other : (s.advance t).isMaster = false)
    (known : (s.advance t).knownMaster c = true) (index : c.tickIdx = (s.advance t).tick * 1024) :
    ∃ v b, execClapper t sub p pri d c s = done s (v.timeAgree (clapError (s.advance t) p sub d c) true b) ∧
      SameTime ((clapReady (s.advance t) p sub d c).modCas (mastersTaken (clapError (s.advance t) p sub d c) d c)) v := by
  obtain ⟨st, role, same, -, -, -, -, -, now⟩ :=
    clapHeard_roles p d (clapError (s.advance t) p sub d c) ((s.advance t).hhlReceived p (s.advance t).now sub) c (s.advance t)
  have heard := clapper_heard cascade trained
  unfold execClapper
  unfold clapReady
  generalize hu : s.advance t = u at *
  extract_lets u t2 e v w b x y z q
  have belongs : ¬ w.cas.st = .joining := fun h => absurd ((st.trans member).symm.trans h) (by decide)
  have follows : ¬ w.isMaster = true := Bool.eq_false_iff.1 (role.trans other)
  have knows : ¬ (!w.knownMaster c) = true := by
    rw [show w.knownMaster c = true from same.trans known]
    exact Bool.false_ne_true
  rw [if_neg heard, if_neg belongs, if_neg follows, if_neg knows]
  have here : w.now = u.now := now
  have second : SameTime x y := by
    change SameTime x (if x.clk.holdover then _ else _)
    split
    · exact ⟨rfl, rfl, rfl, rfl, rfl, rfl, rfl, rfl⟩
    · exact ⟨rfl, rfl, rfl, rfl, rfl, rfl, rfl, rfl⟩
  have third : SameTime y z := configAgree_sameTime ..
  have fourth : SameTime z q := by
    change SameTime z (match c.tbchg with | some ch => _ | none => z)
    split
    · exact ⟨rfl, rfl, rfl, rfl, rfl, rfl, rfl, rfl⟩
    · exact SameTime.refl z
  have all := (second.trans third).trans fourth
  have tick : q.tick = u.tick := congrArg (· / perTick) (all.now.trans here)
  clear_value q z y
  refine ⟨q, b, ?_, all⟩
  rw [tick, show (c.tickIdx == u.tick * 1024) = true from beq_iff_eq.2 index]
  rfl

end

section
variable {s : State} {t sub : Nat} {p : HhlPort} {pri d : Nat} {c : ClapperIn} {u : State}

/-- What the arrival of a Clapper leaves, in the words of its receiver. -/
theorem clapReady_left (u : State) (p : HhlPort) (sub d : Nat) (c : ClapperIn) :
    ((clapReady u p sub d c).hhl p).d = d ∧ ((clapReady u p sub d c).hhl p).e = clapError u p sub d c ∧
      (clapReady u p sub d c).cas.st = u.cas.st ∧ (clapReady u p sub d c).cas.fence = u.cas.fence ∧
      (clapReady u p sub d c).cas.election = u.cas.election ∧ (clapReady u p sub d c).cas.master = u.cas.master ∧
      (clapReady u p sub d c).cas.clapTicks = u.cas.clapTicks ∧ (clapReady u p sub d c).cas.good = u.cas.good ∧
      (clapReady u p sub d c).cas.heard = true ∧ casOnly u (clapReady u p sub d c) := by
  have port : (clapReady u p sub d c).hhl p = _ := clapHeard_hhl p d (clapError u p sub d c) (u.hhlReceived p u.now sub) c u
  obtain ⟨st, -, -, fence, election, master, ticks, good, -⟩ :=
    clapHeard_roles p d (clapError u p sub d c) (u.hhlReceived p u.now sub) c u
  exact ⟨(congrArg HhlSt.d port :), (congrArg HhlSt.e port :), st, fence, election, master, ticks, good, rfl, clapHeard_casOnly ..⟩

/-- What a member that knows the master has after a Clapper, before the time agreement. -/
theorem known_left {v : State}
    (same : SameTime ((clapReady u p sub d c).modCas (mastersTaken (clapError u p sub d c) d c)) v) :
    (v.hhl p).e = clapError u p sub d c ∧ v.cas.master = c.master ∧ v.cas.good = u.cas.good ∧ v.cas.fence = u.cas.fence ∧
      v.cas.st = u.cas.st := by
  obtain ⟨-, error, st, fence, -, -, -, good, -⟩ := clapReady_left u p sub d c
  generalize clapError u p sub d c = e at *
  generalize clapReady u p sub d c = w at *
  obtain ⟨leads, goods, fences, member⟩ := mastersTaken_roles w e d c
  exact ⟨(congrArg HhlSt.e ((same.hhl p).trans (mastersTaken_hhl w e d c p))).trans error, same.master.trans leads,
    same.good.trans (goods.trans good), same.fence.trans (fences.trans fence), same.st.trans (member.trans st)⟩

end

section
variable {s v : State} {t sub : Nat} {p : HhlPort} {pri d b : Nat} {c : ClapperIn} {e : Int} (hs : s.live)
  (he : execClapper t sub p pri d c s = done s (v.timeAgree e true b))
include hs he

/-- A good tick. -/
theorem completes_of_near {master good : Nat} {fence : Option Nat} (near : e.natAbs ≤ lim50ns) (error : (v.hhl p).e = e)
    (leads : v.cas.master = master) (goods : v.cas.good = good) (fences : v.cas.fence = fence) :
    completes (.clapper t sub p pri d c) s (fun r =>
      (r.hhl p).e = e ∧ r.cas.master = master ∧ r.cas.good = good + 1 ∧ r.cas.over50 = 0 ∧ r.cas.fence = fence) := by
  rw [timeAgree_of_near near] at he
  obtain ⟨more, none_⟩ := timeCounted_near near v.cas
  obtain ⟨leads', stays⟩ := timeCounted_roles v e true
  have run := timeCounted_hhl v e true p
  have counts : (v.modCas (timeCounted e true)).cas.good = good + 1 := more.trans (congrArg (· + 1) goods)
  replace none_ : (v.modCas (timeCounted e true)).cas.over50 = 0 := none_
  generalize v.modCas (timeCounted e true) = r at *
  exact completes_of_done hs he ⟨(congrArg HhlSt.e ((framed_hhl s r p).trans run)).trans error, leads'.trans leads, counts, none_,
    stays.trans fences⟩

/-- A tick beyond the limit of 1 ms. -/
theorem completes_of_far (far : lim1ms < e.natAbs) (member : v.cas.st = .member) (free : v.cas.fence = none) (error : (v.hhl p).e = e) :
    completes (.clapper t sub p pri d c) s (fun r =>
      (r.hhl p).e = e ∧ r.cas.good = 0 ∧ r.cas.fence = some fenceTime ∧ r.cas.fenceHard = true ∧ r.cond fCasFenced = true) := by
  obtain ⟨run, zero, fenced, hard, shown⟩ := timeAgree_of_far far member free b true p
  generalize v.timeAgree e true b = r at *
  exact completes_of_done hs he ⟨(congrArg HhlSt.e ((framed_hhl s r p).trans run)).trans error, zero, fenced, hard, shown⟩

end

/-- Settles O44: the Clapper's fields are taken first; the limits of 50 ns and 1 ms then decide alone. -/
theorem cascadeClapper : Obligations.CascadeClapper := by
  unfold Obligations.CascadeClapper
  intro s t sub p pri d c hs
  have joins := execClapper_of_joining (s := s) (t := t) (sub := sub) (p := p) (pri := pri) (d := d) (c := c)
  have strange := execClapper_of_unknown (s := s) (t := t) (sub := sub) (p := p) (pri := pri) (d := d) (c := c)
  have knows := execClapper_of_known (s := s) (t := t) (sub := sub) (p := p) (pri := pri) (d := d) (c := c)
  generalize s.advance t = u at *
  intro _ e cascade trained
  have is : e = clapError u p sub d c := rfl
  clear_value e
  obtain ⟨delay, error, st, fence, election, master, ticks, -, heard, only⟩ := clapReady_left u p sub d c
  have left := fun v => known_left (p := p) (sub := sub) (d := d) (c := c) (u := u) (v := v)
  rw [← is] at error left knows
  generalize clapReady u p sub d c = w at *
  refine ⟨fun joining => ?_, fun member other known index => ⟨fun near => ?_, fun far free => ?_⟩, fun member other unknown free =>
    ⟨fun none_ => ?_, fun some_ => ?_⟩⟩
  · have run : (w.modCas (fun x => { x with clapTicks := x.clapTicks + 1 })).hhl p = w.hhl p := by cases p <;> rfl
    exact completes_of_done hs (c := .clapper t sub p pri d c) (joins cascade trained joining)
      ⟨(congrArg HhlSt.d run).trans delay, (congrArg HhlSt.e run).trans error, congrArg (· + 1) ticks, heard,
        framed_casOnly (casOnly_trans only (modCas_casOnly ..))⟩
  · obtain ⟨v, b, he, same⟩ := knows cascade trained member other known index
    obtain ⟨error', leads, good, fence', -⟩ := left v same
    exact completes_of_near hs he near error' leads good fence'
  · obtain ⟨v, b, he, same⟩ := knows cascade trained member other known index
    obtain ⟨error', -, -, fence', st'⟩ := left v same
    exact completes_of_far hs he far (st'.trans member) (fence'.trans free) error'
  · obtain ⟨b, he⟩ := strange cascade trained member other unknown
    rw [election, none_, if_neg (by decide)] at he
    obtain ⟨reports, cond⟩ := fenceFor_begins (st.trans member) (fence.trans free) fenceRole (some b)
    have cas := reportsOnly_cas reports
    exact completes_of_done hs (c := .clapper t sub p pri d c) he
      ⟨(congrArg Cas.fence cas :), cond, (congrArg Cas.master cas :).trans master⟩
  · obtain ⟨b, he⟩ := strange cascade trained member other unknown
    rw [election, if_pos some_] at he
    exact completes_of_done hs (c := .clapper t sub p pri d c) he ⟨fence.trans free, master, framed_casOnly only⟩

end Sys2Proof.Proofs
end

section
/-! PROOF. The PCIe side: its resets, registers and interrupts (R33, R34, R336 to R345, R356, R450): O46, O47. -/
namespace Sys2Proof.Proofs
open Sys2Proof Sys2Proof.Machine Sys2Proof.Laws

/-! ## What the reports of a flag leave of the rings -/

/-- A relation between states that holds where the host's side stays, and where one record is put, holds where a flag is set. -/
theorem setFlagMet_of_records {R : State → State → Prop} (trans : ∀ a b c, R a b → R b c → R a c)
    (same : ∀ s t : State, t.host = s.host → R s t) (put : ∀ s i key mk, R s (s.putRecord i key mk)) (s : State) (n : Nat) (met : Bool)
    (t : Nat) : R s (s.setFlagMet n met t) := by
  have refl : ∀ s, R s s := fun s => same s s rfl
  have daily : ∀ (s : State) code sev object data t, R s (s.addDaily code sev object data t) := fun s code sev object data t => by
    unfold State.addDaily
    split
    · exact refl s
    · extract_lets e held old log oldFlags fl
      clear_value e log fl
      have noted : R s { s with log := log, flags := fl } := same _ _ rfl
      refine trans _ _ _ noted (foldl_keeps R refl trans (fun u i => if (u.ring i).isRunning kDailies then u.putDaily i e else u)
        (fun u i => ?_) _ _)
      split
      · exact put ..
      · exact refl u
  have all : ∀ (s : State) kind sel key mk, R s (s.putAll kind sel key mk) := fun s kind sel key mk =>
    foldl_keeps R refl trans _ (fun u i => by
      split
      · exact put ..
      · exact refl u) _ _
  unfold State.setFlagMet
  split
  · exact same _ _ rfl
  · extract_lets met rise old fl clk u
    have noted : R s u := same _ _ rfl
    clear_value u
    split
    · unfold State.flagRise
      extract_lets count att old fl v time w
      have kept : R u v := same _ _ rfl
      have records : R v w := all ..
      clear_value v w
      exact trans _ _ _ noted (trans _ _ _ kept (trans _ _ _ records (daily ..)))
    · exact noted

/-- A ring that does not run is as it was. -/
def IdleRing (i : Nat) (s t : State) : Prop := (s.ring i).st ≠ .running → t.ring i = s.ring i

theorem putRecord_of_idle {s : State} {i : Nat} (idle : (s.ring i).st ≠ .running) (key : Nat) (mk : Nat → Bool → Bool → List Byte) :
    s.putRecord i key mk = s := by
  have same : s.writeRecord i key mk = s := if_pos (by rw [decide_eq_true idle, Bool.or_true])
  unfold State.putRecord
  dsimp only
  rw [same, if_pos rfl]

theorem putRecord_idleRing (i : Nat) (s : State) (j key : Nat) (mk : Nat → Bool → Bool → List Byte) :
    IdleRing i s (s.putRecord j key mk) := fun idle => by
  by_cases here : i = j
  · subst here
    rw [putRecord_of_idle idle]
  · have written : (s.writeRecord j key mk).ring i = s.ring i := by
      unfold State.writeRecord
      dsimp only
      split
      · rfl
      · split
        · exact modRing_ring_of_ne s _ here
        · exact modRing_ring_of_ne s _ here
    unfold State.putRecord
    dsimp only
    split
    · exact written
    · exact ((ringCount_onlyRing _ j).other i here).trans written

/-- The reports of a flag leave a ring that does not run. -/
theorem setFlag_ring_of_idle {s : State} {i : Nat} (idle : (s.ring i).st ≠ .running) (n : Nat) : (s.setFlag n).ring i = s.ring i :=
  setFlagMet_of_records (R := IdleRing i) (fun _ _ _ h k idle => (k (h idle ▸ idle)).trans (h idle))
    (fun _ _ host _ => congrArg (fun h : HostIf => (h.rings[i]?).getD Ring.reset) host) (putRecord_idleRing i) s n false s.now idle

/-- With no ring running, the reports of a flag leave the host's side. -/
theorem setFlag_host_of_idle {s : State} (idle : ∀ i, (s.ring i).st ≠ .running) (n : Nat) : (s.setFlag n).host = s.host :=
  setFlagMet_of_records (R := fun a b : State => (∀ i, (a.ring i).st ≠ .running) → b.host = a.host)
    (fun a b c h k idle => (k fun i => by
      rw [show b.ring i = a.ring i from congrArg (fun h : HostIf => (h.rings[i]?).getD Ring.reset) (h idle)]
      exact idle i).trans (h idle))
    (fun _ _ host _ => host) (fun s i key mk idle => congrArg State.host (putRecord_of_idle (idle i) key mk)) s n false s.now idle

/-! ## Resets of the PCIe side -/

/-- The PCIe side set back, before its flag. -/
def pcieCleared (s : State) : State := { s with
  host := { s.host with
    epReady := false, cmdEn := true, shadowNow := false, rings := HostIf.reset.rings, msix := Msix.reset, waitq := [],
    waiting := s.host.waiting.map (fun w => { w with cpl := keptCpl w.cpl }) },
  cas := { s.cas with carried := s.cas.carried.map (fun c => { c with cpl := keptCpl c.cpl }) },
  svc := { s.svc with dumps := [] },
  tb := { s.tb with ptmEnabled := false, ptmT1 := none },
  clk := { s.clk with flushes := modAt 6 (· + 1) s.clk.flushes } }

theorem pcieReset_eq (s : State) : s.pcieReset = (pcieCleared s).setFlag fCrossFlush := rfl

/-- No ring of a PCIe side that was set back runs. -/
theorem pcieCleared_idle (s : State) (i : Nat) : ((pcieCleared s).ring i).st ≠ .running := by
  rw [State.ring, show (pcieCleared s).host.rings = List.replicate 64 Ring.reset from rfl, List.getElem?_replicate]
  split <;> exact fun h => nomatch h

theorem pcieReset_host (s : State) : s.pcieReset.host = (pcieCleared s).host := setFlag_host_of_idle (pcieCleared_idle s) _

theorem pcieReset_reportsOnly (s : State) : (pcieCleared s).reportsOnly s.pcieReset := setFlag_reportsOnly ..

/-- A command that resets the PCIe side while the endpoint answers. -/
theorem resetsPcie_of_exec {s : State} {t : Nat} {c : Instr} (hs : s.live) (he : exec c s = done s (s.pcieResetNow t)) :
    Rules.resetsPcie s t c := by
  unfold State.pcieResetNow at he
  unfold Rules.resetsPcie
  generalize s.advance t = u at *
  intro _
  refine ⟨fun ready => ?_, fun waits => ?_⟩
  · dsimp only at he
    rw [if_pos ready] at he
    have host := pcieReset_host u
    have reports := pcieReset_reportsOnly u
    have life : ∀ q, u.pcieReset.life q = u.life q := fun q => life_of_reportsOnly reports q
    have flag : u.phase = .released → u.pcieReset.flag fCrossFlush = true := fun released => setFlag_flag (by decide) released
    have flushes := congrArg Clk.flushes (reportsOnly_clk reports)
    have tb := reportsOnly_tb reports
    have mram := reportsOnly_mram reports
    generalize u.pcieReset = v at *
    refine completes_of_done hs he ⟨?_, ?_, ?_, ?_, ?_, ?_, ?_, life, mram, tb, flushes, flag⟩
    all_goals
      rw [framed_host, host]
      rfl
  · dsimp only at he
    rw [waits, if_neg Bool.false_ne_true] at he
    exact completes_of_done hs he rfl

theorem pcieResets : Rules.PcieResets := by
  refine ⟨fun s t hs => ⟨resetsPcie_of_exec hs rfl, resetsPcie_of_exec hs rfl, resetsPcie_of_exec hs rfl⟩, fun s hs porst warm => ?_⟩
  exact completes_of_done hs (c := .endpointReady) (if_neg fun h => h.elim porst warm) rfl

end Sys2Proof.Proofs
end

section
/-! PROOF. Writes to the endpoint, errors and interrupts of rings: O46, O47 assembled. -/
namespace Sys2Proof.Proofs
open Sys2Proof Sys2Proof.Machine Sys2Proof.Laws

/-! ## Writes that reach the endpoint -/

theorem wake_eq_woken (s : State) : s.wake = Rules.woken s := by
  unfold Rules.woken
  cases stopped : s.clk.mgmtStopped
  · rw [wake_of_running stopped, Bool.or_false]
  · rw [wake_of_stopped stopped, Bool.or_true]

theorem barAccess_of_ready {u : State} (ready : u.host.epReady = true) (f : State → State) : u.barAccess f = Rules.woken (f u) :=
  (if_pos ready).trans (wake_eq_woken _)

/-! ## The base of a ring -/

theorem lowMask_getLsbD : ∀ i : Fin 64, (0xFFFFFFFF#64 : Word64).getLsbD i = decide (i.val < 32) := by decide
theorem highMask_getLsbD : ∀ i : Fin 64, (0xFFFFFFFF00000000#64 : Word64).getLsbD i = decide (32 ≤ i.val) := by decide
theorem alignMask_getLsbD : ∀ i : Fin 32, alignMask.getLsbD i = decide (6 ≤ i.val) := by decide
theorem alignMask64_getLsbD : ∀ i : Fin 64, (0xFFFFFFFFFFFFFFC0#64 : Word64).getLsbD i = decide (6 ≤ i.val) := by decide

/-- The two halves of a 64-bit write of an address register, bit by bit. -/
theorem putHigh_putLow (old v : Word64) :
    putHigh (putLow old (v.setWidth 32) alignMask) ((v >>> 32).setWidth 32) = v &&& 0xFFFFFFFFFFFFFFC0 := by
  refine BitVec.eq_of_getLsbD_eq fun i hi => ?_
  have low := lowMask_getLsbD ⟨i, hi⟩
  have high := highMask_getLsbD ⟨i, hi⟩
  have all := alignMask64_getLsbD ⟨i, hi⟩
  dsimp only at low high all
  unfold putHigh putLow
  rw [BitVec.getLsbD_or, BitVec.getLsbD_and, BitVec.getLsbD_or, BitVec.getLsbD_and, BitVec.getLsbD_and, low, high, BitVec.getLsbD_shiftLeft]
  rw [show (0xFFFFFFFFFFFFFFC0 : Word64).getLsbD i = decide (6 ≤ i) from all]
  by_cases small : i < 32
  · have part := alignMask_getLsbD ⟨i, small⟩
    dsimp only at part
    rw [BitVec.getLsbD_setWidth, BitVec.getLsbD_and, BitVec.getLsbD_setWidth, part]
    simp [small, hi, Nat.not_le.2 small]
  · have wide : i - 32 < 32 := by omega
    have bit : ((v >>> 32).setWidth 32 : Word32).getLsbD (i - 32) = v.getLsbD i := by
      rw [BitVec.getLsbD_setWidth, BitVec.getLsbD_ushiftRight, show 32 + (i - 32) = i by omega, decide_eq_true wide, Bool.true_and]
    rw [BitVec.getLsbD_setWidth, BitVec.getLsbD_setWidth, bit, decide_eq_false small, decide_eq_true hi, decide_eq_true (show i - 32 < 64 by omega),
      decide_eq_true (show 6 ≤ i by omega)]
    simp

/-- A 64-bit write of a disabled ring's base. -/
theorem writeReg_base {r : Ring} (disabled : r.enable = false) (v : Word64) :
    ((r.writeReg 0 (v.setWidth 32)).writeReg 4 ((v >>> 32).setWidth 32)).regBase = v &&& 0xFFFFFFFFFFFFFFC0 := by
  have low : r.writeReg 0 (v.setWidth 32) = { r with regBase := putLow r.regBase (v.setWidth 32) alignMask } := by
    rw [Ring.writeReg, disabled, if_neg Bool.false_ne_true, if_pos rfl]
  rw [low]
  have high : ({ r with regBase := putLow r.regBase (v.setWidth 32) alignMask } : Ring).writeReg 4 ((v >>> 32).setWidth 32) =
      { r with regBase := putHigh (putLow r.regBase (v.setWidth 32) alignMask) ((v >>> 32).setWidth 32) } := by
    rw [Ring.writeReg, disabled, if_neg Bool.false_ne_true, if_neg (by decide), if_pos rfl]
  rw [high]
  exact putHigh_putLow ..

/-! ## Writes of BAR0 -/

/-- A write in the space of the rings' registers. -/
theorem writeBar0_ring (s : State) {i off : Nat} (hi : i < 64) (ho : off < 32) (v : Word32) :
    s.writeBar0 (0x100 + 32 * i + off) v = s.modRing i (fun r => r.writeReg off v) := by
  unfold State.writeBar0
  rw [if_neg (by omega), if_pos (by omega), show (0x100 + 32 * i + off - 0x100) / 32 = i by omega,
    show (0x100 + 32 * i + off - 0x100) % 32 = off by omega]

/-- A change that leaves the element leaves the list. -/
theorem modAt_eq_self {α : Type} {f : α → α} {l : List α} {i : Nat} (h : ∀ a, l[i]? = some a → f a = a) : modAt i f l = l := by
  refine List.ext_getElem? fun j => ?_
  by_cases here : j = i
  · subst here
    rw [modAt_getElem?_self]
    cases hit : l[j]? with
    | none => rfl
    | some a => exact congrArg some (h a hit)
  · exact modAt_getElem?_of_ne f l here

/-- A change that leaves the ring leaves the state. -/
theorem modRing_eq_self {s : State} {i : Nat} {f : Ring → Ring} (h : f (s.ring i) = s.ring i) : s.modRing i f = s := by
  have rings : modAt i f s.host.rings = s.host.rings := modAt_eq_self fun a hit => by
    have ring : s.ring i = a := by rw [State.ring, hit]; rfl
    rwa [ring] at h
  rw [State.modRing, rings]

theorem writeReg_of_enabled {r : Ring} (on : r.enable = true) (off : Nat) (v : Word32) : r.writeReg off v = r := if_pos on

theorem woken_hostOnly {s a b : State} (h : a.hostOnly b) : (s.framed (Rules.woken a)).hostOnly (s.framed (Rules.woken b)) := by
  unfold State.hostOnly Rules.woken State.framed at *
  rw [h]

theorem flushVecs_funcMask (s : State) : s.flushVecs.host.msix.funcMask = s.host.msix.funcMask := by
  unfold State.flushVecs
  dsimp only
  split
  · rfl
  · rfl

/-- A write that reaches the endpoint ends with what it does, woken. -/
theorem reachesEndpoint {c : Instr} {s u : State} (hs : s.live) (f : State → State) (he : exec c s = done s (u.barAccess f))
    (ready : u.host.epReady = true) {p : State → Prop} (hp : p (s.framed (Rules.woken (f u)))) : completes c s p := by
  rw [barAccess_of_ready ready] at he
  exact completes_of_done hs he hp

/-- What a write of BAR0 does. -/
def bar0Written (addr bits : Nat) (value : Word64) (s : State) : State :=
  if addr % 4 ≠ 0 then s
  else if bits = 32 then s.writeBar0 addr (value.setWidth 32)
  else if bits = 64 then (s.writeBar0 addr (value.setWidth 32)).writeBar0 (addr + 4) ((value >>> 32).setWidth 32)
  else s

theorem bar0Written_of_unaligned {addr : Nat} (h : addr % 4 ≠ 0) (bits : Nat) (value : Word64) (s : State) :
    bar0Written addr bits value s = s := if_pos h

theorem bar0Written_32 {addr : Nat} (h : addr % 4 = 0) (value : Word64) (s : State) :
    bar0Written addr 32 value s = s.writeBar0 addr (value.setWidth 32) := (if_neg (fun n => n h)).trans (if_pos rfl)

theorem bar0Written_64 {addr : Nat} (h : addr % 4 = 0) (value : Word64) (s : State) :
    bar0Written addr 64 value s = (s.writeBar0 addr (value.setWidth 32)).writeBar0 (addr + 4) ((value >>> 32).setWidth 32) :=
  (if_neg (fun n => n h)).trans ((if_neg (by decide)).trans (if_pos rfl))

theorem execRegisterWrite_bar0 (s : State) (t addr bits : Nat) (v : Word64) :
    exec (.registerWrite t (.bar0 addr) bits v) s = done s ((s.advance t).barAccess (bar0Written addr bits v)) := rfl

/-- The global control word, written. -/
theorem writeBar0_control (s : State) (v : Word64) : s.writeBar0 8 (v.setWidth 32) =
    { s with host := { s.host with cmdEn := v.getLsbD 0, shadowNow := s.host.shadowNow || v.getLsbD 1 } } := by
  rw [State.writeBar0, if_pos rfl, BitVec.getLsbD_setWidth, BitVec.getLsbD_setWidth]
  simp

/-- A 64-bit write of a disabled ring's base sets that base alone. -/
theorem bar0Written_base {u : State} {i : Nat} (hi : i < 64) (disabled : (u.ring i).enable = false) (rings : u.host.rings.length = 64)
    (v : Word64) :
    ((bar0Written (0x100 + 32 * i) 64 v u).ring i).regBase = v &&& 0xFFFFFFFFFFFFFFC0 ∧
    (∀ j, j ≠ i → (bar0Written (0x100 + 32 * i) 64 v u).ring j = u.ring j) ∧ u.hostOnly (bar0Written (0x100 + 32 * i) 64 v u) := by
  rw [bar0Written_64 (by omega), writeBar0_ring _ hi (off := 4) (by decide),
    show u.writeBar0 (0x100 + 32 * i) (v.setWidth 32) = u.modRing i (fun r => r.writeReg 0 (v.setWidth 32)) from
      writeBar0_ring u hi (off := 0) (by decide) _]
  have inside : i < (u.modRing i (fun r => r.writeReg 0 (v.setWidth 32))).host.rings.length := by
    have same : (u.modRing i (fun r => r.writeReg 0 (v.setWidth 32))).host.rings.length = u.host.rings.length := modAt_length ..
    omega
  refine ⟨?_, fun j other => ?_, rfl⟩
  · rw [modRing_ring_self inside, modRing_ring_self (by omega)]
    exact writeReg_base disabled v
  · rw [modRing_ring_of_ne _ _ other, modRing_ring_of_ne _ _ other]

theorem hostWrites : Rules.HostWrites := by
  intro s t hs
  have cmdEn := fun on => reachesEndpoint (s := s) (u := s.advance t) (c := .cmdEn t on) hs _ rfl
  have shadow := reachesEndpoint (s := s) (u := s.advance t) (c := .shadowNow t) hs _ rfl
  have enable := fun i ctl ctx => reachesEndpoint (s := s) (u := s.advance t) (c := .ringEnable t i ctl ctx) hs _ rfl
  have disable := fun i => reachesEndpoint (s := s) (u := s.advance t) (c := .ringDisable t i) hs _ rfl
  have bell := fun i v entries => reachesEndpoint (s := s) (u := s.advance t) (c := .doorbellWrite t i v entries) hs _ rfl
  have bar0 := fun a bits v => reachesEndpoint (s := s) (u := s.advance t) (c := .registerWrite t (.bar0 a) bits v) hs _ rfl
  have bar2 : ∀ a bits v, completes (.registerWrite t (.bar2 a) bits v) s (fun r => r = s.framed (s.advance t)) :=
    fun a bits v => completes_of_done hs (c := .registerWrite t (.bar2 a) bits v) rfl rfl
  have ptm := fun v => reachesEndpoint (s := s) (u := s.advance t) (c := .registerWrite t .ptmEnable 32 v) hs _ rfl
  have mask := fun v => reachesEndpoint (s := s) (u := s.advance t) (c := .registerWrite t .msixFunctionMask 32 v) hs _ rfl
  generalize s.advance t = u at *
  intro _ ready
  refine ⟨fun on => cmdEn on ready rfl, shadow ready rfl, fun i ctl ctx => enable i ctl ctx ready rfl, fun i => disable i ready rfl,
    fun i v entries => bell i v entries ready rfl, fun v => ⟨bar0 8 32 v ready ?_, fun i hi disabled rings => bar0 _ 64 v ready ?_,
      fun i k hi hk on => bar0 _ 32 v ready ?_, fun a unaligned => bar0 a 32 v ready ?_, fun a bits => bar2 a bits v, ptm v ready rfl,
      mask v ready ⟨flushVecs_funcMask _, woken_hostOnly (hostOnly_trans (modMsix_hostOnly ..) (flushVecs_hostOnly _))⟩⟩⟩
  · exact congrArg (fun x => s.framed (Rules.woken x)) ((bar0Written_32 (by decide) v u).trans (writeBar0_control u v))
  · obtain ⟨base, others, host⟩ := bar0Written_base hi disabled rings v
    exact ⟨base, others, woken_hostOnly host⟩
  · refine congrArg (fun x => s.framed (Rules.woken x)) ((bar0Written_32 (by omega) v u).trans ?_)
    rw [writeBar0_ring u hi (by omega)]
    exact modRing_eq_self (writeReg_of_enabled on ..)
  · exact congrArg (fun x => s.framed (Rules.woken x)) (bar0Written_of_unaligned unaligned 32 v u)

/-- Settles O46: each write reaches the endpoint and wakes the management clock; a ring that is enabled keeps its registers. -/
theorem endpointWrites : Obligations.EndpointWrites := ⟨pcieResets, hostWrites⟩

/-! ## Errors of rings -/

theorem ringLeaves_length (s : State) (i : Nat) : (s.ringLeaves i).host.rings.length = s.host.rings.length := by
  unfold State.ringLeaves
  dsimp only
  split
  · exact List.length_map ..
  · split
    · rfl
    · rfl

theorem ringLeaves_phase (s : State) (i : Nat) : (s.ringLeaves i).phase = s.phase := by
  unfold State.ringLeaves
  dsimp only
  split
  · rfl
  · split
    · rfl
    · rfl

theorem lt_length_of_enabled {s : State} {i : Nat} (h : (s.ring i).enable = true) : i < s.host.rings.length := by
  by_contra outside
  rw [State.ring, List.getElem?_eq_none (Nat.le_of_not_lt outside)] at h
  exact nomatch h

/-- A ring of the device that fails a check is in ERROR, with its code and the flag. -/
theorem ringFail_fails {s : State} {i : Nat} (inside : i < s.host.rings.length) (released : s.phase = .released) (err : Nat) :
    ((s.ringFail i err).ring i).st = .error ∧ ((s.ringFail i err).ring i).err = BitVec.ofNat 4 err ∧
    (s.ringFail i err).flag fRingError = true := by
  unfold State.ringFail
  extract_lets u
  have room : i < u.host.rings.length := by
    show i < (if (s.ring i).st = .running then s.ringLeaves i else s).host.rings.length
    split
    · rwa [ringLeaves_length]
    · exact inside
  have phase : u.phase = .released := by
    show (if (s.ring i).st = .running then s.ringLeaves i else s).phase = _
    split
    · rwa [ringLeaves_phase]
    · exact released
  clear_value u
  have self := modRing_ring_self room (fun r => { r with st := .error, err := BitVec.ofNat 4 err })
  have kept : ((u.modRing i (fun r => { r with st := .error, err := BitVec.ofNat 4 err })).signalVec 0).phase = .released := phase
  rw [← signalVec_ring _ 0] at self
  generalize (u.modRing i (fun r => { r with st := .error, err := BitVec.ofNat 4 err })).signalVec 0 = v at *
  have idle : (v.ring i).st ≠ .running := by rw [self]; exact fun h => nomatch h
  have ring := (setFlag_ring_of_idle idle fRingError).trans self
  exact ⟨congrArg Ring.st ring, congrArg Ring.err ring, setFlag_flag (by decide) kept⟩

theorem execHostDmaFail_of_fails {s : State} {t i : Nat}
    (h : ((s.advance t).ring i).st = .running ∨ (((s.advance t).ring i).enable = true ∧ ((s.advance t).ring i).st = .disabled)) :
    exec (.hostDmaFail t i) s = done s ((s.advance t).ringFail i 6) := congrArg (done s) (if_pos h)

theorem execHostDmaFail_of_idle {s : State} {t i : Nat} (idle : ((s.advance t).ring i).st ≠ .running)
    (disabled : ((s.advance t).ring i).enable = false) : exec (.hostDmaFail t i) s = done s (s.advance t) :=
  congrArg (done s) (if_neg fun h => h.elim idle fun on => by rw [disabled] at on; exact Bool.false_ne_true on.1)

/-! ## Interrupts -/

theorem bit_getLsbD {v : Nat} (hv : v < 64) (j : Nat) : (BitVec.ofNat 64 (2 ^ (v % 64))).getLsbD j = decide (j = v) := by
  rw [Nat.mod_eq_of_lt hv, BitVec.getLsbD_ofNat, Nat.testBit_two_pow]
  by_cases here : j = v
  · subst here
    simp [hv]
  · simp [here, Ne.symm here]

/-- A vector falls due: sent, or pending. -/
theorem signalVec_msix (s : State) {v : Nat} (hv : v < 64) :
    if s.host.msix.enable = true ∧ s.host.msix.funcMask = false ∧ s.host.msix.mask.getLsbD v = false then
      (s.signalVec v).host.msix.sent = s.host.msix.sent ++ [v] ∧ (s.signalVec v).host.msix.pend = s.host.msix.pend
    else (s.signalVec v).host.msix.sent = s.host.msix.sent ∧ (s.signalVec v).host.msix.pend.getLsbD v = true := by
  have same : (s.host.msix.enable && !s.host.msix.funcMask && !s.host.msix.mask.getLsbD v) = true ↔
      s.host.msix.enable = true ∧ s.host.msix.funcMask = false ∧ s.host.msix.mask.getLsbD v = false := by
    simp [and_assoc]
  unfold State.signalVec
  dsimp only
  by_cases sends : s.host.msix.enable = true ∧ s.host.msix.funcMask = false ∧ s.host.msix.mask.getLsbD v = false
  · rw [if_pos sends, if_pos (same.2 sends)]
    exact ⟨rfl, rfl⟩
  · rw [if_neg sends, if_neg (mt same.1 sends)]
    refine ⟨rfl, ?_⟩
    dsimp only
    rw [BitVec.getLsbD_or, bit_getLsbD hv, decide_eq_true rfl, Bool.or_true]

theorem ringSignal_of_irqEn {s : State} {i : Nat} (on : (s.ring i).irqEn = true) :
    s.ringSignal i = (s.modRing i (fun r => { r with unsig := 0 })).signalVec (s.ring i).vector.toNat := if_pos on

theorem execIrqModerationTimeout_of_due {s : State} {t i : Nat}
    (due : ((s.advance t).ring i).st = .running ∧ ((s.advance t).ring i).modTime ≠ 0 ∧ 0 < ((s.advance t).ring i).unsig ∧
      ((s.advance t).ring i).firstUnsig + ((s.advance t).ring i).modTime ≤ (s.advance t).now / perFrame) :
    exec (.irqModerationTimeout t i) s = done s ((s.advance t).ringSignal i) := congrArg (done s) (if_pos due)

/-- What could not be sent is sent once it can be. -/
theorem flushVecs_of_open {s : State} {v : Nat} (hv : v < 64) (on : s.host.msix.enable = true) (unmasked : s.host.msix.funcMask = false)
    (pending : s.host.msix.pend.getLsbD v = true) (clear : s.host.msix.mask.getLsbD v = false) :
    v ∈ s.flushVecs.host.msix.sent.drop s.host.msix.sent.length ∧ s.flushVecs.host.msix.mask = s.host.msix.mask ∧
    s.flushVecs.host.msix.pend.getLsbD v = false := by
  unfold State.flushVecs
  dsimp only
  rw [if_pos (by rw [on, unmasked]; rfl)]
  dsimp only
  refine ⟨?_, rfl, ?_⟩
  · rw [List.drop_left, List.mem_filter, pending, clear]
    exact ⟨List.mem_range.2 hv, rfl⟩
  · rw [BitVec.getLsbD_and, clear, Bool.and_false]

theorem flushVecs_of_shut {s : State} (h : (s.host.msix.enable && !s.host.msix.funcMask) = false) : s.flushVecs = s :=
  if_neg (by rw [h]; exact Bool.false_ne_true)

/-- The mask of one vector, cleared. -/
def unmasking (v : Nat) (m : Msix) : Msix := { m with mask := m.mask &&& ~~~ BitVec.ofNat 64 (2 ^ (v % 64)) }

theorem unmasking_getLsbD {v : Nat} (hv : v < 64) (m : Msix) : (unmasking v m).mask.getLsbD v = false := by
  rw [unmasking, BitVec.getLsbD_and, BitVec.getLsbD_not, bit_getLsbD hv, decide_eq_true rfl, Bool.not_true, Bool.and_false, Bool.and_false]

/-- Settles O47: a failing ring enters ERROR before its reports; a vector is sent, or pends until its masks let it go. -/
theorem ringEvents : Obligations.RingEvents := by
  intro s t hs
  have fails := fun i => execHostDmaFail_of_fails (s := s) (t := t) (i := i)
  have idles := fun i => execHostDmaFail_of_idle (s := s) (t := t) (i := i)
  have signals := fun i => execIrqModerationTimeout_of_due (s := s) (t := t) (i := i)
  have unmask := fun v => reachesEndpoint (s := s) (u := s.advance t) (c := .msixUnmask t (.unmask v)) hs _ rfl
  have enable := reachesEndpoint (s := s) (u := s.advance t) (c := .msixUnmask t .enable) hs _ rfl
  have clear := reachesEndpoint (s := s) (u := s.advance t) (c := .msixUnmask t .clearFunctionMask) hs _ rfl
  generalize s.advance t = u at *
  intro _
  refine ⟨fun i => ⟨fun active released => ?_, fun idle disabled => ?_⟩, fun i running irq moderated some due => ?_,
    fun v hv ready on unmasked pending masked => ?_, fun ready masked => ?_, fun ready off => ?_⟩
  · have inside : i < u.host.rings.length := active.elim lt_length_of_running fun h => lt_length_of_enabled h.1
    exact completes_of_done hs (fails i active) (ringFail_fails inside released 6)
  · exact completes_of_done hs (idles i idle disabled) rfl
  · have he := signals i ⟨running, moderated, some, due⟩
    rw [ringSignal_of_irqEn irq] at he
    have inside := lt_length_of_running running
    have self := modRing_ring_self inside (fun r => { r with unsig := 0 })
    have sent := signalVec_msix (u.modRing i (fun r => { r with unsig := 0 })) (u.ring i).vector.isLt
    exact completes_of_done hs he ⟨congrArg Ring.unsig self, fun j other => modRing_ring_of_ne u _ other, rfl, sent⟩
  · have sent := flushVecs_of_open (s := u.modMsix (unmasking v)) hv on unmasked pending (unmasking_getLsbD hv _)
    obtain ⟨sends, mask, cleared⟩ := sent
    have masks : (u.modMsix (unmasking v)).flushVecs.host.msix.mask.getLsbD v = false := by
      rw [mask]
      exact unmasking_getLsbD hv _
    exact unmask v ready ⟨sends, masks, cleared,
      woken_hostOnly (hostOnly_trans (modMsix_hostOnly ..) (flushVecs_hostOnly _))⟩
  · have shut : ((u.modMsix (fun m => { m with enable := true })).host.msix.enable &&
        !(u.modMsix (fun m => { m with enable := true })).host.msix.funcMask) = false := by
      show (true && !u.host.msix.funcMask) = false
      rw [masked]
      rfl
    exact enable ready (congrArg (fun x => s.framed (Rules.woken x)) (flushVecs_of_shut shut))
  · have shut : ((u.modMsix (fun m => { m with funcMask := false })).host.msix.enable &&
        !(u.modMsix (fun m => { m with funcMask := false })).host.msix.funcMask) = false := by
      show (u.host.msix.enable && !false) = false
      rw [off]
      rfl
    exact clear ready (congrArg (fun x => s.framed (Rules.woken x)) (flushVecs_of_shut shut))

end Sys2Proof.Proofs
end

section
/-! PROOF. The passing of time keeps the device: its instant, its phase and the wipe in progress (R7, R445, R461). -/
namespace Sys2Proof.Proofs
open Sys2Proof Sys2Proof.Machine Sys2Proof.Laws

/-! ## What no boundary of an object changes -/

/-- The instant, the phase and the wipe in progress. -/
def system (s : State) : Nat × Phase × Option WipeRun := (s.now, s.phase, s.wipeRun)

theorem system_of_answersOnly {s t : State} (h : s.answersOnly t) : system t = system s := by
  unfold State.answersOnly at h
  rw [h]
  rfl

theorem system_of_reportsOnly {s t : State} (h : s.reportsOnly t) : system t = system s := by
  unfold State.reportsOnly at h
  rw [h]
  rfl

theorem system_of_airsOnly {s t : State} (h : airsOnly s t) : system t = system s := by
  unfold airsOnly at h
  rw [h]
  rfl

theorem system_of_calOnly {s t : State} (h : calOnly s t) : system t = system s := by
  unfold calOnly at h
  exact (system_of_answersOnly h).trans rfl

theorem system_of_tablesOnly {s t : State} (h : tablesOnly s t) : system t = system s := by
  unfold tablesOnly at h
  rw [h]
  rfl

/-- A fold whose every step keeps the device keeps it. -/
theorem foldl_system {α : Type} {f : State → α → State} (h : ∀ b a, system (f b a) = system b) (l : List α) (s : State) :
    system (l.foldl f s) = system s :=
  foldl_keeps (fun a b : State => system b = system a) (fun _ => rfl) (fun _ _ _ h k => k.trans h) f h l s

theorem system_ite {p : Prop} [Decidable p] {s t u : State} (h : system t = system s) (k : system u = system s) :
    system (if p then t else u) = system s := by
  split
  · exact h
  · exact k

@[simp] theorem setCond_system (s : State) (n : Nat) (on : Bool) : system (s.setCond n on) = system s :=
  system_of_reportsOnly (setCond_reportsOnly ..)

@[simp] theorem setFlag_system (s : State) (n : Nat) : system (s.setFlag n) = system s := system_of_reportsOnly (setFlag_reportsOnly ..)

@[simp] theorem modLife_system (s : State) (r : Ref) (f : Life → Life) : system (s.modLife r f) = system s := by
  unfold State.modLife
  split <;> rfl

/-! ## The oscillators, the inputs and the Stand-in -/

@[simp] theorem modAlo_system (s : State) (a : Nat) (f : Alo → Alo) : system (s.modAlo a f) = system s := by
  unfold State.modAlo
  split <;> rfl

@[simp] theorem aloRelease_system (s : State) (a : Nat) : system (s.aloRelease a) = system s :=
  (setCond_system ..).trans (modAlo_system ..)

@[simp] theorem aloTarget_system (s : State) (a hz : Nat) (user : Id) : system (s.aloTarget a hz user) = system s :=
  (setCond_system ..).trans (modAlo_system ..)

@[simp] theorem hopOver_system (s : State) (a : Nat) : system (s.hopOver a) = system s := by
  unfold State.hopOver
  split
  · exact system_ite (modAlo_system ..) rfl
  · rfl

@[simp] theorem gainNow_system (s : State) (x lna att k : Nat) : system (s.gainNow x lna att k) = system s := by
  rw [gainNow_eq]
  exact system_ite rfl rfl

@[simp] theorem settleGain_system (s : State) (x : Nat) : system (s.settleGain x) = system s := by
  unfold State.settleGain
  split
  · exact system_ite (gainNow_system ..) rfl
  · rfl

@[simp] theorem pilotSync_system (s : State) (x : Nat) : system (s.pilotSync x) = system s := system_ite rfl rfl

@[simp] theorem calAbort_system (s : State) (u t : Nat) : system (s.calAbort u t) = system s := system_of_calOnly (calAbort_calOnly ..)

@[simp] theorem convHeld_system (s : State) (x t : Nat) : system (s.convHeld x t) = system s := by
  unfold State.convHeld
  extract_lets k running commanded leaves v
  have ended : system v = system s := system_ite (calAbort_system ..) rfl
  clear_value v
  have out : system (v.trafficOut x k) = system v := (system_of_reportsOnly (slateT_reportsOnly ..)).trans rfl
  refine Eq.trans ?_ ended
  split
  · exact system_ite (t := v.trafficOut x k) out rfl
  · rfl

@[simp] theorem settleCal_system (s : State) : system s.settleCal = system s := by
  have abandoned : system (abandonDue s) = system s := by
    unfold abandonDue
    split
    · split
      · dsimp only
        split <;> rfl
      · rfl
    · rfl
  rw [settleCal_eq, ← abandoned]
  unfold txValuesDue
  split
  · exact system_ite rfl rfl
  · rfl

/-! ## Captures -/

@[simp] theorem capClosed_system (mask : Nat) (s : State) (c : Nat) : system (s.capClosed mask c) = system s := by
  unfold State.capClosed
  extract_lets r m v
  have marked : system v = system s := system_ite rfl rfl
  clear_value v
  exact (modLife_system v _ _).trans marked

@[simp] theorem capStop_system (s : State) (c : Nat) : system (s.capStop c) = system s :=
  system_ite rfl (system_ite rfl rfl)

@[simp] theorem settleCap_system (s : State) (c : Nat) : system (s.settleCap c) = system s := by
  unfold State.settleCap
  split
  · exact system_ite (capStop_system ..) rfl
  · rfl

/-! ## Carriers -/

@[simp] theorem carrierOff_system (s : State) (d : Bool) (c : Nat) (cause : OffCause) (stays : Bool) (t : Nat) :
    system (s.carrierOff d c cause stays t) = system s := system_of_airsOnly (carrierOff_airsOnly ..)

@[simp] theorem settleAir_system (s : State) : system s.settleAir = system s := by
  unfold State.settleAir
  extract_lets v
  have off : system v = system s := foldl_system (fun b x => by
    split
    · split
      · exact carrierOff_system ..
      · rfl
    · rfl) _ _
  clear_value v
  split
  · split
    · exact off
    · exact off
  · exact off

@[simp] theorem releaseLo_system (s : State) : system s.releaseLo = system s := by
  unfold State.releaseLo
  split
  · dsimp only
    split
    · rfl
    · exact aloRelease_system ..
  · rfl

@[simp] theorem setStart_system (s : State) (d : Bool) (c t : Nat) (exact_ : Bool) : system (s.setStart d c t exact_) = system s := by
  have carriers := setStart_carriersOnly s d c t exact_
  unfold carriersOnly at carriers
  rw [carriers]
  rfl

@[simp] theorem loServe_system (s : State) : system s.loServe = system s :=
  foldl_system (fun _ _ => system_ite (setStart_system ..) rfl) _ _

@[simp] theorem loTune_system (s : State) (user : Id) : system (s.loTune user) = system s := by
  unfold State.loTune
  split
  · rfl
  · exact system_ite rfl (system_ite (loServe_system s) (system_ite rfl (aloTarget_system ..)))

@[simp] theorem loFree_system (s : State) : system s.loFree = system s := by
  unfold State.loFree
  split
  · exact aloRelease_system ..
  · exact loTune_system ..

@[simp] theorem txcalStart_system (s : State) : system s.txcalStart = system s := by
  unfold State.txcalStart State.txcalCond
  refine (setCond_system ..).trans ?_
  split
  · split
    · exact system_ite (aloTarget_system ..) rfl
    · rfl
  · rfl

@[simp] theorem sweepStopped_system (s : State) (aborted : Bool) (st : Status) : system (sweepStopped s aborted st) = system s := by
  obtain ⟨part, flush, -⟩ := sweepFlush_spec s true aborted
  have flushed : system (s.sweepFlush true aborted) = system s := (system_of_reportsOnly (reportsOnly_of_hostOnly flush)).trans rfl
  unfold sweepStopped
  dsimp only
  generalize s.sweepFlush true aborted = v at *
  have ended := system_of_answersOnly (endWait_answersOnly
    (({ v with tx := { v.tx with sweep := Sweep.reset, cxReq := false, cxPrio := false } } : State).modAlo 1
      (fun x => { x with ramp := [], seg := 0 })) .sweep st v.now)
  have before : system (({ v with tx := { v.tx with sweep := Sweep.reset, cxReq := false, cxPrio := false } } : State).modAlo 1
    (fun x => { x with ramp := [], seg := 0 })) = system v := rfl
  generalize State.endWait _ .sweep st v.now = w at *
  refine (system_ite ?_ rfl).trans (ended.trans (before.trans flushed))
  exact system_of_reportsOnly (slateDet_reportsOnly ..)

@[simp] theorem sweepEnd_system (s : State) (aborted : Bool) (st : Status) : system (s.sweepEnd aborted st) = system s := by
  by_cases none : s.tx.sweep.st = .none
  · rw [State.sweepEnd, if_pos none]
  · rw [sweepEnd_of_sweeping none, txcalStart_system, loFree_system, sweepStopped_system]

@[simp] theorem calEnd_preempted_system (s : State) (u limit t : Nat) : system (s.calEnd u .preempted limit t) = system s :=
  system_of_calOnly (calEnd_calOnly (by decide) ..)

@[simp] theorem startAir_system (s : State) (d : Bool) (c t : Nat) (exact_ : Bool) : system (s.startAir d c t exact_) = system s := by
  unfold State.startAir
  extract_lets b dcar fcar v w tx x y z p
  have reset : system v = system s := system_ite rfl rfl
  have begun : system w = system v := by
    show system (State.modAir ..) = _
    unfold State.modAir
    exact system_ite rfl rfl
  have claimed : system x = system w := rfl
  have waits : system y = system x := by
    show system (State.modAir ..) = _
    unfold State.modAir
    exact system_ite rfl rfl
  have swept : system z = system y := sweepEnd_system ..
  have served : system p = system y := by
    refine system_ite ?_ rfl
    refine (system_ite ?_ rfl).trans swept
    rw [loFree_system, calEnd_preempted_system]
  have ends : system w = system s := begun.trans reset
  clear_value v w x y z p
  refine (system_ite ?_ (setStart_system ..)).trans ends
  exact (setCond_system ..).trans ((loTune_system ..).trans (served.trans (waits.trans claimed)))

/-! ## Holds, closes and runs -/

theorem modProg_system (s : State) (p : Nat) (f : ProgRun → ProgRun) : system (s.modProg p f) = system s := rfl
theorem modPort_system (s : State) (p : Nat) (f : PortRun → PortRun) : system (s.modPort p f) = system s := rfl
theorem modConv_system (s : State) (x : Nat) (f : ConvRun → ConvRun) : system (s.modConv x f) = system s := rfl
theorem restartStream_system (s : State) (key : Nat) : system (s.restartStream key) = system s := rfl
theorem dropRouteDelays_system (s : State) (kind src : Nat) : system (s.dropRouteDelays kind src) = system s := rfl
theorem dropCarrierDelays_system (s : State) (p : Nat) : system (s.dropCarrierDelays p) = system s := rfl

@[simp] theorem flushAudioAll_system (s : State) (p : Nat) : system (s.flushAudioAll p) = system s :=
  foldl_system (fun b i => by
    split
    · exact system_of_reportsOnly (reportsOnly_of_hostOnly (flushAudio_hostOnly b i p))
    · rfl) _ _

@[simp] theorem removeOrigin_system (s : State) (sel : Origin → Bool) : system (s.removeOrigin sel) = system s := by
  unfold State.removeOrigin
  extract_lets svcs comps tables v w
  have comp : system w = system v := foldl_system (fun _ _ => system_of_tablesOnly (putComp_tablesOnly ..)) _ _
  have start : system v = system s := rfl
  clear_value v w
  exact (foldl_system (fun _ _ => system_of_tablesOnly (putSvc_tablesOnly ..)) _ _).trans (comp.trans start)

@[simp] theorem holdEffects0_system (s : State) (r : Ref) (cause : OffCause) (t : Nat) :
    system (s.holdEffects0 r cause t) = system s := by
  unfold State.holdEffects0
  dsimp only
  split
  · refine (foldl_system (fun b c => ?_) _ _).trans rfl
    split
    · exact capClosed_system ..
    · rfl
  · exact removeOrigin_system ..
  · exact removeOrigin_system ..
  · exact removeOrigin_system ..
  · exact (setCond_system ..).trans ((modProg_system ..).trans (flushAudioAll_system ..))
  · exact (system_of_reportsOnly portConds_reportsOnly).trans rfl
  · exact (releaseLo_system _).trans (carrierOff_system ..)
  · exact (releaseLo_system _).trans (carrierOff_system ..)
  · rfl
  · exact (convHeld_system ..).trans (setCond_system ..)
  · rfl
  · rfl

@[simp] theorem closeEffects0_system (s : State) (r : Ref) : system (s.closeEffects0 r) = system s := by
  unfold State.closeEffects0
  extract_lets v w x y z
  have caps : system v = system s := system_ite (foldl_system (fun _ _ => capClosed_system ..) _ _) rfl
  have shut : system w = system v := modLife_system ..
  have both : system w = system s := shut.trans caps
  have held : system y = system x := convHeld_system ..
  have visit : system z = system y := system_ite rfl rfl
  have pins : system x = system w := rfl
  clear_value v w x y z
  split
  · exact (system_ite (aloRelease_system ..) rfl).trans (visit.trans (held.trans (pins.trans both)))
  · exact (setFlag_system ..).trans both
  · exact both

@[simp] theorem closeNow0_system (s : State) (r : Ref) (t : Nat) : system (s.closeNow0 r t) = system s :=
  (closeEffects0_system ..).trans (system_ite (holdEffects0_system ..) rfl)

@[simp] theorem closeBackground_system (s : State) (p : Nat) : system (s.closeBackground p) = system s :=
  (foldl_system (fun _ _ => by
    split
    · rfl
    · exact closeNow0_system ..) _ _ : system (List.foldl _ s _) = _)

@[simp] theorem suspendFollow_system (s : State) (p : Nat) : system (s.suspendFollow p) = system s :=
  system_ite rfl (closeBackground_system s p)

@[simp] theorem holdEffects_system (s : State) (r : Ref) (cause : OffCause) (t : Nat) : system (s.holdEffects r cause t) = system s :=
  system_ite ((holdEffects0_system ..).trans (suspendFollow_system ..)) (holdEffects0_system ..)

@[simp] theorem closeEffects_system (s : State) (r : Ref) : system (s.closeEffects r) = system s :=
  system_ite (closeEffects0_system s r) (closeEffects0_system ..)

/-- What the LO of input 3 does at the start of a run. -/
theorem inputTuned_system {s q : State} (h : system q = system s) (i k : Nat) (user : Id) (lband : Prop) [Decidable lband] :
    system (if 4 ≤ i then s else if lband then (q.aloTarget 0 1302000000 user).loInvalid k
      else if i = 3 then (if q.aloRx.st ≠ .idle then q.aloRelease 0 else q).loValid k else q) = system s := by
  split
  · rfl
  · split
    · exact (modConv_system ..).trans ((aloTarget_system ..).trans h)
    · split
      · refine (modConv_system ..).trans (Eq.trans ?_ h)
        split
        · exact aloRelease_system ..
        · rfl
      · exact h

/-- A converter's run starts (R48, R53, R70, R419). -/
@[simp] theorem runEffects_conv_system (s : State) (x t : Nat) (group : Bool) : system (s.runEffects ⟨.conv, x⟩ t group) = system s := by
  unfold State.runEffects
  dsimp -zeta only
  extract_lets blk w k i v y z psel lband wasL settle p e q
  have start : system w = system s := rfl
  have ended : system v = system w := by
    change system (match (w.unit i).run with | some u => _ | none => w) = _
    split
    · exact system_ite (calAbort_system ..) rfl
    · rfl
  have held : system y = system v := modConv_system ..
  have gain : system z = system y := gainNow_system ..
  have set : system p = system z := modConv_system ..
  have blank : system q = system p := by
    change system (if settle then _ else p) = _
    split
    · exact modConv_system ..
    · rfl
  exact (inputTuned_system (blank.trans (set.trans (gain.trans (held.trans ended)))) ..).trans start

@[simp] theorem runEffects_system (s : State) (r : Ref) (t : Nat) (group : Bool) : system (s.runEffects r t group) = system s := by
  obtain ⟨kind, i⟩ := r
  cases kind
  case conv => exact runEffects_conv_system ..
  case fcar => exact startAir_system ..
  case dcar => exact startAir_system ..
  case device | alo | group | cap => rfl
  case prog =>
    exact (modProg_system ..).trans ((dropCarrierDelays_system ..).trans ((dropRouteDelays_system ..).trans (restartStream_system ..)))
  case port => exact (modPort_system ..).trans (dropRouteDelays_system ..)
  all_goals rfl

/-! ## Everything that is due -/

@[simp] theorem settleRef_system (s : State) (r : Ref) : system (s.settleRef r) = system s := by
  unfold State.settleRef
  extract_lets l ends v m w
  have held : system v = system s := by
    change system (match l.holdAt with | some h => _ | none => s) = _
    split
    · refine system_ite ?_ rfl
      extract_lets stopped
      have quiet : system stopped = system s := (holdEffects_system ..).trans (modLife_system ..)
      clear_value stopped
      exact (system_ite (closeEffects_system ..) rfl).trans quiet
    · rfl
  clear_value v
  have run : system w = system v := by
    change system (match m.dueAt with | some d => _ | none => v) = _
    split
    · exact system_ite ((runEffects_system ..).trans (modLife_system ..)) rfl
    · rfl
  clear_value w
  refine Eq.trans ?_ (run.trans held)
  split
  · refine system_ite ?_ rfl
    extract_lets applied
    have same : system applied = system w := modLife_system ..
    clear_value applied
    split
    · exact same
    · split
      · exact same
      · exact same
    · exact (gainNow_system ..).trans same
    · exact same
  · rfl

@[simp] theorem settle_system (s : State) : system s.settle = system s := by
  have inputs : system (inputsSettled s) = system s := by
    unfold inputsSettled
    rw [foldl_system pilotSync_system, hopOver_system, hopOver_system, settleCal_system, foldl_system settleGain_system]
  have profile : ∀ v, system (profileDue v) = system v := fun v => by
    unfold profileDue
    split
    · split
      · exact (system_of_answersOnly (endFirst_answersOnly ..)).trans rfl
      · rfl
    · rfl
  have air := (settleAir_system (inputsSettled s)).trans inputs
  have caps := foldl_system settleCap_system (List.range 16) (inputsSettled s).settleAir
  have eq := settle_eq s
  generalize List.foldl State.settleCap (inputsSettled s).settleAir (List.range 16) = v at *
  have refs := foldl_system settleRef_system (inputsSettled s).dueRefs v
  generalize List.foldl State.settleRef v (inputsSettled s).dueRefs = w at *
  exact (congrArg system eq).trans ((profile w).trans (refs.trans (caps.trans air)))

/-- Time that passes keeps the phase and the wipe in progress. -/
theorem advance_system (s : State) (t : Nat) : (s.advance t).phase = s.phase ∧ (s.advance t).wipeRun = s.wipeRun := by
  unfold State.advance
  extract_lets u
  have settled : system u = system s := settle_system s
  clear_value u
  have phase : u.phase = s.phase := congrArg (fun x => x.2.1) settled
  have wipe : u.wipeRun = s.wipeRun := congrArg (fun x => x.2.2) settled
  split
  · exact ⟨rfl, rfl⟩
  · split
    · exact ⟨phase, wipe⟩
    · have moved : (u.phase, u.wipeRun) = (s.phase, s.wipeRun) := by rw [phase, wipe]
      have later := settle_system { u with tb := u.tb.advance u.now t, now := t, atTick := false }
      generalize State.settle _ = w at *
      have both : (w.phase, w.wipeRun) = (u.phase, u.wipeRun) := congrArg Prod.snd later
      exact Prod.mk.inj (both.trans moved)

theorem settle_now (s : State) : s.settle.now = s.now := congrArg Prod.fst (settle_system s)

/-- Once an index runs, time passes up to the instant asked for. -/
theorem le_advance_now {s : State} (runs : s.clk.divReset = true) (t : Nat) : t ≤ (s.advance t).now := by
  by_cases later : s.settle.now < t
  · rw [advance_of_later runs later, settle_now]
  · unfold State.advance
    rw [runs, if_neg (by decide)]
    dsimp only
    rw [if_pos (Nat.le_of_not_lt later)]
    exact Nat.le_of_not_lt later

end Sys2Proof.Proofs
end

section
/-! PROOF. Persisted entries, wipes, life-cycle steps, the replay and a group's index (R371, R384, R385, R439, R455 to R461): O48. -/
namespace Sys2Proof.Proofs
open Sys2Proof Sys2Proof.Machine Sys2Proof.Laws

/-! ## Persisted entries and wipes -/

/-- A persisted entry that reads back well. -/
theorem dailyWritten_of_good {s : State} {seq a : Nat} (found : s.log.writing.find? (fun w => w.1 == seq) = some (seq, a)) :
    (s.dailyWritten seq true).log.writing = s.log.writing.filter (fun w => w.1 != seq) ∧
    s.dailyWritten seq true = { s with log := (s.dailyWritten seq true).log, mram := (s.dailyWritten seq true).mram } := by
  unfold State.dailyWritten
  rw [found]
  exact ⟨rfl, rfl⟩

theorem execNvmWriteDone_daily (s : State) (t seq : Nat) (ok : Bool) :
    exec (.nvmWriteDone t idDailies seq ok) s = done s ((s.advance t).dailyWritten seq ok) := rfl

/-- The wipe over, its regions empty. -/
def wiped (u : State) (w : WipeRun) : State :=
  { u with wipeRun := none, mram := if w.records then { u.mram with dailies := [] } else u.mram }

theorem execWipeOverwriteEnd_of_run {s : State} {t : Nat} {w : WipeRun} (run : (s.advance t).wipeRun = some w) :
    exec (.wipeOverwriteEnd t) s = if w.reset then
      done s (((wiped (s.advance t) w).advance (alignNext perTick (s.advance t).now)).warmReset .lifeCycle)
    else done s (wiped (s.advance t) w) := by
  show execWipeOverwriteEnd t s = _
  unfold execWipeOverwriteEnd
  dsimp only
  rw [run]
  rfl

/-- A warm reset over released outputs, from a state in which no wipe is left. -/
theorem warmReset_leaves {u : State} (released : u.phase = .released) (over_ : u.wipeRun = none) (cause : ResetCause) :
    (u.warmReset cause).phase = .warm ∧ (u.warmReset cause).lastCause = cause ∧ (u.warmReset cause).wipeRun = none := by
  rw [warmReset_of_released released]
  exact ⟨rfl, rfl, over_⟩

theorem storedRecords : Rules.StoredRecords := by
  intro s t hs
  have daily := fun seq => execNvmWriteDone_daily s t seq true
  have wipe := fun w => execWipeOverwriteEnd_of_run (s := s) (t := t) (w := w)
  generalize s.advance t = u at *
  intro _
  refine ⟨fun seq a found => ?_, fun w run => ⟨fun stays => ?_, fun resets released => ?_⟩⟩
  · obtain ⟨writing, only⟩ := dailyWritten_of_good found
    exact completes_of_done hs (daily seq) ⟨writing, congrArg s.framed only⟩
  · have he := wipe w run
    rw [if_neg (by rw [stays]; exact Bool.false_ne_true)] at he
    exact completes_of_done hs he rfl
  · have he := wipe w run
    rw [if_pos resets] at he
    obtain ⟨phase, over_⟩ := advance_system (wiped u w) (alignNext perTick u.now)
    generalize (wiped u w).advance (alignNext perTick u.now) = v at *
    exact completes_of_done hs he (warmReset_leaves (phase.trans released) over_ .lifeCycle)

/-! ## Life-cycle steps -/

/-- What a step leaves of the fuses. -/
theorem step_serial (f : Fuses) (p : LcPending) (a b : Bool) : (f.step_ p a b).serial = f.serial := by
  unfold Fuses.step_
  split
  · rfl
  · split <;> rfl

theorem step_of_provision {p : LcPending} (h : p.target = 1) (f : Fuses) (a b : Bool) :
    pairBlown (f.step_ p a b).lcP = true ∧ (f.step_ p a b).keyO = p.keyO := by
  rw [Fuses.step_, if_pos h]
  exact ⟨rfl, rfl⟩

theorem step_of_field {p : LcPending} (h : p.target = 2) (f : Fuses) (a b : Bool) :
    pairBlown (f.step_ p a b).lcF = true ∧ pairBlown (f.step_ p a b).dbg = true := by
  rw [Fuses.step_, if_neg (by rw [h]; decide), if_pos h]
  refine ⟨rfl, ?_⟩
  dsimp only
  split
  next blown => exact blown
  next => rfl

/-- No copy of a named record is left. -/
theorem wipe_recs (m : Mram) (ids : List Nat) : (m.wipe ids).recs.all (fun x => !ids.contains x.1) = true := by
  unfold Mram.wipe
  rw [List.all_eq_true]
  exact fun x hx => (List.mem_filter.1 hx).2

/-- LC_CHANGE with a step pending: the wipe of both regions before the reset. -/
theorem execLcChange_of_pending {s : State} {p : LcPending} (pending : s.lcPending = some p) (runs : s.flags.halted = false) (a b : Bool) :
    ∃ u : State, exec (.lcChange a b) s = doneFw s
      { State.deviceReset { u with mram := { u.mram.wipe (profileIds ++ recordIds) with dailies := [] }, wipeRun := none } true .lifeCycle
        with resetPin := true } (s.fuses.step_ p a b)
      (if (s.fuses.step_ p a b).dbgLock then s.tap.closeDebug else s.tap) := by
  refine ⟨?_, ?_⟩
  rotate_left
  · show execLcChange a b s = _
    unfold execLcChange
    rw [pending]
    dsimp only
    rw [runs, if_neg Bool.false_ne_true]

theorem lifeCycleStep : Rules.LifeCycleStep := by
  intro s p a b hs pending runs
  obtain ⟨u, he⟩ := execLcChange_of_pending pending runs a b
  rw [doneFw_of_live hs] at he
  refine ⟨_, he, rfl, rfl, rfl, rfl, rfl, step_serial .., fun h => step_of_provision h .., fun h => step_of_field h .., fun locked => ?_,
    rfl, wipe_recs .., rfl, rfl⟩
  rw [show (if (s.fuses.step_ p a b).dbgLock then s.tap.closeDebug else s.tap) = s.tap.closeDebug from if_pos locked]
  exact closeDebug_closed _

/-! ## The replay of the Storyboard -/

theorem putRecord_sb (s : State) (i key : Nat) (mk : Nat → Bool → Bool → List Byte) : (s.putRecord i key mk).host.sb = s.host.sb := by
  have written : (s.writeRecord i key mk).host.sb = s.host.sb := by
    unfold State.writeRecord
    dsimp only
    split
    · rfl
    · split <;> rfl
  have counted : ∀ v : State, (v.ringCount i).host.sb = v.host.sb := fun v => by
    unfold State.ringCount
    dsimp only
    split
    · split <;> rfl
    · rfl
  unfold State.putRecord
  dsimp only
  split
  · exact written
  · exact (counted _).trans written

/-- The reports of a condition leave the Storyboard. -/
theorem setCond_sb (s : State) (n : Nat) (level : Bool) : (s.setCond n level).host.sb = s.host.sb := by
  rw [setCond_eq]
  split
  · rfl
  · split
    · exact setFlagMet_of_records (R := fun a b : State => b.host.sb = a.host.sb) (fun _ _ _ h k => k.trans h)
        (fun _ _ host => congrArg HostIf.sb host) putRecord_sb (withCond s n level) n false s.now
    · rfl

/-- The first tick boundary at or after the instant. -/
def atBoundary (s : State) : State := if s.atTick then s else s.advance (alignUp perTick s.now)

/-- The replay may begin. -/
def replayReady (u : State) : Prop :=
  u.phase = .released ∧ u.boot.ready = true ∧ u.boot.readyTick < u.tick ∧ u.startupDone = true ∧ u.flags.halted = false

/-- The replay of an image, as it begins. -/
def replayBegun (u : State) (im : List Byte) : State :=
  u.modSb (fun b => { b with
    st := .replaying, todo := imageEntries im (leAt im 6 2) 0 32, nent := leAt im 6 2, buildRun := BitVec.ofNat 32 (leAt im 8 4),
    stopOnError := (leAt im 12 1).testBit 0, lastTick := u.tick })

theorem execReplayStart_of_bad {s : State} (ready : replayReady (atBoundary s)) (bad : (atBoundary s).host.sb.st = .bad) :
    exec .storyboardReplayStart s = done s ((atBoundary s).setCond fStoryboardBad true) :=
  (if_pos ready).trans (if_pos bad)

theorem execReplayStart_of_image {s : State} {im : List Byte} (ready : replayReady (atBoundary s)) (idle : (atBoundary s).host.sb.st = .none)
    (runs : (atBoundary s).replaySkipped = false) (shut_ : (atBoundary s).host.open_ = false)
    (stored : (atBoundary s).mram.body idStoryboard = some im) (entries : leAt im 6 2 ≠ 0) :
    exec .storyboardReplayStart s =
      done s (if (replayBegun (atBoundary s) im).atTick then (replayBegun (atBoundary s) im).replayStep else replayBegun (atBoundary s) im) := by
  show execStoryboardReplayStart s = _
  unfold execStoryboardReplayStart
  rw [show (if s.atTick = true then s else s.advance (alignUp perTick s.now)) = atBoundary s from rfl]
  generalize atBoundary s = u at *
  dsimp only
  rw [if_pos (c := u.phase = .released ∧ _) ready, if_neg (by rw [idle]; decide), if_pos ⟨idle, runs, shut_⟩, stored]
  exact if_neg entries

theorem replayStarts : (∀ s : State, s.live →
    let u := if s.atTick then s else s.advance (alignUp perTick s.now)
    u.phase = .released → u.boot.ready = true → u.boot.readyTick < u.tick → u.startupDone = true → u.flags.halted = false →
    (u.host.sb.st = .bad → completes .storyboardReplayStart s (fun r => r.cond fStoryboardBad = true ∧ r.host.sb.st = .bad)) ∧
    (∀ im, u.host.sb.st = .none → u.replaySkipped = false → u.host.open_ = false → u.mram.body idStoryboard = some im →
      leAt im 6 2 ≠ 0 →
      completes .storyboardReplayStart s (fun r => r = s.framed (if (replayBegun u im).atTick then (replayBegun u im).replayStep
        else replayBegun u im)))) := by
  intro s hs
  have ofBad := execReplayStart_of_bad (s := s)
  have ofImage := fun im => execReplayStart_of_image (s := s) (im := im)
  intro u released ready later started runs
  have all : replayReady (atBoundary s) := ⟨released, ready, later, started, runs⟩
  rw [show u = atBoundary s from rfl] at *
  generalize atBoundary s = v at *
  refine ⟨fun bad => completes_of_done hs (ofBad all bad) ⟨setCond_cond (by decide) _ _, (congrArg Storyboard.st (setCond_sb v _ _)).trans bad⟩,
    fun im idle skips shut_ stored entries => completes_of_done hs (ofImage im all idle skips shut_ stored entries) rfl⟩

/-! ## A group's index -/

theorem execGroupAtIndex_of_single {s : State} {g : Nat} {q : GroupPend} (pend : (s.group g).pend = [q]) :
    exec (.groupAtIndex g) s =
      (let i := if q.isRun then q.index * perSample else alignUp perFrame (q.index * perSample)
       done s (if i ≤ (s.advance i).now then
        (s.advance i).modGroup g (fun x => { x with pend := x.pend.filter (fun p => p.index != q.index) }) else s.advance i)) := by
  show execGroupAtIndex g s = _
  unfold execGroupAtIndex
  rw [pend]
  have hold : [q].any (fun p => p.index == [].foldl (fun (m : Nat) p => min m (GroupPend.index p)) q.index && !p.isRun) = !q.isRun := by simp
  cases run : q.isRun
  · rw [run] at hold
    simp only [hold]
    rfl
  · rw [run] at hold
    simp only [hold]
    rfl

theorem modGroup_pend (u : State) (g k : Nat) :
    ((u.modGroup g (fun x => { x with pend := x.pend.filter (fun p => p.index != k) })).group g).pend.all (fun x => x.index != k) = true := by
  unfold State.group State.modGroup
  dsimp only
  rw [modAt_getElem?_self]
  cases u.host.groups[g]? with
  | none => rfl
  | some x => exact List.all_eq_true.2 fun p hp => (List.mem_filter.1 hp).2

theorem replayAndIndex : Rules.ReplayAndIndex := by
  refine ⟨replayStarts, fun s g q hs runs pend => ?_⟩
  have he := execGroupAtIndex_of_single pend
  intro i u
  rw [show (if q.isRun then q.index * perSample else alignUp perFrame (q.index * perSample)) = i from rfl] at he
  have reached : i ≤ (s.advance i).now := le_advance_now runs i
  dsimp only at he
  rw [if_pos reached] at he
  exact completes_of_done hs he ⟨reached, modGroup_pend .., rfl⟩

/-- Settles O48: the passing of time keeps the phase and the wipe, and a step's fuses follow from its target. -/
theorem storedAndLifeCycle : Obligations.StoredAndLifeCycle := ⟨storedRecords, lifeCycleStep, replayAndIndex⟩

end Sys2Proof.Proofs
end

section
/-! PROOF. How a host command is taken up, judged and completed (R345 to R350): what a completion touches, and O49. -/
namespace Sys2Proof.Proofs
open Sys2Proof Sys2Proof.Machine Sys2Proof.Laws

/-! ## What a completion touches -/

theorem completionOnly_trans {a b c : State} (h : a.completionOnly b) (k : b.completionOnly c) : a.completionOnly c := by
  unfold State.completionOnly at *
  rw [k, h]
theorem completionOnly_ite {p : Prop} [Decidable p] {s t u : State} (h : s.completionOnly t) (k : s.completionOnly u) :
    s.completionOnly (if p then t else u) := by
  split
  · exact h
  · exact k
theorem framed_completionOnly {s a b : State} (h : a.completionOnly b) : (s.framed a).completionOnly (s.framed b) := by
  unfold State.completionOnly State.framed at *
  rw [h]
theorem hostSideOnly_trans {a b c : State} (h : a.hostSideOnly b) (k : b.hostSideOnly c) : a.hostSideOnly c := by
  unfold State.hostSideOnly at *
  rw [k, h]
theorem hostSideOnly_of_completionOnly {a b : State} (h : a.completionOnly b) : a.hostSideOnly b := by
  unfold State.hostSideOnly State.completionOnly at *
  rw [h]
theorem hostSideOnly_of_hostOnly {a b : State} (h : a.hostOnly b) : a.hostSideOnly b := by
  unfold State.hostSideOnly State.hostOnly at *
  rw [h]
theorem framed_hostSideOnly {s a b : State} (h : a.hostSideOnly b) : (s.framed a).hostSideOnly (s.framed b) := by
  unfold State.hostSideOnly State.framed at *
  rw [h]
theorem answersOnly_of_completionOnly {a b : State} (h : a.completionOnly b) : a.answersOnly b := by
  unfold State.answersOnly State.completionOnly at *
  rw [h]

theorem writeRecord_completionOnly (s : State) (i key : Nat) (mk : Nat → Bool → Bool → List Byte) :
    s.completionOnly (s.writeRecord i key mk) := by
  unfold State.writeRecord
  dsimp only
  split
  · rfl
  · split <;> rfl

theorem ringCount_completionOnly (s : State) (i : Nat) : s.completionOnly (s.ringCount i) :=
  completionOnly_ite (completionOnly_ite rfl rfl) rfl

theorem ringSignal_completionOnly (s : State) (i : Nat) : s.completionOnly (s.ringSignal i) := completionOnly_ite rfl rfl

theorem putRecord_completionOnly (s : State) (i key : Nat) (mk : Nat → Bool → Bool → List Byte) :
    s.completionOnly (s.putRecord i key mk) := by
  have written := writeRecord_completionOnly s i key mk
  unfold State.putRecord
  extract_lets v
  change s.completionOnly v at written
  clear_value v
  exact completionOnly_ite written (completionOnly_trans written (ringCount_completionOnly ..))

theorem putBuf_completionOnly (s : State) (d : Desc) (bytes : List Byte) : s.completionOnly (s.putBuf d bytes) := completionOnly_ite rfl rfl

theorem completeOn_completionOnly (s : State) (cpl : Nat) (d : Desc) (st : Status) (detail retLen : Nat) (waited remote : Bool)
    (time : Word64) : s.completionOnly (s.completeOn cpl d st detail retLen waited remote time) := by
  unfold State.completeOn
  extract_lets mk v
  have written : s.completionOnly v := writeRecord_completionOnly ..
  clear_value v
  exact completionOnly_ite rfl (completionOnly_ite (completionOnly_ite written (completionOnly_trans written (ringSignal_completionOnly ..)))
    (putRecord_completionOnly ..))

/-- A command that no Storyboard entry stands for reports to its ring or to the cascade's master. -/
theorem report_completionOnly (s : State) (d : Desc) (cpl : Nat) (st : Status) (detail : Nat) (ret : List Byte) (waited remote : Bool)
    (time : Word64) : s.completionOnly (s.report d cpl none st detail ret waited remote time) := by
  unfold State.report
  extract_lets out src v tags
  have ended : s.completionOnly v := completionOnly_trans (putBuf_completionOnly ..) (completeOn_completionOnly ..)
  clear_value v
  exact completionOnly_ite rfl (completionOnly_ite (completionOnly_trans ended rfl) ended)

/-! ## The completion record -/

theorem writeRecord_out_of_room {s : State} {j : Nat} (runs : s.flags.halted = false) (running : (s.ring j).st = .running)
    (room : (s.ring j).filled < (s.ring j).entries) (key : Nat) (mk : Nat → Bool → Bool → List Byte) :
    ((s.writeRecord j key mk).ring j).out = (s.ring j).out ++
      [mk ((s.ring j).stream key).seq ((s.ring j).stream key).fresh ((s.ring j).stream key).dropped] := by
  unfold State.writeRecord
  dsimp only
  rw [if_neg (by simp [runs, running]), if_neg (Nat.not_le.mpr room), modRing_ring_self (lt_length_of_running running)]
  rfl

theorem ringSignal_out (s : State) (j i : Nat) : ((s.ringSignal j).ring i).out = (s.ring i).out := by
  unfold State.ringSignal
  dsimp only
  split
  · rw [signalVec_ring]
    exact modRing_ring_keeps Ring.out (f := fun r => { r with unsig := 0 }) (fun _ => rfl) s j i
  · rfl

theorem completeOn_of_left {d : Desc} {st : Status} (left : d.cplErrOnly = true ∧ st = .ok) (s : State) (cpl detail retLen : Nat)
    (waited remote : Bool) (time : Word64) : s.completeOn cpl d st detail retLen waited remote time = s := by
  obtain ⟨errOnly, ok⟩ := left
  unfold State.completeOn
  rw [errOnly, ok]
  rfl

/-- A completion that CPL_ERR_ONLY does not leave out stands on its ring, which runs and has room. -/
theorem completeOn_out {s : State} {cpl : Nat} {d : Desc} {st : Status} (put : ¬ (d.cplErrOnly = true ∧ st = .ok))
    (runs : s.flags.halted = false) (running : (s.ring cpl).st = .running) (room : (s.ring cpl).filled < (s.ring cpl).entries)
    (detail retLen : Nat) (waited remote : Bool) (time : Word64) :
    ((s.completeOn cpl d st detail retLen waited remote time).ring cpl).out = (s.ring cpl).out ++
      [completion d st detail retLen ((s.ring cpl).stream keyCpl).seq ((s.ring cpl).stream keyCpl).fresh waited remote time] := by
  have written := writeRecord_out_of_room runs running room keyCpl
    (fun seq fresh _ => completion d st detail retLen seq fresh waited remote time)
  have kept : (d.cplErrOnly && st == .ok) = false := by
    rw [Bool.eq_false_iff]
    intro both
    rw [Bool.and_eq_true, beq_iff_eq] at both
    exact put both
  unfold State.completeOn State.putRecord
  rw [kept, if_neg Bool.false_ne_true]
  dsimp only
  generalize s.writeRecord _ _ _ = v at *
  split
  · split
    · exact written
    · rw [ringSignal_out, written]
  · split
    · exact written
    · rw [ringCount_out, written]

theorem putBuf_ring (s : State) (d : Desc) (bytes : List Byte) (i : Nat) : (s.putBuf d bytes).ring i = s.ring i := by
  unfold State.putBuf
  split <;> rfl

theorem putBuf_flags (s : State) (d : Desc) (bytes : List Byte) : (s.putBuf d bytes).flags = s.flags := by
  unfold State.putBuf
  split <;> rfl

/-- A command of a ring of this device reports on its CPL ring. -/
theorem report_own (s : State) (d : Desc) {cpl : Nat} (own : cpl ≠ cplLink) (st : Status) (detail : Nat) (ret : List Byte)
    (time : Word64) : ∃ sent, s.report d cpl none st detail ret false false time =
      (let v := (s.putBuf d (ret.take d.plen.toNat)).completeOn cpl d st detail (ret.take d.plen.toNat).length false false time
       { v with cas := { v.cas with sent := sent } }) := by
  unfold State.report
  dsimp only
  rw [if_neg own]
  split
  · exact ⟨_, rfl⟩
  · exact ⟨_, rfl⟩

theorem byteAt_lt (l : List Byte) (i : Nat) : (byteAt l i).toNat < 256 := (byteAt l i).isLt

theorem pair_ne_link (r : Ring) : r.pair ≠ cplLink := Nat.ne_of_lt (byteAt_lt _ _)

/-! ## Taking up -/

/-- A host command's row places its descriptor in its ring. -/
theorem exec_of_hostDesc {c : Instr} {d : Desc} (h : hostDesc c = some d) (s : State) : exec c s = done s (s.submit d) := by
  unfold hostDesc at h
  split at h
  all_goals
    cases h
  all_goals rfl

theorem takesNow_iff {s : State} {d : Desc} : s.takesNow d = true ↔
    s.live ∧ d.readOk = true ∧ (s.ring d.ring).holdsCommands = true ∧ s.queuedOn d.ring = false ∧ s.canTake d = true := by
  unfold State.takesNow State.live
  simp [and_assoc]

theorem submit_of_takes {s : State} {d : Desc} (holds : (s.ring d.ring).holdsCommands = true) (queue : s.queuedOn d.ring = false)
    (can : s.canTake d = true) : s.submit d = s.takeUp d := by
  unfold State.submit
  rw [holds, queue, can]
  rfl

theorem submit_of_deferred {s : State} {d : Desc} (holds : (s.ring d.ring).holdsCommands = true)
    (waits : s.queuedOn d.ring = true ∨ s.canTake d = false) :
    s.submit d = { s with host := { s.host with waitq := s.host.waitq ++ [d] } } := by
  unfold State.submit
  rw [holds, if_neg (by decide)]
  rcases waits with queue | cannot
  · rw [queue, if_neg (by simp)]
  · rw [cannot, if_neg (by simp)]

theorem submit_of_other {s : State} {d : Desc} (other : (s.ring d.ring).holdsCommands = false) : s.submit d = s := by
  unfold State.submit
  rw [other]
  rfl

theorem takeUp_of_read {s : State} {d : Desc} (read : d.readOk = true) :
    s.takeUp d = (s.releaseEntry d.ring).runCommand .own (s.ring d.ring).pair none (s.ring d.ring).bufSize d := by
  unfold State.takeUp
  rw [read]
  rfl

theorem takeUp_of_unread {s : State} {d : Desc} (unread : d.readOk = false) : s.takeUp d = s.ringFail d.ring 6 := by
  unfold State.takeUp
  rw [unread]
  rfl

/-- A command that is judged on this device alone and waits for nothing reports. -/
theorem runCommand_ends {u : State} {cpl limit : Nat} {d : Desc} (here : (u.judge .own limit d).carry = [])
    (ends : (u.judge .own limit d).wait = none) :
    u.runCommand .own cpl none limit d = (u.judge .own limit d).s.report d cpl none (u.judge .own limit d).status
      (u.judge .own limit d).detail (u.judge .own limit d).ret false false
      ((u.judge .own limit d).s.t64At ((u.judge .own limit d).time.getD (u.judge .own limit d).s.now)) := by
  unfold State.runCommand
  generalize u.judge .own limit d = r at *
  dsimp only
  rw [here, if_neg (fun h => Bool.noConfusion h.2.1), ends]
  exact if_neg fun h => nomatch h.1

/-- One that waits is noted with what it waits for; its CPL ring owes a completion. -/
theorem runCommand_waits {u : State} {cpl limit : Nat} {d : Desc} {why : WaitFor} {marked : Bool}
    (here : (u.judge .own limit d).carry = []) (waits : (u.judge .own limit d).wait = some (why, marked)) :
    u.runCommand .own cpl none limit d = State.modRing { (u.judge .own limit d).s with
      host := { (u.judge .own limit d).s.host with
        waiting := (u.judge .own limit d).s.host.waiting ++ [⟨d, cpl, none, why, marked⟩] } } cpl
      (fun x => { x with owed := x.owed + 1 }) := by
  unfold State.runCommand
  generalize u.judge .own limit d = r at *
  dsimp only
  rw [here, if_neg (fun h => Bool.noConfusion h.2.1), waits]

theorem isRunning_iff {r : Ring} {k : Nat} : r.isRunning k = true ↔ r.st = .running ∧ r.kind.toNat = k := by
  unfold Ring.isRunning
  rw [Bool.and_eq_true, decide_eq_true_iff, beq_iff_eq]

theorem canTake_cmd {s : State} {d : Desc} (can : s.canTake d = true) : (s.ring d.ring).isRunning kCmd = true ∧ s.phase = .released := by
  unfold State.canTake State.takesCommands at can
  simp only [Bool.and_eq_true, decide_eq_true_eq] at can
  tauto

/-- Settles O49: each case of the take-up is one equation of `submit`; a judged command reports on the paired ring, or is noted. -/
theorem commandsTakenUp : Obligations.CommandsTakenUp := by
  intro s c d hs desc
  have he := exec_of_hostDesc desc s
  intro u cpl r
  refine ⟨fun takes here => ⟨fun ends => ?_, fun why marked waits => ?_⟩, fun holds waits => ?_, fun other => ?_,
    fun holds queue can unread => ?_⟩
  · obtain ⟨-, read, holds, queue, can⟩ := takesNow_iff.1 takes
    rw [submit_of_takes holds queue can, takeUp_of_read read, runCommand_ends here ends] at he
    change exec c s = done s (r.s.report d cpl none r.status r.detail r.ret false false (r.s.t64At (r.time.getD r.s.now))) at he
    have own : cpl ≠ cplLink := pair_ne_link _
    have only := report_completionOnly r.s d cpl r.status r.detail r.ret false false (r.s.t64At (r.time.getD r.s.now))
    obtain ⟨sent, reported⟩ := report_own r.s d own r.status r.detail r.ret (r.s.t64At (r.time.getD r.s.now))
    clear_value r cpl
    refine completes_of_done hs he ⟨framed_completionOnly only, fun put running runs room => ?_, fun left => ?_⟩
    · rw [reported]
      have out := completeOn_out (s := r.s.putBuf d (r.ret.take d.plen.toNat)) (cpl := cpl) put (by rw [putBuf_flags]; exact runs)
        (by rw [putBuf_ring]; exact running) (by rw [putBuf_ring]; exact room) r.detail (r.ret.take d.plen.toNat).length false false
        (r.s.t64At (r.time.getD r.s.now))
      rw [putBuf_ring] at out
      exact out
    · rw [reported, completeOn_of_left left]
      exact congrArg Ring.out (putBuf_ring ..)
  · obtain ⟨-, read, holds, queue, can⟩ := takesNow_iff.1 takes
    rw [submit_of_takes holds queue can, takeUp_of_read read, runCommand_waits here waits] at he
    exact completes_of_done hs he ⟨rfl, rfl⟩
  · rw [submit_of_deferred holds waits] at he
    exact completes_of_done hs he rfl
  · rw [submit_of_other other] at he
    exact completes_of_done hs he rfl
  · rw [submit_of_takes holds queue can, takeUp_of_unread unread] at he
    obtain ⟨cmd, released⟩ := canTake_cmd can
    exact completes_of_done hs he (ringFail_fails (lt_length_of_running (isRunning_iff.1 cmd).1) released 6)

end Sys2Proof.Proofs
end

section
/-! PROOF. OBJ_RUN of an input whose converter is being calibrated (R361, R412): the counterexample to O50. -/
namespace Sys2Proof.Proofs
open Sys2Proof Sys2Proof.Machine Sys2Proof.Laws

/-- A running CMD ring with one descriptor to take up, paired with ring 1. -/
def commandRing : Ring :=
  { Ring.reset with kind := BitVec.ofNat 4 kCmd, enable := true, st := .running, logBuf := 4, ctx := [0, 0, 1], dProd := 1 }

/-- A running CPL ring. -/
def completionRing : Ring := { Ring.reset with kind := BitVec.ofNat 4 kCpl, enable := true, st := .running }

/-- A converter's unit in the middle of a commanded run. -/
def measuredUnit : CalUnit := { CalUnit.reset 1 256 with run := some ⟨.command, .measuring, false, 0, 0, 0, 0, 0, 1⟩ }

/-- A device that takes commands from ring 0, with input A HELD after reset and its converter under measurement. -/
def calibratedInput : State :=
  { State.reset with
    phase := .released, atTick := true, boot := { State.reset.boot with ready := true },
    host := { State.reset.host with
      open_ := true, rings := [commandRing, completionRing] ++ List.replicate 62 Ring.reset },
    cal := { State.reset.cal with units := putAt 0 measuredUnit State.reset.cal.units } }

/-- OBJ_RUN of input A. -/
def runInput : Desc := { object := mkId 0xFF ⟨.conv, 0⟩ }

/-- The converter of input A is being calibrated after an outcome. -/
def calibrates : Out → Bool
  | .next t => (t.unit 0).run.isSome
  | _ => false

theorem runInput_accepted : calibratedInput.accepted (withOp opRun runInput) = true := by decide +kernel

theorem runInput_ends : calibrates (exec (.objRun runInput) calibratedInput) = false := by decide +kernel

/-- The command meets a HELD input that may run. -/
theorem runInput_ready : let u := calibratedInput.releaseEntry runInput.ring
    u.refOf runInput.object = some ⟨.conv, 0⟩ ∧ (u.life? ⟨.conv, 0⟩).isSome = true ∧ (u.life ⟨.conv, 0⟩).cmd = .held ∧
    (u.life ⟨.conv, 0⟩).laterHold u.now = false ∧ u.runCheck ⟨.conv, 0⟩ u.now = .ok ∧ (u.unit 0).run.isSome = true := by decide +kernel

/-- Refutes O50: OBJ_RUN of a HELD input ends the calibration run of its converter (R412), which lies outside the host's side. -/
theorem not_objectCommands : ¬ Obligations.ObjectCommands := by
  intro h
  obtain ⟨ref, held, cmd, hold, check, runs⟩ := runInput_ready
  obtain ⟨-, run, -⟩ := h.1 calibratedInput runInput ⟨.conv, 0⟩ ref
  obtain ⟨t, he, l, -, -, -, -, -, only⟩ := (run (by decide) held runInput_accepted).1 cmd hold (by decide) check
  have ended := runInput_ends
  rw [he] at ended
  have cal : t.cal = (calibratedInput.releaseEntry runInput.ring).cal := (congrArg State.cal only).trans rfl
  have same : (t.unit 0).run = ((calibratedInput.releaseEntry runInput.ring).unit 0).run :=
    congrArg (fun c : Cal => ((c.units[0]?).getD (CalUnit.reset 1 0)).run) cal
  rw [calibrates, same, runs] at ended
  exact nomatch ended

end Sys2Proof.Proofs
end

section
/-! PROOF. A host command that passes the checks before its own (R347, R376): what its row does with the result of its own. -/
namespace Sys2Proof.Proofs
open Sys2Proof Sys2Proof.Machine Sys2Proof.Laws

/-! ## Accepted commands -/

/-- What an accepted command has passed. -/
structure Accepted (s : State) (d : Desc) : Prop where
  takes : s.takesNow d = true
  known : opcodes.contains d.opcode.toNat = true
  fits : d.plen.toNat ≤ (s.ring d.ring).bufSize
  object : (s.releaseEntry d.ring).objectOk d.opcode.toNat d.object = true
  flags : flagsBad d = none
  checked : (s.releaseEntry d.ring).precheck .own d.opcode.toNat d.object = none
  here : (s.releaseEntry d.ring).idLocal d.object = true

theorem accepted_of {s : State} {d : Desc} (h : s.accepted d = true) : Accepted s d := by
  unfold State.accepted at h
  simp only [Bool.and_eq_true, decide_eq_true_eq, Option.isNone_iff_eq_none] at h
  obtain ⟨⟨⟨⟨⟨⟨takes, known⟩, fits⟩, object⟩, flags⟩, checked⟩, here⟩ := h
  exact ⟨takes, known, fits, object, flags, checked, here⟩

theorem Accepted.live {s : State} {d : Desc} (h : Accepted s d) : s.live := (takesNow_iff.1 h.takes).1

/-- An accepted command is carried out by its own meaning. -/
theorem Accepted.judge {s : State} {d : Desc} (h : Accepted s d) :
    (s.releaseEntry d.ring).judge .own (s.ring d.ring).bufSize d = (s.releaseEntry d.ring).runOp d d.opcode.toNat := by
  obtain ⟨-, known, fits, object, flags, checked, here⟩ := h
  unfold State.judge
  dsimp only
  rw [known, object, flags]
  dsimp only
  rw [checked]
  dsimp only
  rw [if_neg (by decide), if_neg (fun over_ => Nat.not_lt_of_le fits over_.2), if_neg (by decide), if_pos (.inl here)]

/-- The object of an accepted command is not closed, where its opcode asks for that. -/
theorem Accepted.open_ {s : State} {d : Desc} (h : Accepted s d) {q : Ref} (ref : (s.releaseEntry d.ring).refOf d.object = some q) :
    (s.releaseEntry d.ring).closedTarget d.opcode.toNat q = false ∧ (s.releaseEntry d.ring).specialTarget d.opcode.toNat q = false := by
  have checked := h.checked
  unfold State.precheck at checked
  rw [ref] at checked
  dsimp only at checked
  split at checked
  · exact nomatch checked
  · split at checked
    · exact nomatch checked
    · split at checked
      · exact nomatch checked
      next free => exact Bool.or_eq_false_iff.1 (Bool.eq_false_iff.2 free)

theorem Accepted.submit {s : State} {d : Desc} (h : Accepted s d) : s.submit d =
    (s.releaseEntry d.ring).runCommand .own (s.ring d.ring).pair none (s.ring d.ring).bufSize d := by
  obtain ⟨-, read, holds, queue, can⟩ := takesNow_iff.1 h.takes
  rw [submit_of_takes holds queue can, takeUp_of_read read]

/-! ## What a command leaves when it completes at once -/

/-- A completed command: its own result and the completion; the data returned stand in its parameter buffer. -/
structure Completed (r : CmdResult) (d : Desc) (t : State) : Prop where
  only : r.s.completionOnly t
  bufOut : t.host.bufOut = (r.s.putBuf d (r.ret.take d.plen.toNat)).host.bufOut
  sent : ∃ more, t.cas.sent = r.s.cas.sent ++ more

theorem ringSignal_bufOut (s : State) (i : Nat) : (s.ringSignal i).host.bufOut = s.host.bufOut := by
  unfold State.ringSignal
  dsimp only
  split <;> rfl

theorem ringCount_bufOut (s : State) (i : Nat) : (s.ringCount i).host.bufOut = s.host.bufOut := by
  unfold State.ringCount
  dsimp only
  split
  · split <;> rfl
  · rfl

theorem writeRecord_bufOut (s : State) (i key : Nat) (mk : Nat → Bool → Bool → List Byte) :
    (s.writeRecord i key mk).host.bufOut = s.host.bufOut := by
  unfold State.writeRecord
  dsimp only
  split
  · rfl
  · split <;> rfl

theorem completeOn_bufOut (s : State) (cpl : Nat) (d : Desc) (st : Status) (detail retLen : Nat) (waited remote : Bool) (time : Word64) :
    (s.completeOn cpl d st detail retLen waited remote time).host.bufOut = s.host.bufOut ∧
    (s.completeOn cpl d st detail retLen waited remote time).cas = s.cas := by
  unfold State.completeOn State.putRecord
  extract_lets mk v
  have written : v.host.bufOut = s.host.bufOut := writeRecord_bufOut ..
  have cas : v.cas = s.cas := hostOnly_cas (writeRecord_hostOnly ..)
  change (if _ then s else if _ then if _ then v else v.ringSignal cpl else if _ then v else v.ringCount cpl).host.bufOut = _ ∧
    (if _ then s else if _ then if _ then v else v.ringSignal cpl else if _ then v else v.ringCount cpl).cas = _
  clear_value v
  split
  · exact ⟨rfl, rfl⟩
  · split
    · split
      · exact ⟨written, cas⟩
      · exact ⟨(ringSignal_bufOut ..).trans written, (hostOnly_cas (ringSignal_hostOnly ..)).trans cas⟩
    · split
      · exact ⟨written, cas⟩
      · exact ⟨(ringCount_bufOut ..).trans written, (hostOnly_cas (ringCount_hostOnly ..)).trans cas⟩

theorem putBuf_cas (s : State) (d : Desc) (bytes : List Byte) : (s.putBuf d bytes).cas = s.cas := by
  unfold State.putBuf
  split <;> rfl

theorem report_completed (r : CmdResult) (d : Desc) {cpl : Nat} (own : cpl ≠ cplLink) (time : Word64) :
    Completed r d (r.s.report d cpl none r.status r.detail r.ret false false time) := by
  refine ⟨report_completionOnly .., ?_, ?_⟩
  all_goals
    unfold State.report
    dsimp only
    rw [if_neg own]
    have kept := completeOn_bufOut (r.s.putBuf d (r.ret.take d.plen.toNat)) cpl d r.status r.detail (r.ret.take d.plen.toNat).length false
      false time
    obtain ⟨bufOut, cas⟩ := kept
    generalize State.completeOn _ cpl d _ _ _ _ _ _ = v at *
  · split
    · exact bufOut
    · exact bufOut
  · have sent : v.cas.sent = r.s.cas.sent := congrArg Cas.sent (cas.trans (putBuf_cas ..))
    split
    · exact ⟨_, congrArg (· ++ _) sent⟩
    · exact ⟨[], sent.trans (List.append_nil _).symm⟩

/-- A host command's row whose own meaning decides here and waits for nothing. -/
theorem completes_of_result {s : State} {c : Instr} {d : Desc} {r : CmdResult} {p : State → Prop} (desc : hostDesc c = some d)
    (accepted : s.accepted d = true) (result : (s.releaseEntry d.ring).runOp d d.opcode.toNat = r) (here : r.carry = [])
    (ends : r.wait = none) (hp : ∀ t, Completed r d t → p (s.framed t)) : completes c s p := by
  have acc := accepted_of accepted
  have he := exec_of_hostDesc desc s
  have judged := acc.judge.trans result
  rw [acc.submit, runCommand_ends (by rw [judged]; exact here) (by rw [judged]; exact ends), judged] at he
  exact completes_of_done acc.live he (hp _ (report_completed r d (pair_ne_link _) _))

/-- The same where nothing but the completion is asked. -/
theorem completes_of_only {s : State} {c : Instr} {d : Desc} {r : CmdResult} (desc : hostDesc c = some d) (accepted : s.accepted d = true)
    (result : (s.releaseEntry d.ring).runOp d d.opcode.toNat = r) (here : r.carry = []) (ends : r.wait = none) :
    completes c s (State.completionOnly (s.framed r.s)) :=
  completes_of_result desc accepted result here ends fun _ done_ => framed_completionOnly done_.only

/-! ## What a command leaves that waits -/

/-- A command that waits: its own result, the command noted with what it waits for, and its CPL ring's debt. -/
structure Waits (r : CmdResult) (why : WaitFor) (marked : Bool) (t : State) : Prop where
  only : r.s.hostOnly t
  noted : ∃ w, w ∈ t.host.waiting ∧ w.why = why ∧ w.marked = marked

theorem completes_of_wait {s : State} {c : Instr} {d : Desc} {r : CmdResult} {why : WaitFor} {marked : Bool} {p : State → Prop}
    (desc : hostDesc c = some d) (accepted : s.accepted d = true) (result : (s.releaseEntry d.ring).runOp d d.opcode.toNat = r)
    (here : r.carry = []) (waits : r.wait = some (why, marked)) (hp : ∀ t, Waits r why marked t → p (s.framed t)) : completes c s p := by
  have acc := accepted_of accepted
  have he := exec_of_hostDesc desc s
  have judged := acc.judge.trans result
  rw [acc.submit, runCommand_waits (by rw [judged]; exact here) (by rw [judged]; exact waits), judged] at he
  refine completes_of_done acc.live he (hp _ ⟨rfl, ⟨d, (s.ring d.ring).pair, none, why, marked⟩, ?_, rfl, rfl⟩)
  exact List.mem_append_right _ (List.mem_singleton.2 rfl)

end Sys2Proof.Proofs
end

section
/-! PROOF. CAS_JOIN, CAS_LEAVE and CAS_EPOCH (R324, R330 to R333): O55. -/
namespace Sys2Proof.Proofs
open Sys2Proof Sys2Proof.Machine Sys2Proof.Laws

/-! ## The MODE of a descriptor -/

/-- A row's MODE stands in inline byte 0. -/
theorem inlByte_withMode (op : Nat) {m : Nat} (hm : m < 256) (d : Desc) : (withMode op m d).inlByte 0 = m := by
  refine Nat.eq_of_testBit_eq fun i => ?_
  rw [Desc.inlByte, BitVec.testBit_toNat, BitVec.getLsbD_extractLsb']
  by_cases low : i < 8
  · have mask : (fmaskOf 320 ⟨0, 8, 0, false, 0⟩).getLsbD i = true := by
      have all : ∀ j : Fin 8, (fmaskOf 320 ⟨0, 8, 0, false, 0⟩).getLsbD j = true := by decide +kernel
      exact all ⟨i, low⟩
    unfold withMode fset
    rw [BitVec.getLsbD_or, BitVec.getLsbD_and, BitVec.getLsbD_not, Nat.mul_zero, Nat.zero_add, mask, BitVec.getLsbD_ofNat]
    simp only [low, show i < 320 by omega, decide_true, Bool.not_true, Bool.and_false, Bool.false_or, Bool.true_and, Nat.shiftLeft_zero,
      show m % 2 ^ 8 = m from Nat.mod_eq_of_lt hm]
  · rw [decide_eq_false low, Bool.false_and]
    exact (Nat.testBit_eq_false_of_lt (hm.trans_le (Nat.pow_le_pow_right (n := 2) (by decide) (Nat.le_of_not_lt low)))).symm

/-! ## Data returned -/

/-- A block that fits PLEN stands whole in the parameter buffer. -/
theorem okData_bufOut {s : State} {e : Desc} {bytes : List Byte} (fits : bytes.length ≤ e.plen.toNat) (some_ : bytes ≠ []) {t : State}
    (done_ : Completed (s.okData e bytes) e t) : t.host.bufOut = s.host.bufOut ++ [(e.bufAddr, bytes)] := by
  have ret : ((s.okData e bytes).ret.take e.plen.toNat) = bytes := by
    show (bytes.take e.plen.toNat).take e.plen.toNat = bytes
    rw [List.take_of_length_le fits, List.take_of_length_le fits]
  rw [done_.bufOut, ret]
  show (s.putBuf e bytes).host.bufOut = _
  unfold State.putBuf
  rw [if_neg (by rw [List.isEmpty_iff]; exact some_)]

theorem releaseEntry_bufOut (s : State) (i : Nat) : (s.releaseEntry i).host.bufOut = s.host.bufOut := ringCount_bufOut ..

/-- A block of a given length other than 0 is none of the empty ones. -/
theorem ne_nil_of_length {bytes : List Byte} {n : Nat} (h : bytes.length = n + 1) : bytes ≠ [] := fun e => by
  rw [e] at h
  exact nomatch h

/-! ## The cascade's commands -/

theorem casStatus_length (s : State) : s.casStatus.length = 160 := by
  unfold State.casStatus
  simp [leBytes_length, zeros]

/-- What an identifier's reference says of its fields. -/
theorem idRef_spec {i : Id} {r : Ref} (h : idRef i = some r) : idKind i = r.kind.code ∧ idIdx i = r.idx ∧ r.idx < r.kind.count := by
  unfold idRef at h
  split at h
  · exact nomatch h
  next k code =>
    split at h
    next inside =>
      cases h
      exact ⟨(beq_iff_eq.1 (List.find?_some (p := fun k : Kind => k.code == idKind i) code)).symm, rfl, inside⟩
    · exact nomatch h

theorem idRef_of_refOf {s : State} {i : Id} {r : Ref} (h : s.refOf i = some r) : idRef i = some r := by
  unfold State.refOf at h
  split at h
  · exact h
  · exact nomatch h

/-- What an accepted opcode says of its object. -/
theorem objectOk_spec {u : State} {op : Nat} {i : Id} (ok : u.objectOk op i = true) :
    ∃ r, idRef i = some r ∧ opAccepts op r = true ∧ (idDev i = 0xFF ∨ u.memberPresent (idDev i) = true) := by
  unfold State.objectOk State.idValid at ok
  cases ref : idRef i with
  | none =>
    rw [ref] at ok
    exact nomatch ok
  | some r =>
    rw [ref] at ok
    simp only [Option.isSome_some, Bool.true_and, Bool.and_eq_true, Bool.or_eq_true, beq_iff_eq] at ok
    exact ⟨r, rfl, ok.2, ok.1⟩

theorem opCasLeave_device {r : Ref} (accepts : opAccepts opCasLeave r = true) : r.kind = .device := by
  obtain ⟨kind, i⟩ := r
  cases kind
  case device => rfl
  all_goals exact nomatch accepts

/-- The identifier of the device has no kind and no index. -/
theorem device_of_idRef {i : Id} {r : Ref} (h : idRef i = some r) (device : r.kind = .device) : i.toNat % 2 ^ 24 = 0 := by
  obtain ⟨kind, idx, inside⟩ := idRef_spec h
  rw [device] at kind inside
  unfold idKind at kind
  unfold idIdx at idx
  change _ = 0 at kind
  change _ < 1 at inside
  omega

theorem casJoin_refused {u : State} {d : Desc} (busy : u.dataRuns = true) : (cmdCasJoin d u).s = u ∧ (cmdCasJoin d u).carry = [] ∧
    (cmdCasJoin d u).wait = none := by
  unfold cmdCasJoin
  dsimp only
  split
  · exact ⟨rfl, rfl, rfl⟩
  · split
    · exact ⟨rfl, rfl, rfl⟩
    · split
      · exact ⟨rfl, rfl, rfl⟩
      · split
        · exact ⟨rfl, rfl, rfl⟩
        · split
          · exact ⟨rfl, rfl, rfl⟩
          · rw [if_pos (.inr busy)]
            exact ⟨rfl, rfl, rfl⟩

/-- A change of the cascade's state, completed. -/
theorem completionOnly_modCas {s u t : State} {f : Cas → Cas} (h : (u.modCas f).completionOnly t) :
    State.completionOnly (s.framed { u with cas := t.cas }) (s.framed t) := by
  unfold State.completionOnly State.framed State.modCas at *
  rw [h]

theorem cas_of_modCas {u t : State} {f : Cas → Cas} (h : (u.modCas f).completionOnly t) : t.cas = { f u.cas with sent := t.cas.sent } :=
  congrArg State.cas h

/-- A device that begins to join. -/
def joining (d : Desc) (u : State) (c : Cas) : Cas :=
  { Cas.reset with
    sent := c.sent, st := .joining, ring := d.inlByte 1 == 1, mute := d.inlByte 2 == 1, protect := (d.inlByte 3).testBit 0,
    form := (d.inlByte 3).testBit 1, waitEnd := u.tick + d.inlAt 4 2,
    up := { HhlSt.reset with asked := (d.inlByte 0).testBit 0 }, dn := { HhlSt.reset with asked := (d.inlByte 0).testBit 1 } }

theorem casJoin_of_idle {u : State} {d : Desc} (object : d.object = 0xFF000000) (ports : d.inlByte 0 % 4 ≠ 0) (ring : d.inlByte 1 ≤ 1)
    (mute : d.inlByte 2 ≤ 1) (wait : 16 ≤ d.inlAt 4 2) (alone : u.cas.st = .alone) (idle : u.dataRuns = false) :
    cmdCasJoin d u = (u.modCas (joining d u)).okCmd := by
  unfold cmdCasJoin
  dsimp only
  rw [if_neg (fun h => h object), if_neg ports, if_neg (Nat.not_lt_of_le ring), if_neg (Nat.not_lt_of_le mute),
    if_neg (Nat.not_lt_of_le wait), if_neg (fun h => h.elim (fun n => n alone) fun busy => by rw [idle] at busy; exact nomatch busy)]
  rfl

theorem casLeave_of_member {u : State} {d : Desc} (object : d.object.toNat % 2 ^ 24 = 0)
    (present : idDev d.object = 0xFF ∨ u.memberPresent (idDev d.object) = true) (member : u.cas.st = .member)
    (here : u.idLocal d.object = true) : ∃ sent, cmdCasLeave d u =
      (u.modCas (fun c => { c with sent := sent, leaveAt := some (u.now + perTick) })).okAt (u.now + perTick) := by
  unfold cmdCasLeave
  dsimp only
  rw [if_neg (fun h => h object), if_neg (fun h => present.elim h.1 fun p => by rw [p] at h; exact nomatch h.2), if_neg (fun h => h member),
    if_pos here]
  split
  · exact ⟨_, rfl⟩
  · exact ⟨u.cas.sent, rfl⟩

theorem casEpoch_of_mode {u : State} {d : Desc} {m : Nat} (mode : d.inlByte 0 = m) :
    (m = 0 → cmdCasEpoch d u = cmdEpochStatus d u) ∧ (m = 1 → cmdCasEpoch d u = cmdEpochAdvance d u) ∧
    (m = 2 → cmdCasEpoch d u = cmdEpochResync d u) := by
  unfold cmdCasEpoch
  rw [mode]
  exact ⟨fun h => by rw [h]; rfl, fun h => by rw [h]; rfl, fun h => by rw [h]; rfl⟩

theorem epochStatus_of_master {u : State} {d : Desc} (master : u.isMaster = true) (room : 160 ≤ d.plen.toNat) :
    cmdEpochStatus d u = u.okData d u.casStatus := by
  unfold cmdEpochStatus
  rw [master, if_neg (by decide), if_neg (Nat.not_lt_of_le room)]

theorem epochAdvance_of_idle {u : State} (none_ : u.cas.next = none) (tables : CasTables) : u.epochAdvance tables =
    u.modCas (fun c => { c with
      next := some ⟨(c.epoch + 1) % 2 ^ 32, u.clapTick + 8, tables⟩, sent := c.sent ++ [.tables tables ((c.epoch + 1) % 2 ^ 32)] }) := by
  unfold State.epochAdvance
  rw [none_]

theorem epochAdvance_of_master {u : State} {d : Desc} (master : u.isMaster = true) (most : d.plen.toNat ≤ 1024) (whole : d.plen.toNat % 16 = 0)
    (none_ : u.cas.next = none) (good : u.itemsBad d.bytes (d.plen.toNat / 16) 0 [] = none)
    (fit : u.itemsFit ((List.range (d.plen.toNat / 16)).map (fun i => (itemOf d.bytes i).2)) = true) :
    cmdEpochAdvance d u =
      (u.epochAdvance { u.cas.tables with items := (List.range (d.plen.toNat / 16)).map (fun i => (itemOf d.bytes i).2) }).okCmd := by
  unfold cmdEpochAdvance
  dsimp only
  rw [master, if_neg (by decide), if_neg (Nat.not_lt_of_le most), if_neg (fun h => h whole), none_, if_neg (by decide), good]
  dsimp only
  rw [fit, if_neg (by decide)]

theorem epochResync_of_master {u : State} {d : Desc} (master : u.isMaster = true) :
    cmdEpochResync d u = (u.modCas (fun c => { c with sent := c.sent ++ [.tables c.tables c.epoch] })).okCmd := by
  unfold cmdEpochResync
  rw [master, if_neg (by decide)]

theorem casEpoch_mode {u : State} (m : Nat) (hm : m < 256) (d : Desc) :
    u.runOp (withMode opCasEpoch m d) (withMode opCasEpoch m d).opcode.toNat = cmdCasEpoch (withMode opCasEpoch m d) u ∧
    (withMode opCasEpoch m d).inlByte 0 = m := ⟨rfl, inlByte_withMode _ hm d⟩

theorem completionOnly_leaving (u : State) (sent : List LinkItem) :
    State.completionOnly { u with cas := { u.cas with leaveAt := some (u.now + perTick) } }
      (u.modCas (fun c => { c with sent := sent, leaveAt := some (u.now + perTick) })) := rfl

theorem completionOnly_sending (u : State) (f : Cas → List LinkItem) :
    u.completionOnly (u.modCas (fun c => { c with sent := f c })) := rfl

/-- What the master's announcement of new item tables leaves. -/
theorem announced_of_completed {s u t : State} {tables : CasTables} (none_ : u.cas.next = none)
    (only : (u.epochAdvance tables).completionOnly t) :
    t.cas.next = some ⟨(u.cas.epoch + 1) % 2 ^ 32, u.clapTick + 8, tables⟩ ∧ t.cas.epoch = u.cas.epoch ∧ t.cas.tables = u.cas.tables ∧
    State.completionOnly (s.framed { u with cas := t.cas }) (s.framed t) := by
  rw [epochAdvance_of_idle none_] at only
  have cas := cas_of_modCas only
  exact ⟨(congrArg Cas.next cas).trans rfl, (congrArg Cas.epoch cas).trans rfl, (congrArg Cas.tables cas).trans rfl, completionOnly_modCas only⟩

/-- Settles O55: each command's checks pass, and its equation gives the cascade's state; the service channel alone differs. -/
theorem cascadeActions : Obligations.CascadeActions := by
  intro s d u
  refine ⟨fun acc object ports ring mute wait alone => ⟨fun idle => ?_, fun busy => ?_⟩, fun acc member => ?_, fun acc master room => ?_,
    fun acc master most whole none_ good => ?_,
    fun acc master => ?_⟩
  · refine completes_of_result (c := .casJoin d) rfl acc (casJoin_of_idle (u := u) object ports ring mute wait alone idle) rfl rfl
      fun t done_ => ?_
    have cas := cas_of_modCas done_.only
    exact ⟨congrArg Cas.st cas, congrArg Cas.waitEnd cas, congrArg (fun c : Cas => c.up.asked) cas, congrArg (fun c : Cas => c.dn.asked) cas,
      congrArg Cas.form cas, congrArg Cas.mute cas, completionOnly_modCas (t := t) done_.only⟩
  · obtain ⟨same, here, ends⟩ := casJoin_refused (d := withOp opCasJoin d) busy
    have only := completes_of_only (c := .casJoin d) rfl acc rfl here ends
    rw [show ((s.releaseEntry (withOp opCasJoin d).ring).runOp (withOp opCasJoin d) (withOp opCasJoin d).opcode.toNat).s = u from same] at only
    exact only
  · have accepted := accepted_of acc
    obtain ⟨r, ref, accepts, present⟩ := objectOk_spec accepted.object
    obtain ⟨sent, leaves⟩ := casLeave_of_member (d := withOp opCasLeave d) (u := u) (device_of_idRef ref (opCasLeave_device accepts)) present
      member accepted.here
    exact completes_of_result (c := .casLeave d) rfl acc leaves rfl rfl fun t done_ =>
      framed_completionOnly (completionOnly_trans (completionOnly_leaving u sent) done_.only)
  · obtain ⟨run, mode⟩ := casEpoch_mode (u := u) 0 (by decide) d
    have result := run.trans (((casEpoch_of_mode mode).1 rfl).trans (epochStatus_of_master master room))
    refine completes_of_result (c := .casEpochStatus d) rfl acc result rfl rfl fun t done_ => ⟨framed_completionOnly done_.only, ?_⟩
    rw [framed_host, okData_bufOut (by rw [casStatus_length]; exact room) (ne_nil_of_length (casStatus_length u)) done_,
      releaseEntry_bufOut]
    rfl
  · obtain ⟨run, mode⟩ := casEpoch_mode (u := u) 1 (by decide) d
    intro items fit
    have result := run.trans (((casEpoch_of_mode mode).2.1 rfl).trans (epochAdvance_of_master master most whole none_ good fit))
    exact completes_of_result (c := .casEpochAdvance d) rfl acc result rfl rfl fun t done_ => announced_of_completed (t := t) none_ done_.only
  · obtain ⟨run, mode⟩ := casEpoch_mode (u := u) 2 (by decide) d
    have result := run.trans (((casEpoch_of_mode mode).2.2 rfl).trans (epochResync_of_master master))
    refine completes_of_result (c := .casEpochResync d) rfl acc result rfl rfl fun t done_ => ?_
    obtain ⟨more, sent⟩ := done_.sent
    refine ⟨?_, framed_completionOnly (completionOnly_trans (completionOnly_sending u _) done_.only)⟩
    rw [framed_cas, sent]
    show _ ∈ ((u.cas.sent ++ [LinkItem.tables u.cas.tables u.cas.epoch]) ++ more).drop u.cas.sent.length
    rw [List.append_assoc, List.drop_left]
    exact List.mem_append_left _ (List.mem_singleton.2 rfl)

end Sys2Proof.Proofs
end

section
/-! PROOF. Captures, the sweep and inserts by command (R100, R103, R214 to R219, R272, R273): O54. -/
namespace Sys2Proof.Proofs
open Sys2Proof Sys2Proof.Machine Sys2Proof.Laws

/-! ## Captures -/

section
variable {s u v t : State}

theorem completionOnly_cap_eq (k : v.completionOnly t) : t.cap = v.cap := by
  unfold State.completionOnly at k
  rw [k]

theorem hostSideOnly_cap (h : State.hostSideOnly { u with cap := v.cap } v) (k : v.completionOnly t) :
    State.hostSideOnly (s.framed { u with cap := t.cap }) (s.framed t) := by
  rw [completionOnly_cap_eq k]
  exact framed_hostSideOnly (hostSideOnly_trans h (hostSideOnly_of_completionOnly k))

theorem completionOnly_cap (h : State.completionOnly { u with cap := v.cap } v) (k : v.completionOnly t) :
    State.completionOnly (s.framed { u with cap := t.cap }) (s.framed t) := by
  rw [completionOnly_cap_eq k]
  exact framed_completionOnly (completionOnly_trans h k)

theorem life_of_cap (h : t.cap = v.cap) (c : Nat) : t.life ⟨.cap, c⟩ = v.life ⟨.cap, c⟩ := by
  unfold State.life State.life?
  dsimp only
  rw [h]

theorem capR_of_cap (h : t.cap = v.cap) (c : Nat) : t.capR c = v.capR c := by
  unfold State.capR
  rw [h]

theorem modCap_capR_self {c : Nat} (h : c < u.cap.length) (f : CapRun → CapRun) : (u.modCap c f).capR c = f (u.capR c) :=
  runOf_withRun_self f h _

theorem modLife_cap_length (u : State) (c : Nat) (f : Life → Life) : (u.modLife ⟨.cap, c⟩ f).cap.length = u.cap.length :=
  modAt_length ..

theorem life?_isSome_of_cap {c : Nat} (h : c < u.cap.length) : (u.life? ⟨.cap, c⟩).isSome = true := by
  unfold State.life?
  dsimp only
  rw [List.getElem?_eq_getElem h]
  rfl

end

/-- A capture's run as CAP_START leaves it. -/
def startedCap (d : Desc) (first : Nat) : CapRun :=
  ⟨BitVec.ofNat 32 (d.inlAt 0 4), d.inlAt 4 2, (d.inlByte 6).testBit 0, d.inlByte 7, d.inlByte 8, first, d.inlAt 12 4, 0, 0, 0, false, none⟩

/-- The state that CAP_START leaves. -/
def capStarted (d : Desc) (first : Nat) (u : State) : State :=
  let c := idIdx d.object
  ((u.modLife ⟨.cap, c⟩ (fun l => { l with cmd := .run, eff := .run })).modCap c (fun _ => startedCap d first)).restartStream (capKey c)

theorem capStart_of_ready {u : State} {d : Desc} {p : Nat} (source : u.refOf (BitVec.ofNat 32 (d.inlAt 0 4)) = some ⟨.pass, p⟩)
    (open_ : (u.life ⟨.pass, p⟩).cmd ≠ .closed) (exp : d.inlByte 7 ≤ 15 ∨ (d.inlByte 6).testBit 0 = false) (ring : d.inlByte 8 ≤ 63)
    (kind : (u.ring (d.inlByte 8)).kind.toNat = kIqcap)
    (mode : d.inlByte 9 = 0 ∨ (d.inlByte 9 = 1 ∧ u.index ≤ d.inlAt 16 8 ∧ d.inlAt 16 8 ≤ u.index + 2 ^ 26))
    (idle : (u.life ⟨.cap, idIdx d.object⟩).cmd ≠ .run)
    (room : capMost (u.life ⟨.pass, p⟩).blk ((List.range 16).filter (fun j => (if d.inlAt 4 2 = 0 then 2 ^ streamsOf (u.life ⟨.pass, p⟩).blk - 1
      else d.inlAt 4 2 &&& (2 ^ streamsOf (u.life ⟨.pass, p⟩).blk - 1)).testBit j)).length ((d.inlByte 6).testBit 0) ≤
      (u.ring (d.inlByte 8)).bufSize) : ∃ first, cmdCapStart d u = (capStarted d first u).okCmd := by
  unfold cmdCapStart
  extract_lets c src streams ring_ mode_ idx exp16 inWindow
  rw [show u.refOf src = some ⟨.pass, p⟩ from source]
  dsimp only
  refine ⟨if d.inlByte 9 = 1 then ceilDiv (d.inlAt 16 8 * perSample) perFrame else ceilDiv u.now perFrame, ?_⟩
  rw [if_neg open_, if_neg (fun bad => exp.elim (fun low => Nat.not_lt_of_le low bad.1) fun off => by rw [show exp16 = false from off] at bad; exact nomatch bad.2),
    if_neg (fun bad => bad.elim (Nat.not_lt_of_le ring) fun n => n kind),
    if_neg (fun bad => mode.elim (fun m => by rw [show mode_ = 0 from m] at bad; exact nomatch bad)
      fun m => by rw [show mode_ = 1 from m.1] at bad; exact absurd bad (by decide)),
    if_neg (fun bad => mode.elim (fun m => by rw [show mode_ = 0 from m] at bad; exact nomatch bad.1)
      fun m => by rw [show inWindow = true from decide_eq_true m.2] at bad; exact nomatch bad.2),
    if_neg idle, if_neg (Nat.not_lt_of_le room)]
  rfl

theorem capStarted_spec {u : State} {d : Desc} (first : Nat) (inside : idIdx d.object < u.cap.length) :
    ((capStarted d first u).life ⟨.cap, idIdx d.object⟩).cmd = .run ∧ ((capStarted d first u).life ⟨.cap, idIdx d.object⟩).eff = .run ∧
    (capStarted d first u).capR (idIdx d.object) = startedCap d first ∧
    State.hostSideOnly { u with cap := (capStarted d first u).cap } (capStarted d first u) := by
  have life := (modCap_life (s := u.modLife ⟨.cap, idIdx d.object⟩ (fun l => { l with cmd := .run, eff := .run }))
    (i := idIdx d.object) (fun _ => startedCap d first) ⟨.cap, idIdx d.object⟩).trans (modLife_life_self (life?_isSome_of_cap inside) _)
  have run := modCap_capR_self (u := u.modLife ⟨.cap, idIdx d.object⟩ (fun l => { l with cmd := .run, eff := .run }))
    (by rw [modLife_cap_length]; exact inside) (fun _ => startedCap d first)
  exact ⟨congrArg Life.cmd life, congrArg Life.eff life, run, rfl⟩

theorem capStop_of_idle {u : State} {c : Nat} (idle : u.cmdRun .cap c = false) : u.capStop c = u := by
  unfold State.capStop
  dsimp only
  rw [idle]
  rfl

theorem capStop_spec {u : State} {c : Nat} (runs : u.cmdRun .cap c = true) :
    (((u.capStop c).life ⟨.cap, c⟩).cmd = .held ∨ ((u.capStop c).capR c).stopping = true) ∧
    State.completionOnly { u with cap := (u.capStop c).cap } (u.capStop c) := by
  have cmd : (u.life ⟨.cap, c⟩).cmd = .run := beq_iff_eq.1 runs
  have inList : (u.life? ⟨.cap, c⟩).isSome = true := life?_isSome_of_cmd (by rw [cmd]; decide)
  unfold State.capStop
  extract_lets r live
  rw [runs, if_neg (by decide)]
  split
  · refine ⟨.inr ?_, rfl⟩
    rw [modCap_capR_self (lt_of_life_isSome inList)]
  · refine ⟨.inl ?_, rfl⟩
    rw [modLife_life_self inList]
    unfold Life.capHeld
    rw [if_neg (by rw [cmd]; decide)]

theorem capStart_completes {s : State} {d : Desc} {first : Nat} (accepted : s.accepted (withOp opCapStart d) = true)
    (result : cmdCapStart (withOp opCapStart d) (s.releaseEntry d.ring) =
      (capStarted (withOp opCapStart d) first (s.releaseEntry d.ring)).okCmd)
    (inside : idIdx d.object < (s.releaseEntry d.ring).cap.length) :
    completes (.capStart d) s (fun t =>
      (t.life ⟨.cap, idIdx d.object⟩).cmd = .run ∧ (t.life ⟨.cap, idIdx d.object⟩).eff = .run ∧
      (t.capR (idIdx d.object)).source = BitVec.ofNat 32 (d.inlAt 0 4) ∧ (t.capR (idIdx d.object)).streams = d.inlAt 4 2 ∧
      (t.capR (idIdx d.object)).ring = d.inlByte 8 ∧ (t.capR (idIdx d.object)).count = d.inlAt 12 4 ∧
      (t.capR (idIdx d.object)).done = 0 ∧ State.hostSideOnly (s.framed { s.releaseEntry d.ring with cap := t.cap }) t) := by
  refine completes_of_result (c := .capStart d) rfl accepted result rfl rfl fun t done_ => ?_
  obtain ⟨cmd, eff, run, frame⟩ := capStarted_spec (d := withOp opCapStart d) first inside
  have cap : t.cap = (capStarted (withOp opCapStart d) first (s.releaseEntry d.ring)).cap := completionOnly_cap_eq done_.only
  have life := life_of_cap (t := s.framed t) cap (idIdx d.object)
  have runs := (capR_of_cap (t := s.framed t) cap (idIdx d.object)).trans run
  rw [life, runs]
  exact ⟨cmd, eff, rfl, rfl, rfl, rfl, rfl, hostSideOnly_cap (t := t) frame done_.only⟩

/-! ## The sweep by command -/

/-- The sweep that SWEEP_START begins, before a grant. -/
def startedSweep (d : Desc) (u : State) : Sweep :=
  { Sweep.reset with
    st := .waitGrant, ring := d.inlByte 0, prio := (d.inlByte 1).testBit 0, level := d.inlByte 2, avg := d.inlByte 3,
    coupling := d.inlAt 4 2, srcLoss := d.inlAt 6 2, waitEnd := u.now + fget u.tx.profile txCxWait * 983040 }

/-- The state that SWEEP_START leaves, before a grant. -/
def sweepAsked (d : Desc) (segs : List Segment) (u : State) : State :=
  let en := fbit u.tx.profile txCxEn
  let v : State := { u with tx := { u.tx with sweep := startedSweep d u, cxReq := en, cxPrio := en && (startedSweep d u).prio } }
  v.modAlo 1 (fun x => { x with ramp := segs, seg := 0 })

theorem sweepStart_of_ready {u : State} {d : Desc} {g : Segment} {gs : List Segment} (segs : rampOf 64 d.bytes = g :: gs)
    (ring : d.inlByte 0 ≤ 63) (kind : (u.ring (d.inlByte 0)).kind.toNat = kIqcap) (level : d.inlByte 2 ≤ 80) (least : 6 ≤ d.inlByte 3)
    (most : d.inlByte 3 ≤ 14) (some_ : 12 ≤ d.plen.toNat) (fits : d.plen.toNat ≤ 768) (whole : d.plen.toNat % 12 = 0)
    (room : 416 ≤ (u.ring (d.inlByte 0)).bufSize) (passes : (g :: gs).all (fun x => x.passes 30000000 245000000) = true)
    (lband : fbit (u.life ⟨.conv, 3⟩).blk cvLband = false) (runs : (u.life ⟨.conv, 3⟩).cmd = .run) (idle : u.sweeping = false)
    (lo : u.loMode = false ∨ (u.anyCarrier = false ∧ u.tx.claim = none)) :
    cmdSweepStart d u =
      { (if !fbit u.tx.profile txCxEn || (sweepAsked d (g :: gs) u).tx.cxGnt then (sweepAsked d (g :: gs) u).sweepGo
          else sweepAsked d (g :: gs) u).okCmd with wait := some (.sweep, true) } := by
  unfold cmdSweepStart
  extract_lets b ring_ segs_ lo_
  have all : (indexed 0 (g :: gs)).find? (fun x => !x.2.passes 30000000 245000000) = none := by
    rw [List.find?_eq_none]
    intro x mem
    have ok := List.all_eq_true.1 passes x.2 (mem_indexed mem)
    rw [ok]
    decide
  have free : lo_ = false := by
    obtain h | ⟨carrier, claim⟩ := lo
    · show (u.loMode && _) = false
      rw [h, Bool.false_and]
    · show (u.loMode && (u.anyCarrier || u.tx.claim.isSome)) = false
      rw [carrier, claim, Option.isSome_none, Bool.or_self, Bool.and_false]
  have none_ : segs_ = g :: gs := segs
  clear_value segs_ lo_
  subst none_
  subst free
  rw [if_neg (fun bad => bad.elim (Nat.not_lt_of_le ring) fun n => n kind), if_neg (Nat.not_lt_of_le level),
    if_neg (fun bad => bad.elim (Nat.not_lt_of_le least) (Nat.not_lt_of_le most)),
    if_neg (fun bad => bad.elim (Nat.not_lt_of_le fits) (Nat.not_lt_of_le room)),
    if_neg (fun bad => bad.elim (Nat.not_lt_of_le some_) fun n => n whole), if_neg (by rw [List.isEmpty_cons]; decide), all]
  dsimp only
  rw [lband, runs, idle, if_neg (by decide)]
  rfl

theorem sweepStart_completes {s v : State} {d : Desc}
    (accepted : s.accepted (withOp opSweep d) = true)
    (result : cmdSweepStart (withOp opSweep d) (s.releaseEntry d.ring) = { v.okCmd with wait := some (.sweep, true) })
    {p : State → Prop} (hp : ∀ t, v.hostOnly t → (∃ w, w ∈ t.host.waiting ∧ w.why = .sweep) → p (s.framed t)) :
    completes (.sweepStart d) s p :=
  completes_of_wait (c := .sweepStart d) rfl accepted result rfl rfl fun t waits => hp t waits.only <| by
    obtain ⟨w, mem, why, -⟩ := waits.noted
    exact ⟨w, mem, why⟩

theorem captureCommands : Rules.CaptureCommands := by
  intro s d u
  refine ⟨fun p acc source => ?_, fun acc => ⟨fun runs => ?_, fun idle => ?_⟩,
    fun g gs acc segs ring kind level least most some_ fits whole room passes lband runs idle lo => ⟨fun enabled none_ => ?_, fun off => ?_⟩⟩
  · intro c b avail exp16 n open_ exp ring kind mode idle room inside
    obtain ⟨first, result⟩ := capStart_of_ready (d := withOp opCapStart d) source open_ exp ring kind mode idle room
    exact capStart_completes acc result inside
  · refine completes_of_result (c := .capStop d) rfl acc rfl rfl rfl fun t done_ => ?_
    obtain ⟨ends, frame⟩ := capStop_spec runs
    have cap : t.cap = (u.capStop (idIdx d.object)).cap := completionOnly_cap_eq done_.only
    rw [life_of_cap (t := s.framed t) cap, capR_of_cap (t := s.framed t) cap]
    exact ⟨ends, completionOnly_cap (t := t) frame done_.only⟩
  · exact completes_of_only (c := .capStop d) rfl acc (congrArg State.okCmd (capStop_of_idle idle)) rfl rfl
  · have result := sweepStart_of_ready (d := withOp opSweep d) segs ring kind level least most some_ fits whole room passes lband runs idle lo
    rw [enabled, show (sweepAsked (withOp opSweep d) (g :: gs) u).tx.cxGnt = false from none_, if_neg (by decide)] at result
    refine sweepStart_completes acc result fun t only waits => ?_
    have tx := hostOnly_tx only
    have alo := hostOnly_aloTx only
    refine ⟨?_, ?_, ?_, ?_, waits⟩
    · rw [framed_tx, tx]
      rfl
    · rw [framed_tx, tx]
      exact enabled
    · rw [framed_tx, tx]
      show (fbit u.tx.profile txCxEn && _) = _
      rw [enabled]
      rfl
    · rw [framed_aloTx, alo]
      rfl
  · have result := sweepStart_of_ready (d := withOp opSweep d) segs ring kind level least most some_ fits whole room passes lband runs idle lo
    rw [off, Bool.not_false, Bool.true_or, if_pos rfl, sweepGo_of_ramp (g := g) (gs := gs) rfl] at result
    refine sweepStart_completes acc result fun t only waits => ?_
    have target := aloTarget_retargets ({ sweepAsked (withOp opSweep d) (g :: gs) u with tx := { (sweepAsked (withOp opSweep d) (g :: gs) u).tx with
      sweep := { (sweepAsked (withOp opSweep d) (g :: gs) u).tx.sweep with st := .waitLock } } } : State) 1 g.startHz
        ((sweepAsked (withOp opSweep d) (g :: gs) u).idOf .alo 1)
    have kept := tunesOnly_tx (aloTarget_tunesOnly ({ sweepAsked (withOp opSweep d) (g :: gs) u with tx := {
      (sweepAsked (withOp opSweep d) (g :: gs) u).tx with
      sweep := { (sweepAsked (withOp opSweep d) (g :: gs) u).tx.sweep with st := .waitLock } } } : State) 1 g.startHz
        ((sweepAsked (withOp opSweep d) (g :: gs) u).idOf .alo 1))
    generalize State.aloTarget _ 1 g.startHz ((sweepAsked (withOp opSweep d) (g :: gs) u).idOf .alo 1) = r at *
    have tx := (hostOnly_tx only).trans kept
    have alo := hostOnly_aloTx only
    refine ⟨?_, ?_, ?_, ?_, waits⟩
    · rw [framed_tx, tx]
    · rw [framed_tx, tx]
      exact off
    · rw [framed_aloTx, alo]
      exact target.freq
    · rw [framed_aloTx, alo]
      exact target.ramp

/-! ## Inserts by command -/

section
variable {s u v t : State}

theorem completionOnly_inserts_eq (k : v.completionOnly t) : t.inserts = v.inserts := by
  unfold State.completionOnly at k
  rw [k]

theorem completionOnly_inserts (h : State.completionOnly { u with inserts := v.inserts } v) (k : v.completionOnly t) :
    State.completionOnly (s.framed { u with inserts := t.inserts }) (s.framed t) := by
  rw [completionOnly_inserts_eq k]
  exact framed_completionOnly (completionOnly_trans h k)

theorem insertR_of_inserts (h : t.inserts = v.inserts) (i : Nat) : t.insertR i = v.insertR i := by
  unfold State.insertR
  rw [h]

end

/-- The programmes of a new insert leave the starts of the others. -/
def unstarted (ps : List Nat) (u : State) : State :=
  (List.range 8).foldl (fun s j => s.modInsert j (fun n => { n with starting := n.starting.filter (fun p => !ps.contains p) })) u

/-- Only the inserts differ, and their number is the same. -/
def insertsOnly (s t : State) : Prop := t = { s with inserts := t.inserts } ∧ t.inserts.length = s.inserts.length

theorem unstarted_insertsOnly (ps : List Nat) (u : State) : insertsOnly u (unstarted ps u) := by
  refine foldl_keeps insertsOnly (fun _ => ⟨rfl, rfl⟩) (fun a b c h k => ?_) _ (fun a j => ⟨rfl, modAt_length ..⟩) _ u
  obtain ⟨same, len⟩ := h
  obtain ⟨same', len'⟩ := k
  exact ⟨by rw [same', same], len'.trans len⟩

/-- The state that INSERT_START leaves. -/
def insertStarted (d : Desc) (ps : List Nat) (u : State) : State :=
  (unstarted ps u).modInsert (d.inlByte 0) (fun _ => { Insert.reset with
    active := true, inl := d.inl, text := d.bytes, startAt := some (alignNext perAlign u.now), starting := ps })

theorem insertStarted_insertR {u : State} {d : Desc} (inside : d.inlByte 0 < u.inserts.length) (ps : List Nat) :
    (insertStarted d ps u).insertR (d.inlByte 0) = { Insert.reset with
      active := true, inl := d.inl, text := d.bytes, startAt := some (alignNext perAlign u.now), starting := ps } :=
  modInsert_insertR_self (by rw [(unstarted_insertsOnly ps u).2]; exact inside) _

theorem insertStarted_completionOnly (d : Desc) (ps : List Nat) (u : State) :
    State.completionOnly { u with inserts := (insertStarted d ps u).inserts } (insertStarted d ps u) := by
  have only := (unstarted_insertsOnly ps u).1
  unfold insertStarted
  generalize unstarted ps u = v at *
  rw [only]
  rfl

/-- The programmes of this device that INSERT_START may take. -/
def openProgs (u : State) (i : Id) : List Nat := (u.targetProgs i).filter (fun p => decide ((u.life ⟨.prog, p⟩).cmd ≠ .closed))

theorem insertStart_of_free {u : State} {d : Desc} (target : idKind d.object = Kind.prog.code ∨ idKind d.object = Kind.group.code)
    (some_ : u.targetAny d.object ≠ []) (here : u.otherMembers (u.targetAny d.object) = []) (good : u.insertBad d = none)
    (fits : d.plen.toNat ≤ 64) (idle : (u.insertR (d.inlByte 0)).active = false)
    (free : ∀ p, p ∈ u.targetProgs d.object → u.holder p = none ∧ (u.life ⟨.prog, p⟩).background = false) :
    cmdInsertStart d u = (insertStarted d (openProgs u d.object) u).okAt (alignNext perAlign u.now) := by
  unfold cmdInsertStart
  extract_lets all mine others i prio free_ open_ ps b s1 src_ s2
  have isFree : ∀ p, p ∈ mine → free_ p = true := fun p mem => by
    show (match u.holder p with | some j => decide (prio j ≤ d.inlByte 5) | none => true) = true
    rw [(free p mem).1]
  have taken : ps = openProgs u d.object := List.filter_eq_self.2 fun p mem => by
    have mem' := (List.mem_filter.1 mem).1
    rw [isFree p mem', (free p mem').2]
    rfl
  have foreground : mine.any (fun p => (u.life ⟨.prog, p⟩).background) = false :=
    List.any_eq_false.2 fun p mem => by rw [(free p mem).2]; decide
  have allowed : (!open_.isEmpty && !open_.any free_) = false := by
    cases list : open_ with
    | nil => rfl
    | cons p rest =>
      have mem : p ∈ mine := (List.mem_filter.1 (show p ∈ open_ by rw [list]; exact List.mem_cons_self)).1
      rw [List.any_cons, isFree p mem, Bool.true_or, Bool.not_true, Bool.and_false]
  rw [if_neg (fun bad => bad.elim (fun n => target.elim n.1 n.2) fun e => some_ (List.isEmpty_iff.1 e)), good]
  dsimp only
  rw [if_neg (Nat.not_lt_of_le fits), if_neg (by
    rw [show (u.insertR i).active = false from idle, foreground, Bool.and_false, Bool.and_assoc, allowed, Bool.and_false]; decide)]
  show ({ s2.okAt b with carry := others } : CmdResult) = _
  rw [show others = [] from here, show s2 = insertStarted d ps u from rfl, taken]
  rfl

theorem insertStart_of_active {u : State} {d : Desc} (target : idKind d.object = Kind.prog.code ∨ idKind d.object = Kind.group.code)
    (some_ : u.targetAny d.object ≠ []) (good : u.insertBad d = none) (fits : d.plen.toNat ≤ 64)
    (busy : (u.insertR (d.inlByte 0)).active = true) : cmdInsertStart d u = u.fail .notPermitted := by
  unfold cmdInsertStart
  dsimp only
  rw [if_neg (fun bad => bad.elim (fun n => target.elim n.1 n.2) fun e => some_ (List.isEmpty_iff.1 e)), good]
  dsimp only
  rw [if_neg (Nat.not_lt_of_le fits), busy, if_pos (by rw [Bool.true_or, Bool.true_or])]

/-- The programmes that INSERT_STOP takes out of an insert. -/
def stoppedProgs (d : Desc) (u : State) : List Nat :=
  (u.targetProgs d.object).filter (fun p => u.holder p == some (d.inlByte 0) || (u.progR p).insert == some (d.inlByte 0))

/-- The state that INSERT_STOP leaves. -/
def insertStopped (d : Desc) (u : State) : State :=
  u.modInsert (d.inlByte 0) (fun n => { n with
    stopAt := some (alignNext perAlign u.now), stopping := distinct (n.stopping ++ stoppedProgs d u), cause := .stop })

theorem insertStop_of_active {u : State} {d : Desc} (target : idKind d.object = Kind.prog.code ∨ idKind d.object = Kind.group.code)
    (some_ : u.targetAny d.object ≠ []) (here : u.otherMembers (u.targetAny d.object) = []) (slot : d.inlByte 0 ≤ 7)
    (busy : (u.insertR (d.inlByte 0)).active = true) {p : Nat} (holds : p ∈ stoppedProgs d u) :
    cmdInsertStop d u = (insertStopped d u).okAt (alignNext perAlign u.now) := by
  unfold cmdInsertStop
  dsimp only
  rw [if_neg (fun bad => bad.elim (fun n => target.elim n.1 n.2) fun e => some_ (List.isEmpty_iff.1 e)), if_neg (Nat.not_lt_of_le slot), busy,
    if_neg (by decide), here]
  change ({ (if (stoppedProgs d u).isEmpty then u else insertStopped d u).okAt (alignNext perAlign u.now) with carry := [] } : CmdResult) = _
  rw [isEmpty_of_mem holds]
  rfl

theorem insertStop_of_idle {u : State} {d : Desc} (target : idKind d.object = Kind.prog.code ∨ idKind d.object = Kind.group.code)
    (some_ : u.targetAny d.object ≠ []) (slot : d.inlByte 0 ≤ 7) (idle : (u.insertR (d.inlByte 0)).active = false) :
    cmdInsertStop d u = u.fail .notPermitted := by
  unfold cmdInsertStop
  dsimp only
  rw [if_neg (fun bad => bad.elim (fun n => target.elim n.1 n.2) fun e => some_ (List.isEmpty_iff.1 e)), if_neg (Nat.not_lt_of_le slot), idle,
    if_pos rfl]

theorem insertCommands : Rules.InsertCommands := by
  intro s d u i target isTarget some_ here
  refine ⟨fun acc good fits => ⟨fun idle inside free => ?_, fun busy => ?_⟩, fun acc slot => ⟨fun busy inside holds => ?_, fun idle => ?_⟩⟩
  · have result := insertStart_of_free (d := withOp opInsStart d) isTarget some_ here good fits idle free
    refine completes_of_result (c := .insertStart d) rfl acc result rfl rfl fun t done_ => ?_
    have inserts : t.inserts = (insertStarted (withOp opInsStart d) (openProgs u d.object) u).inserts := completionOnly_inserts_eq done_.only
    have run := (insertR_of_inserts (t := s.framed t) inserts i).trans
      (insertStarted_insertR (d := withOp opInsStart d) inside _)
    rw [run]
    exact ⟨rfl, rfl, rfl, rfl, fun p mem live => List.mem_filter.2 ⟨mem, decide_eq_true live⟩,
      completionOnly_inserts (t := t) (insertStarted_completionOnly ..) done_.only⟩
  · exact completes_of_only (c := .insertStart d) rfl acc (insertStart_of_active (d := withOp opInsStart d) isTarget some_ good fits busy) rfl rfl
  · obtain ⟨p, mem, holds⟩ := holds
    have listed : ∀ q, q ∈ u.targetProgs d.object → (u.progR q).insert = some i → q ∈ stoppedProgs (withOp opInsStop d) u :=
      fun q mem holds => List.mem_filter.2 ⟨mem, by 
        rw [show ((u.progR q).insert == some ((withOp opInsStop d).inlByte 0)) = true from beq_iff_eq.2 holds, Bool.or_true]⟩
    have result := insertStop_of_active (d := withOp opInsStop d) isTarget some_ here slot busy (listed p mem holds)
    refine completes_of_result (c := .insertStop d) rfl acc result rfl rfl fun t done_ => ?_
    have inserts : t.inserts = (insertStopped (withOp opInsStop d) u).inserts := completionOnly_inserts_eq done_.only
    have run := (insertR_of_inserts (t := s.framed t) inserts i).trans
      (modInsert_insertR_self (s := u) inside _)
    rw [run]
    exact ⟨rfl, rfl, fun q mem holds => mem_distinct (List.mem_append_right _ (listed q mem holds)),
      completionOnly_inserts (u := u) (v := insertStopped (withOp opInsStop d) u) (t := t) rfl done_.only⟩
  · exact completes_of_only (c := .insertStop d) rfl acc (insertStop_of_idle (d := withOp opInsStop d) isTarget some_ slot idle) rfl rfl

/-- Settles O54: Rules.CaptureCommands and Rules.InsertCommands, proved above. -/
theorem actionCommands : Obligations.ActionCommands := ⟨captureCommands, insertCommands⟩

end Sys2Proof.Proofs
end

section
/-! PROOF. The SET commands, LIVE_SET, AF_LIST_SET and AF_POLICY_SET (R196 to R198, R359, R364, R365): O51. -/
namespace Sys2Proof.Proofs
open Sys2Proof Sys2Proof.Machine Sys2Proof.Laws

/-! ## Lives -/

theorem modAt_congr {α : Type} {f g : α → α} {l : List α} {i : Nat} (h : ∀ a, l[i]? = some a → f a = g a) : modAt i f l = modAt i g l := by
  refine List.ext_getElem? fun j => ?_
  by_cases here : j = i
  · subst here
    rw [modAt_getElem?_self, modAt_getElem?_self]
    cases found : l[j]? with
    | none => rfl
    | some a => exact congrArg some (h a found)
  · rw [modAt_getElem?_of_ne _ _ here, modAt_getElem?_of_ne _ _ here]

theorem withLife_congr {ρ : Type} {f g : Life → Life} {l : List (Obj ρ)} {i : Nat}
    (h : f (((l[i]?).map Obj.life).getD (Life.closed 0)) = g (((l[i]?).map Obj.life).getD (Life.closed 0))) :
    modAt i (Obj.withLife f) l = modAt i (Obj.withLife g) l :=
  modAt_congr fun a found => by
    rw [found] at h
    exact congrArg (fun x : Life => ({ a with life := x } : Obj ρ)) h

/-- What a change of a life leaves depends on the life alone that it meets. -/
theorem modLife_congr {s : State} {r : Ref} {f g : Life → Life} (h : f (s.life r) = g (s.life r)) : s.modLife r f = s.modLife r g := by
  obtain ⟨k, i⟩ := r
  cases k
  case device => rfl
  case alo => rfl
  case group => rfl
  case conv => exact congrArg (fun l => ({ s with conv := l } : State)) (withLife_congr h)
  case pass => exact congrArg (fun l => ({ s with pass := l } : State)) (withLife_congr h)
  case cap => exact congrArg (fun l => ({ s with cap := l } : State)) (withLife_congr h)
  case fmd => exact congrArg (fun l => ({ s with fmd := l } : State)) (withLife_congr h)
  case amd => exact congrArg (fun l => ({ s with amd := l } : State)) (withLife_congr h)
  case ee => exact congrArg (fun l => ({ s with ee := l } : State)) (withLife_congr h)
  case prog => exact congrArg (fun l => ({ s with prog := l } : State)) (withLife_congr h)
  case port => exact congrArg (fun l => ({ s with port := l } : State)) (withLife_congr h)
  case fcar => exact congrArg (fun l => ({ s with fcar := l } : State)) (withLife_congr h)
  case dcar => exact congrArg (fun l => ({ s with dcar := l } : State)) (withLife_congr h)
  case cue => exact congrArg (fun l => ({ s with cue := l } : State)) (withLife_congr h)

theorem life_of_answersOnly {s t : State} (h : s.answersOnly t) (r : Ref) : t.life r = s.life r := by
  unfold State.answersOnly at h
  rw [h]
  rfl

theorem life_of_completionOnly {s t : State} (h : s.completionOnly t) (r : Ref) : t.life r = s.life r :=
  life_of_answersOnly (answersOnly_of_completionOnly h) r

/-! ## The SET commands -/

section
variable {u : State} {q : Ref} {raw : Blk} {base : Nat}

theorem cmdSet_of_good (idle : (u.life q).cmd ≠ .run) (good : firstFail (u.setChecks q (raw &&& kindMask q.kind)) = none) :
    u.cmdSet q raw base = (u.setBlk q (raw &&& kindMask q.kind)).okCmd := by
  unfold State.cmdSet
  dsimp only
  rw [if_neg idle, good]

/-- A refused block changes nothing. -/
theorem cmdSet_refused (bad : (u.life q).cmd = .run ∨ (firstFail (u.setChecks q (raw &&& kindMask q.kind))).isSome = true) :
    (u.cmdSet q raw base).s = u ∧ (u.cmdSet q raw base).carry = [] ∧ (u.cmdSet q raw base).wait = none := by
  unfold State.cmdSet
  dsimp only
  split
  · exact ⟨rfl, rfl, rfl⟩
  next idle =>
    split
    · exact ⟨rfl, rfl, rfl⟩
    next good =>
      rw [good] at bad
      exact bad.elim (fun h => absurd h idle) fun h => nomatch h

theorem inlineSet_of_ref {d : Desc} (ref : u.refOf d.object = some q) : cmdInlineSet d u = u.cmdSet q (d.inl.zeroExtend 1280) 24 := by
  unfold cmdInlineSet
  rw [ref]

end

/-- A command whose result is the state as it was. -/
theorem completes_unchanged {s : State} {c : Instr} {d : Desc} {r : CmdResult} (desc : hostDesc c = some d) (accepted : s.accepted d = true)
    (result : (s.releaseEntry d.ring).runOp d d.opcode.toNat = r)
    (same : r.s = s.releaseEntry d.ring ∧ r.carry = [] ∧ r.wait = none) :
    completes c s (State.completionOnly (s.framed (s.releaseEntry d.ring))) := by
  obtain ⟨state, here, ends⟩ := same
  have only := completes_of_only desc accepted result here ends
  rw [state] at only
  exact only

theorem setsBlock_of_inline {s : State} {d : Desc} {q : Ref} {c : Instr} {op : Nat} (ref : (s.releaseEntry d.ring).refOf d.object = some q)
    (desc : hostDesc c = some (withOp op d))
    (run : (s.releaseEntry d.ring).runOp (withOp op d) (withOp op d).opcode.toNat = cmdInlineSet (withOp op d) (s.releaseEntry d.ring)) :
    Rules.setsBlock s d q c op := by
  intro acc
  have result := run.trans (inlineSet_of_ref (d := withOp op d) ref)
  exact ⟨fun idle good => completes_of_only desc acc (result.trans (cmdSet_of_good idle good)) rfl rfl,
    fun bad => completes_unchanged (d := withOp op d) desc acc result (cmdSet_refused bad)⟩

section
variable {u : State} {d : Desc} {q : Ref}

theorem portSet_of_block (ref : u.refOf d.object = some q) (idle : (u.life q).cmd ≠ .run) (least : 8 ≤ d.plen.toNat)
    (most : d.plen.toNat ≤ 136) (whole : d.plen.toNat % 4 = 0) : cmdPortSet d u = u.cmdSet q (blockOf 1280 d.bytes) 64 := by
  unfold cmdPortSet
  dsimp only
  rw [ref]
  dsimp only
  rw [if_neg idle, if_neg (Nat.not_lt_of_le most), if_neg (fun bad => bad.elim (Nat.not_lt_of_le least) fun n => n whole)]

theorem portSet_refused (ref : u.refOf d.object = some q)
    (bad : (u.life q).cmd = .run ∨ d.plen.toNat < 8 ∨ 136 < d.plen.toNat ∨ d.plen.toNat % 4 ≠ 0) :
    (cmdPortSet d u).s = u ∧ (cmdPortSet d u).carry = [] ∧ (cmdPortSet d u).wait = none := by
  unfold cmdPortSet
  dsimp only
  rw [ref]
  dsimp only
  split
  · exact ⟨rfl, rfl, rfl⟩
  next idle =>
    split
    · exact ⟨rfl, rfl, rfl⟩
    next most =>
      obtain h | h | h | h := bad
      · exact absurd h idle
      · rw [if_pos (.inl h)]
        exact ⟨rfl, rfl, rfl⟩
      · exact absurd h most
      · rw [if_pos (.inr h)]
        exact ⟨rfl, rfl, rfl⟩

theorem cueSet_of_good (ref : u.refOf d.object = some q) (idle : (u.life q).cmd ≠ .run)
    (good : cueBad (d.inl.zeroExtend 1280 &&& kindMask .cue) = none) :
    cmdCueSet d u = (u.setBlk q (d.inl.zeroExtend 1280 &&& kindMask .cue)).okCmd := by
  unfold cmdCueSet
  rw [ref]
  dsimp only
  rw [if_neg idle, good]

theorem cueSet_refused (ref : u.refOf d.object = some q)
    (bad : (u.life q).cmd = .run ∨ (cueBad (d.inl.zeroExtend 1280 &&& kindMask .cue)).isSome = true) :
    (cmdCueSet d u).s = u ∧ (cmdCueSet d u).carry = [] ∧ (cmdCueSet d u).wait = none := by
  unfold cmdCueSet
  rw [ref]
  dsimp only
  split
  · exact ⟨rfl, rfl, rfl⟩
  next idle =>
    split
    · exact ⟨rfl, rfl, rfl⟩
    next good =>
      rw [good] at bad
      exact bad.elim (fun h => absurd h idle) fun h => nomatch h

end

theorem setCommands : Rules.SetCommands := by
  intro s d q u ref
  refine ⟨setsBlock_of_inline ref rfl rfl, setsBlock_of_inline ref rfl rfl, setsBlock_of_inline ref rfl rfl, setsBlock_of_inline ref rfl rfl,
    setsBlock_of_inline ref rfl rfl, fun acc => ?_, fun acc => ?_⟩
  · intro b
    refine ⟨fun idle least most whole good => ?_, fun bad => ?_⟩
    · have block := portSet_of_block (d := withOp opPortSet d) ref idle least most whole
      exact completes_of_only (c := .portSet d) rfl acc (block.trans (cmdSet_of_good idle good)) rfl rfl
    · exact completes_unchanged (c := .portSet d) (d := withOp opPortSet d) rfl acc rfl (portSet_refused (d := withOp opPortSet d) ref bad)
  · intro b
    refine ⟨fun idle good => ?_, fun bad => ?_⟩
    · exact completes_of_only (c := .cueSet d) rfl acc (cueSet_of_good (d := withOp opCueSet d) ref idle good) rfl rfl
    · exact completes_unchanged (c := .cueSet d) (d := withOp opCueSet d) rfl acc rfl (cueSet_refused (d := withOp opCueSet d) ref bad)

/-! ## LIVE_SET -/

section
variable {u : State} {q : Ref} {es : List (Nat × Nat × Nat)}

theorem liveObj_of_idle (idle : (u.life q).cmd ≠ .run) : u.liveObj es q = u.setBlk q (liveApply es (u.life q).blk) := by
  unfold State.liveObj State.setBlk
  dsimp only
  rw [if_neg (fun h => idle h.1)]
  exact modLife_congr rfl

/-- In RUN the written fields wait for their boundary; those in effect stay. -/
theorem liveObj_of_running (runs : (u.life q).cmd = .run) (eff : (u.life q).eff = .run) (due : (u.life q).dueAt = none) :
    ((u.liveObj es q).life q).blk = liveApply es (u.life q).blk ∧ ((u.liveObj es q).life q).cmd = .run ∧
    ((u.liveObj es q).life q).cur = (u.life q).cur ∧ ((u.liveObj es q).life q).liveAt.isSome = true := by
  have inList : (u.life? q).isSome = true := life?_isSome_of_cmd (by rw [runs]; decide)
  have written := modLife_life_self inList (fun l => { l with blk := liveApply es l.blk })
  have kept : ((u.modLife q (fun l => { l with blk := liveApply es l.blk })).life? q).isSome = true := by
    rw [modLife_life?_self, Option.isSome_map]
    exact inList
  unfold State.liveObj
  extract_lets l v base base' w
  rw [if_pos ⟨runs, eff, due⟩]
  have cleared : w.life q = v.life q := by
    show (if q.kind = .conv then v.modConv q.idx (fun x => { x with nextGain := none }) else v).life q = _
    split
    · exact modConv_life ..
    · rfl
  have clearedIn : (w.life? q).isSome = true := life?_isSome_of_cmd (by
    rw [cleared, written]
    show (u.life q).cmd ≠ _
    rw [runs]
    decide)
  rw [modLife_life_self clearedIn, cleared, written]
  exact ⟨rfl, runs, rfl, rfl⟩

theorem liveSet_of_good {d : Desc} (ref : u.refOf d.object = some q) (single : q.kind ≠ .group) (words : liveWords q.kind ≠ 0)
    (input : q ≠ ⟨.conv, 4⟩) (least : 1 ≤ d.inlByte 0) (most : d.inlByte 0 ≤ 3) (kind : d.inlByte 1 = q.kind.code)
    (good : u.liveBad q (liveEntries d) = none) (fits : u.liveFits (u.liveObj (liveEntries d) q) q = true) :
    cmdLiveSet d u = (u.liveObj (liveEntries d) q).okAt (if (u.life q).cmd = .run then u.liveBoundary q else u.now) := by
  unfold cmdLiveSet
  dsimp only
  rw [ref]
  dsimp only
  rw [if_neg (fun bad => bad.2.elim words input), if_neg (fun bad => bad.elim (Nat.not_lt_of_le least) (Nat.not_lt_of_le most)),
    if_pos single, if_neg (fun bad => bad kind), good]
  dsimp only
  rw [fits, if_neg (by decide)]

end

/-! ## What keeps how services are followed -/

/-- Every programme is followed as before. -/
def followsKept (s t : State) : Prop := t.follow = s.follow

theorem followsKept_refl (s : State) : followsKept s s := rfl
theorem followsKept_trans {a b c : State} (h : followsKept a b) (k : followsKept b c) : followsKept a c := Eq.trans k h

theorem followsKept_of_prog {s t : State} (h : t.prog = s.prog) : followsKept s t := funext fun p => by
  unfold State.follow State.progR
  rw [h]

theorem followsKept_ite {p : Prop} [Decidable p] {s t u : State} (h : followsKept s t) (k : followsKept s u) :
    followsKept s (if p then t else u) := by
  split
  · exact h
  · exact k

theorem foldl_followsKept {α : Type} {f : State → α → State} (h : ∀ b a, followsKept b (f b a)) (l : List α) (s : State) :
    followsKept s (l.foldl f s) := foldl_keeps followsKept followsKept_refl (fun _ _ _ => followsKept_trans) f h l s

theorem followsKept_of_answersOnly {s t : State} (h : s.answersOnly t) : followsKept s t :=
  followsKept_of_prog (by unfold State.answersOnly at h; rw [h])
theorem followsKept_of_reportsOnly {s t : State} (h : s.reportsOnly t) : followsKept s t :=
  followsKept_of_prog (by unfold State.reportsOnly at h; rw [h])
theorem followsKept_of_airsOnly {s t : State} (h : airsOnly s t) : followsKept s t :=
  followsKept_of_prog (by unfold airsOnly at h; rw [h])
theorem followsKept_of_calOnly {s t : State} (h : calOnly s t) : followsKept s t :=
  followsKept_of_prog (by unfold calOnly State.answersOnly at h; rw [h])
theorem followsKept_of_tablesOnly {s t : State} (h : tablesOnly s t) : followsKept s t :=
  followsKept_of_prog (by unfold tablesOnly at h; rw [h])

section
variable (s : State) (i : Nat)

theorem modPass_followsKept (f : PassRun → PassRun) : followsKept s (s.modPass i f) := followsKept_of_prog rfl
theorem modFmd_followsKept (f : FmdRun → FmdRun) : followsKept s (s.modFmd i f) := followsKept_of_prog rfl
theorem modAmd_followsKept (f : AmdRun → AmdRun) : followsKept s (s.modAmd i f) := followsKept_of_prog rfl
theorem modEe_followsKept (f : EeRun → EeRun) : followsKept s (s.modEe i f) := followsKept_of_prog rfl
theorem modPort_followsKept (f : PortRun → PortRun) : followsKept s (s.modPort i f) := followsKept_of_prog rfl
theorem modConv_followsKept (f : ConvRun → ConvRun) : followsKept s (s.modConv i f) := followsKept_of_prog rfl
theorem modCap_followsKept (f : CapRun → CapRun) : followsKept s (s.modCap i f) := followsKept_of_prog rfl
theorem modCue_followsKept (f : CueRun → CueRun) : followsKept s (s.modCue i f) := followsKept_of_prog rfl
theorem modUnit_followsKept (f : CalUnit → CalUnit) : followsKept s (s.modUnit i f) := followsKept_of_prog rfl
theorem modStandin_followsKept (f : Standin → Standin) : followsKept s (s.modStandin f) := followsKept_of_prog rfl
theorem restartStream_followsKept : followsKept s (s.restartStream i) := followsKept_of_prog rfl

end

theorem setCond_followsKept (s : State) (n : Nat) (on : Bool) : followsKept s (s.setCond n on) :=
  followsKept_of_reportsOnly (setCond_reportsOnly ..)

theorem modLife_followsKept (s : State) (r : Ref) (f : Life → Life) : followsKept s (s.modLife r f) := by
  obtain ⟨k, i⟩ := r
  cases k
  case prog =>
    exact funext fun p => congrArg (fun x : Option ProgRun => (x.getD ProgRun.reset).follow) (run_map_withLife f s.prog i p)
  all_goals exact followsKept_refl s

theorem modProg_followsKept {f : ProgRun → ProgRun} (h : ∀ x, (f x).follow = x.follow) (s : State) (i : Nat) : followsKept s (s.modProg i f) := by
  refine funext fun p => ?_
  unfold State.follow
  by_cases same : p = i
  · subst same
    by_cases inside : p < s.prog.length
    · rw [modProg_progR_self inside]
      exact h _
    · have none_ : s.prog[p]? = none := List.getElem?_eq_none (Nat.le_of_not_lt inside)
      unfold State.progR State.modProg
      dsimp only
      rw [modAt_getElem?_self, none_]
      rfl
  · rw [modProg_progR_of_ne same]

theorem modAlo_followsKept (s : State) (a : Nat) (f : Alo → Alo) : followsKept s (s.modAlo a f) :=
  followsKept_of_prog (by unfold State.modAlo; split <;> rfl)

theorem aloRelease_followsKept (s : State) (a : Nat) : followsKept s (s.aloRelease a) :=
  followsKept_trans (modAlo_followsKept s a _) (setCond_followsKept ..)

theorem convHeld_followsKept (s : State) (x t : Nat) : followsKept s (s.convHeld x t) := by
  unfold State.convHeld
  extract_lets k running commanded leaves v
  have ended : followsKept s v := followsKept_ite (followsKept_of_calOnly (calAbort_calOnly ..)) (followsKept_refl s)
  clear_value v
  have out : followsKept v (v.trafficOut x k) :=
    Eq.trans (followsKept_of_reportsOnly (slateT_reportsOnly ..)) (followsKept_of_prog rfl)
  split
  · exact followsKept_ite (t := v.trafficOut x k) (followsKept_trans ended out) ended
  · exact ended

theorem capClosed_followsKept (mask : Nat) (s : State) (c : Nat) : followsKept s (s.capClosed mask c) := by
  unfold State.capClosed
  extract_lets r m v
  have marked : followsKept s v := followsKept_ite (followsKept_of_prog rfl) (followsKept_refl s)
  clear_value v
  exact followsKept_trans marked (followsKept_of_prog rfl)

theorem releaseLo_followsKept (s : State) : followsKept s s.releaseLo := by
  unfold State.releaseLo
  split
  · dsimp only
    split
    · exact followsKept_of_prog rfl
    · exact followsKept_trans (followsKept_of_prog rfl) (aloRelease_followsKept ..)
  · exact followsKept_refl s

theorem removeOrigin_followsKept (s : State) (sel : Origin → Bool) : followsKept s (s.removeOrigin sel) := by
  unfold State.removeOrigin
  extract_lets svcs comps tables v w
  have comp : followsKept v w := foldl_followsKept (fun _ _ => followsKept_of_tablesOnly (putComp_tablesOnly ..)) _ _
  have start : followsKept s v := followsKept_of_prog rfl
  clear_value v w
  exact followsKept_trans start (followsKept_trans comp (foldl_followsKept (fun _ _ => followsKept_of_tablesOnly (putSvc_tablesOnly ..)) _ _))

theorem flushAudioAll_followsKept (s : State) (p : Nat) : followsKept s (s.flushAudioAll p) :=
  foldl_followsKept (fun b i => followsKept_ite
    (followsKept_of_reportsOnly (reportsOnly_of_hostOnly (flushAudio_hostOnly b i p))) (followsKept_refl b)) _ _

theorem holdEffects0_followsKept (s : State) (r : Ref) (cause : OffCause) (t : Nat) : followsKept s (s.holdEffects0 r cause t) := by
  have off (d : Bool) : followsKept s ((s.carrierOff d r.idx cause false t).releaseLo) :=
    followsKept_trans (followsKept_of_airsOnly (carrierOff_airsOnly ..)) (releaseLo_followsKept _)
  unfold State.holdEffects0
  dsimp only
  split
  · refine followsKept_trans (modPass_followsKept s r.idx _) (foldl_followsKept (fun b c => ?_) _ _)
    split
    · exact capClosed_followsKept ..
    · exact restartStream_followsKept ..
  · exact followsKept_trans (modFmd_followsKept s r.idx _) (removeOrigin_followsKept ..)
  · exact followsKept_trans (modAmd_followsKept s r.idx _) (removeOrigin_followsKept ..)
  · exact followsKept_trans (modEe_followsKept s r.idx _) (removeOrigin_followsKept ..)
  · refine followsKept_trans (followsKept_trans (flushAudioAll_followsKept s r.idx) ?_) (setCond_followsKept ..)
    exact modProg_followsKept (by exact fun _ => rfl) _ _
  · exact followsKept_trans (modPort_followsKept s r.idx _) (followsKept_of_reportsOnly (reportsOnly_trans (setCond_reportsOnly ..)
      (setCond_reportsOnly ..)))
  · exact off false
  · exact off true
  · exact modCue_followsKept ..
  · exact followsKept_trans (modConv_followsKept s r.idx _) (followsKept_trans (setCond_followsKept ..) (convHeld_followsKept ..))
  · exact modCap_followsKept ..
  · exact followsKept_refl s

theorem closeEffects0_followsKept (s : State) (r : Ref) : followsKept s (s.closeEffects0 r) := by
  unfold State.closeEffects0
  extract_lets v w x y z
  have caps : followsKept s v := followsKept_ite (foldl_followsKept (fun _ _ => capClosed_followsKept ..) _ _) (followsKept_refl s)
  have both : followsKept s w := followsKept_trans caps (modLife_followsKept ..)
  have pins : followsKept w x := followsKept_of_prog rfl
  have held : followsKept x y := followsKept_trans (convHeld_followsKept x r.idx x.now) (modUnit_followsKept ..)
  have visit : followsKept y z := followsKept_ite (modStandin_followsKept ..) (followsKept_refl y)
  clear_value v w x y z
  have input := followsKept_trans both (followsKept_trans pins (followsKept_trans held visit))
  split
  · exact followsKept_ite (followsKept_trans input (aloRelease_followsKept ..)) input
  · refine followsKept_trans both (Eq.trans (followsKept_of_reportsOnly (setFlag_reportsOnly ..)) ?_)
    exact followsKept_of_prog rfl
  · exact both

theorem closeNow0_followsKept (s : State) (r : Ref) (t : Nat) : followsKept s (s.closeNow0 r t) :=
  followsKept_trans (followsKept_ite (holdEffects0_followsKept ..) (followsKept_refl s)) (closeEffects0_followsKept ..)

/-! ## AF_LIST_SET and AF_POLICY_SET -/

section
variable {α : Type} (g : Follow → α)

theorem modFollow_follow_self {s : State} {p : Nat} (h : p < s.prog.length) (f : Follow → Follow) : (s.modFollow p f).follow p = f (s.follow p) :=
  congrArg ProgRun.follow (modProg_progR_self h _)

/-- A change of how a programme is followed keeps what it does not touch. -/
theorem modFollow_keeps {f : Follow → Follow} (h : ∀ x, g (f x) = g x) (s : State) (p : Nat) : g ((s.modFollow p f).follow p) = g (s.follow p) := by
  by_cases inside : p < s.prog.length
  · rw [modFollow_follow_self inside, h]
  · have none_ : s.prog[p]? = none := List.getElem?_eq_none (Nat.le_of_not_lt inside)
    have same : (s.modFollow p f).follow p = s.follow p := by
      unfold State.follow State.progR State.modFollow State.modProg
      dsimp only
      rw [modAt_getElem?_self, none_]
      rfl
    rw [same]

end

/-- The host's list and the policy of a programme. -/
def hostSide (f : Follow) : List HostCand × BitVec 128 := (f.hostList, f.policy)

theorem relist_keeps (s : State) (p : Nat) : hostSide ((s.relist p).follow p) = hostSide (s.follow p) := by
  unfold State.relist
  extract_lets f new old kept place act cands active gone v
  have closed : followsKept s v := foldl_followsKept (fun b i => by
    split
    · exact followsKept_refl b
    · exact closeNow0_followsKept ..) _ _
  clear_value v
  refine (modFollow_keeps hostSide (by exact fun _ => rfl) _ p).trans (congrArg hostSide ?_)
  exact (congrFun (modProg_followsKept (by exact fun _ => rfl) v p) p).trans (congrFun closed p)

theorem followRec_followsKept (s : State) (p event old new flags : Nat) (delta bNew : Int) (time : Word64) :
    followsKept s (s.followRec p event old new flags delta bNew time) := followsKept_of_tablesOnly (putSide_tablesOnly ..)

theorem setStandby_keeps (s : State) (p : Nat) (k : Option Nat) : hostSide ((s.setStandby p k).follow p) = hostSide (s.follow p) := by
  have cand (v : State) (j : Nat) (f : Cand → Cand) : hostSide ((v.modCand p j f).follow p) = hostSide (v.follow p) :=
    modFollow_keeps hostSide (by exact fun _ => rfl) v p
  unfold State.setStandby
  extract_lets f v w
  have left : hostSide (v.follow p) = hostSide (s.follow p) := by
    change hostSide (State.follow (match f.standby with | some j => _ | none => s) p) = _
    split
    · exact cand ..
    · rfl
  clear_value v
  have chosen : hostSide (w.follow p) = hostSide (s.follow p) := (modFollow_keeps hostSide (by exact fun _ => rfl) v p).trans left
  clear_value w
  split
  · rfl
  · split
    · exact chosen
    · split
      · exact chosen
      · dsimp only
        rw [congrFun (followRec_followsKept ..) p]
        exact (modFollow_keeps hostSide (by exact fun _ => rfl) _ p).trans ((cand ..).trans chosen)

theorem chooseStandby_keeps (s : State) (p : Nat) : hostSide ((s.chooseStandby p).follow p) = hostSide (s.follow p) := by
  unfold State.chooseStandby
  extract_lets v f k best
  have marked : hostSide (v.follow p) = hostSide (s.follow p) := modFollow_keeps hostSide (by exact fun _ => rfl) s p
  have chosen (j : Option Nat) : hostSide ((v.setStandby p j).follow p) = hostSide (s.follow p) := (setStandby_keeps v p j).trans marked
  have counted (n : Follow → Follow) (h : ∀ x, hostSide (n x) = hostSide x) :
      hostSide ((v.modFollow p n).follow p) = hostSide (s.follow p) := (modFollow_keeps hostSide h v p).trans marked
  clear_value v best
  split
  · exact marked
  · split
    · split
      · exact chosen _
      · exact chosen _
    · split
      · exact chosen _
      · split
        · exact chosen _
        · split
          · extract_lets n
            clear_value n
            split
            · exact chosen _
            · exact counted _ (by exact fun _ => rfl)
          · exact counted _ (by exact fun _ => rfl)
      · split
        · exact marked
        · exact chosen _

theorem hostList_of_relisted (v : State) (p : Nat) (c : Prop) [Decidable c] :
    ((if c then v.relist p else v).follow p).hostList = (v.follow p).hostList := by
  split
  · exact congrArg Prod.fst (relist_keeps v p)
  · rfl

theorem policy_of_relisted (v : State) (p : Nat) (c : Prop) [Decidable c] :
    ((if c then (v.relist p).chooseStandby p else v).follow p).policy = (v.follow p).policy := by
  split
  · exact congrArg Prod.snd ((chooseStandby_keeps (v.relist p) p).trans (relist_keeps v p))
  · rfl

section
variable {u : State} {d : Desc} {p : Nat}

theorem afListSet_of_good (ref : u.refOf d.object = some ⟨.prog, p⟩) (whole : d.plen.toNat % 16 = 0) (most : d.plen.toNat ≤ 176)
    (good : hostBad (hostList d.bytes) = none) (fore : (u.life ⟨.prog, p⟩).background = false) :
    cmdAfListSet d u = (if ((u.modFollow p (fun f => { f with hostList := hostList d.bytes })).follow p).st = .following
      then (u.modFollow p (fun f => { f with hostList := hostList d.bytes })).relist p
      else u.modFollow p (fun f => { f with hostList := hostList d.bytes })).okCmd := by
  unfold cmdAfListSet
  rw [ref]
  dsimp only
  rw [if_neg (fun bad => bad.elim (fun n => n whole) (Nat.not_lt_of_le most)), good]
  dsimp only
  rw [fore, if_neg (by decide)]

theorem afPolicySet_of_good {b : BitVec 128} (block : d.inl.extractLsb' 0 128 &&& tableMask 128 afFields = b)
    (ref : u.refOf d.object = some ⟨.prog, p⟩) (good : firstFail (policyChecks b) = none)
    (same : (u.life ⟨.prog, p⟩).cmd ≠ .run ∨ (fget b afMode = fget (u.follow p).policy afMode ∧
      fget b afAlignA = fget (u.follow p).policy afAlignA))
    (source : ∃ x ch, u.progSource (u.life ⟨.prog, p⟩).blk = some (x, ch) ∧ (x.kind = .fmd ∨ x.kind = .amd ∨ x.kind = .ee))
    (room : fget b afMode = 0 ∨ u.followedCount p < 8) (fore : (u.life ⟨.prog, p⟩).background = false)
    (own : (u.life ⟨.prog, p⟩).mirror = false) :
    cmdAfPolicySet d u = (if ((u.modFollow p (fun f => { f with policy := b })).follow p).st = .following
      then ((u.modFollow p (fun f => { f with policy := b })).relist p).chooseStandby p
      else u.modFollow p (fun f => { f with policy := b })).okCmd := by
  subst block
  obtain ⟨⟨k, i⟩, ch, src, kinds⟩ := source
  unfold cmdAfPolicySet
  rw [ref]
  dsimp only
  rw [src, good]
  dsimp only
  rw [if_neg (fun bad => same.elim (fun n => n bad.1) fun e => bad.2.elim (fun n => n e.1) fun n => n e.2), fore, own,
    if_neg (c := _ ∧ _) (fun bad => room.elim bad.1 (Nat.not_lt_of_le bad.2))]
  obtain h | h | h := kinds <;> (cases h; rfl)

end

theorem follow_of_completionOnly {v t : State} (h : v.completionOnly t) (p : Nat) : t.follow p = v.follow p :=
  congrFun (followsKept_of_answersOnly (answersOnly_of_completionOnly h)) p

/-- Nothing that LIVE_SET and the AF commands name is a background object; nor is it, for the latter, a mirror. -/
theorem Accepted.foreground {s : State} {d : Desc} (h : Accepted s d) {q : Ref} (ref : (s.releaseEntry d.ring).refOf d.object = some q)
    (op : (d.opcode.toNat != opQuery) = true) : ((s.releaseEntry d.ring).life q).background = false := by
  have special := (h.open_ ref).2
  unfold State.specialTarget at special
  rw [op] at special
  simp only [Bool.or_eq_false_iff, Bool.and_true] at special
  exact special.1.1.1

theorem liveAndFollow : Rules.LiveAndFollow := by
  intro s d q u ref
  refine ⟨fun acc single words least most kind good fits => ?_, fun p prog => ⟨fun acc whole most good => ?_, fun acc => ?_⟩⟩
  · intro b
    have input : q ≠ ⟨.conv, 4⟩ := fun h => by
      have special := ((accepted_of acc).open_ ref).2
      rw [h] at special
      unfold State.specialTarget at special
      exact nomatch (Bool.or_eq_false_iff.1 special).2
    have result := liveSet_of_good (d := withOp opLiveSet d) ref single words input least most kind good fits
    refine ⟨fun idle => ?_, fun runs eff due => ?_⟩
    · have only := completes_of_only (c := .liveSet d) rfl acc result rfl rfl
      have same : u.liveObj (liveEntries (withOp opLiveSet d)) q = u.setBlk q b := liveObj_of_idle idle
      have state : ((u.liveObj (liveEntries (withOp opLiveSet d)) q).okAt (if (u.life q).cmd = .run then u.liveBoundary q else u.now)).s =
        u.setBlk q b := same
      rw [state] at only
      exact only
    · refine completes_of_result (c := .liveSet d) rfl acc result rfl rfl fun t done_ => ?_
      have life : (s.framed t).life q = (u.liveObj (liveEntries d) q).life q := life_of_completionOnly done_.only q
      rw [life]
      exact liveObj_of_running runs eff due
  · subst prog
    have fore := (accepted_of acc).foreground ref rfl
    have result := afListSet_of_good (d := withOp opAfList d) ref whole most good fore
    refine ⟨fun inside => ?_, fun idle => ?_⟩
    · refine completes_of_result (c := .afListSet d) rfl acc result rfl rfl fun t done_ => ?_
      have kept : (s.framed t).follow p = _ := follow_of_completionOnly done_.only p
      have stored := modFollow_follow_self (s := u) inside (fun f => { f with hostList := hostList d.bytes })
      exact (congrArg Follow.hostList kept).trans ((hostList_of_relisted ..).trans (congrArg Follow.hostList stored))
    · have st := modFollow_keeps Follow.st (f := fun f => { f with hostList := hostList d.bytes }) (fun _ => rfl) u p
      exact completes_of_only (c := .afListSet d) rfl acc (result.trans (congrArg State.okCmd (if_neg fun h => idle (st.symm.trans h)))) rfl rfl
  · subst prog
    intro b good same source room
    have accepted := accepted_of acc
    have fore := accepted.foreground ref rfl
    have own : (u.life ⟨.prog, p⟩).mirror = false := by
      have special := (accepted.open_ ref).2
      unfold State.specialTarget at special
      simp only [Bool.or_eq_false_iff] at special
      obtain ⟨⟨⟨-, mirror⟩, -⟩, -⟩ := special
      exact (Bool.and_eq_false_iff.1 mirror).resolve_right (fun h => nomatch (show true = false from h))
    have result := afPolicySet_of_good (d := withOp opAfPolicy d) (b := b) rfl ref good same source room fore own
    clear_value b
    refine ⟨fun inside => ?_, fun idle => ?_⟩
    · refine completes_of_result (c := .afPolicySet d) rfl acc result rfl rfl fun t done_ => ?_
      have kept : (s.framed t).follow p = _ := follow_of_completionOnly done_.only p
      have stored := modFollow_follow_self (s := u) inside (fun f => { f with policy := b })
      exact (congrArg Follow.policy kept).trans ((policy_of_relisted ..).trans (congrArg Follow.policy stored))
    · have st := modFollow_keeps Follow.st (f := fun f => { f with policy := b }) (fun _ => rfl) u p
      exact completes_of_only (c := .afPolicySet d) rfl acc (result.trans (congrArg State.okCmd (if_neg fun h => idle (st.symm.trans h))))
        rfl rfl

/-- Settles O51: Rules.SetCommands and Rules.LiveAndFollow, proved above. -/
theorem fieldCommands : Obligations.FieldCommands := ⟨setCommands, liveAndFollow⟩

end Sys2Proof.Proofs
end

section
/-! PROOF. What a change of one object leaves of the others and of the groups; GROUP_DEFINE (R366, R367). -/
namespace Sys2Proof.Proofs
open Sys2Proof Sys2Proof.Machine Sys2Proof.Laws

/-! ## The life of another object -/

theorem modLife_life?_of_ne {q r : Ref} (h : q ≠ r) (s : State) (f : Life → Life) : (s.modLife r f).life? q = s.life? q := by
  obtain ⟨k, i⟩ := r
  obtain ⟨k', j⟩ := q
  by_cases same : k' = k
  · subst same
    have ne : j ≠ i := fun e => h (e ▸ rfl)
    cases k'
    case device => rfl
    case alo => rfl
    case group => rfl
    all_goals exact congrArg (Option.map Obj.life) (modAt_getElem?_of_ne _ _ ne)
  · cases k
    all_goals cases k'
    any_goals exact absurd rfl same
    all_goals rfl

/-- The life of an object is the same. -/
def lifeKept (q : Ref) (s t : State) : Prop := t.life? q = s.life? q

section
variable {q : Ref} {s t u : State}

theorem lifeKept_refl (q : Ref) (s : State) : lifeKept q s s := rfl
theorem lifeKept_trans (h : lifeKept q s t) (k : lifeKept q t u) : lifeKept q s u := Eq.trans k h
theorem life_of_lifeKept (h : lifeKept q s t) : t.life q = s.life q := by
  unfold State.life
  rw [h]
theorem lifeKept_ite {p : Prop} [Decidable p] (h : lifeKept q s t) (k : lifeKept q s u) : lifeKept q s (if p then t else u) := by
  split
  · exact h
  · exact k
theorem lifeKept_of_answersOnly (h : s.answersOnly t) : lifeKept q s t := by
  unfold State.answersOnly at h
  rw [h]
  rfl
theorem lifeKept_of_reportsOnly (h : s.reportsOnly t) : lifeKept q s t := by
  unfold State.reportsOnly at h
  rw [h]
  rfl
theorem lifeKept_of_calOnly (h : calOnly s t) : lifeKept q s t := by
  unfold calOnly State.answersOnly at h
  rw [h]
  rfl
theorem lifeKept_of_tunesOnly (h : tunesOnly s t) : lifeKept q s t := by
  unfold tunesOnly at h
  rw [h]
  rfl
theorem lifeKept_of_tablesOnly (h : tablesOnly s t) (k : sameEe s t) : lifeKept q s t := by
  unfold tablesOnly at h
  rw [h, show t.ee = s.ee from k]
  rfl

end

section
variable (q : Ref) (s : State) (i : Nat)

theorem modConv_lifeKept (f : ConvRun → ConvRun) : lifeKept q s (s.modConv i f) := by
  obtain ⟨k, j⟩ := q
  cases k
  case conv => exact life_map_withRun ..
  all_goals rfl
theorem modCap_lifeKept (f : CapRun → CapRun) : lifeKept q s (s.modCap i f) := by
  obtain ⟨k, j⟩ := q
  cases k
  case cap => exact life_map_withRun ..
  all_goals rfl
theorem modEe_lifeKept (f : EeRun → EeRun) : lifeKept q s (s.modEe i f) := by
  obtain ⟨k, j⟩ := q
  cases k
  case ee => exact life_map_withRun ..
  all_goals rfl
theorem modProg_lifeKept (f : ProgRun → ProgRun) : lifeKept q s (s.modProg i f) := by
  obtain ⟨k, j⟩ := q
  cases k
  case prog => exact life_map_withRun ..
  all_goals rfl
theorem modUnit_lifeKept (f : CalUnit → CalUnit) : lifeKept q s (s.modUnit i f) := rfl
theorem modStandin_lifeKept (f : Standin → Standin) : lifeKept q s (s.modStandin f) := rfl
theorem override_lifeKept (r : Ref) : lifeKept q s (s.override r) := rfl

theorem abortWaits_lifeKept (r : Ref) : lifeKept q s (s.abortWaits r) := by
  unfold State.abortWaits
  split
  · exact lifeKept_of_answersOnly (endWait_answersOnly ..)
  · split
    · exact lifeKept_of_answersOnly (endWait_answersOnly ..)
    · rfl

theorem abortHeldCal_lifeKept (r : Ref) : lifeKept q s (s.abortHeldCal r) := by
  unfold State.abortHeldCal
  split
  · split
    · split
      · exact lifeKept_of_calOnly (calAbort_calOnly ..)
      · rfl
    · rfl
  · rfl

theorem modLife_lifeKept {r : Ref} (h : q ≠ r) (f : Life → Life) : lifeKept q s (s.modLife r f) := modLife_life?_of_ne h s f

theorem capStop_lifeKept (h : q ≠ ⟨.cap, i⟩) : lifeKept q s (s.capStop i) := by
  unfold State.capStop
  extract_lets r live
  split
  · rfl
  · split
    · exact modCap_lifeKept ..
    · exact modLife_lifeKept q s h _

theorem aloRelease_lifeKept : lifeKept q s (s.aloRelease i) :=
  lifeKept_trans (lifeKept_of_tunesOnly (modAlo_tunesOnly s i _)) (lifeKept_of_reportsOnly (setCond_reportsOnly ..))

theorem trafficOut_lifeKept (k : Nat) : lifeKept q s (s.trafficOut i k) :=
  Eq.trans (lifeKept_of_reportsOnly (slateT_reportsOnly ..)) (modConv_lifeKept q s i _)

theorem convHeld_lifeKept (t : Nat) : lifeKept q s (s.convHeld i t) := by
  unfold State.convHeld
  extract_lets k running commanded leaves v
  have ended : lifeKept q s v := lifeKept_ite (lifeKept_of_calOnly (calAbort_calOnly ..)) (lifeKept_refl q s)
  clear_value v
  split
  · have out := lifeKept_ite (p := (s.convR i).onStandin = true) (lifeKept_trans ended (trafficOut_lifeKept q v i k)) ended
    refine lifeKept_trans ?_ (modStandin_lifeKept ..)
    split
    · exact lifeKept_trans ended (trafficOut_lifeKept q v i k)
    · exact ended
  · exact ended

theorem removeOrigin_lifeKept (sel : Origin → Bool) : lifeKept q s (s.removeOrigin sel) := by
  refine lifeKept_of_tablesOnly ?_ (removeOrigin_sameEe ..)
  unfold State.removeOrigin
  extract_lets svcs comps tables v w
  have start : tablesOnly s v := rfl
  have comp : tablesOnly v w := foldl_tablesOnly _ (fun _ _ => putComp_tablesOnly ..) _ _
  clear_value v w
  exact tablesOnly_trans start (tablesOnly_trans comp (foldl_tablesOnly _ (fun _ _ => putSvc_tablesOnly ..) _ _))

end

theorem runEffects_ee_lifeKept (q : Ref) (s : State) (e t : Nat) (group : Bool) : lifeKept q s (s.runEffects ⟨.ee, e⟩ t group) :=
  modEe_lifeKept q (s.restartStream _) e _

/-- The boundaries of an engine are its own. -/
theorem settleRef_ee_lifeKept {q : Ref} {e : Nat} (h : q ≠ ⟨.ee, e⟩) (s : State) : lifeKept q s (s.settleRef ⟨.ee, e⟩) := by
  unfold State.settleRef
  extract_lets l ends v m w
  have held : lifeKept q s v := by
    change lifeKept q s (match l.holdAt with | some h => _ | none => s)
    split
    · refine lifeKept_ite ?_ (lifeKept_refl q s)
      extract_lets stopped
      have quiet : lifeKept q s stopped := by
        refine lifeKept_trans (modLife_lifeKept q s h (fun l => { l with eff := .held, holdAt := none, holdGroup := false, liveAt := none })) ?_
        rw [show stopped = _ from holdEffects_ee ..]
        exact lifeKept_trans (modEe_lifeKept q _ e _) (removeOrigin_lifeKept ..)
      clear_value stopped
      refine lifeKept_ite (lifeKept_trans quiet ?_) quiet
      rw [closeEffects_ee]
      exact modLife_lifeKept q stopped h _
    · rfl
  clear_value v
  have run : lifeKept q s w := by
    change lifeKept q s (match m.dueAt with | some d => _ | none => v)
    split
    · refine lifeKept_ite (lifeKept_trans held ?_) held
      exact Eq.trans (runEffects_ee_lifeKept ..) (modLife_lifeKept q v h _)
    · exact held
  clear_value w
  split
  · exact lifeKept_ite (lifeKept_trans run (modLife_lifeKept q w h _)) run
  · exact run

theorem eeStop_lifeKept {q : Ref} {e : Nat} (h : q ≠ ⟨.ee, e⟩) (s : State) (ended : Bool) : lifeKept q s (s.eeStop e ended) := by
  unfold State.eeStop
  dsimp only
  split
  · exact lifeKept_trans (modLife_lifeKept q s h _) (settleRef_ee_lifeKept h _)
  · rfl

/-! ## A fold that reaches an object -/

/-- A fold over a list that holds `q` ends with what the step for `q` gives, when the other steps wait for it and later ones keep it. -/
theorem foldl_reaches {α β : Type} {f : β → α → β} {q : α} {Waits Done : β → Prop} (start : ∀ b, Waits b → Done (f b q))
    (wait : ∀ b a, a ≠ q → Waits b → Waits (f b a)) (keep : ∀ b a, Done b → Done (f b a)) (l : List α) (b : β) (mem : q ∈ l)
    (h : Waits b) : Done (l.foldl f b) := by
  have stays (l : List α) (b : β) (h : Done b) : Done (l.foldl f b) := by
    induction l generalizing b with
    | nil => exact h
    | cons a l ih => exact ih (f b a) (keep b a h)
  induction l generalizing b with
  | nil => exact nomatch mem
  | cons a l ih =>
    by_cases same : a = q
    · subst same
      exact stays l (f b a) (start b h)
    · exact ih (f b a) (List.mem_of_ne_of_mem (Ne.symm same) mem) (wait b a same h)

/-! ## The groups -/

/-- Every group has as many pending commands as before. -/
def pendKept (s t : State) : Prop := t.host.groups.map (fun g => g.pend.length) = s.host.groups.map (fun g => g.pend.length)

section
variable {s t u : State}

theorem pendKept_refl (s : State) : pendKept s s := rfl
theorem pendKept_trans {a b c : State} (h : pendKept a b) (k : pendKept b c) : pendKept a c := Eq.trans k h
theorem pendKept_of_groups (h : t.host.groups = s.host.groups) : pendKept s t := by
  unfold pendKept
  rw [h]
theorem foldl_pendKept {α : Type} {f : State → α → State} (h : ∀ b a, pendKept b (f b a)) (l : List α) (s : State) :
    pendKept s (l.foldl f s) := foldl_keeps pendKept pendKept_refl (fun _ _ _ => pendKept_trans) f h l s

theorem groups_of_completionOnly (h : s.completionOnly t) : t.host.groups = s.host.groups := by
  unfold State.completionOnly at h
  rw [h]

theorem group_of_groups (h : t.host.groups = s.host.groups) (g : Nat) : t.group g = s.group g := by
  unfold State.group
  rw [h]

theorem modGroup_group_self {g : Nat} (h : g < s.host.groups.length) (f : Group → Group) : (s.modGroup g f).group g = f (s.group g) := by
  unfold State.group State.modGroup
  dsimp only
  rw [modAt_getElem?_self, List.getElem?_eq_getElem h]
  rfl

theorem length_of_pendKept (h : pendKept s t) : t.host.groups.length = s.host.groups.length := by
  have lengths := congrArg List.length h
  rw [List.length_map, List.length_map] at lengths
  exact lengths

theorem pend_of_pendKept (h : pendKept s t) (g : Nat) : (t.group g).pend.length = (s.group g).pend.length := by
  have at_ := congrArg (fun l => l[g]?) h
  simp only [List.getElem?_map] at at_
  unfold State.group
  cases ht : t.host.groups[g]? with
  | none =>
    cases hs : s.host.groups[g]? with
    | none => rfl
    | some x =>
      rw [ht, hs] at at_
      exact nomatch at_
  | some y =>
    cases hs : s.host.groups[g]? with
    | none =>
      rw [ht, hs] at at_
      exact nomatch at_
    | some x =>
      rw [ht, hs] at at_
      exact Option.some.inj at_

end

theorem addDaily_groups (s : State) (code sev : Nat) (object : Id) (data : List Byte) (t : Nat) :
    (s.addDaily code sev object data t).host.groups = s.host.groups := by
  have kept (e : Daily) (l : List Nat) (v : State) :
      (l.foldl (fun s i => if (s.ring i).isRunning kDailies then s.putDaily i e else s) v).host.groups = v.host.groups := by
    refine foldl_keeps (fun a b : State => b.host.groups = a.host.groups) (fun _ => rfl) (fun _ _ _ h k => k.trans h) _ (fun b i => ?_) l v
    split
    · exact groups_of_completionOnly (putRecord_completionOnly ..)
    · rfl
  unfold State.addDaily
  split
  · rfl
  · generalize List.range 64 = l
    exact (kept _ l _).trans rfl

theorem slateDet_host (s : State) (code : Nat) (object : Id) (payload : List Byte) : (s.slateDet code object payload).host = s.host := by
  unfold State.slateDet State.slateAt
  split
  · rfl
  · rfl

theorem sbEnd_groups (s : State) (st : SbSt) : (s.sbEnd st).host.groups = s.host.groups :=
  (congrArg (fun h => h.groups) (slateDet_host ..)).trans rfl

theorem sbReport_groups (s : State) (n fl : Nat) (d : Desc) (st : Status) : (s.sbReport n fl d st).host.groups = s.host.groups := by
  unfold State.sbReport
  split
  · rfl
  · extract_lets v w
    have noted : w.host.groups = s.host.groups := addDaily_groups ..
    clear_value w
    split
    · exact (sbEnd_groups ..).trans noted
    · exact noted

theorem endWait_groups (s : State) (why : WaitFor) (st : Status) (t : Nat) : (s.endWait why st t).host.groups = s.host.groups := by
  refine foldl_keeps (fun a b : State => b.host.groups = a.host.groups) (fun _ => rfl) (fun _ _ _ h k => k.trans h) _ (fun b w => ?_) _ _
  rw [endOne_eq]
  have start : (unwaited b w).host.groups = b.host.groups := rfl
  generalize unwaited b w = v at *
  refine Eq.trans ?_ start
  cases entry : w.entry with
  | none => exact groups_of_completionOnly (report_completionOnly ..)
  | some e => exact sbReport_groups ..

theorem abortWaits_pendKept (s : State) (r : Ref) : pendKept s (s.abortWaits r) := by
  unfold State.abortWaits
  split
  · exact pendKept_of_groups (endWait_groups ..)
  · split
    · exact pendKept_of_groups (endWait_groups ..)
    · exact pendKept_refl s

theorem override_pendKept (s : State) (r : Ref) : pendKept s (s.override r) := by
  unfold pendKept State.override
  rw [List.map_map]
  refine List.map_congr_left fun g _ => ?_
  show List.length (if _ then g else _ : Group).pend = _
  split
  · rfl
  · exact List.length_map ..

theorem modLife_host (s : State) (r : Ref) (f : Life → Life) : (s.modLife r f).host = s.host := by
  unfold State.modLife
  split <;> rfl

theorem capStop_host (s : State) (c : Nat) : (s.capStop c).host = s.host := by
  unfold State.capStop
  extract_lets r live
  split
  · rfl
  · split <;> rfl

/-! ## GROUP_DEFINE -/

/-- The members that GROUP_DEFINE names. -/
def namedMembers (d : Desc) (u : State) : List Id :=
  (List.range (d.plen.toNat / 4)).map (fun k => u.stored (BitVec.ofNat 32 (leAt d.bytes (4 * k) 4)))

/-- The members of the group after it, by MODE. -/
def newMembers (mode : Nat) (old ids : List Id) : List Id :=
  if mode = 0 then ids else if mode = 1 then old ++ ids else old.filter (fun i => !ids.contains i)

section
variable {u : State} {d : Desc}

theorem groupDefine_refused (bad : 1024 < d.plen.toNat ∨ d.plen.toNat % 4 ≠ 0 ∨ 2 < d.inlByte 0 ∨
      (d.inlByte 0 ≠ 0 ∧ (u.group (idIdx d.object)).defined = false)) :
    (cmdGroupDefine d u).s = u ∧ (cmdGroupDefine d u).carry = [] ∧ (cmdGroupDefine d u).wait = none := by
  unfold cmdGroupDefine
  extract_lets n g x mode
  split
  · exact ⟨rfl, rfl, rfl⟩
  next most =>
    split
    · exact ⟨rfl, rfl, rfl⟩
    next low =>
      split
      · exact ⟨rfl, rfl, rfl⟩
      next whole =>
        rw [if_pos (bad.elim (fun h => absurd h most) fun b => b.elim (fun h => absurd h whole) fun b => b.elim (fun h => absurd h low) id)]
        exact ⟨rfl, rfl, rfl⟩

theorem groupDefine_of_good (most : d.plen.toNat ≤ 1024) (whole : d.plen.toNat % 4 = 0) (low : d.inlByte 0 ≤ 2)
    (known : d.inlByte 0 = 0 ∨ (u.group (idIdx d.object)).defined = true)
    (good : u.memberBad (d.inlByte 0) (u.stored d.object) (u.group (idIdx d.object)).members 0 [] (namedMembers d u) = none)
    (few : (newMembers (d.inlByte 0) (u.group (idIdx d.object)).members (namedMembers d u)).length ≤ 256)
    (room : u.groupEntries (idIdx d.object) + (newMembers (d.inlByte 0) (u.group (idIdx d.object)).members (namedMembers d u)).length ≤ 4096)
    (here : (newMembers (d.inlByte 0) (u.group (idIdx d.object)).members (namedMembers d u) ++ (u.group (idIdx d.object)).members).all
      u.idLocal = true) :
    cmdGroupDefine d u = if d.inlByte 0 = 0 ∧ d.plen.toNat = 0 then (u.groupClose (idIdx d.object)).okCmd
      else (u.modGroup (idIdx d.object) (fun y => { y with
        defined := true, members := newMembers (d.inlByte 0) (u.group (idIdx d.object)).members (namedMembers d u) })).okCmd := by
  unfold cmdGroupDefine
  extract_lets n g x mode ids members spans
  have taken : members = newMembers (d.inlByte 0) (u.group (idIdx d.object)).members (namedMembers d u) := by
    show (match mode with | 0 => ids | 1 => x.members ++ ids | _ => x.members.filter (fun i => !ids.contains i)) = _
    unfold newMembers
    obtain h | h | h : mode = 0 ∨ mode = 1 ∨ mode = 2 := by omega
    all_goals
      rw [show d.inlByte 0 = mode from rfl, h]
      rfl
  have alone (l : List Id) (h : ∀ i ∈ l, u.idLocal i = true) : spans l = false :=
    List.any_eq_false.2 fun i mem => by rw [h i mem]; decide
  have all := List.all_eq_true.1 here
  rw [← taken] at few room all ⊢
  rw [if_neg (Nat.not_lt_of_le most), if_neg (Nat.not_lt_of_le low), if_neg (fun h => h whole),
    if_neg (fun h => known.elim h.1 fun k => by rw [show x.defined = true from k] at h; exact nomatch h.2),
    show u.memberBad mode (u.stored d.object) x.members 0 [] ids = none from good]
  dsimp only
  rw [if_neg (c := 256 < members.length) (Nat.not_lt_of_le few), if_neg (c := 4096 < u.groupEntries g + members.length) (Nat.not_lt_of_le room), alone _ (fun i mem => all i (List.mem_append_left _ mem)),
    alone _ (fun i mem => all i (List.mem_append_right _ mem)), if_neg (by decide)]

/-- A closed group. -/
theorem groupClose_group (u : State) (g : Nat) :
    (u.groupClose g).group g = { u.group g with defined := false, members := [] } := by
  unfold State.groupClose State.group State.modGroup
  dsimp only
  rw [modAt_getElem?_self, List.getElem?_map]
  cases u.host.groups[g]? with
  | none => rfl
  | some x => rfl

end

theorem hostSideOnly_of_group {s u t v : State} (h : u.hostSideOnly v) (k : v.completionOnly t) : (s.framed u).hostSideOnly (s.framed t) :=
  framed_hostSideOnly (hostSideOnly_trans h (hostSideOnly_of_completionOnly k))

theorem groupDefined : Rules.GroupDefined := by
  intro s d g u ref inside acc n ids old new
  have idx : idIdx d.object = g := (idRef_spec (idRef_of_refOf ref)).2.1
  subst idx
  refine ⟨fun most whole low known good few room here => ?_, fun bad => ?_⟩
  · have result := groupDefine_of_good (d := withOp opGroupDefine d) (u := u) most whole low known good few room here
    by_cases close : d.inlByte 0 = 0 ∧ n = 0
    · have closes := result.trans (if_pos close)
      refine completes_of_result (c := .groupDefine d) rfl acc closes rfl rfl fun t done_ => ?_
      have groups : (s.framed t).host.groups = (u.groupClose (idIdx d.object)).host.groups :=
        groups_of_completionOnly (s := u.groupClose (idIdx d.object)) (t := t) done_.only
      rw [group_of_groups groups, groupClose_group, if_pos close]
      exact ⟨rfl, hostSideOnly_of_group (v := u.groupClose (idIdx d.object)) rfl done_.only⟩
    · have stores := result.trans (if_neg close)
      refine completes_of_result (c := .groupDefine d) rfl acc stores rfl rfl fun t done_ => ?_
      have groups := group_of_groups (groups_of_completionOnly done_.only) (idIdx d.object)
      refine ⟨?_, hostSideOnly_of_group (v := u.modGroup (idIdx d.object) _) rfl done_.only⟩
      rw [if_neg close]
      exact groups.trans (modGroup_group_self inside _)
  · exact completes_unchanged (c := .groupDefine d) (d := withOp opGroupDefine d) rfl acc rfl (groupDefine_refused (d := withOp opGroupDefine d) bad)

end Sys2Proof.Proofs
end

section
/-! PROOF. Commands to groups (R369 to R372): O52. -/
namespace Sys2Proof.Proofs
open Sys2Proof Sys2Proof.Machine Sys2Proof.Laws

/-! ## GROUP_HOLD -/

/-- A group's hold of one member. -/
def groupHoldOne (f0 : Nat) (s : State) (r : Ref) : State :=
  if (s.life r).cmd ≠ .run then s
  else if r.kind = .cap then (if f0 ≤ s.now then s.capStop r.idx else s.modCap r.idx (fun c => { c with stopAt := some f0 }))
  else ((s.abortWaits r).override r).modLife r (fun l => l.hold (some f0) true)

theorem groupHoldAt_eq (u : State) (i : Id) (f0 : Nat) : u.groupHoldAt i f0 =
    (sortBy (fun r => kindRank r.kind) (u.flatHere false i)).foldl (groupHoldOne f0) u := rfl

theorem ref_eq_of_kind {r : Ref} {k : Kind} (h : r.kind = k) : r = ⟨k, r.idx⟩ := by
  obtain ⟨kind, i⟩ := r
  cases h
  rfl

theorem groupHoldOne_lifeKept {q r : Ref} (h : q ≠ r) (f0 : Nat) (s : State) : lifeKept q s (groupHoldOne f0 s r) := by
  unfold groupHoldOne
  refine lifeKept_ite (lifeKept_refl q s) ?_
  split
  next cap =>
    rw [ref_eq_of_kind cap] at h
    exact lifeKept_ite (capStop_lifeKept q s _ h) (modCap_lifeKept ..)
  next =>
    exact lifeKept_trans (lifeKept_trans (abortWaits_lifeKept q s r) (override_lifeKept ..)) (modLife_lifeKept q _ h _)

theorem groupHoldOne_of_running {q : Ref} {s : State} (runs : (s.life q).cmd = .run) (plain : q.kind ≠ .cap) (f0 : Nat) :
    (groupHoldOne f0 s q).life q = (s.life q).hold (some f0) true := by
  have kept : lifeKept q s ((s.abortWaits q).override q) := lifeKept_trans (abortWaits_lifeKept q s q) (override_lifeKept ..)
  have life := life_of_lifeKept kept
  unfold groupHoldOne
  rw [if_neg (fun h => h runs), if_neg plain]
  generalize (s.abortWaits q).override q = v at *
  rw [modLife_life_self (life?_isSome_of_cmd (by rw [life, runs]; decide)), life]

/-- Every member in RUN is held. -/
theorem groupHoldAt_life {u : State} {i : Id} {q : Ref} (mem : q ∈ u.flatHere false i) (runs : (u.life q).cmd = .run) (plain : q.kind ≠ .cap)
    (f0 : Nat) : (u.groupHoldAt i f0).life q = (u.life q).hold (some f0) true := by
  rw [groupHoldAt_eq]
  refine foldl_reaches (Waits := fun b : State => b.life q = u.life q) (Done := fun b : State => b.life q = (u.life q).hold (some f0) true)
    (fun b waits => ?_) (fun b a other waits => ?_) (fun b a done_ => ?_) _ u ((sortBy_perm ..).mem_iff.2 mem) rfl
  · have held := groupHoldOne_of_running (s := b) (by rw [waits]; exact runs) plain f0
    rw [held, waits]
  · exact (life_of_lifeKept (groupHoldOne_lifeKept (Ne.symm other) f0 b)).trans waits
  · by_cases same : q = a
    · subst same
      have idle : (b.life q).cmd ≠ .run := by
        rw [done_]
        exact fun h => nomatch (show ObjSt.held = .run from h)
      rw [show groupHoldOne f0 b q = b from if_pos idle]
      exact done_
    · exact (life_of_lifeKept (groupHoldOne_lifeKept same f0 b)).trans done_

theorem groupHoldAt_pendKept (u : State) (i : Id) (f0 : Nat) : pendKept u (u.groupHoldAt i f0) := by
  rw [groupHoldAt_eq]
  refine foldl_pendKept (fun b r => ?_) _ u
  unfold groupHoldOne
  split
  · exact pendKept_refl b
  · split
    · split
      · exact pendKept_of_groups (congrArg (fun h => h.groups) (capStop_host b r.idx))
      · exact pendKept_refl b
    · exact pendKept_trans (pendKept_trans (abortWaits_pendKept b r) (override_pendKept ..))
        (pendKept_of_groups (congrArg (fun h => h.groups) (modLife_host ..)))

theorem groupPending_life (v : State) (g : Nat) (e : Desc) (isRun : Bool) (members : List Ref) (q : Ref) :
    (v.groupPending g e isRun members).life q = v.life q := by
  unfold State.groupPending
  split
  · rfl
  · rfl

theorem groupPending_pend {v : State} {g : Nat} (inside : g < v.host.groups.length) {e : Desc} (index : e.inlByte 0 = 1) (isRun : Bool)
    (members : List Ref) : ((v.groupPending g e isRun members).group g).pend.length = (v.group g).pend.length + 1 := by
  unfold State.groupPending
  rw [if_pos index, modGroup_group_self inside]
  exact List.length_append

theorem groupHold_of_here {u : State} {e : Desc} (free : u.groupFenced e.object = false) (fence : u.cas.fence = none)
    (here : u.groupElsewhere e.object = []) (f0 : Nat) : u.groupHold e f0 =
      ((u.groupHoldAt e.object f0).groupPending (idIdx e.object) e false
        ((u.flatHere false e.object).filter (fun r => (u.life r).cmd == .run))).okAt f0 := by
  unfold State.groupHold
  dsimp only
  rw [free, fence, here, if_neg (by decide), if_neg (by decide)]
  rfl

/-- A hold of a group whose descriptor `e'` has the object and the time of `e`. -/
theorem holdsGroup_of_result {s : State} {d e e' : Desc} {g f0 op : Nat} {c : Instr} (desc : hostDesc c = some (withOp op d))
    (accepted : s.accepted (withOp op d) = true)
    (result : (s.releaseEntry d.ring).runOp (withOp op d) (withOp op d).opcode.toNat = (s.releaseEntry d.ring).groupHold e' f0)
    (object : e'.object = d.object) (time : e'.inlByte 0 = e.inlByte 0)
    (ref : (s.releaseEntry d.ring).refOf d.object = some ⟨.group, g⟩) (inside : g < (s.releaseEntry d.ring).host.groups.length)
    (elsewhere : (s.releaseEntry d.ring).groupElsewhere d.object = [])
    (free : (s.releaseEntry d.ring).groupFenced d.object = false) (fence : (s.releaseEntry d.ring).cas.fence = none) :
    completes c s (fun t =>
      (∀ q, q ∈ (s.releaseEntry d.ring).flatHere false d.object → ((s.releaseEntry d.ring).life q).cmd = .run → q.kind ≠ .cap →
        (t.life q).cmd = .held ∧ (t.life q).dueAt = none ∧ (t.life q).blk = ((s.releaseEntry d.ring).life q).blk ∧
        (((s.releaseEntry d.ring).life q).eff = .run → ((s.releaseEntry d.ring).life q).holdAt = none → (t.life q).holdAt = some f0)) ∧
      (e.inlByte 0 = 1 → (t.group g).pend.length = ((s.releaseEntry d.ring).group g).pend.length + 1)) := by
  rw [← object] at elsewhere free
  have held := result.trans (groupHold_of_here free fence elsewhere f0)
  refine completes_of_result desc accepted held rfl rfl fun t done_ => ?_
  have idx : idIdx e'.object = g := by
    rw [object]
    exact (idRef_spec (idRef_of_refOf ref)).2.1
  have life (q : Ref) := (life_of_completionOnly done_.only q).trans (groupPending_life ..)
  have groups := groups_of_completionOnly done_.only
  obtain ⟨-⟩ := done_
  clear held result
  rw [object] at life
  generalize s.releaseEntry d.ring = u at *
  refine ⟨fun q mem runs plain => ?_, fun index => ?_⟩
  · rw [show (s.framed t).life q = _ from (life q).trans (groupHoldAt_life mem runs plain f0)]
    refine ⟨rfl, rfl, rfl, fun eff none_ => ?_⟩
    show (if _ then if _ then _ else _ else _) = _
    rw [if_pos eff, if_neg (fun h => by rw [none_] at h; exact nomatch h.2)]
  · have kept := groupHoldAt_pendKept u e'.object f0
    have more := groupPending_pend (v := u.groupHoldAt e'.object f0) (g := g) (by rw [length_of_pendKept kept]; exact inside)
      (time.trans index) false ((u.flatHere false e'.object).filter (fun r => (u.life r).cmd == .run))
    rw [idx] at groups
    rw [show (s.framed t).group g = _ from group_of_groups groups g, pend_of_pendKept kept] at *
    exact more

/-! ## GROUP_RUN -/

/-- A member whose run fails has a status other than OK. -/
theorem groupRunFail_ne_ok {u : State} {rs : List Ref} {t : Nat} {x : Ref × Status} (h : u.groupRunFail rs t = some x) : x.2 ≠ .ok := by
  unfold State.groupRunFail at h
  extract_lets go at h
  have sound (budget : Bool) : ∀ y, (go budget).2 = some y → y.2 ≠ .ok := by
    refine List.foldlRecOn (motive := fun a : State × Option (Ref × Status) => ∀ y, a.2 = some y → y.2 ≠ .ok) rs _
      (fun y none_ => nomatch none_) fun a ih r _ y => ?_
    dsimp only
    split
    · exact ih y
    · split
      · exact fun none_ => nomatch none_
      next fails =>
        intro some_
        cases some_
        exact fun ok => fails (.inl ok)
  split at h
  next y first =>
    cases h
    exact sound false x first
  next => exact sound true x h

/-- The run of one member of a group. -/
def groupRunOne (t : Nat) (s : State) (r : Ref) : State := (s.override r).startObj t true r

theorem groupRunOne_eq (t : Nat) (s : State) (r : Ref) : groupRunOne t s r =
    ((s.override r).abortHeldCal r).modLife r (fun l => { l with cmd := .run, dueAt := some (max t (l.holdAt.getD t)), viaGroup := true }) := rfl

/-- A run commanded by a group. -/
structure GroupRuns (l l' : Life) : Prop where
  cmd : l'.cmd = .run
  due : l'.dueAt.isSome = true
  via : l'.viaGroup = true
  blk : l'.blk = l.blk

theorem groupRunOne_life {q : Ref} {s : State} (live : (s.life q).cmd ≠ .closed) (t : Nat) :
    GroupRuns (s.life q) ((groupRunOne t s q).life q) := by
  have life : ((s.override q).abortHeldCal q).life q = s.life q :=
    life_of_lifeKept (lifeKept_trans (override_lifeKept q s q) (abortHeldCal_lifeKept ..))
  rw [groupRunOne_eq]
  generalize (s.override q).abortHeldCal q = v at *
  rw [modLife_life_self (life?_isSome_of_cmd (by rw [life]; exact live)), life]
  exact ⟨rfl, rfl, rfl, rfl⟩

theorem groupRunOne_lifeKept {q r : Ref} (h : q ≠ r) (t : Nat) (s : State) : lifeKept q s (groupRunOne t s r) := by
  rw [groupRunOne_eq]
  exact lifeKept_trans (lifeKept_trans (override_lifeKept q s r) (abortHeldCal_lifeKept ..)) (modLife_lifeKept q _ h _)

/-- Every member that may start is commanded to run. -/
theorem groupRunAll_life {u : State} {rs : List Ref} {q : Ref} (mem : q ∈ rs) (live : (u.life q).cmd ≠ .closed) (t : Nat) :
    GroupRuns (u.life q) ((rs.foldl (groupRunOne t) u).life q) := by
  refine foldl_reaches (Waits := fun b : State => b.life q = u.life q) (Done := fun b : State => GroupRuns (u.life q) (b.life q))
    (fun b waits => ?_) (fun b a other waits => ?_) (fun b a done_ => ?_) rs u mem rfl
  · have runs := groupRunOne_life (s := b) (q := q) (by rw [waits]; exact live) t
    rw [waits] at runs
    exact runs
  · exact (life_of_lifeKept (groupRunOne_lifeKept (Ne.symm other) t b)).trans waits
  · by_cases same : q = a
    · subst same
      obtain ⟨cmd, due, via, blk⟩ := groupRunOne_life (s := b) (q := q) (by rw [done_.cmd]; decide) t
      exact ⟨cmd, due, via, blk.trans done_.blk⟩
    · rw [life_of_lifeKept (groupRunOne_lifeKept same t b)]
      exact done_

section
variable {u : State} {e : Desc} {t0 : Nat}

theorem groupRun_of_good (free : u.groupFenced e.object = false) (here : u.groupElsewhere e.object = [])
    (good : u.groupRunFail (u.groupRunnable e.object) t0 = none) : ∃ t, u.groupRun e t0 =
      ((((u.groupRunnable e.object).foldl (groupRunOne t) u).groupPending (idIdx e.object) e true (u.groupRunnable e.object))).okAt t := by
  refine ⟨u.runFrom (u.groupRunnable e.object) t0, ?_⟩
  unfold State.groupRun State.groupRunAt
  dsimp only
  rw [free, if_neg (by decide), good]
  dsimp only
  rw [here, if_pos (by rfl)]
  rfl

theorem groupRun_refused (free : u.groupFenced e.object = false) (fails : (u.groupRunFail (u.groupRunnable e.object) t0).isSome = true) :
    (u.groupRun e t0).s = u ∧ (u.groupRun e t0).carry = [] ∧ (u.groupRun e t0).wait = none := by
  obtain ⟨⟨r, st⟩, found⟩ := Option.isSome_iff_exists.1 fails
  have bad := groupRunFail_ne_ok found
  unfold State.groupRun State.groupRunAt
  dsimp only
  rw [free, if_neg (by decide), found]
  dsimp only
  rw [if_neg (c := (u.fail st).status = .ok) bad]
  exact ⟨rfl, rfl, rfl⟩

end

/-- A run of a group whose descriptor `e'` has its object. -/
theorem runsGroup_of_result {s : State} {d e' : Desc} {t0 op : Nat} {c : Instr} (desc : hostDesc c = some (withOp op d))
    (accepted : s.accepted (withOp op d) = true)
    (result : (s.releaseEntry d.ring).runOp (withOp op d) (withOp op d).opcode.toNat = (s.releaseEntry d.ring).groupRun e' t0)
    (object : e'.object = d.object) (elsewhere : (s.releaseEntry d.ring).groupElsewhere d.object = [])
    (free : (s.releaseEntry d.ring).groupFenced d.object = false) :
    ((s.releaseEntry d.ring).groupRunFail ((s.releaseEntry d.ring).groupRunnable d.object) t0 = none → completes c s (fun t =>
      ∀ q, q ∈ (s.releaseEntry d.ring).groupRunnable d.object → (t.life q).cmd = .run ∧ (t.life q).dueAt.isSome = true ∧
        (t.life q).viaGroup = true ∧ (t.life q).blk = ((s.releaseEntry d.ring).life q).blk)) ∧
    (((s.releaseEntry d.ring).groupRunFail ((s.releaseEntry d.ring).groupRunnable d.object) t0).isSome = true →
      completes c s (State.completionOnly (s.framed (s.releaseEntry d.ring)))) := by
  rw [← object] at elsewhere free ⊢
  refine ⟨fun good => ?_, fun fails => completes_unchanged (d := withOp op d) desc accepted result (groupRun_refused free fails)⟩
  obtain ⟨at_, runs⟩ := groupRun_of_good free elsewhere good
  refine completes_of_result desc accepted (result.trans runs) rfl rfl fun t done_ q mem => ?_
  have life := (life_of_completionOnly done_.only q).trans (groupPending_life ..)
  have held := (List.mem_filter.1 ((sortBy_perm ..).mem_iff.1 mem)).2
  rw [Bool.and_eq_true, beq_iff_eq] at held
  obtain ⟨cmd, due, via, blk⟩ := groupRunAll_life mem (by rw [held.2]; decide) at_
  rw [show (s.framed t).life q = _ from life]
  exact ⟨cmd, due, via, blk⟩

/-! ## OBJ_OPEN of a group -/

theorem openObj_lifeKept {q r : Ref} (h : q ≠ r) (s : State) : lifeKept q s (s.openObj r) := by
  unfold State.openObj
  extract_lets l b v
  have opened : lifeKept q s v := modLife_lifeKept q s h _
  clear_value v
  exact lifeKept_ite (lifeKept_refl q s) (lifeKept_ite (lifeKept_trans opened (modConv_lifeKept ..)) opened)

theorem openObj_of_open {q : Ref} {s : State} (h : (s.life q).cmd ≠ .closed) : s.openObj q = s := if_pos h

theorem openObj_of_closed {q : Ref} {s : State} (present : (s.life? q).isSome = true) (cmd : (s.life q).cmd = .closed)
    (eff : (s.life q).eff ≠ .run) : (s.openObj q).life q = Life.at .held (resetBlk q.kind) := by
  unfold State.openObj
  extract_lets l b v
  have opened : v.life q = Life.at .held (resetBlk q.kind) := (modLife_life_self present _).trans (if_neg eff)
  clear_value v
  rw [if_neg (fun h => h cmd)]
  split
  · rw [modConv_life]
    exact opened
  · exact opened

/-- Every CLOSED member is opened. -/
theorem openAll_life {u : State} {rs : List Ref} {q : Ref} (mem : q ∈ rs) (present : (u.life? q).isSome = true)
    (cmd : (u.life q).cmd = .closed) (eff : (u.life q).eff ≠ .run) :
    (rs.foldl State.openObj u).life q = Life.at .held (resetBlk q.kind) := by
  refine foldl_reaches (Waits := lifeKept q u) (Done := fun b : State => b.life q = Life.at .held (resetBlk q.kind))
    (fun b waits => ?_) (fun b a other waits => lifeKept_trans waits (openObj_lifeKept (Ne.symm other) b)) (fun b a done_ => ?_) rs u mem rfl
  · have life := life_of_lifeKept waits
    refine openObj_of_closed (s := b) ?_ (by rw [life]; exact cmd) (by rw [life]; exact eff)
    rw [show b.life? q = u.life? q from waits]
    exact present
  · by_cases same : q = a
    · subst same
      rw [openObj_of_open (by rw [done_]; exact fun h => nomatch (show ObjSt.held = .closed from h))]
      exact done_
    · exact (life_of_lifeKept (openObj_lifeKept same b)).trans done_

/-! ## OBJ_CLOSE of a group -/

/-- An object is CLOSED. -/
def isClosed (q : Ref) (s : State) : Prop := (s.life q).cmd = .closed

theorem isClosed_of_lifeKept {q : Ref} {s t : State} (h : isClosed q s) (k : lifeKept q s t) : isClosed q t := by
  unfold isClosed
  rw [life_of_lifeKept k]
  exact h

theorem modLife_closes {f : Life → Life} (h : ∀ l, (f l).cmd = .closed) (s : State) (r : Ref) : isClosed r (s.modLife r f) := by
  unfold isClosed State.life
  rw [modLife_life?_self]
  cases s.life? r with
  | none => rfl
  | some l => exact h l

theorem modLife_keeps_closed {f : Life → Life} (h : ∀ l, l.cmd = .closed → (f l).cmd = .closed) {q : Ref} {s : State} (closed : isClosed q s)
    (r : Ref) : isClosed q (s.modLife r f) := by
  by_cases same : q = r
  · subst same
    unfold isClosed State.life at closed ⊢
    rw [modLife_life?_self]
    cases found : s.life? q with
    | none => rfl
    | some l =>
      rw [found] at closed
      exact h l closed
  · exact isClosed_of_lifeKept closed (modLife_lifeKept q s same f)

theorem capClosed_keeps_closed {q : Ref} {s : State} (closed : isClosed q s) (mask c : Nat) : isClosed q (s.capClosed mask c) := by
  unfold State.capClosed
  extract_lets r m v
  have marked : isClosed q v := isClosed_of_lifeKept closed (lifeKept_ite (lifeKept_of_answersOnly rfl) (lifeKept_refl q s))
  clear_value v
  refine isClosed_of_lifeKept (modLife_keeps_closed (fun l h => ?_) marked ⟨.cap, c⟩) (modCap_lifeKept ..)
  unfold Life.capHeld
  rw [if_pos h]
  exact h

theorem foldl_closed {α : Type} {f : State → α → State} {q : Ref} (h : ∀ b a, isClosed q b → isClosed q (f b a)) (l : List α) {s : State}
    (closed : isClosed q s) : isClosed q (l.foldl f s) :=
  List.foldlRecOn (motive := isClosed q) l f closed fun b hb a _ => h b a hb

/-- A close closes its object, and leaves a closed one closed. -/
theorem closeEffects0_closed {q r : Ref} {s : State} (h : q = r ∨ isClosed q s) : isClosed q (s.closeEffects0 r) := by
  unfold State.closeEffects0
  extract_lets v w x y z
  have both : isClosed q w := by
    obtain rfl | closed := h
    · exact modLife_closes (fun _ => rfl) v q
    · have caps : isClosed q v := by
        show isClosed q (if _ then _ else s)
        split
        · exact foldl_closed (fun b c hb => capClosed_keeps_closed hb _ c) _ closed
        · exact closed
      exact modLife_keeps_closed (fun _ _ => rfl) caps r
  have pins : lifeKept q w x := modConv_lifeKept ..
  have held : lifeKept q x y := lifeKept_trans (convHeld_lifeKept q x r.idx x.now) (modUnit_lifeKept ..)
  have visit : lifeKept q y z := lifeKept_ite (modStandin_lifeKept ..) (lifeKept_refl q y)
  clear_value v w x y z
  have input := lifeKept_trans pins (lifeKept_trans held visit)
  split
  · exact isClosed_of_lifeKept both (lifeKept_ite (lifeKept_trans input (aloRelease_lifeKept ..)) input)
  · refine isClosed_of_lifeKept both (Eq.trans (lifeKept_of_reportsOnly (setFlag_reportsOnly ..)) ?_)
    rfl
  · exact both

theorem closeEffects_closed {q r : Ref} {s : State} (h : q = r ∨ isClosed q s) : isClosed q (s.closeEffects r) := by
  unfold State.closeEffects
  split
  · exact isClosed_of_lifeKept (closeEffects0_closed h) (modProg_lifeKept ..)
  · exact closeEffects0_closed h

theorem holdObj_lifeKept {q r : Ref} (h : q ≠ r) (s : State) : lifeKept q s (s.holdObj r) := by
  unfold State.holdObj
  extract_lets l v
  have held : lifeKept q s v := lifeKept_trans (lifeKept_trans (abortWaits_lifeKept q s r) (override_lifeKept ..)) (modLife_lifeKept q _ h _)
  clear_value v
  refine lifeKept_ite (lifeKept_refl q s) ?_
  split
  next cap =>
    rw [ref_eq_of_kind cap] at h
    exact capStop_lifeKept q s _ h
  next =>
    split
    next ee =>
      rw [ref_eq_of_kind ee] at h
      exact lifeKept_trans held (eeStop_lifeKept h v false)
    next => exact held

theorem closeObj_of_closed {q : Ref} {s : State} (h : isClosed q s) : s.closeObj q = s := if_pos h

theorem closeObj_closes (s : State) (q : Ref) : isClosed q (s.closeObj q) := by
  by_cases closed : isClosed q s
  · rw [closeObj_of_closed closed]
    exact closed
  · unfold State.closeObj
    dsimp only
    rw [if_neg (c := (s.life q).cmd = .closed) closed]
    split
    · exact modLife_closes (fun _ => rfl) _ q
    · exact closeEffects_closed (.inl rfl)

theorem closeObj_keeps_closed {q : Ref} {s : State} (closed : isClosed q s) (r : Ref) : isClosed q (s.closeObj r) := by
  by_cases same : q = r
  · subst same
    rw [closeObj_of_closed closed]
    exact closed
  · unfold State.closeObj
    extract_lets l v
    have held : isClosed q v := isClosed_of_lifeKept closed (holdObj_lifeKept same s)
    clear_value v
    split
    · exact closed
    · split
      · exact modLife_keeps_closed (fun _ _ => rfl) held r
      · exact closeEffects_closed (.inr held)

/-- Every member is closed. -/
theorem closeAll_closed {rs : List Ref} {q : Ref} (mem : q ∈ rs) (s : State) : isClosed q (rs.foldl State.closeObj s) :=
  foldl_reaches (Waits := fun _ => True) (Done := isClosed q) (fun b _ => closeObj_closes b q) (fun _ _ _ _ => trivial)
    (fun _ a done_ => closeObj_keeps_closed done_ a) rs s mem trivial

section
variable {u : State} {d : Desc} {g : Nat}

theorem objOpen_of_group (ref : u.refOf d.object = some ⟨.group, g⟩) (known : (u.group g).defined = true)
    (here : u.groupElsewhere d.object = []) : cmdObjOpen d u = ((u.flatHere false d.object).foldl State.openObj u).okCmd := by
  unfold cmdObjOpen
  rw [ref]
  dsimp only
  rw [if_pos rfl, known, if_neg (by decide), here]
  rfl

theorem objClose_of_group (ref : u.refOf d.object = some ⟨.group, g⟩) (own : (u.group g).members.all u.idLocal = true)
    (here : u.groupElsewhere d.object = []) : cmdObjClose d u =
      (((sortBy (fun r => kindRank r.kind) (u.flatHere false d.object)).foldl State.closeObj u).groupClose g).okCmd := by
  have alone : (u.group g).members.any (fun i => !u.idLocal i) = false :=
    List.any_eq_false.2 fun i mem => by rw [List.all_eq_true.1 own i mem]; decide
  unfold cmdObjClose
  rw [ref]
  dsimp only
  rw [if_pos rfl, alone, here, if_neg (by rw [Bool.false_and, Bool.false_and]; decide), if_pos (by rfl)]
  rfl

theorem objHold_of_group (ref : u.refOf d.object = some ⟨.group, g⟩) : cmdObjHold d u = u.groupHold (immediate d) u.now := by
  unfold cmdObjHold
  rw [ref]
  exact if_pos rfl

theorem objRun_of_group (ref : u.refOf d.object = some ⟨.group, g⟩) : cmdObjRun d u = u.groupRun (immediate d) u.now := by
  unfold cmdObjRun
  rw [ref]
  exact if_pos rfl

theorem groupHold_of_time {f0 : Nat} (time : u.groupTime d true = .ok f0) : cmdGroupHold d u = u.groupHold d f0 := by
  unfold cmdGroupHold
  rw [time]

theorem groupRun_of_time {t0 : Nat} (time : u.groupTime d false = .ok t0) : cmdGroupRun d u = u.groupRun d t0 := by
  unfold cmdGroupRun
  rw [time]

theorem inlByte_immediate (d : Desc) : (immediate d).inlByte 0 = 0 := by
  show (BitVec.extractLsb' 0 8 0#320).toNat = 0
  rw [BitVec.extractLsb'_zero]
  exact BitVec.toNat_ofNat ..

/-- An IMMEDIATE command acts at its take-up. -/
theorem groupTime_immediate {f0 : Nat} {hold : Bool} (time : u.groupTime (immediate d) hold = .ok f0) : f0 = u.now := by
  unfold State.groupTime at time
  dsimp only at time
  rw [if_pos (inlByte_immediate d)] at time
  cases time
  rfl

end

theorem groupClose_life (u : State) (g : Nat) (q : Ref) : (u.groupClose g).life q = u.life q := rfl

theorem groupCommands : Rules.GroupCommands := by
  intro s d g u ref inside here
  refine ⟨fun f0 acc time free fence => ?_, fun f0 acc time free fence => ?_, fun t0 acc time free => ?_, fun t0 acc time free => ?_,
    fun acc known => ?_, fun acc own => ?_⟩
  · exact holdsGroup_of_result (c := .groupHold d) (e' := withOp opGroupHold d) rfl acc (groupHold_of_time (d := withOp opGroupHold d) time)
      rfl rfl ref inside here free fence
  · rw [groupTime_immediate time]
    exact holdsGroup_of_result (c := .objHold d) (e' := immediate (withOp opHold d)) rfl acc (objHold_of_group (d := withOp opHold d) ref)
      rfl rfl ref inside here free fence
  · exact runsGroup_of_result (c := .groupRun d) (e' := withOp opGroupRun d) rfl acc (groupRun_of_time (d := withOp opGroupRun d) time)
      rfl here free
  · rw [groupTime_immediate time]
    exact runsGroup_of_result (c := .objRun d) (e' := immediate (withOp opRun d)) rfl acc (objRun_of_group (d := withOp opRun d) ref)
      rfl here free
  · refine completes_of_result (c := .objOpen d) rfl acc (objOpen_of_group (d := withOp opOpen d) ref known here) rfl rfl
      fun t done_ q mem present cmd eff => ?_
    have life := life_of_completionOnly done_.only q
    exact Eq.trans life (openAll_life mem present cmd eff)
  · refine completes_of_result (c := .objClose d) rfl acc (objClose_of_group (d := withOp opClose d) ref own here) rfl rfl
      fun t done_ => ?_
    have group := (group_of_groups (groups_of_completionOnly done_.only) g).trans (groupClose_group ..)
    refine ⟨congrArg Group.defined group, congrArg Group.members group, fun q mem => ?_⟩
    have life := (life_of_completionOnly done_.only q).trans (groupClose_life ..)
    exact (congrArg Life.cmd life).trans (closeAll_closed ((sortBy_perm ..).mem_iff.2 mem) u)

/-- Settles O52: Rules.GroupDefined and Rules.GroupCommands, proved above. -/
theorem groupActions : Obligations.GroupActions := ⟨groupDefined, groupCommands⟩

end Sys2Proof.Proofs
end

section
/-! PROOF. CAL_RUN and CAL_POLICY (R410, R411, R419, R420, R422). -/
namespace Sys2Proof.Proofs
open Sys2Proof Sys2Proof.Machine Sys2Proof.Laws

/-! ## Units -/

section
variable {s : State} {x y : Nat}

theorem modUnit_unit_self (h : x < s.cal.units.length) (f : CalUnit → CalUnit) : (s.modUnit x f).unit x = f (s.unit x) := by
  unfold State.unit State.modUnit
  dsimp only
  rw [modAt_getElem?_self, List.getElem?_eq_getElem h]
  rfl

theorem modUnit_unit_of_ne (h : y ≠ x) (s : State) (f : CalUnit → CalUnit) : (s.modUnit x f).unit y = s.unit y :=
  congrArg (fun c : Option CalUnit => c.getD (CalUnit.reset 1 0)) (modAt_getElem?_of_ne f s.cal.units h)

theorem modUnit_units_length (s : State) (x : Nat) (f : CalUnit → CalUnit) : (s.modUnit x f).cal.units.length = s.cal.units.length :=
  modAt_length ..

end

theorem unit_of_cal {s t : State} (h : t.cal = s.cal) (x : Nat) : t.unit x = s.unit x := by
  unfold State.unit
  rw [h]

/-! ## A run that a command asks for -/

/-- The run falls due, the next in the commands' order. -/
def calAsked (x : Nat) (r : CalRun) (u : State) : State :=
  ({ u with cal := { u.cal with orderNext := u.cal.orderNext + 1 } } : State).modUnit x (fun c => { c with run := some r })

theorem calDue_of_free {u : State} {x : Nat} (free : (u.unit x).run = none) : ∃ r : CalRun, r.trigger = .command ∧ r.stage = .pending ∧
    u.calDue x CalTrigger.command 0 = calAsked x r u := by
  unfold State.calDue
  rw [free]
  exact ⟨_, rfl, rfl, rfl⟩

section
variable {u : State} {x : Nat} {r : CalRun}

theorem calAsked_unit_self (inside : x < u.cal.units.length) : ((calAsked x r u).unit x).run = some r :=
  congrArg CalUnit.run (modUnit_unit_self (s := { u with cal := { u.cal with orderNext := u.cal.orderNext + 1 } }) inside _)

theorem calAsked_unit_of_ne {y : Nat} (h : y ≠ x) : (calAsked x r u).unit y = u.unit y :=
  (modUnit_unit_of_ne h { u with cal := { u.cal with orderNext := u.cal.orderNext + 1 } } _).trans rfl

theorem calAsked_units_length : (calAsked x r u).cal.units.length = u.cal.units.length := modUnit_units_length ..

/-- The only run that is due starts. -/
theorem calStartAll_of_one {v : State} (hx : x < 5) (runs : ∀ y, y < 5 → (v.unit y).run = if y = x then some r else none) :
    v.calStartAll = v.calStart x := by
  have due : (List.range 5).filterMap (fun y => (v.unit y).run.map (fun r => (calKey y r, y))) = [(calKey x r, x)] := by
    rw [List.filterMap_congr (g := fun y => if y = x then some (calKey x r, x) else none) fun y mem => by
      rw [runs y (List.mem_range.1 mem)]
      by_cases same : y = x
      · rw [if_pos same, if_pos same, same]
        rfl
      · rw [if_neg same, if_neg same]
        rfl]
    interval_cases x <;> rfl
  unfold State.calStartAll
  dsimp only
  rw [due]
  rfl

theorem calAsked_runs (free : ∀ y, y < 6 → (u.unit y).run = none) (hx : x < 5) (units : u.cal.units.length = 6) :
    ∀ y, y < 5 → ((calAsked x r u).unit y).run = if y = x then some r else none := fun y hy => by
  by_cases same : y = x
  · rw [if_pos same, same]
    exact calAsked_unit_self (by omega)
  · rw [if_neg same, calAsked_unit_of_ne same]
    exact free y (by omega)

/-! ## Its start -/

theorem calGenerator_run {v : State} (inside : x < v.cal.units.length) (run : (v.unit x).run = some r) (via first : Bool) :
    (((v.calGenerator x via first).unit x).run.map CalRun.stage = some .settling) ∧
    (((v.calGenerator x via first).unit x).run.map CalRun.trigger = some r.trigger) := by
  unfold State.calGenerator
  rw [modUnit_unit_self inside]
  dsimp only
  rw [run]
  exact ⟨rfl, rfl⟩

theorem calStart_of_stopped {v : State} (hx : x < 4) (run : (v.unit x).run = some r) (pending : r.stage = .pending)
    (idle : v.cmdRun .conv x = false) : v.calStart x = v.calGenerator x false true := by
  unfold State.calStart
  rw [run]
  dsimp only
  rw [if_neg (fun h => h pending), if_neg (by omega), idle, if_pos (by rw [Bool.not_false, Bool.true_or])]

theorem calStart_of_running {v : State} (hx : x < 4) (run : (v.unit x).run = some r) (pending : r.stage = .pending)
    (runs : v.cmdRun .conv x = true) (good : v.failedConv x = false) (standin : v.failedConv 4 = false) (idle : v.standin.use = .idle)
    (none_ : (v.unit 4).run = none) : v.calStart x = v.calTake x := by
  have quiet : v.cal4Active = false := by
    unfold State.cal4Active
    rw [none_]
  unfold State.calStart
  rw [run]
  dsimp only
  rw [if_neg (fun h => h pending), if_neg (by omega), runs, good, if_neg (by decide), idle, if_neg (fun h => nomatch h), standin,
    if_neg (by decide)]
  dsimp only
  rw [quiet, if_neg (by decide)]

theorem calStart_of_standin {v : State} (run : (v.unit 4).run = some r) (pending : r.stage = .pending) (idle : v.standin.use = .idle) :
    v.calStart 4 = (v.modStandin (fun d => { d with conn := none, stage := .none })).calGenerator 4 false true := by
  unfold State.calStart
  rw [run]
  dsimp only
  rw [if_neg (fun h => h pending), if_pos rfl, idle]

theorem calTake_run {v : State} (inside : x < v.cal.units.length) (run : (v.unit x).run = some r) :
    ((v.calTake x).unit x).run.map CalRun.stage = some .matching := by
  have kept : ((v.standinConnect x (.take x true)).unit x).run = some r := run
  unfold State.calTake
  rw [modUnit_unit_self (s := v.standinConnect x (.take x true)) inside]
  dsimp only
  rw [kept]
  rfl

end

/-! ## CAL_RUN -/

section
variable {u : State} {d : Desc} {x : Nat}

/-- CAL_RUN of a converter whose unit is free. -/
theorem calRun_of_conv (ref : u.refOf d.object = some ⟨.conv, x⟩) (len : d.plen = 0 ∨ 32 ≤ d.plen.toNat)
    (free : (u.unit x).run = none)
    (allowed : (if x = 4 then u.standinCarries else u.cmdRun .conv x && !u.failedConv x && u.standinBusy) = false) :
    x < 5 ∧ cmdCalRun d u = { (u.calDue x CalTrigger.command 0).calStartAll.okCmd with wait := some (.cal x, true) } := by
  obtain ⟨kind, idx, inside⟩ := idRef_spec (idRef_of_refOf ref)
  change x < 5 at inside
  change idKind d.object = 11 at kind
  change idIdx d.object = x at idx
  have long : ¬(1 ≤ d.plen.toNat ∧ d.plen.toNat ≤ 31) := fun h => by
    obtain none_ | most := len
    · rw [none_] at h
      exact absurd h.1 (by decide)
    · omega
  refine ⟨inside, ?_⟩
  unfold cmdCalRun
  rw [kind, idx]
  dsimp only
  rw [show ((11 : Nat) == 0) = false from rfl, if_neg (by rw [Bool.false_and]; decide), if_neg long, if_neg (c := false = true) (by decide),
    if_neg (c := x = 5) (by omega), allowed, if_neg (by decide), free]
  dsimp only
  rw [if_neg (by omega)]

theorem calRun_of_device (kind : idKind d.object = 0) (unit : d.inlByte 0 = 0) (len : d.plen = 0 ∨ 32 ≤ d.plen.toNat)
    (free : (u.unit 5).run = none) (lo : u.loMode = true) (none_ : u.anyCarrier = false) :
    cmdCalRun d u = { (u.calDue 5 CalTrigger.command 0).txcalStart.okCmd with wait := some (.cal 5, true) } := by
  have long : ¬(1 ≤ d.plen.toNat ∧ d.plen.toNat ≤ 31) := fun h => by
    obtain none_ | most := len
    · rw [none_] at h
      exact absurd h.1 (by decide)
    · omega
  unfold cmdCalRun
  rw [kind, unit]
  dsimp only
  rw [if_neg (by decide), if_neg long, if_pos (c := ((0 : Nat) == 0) = true) rfl, if_pos rfl, lo, none_, if_neg (by rw [Bool.not_true, Bool.false_or, Bool.false_and]; decide), free]
  dsimp only
  rw [if_pos rfl]

theorem calPolicy_of_good {b : BitVec 64} (block : d.inl.extractLsb' 0 64 &&& tableMask 64 calFields = b)
    (good : firstFail (calChecks b) = none) : cmdCalPolicy d u = ({ u with cal := { u.cal with policy := b } } : State).okCmd := by
  unfold cmdCalPolicy
  rw [block]
  dsimp only
  rw [good]

theorem calPolicy_refused {b : BitVec 64} (block : d.inl.extractLsb' 0 64 &&& tableMask 64 calFields = b)
    (bad : (firstFail (calChecks b)).isSome = true) :
    (cmdCalPolicy d u).s = u ∧ (cmdCalPolicy d u).carry = [] ∧ (cmdCalPolicy d u).wait = none := by
  obtain ⟨f, found⟩ := Option.isSome_iff_exists.1 bad
  unfold cmdCalPolicy
  rw [block]
  dsimp only
  rw [found]
  exact ⟨rfl, rfl, rfl⟩

end

theorem standinBusy_of_idle {u : State} (good : u.failedConv 4 = false) (idle : u.standin.use = .idle) : u.standinBusy = false := by
  unfold State.standinBusy
  rw [good, idle]
  rfl

/-- The transmit path's run, started or still due, is the one that was asked for. -/
theorem txcalStart_trigger {v : State} {r : CalRun} (inside : 5 < v.cal.units.length) (run : (v.unit 5).run = some r) :
    ((v.txcalStart).unit 5).run.map CalRun.trigger = some r.trigger := by
  unfold State.txcalStart State.txcalCond
  extract_lets z w due
  have started : (w.unit 5).run.map CalRun.trigger = some r.trigger := by
    show ((State.unit (match (v.unit 5).run with | some r => _ | none => v) 5).run.map CalRun.trigger) = _
    rw [run]
    dsimp only
    split
    · have same : (if v.aloTx.isSet = true then v.aloTarget 1 v.aloTx.freqHz v.devId else v).cal = v.cal := by
        split
        · have only := aloTarget_tunesOnly v 1 v.aloTx.freqHz v.devId
          unfold tunesOnly at only
          rw [only]
        · rfl
      rw [modUnit_unit_self (by rw [same]; exact inside)]
      rfl
    · rw [run]
      rfl
  clear_value w
  rw [unit_of_cal (reportsOnly_cal (setCond_reportsOnly ..))]
  exact started

/-- What a CAL_RUN leaves that waits for its unit. -/
theorem calRun_completes {s : State} {d : Desc} {x : Nat} {v : State} {p : State → Prop} (accepted : s.accepted (withOp opCalRun d) = true)
    (result : cmdCalRun (withOp opCalRun d) (s.releaseEntry d.ring) = { v.okCmd with wait := some (.cal x, true) })
    (hp : ∀ t, v.hostOnly t → (∃ w, w ∈ t.host.waiting ∧ w.why = .cal x ∧ w.marked = true) → p (s.framed t)) : completes (.calRun d) s p :=
  completes_of_wait (c := .calRun d) rfl accepted result rfl rfl fun t waits => hp t waits.only waits.noted

theorem hostSideOnly_cal {s u v t : State} (h : { u with cal := v.cal } = v) (k : v.hostOnly t) :
    State.hostSideOnly (s.framed { u with cal := t.cal }) (s.framed t) := by
  rw [hostOnly_cal k, h]
  exact framed_hostSideOnly (hostSideOnly_of_hostOnly k)

theorem framed_unit_of_hostOnly {s v t : State} (k : v.hostOnly t) (x : Nat) : (s.framed t).unit x = v.unit x :=
  unit_of_cal (t := s.framed t) (s := v) (show t.cal = v.cal from hostOnly_cal k) x

theorem calibrationCommands : Rules.CalibrationCommands := by
  intro s d u
  refine ⟨?_, fun acc kind unit len units free lo none_ => ?_, ?_⟩
  · intro x acc ref len units free waits
    refine ⟨fun hx idle => ?_, fun hx runs good standin idle => ?_, fun hx idle carries => ?_⟩
    · obtain ⟨r, trigger, pending, asked⟩ := calDue_of_free (free x (by omega))
      obtain ⟨-, result⟩ := calRun_of_conv (d := withOp opCalRun d) ref len (free x (by omega))
        (by rw [if_neg (by omega), idle, Bool.false_and, Bool.false_and])
      have run : ((calAsked x r u).unit x).run = some r := calAsked_unit_self (by omega)
      rw [asked, calStartAll_of_one (r := r) (by omega) (calAsked_runs free (by omega) units), calStart_of_stopped hx run pending idle] at result
      refine calRun_completes acc result fun t only noted => ?_
      obtain ⟨stage, cause⟩ := calGenerator_run (v := calAsked x r u) (by rw [calAsked_units_length]; omega) run false true
      have unit := framed_unit_of_hostOnly (s := s) only x
      rw [unit]
      exact ⟨stage, cause.trans (congrArg some trigger), noted, hostSideOnly_cal (t := t) rfl only⟩
    · obtain ⟨r, trigger, pending, asked⟩ := calDue_of_free (free x (by omega))
      obtain ⟨-, result⟩ := calRun_of_conv (d := withOp opCalRun d) ref len (free x (by omega))
        (by rw [if_neg (by omega), standinBusy_of_idle standin idle, Bool.and_false])
      have run : ((calAsked x r u).unit x).run = some r := calAsked_unit_self (by omega)
      have rest : ((calAsked x r u).unit 4).run = none := by
        rw [calAsked_unit_of_ne (by omega)]
        exact free 4 (by omega)
      rw [asked, calStartAll_of_one (r := r) (by omega) (calAsked_runs free (by omega) units),
        calStart_of_running hx run pending runs good standin idle rest] at result
      refine calRun_completes acc result fun t only noted => ?_
      have stage := calTake_run (v := calAsked x r u) (by rw [calAsked_units_length]; omega) run
      have unit := framed_unit_of_hostOnly (s := s) only x
      rw [unit, framed_standin, hostOnly_standin only]
      exact ⟨stage, rfl, rfl, noted⟩
    · subst hx
      obtain ⟨r, trigger, pending, asked⟩ := calDue_of_free (free 4 (by omega))
      obtain ⟨-, result⟩ := calRun_of_conv (d := withOp opCalRun d) ref len (free 4 (by omega)) (by rw [if_pos rfl, carries])
      have run : ((calAsked 4 r u).unit 4).run = some r := calAsked_unit_self (by omega)
      rw [asked, calStartAll_of_one (r := r) (by omega) (calAsked_runs free (by omega) units), calStart_of_standin run pending idle] at result
      refine calRun_completes acc result fun t only noted => ?_
      obtain ⟨stage, -⟩ := calGenerator_run (v := (calAsked 4 r u).modStandin (fun d => { d with conn := none, stage := .none }))
        (show 4 < (calAsked 4 r u).cal.units.length by rw [calAsked_units_length]; omega) run false true
      have unit := framed_unit_of_hostOnly (s := s) only 4
      rw [unit, framed_standin, hostOnly_standin only]
      exact ⟨stage, rfl, noted⟩
  · obtain ⟨r, trigger, pending, asked⟩ := calDue_of_free free
    have result := calRun_of_device (d := withOp opCalRun d) kind unit len free lo none_
    have run : ((calAsked 5 r u).unit 5).run = some r := calAsked_unit_self (by omega)
    rw [asked] at result
    refine calRun_completes acc result fun t only noted => ?_
    have started := txcalStart_trigger (v := calAsked 5 r u) (by rw [calAsked_units_length]; omega) run
    rw [framed_unit_of_hostOnly (s := s) only 5]
    exact ⟨started.trans (congrArg some trigger), noted⟩
  · intro acc b
    refine ⟨fun good => ?_, fun bad => ?_⟩
    · exact completes_of_only (c := .calPolicy d) rfl acc (calPolicy_of_good (d := withOp opCalPolicy d) (b := b) rfl good) rfl rfl
    · exact completes_unchanged (c := .calPolicy d) (d := withOp opCalPolicy d) rfl acc rfl
        (calPolicy_refused (d := withOp opCalPolicy d) (b := b) rfl bad)

end Sys2Proof.Proofs
end

section
/-! PROOF. NVM_COMMIT, STORYBOARD_SET, LC_ADVANCE and WIPE (R380 to R385, R417, R457 to R461): O56. -/
namespace Sys2Proof.Proofs
open Sys2Proof Sys2Proof.Machine Sys2Proof.Laws

/-! ## Records -/

/-- A write that begins stands among the writes. -/
theorem beginWrite_writes (m : Mram) (id : Nat) (body : List Byte) :
    ∃ w, w ∈ (m.beginWrite id body).writes ∧ w.id = id ∧ w.body = body := by
  unfold Mram.beginWrite
  extract_lets w
  refine ⟨w, List.mem_cons_self, ?_⟩
  show NvmWrite.id (match m.inUse id with | some (g, _, isA) => _ | none => _) = id ∧
    NvmWrite.body (match m.inUse id with | some (g, _, isA) => _ | none => _) = body
  split <;> exact ⟨rfl, rfl⟩

/-- The write of a record begins or waits for the earlier ones; the memory alone changes. -/
theorem nvmStart_spec (u : State) (id : Nat) (body : List Byte) : u.nvmStart id body = { u with mram := (u.nvmStart id body).mram } ∧
    ∃ w, w ∈ (u.nvmStart id body).mram.writes ∧ w.id = id ∧ w.body = body := by
  unfold State.nvmStart
  split
  · exact ⟨rfl, _, List.mem_append_right _ (List.mem_singleton.2 rfl), rfl, rfl⟩
  · exact ⟨rfl, beginWrite_writes ..⟩

theorem nvmCommit_of_good {u : State} {d : Desc} (usable : u.fuses.lcState ≠ 3) (least : 1 ≤ d.inlByte 0) (most : d.inlByte 0 ≤ 5)
    (object : recordAlo (d.inlByte 0) = (idKind d.object == Kind.alo.code)) (len : d.plen.toNat = recordLen (d.inlByte 0))
    (good : recordBad (d.inlByte 0) d.bytes = none) :
    cmdNvmCommit d u = { (u.nvmStart (recordId (d.inlByte 0) (idIdx d.object)) (u.recordBody (d.inlByte 0) (idIdx d.object) d.bytes)).okCmd with
      wait := some (.nvm (recordId (d.inlByte 0) (idIdx d.object)), false) } := by
  unfold cmdNvmCommit
  dsimp only
  rw [if_neg (by omega), if_neg (fun h => h object), if_neg usable, if_neg (fun h => h len), good]

theorem hostSideOnly_mram {s u v t : State} (h : v = { u with mram := v.mram }) (k : v.hostOnly t) :
    State.hostSideOnly (s.framed { u with mram := t.mram }) (s.framed t) := by
  rw [hostOnly_mram k, ← h]
  exact framed_hostSideOnly (hostSideOnly_of_hostOnly k)

/-! ## Images -/

theorem objectOk_modSb (u : State) (f : Storyboard → Storyboard) (op : Nat) (i : Id) : (u.modSb f).objectOk op i = u.objectOk op i := rfl

theorem entryDescBad_modSb (u : State) (f : Storyboard → Storyboard) (d : Desc) (tail : List Byte) :
    (u.modSb f).entryDescBad d tail = u.entryDescBad d tail := by
  unfold State.entryDescBad
  dsimp only
  rw [objectOk_modSb]

theorem entryBad_modSb (u : State) (f : Storyboard → Storyboard) (im : List Byte) (o : Nat) :
    (u.modSb f).entryBad im o = u.entryBad im o := by
  unfold State.entryBad
  dsimp only
  rw [entryDescBad_modSb]

theorem entriesBad_modSb (u : State) (f : Storyboard → Storyboard) (im : List Byte) (n o : Nat) :
    (u.modSb f).entriesBad im n o = u.entriesBad im n o := by
  induction n generalizing o with
  | zero => rfl
  | succ n ih =>
    unfold State.entriesBad
    rw [entryBad_modSb, ih]

/-- The checks of an image do not read the Storyboard. -/
theorem imageBad_modSb (u : State) (f : Storyboard → Storyboard) (im : List Byte) : (u.modSb f).imageBad im = u.imageBad im := by
  unfold State.imageBad
  dsimp only
  rw [entriesBad_modSb]

/-- The Storyboard with a chunk staged. -/
def staged (im : List Byte) (total : Nat) (u : State) : State := u.modSb (fun b => { b with staged := im, stagedTotal := total })

/-- What a chunk continues. -/
def heldImage (e : Desc) (u : State) : List Byte := if e.inlAt 4 4 = 0 then [] else u.host.sb.staged

section
variable {u : State} {e : Desc}

theorem stageChunk_of_next (next : e.inlAt 4 4 = (heldImage e u).length) (total : e.inlAt 4 4 = 0 ∨ e.inlAt 8 4 = u.host.sb.stagedTotal)
    (whole : (e.inlByte 1).testBit 0 = true → (heldImage e u).length + e.bytes.length = e.inlAt 8 4) :
    stageChunk u.host.sb (e.inlAt 4 4) (e.inlAt 8 4) ((e.inlByte 1).testBit 0) e.bytes = .ok (heldImage e u ++ e.bytes) := by
  unfold stageChunk
  dsimp only
  rw [show (if e.inlAt 4 4 = 0 then [] else u.host.sb.staged) = heldImage e u from rfl, if_neg (fun h => h next),
    if_neg (fun h => total.elim h.1 h.2)]
  refine if_neg fun bad => ?_
  rw [Bool.and_eq_true, bne_iff_ne] at bad
  exact bad.2 (whole bad.1)

theorem sbStage_of_chunk (usable : u.fuses.lcState ≠ 3) (most : e.inlAt 8 4 ≤ 163840) (next : e.inlAt 4 4 = (heldImage e u).length)
    (total : e.inlAt 4 4 = 0 ∨ e.inlAt 8 4 = u.host.sb.stagedTotal) (more : (e.inlByte 1).testBit 0 = false) (store : Bool) :
    u.sbStage e store = (staged (heldImage e u ++ e.bytes) (e.inlAt 8 4) u).okCmd := by
  have chunk := stageChunk_of_next next total (fun last => by rw [more] at last; exact nomatch last)
  unfold State.sbStage
  dsimp only
  rw [if_neg usable, if_neg (Nat.not_lt_of_le most), chunk]
  dsimp only
  rw [more, if_pos (by rfl)]
  rfl

theorem sbStage_of_last (usable : u.fuses.lcState ≠ 3) (most : e.inlAt 8 4 ≤ 163840) (next : e.inlAt 4 4 = (heldImage e u).length)
    (total : e.inlAt 4 4 = 0 ∨ e.inlAt 8 4 = u.host.sb.stagedTotal) (last : (e.inlByte 1).testBit 0 = true)
    (whole : (heldImage e u).length + e.bytes.length = e.inlAt 8 4) (good : u.imageBad (heldImage e u ++ e.bytes) = none) (store : Bool) :
    u.sbStage e store = (if store then
      (staged (heldImage e u ++ e.bytes) (e.inlAt 8 4) u).nvmStart idStoryboard (heldImage e u ++ e.bytes)
      else staged (heldImage e u ++ e.bytes) (e.inlAt 8 4) u).okCmd := by
  have chunk := stageChunk_of_next next total (fun _ => whole)
  unfold State.sbStage
  dsimp only
  rw [if_neg usable, if_neg (Nat.not_lt_of_le most), chunk]
  dsimp only
  rw [last, if_neg (by decide), imageBad_modSb, good]
  rfl

end

/-- The staged image, in the memory or not. -/
theorem stored_spec (u : State) (im : List Byte) (total : Nat) (store : Bool) {v : State}
    (h : (if store then (staged im total u).nvmStart idStoryboard im else staged im total u) = v) :
    v.host.sb.staged = im ∧ v.mram = (if store then (u.nvmStart idStoryboard im).mram else u.mram) ∧
    State.hostSideOnly { u with mram := v.mram } v := by
  cases store
  · subst h
    exact ⟨rfl, rfl, rfl⟩
  · obtain ⟨only, -⟩ := nvmStart_spec (staged im total u) idStoryboard im
    have mram := nvmStart_mram_congr (s := u) (t := staged im total u) rfl idStoryboard im
    rw [if_pos rfl] at h
    rw [h] at only mram
    refine ⟨?_, mram.symm.trans rfl, ?_⟩
    · rw [only]
      rfl
    · generalize v.mram = m at *
      rw [only]
      rfl

theorem hostSideOnly_mram_of_completionOnly {s u v t : State} (h : State.hostSideOnly { u with mram := v.mram } v) (k : v.completionOnly t) :
    State.hostSideOnly (s.framed { u with mram := t.mram }) (s.framed t) := by
  have same : t.mram = v.mram := by
    unfold State.completionOnly at k
    rw [k]
  rw [same]
  exact framed_hostSideOnly (hostSideOnly_trans h (hostSideOnly_of_completionOnly k))

theorem sb_of_completionOnly {v t : State} (k : v.completionOnly t) : t.host.sb = v.host.sb ∧ t.mram = v.mram := by
  unfold State.completionOnly at k
  rw [k]
  exact ⟨rfl, rfl⟩

theorem stagesImage_of_run {s : State} {d : Desc} {c : Instr} {m : Nat} {store : Bool} (usable : (s.releaseEntry d.ring).fuses.lcState ≠ 3)
    (desc : hostDesc c = some (withMode opStoryboard m d))
    (run : (s.releaseEntry d.ring).runOp (withMode opStoryboard m d) (withMode opStoryboard m d).opcode.toNat =
      (s.releaseEntry d.ring).sbStage (withMode opStoryboard m d) store) : Rules.stagesImage s d c m store := by
  intro acc most next total
  let u := s.releaseEntry d.ring
  refine ⟨fun more => ?_, fun last whole good => ?_⟩
  · have result := run.trans (sbStage_of_chunk (e := withMode opStoryboard m d) usable most next total more store)
    refine completes_of_result desc acc result rfl rfl fun t done_ => ?_
    exact ⟨(sb_of_completionOnly done_.only).1,
      hostSideOnly_of_group (v := staged (heldImage (withMode opStoryboard m d) u ++ d.bytes) ((withMode opStoryboard m d).inlAt 8 4) u) (t := t) rfl done_.only⟩
  · have result := run.trans (sbStage_of_last (e := withMode opStoryboard m d) usable most next total last whole good store)
    refine completes_of_result desc acc result rfl rfl fun t done_ => ?_
    obtain ⟨image, mram, frame⟩ := stored_spec u (heldImage (withMode opStoryboard m d) u ++ d.bytes)
      ((withMode opStoryboard m d).inlAt 8 4) store rfl
    obtain ⟨sb, same⟩ := sb_of_completionOnly done_.only
    exact ⟨(congrArg Storyboard.staged sb).trans image, same.trans mram, hostSideOnly_mram_of_completionOnly (t := t) frame done_.only⟩

theorem sbStatus_length (u : State) : u.sbStatus.length = 32 := by
  unfold State.sbStatus
  simp [leBytes_length, zeros]

theorem storyboard_mode {u : State} (m : Nat) (hm : m < 256) (d : Desc) :
    u.runOp (withMode opStoryboard m d) (withMode opStoryboard m d).opcode.toNat = cmdStoryboard (withMode opStoryboard m d) u ∧
    (withMode opStoryboard m d).inlByte 0 = m := ⟨rfl, inlByte_withMode _ hm d⟩

theorem storyboard_of_mode {u : State} {d : Desc} {m : Nat} (mode : d.inlByte 0 = m) :
    (m = 0 → cmdStoryboard d u = u.sbStage d true) ∧ (m = 1 → cmdStoryboard d u = cmdStoryboardClear d u) ∧
    (m = 2 → cmdStoryboard d u = cmdStoryboardStatus d u) ∧ (m = 3 → cmdStoryboard d u = u.sbStage d false) := by
  unfold cmdStoryboard
  rw [mode]
  exact ⟨fun h => by rw [h]; rfl, fun h => by rw [h]; rfl, fun h => by rw [h]; rfl, fun h => by rw [h]; rfl⟩

theorem storageCommands : Rules.StorageCommands := by
  intro s d u usable
  refine ⟨?_, ?_, ?_, fun acc => ?_, fun acc room => ?_⟩
  · intro k acc least most object len good
    have result := nvmCommit_of_good (d := withOp opNvmCommit d) usable least most object len good
    obtain ⟨only, written⟩ := nvmStart_spec u (recordId k (idIdx d.object)) (u.recordBody k (idIdx d.object) d.bytes)
    refine completes_of_wait (c := .nvmCommit d) rfl acc result rfl rfl fun t waits => ?_
    obtain ⟨w, mem, why, -⟩ := waits.noted
    have mram : t.mram = (u.nvmStart (recordId k (idIdx d.object)) (u.recordBody k (idIdx d.object) d.bytes)).mram := hostOnly_mram waits.only
    rw [framed_mram, mram]
    refine ⟨rfl, written, ⟨w, mem, why⟩, ?_⟩
    rw [← mram]
    exact hostSideOnly_mram (t := t) only waits.only
  · obtain ⟨run, mode⟩ := storyboard_mode (u := u) 0 (by decide) d
    exact stagesImage_of_run usable rfl (run.trans ((storyboard_of_mode mode).1 rfl))
  · obtain ⟨run, mode⟩ := storyboard_mode (u := u) 3 (by decide) d
    exact stagesImage_of_run usable rfl (run.trans ((storyboard_of_mode mode).2.2.2 rfl))
  · obtain ⟨run, mode⟩ := storyboard_mode (u := u) 1 (by decide) d
    have result := run.trans (((storyboard_of_mode mode).2.1 rfl).trans (if_neg usable))
    exact completes_of_only (c := .storyboardClear d) rfl acc result rfl rfl
  · obtain ⟨run, mode⟩ := storyboard_mode (u := u) 2 (by decide) d
    have result := run.trans (((storyboard_of_mode mode).2.2.1 rfl).trans ((if_neg usable).trans (if_neg (Nat.not_lt_of_le room))))
    refine completes_of_result (c := .storyboardStatus d) rfl acc result rfl rfl fun t done_ => ⟨framed_completionOnly done_.only, ?_⟩
    rw [framed_host, okData_bufOut (by rw [sbStatus_length]; exact room) (ne_nil_of_length (sbStatus_length u)) done_, releaseEntry_bufOut]
    rfl

/-! ## The life cycle -/

section
variable {u : State} {d : Desc}

theorem lcAdvance_of_good (step : lcStepOk u.fuses.lcState (d.inlByte 0) = true) (serial : u.serialOk d = true)
    (len : d.plen.toNat = lcLen (d.inlByte 0)) (key : d.inlByte 0 = 1 → leNat d.bytes ≠ 0)
    (token : d.inlByte 0 = 3 → u.tokenOk d.bytes = true) : cmdLcAdvance d u =
      ({ u with lcPending := some ⟨d.inlByte 0, if d.inlByte 0 = 1 then blockOf 256 d.bytes else u.fuses.keyO⟩ } : State).okCmd := by
  unfold cmdLcAdvance
  dsimp only
  rw [step, serial, if_neg (by decide), if_neg (by decide), if_neg (fun h => h len), if_neg (fun h => key h.1 h.2),
    if_neg (fun h => by rw [token h.1] at h; exact nomatch h.2)]

theorem lcAdvance_refused (bad : lcStepOk u.fuses.lcState (d.inlByte 0) = false ∨ u.serialOk d = false ∨
      (d.inlByte 0 = 3 ∧ u.tokenOk d.bytes = false)) :
    (cmdLcAdvance d u).s = u ∧ (cmdLcAdvance d u).carry = [] ∧ (cmdLcAdvance d u).wait = none := by
  unfold cmdLcAdvance
  extract_lets k
  split
  · exact ⟨rfl, rfl, rfl⟩
  next step =>
    split
    · exact ⟨rfl, rfl, rfl⟩
    next serial =>
      split
      · exact ⟨rfl, rfl, rfl⟩
      · split
        · exact ⟨rfl, rfl, rfl⟩
        · rw [if_pos]
          · exact ⟨rfl, rfl, rfl⟩
          · obtain h | h | h := bad
            · exact absurd (by rw [show lcStepOk u.fuses.lcState k = false from h]; rfl) step
            · exact absurd (by rw [h]; rfl) serial
            · exact h

/-- The run of the overwrite that a WIPE notes. -/
def wipeNoted (d : Desc) (u : State) : WipeRun :=
  let old : WipeRun := u.wipeRun.getD ⟨false, false, false⟩
  ⟨old.profile || (d.inlByte 0).testBit 0, old.records || (d.inlByte 0).testBit 1, old.reset || (d.inlByte 1).testBit 0⟩

/-- The state that WIPE leaves. -/
def regionsWiped (d : Desc) (u : State) : State :=
  { u with
    mram := u.mram.wipe ((if (d.inlByte 0).testBit 0 then profileIds else []) ++ (if (d.inlByte 0).testBit 1 then recordIds else []))
    wipeRun := some (wipeNoted d u) }

theorem wipe_of_serial (named : (d.inlByte 0).testBit 0 = true ∨ (d.inlByte 0).testBit 1 = true) (serial : u.serialOk d = true) :
    cmdWipe d u = (regionsWiped d u).okCmd := by
  unfold cmdWipe
  dsimp only
  rw [serial, if_neg (by
    rw [Bool.and_eq_true, Bool.not_eq_true', Bool.not_eq_true']
    exact fun h => named.elim (fun n => by rw [n] at h; exact nomatch h.1) fun n => by rw [n] at h; exact nomatch h.2), if_neg (by decide)]
  rfl

theorem wipe_refused (bad : ((d.inlByte 0).testBit 0 = false ∧ (d.inlByte 0).testBit 1 = false) ∨ u.serialOk d = false) :
    (cmdWipe d u).s = u ∧ (cmdWipe d u).carry = [] ∧ (cmdWipe d u).wait = none := by
  unfold cmdWipe
  extract_lets regions profile records old
  split
  · exact ⟨rfl, rfl, rfl⟩
  next named =>
    rw [if_pos]
    · exact ⟨rfl, rfl, rfl⟩
    · obtain ⟨h, k⟩ | h := bad
      · exact absurd (by rw [show profile = false from h, show records = false from k]; rfl) named
      · rw [h]
        rfl

end

/-- The records left are those of no named region. -/
theorem wipe_recs_of_regions (m : Mram) (a b : Bool) :
    (m.wipe ((if a then profileIds else []) ++ (if b then recordIds else []))).recs =
      m.recs.filter (fun r => !((a && profileIds.contains r.1) || (b && recordIds.contains r.1))) := by
  refine List.filter_congr fun r _ => congrArg not ?_
  rw [List.contains_append]
  cases a <;> cases b <;> rfl

theorem completionOnly_wipe {s u v t : State} (h : v = { u with mram := v.mram, wipeRun := v.wipeRun }) (k : v.completionOnly t) :
    State.completionOnly (s.framed { u with mram := t.mram, wipeRun := t.wipeRun }) (s.framed t) := by
  have same : t.mram = v.mram ∧ t.wipeRun = v.wipeRun := by
    unfold State.completionOnly at k
    rw [k]
    exact ⟨rfl, rfl⟩
  rw [same.1, same.2, ← h]
  exact framed_completionOnly k

theorem lifeCycleCommands : Rules.LifeCycleCommands := by
  intro s d u
  refine ⟨?_, ?_⟩
  · intro acc k
    refine ⟨fun step serial len key token => ?_, fun bad => ?_⟩
    · exact completes_of_only (c := .lcAdvance d) rfl acc (lcAdvance_of_good (d := withOp opLcAdvance d) step serial len key token) rfl rfl
    · exact completes_unchanged (c := .lcAdvance d) (d := withOp opLcAdvance d) rfl acc rfl
        (lcAdvance_refused (d := withOp opLcAdvance d) bad)
  · intro acc a b
    refine ⟨fun named serial => ?_, fun bad => ?_⟩
    · refine completes_of_result (c := .wipe d) rfl acc (wipe_of_serial (d := withOp opWipe d) named serial) rfl rfl fun t done_ => ?_
      have only : (regionsWiped (withOp opWipe d) u).completionOnly t := done_.only
      have frame := completionOnly_wipe (s := s) (u := u) rfl only
      unfold State.completionOnly at only
      have mram := (congrArg (fun s : State => s.mram.recs) only).trans (wipe_recs_of_regions u.mram a b)
      have run : t.wipeRun = some (wipeNoted (withOp opWipe d) u) := (congrArg (fun s : State => s.wipeRun) only).trans rfl
      refine ⟨mram, ⟨_, run, fun h => ?_, fun h => ?_, fun h => ?_⟩, frame⟩
      · exact (congrArg (fun x => _ || x) h).trans (Bool.or_true _)
      · exact (congrArg (fun x => _ || x) h).trans (Bool.or_true _)
      · exact (congrArg (fun x => _ || x) h).trans (Bool.or_true _)
    · exact completes_unchanged (c := .wipe d) (d := withOp opWipe d) rfl acc rfl (wipe_refused (d := withOp opWipe d) bad)

/-- Settles O56: Rules.CalibrationCommands, Rules.StorageCommands and Rules.LifeCycleCommands, proved above. -/
theorem serviceCommands : Obligations.ServiceCommands := ⟨calibrationCommands, storageCommands, lifeCycleCommands⟩

end Sys2Proof.Proofs
end
